-- ==== Sys2Proof/Word.lean ====
section
/-! DEFINITION. The widths the manual speaks in: bytes, register words, register pairs, parcels. -/

namespace Sys2Proof

/-- One byte. -/
abbrev Byte := BitVec 8

/-- One register word (R455: registers are 32 bits wide). -/
abbrev Word := BitVec 32

/-- One 64-bit value: a scalar register, a tide time, a register pair. -/
abbrev Dword := BitVec 64

/-- The 256-byte payload of a parcel, byte `i` in bits `8i+7 … 8i` (little-endian, R7). -/
abbrev Parcel := BitVec 2048

/-- A device physical address while it is computed (R21: 52 bits). -/
abbrev Addr := BitVec 52

/-- The byte at offset `i` of a little-endian value. -/
def byteAt {w : Nat} (x : BitVec w) (i : Nat) : Byte := x.extractLsb' (8 * i) 8

/-- The field of `n` bits from bit `lo` on. -/
def field {w : Nat} (x : BitVec w) (lo n : Nat) : BitVec n := x.extractLsb' lo n

/-- Replace the `n` bits from bit `lo` on. -/
def setField {w n : Nat} (x : BitVec w) (lo : Nat) (v : BitVec n) : BitVec w :=
  (x &&& ~~~((BitVec.allOnes n).setWidth w <<< lo)) ||| (v.setWidth w <<< lo)

/-- Set or clear one bit. -/
def setBit {w : Nat} (x : BitVec w) (i : Nat) (b : Bool) : BitVec w :=
  setField x i (BitVec.ofBool b)

/-- The bytes of a list as one little-endian number: the first byte is the least significant. -/
def bytesToNat : List Byte → Nat
  | [] => 0
  | b :: r => b.toNat + 256 * bytesToNat r

/-- The low `n` bytes of a number, least significant first. -/
def natToBytes : Nat → Nat → List Byte
  | 0, _ => []
  | n + 1, x => BitVec.ofNat 8 x :: natToBytes n (x / 256)

end Sys2Proof
end

