-- ==== Sys2Proof/Syntax.lean ====
section
/-! DEFINITION. The commands of the module: one constructor per row of the opcode table. -/

namespace Sys2Proof

/-! Names of units. -/

/-- A logical core: compute die, pier, core (R21). -/
structure CoreId where
  die  : Fin 12
  pier : Fin 48
  core : Fin 16
  deriving DecidableEq, Repr

def CoreId.c (i : CoreId) : Nat := i.die.val
def CoreId.p (i : CoreId) : Nat := i.pier.val
def CoreId.k (i : CoreId) : Nat := i.core.val

/-- A physical core site; site 16 is the spare (R65). -/
structure SiteId where
  die  : Fin 12
  pier : Fin 48
  site : Fin 17
  deriving DecidableEq, Repr

/-- A tug of a pier (R65). -/
structure TugId where
  die  : Fin 12
  pier : Fin 48
  tug  : Fin 2
  deriving DecidableEq, Repr

/-- A register number of an instruction word (R85). -/
abbrev Reg := BitVec 5

/-- A format code of an instruction word (R29). -/
abbrev Fmt := BitVec 3

/-- A register of a core that carries parity (R58). -/
inductive RegRef where
  | scalar (r : Reg)
  | vector (r : Reg)
  | accum (a : Fin 4)
  | weight (w : Fin 2)
  deriving DecidableEq, Repr

/-- One parity bit (R58): of a 32-bit word of a register, numbered from its low end; of an accumulator, element (row, column) is
word 32·row + column. -/
structure ParityBit where
  reg  : RegRef
  word : Fin 1024
  deriving DecidableEq, Repr

/-- The requesters of register space (R455). -/
inductive Requester where
  | firmware
  | pilot
  | management
  | telemetry
  deriving DecidableEq, Repr

/-- What a register write meets in the cycle in which it is applied (R469). -/
inductive WriteTiming where
  /-- No hardware update meets the write. -/
  | alone
  /-- A hardware update reaches the same register in the same cycle. A CNT register counts one event, a LOG register
  meets the capture of `value`, an SH register takes `value` from the hardware. -/
  | collides (value : Word)
  deriving DecidableEq, Repr

/-- Who asks an HBM controller for a parcel (R198: the source of a record). -/
inductive MemSource where
  | tug
  | pilot
  | scrubber
  | guest
  deriving DecidableEq, Repr

/-- Where a scrubber reads (R195): the next parcel of a stack, or the next word of the SRAM of a die. -/
inductive ScrubTarget where
  | hbm (m : Fin 16)
  | sram (slot : Fin 41)
  deriving DecidableEq, Repr

/-- A waiter on a bollard: each core and each tug has one watch slot (R138). -/
inductive Waiter where
  | core (c : CoreId)
  | tug (t : TugId)
  deriving DecidableEq, Repr

/-- A Quayline endpoint: the register slot of its die (0 the hub, 1–6 the base dies) and its number u (R474, R475). -/
structure LinkId where
  slot : Fin 7
  u    : Fin 64
  deriving DecidableEq, Repr

/-- Endpoints are numbered slot·64 + u. -/
def LinkId.key (l : LinkId) : Nat := l.slot.val * 64 + l.u.val

/-- The fields of a parcel header that a receiver acts on (R243). -/
structure Hdr where
  /-- TYPE as received. -/
  ty     : BitVec 4
  vc     : BitVec 2
  cvc    : BitVec 2
  len    : BitVec 6
  poison : Bool
  report : Bool
  seq    : BitVec 16
  ack    : BitVec 16
  credit : Word
  dev    : BitVec 4
  addr   : BitVec 44
  deriving DecidableEq, Repr

/-- ACTION of a MARK (R237). -/
inductive MarkAction where
  | remove
  | add
  | setWidth
  deriving DecidableEq, Repr

/-- What a receiving lane found in one round (R237, R238): the sync headers and the types of its control blocks, the parity
of its 32 blocks as received, PARITY and ROUND of the TALLY in the 33rd place, if there is one, the ROUND before, and whether
it has signal and clock lock and no lane-fatal request. -/
structure LaneRound where
  lane    : Byte
  headers : List (BitVec 2)
  types   : List Byte
  parity  : BitVec 32
  tally   : Option (BitVec 32 × BitVec 24)
  prev    : BitVec 24
  signal  : Bool
  deriving DecidableEq, Repr

/-- What a training lane shows at its receiver (R239, R260): the identity record of its TRAIN blocks, and its skew in blocks
against the lanes of its direction. -/
structure TrainRx where
  ident  : Dword
  dev    : Byte
  engine : Byte
  lane   : Byte
  skew   : BitVec 16
  deriving DecidableEq, Repr

/-- Why a lane stays out (R259): this endpoint, which sends on it, has no spare left, or the far end says so in a LANE_OUT
message. -/
inductive LaneOut where
  | here (lane : Byte)
  | message (h : Hdr) (payload : Parcel) (check : Word)
  deriving DecidableEq, Repr

/-- A place whose monitor sees light, or none (R334): a receive place, or the transmit place of an electrical lane. -/
inductive LightAt where
  | rx (place : Fin 306)
  | tx (lane : Byte)
  deriving DecidableEq, Repr

/-- One reading of a temperature channel (R413, R414): a value in 0.25 °C, an open or a short, or no sample in its
millisecond (R28). -/
inductive Reading where
  | value (quarters : BitVec 11)
  | open
  | short
  | missed
  deriving DecidableEq, Repr

/-- A pilot message (R367). -/
structure PMsg where
  ty    : Byte
  flags : Byte
  tag   : Word
  addr  : Dword
  body  : List Byte
  deriving DecidableEq, Repr

/-- A pilot datagram (R366); `fromDevice` is DIR. -/
structure Dgram where
  dev        : BitVec 4
  fromDevice : Bool
  session    : BitVec 16
  seq        : Word
  ack        : Word
  msgs       : List PMsg
  deriving DecidableEq, Repr

/-- An IP address, its byte 0 in the low bits, as PL_IP4 and PL_IP6i hold it (R385). -/
inductive IpAddr where
  | v4 (a : Word)
  | v6 (a : BitVec 128)
  deriving DecidableEq, Repr

/-- The UDP checksum of a datagram as received (R364). -/
inductive UdpSum where
  | good
  | zero
  | bad
  deriving DecidableEq, Repr

/-- The frame around a pilot datagram (R364, R366). -/
structure EthFrame where
  mac   : BitVec 48                       -- destination
  tags  : List (BitVec 12 × BitVec 3)     -- VID and PCP of its IEEE 802.1Q tags
  bytes : Nat                             -- its length
  src   : IpAddr
  dst   : IpAddr
  plain : Bool                            -- no IPv4 option, no fragment, no IPv6 extension header
  port  : BitVec 16                       -- UDP destination port
  sum   : UdpSum
  magic : BitVec 24                       -- MAGIC and VERSION
  resv  : BitVec 3                        -- DEV[6:4]
  deriving DecidableEq, Repr

/-- The transports of the SPDM responder (R447). -/
inductive Transport where
  | mctp
  | pilot
  deriving DecidableEq, Repr

/-- A region of the module NOR, or a record in one (R432). -/
inductive NorPlace where
  | directory
  | firmware (slot : Fin 2)
  | inst (copy : Fin 2)
  | ownerKey (slot : Fin 4)
  | certificates
  | manufacturing
  | lmsSector (sector : Fin 16)
  | calibration (ty : Fin 10) (slot : Fin 41) (copy : Fin 2)
  deriving DecidableEq, Repr

/-- What the self-test of a pier finds (R79, R274): its port fails, or these sites do. -/
inductive SiteTest where
  | port
  | sites (bad : BitVec 17)
  deriving DecidableEq, Repr

/-- The start-up test of the bundle that a bundle pair's end receives (R277): physical lanes P0–P67 that fail, and the bit
errors counted. -/
structure LaneTest where
  slot   : Fin 41
  pair   : Fin 32
  bad    : BitVec 68
  errors : Word
  deriving DecidableEq, Repr

/-- What the module's surroundings and its parts do during a start-up (R429–R431). -/
structure Boot where
  /-- The stage at which the sequence has arrived; 8 when it is complete. -/
  upTo     : Fin 9
  /-- Feed voltages in 0.1 V. -/
  va       : BitVec 10
  vb       : BitVec 10
  v1p8Ok   : Bool
  pllOk    : Bool
  norOk    : Bool
  /-- The half A or B of the harbourmaster complex, and of the beacon, that fails its self-test (R389). -/
  halfBad  : Option Bool
  driverBad : Option Bool
  /-- What stands in the NOR otherwise than the module left it: placed there at manufacture, or decayed since (R354, R432). -/
  norFound : List (NorPlace × List Byte)
  /-- Dies that do not leave reset, and dies whose straps read a code outside their type's range (R273). -/
  deadDies : List (Fin 41)
  badStraps : List (Fin 41 × BitVec 6)
  /-- Bundles with errors in the start-up test. -/
  laneBad  : List LaneTest
  /-- Stacks that fail training (R150). -/
  stackBad : List (Fin 16)
  /-- Piers that fail the self-test. -/
  bist     : List (Fin 12 × Fin 48 × SiteTest)
  /-- Laser sides that do not reach power: chiplet, side (R431). -/
  sideBad  : List (Fin 8 × Bool)
  /-- Home-line results: fibre pairs failing, by engine, and loop delays (R319). -/
  homeBad  : List (Fin 8 × BitVec 17)
  homeDelay : List (Fin 8 × Fin 17 × BitVec 16)
  /-- Datacentre time, on a tide master that holds it (R118). -/
  tdSet    : Option Dword
  /-- Duration in ms. -/
  millis   : Word
  deriving DecidableEq, Repr

/-- One constructor per row of spec/opcode_table.json. -/
inductive Instr where
  -- Cores: fetch and slot 0
  /-- INSTRUCTION_FETCH: the core fetches its next bundle. `upset` names the words of registers that have been upset since. -/
  | instructionFetch (c : CoreId) (upset : List ParityBit)
  | nop (c : CoreId) (slot : Fin 2)
  | add (c : CoreId) (d a b : Reg)
  | sub (c : CoreId) (d a b : Reg)
  | and (c : CoreId) (d a b : Reg)
  | or (c : CoreId) (d a b : Reg)
  | xor (c : CoreId) (d a b : Reg)
  | shl (c : CoreId) (d a b : Reg)
  | shr (c : CoreId) (d a b : Reg)
  | sar (c : CoreId) (d a b : Reg)
  | mul (c : CoreId) (d a b : Reg)
  | cmpeq (c : CoreId) (d a b : Reg)
  | cmplt (c : CoreId) (d a b : Reg)
  | cmpltu (c : CoreId) (d a b : Reg)
  | addi (c : CoreId) (d a : Reg) (imm : Word)
  | andi (c : CoreId) (d a : Reg) (imm : Word)
  | ori (c : CoreId) (d a : Reg) (imm : Word)
  | xori (c : CoreId) (d a : Reg) (imm : Word)
  | shli (c : CoreId) (d a : Reg) (imm : Word)
  | shri (c : CoreId) (d a : Reg) (imm : Word)
  | sari (c : CoreId) (d a : Reg) (imm : Word)
  | insh (c : CoreId) (d a : Reg) (imm : Word)
  | cmpeqi (c : CoreId) (d a : Reg) (imm : Word)
  | cmplti (c : CoreId) (d a : Reg) (imm : Word)
  | fadd (c : CoreId) (d a b : Reg)
  | fsub (c : CoreId) (d a b : Reg)
  | fmul (c : CoreId) (d a b : Reg)
  | fma (c : CoreId) (d a b : Reg)
  | fmin (c : CoreId) (d a b : Reg)
  | fmax (c : CoreId) (d a b : Reg)
  | fcmplt (c : CoreId) (d a b : Reg)
  | icvtf (c : CoreId) (d a : Reg)
  | fcvti (c : CoreId) (d a : Reg)
  | beq (c : CoreId) (a b : Reg) (imm : Word)
  | bne (c : CoreId) (a b : Reg) (imm : Word)
  | blt (c : CoreId) (a b : Reg) (imm : Word)
  | bltu (c : CoreId) (a b : Reg) (imm : Word)
  | jmp (c : CoreId) (imm : Word)
  | jal (c : CoreId) (d : Reg) (imm : Word)
  | jr (c : CoreId) (a : Reg)
  | endVoyage (c : CoreId)
  | endRetire (c : CoreId)
  | tide (c : CoreId) (d : Reg)
  | csrr (c : CoreId) (d : Reg) (imm : Word)
  | ld (c : CoreId) (d a : Reg) (imm : Word)
  | lw (c : CoreId) (d a : Reg) (imm : Word)
  | sd (c : CoreId) (a b : Reg) (imm : Word)
  | sw (c : CoreId) (a b : Reg) (imm : Word)
  | bsig (c : CoreId) (a b : Reg) (imm : Word)
  | bwait (c : CoreId) (a b : Reg) (imm : Word)
  | bread (c : CoreId) (d a : Reg) (imm : Word)
  | tugp (c : CoreId) (a : Reg) (m : BitVec 3)
  -- Slot 1
  | vld (c : CoreId) (d a : Reg) (imm : Word)
  | vst (c : CoreId) (d a : Reg) (imm : Word)
  | vbcast (c : CoreId) (d a : Reg) (fa : Fmt)
  | vmovs (c : CoreId) (d a : Reg) (fa : Fmt) (imm : Word)
  | vmov (c : CoreId) (d a : Reg)
  | vshuf (c : CoreId) (d a b : Reg) (fa : Fmt)
  | vadd (c : CoreId) (d a b : Reg) (fa : Fmt)
  | vsub (c : CoreId) (d a b : Reg) (fa : Fmt)
  | vmul (c : CoreId) (d a b : Reg) (fa : Fmt)
  | vfma (c : CoreId) (d a b : Reg) (fa : Fmt)
  | vmin (c : CoreId) (d a b : Reg) (fa : Fmt)
  | vmax (c : CoreId) (d a b : Reg) (fa : Fmt)
  | vscl (c : CoreId) (d a b : Reg) (fa : Fmt)
  | vrcp (c : CoreId) (d a : Reg) (fa : Fmt)
  | vrsq (c : CoreId) (d a : Reg) (fa : Fmt)
  | vexp2 (c : CoreId) (d a : Reg) (fa : Fmt)
  | vlog2 (c : CoreId) (d a : Reg) (fa : Fmt)
  | vtanh (c : CoreId) (d a : Reg) (fa : Fmt)
  | vrsum (c : CoreId) (d a : Reg) (fa : Fmt)
  | vrmax (c : CoreId) (d a : Reg) (fa : Fmt)
  | vargmax (c : CoreId) (d a : Reg) (fa : Fmt)
  | vcvt (c : CoreId) (d a : Reg) (fa fb : Fmt) (m : BitVec 3)
  | vpk4 (c : CoreId) (d a b : Reg) (m : BitVec 3)
  | vup4 (c : CoreId) (d a b : Reg) (m : BitVec 3)
  | wld (c : CoreId) (a b : Reg) (fb : Fmt) (m : BitVec 3)
  /-- WEIGHT_LOAD_START: the weight load port takes the head of the queue and loads its tile. -/
  | weightLoadStart (c : CoreId)
  | mma (c : CoreId) (d a b : Reg) (fa fb : Fmt) (m : BitVec 3) (imm : Word)
  /-- ARRAY_PASS_START: the array takes the head of the queue and makes its passes. `waited` is the number of core
  cycles for which it waited only on a weight load (R90); `upset` names the words of registers that have been upset (R110). -/
  | arrayPassStart (c : CoreId) (waited : Word) (upset : List ParityBit)
  | accumulatorComplete (c : CoreId) (acc : Fin 4)
  | amov (c : CoreId) (d a : Reg) (imm : Word)
  | vamov (c : CoreId) (d a : Reg) (imm : Word)
  -- Core events and self-test
  | coreWatchdog (c : CoreId)
  /-- VOYAGE_FAULT_END: a stopped set's last started descriptor has drained. -/
  | voyageFaultEnd (set : Fin 4096)
  /-- SELF_TEST_SLICE: one slice on the site under test of a pier; `passed` is what its signature registers showed. -/
  | selfTestSlice (die : Fin 12) (pier : Fin 48) (passed : Bool)
  -- Tugs
  | tugChainFetch (t : TugId)
  | tugDescriptorStart (t : TugId)
  | tugRunTranslate (t : TugId)
  | translationMissFetch (t : TugId)
  | tugDone (t : TugId)
  -- Tide, launches, bollards, slack water
  | armLaunch
  | launchFire (index : Fin 4096)
  | loadStepForecast (index : Fin 4096)
  | voyageComplete (set : Fin 4096)
  | tdCancel (value : Word)
  /-- BEACON_CHECK_MARK: a die compares its counter with the mark; the difference follows from the state. -/
  | beaconCheckMark (slot : Fin 41)
  | tideBeaconLost (slot : Fin 41) (net : Fin 2)
  | timeExchangeRequest
  /-- TIME_PARCEL_RECEIVE: a time parcel arrives at an endpoint. -/
  | timeParcelReceive (l : LinkId) (h : Hdr) (payload : Parcel) (check : Word)
  | tideHoldover
  | holdoverLong
  | tideMarkOutput
  | tideMarkInput
  /-- BOLLARD_RELEASE: the release of a waiter leaves the hub. -/
  | bollardRelease (w : Waiter)
  | blHostAdd (value : Word)
  /-- BL_VALUE: the driver writes a bollard; `collides` says that an addition came in the same cycle. -/
  | blValue (b : Fin 16384) (value : Word) (collides : Bool)
  | slackWindow
  | forcedSlack
  | forcedSlackEnd
  -- Memory and integrity
  | hbmTempSample (m : Fin 16) (temp : Byte)
  /-- HBM_READ: a requester reads a parcel of a stack. `upset` XORs the burst pair's 72 symbols before the read;
  `odeCorrected` says that the stack reported a correction of its own. -/
  | hbmRead (m : Fin 16) (parcel : BitVec 29) (source : MemSource) (upset : List (Fin 4 × BitVec 576)) (odeCorrected : Bool)
  | hbmWrite (m : Fin 16) (parcel : BitVec 29) (source : MemSource) (data : Parcel) (check : Word) (poison : Bool)
  | dredgeRegion (m : Fin 16)
  /-- SCRUB_READ: the scrubber's next read. `word` and `side` are the bits that upsets have flipped, since they were last
  read, in the SRAM word it reads and in that parcel's entry of the side array; a stack's upsets come with HBM_READ. -/
  | scrubRead (t : ScrubTarget) (word side : BitVec 72)
  /-- CE_SAMPLE_RECORD: a second of hub tide time ends for a stack or for the SRAM of a die. -/
  | ceSampleRecord (t : ScrubTarget)
  | btCommit (value : Word)
  | btSweep (value : Word)
  | berthInvalidate (die : Fin 12) (pier : Fin 48)
  | elConsume (value : Word)
  | retirePage (m : Fin 16) (value : Word)
  | retireClear (m : Fin 16) (value : Word)
  | scSpareReq (q : Fin 6) (value : Word)
  | mcFlip (m : Fin 16) (value : Word)
  | scSramFlip (slot : Fin 41) (value : Word)
  -- Chart, links, dies, optics, host, power, start-up, security and registers
  | stop (value : Word)
  | stopDone
  | load (value : Word)
  | loadVerifyDone
  | loadDistributionDone
  | loadFailed (slot : Fin 41)
  | run (value : Word)
  | hmCmdInvalid (value : Word)
  /-- LANE_FATAL: what receiving lanes found in one round; those that fail a condition of R238 go fatal. -/
  | laneFatal (l : LinkId) (found : List LaneRound)
  /-- LANE_REBERTHED: a lane has passed two tallies again, with the identity and the skew that it shows. -/
  | laneReberthed (l : LinkId) (lane : Byte) (train : TrainRx)
  | reberthTimeout (l : LinkId) (lane : Byte)
  | notice (l : LinkId) (lane : Byte) (reason : BitVec 4) (expect : BitVec 16) (round : BitVec 24)
  | mark (l : LinkId) (action : MarkAction) (lane : Byte) (epoch : Byte) (round : BitVec 24) (width : Byte)
  | retireNoticeRepeat (l : LinkId) (lane : Byte)
  | replayRequestResend (l : LinkId)
  | ca (l : LinkId) (vc : BitVec 2) (ack : BitVec 16) (credit : Word)
  | parcelSend (l : LinkId)
  | write (l : LinkId) (h : Hdr) (payload : Parcel) (check : Word)
  | readReq (l : LinkId) (h : Hdr) (payload : Parcel) (check : Word)
  | readData (l : LinkId) (h : Hdr) (payload : Parcel) (check : Word)
  | resp (l : LinkId) (h : Hdr) (payload : Parcel) (check : Word)
  | bollard (l : LinkId) (h : Hdr) (payload : Parcel) (check : Word)
  | ackTimeout (l : LinkId)
  /-- HELLO, with what lanes of the link show in training that are not lanes the receiver expects. -/
  | hello (l : LinkId) (h : Hdr) (payload : Parcel) (check : Word) (strays : List (Byte × TrainRx))
  | widthReq (l : LinkId) (h : Hdr) (payload : Parcel) (check : Word)
  | retrainReq (l : LinkId) (h : Hdr) (payload : Parcel) (check : Word)
  | accept (l : LinkId) (h : Hdr) (payload : Parcel) (check : Word)
  | refuse (l : LinkId) (h : Hdr) (payload : Parcel) (check : Word)
  | laneOut (l : LinkId) (e : LaneOut)
  | qlWidthReq (l : LinkId) (value : Word)
  | qlRetrain (l : LinkId) (value : Word)
  | retrainDone (l : LinkId) (expect : BitVec 16)
  /-- QL_SCUTTLE: `reachesUp` says that the link reaches UP in the same cycle (R267). -/
  | qlScuttle (l : LinkId) (value : Word) (reachesUp : Bool)
  | linkSilentTimeout (l : LinkId)
  | linkTrainRetry (l : LinkId)
  /-- PAIR_REROUTE: the neighbour pair of two base dies has gone down (R281). -/
  | pairReroute (a b : Fin 6)
  | pairReturn (a b : Fin 6)
  | clockMonitorReset (slot : Fin 41)
  | diePresenceTimeout (slot : Fin 41)
  | dieLost (slot : Fin 41) (cause : BitVec 3)
  | dieResetRelease (slot : Fin 41) (straps : BitVec 6)
  | dieRejoinUp (slot : Fin 41) (bist : List (Fin 48 × SiteTest))
  | quarantine (value : Word)
  | release (value : Word) (clocksBad : List (Fin 41))
  | hmDieCmdInvalid (value : Word)
  | guestParcelIn (h : Hdr) (payload : Parcel) (check : Word)
  | gfQuarSet (value : Word)
  | gfQuarClr (value : Word)
  | guestPortDown
  | guestPortUp (rate : BitVec 9)
  | receivePlaceSteer (n : Fin 8) (place : Fin 306) (dev : BitVec 4) (engine : Fin 8) (lane : Byte)
  | placeMove (n : Fin 8) (lane : Byte) (ring : Bool)
  | placeMoveDone (n : Fin 8) (lane : Byte)
  | oeHomeTest (n : Fin 8) (value : Word) (bad : BitVec 17) (delays : List (Fin 17 × BitVec 16))
  | ringSweepDone (n : Fin 8) (ring : Fin 10999) (found : Option (BitVec 16))
  | ringSweepRetry (n : Fin 8) (ring : Fin 10999)
  | ringAcquired (n : Fin 8) (ring : Fin 10999) (code : BitVec 16) (err : Byte)
  /-- RING_IDENTITY_CHECK: the levels of the 18 tones that the correlation finds, in 0.01 dB (R336). -/
  | ringIdentityCheck (n : Fin 8) (ring : Fin 10999) (tones : List (BitVec 16))
  | ringPeriodicCheck (n : Fin 8) (ring : Fin 10999) (tones : List (BitVec 16))
  /-- RING_UNLOCK: the error of a locked ring, in 0.1 GHz, and the heater code at which its loop stands (R331, R338). -/
  | ringUnlock (n : Fin 8) (ring : Fin 10999) (err : Byte) (code : BitVec 16)
  | ringLightLoss (n : Fin 8) (place : LightAt)
  | ringLightReturn (n : Fin 8) (place : LightAt) (power : BitVec 16)
  | ringDarkTimeout (n : Fin 8) (place : LightAt)
  | forecastReceive (n : Fin 8) (fire : Dword)
  | oeWbCmd (n : Fin 8) (value : Word)
  | weightBankReadingDone (n : Fin 8) (sum : Word) (abandoned : Bool)
  | oeLockerrMax (n : Fin 8) (value : Word) (collides : Option Word)
  /-- STANDBY_DIVERGE: for 1 ms a standby line has differed from the active one by a frequency in 0.1 GHz and a power in 0.01 dB. -/
  | standbyDiverge (n : Fin 8) (line : Fin 18) (ferr power : BitVec 16)
  | laserBiasThreshold (n : Fin 8) (side : Bool) (bias : BitVec 12)
  | lsSwCmd (n : Fin 8) (value : Word)
  | scheduledSwitchover (n : Fin 8) (dark : BitVec 16)
  | switchoverForced (n : Fin 8) (dark stall : BitVec 16)
  | unscheduledSwitchover (n : Fin 8) (dark : BitVec 16)
  | calibrationStep
  /-- RX_POWER_LOW: the average power of a place over 1 s, in 0.01 dBm. -/
  | rxPowerLow (n : Fin 8) (place : Fin 306) (power : BitVec 16)
  /-- CAL_RECORD_WRITE: values that firmware has measured, by their number in the record, and how many bytes were written before the power
  went, if it did (R355). -/
  | calRecordWrite (ty : Fin 10) (slot : Fin 41) (written : Option (BitVec 16)) (values : List (Word × Word))
  | arpRequest (port : Fin 2) (ip : Word)
  | neighborSolicitation (port : Fin 2) (ip : BitVec 128)
  | ptpEventMessage (port : Fin 2) (transmitted : Bool) (domain : Byte) (sequenceId : BitVec 16)
  | pilotDatagram (port : Fin 2) (frame : EthFrame) (d : Dgram)
  | pilotRelay (port : Fin 2) (frame : EthFrame) (d : Dgram)
  | pilot (l : LinkId) (h : Hdr) (payload : Parcel) (check : Word)
  | openSession (port : Fin 2) (frame : EthFrame) (seq : Word) (tag : Word)
  | regWrite (tag : Word) (addr : Dword) (poll : Bool) (words : List Word)
  | regRead (tag : Word) (addr : Dword) (count : Word)
  | memWrite (tag : Word) (addr : Dword) (data : List Byte)
  | memRead (tag : Word) (addr : Dword) (count : Word)
  | tideWrite (tag : Word) (entry : BitVec 256)
  | pilotAckSend
  | pilotRetransmit
  | eventSend
  | plTideSlew (value : Word)
  | slewComplete
  | heartbeatPathLost (beacon half wire : Bool)
  | heartbeatPathRestored (beacon half wire : Bool)
  | partnerFailed (beacon half : Bool) (gap : Fin 65)
  | halfDivergence (group : Byte)
  | resyncDone (half : Bool)
  | hmSwCmd (value : Word) (gap : Fin 65)
  | beaconSwitchover
  | feedTransfer (va vb : BitVec 10)
  | feedReturn (va vb : BitVec 10) (micros : Fin 41)
  | feedBFault (vb : BitVec 10)
  | brownOut
  | vcoreDroop (die : Fin 12)
  | railOutOfTolerance (rail : Fin 54) (millivolts : BitVec 12)
  | converterFault (k : Fin 16)
  | regulatorForecastBoost (die : Fin 12) (fire : Dword)
  | regulatorForecastEnd (die : Fin 12)
  | guestPowerCut (reason : Fin 3)
  | pwGuestOn (value : Word)
  | powerSample (watts : BitVec 13) (guest : BitVec 11)
  | thermalSample (readings : List Reading)
  | thermalTrip (ch : Fin 68)
  | thermalRestart
  | pwLatchClr (value : Word)
  | powerOn (absent : Bool) (va vb : BitVec 10)
  | hubReset
  | resetN (lowNanos : Word)
  | referenceLost (gapNanos : Word)
  | startUp (b : Boot)
  | startupTimeout
  | v1p8Retry
  | recoveryImage (image : List Byte)
  | sbSvnCommit (value : Word) (fuseFault : Bool) (cut : Option (Fin 68))
  | sbWdog (value : Word)
  | watchdogExpiry
  | enrol (value : Word) (interrupted : Bool)
  | revoke (value : Word)
  | decommission (value : Word)
  | sbInstCmd (value : Word)
  | lmsTreeBuildDone
  | getVersion (t : Transport)
  | getCapabilities (t : Transport) (rest : List Byte)
  | negotiateAlgorithms (t : Transport) (rest : List Byte)
  | getDigests (t : Transport)
  | getCertificate (t : Transport) (slot : Fin 8) (offset length : BitVec 16)
  | challenge (t : Transport) (slot : Fin 8) (summary : Byte) (nonce : BitVec 256) (context : Dword)
  | getMeasurements (t : Transport) (index : Byte) (signed : Bool) (nonce : BitVec 256) (context : Dword)
  | chunkGet (t : Transport) (handle : Byte) (chunk : BitVec 16)
  | getLmsSig (t : Transport) (standard : BitVec 16) (vendor : Word) (logOk : Bool)
  | getLmsChain (t : Transport) (standard : BitVec 16) (vendor : Word)
  | setdasa (static dynamic : BitVec 7)
  | entdaa (dynamic : BitVec 7)
  | blockEnable (writer : Requester) (reg : BitVec 32)
  | blockDisable (writer : Requester) (reg : BitVec 32)
  | registerWrite (writer : Requester) (reg : BitVec 32) (value : Word) (timing : WriteTiming)
  | configParityFault (reg : BitVec 32)
  | idcode (die : Fin 35)
  | samplePreload (die : Fin 35) (cells : Dword)
  | extest (die : Fin 35)
  | clamp (die : Fin 35)
  | highz (die : Fin 35)
  | d2dTest (die : Fin 35) (failing : BitVec 68)
  | d2dResult (die : Fin 35)
  | bypass (die : Fin 35)
  | testLogicReset
  | ethernetLinkDown (port : Fin 2)
  | ethernetLinkUp (port : Fin 2)
  | droopRecovered (die : Fin 12)
  | feedBRestored (vb : BitVec 10)
  | failedHalfRestart (half : Bool)
  deriving DecidableEq, Repr

end Sys2Proof
end

