-- ==== Sys2Proof/Config.lean ====
section
/-! DEFINITION. What the manual leaves open: opaque constants and functions with no body. Nothing in Lean can
evaluate them, so a claim holds whatever they are. Each is named in an entry of notes/assumptions. -/

namespace Sys2Proof.Config

/-! Free values (a fresh one for each reading of `State.freeCtr`). -/

/-- A value the manual leaves undefined, one for each count of the model's own counter. -/
opaque freeValue : Nat → Nat

/-! Values fixed at manufacture. -/

/-- The fused or fixed value of a read-only register, by its offset in register space (R83, R301, R302, R304, R385,
R425, R451). -/
opaque fused : Nat → Word

/-- The member that an engine in the partner plan is cabled to, by the module's own device index and the engine (R317). -/
opaque partner : Nat → Nat → Nat

/-- The share, in units, of a channel in the receive buffer at the far end of an optical link: the far engine divides it by
its own module's map (R248). By endpoint and channel. -/
opaque peerShare : Nat → Nat → Nat

/-- A calibration value that no record written since manufacture gives: by TYPE, SLOT and its number in the record (R352). -/
opaque calibrated : Nat → Nat → Nat → Int
/-- A value measured afresh because no copy of its record was valid, by the count of free values at the measurement (R354). -/
opaque calFresh : Nat → Nat → Nat → Nat → Int
/-- The built-in default of a trim or an offset (R354). -/
opaque calDefault : Nat → Nat → Nat → Int

/-- The calibrated level of a ring's tone at its monitor, in 0.01 dB, by engine and ring (R336). -/
opaque toneLevel : Nat → Nat → BitVec 16
/-- The heater code that detunes a line-select ring to a weight, by engine, ring and weight (R342). -/
opaque weightCode : Nat → Nat → BitVec 16 → BitVec 16

/-- The manufacturer code of IDCODE (R501). -/
opaque maker : BitVec 11

/-! Standard algorithms that the manual names and does not restate. -/

/-- Verification of an ECDSA P-384 signature over SHA-384 (FIPS 186-5): public key, message, signature. -/
opaque ecdsaVerify : List (BitVec 8) → List (BitVec 8) → List (BitVec 8) → Bool
/-- Verification of an HSS signature (RFC 8554, SP 800-208) with the parameter sets of R436: public key, message, signature. -/
opaque hssVerify : List (BitVec 8) → List (BitVec 8) → List (BitVec 8) → Bool
/-- SHA-384: the 384-bit digest. -/
opaque sha384Bits : List (BitVec 8) → BitVec 384
/-- HMAC-SHA-384 of a message under a key (R444). -/
opaque hmac384 : BitVec 384 → List (BitVec 8) → BitVec 384
/-- The ECDSA P-384 public key of a private one, and a signature under it: r and s (R444, R447). -/
opaque p384Public : BitVec 384 → BitVec 768
opaque p384Sign : BitVec 384 → List (BitVec 8) → BitVec 768
/-- The HSS public key, of 60 bytes, of the tree of a seed, and the signature, of 5,716 bytes, of a message with an index of that tree
(R436, R445). -/
opaque hssPublic : BitVec 384 → BitVec 480
opaque hssSign : BitVec 384 → Nat → List (BitVec 8) → BitVec 45728
/-- The device's fused 384-bit unique secret (R444). -/
opaque uniqueSecret : BitVec 384
/-- The label of a derived key: 0 DeviceID, 1 Alias, 2 the seed of the HSS tree (R444). -/
opaque kdfLabel : Nat → List (BitVec 8)
/-- The X.509 certificate that the DeviceID key signs for an Alias key: private key, public key (R444). -/
opaque aliasCert : BitVec 384 → BitVec 768 → List (BitVec 8)
/-- The certificates down to DeviceID, and the manufacturing HSS signature over a DEVICE_ID and an HSS key, as made (R444). -/
opaque deviceCerts : List (BitVec 8)
opaque makerSign : BitVec 64 → BitVec 480 → BitVec 45728
/-- The MaxSPDMmsgSize that CAPABILITIES gives; the manual states none (R447). -/
opaque maxSpdmMessage : Word
/-- The digests of the four vendor key records that the ROM holds (R435). -/
opaque vendorDigest : Nat → BitVec 384
/-- The digest of the boot ROM (R448). -/
opaque romDigest : BitVec 384

/-! The device's own fixed algorithms for the approximate functions (R49): only the bound is stated. -/

/-- The reciprocal the device computes for an ordinary FP32 input (R49). -/
opaque rcpRaw : Word → Word
/-- The reciprocal square root the device computes for an ordinary FP32 input (R49). -/
opaque rsqrtRaw : Word → Word
/-- The base-2 exponential the device computes for an ordinary FP32 input (R49). -/
opaque exp2Raw : Word → Word
/-- The base-2 logarithm the device computes for an ordinary FP32 input (R49). -/
opaque log2Raw : Word → Word
/-- The hyperbolic tangent the device computes for an ordinary FP32 input (R49). -/
opaque tanhRaw : Word → Word

/-- The power step in watts that the forecast of a voyage on a core set gives for a compute die (R340). -/
opaque stepWatts : Nat → Nat → Nat → Nat

end Sys2Proof.Config
end

