-- ==== Sys2Proof/Machine/Crc.lean ====
section
/-! DEFINITION. The parcel check (R181), and the codes of stored data (R185, R188). -/

namespace Sys2Proof.Machine

/-! ## CRC-32C (R181) and the CRC-32 of records (R353), both reflected -/

/-- One bit of a reflected CRC of polynomial `q`. -/
def crcBit (q c : Nat) : Nat := if c % 2 = 1 then (c / 2) ^^^ q else c / 2

/-- One byte of a reflected CRC. -/
def crcByte (q c b : Nat) : Nat :=
  crcBit q (crcBit q (crcBit q (crcBit q (crcBit q (crcBit q (crcBit q (crcBit q (c ^^^ b))))))))

/-- The register of the CRC after a list of bytes. -/
def crcBytes (q c : Nat) : List Nat → Nat
  | [] => c
  | b :: r => crcBytes q (crcByte q c b) r

/-- A CRC with initial value and final XOR 0xFFFF_FFFF. -/
def crcOf (q : Nat) (bs : List Byte) : Word := BitVec.ofNat 32 (crcBytes q 0xFFFFFFFF (bs.map BitVec.toNat) ^^^ 0xFFFFFFFF)

/-- CRC-32C with the parameters of R181. -/
def crc32c (bs : List Byte) : Word := crcOf 0x82F63B78 bs

/-- The CRC-32 of IEEE 802.3 (R353). -/
def crc32 (bs : List Byte) : Word := crcOf 0xEDB88320 bs

/-- The little-endian field of `n` bytes at an offset of a list (R7). -/
def le (b : List Byte) (at_ n : Nat) : Nat := bytesToNat ((b.drop at_).take n)

/-- The bytes of a parcel's payload, in increasing address order. -/
def Parcel.bytes (p : Parcel) : List Byte := natToBytes 256 p.toNat

/-- A payload from its bytes. -/
def Parcel.ofBytes (bs : List Byte) : Parcel := BitVec.ofNat 2048 (bytesToNat bs)

/-- The check of a parcel (R181). -/
def parcelCheck (p : Parcel) : Word := crc32c (Parcel.bytes p)

/-- The check of 256 zero bytes. -/
def zeroCheck : Word := 0xB872B190

/-! ## The (72,64) code of SRAM (R185): only the number of flipped bits matters to what a read finds -/

/-- The number of set bits among the low `n` of a number. -/
def popcount : Nat → Nat → Nat
  | 0, _ => 0
  | n + 1, x => x % 2 + popcount n (x / 2)

/-- Flip mask of two bit positions 0–71; the second counts only where it is enabled. A position that both
name is flipped once (DESIGN CHOICE: the fields name a set). -/
def flipMask (a b : Nat) (bEn : Bool) : BitVec 72 :=
  (1 <<< a : BitVec 72) ||| (if bEn then (1 <<< b : BitVec 72) else 0)

/-! ## The symbol code of HBM (R188) -/

/-- Multiplication by α = 0x02 in GF(2^8) with x^8 + x^4 + x^3 + x^2 + 1. -/
def gfDouble (a : Nat) : Nat := if a < 128 then 2 * a else (2 * a - 256) ^^^ 0x1D

/-- Multiplication in GF(2^8): `n` low bits of `b`. -/
def gfMulBits : Nat → Nat → Nat → Nat
  | 0, _, _ => 0
  | n + 1, a, b => (if b % 2 = 1 then a else 0) ^^^ gfMulBits n (gfDouble a) (b / 2)

def gfMul (a b : Nat) : Nat := gfMulBits 8 a b

/-- α^i. -/
def gfPow : Nat → Nat
  | 0 => 1
  | n + 1 => gfDouble (gfPow n)

/-- Symbol i of a burst pair's 72. -/
def symbol (w : BitVec 576) (i : Nat) : Nat := (w.extractLsb' (8 * i) 8).toNat

/-- The syndromes of positions below `n`, with the powers of α already formed: `S_k = Σ c_i α^(k·i)`. -/
def syndromeSum (w : BitVec 576) : Nat → Nat × Nat × Nat
  | 0 => (0, 0, 0)
  | n + 1 =>
    let r := syndromeSum w n
    let c := symbol w n
    let a := gfPow n
    (r.1 ^^^ c, r.2.1 ^^^ gfMul c a, r.2.2 ^^^ gfMul c (gfMul a a))

/-- S0, S1, S2 of a burst pair's difference from a code word. -/
def syndromes (w : BitVec 576) : Nat × Nat × Nat := syndromeSum w 72

/-- What the decoder finds (R188). -/
inductive SymClass where
  | clean
  | single (pos val : Nat)
  | poison
  | uncorrectable
  deriving DecidableEq, Repr

/-- The position i in 0–71 with S1 = S0·α^i. -/
def symLocate (s0 s1 : Nat) : Option Nat := (List.range 72).find? fun i => gfMul s0 (gfPow i) == s1

/-- The classification of R188. `S2 = S1² ÷ S0` is written `S2·S0 = S1²`. -/
def symClassify (w : BitVec 576) : SymClass :=
  let s := syndromes w
  if s = (0, 0, 0) then .clean
  else if s = (0, 0x5A, 0) then .poison
  else if s.1 ≠ 0 ∧ gfMul s.2.2 s.1 = gfMul s.2.1 s.2.1 then
    match symLocate s.1 s.2.1 with
    | some i => .single i s.1
    | none => .uncorrectable
  else .uncorrectable

/-- A difference in one symbol. -/
def symAt (pos val : Nat) : BitVec 576 := if pos < 72 then BitVec.ofNat 576 (val * 2 ^ (8 * pos)) else 0

/-- A burst pair whose metadata gives the poison syndrome: check symbols only. -/
def poisonPair : BitVec 576 := symAt 69 0xE4 ||| symAt 70 0xDD ||| symAt 71 0x39

/-- The 48 bytes of a SHA-384 digest. -/
def sha384 (b : List Byte) : List Byte := natToBytes 48 (Config.sha384Bits b).toNat

end Sys2Proof.Machine
end

