-- ==== Sys2Proof/Machine/RegMap.lean ====
section
/-! DEFINITION. Where every block and register stands (R453–R457, R472–R485). Offsets are measured from the start of
register space, 0xF000_0000_0000. -/

namespace Sys2Proof.Machine

/-- The block types of R457. -/
inductive BlkKind where
  | hm | td | bl | bt | el | pl | tm | pw | sb | gf | ck | id | qn | mc | sc | dl | ql | pr | co | tg | oe | ls
  deriving DecidableEq, Repr

/-- Block codes (R457). -/
def BlkKind.code : BlkKind → Nat
  | .hm => 0x01 | .td => 0x02 | .bl => 0x03 | .bt => 0x04 | .el => 0x05 | .pl => 0x06 | .tm => 0x07 | .pw => 0x08
  | .sb => 0x09 | .gf => 0x0A | .ck => 0x0B | .id => 0x0C | .qn => 0x0D | .mc => 0x0E | .sc => 0x0F | .dl => 0x10
  | .ql => 0x11 | .pr => 0x12 | .co => 0x13 | .tg => 0x14 | .oe => 0x15 | .ls => 0x16

/-- The access types of R459. -/
inductive Acc where
  | rw | ro | live | cnt | w1t | log | sh
  deriving DecidableEq, Repr

/-- One row of a register table: `count` registers of `words` words each, the first at `off`, `stride` apart. -/
structure RegRow where
  off    : Nat
  acc    : Acc
  words  : Nat := 1
  reset  : Nat := 0
  count  : Nat := 1
  stride : Nat := 4
  /-- The LOG register whose capture and clear this companion follows (R459). -/
  lead   : Option Nat := none
  /-- Not covered by enable gating (R470). -/
  unguarded : Bool := false
  /-- Fused at manufacture: the value comes from `Config`. -/
  fused : Bool := false
  /-- The bits of each word that are not reserved (R9); a word that is not listed has no reserved bit. -/
  masks : List Nat := []
  deriving DecidableEq, Repr

/-- The header of every block (R457). BLK_CTRL resets to 1 in PW and TM. -/
def headerRows (k : BlkKind) : List RegRow :=
  [ { off := 0x000, acc := .ro }, { off := 0x004, acc := .sh, reset := if k = .pw ∨ k = .tm then 1 else 0, masks := [0x1] },
    { off := 0x008, acc := .live }, { off := 0x00C, acc := .cnt } ]

/-- The registers of each block after its header. -/
def blockRows : BlkKind → List RegRow
  | .hm => -- R231, R303, R402, R483
    [ { off := 0x010, acc := .live }, { off := 0x014, acc := .sh, masks := [0x83FFFF03] }, { off := 0x018, acc := .log, masks := [0x8FDF0FF3] },
      { off := 0x020, acc := .live, words := 2 }, { off := 0x028, acc := .cnt }, { off := 0x02C, acc := .cnt },
      { off := 0x030, acc := .cnt }, { off := 0x034, acc := .live }, { off := 0x040, acc := .cnt },
      { off := 0x044, acc := .cnt }, { off := 0x048, acc := .cnt },
      { off := 0x100, acc := .log, words := 4, count := 16, stride := 16, lead := some 0x018, masks := [0xFFFF, 0xFFFFFFFF, 0xFFFFFFFF, 0xFFFFFFFF] },
      { off := 0x200, acc := .live, count := 41 }, { off := 0x2C0, acc := .sh, masks := [0x8000033F] }, { off := 0x2C4, acc := .log, masks := [0x800003F7] },
      { off := 0x2C8, acc := .cnt }, { off := 0x2CC, acc := .cnt },
      { off := 0x300, acc := .live, reset := 0x2304 }, { off := 0x304, acc := .live, reset := 1 },
      { off := 0x308, acc := .cnt }, { off := 0x30C, acc := .cnt }, { off := 0x310, acc := .cnt },
      { off := 0x314, acc := .cnt }, { off := 0x318, acc := .log, words := 2, masks := [0x37F, 0x80000000] }, { off := 0x320, acc := .cnt },
      { off := 0x324, acc := .sh, masks := [0x80000000] }, { off := 0x328, acc := .log, masks := [0x80000003] }, { off := 0x32C, acc := .cnt } ]
  | .td => -- R147
    [ { off := 0x010, acc := .live, words := 2 }, { off := 0x018, acc := .rw, masks := [0x3F1] }, { off := 0x01C, acc := .live },
      { off := 0x020, acc := .live }, { off := 0x024, acc := .live }, { off := 0x028, acc := .cnt },
      { off := 0x02C, acc := .cnt }, { off := 0x030, acc := .cnt, words := 2 }, { off := 0x038, acc := .log, words := 2, masks := [0xFFFFFFFF, 0x80007FFF] },
      { off := 0x040, acc := .cnt }, { off := 0x044, acc := .cnt }, { off := 0x048, acc := .sh, masks := [0x80000FFF] },
      { off := 0x04C, acc := .log, masks := [0x80003FFF] }, { off := 0x050, acc := .live }, { off := 0x054, acc := .cnt },
      { off := 0x058, acc := .live, words := 2 }, { off := 0x060, acc := .live, words := 2 },
      { off := 0x068, acc := .cnt }, { off := 0x06C, acc := .cnt }, { off := 0x070, acc := .rw, words := 2 } ]
  | .bl => -- R148
    [ { off := 0x010, acc := .sh }, { off := 0x014, acc := .cnt }, { off := 0x018, acc := .cnt },
      { off := 0x01C, acc := .log, masks := [0x8003FFFF] }, { off := 0x020, acc := .cnt }, { off := 0x024, acc := .live },
      { off := 0x028, acc := .cnt } ]
  | .bt => -- R180
    [ { off := 0x010, acc := .sh, count := 4 }, { off := 0x020, acc := .sh, masks := [0x8001FFFF] }, { off := 0x024, acc := .log, masks := [0x8007FFFF] },
      { off := 0x028, acc := .sh }, { off := 0x02C, acc := .sh, masks := [0x800003FF] }, { off := 0x030, acc := .log, masks := [0x8003FFFF] },
      { off := 0x034, acc := .cnt }, { off := 0x038, acc := .cnt }, { off := 0x03C, acc := .live } ]
  | .el => -- R206
    [ { off := 0x010, acc := .rw, reset := 1, masks := [0x1FFF1] }, { off := 0x014, acc := .live }, { off := 0x018, acc := .live },
      { off := 0x01C, acc := .live }, { off := 0x020, acc := .sh, masks := [0x80001FFF] }, { off := 0x024, acc := .cnt },
      { off := 0x028, acc := .cnt }, { off := 0x02C, acc := .log, masks := [0x803FFFFF] } ]
  | .pl => -- R385
    [ { off := 0x010, acc := .rw, reset := 0x13, masks := [0x7FFFFF] }, { off := 0x014, acc := .rw, reset := 0xC480, masks := [0xFFFF] }, { off := 0x018, acc := .rw },
      { off := 0x020, acc := .rw, count := 4 }, { off := 0x030, acc := .rw, words := 2, fused := true, masks := [0xFFFFFFFF, 0xFFFF] }, { off := 0x038, acc := .rw },
      { off := 0x040, acc := .rw, count := 4 }, { off := 0x050, acc := .rw, reset := 0xC8, masks := [0xFFFF] }, { off := 0x054, acc := .live },
      { off := 0x058, acc := .cnt }, { off := 0x05C, acc := .cnt }, { off := 0x060, acc := .cnt }, { off := 0x064, acc := .cnt },
      { off := 0x068, acc := .cnt }, { off := 0x06C, acc := .cnt }, { off := 0x070, acc := .cnt }, { off := 0x074, acc := .cnt },
      { off := 0x078, acc := .live }, { off := 0x07C, acc := .cnt }, { off := 0x080, acc := .cnt },
      { off := 0x088, acc := .log, words := 2, lead := some 0x090 }, { off := 0x090, acc := .log, masks := [0x8001FFFF] },
      { off := 0x098, acc := .log, words := 2, lead := some 0x0A0 }, { off := 0x0A0, acc := .log, masks := [0x8001FFFF] },
      { off := 0x0A4, acc := .rw }, { off := 0x0A8, acc := .sh, masks := [0x80FFFFFF] }, { off := 0x0AC, acc := .log, masks := [0x80000003] } ]
  | .tm => -- R425, R483
    [ { off := 0x010, acc := .live }, { off := 0x014, acc := .cnt }, { off := 0x018, acc := .cnt },
      { off := 0x01C, acc := .rw, unguarded := true, masks := [0x1F] }, { off := 0x020, acc := .ro, fused := true, masks := [0x1F1F] }, { off := 0x024, acc := .rw },
      { off := 0x028, acc := .rw }, { off := 0x02C, acc := .live }, { off := 0x030, acc := .rw, masks := [0xF] },
      { off := 0x100, acc := .live, count := 68 } ]
  | .pw => -- R424
    [ { off := 0x010, acc := .live }, { off := 0x014, acc := .live }, { off := 0x018, acc := .live },
      { off := 0x01C, acc := .rw, reset := 0xED8, masks := [0x1FFF] }, { off := 0x020, acc := .cnt }, { off := 0x024, acc := .cnt },
      { off := 0x028, acc := .cnt }, { off := 0x02C, acc := .log, masks := [0x80007F0F] }, { off := 0x030, acc := .cnt }, { off := 0x034, acc := .live },
      { off := 0x038, acc := .w1t }, { off := 0x03C, acc := .rw, reset := 0x50, masks := [0xFF] }, { off := 0x040, acc := .live },
      { off := 0x044, acc := .sh, masks := [0x1] }, { off := 0x100, acc := .live, count := 54, stride := 8 },
      { off := 0x104, acc := .rw, count := 54, stride := 8, unguarded := true, masks := [0xFF] } ]
  | .sb => -- R451
    [ { off := 0x010, acc := .live }, { off := 0x014, acc := .ro, fused := true, masks := [0x3] }, { off := 0x018, acc := .ro, fused := true, masks := [0xF7F] }, { off := 0x01C, acc := .live },
      { off := 0x020, acc := .live, words := 2 }, { off := 0x028, acc := .sh, masks := [0x80000000] }, { off := 0x02C, acc := .log, masks := [0x800007F3] },
      { off := 0x030, acc := .ro, fused := true }, { off := 0x034, acc := .sh, masks := [0x8003FFFF] }, { off := 0x038, acc := .log, masks := [0x80000007] }, { off := 0x03C, acc := .sh, masks := [0x8003FFFF] },
      { off := 0x040, acc := .live, words := 2 }, { off := 0x048, acc := .live, words := 2 },
      { off := 0x050, acc := .live, words := 2 }, { off := 0x058, acc := .live }, { off := 0x05C, acc := .w1t },
      { off := 0x060, acc := .cnt }, { off := 0x064, acc := .cnt }, { off := 0x068, acc := .cnt }, { off := 0x06C, acc := .live },
      { off := 0x070, acc := .ro, fused := true } ]
  | .gf => -- R304
    [ { off := 0x010, acc := .rw, reset := 0x205070, masks := [0x7F71F1] }, { off := 0x014, acc := .ro, fused := true, masks := [0x3] }, { off := 0x018, acc := .live },
      { off := 0x01C, acc := .w1t }, { off := 0x020, acc := .w1t }, { off := 0x024, acc := .rw }, { off := 0x028, acc := .rw, masks := [0x3FFF3FFF] },
      { off := 0x02C, acc := .log, masks := [0x80000F0F] }, { off := 0x030, acc := .cnt }, { off := 0x034, acc := .cnt },
      { off := 0x038, acc := .log, words := 2, masks := [0xFFFFFFFF, 0x870FFFFF] }, { off := 0x040, acc := .cnt, words := 2 }, { off := 0x048, acc := .cnt, words := 2 },
      { off := 0x050, acc := .cnt }, { off := 0x100, acc := .rw, words := 2, count := 16, stride := 32 },
      { off := 0x108, acc := .rw, words := 2, count := 16, stride := 32 }, { off := 0x110, acc := .rw, count := 16, stride := 32, masks := [0xF] } ]
  | .ck => -- R301, R483
    [ { off := 0x010, acc := .live }, { off := 0x014, acc := .cnt }, { off := 0x018, acc := .log, masks := [0x80000007] }, { off := 0x01C, acc := .live } ]
  | .id => [ { off := 0x010, acc := .ro, masks := [0x8F3F] }, { off := 0x018, acc := .ro, words := 2, fused := true } ] -- R301
  | .qn => -- R482
    [ { off := 0x010, acc := .rw, masks := [0x3F] }, { off := 0x014, acc := .live }, { off := 0x018, acc := .live },
      { off := 0x020, acc := .rw, reset := 0xF, count := 16, masks := [0x10F] }, { off := 0x060, acc := .live, count := 16 },
      { off := 0x0A0, acc := .cnt, words := 2 }, { off := 0x0A8, acc := .cnt }, { off := 0x0AC, acc := .live },
      { off := 0x0B0, acc := .cnt }, { off := 0x0B4, acc := .cnt } ]
  | .mc => -- R179, R204
    [ { off := 0x010, acc := .rw, reset := 3, masks := [0x3] }, { off := 0x014, acc := .rw, reset := 0x11860, unguarded := true, masks := [0x1FFFF] },
      { off := 0x018, acc := .live }, { off := 0x01C, acc := .live }, { off := 0x020, acc := .cnt }, { off := 0x024, acc := .cnt },
      { off := 0x028, acc := .log, words := 2, masks := [0xFFFFFFFF, 0x800FFFFF] }, { off := 0x030, acc := .cnt, words := 2 }, { off := 0x038, acc := .cnt, words := 2 },
      { off := 0x040, acc := .cnt }, { off := 0x044, acc := .cnt }, { off := 0x048, acc := .cnt }, { off := 0x04C, acc := .cnt },
      { off := 0x050, acc := .cnt }, { off := 0x054, acc := .cnt }, { off := 0x058, acc := .sh, masks := [0x8FF3FF7F] }, { off := 0x060, acc := .sh, masks := [0xC03F7FFF] },
      { off := 0x064, acc := .log, masks := [0x800000FF] }, { off := 0x068, acc := .live }, { off := 0x06C, acc := .cnt },
      { off := 0x070, acc := .log, words := 2, masks := [0xFFFFFFFF, 0x800FFFFF] } ]
  | .sc => -- R205
    [ { off := 0x010, acc := .rw, reset := 3, masks := [0x3] }, { off := 0x014, acc := .rw, reset := 0x15180 },
      { off := 0x018, acc := .rw, reset := 0xE10 }, { off := 0x01C, acc := .cnt }, { off := 0x020, acc := .cnt },
      { off := 0x024, acc := .cnt }, { off := 0x028, acc := .live }, { off := 0x02C, acc := .sh, masks := [0x9FFFFFFF] }, { off := 0x030, acc := .sh, masks := [0x8000001F] },
      { off := 0x034, acc := .live } ]
  | .dl => -- R302
    [ { off := 0x010, acc := .rw, reset := 0x100, masks := [0xFF01] }, { off := 0x014, acc := .live }, { off := 0x018, acc := .ro, count := 3, fused := true },
      { off := 0x024, acc := .ro, count := 3 }, { off := 0x030, acc := .ro, count := 3, fused := true },
      { off := 0x03C, acc := .ro, count := 3 }, { off := 0x048, acc := .cnt }, { off := 0x04C, acc := .cnt }, { off := 0x100, acc := .live, count := 64 },
      { off := 0x200, acc := .live, count := 64 } ]
  | .ql => -- R270
    [ { off := 0x010, acc := .rw, masks := [0x7DFF01FF] }, { off := 0x014, acc := .live }, { off := 0x018, acc := .live }, { off := 0x01C, acc := .live },
      { off := 0x020, acc := .live, words := 2 }, { off := 0x028, acc := .sh, masks := [0xC00001FF] }, { off := 0x02C, acc := .log, masks := [0x80001FF7] },
      { off := 0x030, acc := .sh, masks := [0x80000000] }, { off := 0x034, acc := .log, masks := [0x80000001] }, { off := 0x038, acc := .rw, reset := 0x14, masks := [0xFF] },
      { off := 0x03C, acc := .live }, { off := 0x040, acc := .cnt, count := 10 }, { off := 0x068, acc := .log, masks := [0x80FFFFFF] },
      { off := 0x06C, acc := .cnt }, { off := 0x070, acc := .cnt, words := 2, count := 3, stride := 8 },
      { off := 0x088, acc := .live }, { off := 0x08C, acc := .cnt }, { off := 0x0A0, acc := .live, count := 8 },
      { off := 0x0C0, acc := .live, count := 8 } ]
  | .pr => -- R83
    [ { off := 0x010, acc := .ro, masks := [0xFFFF001F] }, { off := 0x014, acc := .ro, fused := true, masks := [0x1FFFF] }, { off := 0x018, acc := .ro, masks := [0x1FFFF] }, { off := 0x01C, acc := .ro, masks := [0x1FFFF] },
      { off := 0x020, acc := .live }, { off := 0x024, acc := .cnt }, { off := 0x028, acc := .cnt }, { off := 0x02C, acc := .cnt } ]
  | .co => -- R83
    [ { off := 0x010, acc := .log, masks := [0x8000FFFF] }, { off := 0x014, acc := .log, lead := some 0x010 },
      { off := 0x018, acc := .log, words := 2, lead := some 0x010 }, { off := 0x020, acc := .cnt, count := 3 },
      { off := 0x030, acc := .log, words := 2, masks := [0xFFFFFFFF, 0x80000003] }, { off := 0x040, acc := .cnt, count := 8 } ]
  | .tg => -- R83
    [ { off := 0x010, acc := .live }, { off := 0x014, acc := .log, masks := [0x80001FFF] }, { off := 0x018, acc := .log, lead := some 0x014 },
      { off := 0x020, acc := .cnt, words := 2 }, { off := 0x028, acc := .cnt }, { off := 0x02C, acc := .cnt } ]
  | .oe => -- R328, R360
    [ { off := 0x010, acc := .rw, reset := 0x80000101, masks := [0xFFFFFF01] }, { off := 0x014, acc := .live }, { off := 0x018, acc := .live },
      { off := 0x01C, acc := .live }, { off := 0x020, acc := .live }, { off := 0x024, acc := .live }, { off := 0x028, acc := .cnt },
      { off := 0x02C, acc := .cnt }, { off := 0x030, acc := .log, words := 2, masks := [0xFFFFFFF, 0x80000003] }, { off := 0x038, acc := .live },
      { off := 0x03C, acc := .w1t }, { off := 0x040, acc := .live, count := 17 },
      { off := 0x100, acc := .rw, reset := 0x0A3C0519 }, { off := 0x104, acc := .rw, reset := 0xE000, unguarded := true, masks := [0xFFFF] },
      { off := 0x108, acc := .cnt, count := 4 }, { off := 0x118, acc := .log, masks := [0x80FFFFFF] }, { off := 0x11C, acc := .cnt },
      { off := 0x120, acc := .cnt }, { off := 0x124, acc := .sh, masks := [0x3FFFFF] }, { off := 0x128, acc := .cnt }, { off := 0x12C, acc := .live },
      { off := 0x130, acc := .sh, masks := [0x8007FFFF] }, { off := 0x134, acc := .log, masks := [0x80000003] }, { off := 0x138, acc := .live },
      { off := 0x140, acc := .sh, count := 18, masks := [0xFFFF] } ]
  | .ls => -- R361
    [ { off := 0x010, acc := .rw, reset := 1, masks := [0x1] }, { off := 0x014, acc := .live }, { off := 0x018, acc := .live },
      { off := 0x01C, acc := .live }, { off := 0x020, acc := .rw, reset := 0x9C4 }, { off := 0x024, acc := .rw, reset := 0xA8C },
      { off := 0x028, acc := .rw, unguarded := true, masks := [0x80000FFF] }, { off := 0x02C, acc := .sh, masks := [0x80000000] }, { off := 0x030, acc := .log, masks := [0x80000007] },
      { off := 0x034, acc := .cnt, count := 3 }, { off := 0x040, acc := .live }, { off := 0x044, acc := .cnt },
      { off := 0x080, acc := .live, count := 18 } ]

/-- Every register of a block. -/
def blkRows (k : BlkKind) : List RegRow := headerRows k ++ blockRows k

/-- Decode masks (R473–R478). -/
def BlkKind.mask : BlkKind → Nat
  | .hm | .tm | .pw | .gf | .dl => 0x3FC
  | .td | .sb | .mc | .co => 0x07C
  | .bl | .bt | .el | .sc | .pr | .tg => 0x03C
  | .pl | .qn | .ql | .ls => 0x0FC
  | .ck | .id => 0x01C
  | .oe => 0x1FC

/-- A block: its kind, its slot, its instance number (R472) and where its window starts. -/
structure Blk where
  kind : BlkKind
  slot : Nat
  inst : Nat
  base : Nat
  deriving DecidableEq, Repr

def slotBase (s : Nat) : Nat := s * 0x4000000

def blkHM : Blk := ⟨.hm, 0, 0, 0x0⟩
def blkTD : Blk := ⟨.td, 0, 0, 0x4000⟩
def blkBL : Blk := ⟨.bl, 0, 0, 0x8000⟩
def blkBT : Blk := ⟨.bt, 0, 0, 0xC000⟩
def blkEL : Blk := ⟨.el, 0, 0, 0x10000⟩
def blkPL : Blk := ⟨.pl, 0, 0, 0x14000⟩
def blkTM : Blk := ⟨.tm, 0, 0, 0x18000⟩
def blkPW : Blk := ⟨.pw, 0, 0, 0x1C000⟩
def blkSB : Blk := ⟨.sb, 0, 0, 0x20000⟩
def blkGF : Blk := ⟨.gf, 0, 0, 0x24000⟩

/-- Slots of the base and compute dies, the engines and the chiplets (R453). -/
def slotQ (q : Nat) : Nat := 1 + q
def slotC (c : Nat) : Nat := 8 + c
def slotOE (n : Nat) : Nat := 24 + n
def slotLS (n : Nat) : Nat := 32 + n

/-- The die type of a slot in R272 table order: 0 hub, 1 base, 2 compute, 3 engine, 4 chiplet, 5 guest. -/
def dieType (s : Nat) : Option Nat :=
  if s = 0 then some 0 else if 1 ≤ s ∧ s ≤ 6 then some 1 else if 8 ≤ s ∧ s ≤ 19 then some 2
  else if 24 ≤ s ∧ s ≤ 31 then some 3 else if 32 ≤ s ∧ s ≤ 39 then some 4 else if s = 40 then some 5 else none

/-- The ID block of a slot (R473–R478). -/
def blkID (s : Nat) : Blk :=
  ⟨.id, s, 0, slotBase s + (if s = 0 then 0x2C000 else if dieType s = some 2 then 0x1000000 else 0)⟩

/-- The CK block of a slot. -/
def blkCK (s : Nat) : Blk :=
  ⟨.ck, s, 0, slotBase s + (if s = 0 then 0x28000 else if dieType s = some 2 then 0x1004000 else 0x4000)⟩

/-- The SC block of the hub, a base die or a compute die. -/
def blkSC (s : Nat) : Blk :=
  ⟨.sc, s, 0, slotBase s + (if s = 0 then 0x30000 else if dieType s = some 2 then 0x1008000 else 0xC000)⟩

def blkQN (q : Nat) : Blk := ⟨.qn, slotQ q, 0, slotBase (slotQ q) + 0x8000⟩

/-- The base die that owns stack m (R12), and the stack's place in that die's list (R475). -/
def stackHome (m : Nat) : Nat × Nat :=
  if m < 3 then (0, m) else if m < 5 then (1, m - 3) else if m < 8 then (2, m - 5)
  else if m < 11 then (3, m - 8) else if m < 13 then (4, m - 11) else (5, m - 13)

/-- The stack that is the `j`-th of base die `q`, where there is one. -/
def stackOf (q j : Nat) : Option Nat :=
  (List.range 16).find? fun m => stackHome m == (q, j)

def blkMC (m : Nat) : Blk :=
  let h := stackHome m
  ⟨.mc, slotQ h.1, m, slotBase (slotQ h.1) + 0x10000 + h.2 * 0x4000⟩

/-- A QL endpoint of the hub or of a base die. -/
def blkQL (s u : Nat) : Blk := ⟨.ql, s, u, slotBase s + (if s = 0 then 0x34000 else 0x100000) + u * 0x4000⟩

/-- A DL bundle pair of the hub, a base die or an engine. -/
def blkDL (s k : Nat) : Blk :=
  ⟨.dl, s, k, slotBase s + (if s = 0 then 0x3C000 else if dieType s = some 3 then 0xC000 else 0x200000) + k * 0x4000⟩

def blkPR (c p : Nat) : Blk := ⟨.pr, slotC c, p, slotBase (slotC c) + p * 0x50000⟩
def blkCO (c p j : Nat) : Blk := ⟨.co, slotC c, j, slotBase (slotC c) + p * 0x50000 + (1 + j) * 0x4000⟩
def blkTG (c p t : Nat) : Blk := ⟨.tg, slotC c, t, slotBase (slotC c) + p * 0x50000 + 0x48000 + t * 0x4000⟩
def blkOE (n : Nat) : Blk := ⟨.oe, slotOE n, n, slotBase (slotOE n) + 0x8000⟩
def blkLS (n : Nat) : Blk := ⟨.ls, slotLS n, n, slotBase (slotLS n) + 0x8000⟩

/-- The address of a register of a block. -/
def Blk.reg (b : Blk) (off : Nat) : Nat := b.base + off

/-! Array windows (R479). -/

inductive ArrKind where
  | bollards | launches | errors | berths
  | release (m : Nat) | retire (m : Nat)
  | places (n : Nat) | powers (n : Nat) | rings (n : Nat)
  deriving DecidableEq, Repr

/-- Edges of a base die (R475): which base die lies north, east, south, west, if any. -/
def neighbour (q e : Nat) : Option Nat :=
  match q, e with
  | 0, 1 => some 1 | 0, 2 => some 3
  | 1, 1 => some 2 | 1, 2 => some 4 | 1, 3 => some 0
  | 2, 2 => some 5 | 2, 3 => some 1
  | 3, 0 => some 0 | 3, 1 => some 4
  | 4, 0 => some 1 | 4, 1 => some 5 | 4, 3 => some 3
  | 5, 0 => some 2 | 5, 3 => some 4
  | _, _ => none

/-- The two engines of a base die (R12), lower-numbered first, and the edge they stand on (R275). -/
def enginesOf (q : Nat) : Option (Nat × Nat) :=
  match q with
  | 0 => some (0, 3) | 2 => some (4, 1) | 3 => some (2, 3) | 5 => some (6, 1)
  | _ => none

/-- The base die of engine n and its place g there. -/
def engineHome (n : Nat) : Nat × Nat :=
  (if n < 2 then 0 else if n < 4 then 3 else if n < 6 then 2 else 5, n % 2)

/-- Whether a base die has bundle pair k (R475). -/
def hasBundle (q k : Nat) : Bool :=
  let e := k / 8
  (neighbour q e).isSome || (match enginesOf q with
    | some (_, e') => e = e'
    | none => false) || (q = 1 && k < 2)

/-- What an access at an offset of register space reaches. -/
inductive Place where
  | block (b : Blk) (off : Nat)                -- the register window of a block, offset within it
  | array (a : ArrKind) (owner : Blk) (off : Nat)
  | empty                                      -- inside a populated slot, covered by no window (R454)
  | unmapped                                   -- slots 7, 20–23 and above 40 (R453)
  deriving DecidableEq, Repr

/-- The window of 16 KiB that an offset lies in. -/
def winOf (base n o : Nat) : Option Nat := if base ≤ o ∧ o < base + n * 0x4000 then some ((o - base) / 0x4000) else none

/-- Hub slot (R473). `guestNative` says GF_FUSE names a native guest port. -/
def placeHub (guestNative : Bool) (o : Nat) : Place :=
  let w := o % 0x4000
  match o / 0x4000 with
  | 0 => .block blkHM w | 1 => .block blkTD w | 2 => .block blkBL w | 3 => .block blkBT w
  | 4 => .block blkEL w | 5 => .block blkPL w | 6 => .block blkTM w | 7 => .block blkPW w
  | 8 => .block blkSB w | 9 => .block blkGF w | 10 => .block (blkCK 0) w | 11 => .block (blkID 0) w
  | 12 => .block (blkSC 0) w | 13 => .block (blkQL 0 0) w | 14 => .block (blkQL 0 1) w
  | 15 => .block (blkDL 0 0) w | 16 => .block (blkDL 0 1) w
  | 17 => if guestNative then .block (blkDL 0 2) w else .empty
  | _ =>
    if 0x100000 ≤ o ∧ o < 0x110000 then .array .bollards blkBL (o - 0x100000)
    else if 0x120000 ≤ o ∧ o < 0x140000 then .array .launches blkTD (o - 0x120000)
    else if 0x140000 ≤ o ∧ o < 0x160000 then .array .errors blkEL (o - 0x140000)
    else if 0x200000 ≤ o ∧ o < 0x400000 then .array .berths blkBT (o - 0x200000)
    else .empty

/-- A base die's slot (R474, R475). -/
def placeBase (q o : Nat) : Place :=
  let s := slotQ q
  let w := o % 0x4000
  match o / 0x4000 with
  | 0 => .block (blkID s) w | 1 => .block (blkCK s) w | 2 => .block (blkQN q) w | 3 => .block (blkSC s) w
  | _ =>
    match winOf 0x10000 3 o with
    | some j => match stackOf q j with
      | some m => .block (blkMC m) w
      | none => .empty
    | none =>
    match winOf 0x100000 64 o with
    | some u => .block (blkQL s u) w
    | none =>
    match winOf 0x200000 32 o with
    | some k => if hasBundle q k then .block (blkDL s k) w else .empty
    | none =>
      if 0x300000 ≤ o ∧ o < 0x306000 then
        match stackOf q ((o - 0x300000) / 0x2000) with
        | some m => .array (.release m) (blkMC m) ((o - 0x300000) % 0x2000)
        | none => .empty
      else if 0x310000 ≤ o ∧ o < 0x310300 then
        match stackOf q ((o - 0x310000) / 0x100) with
        | some m => .array (.retire m) (blkMC m) ((o - 0x310000) % 0x100)
        | none => .empty
      else .empty

/-- A compute die's slot (R476). -/
def placeCompute (c o : Nat) : Place :=
  let s := slotC c
  let w := o % 0x4000
  if o < 0xF00000 then
    let p := o / 0x50000
    match o % 0x50000 / 0x4000 with
    | 0 => .block (blkPR c p) w
    | 18 => .block (blkTG c p 0) w
    | 19 => .block (blkTG c p 1) w
    | j => .block (blkCO c p (j - 1)) w
  else if o / 0x4000 = 0x400 then .block (blkID s) w
  else if o / 0x4000 = 0x401 then .block (blkCK s) w
  else if o / 0x4000 = 0x402 then .block (blkSC s) w
  else .empty

/-- An optical engine's slot (R477). -/
def placeEngine (n o : Nat) : Place :=
  let s := slotOE n
  let w := o % 0x4000
  match o / 0x4000 with
  | 0 => .block (blkID s) w | 1 => .block (blkCK s) w | 2 => .block (blkOE n) w
  | 3 => .block (blkDL s 0) w | 4 => .block (blkDL s 1) w | 5 => .block (blkDL s 2) w | 6 => .block (blkDL s 3) w
  | _ =>
    if 0x20000 ≤ o ∧ o < 0x20800 then .array (.places n) (blkOE n) (o - 0x20000)
    else if 0x20800 ≤ o ∧ o < 0x21000 then .array (.powers n) (blkOE n) (o - 0x20800)
    else if 0x30000 ≤ o ∧ o < 0x40000 then .array (.rings n) (blkOE n) (o - 0x30000)
    else .empty

/-- A laser chiplet's slot (R478). -/
def placeLaser (n o : Nat) : Place :=
  let s := slotLS n
  match o / 0x4000 with
  | 0 => .block (blkID s) (o % 0x4000) | 1 => .block (blkCK s) (o % 0x4000) | 2 => .block (blkLS n) (o % 0x4000)
  | _ => .empty

/-- What an offset of register space reaches (R453, R454). -/
def placeOf (guestNative : Bool) (off : Nat) : Place :=
  let s := off / 0x4000000
  let o := off % 0x4000000
  match dieType s with
  | some 0 => placeHub guestNative o
  | some 1 => placeBase (s - 1) o
  | some 2 => placeCompute (s - 8) o
  | some 3 => placeEngine (s - 24) o
  | some 4 => placeLaser (s - 32) o
  | some 5 => if o < 0x4000 then .block (blkID 40) o else .empty
  | _ => .unmapped

/-- The row of a block's table that holds offset `o`, and the offset of that register's first word. -/
def rowAt (k : BlkKind) (o : Nat) : Option (RegRow × Nat) :=
  (blkRows k).findSome? fun r =>
    if r.off ≤ o ∧ (o - r.off) / r.stride < r.count ∧ (o - r.off) % r.stride < 4 * r.words then
      some (r, r.off + (o - r.off) / r.stride * r.stride)
    else if r.count = 1 ∧ r.off ≤ o ∧ o < r.off + 4 * r.words then some (r, r.off)
    else none

/-- The bits of word `i` of a register that are not reserved (R9). QN_ROUTE has no bit for its own die (R482), and the third
lane map of a bundle ends at P67 (R302). -/
def regMask (b : Blk) (r : RegRow) (first i : Nat) : Word :=
  if b.kind = .qn ∧ r.off = 0x010 then BitVec.ofNat 32 (0x3F ^^^ 2 ^ (b.slot - 1))
  else if b.kind = .dl ∧ 0x018 ≤ r.off ∧ r.off < 0x048 ∧ first = r.off + 8 then 0xF
  else BitVec.ofNat 32 (r.masks.getD i 0xFFFFFFFF)

/-- BLK_ID of a block (R457, R472). -/
def Blk.id (b : Blk) : Word := BitVec.ofNat 32 (b.kind.code + b.inst * 256 + 0x10000)

/-- ID_SITE of a slot (R272, R301): the strap code, the die type in R272 table order, and VALID. -/
def idSite (s : Nat) : Word := BitVec.ofNat 32 (s + ((dieType s).getD 0) * 256 + 0x8000)

/-- What a register word holds at reset, by its offset in register space: the value its table gives. Fused values come
from `Config`. ID_DEVICE is in the hub only (R301). The guest port's DL block can be read in native mode only (R473). -/
def regReset (off : Nat) : Word :=
  match placeOf true off with
  | .block b w =>
    match rowAt b.kind w with
    | some (r, first) =>
      if w = 0 then b.id
      else if b.kind = .id ∧ w = 0x010 then idSite b.slot
      else if b.kind = .id ∧ b.slot ≠ 0 then 0
      else if r.fused then Config.fused off &&& regMask b r first ((w - first) / 4)
      else BitVec.ofNat 32 (r.reset / 2 ^ (8 * (w - first)))
    | none => 0
  | _ => 0

end Sys2Proof.Machine
end

