-- ==== Sys2Proof/Machine/Maps.lean ====
section
/-! DEFINITION. Sparse maps in one canonical form: keys strictly rising, no entry equal to what an unlisted key
reads as. Memory, register files and every other large array of the module are such maps, so equal contents are
equal data. -/

namespace Sys2Proof.Machine

/-- A sparse map from natural-number keys. What an unlisted key reads as is given at each use. -/
abbrev Tbl (β : Type) := List (Nat × β)

/-- What key `k` reads as; `d` is the value of an unlisted key. -/
def tget {β : Type} (m : Tbl β) (k : Nat) (d : β) : β :=
  match m with
  | [] => d
  | (a, v) :: r => if a = k then v else tget r k d

/-- Remove the entry of key `k`. -/
def terase {β : Type} (m : Tbl β) (k : Nat) : Tbl β :=
  match m with
  | [] => []
  | (a, v) :: r => if a = k then r else (a, v) :: terase r k

/-- Place an entry for key `k`, keeping the keys rising. -/
def tput {β : Type} (m : Tbl β) (k : Nat) (v : β) : Tbl β :=
  match m with
  | [] => [(k, v)]
  | (a, w) :: r =>
    if k < a then (k, v) :: (a, w) :: r
    else if k = a then (k, v) :: r
    else (a, w) :: tput r k v

/-- Write key `k`. Writing what an unlisted key reads as removes the entry. -/
def tset {β : Type} [DecidableEq β] (m : Tbl β) (k : Nat) (v d : β) : Tbl β :=
  if v = d then terase m k else tput m k v

/-- Update key `k` through a function. -/
def tmod {β : Type} [DecidableEq β] (m : Tbl β) (k : Nat) (d : β) (f : β → β) : Tbl β :=
  tset m k (f (tget m k d)) d

/-- Every key from `lo` up to but not including `hi` reads as unlisted. -/
def tclear {β : Type} (m : Tbl β) (lo hi : Nat) : Tbl β :=
  m.filter fun e => decide (e.1 < lo) || decide (hi ≤ e.1)

/-- Change every entry through a function, keeping the canonical form. -/
def tmap {β : Type} [DecidableEq β] (m : Tbl β) (d : β) (f : Nat → β → β) : Tbl β :=
  m.filterMap fun e => let v := f e.1 e.2; if v = d then none else some (e.1, v)

/-- The keys of a map rise strictly. -/
def tsorted {β : Type} : Tbl β → Bool
  | [] => true
  | [_] => true
  | (a, _) :: (b, w) :: r => decide (a < b) && tsorted ((b, w) :: r)

/-- The canonical form: keys strictly rising and no entry equal to what an unlisted key reads as. -/
def twf {β : Type} [DecidableEq β] (m : Tbl β) (d : Nat → β) : Bool :=
  tsorted m && m.all fun e => decide (e.2 ≠ d e.1)

/-! Byte memory. -/

/-- Memory: the bytes that are not zero, by device physical address (R21). -/
abbrev Memory := List Host.Cell

/-- What an unlisted address reads as: start-up clearing, chart load and dredging write zeros (R79, R170, R174). -/
def Memory.unlisted : Byte := 0

/-- The canonical form of memory. -/
def Memory.wf (m : Memory) : Bool := twf m fun _ => Memory.unlisted

/-- One byte of memory. -/
def Memory.read (m : Memory) (a : Nat) : Byte := tget m a Memory.unlisted

/-- Write one byte of memory. -/
def Memory.write (m : Memory) (a : Nat) (b : Byte) : Memory := tset m a b Memory.unlisted

/-- `n` bytes from address `a`. -/
def Memory.readBytes (m : Memory) (a : Nat) : Nat → List Byte
  | 0 => []
  | n + 1 => Memory.read m a :: Memory.readBytes m (a + 1) n

/-- Write the bytes of a list from address `a` on. -/
def Memory.writeBytes (m : Memory) (a : Nat) : List Byte → Memory
  | [] => m
  | b :: r => Memory.writeBytes (Memory.write m a b) (a + 1) r

/-- A little-endian value of `n` bytes (R7). -/
def Memory.readNat (m : Memory) (a n : Nat) : Nat := bytesToNat (Memory.readBytes m a n)

/-- Write a little-endian value of `n` bytes (R7). -/
def Memory.writeNat (m : Memory) (a n x : Nat) : Memory := Memory.writeBytes m a (natToBytes n x)

end Sys2Proof.Machine
end

