-- ==== Sys2Proof/Machine/State.lean ====
section
/-! DEFINITION. The state of the module: every register, table, queue, counter, mode and pin that the manual gives it,
as plain data, and the queue of commands waiting. -/

namespace Sys2Proof.Machine

/-! ## Cores (R58, R90, R92, R96) -/

/-- A formatted weight tile (R58, R62): element codes as the array takes them, one scale code per column. -/
structure WBuf where
  /-- The format whose tile is loaded; none since the launch (R107). Q2 tiles keep the code Q2 with decoded F4 codes. -/
  fmt    : Option Fmt := none
  data   : BitVec 16384 := 0
  scales : BitVec 256 := 0
  poison : Bool := false
  deriving DecidableEq, Repr

/-- An issued WLD waiting in the weight-load queue (R90). -/
structure WldEntry where
  seq : Nat
  loc : Nat
  buf : Fin 2
  fmt : Fmt
  data  : Nat
  scale : Option Nat
  poison : Bool
  deriving DecidableEq, Repr

/-- An issued MMA waiting in the array queue (R90, R105). -/
structure MmaEntry where
  seq : Nat
  loc : Nat
  buf : Fin 2
  acc : Fin 4
  fa  : Fmt
  fb  : Fmt
  firstRow : Nat
  rows  : Nat
  fresh : Bool
  stride : Nat
  data  : Nat
  scale : Option Nat
  poison : Bool
  deriving DecidableEq, Repr

/-- What a slot's instruction does when its bundle completes (R87): register writes, stores and issues, held until
both slots have been executed. -/
inductive CoreWrite where
  | sreg (r : Reg) (v : Dword) (poison : Bool)
  | vreg (r : Reg) (v : Parcel) (poison : Bool)
  | accRows (a : Fin 4) (j : Nat) (v : Parcel) (poison : Bool)
  | store (addr n x : Nat) (poison : Bool)
  | storeParcel (addr : Nat) (x : Parcel) (poison : Bool)
  | verified (addr : Nat)
  | numeric (nan ovf sat : Bool)
  | consumed (poisoned : Bool)
  | poisonSeen
  | wld (e : WldEntry)
  | mma (e : MmaEntry)
  | signal (boll : Nat) (amount : Word)
  | signalRemote (dev boll : Nat) (amount : Word)
  | branch (target : Nat)
  | ending
  deriving DecidableEq, Repr

/-- A fetched bundle being executed (R84, R87). -/
structure Bundle where
  idx : Nat
  op0 : Instr
  op1 : Instr
  /-- The precise-fault checks of R110 have been made. -/
  issued : Bool := false
  done0 : Bool := false
  done1 : Bool := false
  writes0 : List CoreWrite := []
  writes1 : List CoreWrite := []
  deriving DecidableEq, Repr

/-- What a core is doing (R78, R91, R108). -/
inductive CoreRun where
  | idle       -- no voyage
  | running
  | waitBollard
  | waitTug
  | waitEnd    -- END issued, waiting under R108
  | ended      -- END retired
  | stopped    -- stopped by the harbourmaster or after another core's fault (R111)
  | faulted
  deriving DecidableEq, Repr

/-- One line of the instruction buffer: four bundles (R96). -/
structure ILine where
  line : Nat
  data : BitVec 512
  deriving DecidableEq, Repr

/-- What a core site holds beside its SRAM (R58, R90, R96, R98). -/
structure CoreSt where
  sreg  : Tbl Dword := []
  vreg  : Tbl Parcel := []
  acc   : Tbl Word := []            -- key a·1024 + row·32 + column
  w0    : WBuf := {}
  w1    : WBuf := {}
  spois : BitVec 32 := 0
  vpois : BitVec 32 := 0
  apois : BitVec 4 := 0
  /-- The words of registers whose stored parity no longer matches (R58). -/
  badPar : List ParityBit := []
  /-- Thousandths of a core cycle since the last bundle retired, but for time spent waiting on a bollard or for a tug slot
  (R78). -/
  idle   : Nat := 0
  pc    : Nat := 0
  ibuf  : List ILine := []          -- most recently used first
  cur   : Option Bundle := none
  wq    : List WldEntry := []
  aq    : List MmaEntry := []
  issueSeq : Nat := 0
  /-- The format of the last WLD issued for each buffer (R105). -/
  wfmt0 : Option Fmt := none
  wfmt1 : Option Fmt := none
  /-- Accumulators whose result is not yet complete (R90). -/
  accPending : BitVec 4 := 0
  run   : CoreRun := .idle
  deriving DecidableEq, Repr

/-- The voyage a core runs (R98, R107). -/
structure CoreVoyage where
  set    : Nat := 0
  voyage : BitVec 16 := 0
  rank   : Nat := 0
  size   : Nat := 0
  time   : Dword := 0
  fire   : Dword := 0
  levels : BitVec 256 := 0
  /-- The last tide time the core read (R27: it never runs backwards). -/
  lastTide : Dword := 0
  deriving DecidableEq, Repr

/-- The harbourmaster's self-test of a pier (R80–R82). -/
structure SelfTest where
  /-- The site whose turn it is. -/
  site   : Nat := 0
  /-- Slices done of each site's present complete test. -/
  slices : Tbl Nat := []
  /-- Sites a slice of whose present complete test has failed. -/
  failed : BitVec 17 := 0
  /-- The slice in progress: its site and the tide time at which it began. It takes 8 µs. -/
  active : Option (Nat × Dword) := none
  /-- Sites whose last complete test failed (PR_STEST_BAD). -/
  bad    : BitVec 17 := 0
  deriving DecidableEq, Repr

/-! ## Tugs (R72–R76) -/

/-- One side of a transfer in progress. -/
structure TugRun where
  /-- The fault that this side's translation found; 0 for none (R76). -/
  code : Nat := 0
  /-- The page base. -/
  base : Nat := 0
  /-- The entry's SESSION (R162). -/
  session : Word := 0
  /-- Invalidations begun before the translation (R67). -/
  epoch : Nat := 0
  deriving DecidableEq, Repr

/-- A descriptor slot. -/
structure TugSlot where
  core   : CoreId
  loc    : Nat                 -- the bundle of the TUGP that posted the chain (R110)
  set    : Nat
  voyage : BitVec 16
  desc   : BitVec 512
  poisoned : Bool              -- read as poisoned or uncorrectable (code 0x0B)
  started : Bool := false
  /-- The WAIT bollard has been reached and its watch slot released. -/
  waited : Bool := false
  issued : Nat := 0            -- parcels whose reads have been issued
  src    : Option TugRun := none
  dst    : Option TugRun := none
  /-- A translation miss waits for its entry: the berth index. -/
  miss   : Option Nat := none
  serial : Nat := 0            -- names this descriptor in link traffic
  deriving DecidableEq, Repr

/-- A descriptor that has issued its last read and waits for its DONE, in descriptor order (R73). -/
structure TugPend where
  core   : CoreId
  loc    : Nat
  set    : Nat
  voyage : BitVec 16
  desc   : BitVec 512
  /-- The last of its chain: it holds the slot until its DONE. -/
  last   : Bool
  serial : Nat
  deriving DecidableEq, Repr

/-- A parcel with its check and poison mark. -/
structure PData where
  data   : Parcel
  check  : Word
  poison : Bool
  deriving DecidableEq, Repr

/-- A tug. -/
structure TugSt where
  slots  : List TugSlot := []
  pend   : List TugPend := []
  /-- Core sets whose voyage a fault of this tug is ending (TG_STAT.HALTED). -/
  halted : List Nat := []
  serial : Nat := 0
  /-- Parcels and reports that descriptors still wait for, by serial number. -/
  waits  : Tbl Nat := []
  /-- The parcel of core SRAM that the tug is part-way through writing (R61). -/
  part   : Option (Nat × PData) := none
  deriving DecidableEq, Repr

/-- A tug fault raised on a core: DETAIL, the address involved, and the bundle of the TUGP (R110). -/
structure TugHit where
  core   : CoreId
  detail : Nat
  addr   : Nat
  loc    : Nat
  deriving DecidableEq, Repr

/-- A pier: its translation cache, most recently used first, and the self-test (R65). -/
structure PierSt where
  cache : List (Nat × BitVec 128) := []
  test  : SelfTest := {}
  deriving DecidableEq, Repr

/-- Cores, piers and tugs. Keys: a site is (die·48 + pier)·17 + site, a pier die·48 + pier, a tug (die·48 + pier)·2 + tug. -/
structure CoresSt where
  core   : Tbl CoreSt := []
  /-- Tug faults that cores take at their next bundle boundary (R110, R113). -/
  tugHits : List TugHit := []
  voy    : Tbl CoreVoyage := []
  pier   : Tbl PierSt := []
  tug    : Tbl TugSt := []
  /-- Constant stores, key pier·65,536 + byte (R65). -/
  consts : Memory := []
  deriving DecidableEq, Repr

/-! ## Memory (R149–R206) -/

/-- Bytes, and for each parcel (key address ÷ 256) its check, poison mark and seal state. -/
structure MemSt where
  bytes  : Memory := []
  check  : Tbl Word := []
  poison : Tbl Bool := []
  sealSt : Tbl (BitVec 2) := []
  /-- Flipped bits of each 64-bit word of SRAM with its eight check bits (R185); key address ÷ 8. -/
  sramErr : Tbl (BitVec 72) := []
  /-- Flipped bits of each parcel's entry in the side array of its SRAM, with the entry's own check bits (R185); key address ÷ 256. -/
  sideErr : Tbl (BitVec 72) := []
  /-- Difference from a valid code word of each HBM burst pair (R188); key address ÷ 64. -/
  hbmErr : Tbl (BitVec 576) := []
  /-- Burst pairs rewritten as poison (R190). -/
  hbmPois : Tbl Bool := []
  /-- Burst pairs whose own POISON bit an error has made differ from the parcel's mark (R187, R190); key address ÷ 64. -/
  hbmFlip : Tbl Bool := []
  deriving DecidableEq, Repr

/-- An HBM controller. -/
structure McSt where
  /-- MC_DREDGE.STATE: dredging has been started. -/
  started : Bool := false
  /-- Regions below this one are released. -/
  dredge  : Nat := 0
  /-- Regions released ahead of the walk (R172). -/
  ahead   : List Nat := []
  /-- Regions the walk passed over in a retired page: neither written nor released (R201). -/
  skipped : List Nat := []
  /-- Retirement slots in use: slot and page (R201). -/
  retired : List (Nat × Nat) := []
  /-- Retired pages already logged in this power cycle. -/
  retLogged : List Nat := []
  /-- The stack failed training and is unpopulated (R431). -/
  failed  : Bool := false
  unwrittenLogged : Bool := false
  /-- Temperature samples in a row that agree on a change (R153). -/
  agree   : Nat := 0
  hot     : Bool := false
  temp    : Byte := 0
  /-- Samples since the last change of refresh rate. -/
  inState : Nat := 0
  ceCount : Nat := 0
  ceAddr  : Nat := 0
  /-- The second of hub tide time that `ceCount` counts (R198). -/
  ceSec   : Nat := 0
  selfRefresh : Bool := false
  deriving DecidableEq, Repr

/-- A scrubber (R195, R196). -/
structure ScrubSt where
  hbmPos  : Tbl Nat := []     -- next parcel, by the die's stack number
  sramPos : Nat := 0          -- next word
  /-- When the walks in progress began; none before the block is first enabled. -/
  hbmStart : Option Nat := none
  sramStart : Option Nat := none
  ceCount : Nat := 0          -- SRAM corrections in the present second
  ceAddr  : Nat := 0
  ceUnit  : Nat := 0
  ceSec   : Nat := 0
  /-- Stacks whose walk has lagged and not caught up since (R196). -/
  behindH : List Nat := []
  behindS : Bool := false
  /-- The spare bank in use (R202). -/
  spare   : Option Nat := none
  deriving DecidableEq, Repr

/-- A berth commit or sweep whose invalidations some pier has not yet answered (R67, R164, R166). -/
structure BerthOp where
  entries : List Nat
  piers   : List Nat
  /-- The result word, and whether it is a sweep's. -/
  sweep   : Bool
  result  : Word
  deriving DecidableEq, Repr

structure BerthSt where
  table : Tbl (BitVec 128) := []
  /-- Invalidations begun so far (R67). -/
  epoch : Nat := 0
  op    : Option BerthOp := none
  deriving DecidableEq, Repr

/-- The error log (R197–R200): records by slot. -/
structure ElogSt where
  ring  : Tbl (BitVec 256) := []
  head  : Nat := 0
  tail  : Nat := 0
  count : Nat := 0
  seq   : BitVec 16 := 0
  deriving DecidableEq, Repr

/-- An event message (R380). -/
structure Event where
  cls  : Nat
  lost : Bool
  time : Dword
  data : BitVec 256
  sent : Bool := false
  /-- It has been sent in some session: a later sending is a resend (R369). -/
  told : Bool := false
  deriving DecidableEq, Repr

/-! ## Tide, launches, bollards, slack water -/

/-- TD_SYNC.STATE (R121). -/
inductive TideState where
  | free
  | acquire
  | locked
  | holdover
  deriving DecidableEq, Repr

structure TideSt where
  hub    : Dword := 0
  /-- Each die's counter less the hub's, by slot (R115). -/
  dieOfs : Tbl Int := []
  /-- Tide of the last check mark at each die (R115). -/
  markAt : Tbl (Option Dword) := []
  /-- Corrections still to be slewed at each die (R116). -/
  dieSlew : Tbl Int := []
  /-- When the dies last took a tick of their corrections. -/
  dieSlewAt : Option Nat := none
  st     : TideState := .free
  everLocked : Bool := false
  /-- TD has been enabled since the module's last reset (R145). -/
  everEnabled : Bool := false
  /-- Twice the offset of each of the last 64 exchanges, newest first (R120). -/
  offs   : List Int := []
  seq    : BitVec 16 := 0
  /-- The outstanding request: exchange number, and when it was asked for or, once it has passed the line, its transmit stamp. -/
  outst  : Option (BitVec 16 × Dword) := none
  lastReply : Dword := 0
  /-- Time of the last request for an exchange (R120). -/
  askedAt : Option Nat := none
  holdSince : Dword := 0
  alarm  : Bool := false
  holdLong : Bool := false
  /-- Beacon nets lost: (slot, net). -/
  beacon : List (Nat × Nat) := []
  /-- Correction still to be slewed, in tide ticks, and the tide of the last slew (R116). -/
  slew   : Int := 0
  lastSlew : Dword := 0
  /-- A slew asked through PL_TIDE_SLEW is under way (R384). -/
  slewCmd : Bool := false
  markOut : Bool := false
  markIn : Dword := 0
  /-- Time of the last edge at the tide-mark input. -/
  markEdge : Option Nat := none
  /-- TD safe state (R466). -/
  safe   : Bool := false
  deriving DecidableEq, Repr

/-- STATE of a launch entry (R124). -/
inductive LState where
  | free
  | pending
  | held
  | armed
  deriving DecidableEq, Repr

/-- A launch entry (R124), with the fire time fixed at arming (R126). -/
structure LEntry where
  st      : LState := .free
  time    : Dword := 0
  voyage  : BitVec 16 := 0
  coreset : BitVec 16 := 0
  ctrl    : Word := 0
  arg     : Dword := 0
  done    : Word := 0
  doneAdd : Word := 0
  fire    : Dword := 0
  /-- Why it fires late (R127): the highest cause that applies, 0 for none. -/
  cause   : Nat := 0
  /-- Its load-step forecast has been sent (R20). -/
  forecast : Bool := false
  /-- Its fire time fell in a forced window that has ended (R127, R145). -/
  deferred : Bool := false
  deriving DecidableEq, Repr

/-- A running voyage (R131). -/
structure Voyage where
  voyage : BitVec 16
  index  : Nat
  entry  : LEntry
  /-- Compute dies of its core set whose own counter has not reached the launch time (R19). -/
  waiting : List Nat := []
  /-- The status code once it is ending: the status word without POISON_SEEN and NUMERIC (R112). -/
  ending : Option Word := none
  /-- When that status reached the harbourmaster (R113). -/
  endAt : Nat := 0
  /-- The harbourmaster stops it in the present control cycle: the status code, and the DETAIL of cause 0x09 (R113). -/
  halt : Option (Word × Nat) := none
  /-- Flags of R112 gathered from its cores. -/
  poisonSeen : Bool := false
  numeric : Bool := false
  deriving DecidableEq, Repr

/-- A forecast whose profile an engine has loaded: its fire time, when it was loaded, and the power steps in watts (R340). -/
structure FfProfile where
  fire   : Dword
  loaded : Nat
  steps  : List (Nat × Nat)
  deriving DecidableEq, Repr

/-- A load-step forecast that has been sent (R20, R340): the fire time, the power step of each compute die concerned in watts,
and the engines and compute-die regulators that have not taken it yet. -/
structure Forecast where
  fire    : Dword
  steps   : List (Nat × Nat)
  engines : List Nat
  dies    : List Nat
  deriving DecidableEq, Repr

structure LaunchSt where
  table : Tbl LEntry := []
  lastF : Option Dword := none
  /-- The earliest fire time of the next entry if no forced window deferred any (R126, R145). -/
  plain : Nat := 0
  forecasts : List Forecast := []
  /-- Running voyages by core set. -/
  run   : Tbl (Option Voyage) := []
  deriving DecidableEq, Repr

/-- A watch slot: bollard, target, and the tide at which an accepted signal reached the target (R138). -/
structure Watch where
  boll   : Nat
  target : Word
  hit    : Option Dword := none
  deriving DecidableEq, Repr

structure BollSt where
  val   : Tbl Word := []
  watch : Tbl (Option Watch) := []
  deriving DecidableEq, Repr

/-- Slack water (R142–R146). -/
structure SlackSt where
  /-- Quiet time in the present open span since its start or its last window, in tide ticks. -/
  quiet : Nat := 0
  /-- Tide of the last window (TD_QUIET_LAST). -/
  last  : Dword := 0
  /-- End of the forced window that is open. -/
  forced : Option Dword := none
  deriving DecidableEq, Repr

/-! ## Registers (R453–R471) -/

/-- A write that a block has accepted and not yet applied (R464): who wrote which word, and what the hardware does to that
register in the cycle in which it is applied (R469). -/
structure Posted where
  base  : Nat
  who   : Requester
  off   : Nat
  value : Word
  timing : WriteTiming
  /-- It is applied no later than this (R481). -/
  due   : Nat
  deriving DecidableEq, Repr

/-- Register words and what the register model keeps beside them. Keys are offsets in register space. -/
structure RegSt where
  words : Tbl Word := []
  /-- Registers whose configuration parity is bad (R466). -/
  badPar : List Nat := []
  /-- Blocks in their safe state, by base (R466). -/
  safe : List Nat := []
  /-- Blocks whose BLK_STAT.WR_IGNORED and WR_DROPPED are set (R458). -/
  wrIgnored : List Nat := []
  wrDropped : List Nat := []
  /-- BLK_STAT.EN_CODE (R468). -/
  enCode : Tbl Nat := []
  /-- Blocks that a command in progress holds BUSY. -/
  busy : List Nat := []
  /-- Accepted writes that their blocks have not applied yet: at most one for each block (R464). -/
  posted : List Posted := []
  /-- The shadow of each block for each requester: higher words latched (R467). Key base·4 + requester. -/
  shadow : Tbl (List Word) := []
  /-- The held low word of each block for each requester: register and value (R467). -/
  held : Tbl (Option (Nat × Word)) := []
  deriving DecidableEq, Repr

/-! ## The chart (R207–R231) -/

structure CoreSetRec where
  num   : Nat
  sram  : Nat
  cores : List CoreId          -- in rank order
  deriving DecidableEq, Repr

structure Region where
  kind : Nat
  peer : Nat
  base : Nat
  size : Nat
  deriving DecidableEq, Repr

structure BerthRange where
  first : Nat
  count : Nat
  mask  : BitVec 4096
  deriving DecidableEq, Repr

structure BollRange where
  first : Nat
  count : Nat
  remoteOpen : Bool
  init  : Option Word
  deriving DecidableEq, Repr

structure SpareRec where
  die  : Nat
  pier : Nat
  mask : BitVec 17
  deriving DecidableEq, Repr

structure VoyageRec where
  voyage : Nat
  set    : Nat
  entry  : Nat
  image  : Nat
  stepLarge : Bool
  deriving DecidableEq, Repr

structure ImageRec where
  num    : Nat
  offset : Nat
  bytes  : List Byte
  deriving DecidableEq, Repr

structure PreloadRec where
  addr  : Nat
  bytes : List Byte
  deriving DecidableEq, Repr

structure ConstRec where
  voyage : Nat
  set    : Nat
  levels : BitVec 256
  offset : Nat
  bytes  : List Byte
  deriving DecidableEq, Repr

structure SlackPat where
  period : Nat
  phase  : Nat
  length : Nat
  kinds  : BitVec 32
  deriving DecidableEq, Repr

/-- What a chart says, section by section. -/
structure Chart where
  device  : BitVec 4 := 0
  group   : BitVec 16 := 0
  chartId : Dword := 0
  owner   : Nat := 0
  sets    : List CoreSetRec := []
  regions : List Region := []
  /-- PATH bits by source·6 + destination (R212). -/
  path    : BitVec 36 := 0
  relay   : List Nat := []
  bridge  : List Bool := []
  /-- Lane records by engine·256 + lane (R213). -/
  lanes   : Tbl (BitVec 16) := []
  minLanes : List Nat := []
  maxLanes : List Nat := []
  engines : List Word := []
  tide    : Word := 0
  ranges  : List BerthRange := []
  entries : List (Nat × BitVec 128) := []
  bolls   : List BollRange := []
  spares  : List SpareRec := []
  voyages : List VoyageRec := []
  images  : List ImageRec := []
  preloads : List PreloadRec := []
  consts  : List ConstRec := []
  slack   : List SlackPat := []
  /-- The digest of the signed message (R210, R448). -/
  digest  : List Byte := []
  deriving DecidableEq, Repr

/-- HM_STATE.STATE (R221). -/
inductive HmState where
  | empty
  | stopped
  | running
  | stopping
  | loading
  | failed
  deriving DecidableEq, Repr

/-- A chart being loaded: where it is staged, its bytes as they stood at LOAD, and once verified what they say (R223, R229). -/
structure Loading where
  offset  : Nat
  /-- When the LOAD was accepted (R227). -/
  start   : Nat
  bytes   : List Byte
  prior   : HmState
  chart   : Option Chart := none
  /-- Dies that were UP when distribution began (R509). -/
  dies    : List Nat := []
  deriving DecidableEq, Repr

/-- Die states (R285). -/
inductive DieState where
  | absent
  | up
  | lost
  | quarantined
  | rejoining
  deriving DecidableEq, Repr

structure DieRec where
  st    : DieState := .absent
  cause : Nat := 0
  stateLost : Bool := false
  /-- Held in reset by the quarantine of its base die (R288). -/
  heldByBase : Bool := false
  /-- The base die's stacks were put into self-refresh before the reset (R175). -/
  planned : Bool := false
  /-- When the die was last lost (R284). -/
  lostAt  : Nat := 0
  deriving DecidableEq, Repr

/-- The harbourmaster's chart control and die states. -/
structure HmSt where
  st      : HmState := .empty
  chart   : Option Chart := none
  loading : Option Loading := none
  /-- What the installation record gives until a chart is in force: the device index, the group, the bridge and the boot
  optical map (R379, R433). -/
  boot    : Option Chart := none
  dies    : Tbl DieRec := []
  /-- Dies lost in the present control cycle, by slot, with their causes (R290). -/
  losses  : List (Nat × Nat) := []
  /-- Ordered pairs of base dies moved to their other path, source·6 + destination (R281). -/
  moved   : List Nat := []
  /-- Neighbour pairs that have come UP: (lower·6 + higher, time); their moved traffic returns after 1 ms (R281). -/
  pairUp  : Tbl Nat := []
  deriving DecidableEq, Repr

/-! ## Quayline links (R232–R271) -/

/-- QL_STAT.STATE (R263). -/
inductive LkState where
  | off
  | train
  | up
  | down
  deriving DecidableEq, Repr

/-- Who asked for a report or sent traffic that a scuttle ends (R245, R266). -/
inductive Origin where
  /-- A tug's descriptor, by the tug's key and the descriptor's serial number. -/
  | tug (key serial : Nat)
  /-- A WRITE relayed for another member: the endpoint it came in on, and its SEQ there. -/
  | relay (link : Nat) (seq : BitVec 16)
  /-- A parcel of a peer's read, whose RESP follows the last (R244). -/
  | answer (id : Nat)
  /-- The last parcel of a tug's run into the guest window, and a peer's reporting WRITE into it: the guest's acknowledgement
  performs them (R73, R245). -/
  | guestRun (key serial : Nat)
  | guestReport (link : Nat) (seq : BitVec 16)
  /-- A parcel of a pilot MEM_WRITE into the guest window, by the session: the guest's acknowledgement performs it (R372). -/
  | pilotWrite (session : BitVec 16)
  deriving DecidableEq, Repr

/-- A parcel on its way over a link (R243). -/
structure QPar where
  ty      : BitVec 4
  vc      : BitVec 2
  len     : BitVec 6 := 63
  poison  : Bool := false
  report  : Bool := false
  dev     : BitVec 4
  addr    : BitVec 44 := 0
  payload : Parcel
  check   : Word
  seq     : BitVec 16 := 0
  /-- Whose traffic it is (R266). -/
  owner   : Option Origin := none
  /-- Since when it has waited unacknowledged, or the timeout restarted (R253, R267). -/
  since   : Nat := 0
  /-- Its credit has been consumed since the link last started fresh (R249, R253, R265). -/
  charged : Bool := true
  deriving DecidableEq, Repr

/-- A lane of the direction an endpoint receives (R254–R259). -/
structure LaneSt where
  /-- It is being re-berthed, or waits for the removing MARK. -/
  fatal   : Bool := false
  /-- Re-berthing has completed. -/
  ready   : Bool := false
  /-- The removing MARK has been seen. -/
  removed : Bool := false
  /-- Retired: the retire NOTICE repeats until its replacement trains. -/
  retiring : Bool := false
  /-- When its present re-berthing attempt began (R257). -/
  since   : Nat := 0
  /-- When its last NOTICE was sent, with what REASON and failed ROUND (R254, R258). -/
  noticeAt : Nat := 0
  reason  : Nat := 0
  round   : BitVec 24 := 0
  /-- Times of its failures within the window. -/
  fails   : List Nat := []
  deriving DecidableEq, Repr

/-- An outstanding width or retrain request (R261). -/
structure Nego where
  retrain : Bool
  target  : Nat
  nonce   : Word
  deriving DecidableEq, Repr

structure LinkSt where
  st      : LkState := .off
  -- sending
  txSeq   : BitVec 16 := 0        -- last SEQ sent
  credit  : Tbl Word := []        -- held CREDIT, by channel
  sent    : Tbl Word := []        -- SENT, by channel
  replay  : List QPar := []       -- sent and unacknowledged, oldest first
  waiting : List QPar := []       -- behind credits, in order of arrival
  rr      : Nat := 1              -- the channel of 1–3 whose turn it is
  carrier : BitVec 2 := 0         -- the channel whose credit the next carrier names
  /-- The SEQ that is resent next while a replay is in progress (R253). -/
  resend  : Option (BitVec 16) := none
  stalled : Bool := false
  txActive : BitVec 256 := 0
  txOut   : BitVec 256 := 0
  /-- Lanes removed by a NOTICE that have not been added again. -/
  txGone  : BitVec 256 := 0
  /-- Lanes whose replacement has been made and has not trained yet. -/
  txRepl  : BitVec 256 := 0
  /-- Lanes that a retire NOTICE has named and whose replacement is due (R258, R322). -/
  txDue   : BitVec 256 := 0
  /-- When a lane's last retire NOTICE came (R258). -/
  retireAt : Tbl Nat := []
  epoch   : Byte := 0
  /-- MARKs that wait for their round boundaries: action, lane, width (R256, R257, R261). -/
  marks   : List (MarkAction × Nat × Nat) := []
  /-- Where the replay after the last removing MARK starts (R256). -/
  replayAt : Option (BitVec 16) := none
  /-- ROUND of the first round since the lanes last began to train, and when that was (R236, R238). -/
  round0  : BitVec 24 := 0
  trainAt : Nat := 0
  /-- When a parcel was last put on the line. -/
  txAt    : Nat := 0
  -- receiving
  rxAck   : BitVec 16 := 0
  freed   : Tbl Nat := []         -- parcels freed, by channel
  waitMark : Bool := false
  replayReq : Option Nat := none  -- time of the last replay request
  rxActive : BitVec 256 := 0
  /-- Lanes of the received direction that stay out (R259). -/
  rxOut   : BitVec 256 := 0
  lane    : Tbl LaneSt := []
  rxLanes : Nat := 0              -- logical lanes of the received direction
  rxEpoch : Byte := 0             -- EPOCH of the last MARK received
  -- both
  lanes   : Nat := 0              -- logical lanes of the transmitted direction
  fresh   : Bool := true
  nego    : Option Nego := none
  /-- A request of the far end that has been accepted and is not carried out yet (R261, R267). -/
  serving : Option Nego := none
  nonce   : Word := 0
  peerId  : Dword := 0
  retraining : Bool := false
  silentAt : Option Nat := none
  /-- Since when the re-berthing attempts after a link-wide loss have not counted (R324). -/
  wideLoss : Option Nat := none
  belowMin : Bool := false
  helloSent : Bool := false
  /-- When the lanes last tried to train, or the link went DOWN (R263). -/
  triedAt : Nat := 0
  deriving DecidableEq, Repr

/-! ## Traffic between modules, as its ends remember it (R245) -/

/-- A RESP that is waited for: the endpoint that sent the reporting WRITE, its SEQ, and who waits. -/
structure Report where
  link  : Nat
  seq   : BitVec 16
  owner : Origin
  deriving DecidableEq, Repr

/-- Who waits for the data of a read sent to a peer or to the guest. -/
inductive ReadOwner where
  | tug (key serial : Nat)
  | pilot (tag : Word)
  /-- A peer that reads the guest window: where its data goes, and the number of its answer. -/
  | peer (dev vc addr id : Nat)
  /-- A tug that copies from the guest window to a peer: where the data goes. -/
  | copy (key serial dev vc addr : Nat)
  /-- A tug that copies within the guest window: where the data goes. -/
  | back (key serial vc addr : Nat)
  /-- A pilot MEM_WRITE that covers only part of a parcel of the guest window (R376). -/
  | merge
  deriving DecidableEq, Repr

/-- A READ_REQ whose data and RESP have not all arrived. -/
structure ReadOut where
  tag   : Word
  /-- Where its data goes at the requester. -/
  addr  : Nat
  count : Nat
  owner : ReadOwner
  /-- The berth entry through which its destination was translated, and what it gave (R67). -/
  berth : Option (Nat × TugRun)
  guest : Bool
  /-- The endpoint that its READ_REQ was sent on. -/
  link  : Option Nat := none
  deriving DecidableEq, Repr

/-- A parcel that has been accepted and waits because its home cannot be reached (R286). -/
structure HeldPar where
  link : Nat
  par  : QPar
  deriving DecidableEq, Repr

/-- A parcel that waits at its source for a way to its engine's base die: the base die of its source, and whether it
comes from behind the hub bundles (R15, R281). -/
structure OutPar where
  src : Nat × Bool
  par : QPar
  /-- The endpoint of a failed link that holds it, where it entered the pair before the traffic moved (R281). -/
  hold : Option Nat := none
  deriving DecidableEq, Repr

/-- A peer's read whose parcels have not all been sent: its RESP follows the last (R244). -/
structure Answer where
  id    : Nat
  src   : Nat × Bool
  /-- The member that asked; none for the guest. -/
  dev   : Option Nat
  tag   : Nat
  count : Nat
  left  : Nat
  deriving DecidableEq, Repr

structure TransSt where
  reports : List Report := []
  reads   : List ReadOut := []
  nextTag : Nat := 0
  held    : List HeldPar := []
  outbound : List OutPar := []
  answers : List Answer := []
  nextAnswer : Nat := 0
  deriving DecidableEq, Repr

/-! ## The guest berth (R291–R299) -/

/-- An access of the guest that has been admitted. -/
structure GPar where
  ty   : BitVec 4
  addr : Nat
  data : Parcel
  check : Word
  poison : Bool
  tag  : Word
  count : Nat
  /-- The channel it travels on. -/
  vc   : Nat := 1
  deriving DecidableEq, Repr

/-- The breakwater. The port itself is the link endpoint (0, 2) of State.links: it follows the rules of Quayline (R292,
R293). -/
structure GuestSt where
  quar   : Bool := false
  /-- Width in native mode, rate code in UCIe mode, as the port came up. -/
  rate   : Nat := 0
  /-- Thousandths of tokens in the bucket, and when it was last filled (R297). -/
  tokens : Nat := 0
  tokenAt : Nat := 0
  /-- READ_REQs put off for want of tokens, and accesses whose home cannot be reached now. -/
  deferred : List GPar := []
  /-- Parcels accepted from the guest since the port last started fresh, by channel. -/
  rxCount : Tbl Nat := []
  /-- The CREDIT that the guest has been told, by channel (R297). -/
  told   : Tbl Word := []
  /-- Parcels freed whose credit is withheld while tokens are short, by channel (R297). -/
  withheld : Tbl Nat := []
  deriving DecidableEq, Repr

/-! ## Power and temperature (R404–R426), in the always-on domain -/

/-- What the module as a whole is doing (R427–R431). -/
inductive PowerMode where
  | off          -- no feed has qualified since both were absent
  | starting     -- the trigger of a start-up has been met
  | running      -- start-up is complete
  | stage7       -- the optical links are still training (R430)
  | recovery     -- the boot ROM waits for an image (R437)
  | pllWait      -- the hub PLLs have not locked (R431)
  | retry        -- V1P8 failed; the rails are off for 10 s (R431)
  | brownOut     -- off after a brown-out (R407)
  | tripped      -- cooling after a thermal trip (R421)
  | scan         -- an intrusive scan instruction has stopped the functional clocks (R502)
  deriving DecidableEq, Repr

structure PwSt where
  mode    : PowerMode := .off
  /-- Start-up begins at step 1, or at step 3 with V1P8 up. -/
  fromStep3 : Bool := false
  /-- The cause of the reset that the next start-up follows (R427). -/
  cause   : Nat := 0
  /-- The moment at which the trigger of the last start-up was met (R429), and the end of the 10 s after V1P8 failed (R431). -/
  startAt : Nat := 0
  retryAt : Nat := 0
  va      : BitVec 10 := 0
  vb      : BitVec 10 := 0
  feedB   : Bool := false
  /-- When the load last moved to feed B; A qualifies for its return at the earliest 1 s later (R406). -/
  xferAt  : Nat := 0
  /-- The return ramp to feed A is under way: when it ends, and how long it takes (R406). -/
  sharing : Option (Nat × Nat) := none
  aOk     : Bool := false
  bOk     : Bool := false
  /-- Kind 0x0703 has been written for the time that B is out of range (R406). -/
  bTold   : Bool := false
  latched : Bool := false
  guestOn : Bool := false
  convBad : BitVec 16 := 0
  input   : BitVec 13 := 0
  guestPwr : BitVec 11 := 0
  /-- Consecutive 1 ms samples of guest power above 75 W. -/
  guestOver : Nat := 0
  capOver : Nat := 0
  capUnder : Nat := 0
  capOn   : Bool := false
  capAt   : Nat := 0
  /-- The die rails of step 7 are up (R494). -/
  rails   : Bool := false
  /-- When rails went off last, or go off: VCORE, VGUEST, VLS, VOE, VHBM, VBASE, VHUB, V1P8 (R407, R420). -/
  offAt   : List Nat := []
  /-- Compute dies whose droop detector stretches core cycles (R410). -/
  droop   : List Nat := []
  /-- Compute dies whose regulators are boosted by a forecast, with its F. -/
  boost   : List (Nat × Dword) := []
  /-- Times of thermal trips. -/
  trips   : List Nat := []
  /-- The channel of the last trip. -/
  tripCh  : Nat := 0
  deriving DecidableEq, Repr

/-- A temperature channel (R413–R416). -/
structure ChanSt where
  /-- TEMP as TM_CHch shows it, in 0.25 °C; 0x7FF when faulty. -/
  temp  : BitVec 11 := 0
  fault : Bool := false
  /-- The last sample of the channel was missed (R28). -/
  missed : Bool := false
  level : Nat := 0
  /-- The last three samples in 0.25 °C, newest first. -/
  last  : List Int := []
  since : Nat := 0
  deriving DecidableEq, Repr

structure TmSt where
  ch     : Tbl ChanSt := []
  level  : Nat := 0
  decide : Nat := 0
  /-- Since when every channel not ignored has read below 85 °C. -/
  coolAt : Option Nat := none
  /-- VCORE in mV when the level last changed, and when that was (R418). -/
  vFrom  : Nat := 850
  vAt    : Nat := 0
  /-- The level whose clock limit holds until VCORE has settled (R418). -/
  clock  : Nat := 0
  deriving DecidableEq, Repr

/-! ## Redundancy (R387–R403) -/

inductive HalfState where
  | ready
  | active
  | resync
  | failed
  deriving DecidableEq, Repr

/-- A heartbeat path that has been reported lost: of a beacon driver or a half of the complex, over the wire pair or the ring, and since
when (R390). -/
structure PathLoss where
  beacon : Bool
  half   : Bool
  wire   : Bool
  at_    : Nat
  deriving DecidableEq, Repr

structure RedSt where
  /-- The active half of the harbourmaster complex: false for A. -/
  active : Bool := false
  stA    : HalfState := .active
  stB    : HalfState := .ready
  diverge : Bool := false
  lost : List PathLoss := []
  beaconActive : Bool := false
  beaconStbyOk : Bool := true
  claim  : Word := 1
  /-- Failures of halves: the half and the time. -/
  fails  : List (Bool × Nat) := []
  /-- Halves not restarted until a module reset (R391). -/
  out    : List Bool := []
  /-- The half last declared failed, when, and the half that stood by READY then (R398). -/
  declared : Option (Bool × Nat × Option Bool) := none
  /-- When the claim stages accept the new active half: the end of the last switchover gap (R394). -/
  gapEnd : Nat := 0
  deriving DecidableEq, Repr

/-! ## Start-up and security (R427–R452) -/

/-- An owner key slot (R441): its fuses, and what firmware found at step 6: that its record matches the digest, and the keys of the
record. -/
structure OwnerSlot where
  enrolled : Bool := false
  revoked  : Bool := false
  damaged  : Bool := false
  digest   : BitVec 384 := 0
  recordOk : Bool := false
  ecdsa    : List Byte := []
  hss      : List Byte := []
  deriving DecidableEq, Repr

/-- One copy of the installation record in the NOR (R433). -/
structure InstCopy where
  gen   : Nat := 0
  valid : Bool := false
  body  : List Byte := []
  deriving DecidableEq, Repr

structure SecSt where
  -- fuses and NOR
  lifecycle : Nat := 1
  svn       : Nat := 0
  vRevoked  : BitVec 4 := 0
  owner     : Tbl OwnerSlot := []
  copy0     : InstCopy := {}
  copy1     : InstCopy := {}
  -- always on
  stage     : Nat := 0
  code      : Nat := 0
  recovery  : Bool := false
  timeout   : Bool := false
  slotUsed  : Bool := false
  done      : Bool := false
  bootTime  : Nat := 0
  -- running firmware
  fwSvn     : Nat := 0
  fwVendor  : Nat := 0
  fwVersion : Dword := 0
  fwRevoke  : BitVec 4 := 0
  /-- The SHA-384 digest of the running image's signed message (R444, R448). -/
  fwDigest  : List Byte := []
  /-- The module NOR cannot be read or written (R431). -/
  norBad    : Bool := false
  /-- The installation record in use, as start-up or its first write left it (R433, R448). -/
  inst      : Option InstCopy := none
  nonce     : Dword := 0
  /-- The device's HSS tree has been taken up at step 6 (R445). -/
  lmsReady  : Bool := false
  lmsNext   : Nat := 0
  lmsReserved : Nat := 0
  /-- The bottom tree in use (R446). -/
  lmsTree   : Nat := 0
  nextReady : Bool := false
  /-- A reservation-log write has failed and none has succeeded since (R450). -/
  logFailed : Bool := false
  /-- Time of the last watchdog kick. -/
  kickAt    : Nat := 0
  /-- The reset that start-up follows was made by the watchdog (R439). -/
  watchdog  : Bool := false
  /-- Firmware slots that did not verify, with the step of R435 that failed: their records wait for the log. -/
  rejects   : List (Nat × Nat) := []
  /-- Failures of this start-up, with their stages, whose records wait for the log (R431). -/
  failures  : List (Nat × Nat) := []
  /-- The start-up in progress, while it waits for a recovery image or for the optical links (R430, R437). -/
  resume    : Option Boot := none
  deriving DecidableEq, Repr

/-! ## Optical engines (R305–R345) -/

/-- The transmit place of an electrical lane (R307, R322, R328). -/
structure TxPlace where
  fibre  : Nat := 0
  line   : Nat := 0
  slot   : Nat := 0
  en     : Bool := false
  subst  : Bool := false
  /-- A move to this place is under way (R323). -/
  moving : Bool := false
  /-- The place that the map gave the lane: fibre and line (R325). -/
  home   : Nat × Nat := (0, 0)
  /-- Since when its monitor has shown no light (R334). -/
  darkAt : Option Nat := none
  deriving DecidableEq, Repr

/-- A receive place: its power and whether it carries light (R328, R334, R358). -/
structure RxPlace where
  power  : BitVec 16 := 0
  lit    : Bool := false
  /-- When its light came (R312). -/
  litAt  : Nat := 0
  /-- Since when its monitor has shown no light (R334). -/
  darkAt : Option Nat := none
  /-- When its low power was last reported. -/
  lowAt  : Option Nat := none
  deriving DecidableEq, Repr

/-- Ring states (R332). -/
inductive RingMode where
  | unused
  | parked
  | sweep
  | acquire
  | check
  | locked
  | givenUp
  deriving DecidableEq, Repr

/-- A ring (R332, R336, R337, R360). -/
structure RingSt where
  st     : RingMode := .unused
  heater : BitVec 16 := 0
  err    : Byte := 0
  fails  : Nat := 0
  /-- The last sweep was upward. -/
  up     : Bool := false
  /-- The lock code that a wrong-line lock implied, from which the park points now follow. -/
  implied : Option Int := none
  /-- When its present state began (R333, R336). -/
  since  : Nat := 0
  /-- When its last identity check ended (R332). -/
  checkedAt : Nat := 0
  /-- Since when it repeats its identity check because light has returned (R334). -/
  recheck : Option Nat := none
  deriving DecidableEq, Repr

/-- A weight-bank reading: its slot, its integration time in µs, and when it began (R342–R344). -/
structure WbRead where
  slot  : Nat
  tint  : Nat
  start : Option Nat := none
  deriving DecidableEq, Repr

structure OeSt where
  /-- By electrical lane. -/
  place  : Tbl TxPlace := []
  fibreBad : BitVec 17 := 0
  /-- Loop delays by fibre; an unlisted one has not been measured. -/
  homeDelay : Tbl (Option (BitVec 16)) := []
  /-- Identities that lit receive places carry, the place lit most recently first: place 18f + k, member, logical lane. -/
  ident  : List (Nat × Nat × Nat) := []
  /-- The receive place steered to an electrical lane, plus 1. -/
  steer  : Tbl Nat := []
  rx     : Tbl RxPlace := []
  ring   : Tbl RingSt := []
  /-- A weight-bank reading waits or runs. -/
  wb     : Option WbRead := none
  wbSum  : Word := 0
  /-- Forecasts whose profiles are loaded. -/
  profiles : List FfProfile := []
  /-- No laser side serves the engine. -/
  dark   : Bool := false
  deriving DecidableEq, Repr

/-! ## Laser chiplets (R346–R351) -/

/-- A_STATE and B_STATE (R361). -/
inductive SideState where
  | ready
  | warn
  | eol
  | failed
  deriving DecidableEq, Repr

structure LsSt where
  /-- The claim numbers of the sides: the selector passes the side with the higher one (R346, R393). -/
  claimA : Word := 1
  claimB : Word := 0
  stA    : SideState := .ready
  stB    : SideState := .ready
  biasA  : BitVec 12 := 0
  biasB  : BitVec 12 := 0
  /-- A scheduled switchover is requested, since when. -/
  req    : Option Nat := none
  /-- The engine's transmitters have stopped for a scheduled switchover (R349). -/
  blank  : Bool := false
  diverge : Bool := false
  dark   : BitVec 16 := 0
  deriving DecidableEq, Repr

/-! ## Calibration records in the module NOR (R352–R355) -/

/-- One copy of a calibration record: the bytes that stand in the NOR, or none for the copy as it was made: valid, of generation 0, with
the device's own values. -/
structure CalCopy where
  bytes : Option (List Byte) := none
  deriving DecidableEq, Repr

/-- The module NOR, region by region (R432): bytes that a region does not list are erased. The two copies of the installation record stand
in `SecSt`. -/
structure NorSt where
  /-- The directory; R432 gives its contents but no layout. -/
  dir  : List Byte := []
  fw0  : List Byte := []
  fw1  : List Byte := []
  /-- Owner key records, by slot: what is not listed is as it was made. -/
  keys : Tbl (List Byte) := []
  /-- Certificates of the DeviceID key, and the manufacturing signature of the device HSS key (R444); none as they were made. -/
  certs : Option (List Byte) := none
  made  : Option (List Byte) := none
  /-- The reservation log: the entries of its sectors, and the sector that is written (R445). -/
  lms   : Tbl (List (List Byte)) := []
  lmsAt : Nat := 0
  /-- Calibration records by (TYPE·41 + SLOT)·2 + COPY, and when each pair was last written, by TYPE·41 + SLOT. -/
  copy : Tbl CalCopy := []
  last : Tbl (Option Nat) := []
  deriving DecidableEq, Repr

/-- A calibration value in use: now and its target (R357). -/
structure CalVal where
  now    : Int
  target : Int
  deriving DecidableEq, Repr

/-- The calibration values in use (R354–R357). -/
structure CalSt where
  /-- Values that a record gives or a correction moves, by (TYPE·41 + SLOT)·2^32 + number; the others are the device's own. -/
  use   : Tbl (Option CalVal) := []
  /-- The copy loaded at start-up, by TYPE·41 + SLOT: in use for the whole power cycle (R355, R359). -/
  inUse : Tbl Nat := []
  /-- Pairs of which no copy was valid at start-up: which measurement afresh gave their values. -/
  fresh : Tbl (Option Nat) := []
  /-- The millisecond of tide in which values last moved. -/
  stepMs : Option Nat := none
  deriving DecidableEq, Repr

/-! ## The pilot engine and SPDM (R363–R386, R447–R449) -/

/-- Where the last in-order host datagram came from (R365, R377). -/
inductive PilotPath where
  | port (p : Fin 2)
  /-- In PILOT parcels, from this member. -/
  | link (src : Nat)
  deriving DecidableEq, Repr

/-- A datagram being put together from PILOT parcels (R378). -/
structure PilotAsm where
  next  : Nat
  total : Nat
  bytes : List Byte
  deriving DecidableEq, Repr

/-- A MEM_READ of the guest window whose data has not all come: the tag sent to the guest, the request, and the parcels
that have come, by their place. -/
structure PilotRead where
  tag : Word
  msg : PMsg
  got : List (Nat × Parcel × Bool)
  deriving DecidableEq, Repr

/-- A part of a parcel of the guest window that a MEM_WRITE covers, while the rest is read (R376): the tag of the read, the message and its
session, the bytes and their address. -/
structure PilotMerge where
  tag     : Word
  msg     : PMsg
  session : BitVec 16
  addr    : Nat
  bytes   : List Byte
  /-- The message's STATUS has been sent already. -/
  told    : Bool := false
  deriving DecidableEq, Repr

/-- The clock that firmware runs under IEEE 1588, as the installation record sets it (R383, R433): domain, profile, and the log intervals
of Sync, Delay_Req and Announce. -/
structure PtpSt where
  domain   : Byte := 0
  profile  : Byte := 0
  sync     : Byte := 0
  delay    : Byte := 0
  announce : Byte := 0
  deriving DecidableEq, Repr

structure PlSt where
  link0 : Bool := false
  link1 : Bool := false
  opened : Bool := false
  session : BitVec 16 := 0
  /-- SEQ of the last host datagram received in order. -/
  rxAck : Word := 0
  txSeq : Word := 0
  /-- Datagrams sent and not acknowledged, oldest first, and their total length in bytes. -/
  sent  : List Dgram := []
  /-- Time of the last acknowledgement or resend. -/
  sentAt : Nat := 0
  /-- Accepted datagrams that no outgoing datagram has acknowledged. -/
  owed  : Nat := 0
  owedAt : Nat := 0
  /-- Messages of accepted datagrams that wait for room (R374). -/
  todo  : List PMsg := []
  /-- The front one is a REG_WRITE that polls: words written, and since when the block has been BUSY (R373). -/
  poll  : Option (Nat × Nat) := none
  path  : PilotPath := .port 0
  asm   : Tbl (Option PilotAsm) := []
  /-- MEM_READs that the guest has not answered. -/
  gread : List PilotRead := []
  /-- Parcels of the session's MEM_WRITEs into the guest window that the guest has not acknowledged, those to be merged among them. -/
  gwrite : Nat := 0
  gmerge : List PilotMerge := []
  /-- Answers that have come when there was no room to keep them (R374). -/
  late  : List PMsg := []
  /-- The way in which the last host datagram for another member came (R379). -/
  down  : Option PilotPath := none
  /-- The IEEE 1588 clock, once firmware has begun its exchanges (R429). -/
  ptp   : Option PtpSt := none
  ptpSlave : Bool := false
  deriving DecidableEq, Repr

/-- An SPDM request; `rest` is what follows its code (R447–R449). -/
inductive SpdmReq where
  | version
  | capabilities (rest : List Byte)
  | algorithms (rest : List Byte)
  | digests
  | certificate (slot : Fin 8) (offset length : BitVec 16)
  | challenge (slot : Fin 8) (summary : Byte) (nonce : BitVec 256) (context : Dword)
  | measurements (index : Byte) (signed : Bool) (nonce : BitVec 256) (context : Dword)
  | chunk (handle : Byte) (number : BitVec 16)
  | lmsSig (standard : BitVec 16) (vendor : Word)
  | lmsChain (standard : BitVec 16) (vendor : Word)
  deriving DecidableEq, Repr

/-- An SPDM answer, as far as the manual fixes it (R447–R449). -/
inductive SpdmResp where
  | version
  | capabilities (flags ctExponent dataSize : Nat)
  /-- The algorithms selected, as the bits of DSP0274 number them: measurement specification, measurement hash, signature, hash. -/
  | algorithms (spec measHash sign hash : Nat)
  | digests (chain : List Byte)
  | certificate (portion : List Byte) (remainder : Nat)
  | challengeAuth (chain : List Byte) (nonce : BitVec 256) (summary : List Byte) (context : Dword) (signature : List Byte)
  | measurements (blocks : List (Nat × List Byte)) (nonce : BitVec 256) (context : Dword) (signature : List Byte)
  /-- `total` is the length of the whole response, sent with chunk 0. -/
  | chunk (handle number : Nat) (last : Bool) (total : Nat) (data : List Byte)
  | large (handle : Nat)
  | lmsSig (signature : List Byte)
  | lmsChain (chain : List Byte)
  | error (code : Nat)
  deriving DecidableEq, Repr

/-- The connection state of one transport (R447). -/
structure SpdmSt where
  versionDone : Bool := false
  capsDone    : Bool := false
  algsDone    : Bool := false
  /-- The messages that signatures cover: those that set the connection up, those about the certificate chain, and those about measurements
  since the last signed ones. -/
  setup  : List Byte := []
  certs  : List Byte := []
  meas   : List Byte := []
  /-- The signing input of the last signed response (R449). -/
  signed : Option (List Byte) := none
  /-- A response too long for one message: its handle, the next chunk, and what is left. -/
  chunk  : Option (Nat × Nat × List Byte) := none
  handle : Nat := 0
  /-- The request outstanding on the pilot transport: its tag and its bytes (R368, R372). -/
  busy   : Option (Word × List Byte) := none
  deriving DecidableEq, Repr

/-! ## Die-to-die lanes, JTAG, I3C -/

/-- The lane maps of a bundle pair's end (R302): physical lane + 1 by logical lane, 0 for none. -/
structure DlSt where
  rx : Tbl Nat := []
  tx : Tbl Nat := []
  deriving DecidableEq, Repr

/-- The boundary-scan chain (R500–R502), by die of the chain. -/
structure JtagSt where
  /-- Instruction registers; an unlisted one holds IDCODE. -/
  ir      : Tbl Nat := []
  /-- What each instruction register captured last. -/
  capture : Tbl Nat := []
  /-- An intrusive instruction has stopped the functional clocks. -/
  stopped : Bool := false
  cells   : Tbl Dword := []
  results : Tbl (BitVec 68) := []
  deriving DecidableEq, Repr

/-! ## Outcomes -/

/-- Why a command stops the machine. -/
inductive Fault where
  /-- Raised by no command: each has the effect that its meaning gives it, whatever its operands. Safe: nothing stops by it. -/
  | illFormed (what : String)
  deriving DecidableEq, Repr

/-- Why a command has no meaning. -/
inductive Refusal where
  /-- Raised by the dispatch for a row that has no meaning yet. Safe. -/
  | notModelled (mnemonic : String)
  deriving DecidableEq, Repr

/-- What the module has sent or shown, oldest first: the model's own record of its outputs. -/
inductive Output where
  | event (e : Event)
  /-- A parcel put on a link, with the acknowledgement and credit its header carries (R243). -/
  | parcel (l : Nat) (p : QPar) (ack : BitVec 16) (cvc : BitVec 2) (credit : Word)
  /-- A CA block: channel, ACK, CREDIT (R237). -/
  | ca (l : Nat) (vc : BitVec 2) (ack : BitVec 16) (credit : Word)
  /-- A NOTICE block on every active lane: lane, reason, EXPECT, ROUND (R237). -/
  | notice (l : Nat) (lane : Nat) (reason : Nat) (expect : BitVec 16) (round : BitVec 24)
  /-- A MARK block: action, lane, epoch, ROUND, and the new width − 1 for a set of the width (R237). -/
  | mark (l : Nat) (action : MarkAction) (lane : Nat) (epoch : Byte) (round : BitVec 24) (width : Nat)
  /-- TRAIN blocks begin on these lanes, with the words of this identity record (R237, R260). -/
  | train (l : Nat) (lanes : BitVec 256) (ident : Dword) (dev engine : Nat)
  /-- A parcel an HBM controller delivered to a requester. -/
  | hbmData (m off : Nat) (data : Parcel) (check : Word) (poison : Bool)
  /-- The five 64-byte units of a parcel on a UCIe guest port (R293). -/
  | ucie (units : BitVec 2560)
  /-- A datagram sent out on an Ethernet port, with the VID and PCP of its IEEE 802.1Q tag where it has one (R364). -/
  | dgram (port : Fin 2) (d : Dgram) (tag : Option (BitVec 12 × BitVec 3))
  /-- An ARP reply or a Neighbor Advertisement on a port (R364). -/
  | arpReply (port : Fin 2) (tag : Option (BitVec 12 × BitVec 3))
  | neighborAdvert (port : Fin 2) (tag : Option (BitVec 12 × BitVec 3))
  | spdm (t : Transport) (r : SpdmResp)
  /-- What a die of the scan chain shifts out (R500–R502). -/
  | jtag (die : Nat) (bits : BitVec 68)
  deriving DecidableEq, Repr

/-! ## The whole module -/

structure State where
  /-- Commands waiting, first in, first out. -/
  pending : List Instr
  /-- Outputs so far: the model's own record. -/
  out     : List Output
  /-- The model's own counter of free values taken. -/
  freeCtr : Nat
  /-- Nanoseconds since the model's reset. -/
  now     : Nat
  regs    : RegSt
  cores   : CoresSt
  mem     : MemSt
  mc      : Tbl McSt
  sc      : Tbl ScrubSt
  berth   : BerthSt
  elog    : ElogSt
  events  : List Event
  /-- An event was dropped since the last one queued (R382). -/
  eventLost : Bool
  tide    : TideSt
  launch  : LaunchSt
  boll    : BollSt
  slack   : SlackSt
  hm      : HmSt
  /-- Link endpoints, key slot·64 + u. -/
  links   : Tbl LinkSt
  trans   : TransSt
  guest   : GuestSt
  pw      : PwSt
  tm      : TmSt
  red     : RedSt
  sec     : SecSt
  /-- Optical engines and laser chiplets, by number. -/
  oe      : Tbl OeSt
  ls      : Tbl LsSt
  nor     : NorSt
  cal     : CalSt
  pl      : PlSt
  spdmMctp  : SpdmSt
  spdmPilot : SpdmSt
  /-- Bundle-pair ends, key slot·32 + k. -/
  dl      : Tbl DlSt
  jtag    : JtagSt
  /-- The management port's dynamic address (R497). -/
  i3c     : Option (BitVec 7)
  deriving DecidableEq, Repr

/-- The module right after reset: before its first power-on. -/
def State.reset : State where
  pending := []
  out := []
  freeCtr := 0
  now := 0
  regs := {}
  cores := {}
  mem := {}
  mc := []
  sc := []
  berth := {}
  elog := {}
  events := []
  eventLost := false
  tide := {}
  launch := {}
  boll := {}
  slack := {}
  hm := {}
  links := []
  trans := {}
  guest := {}
  pw := {}
  tm := {}
  red := {}
  sec := {}
  oe := []
  ls := []
  nor := {}
  cal := {}
  pl := {}
  spdmMctp := {}
  spdmPilot := {}
  dl := []
  jtag := {}
  i3c := none

end Sys2Proof.Machine
end

