-- ==== Sys2Proof/Machine/Ops.lean ====
section
/-! DEFINITION. The named operations over registers, the error log, events, the address map and memory, on which
every meaning is built. -/

namespace Sys2Proof.Machine

/-- What a command answers. -/
abbrev Result := Host.Outcome State Fault Refusal

/-- A fresh free value, and the counter that gives the next one. -/
def State.free (s : State) : Nat := Config.freeValue s.freeCtr
def State.takeFree (s : State) : State := { s with freeCtr := s.freeCtr + 1 }

/-- Record an output. -/
def State.emit (s : State) (o : Output) : State := { s with out := s.out ++ [o] }

/-- Firmware runs: the module has been started and is not in reset. -/
def hubUp (s : State) : Bool := s.pw.mode == .running || s.pw.mode == .stage7

/-- A switchover gap of the harbourmaster complex runs: its claim stages hold their outputs (R394). -/
def inGap (s : State) : Bool := decide (s.now < s.red.gapEnd)

/-- No loss of a heartbeat path of the wire pair, or of the ring, stands (R390, R393). -/
def pathOk (r : RedSt) (wire : Bool) : Bool := r.lost.all fun p => p.wire != wire

/-! ## Register words -/

/-- The stored word of a register. -/
def rget (s : State) (off : Nat) : Word := tget s.regs.words off (regReset off)

/-- Store the word of a register. -/
def rset (s : State) (off : Nat) (v : Word) : State :=
  { s with regs := { s.regs with words := tset s.regs.words off v (regReset off) } }

/-- A 64-bit register: low word first (R467). -/
def rget64 (s : State) (off : Nat) : Dword := (rget s (off + 4)) ++ (rget s off)

def rset64 (s : State) (off : Nat) (v : Dword) : State :=
  rset (rset s off (v.setWidth 32)) (off + 4) ((v >>> 32).setWidth 32)

/-- Advance a 32-bit counter by `n`; it stops at its maximum (R53). -/
def cntAdd (s : State) (off n : Nat) : State :=
  rset s off (BitVec.ofNat 32 (min ((rget s off).toNat + n) (2 ^ 32 - 1)))

/-- Advance a 64-bit counter by `n`. -/
def cntAdd64 (s : State) (off n : Nat) : State :=
  rset64 s off (BitVec.ofNat 64 (min ((rget64 s off).toNat + n) (2 ^ 64 - 1)))

/-- VALID of a LOG register. -/
def validBit : Word := 0x80000000

/-- Capture into a one-word LOG register while VALID is 0 (R459). Companions are captured with it. -/
def logCapture (s : State) (off : Nat) (v : Word) (companions : List (Nat × Word) := []) : State :=
  if rget s off &&& validBit = 0 then
    companions.foldl (fun t c => rset t c.1 c.2) (rset s off (v ||| validBit))
  else s

/-- Capture into a two-word LOG register whose VALID is bit 31 of the high word. -/
def logCapture64 (s : State) (off : Nat) (lo hi : Word) : State :=
  if rget s (off + 4) &&& validBit = 0 then rset (rset s off lo) (off + 4) (hi ||| validBit) else s

/-- BLK_CTRL.EN. -/
def enabled (s : State) (b : Blk) : Bool := (rget s (b.reg 0x004)).getLsbD 0

/-- A block is in its safe state (R466). -/
def inSafe (s : State) (b : Blk) : Bool := s.regs.safe.contains b.base

/-- The value an RW register acts with: its reset value in the safe state (R466), else what it holds. -/
def cfg (s : State) (b : Blk) (off : Nat) : Word :=
  if inSafe s b then regReset (b.reg off) else rget s (b.reg off)

/-- BLK_ERRCNT advances. -/
def errCount (s : State) (b : Blk) : State := cntAdd s (b.reg 0x00C) 1

/-- A command of the block is in progress. -/
def cmdBusy (s : State) (b : Blk) : Bool := s.regs.busy.contains b.base

/-- The posted write of a block (R464). -/
def postedOf (s : State) (b : Blk) : Option Posted := s.regs.posted.find? fun p => p.base == b.base

/-- An operation of a block that it has started and not yet ended: a weight-bank reading, a switchover, a width request, a time exchange. -/
def underWay (s : State) (b : Blk) : Bool :=
  match b.kind with
  | .oe => (tget s.oe b.inst {}).wb.isSome
  | .ls => (tget s.ls b.inst {}).blank
  | .ql => (tget s.links (b.slot * 64 + b.inst) {}).nego.isSome
  | .td => s.tide.outst.isSome
  | _ => false

/-- A block's BUSY bit: a posted write, a command that it started, or, once EN has been cleared, what was under way (R462, R464). -/
def isBusy (s : State) (b : Blk) : Bool := cmdBusy s b || (postedOf s b).isSome || (!enabled s b && underWay s b)

def setBusy (s : State) (b : Blk) (on : Bool) : State :=
  { s with regs := { s.regs with busy := if on then b.base :: s.regs.busy.erase b.base else s.regs.busy.erase b.base } }

/-- A write that a busy block drops (R464). -/
def dropWrite (s : State) (b : Blk) : State :=
  let s := errCount s b
  { s with regs := { s.regs with wrDropped := if s.regs.wrDropped.contains b.base then s.regs.wrDropped else b.base :: s.regs.wrDropped } }

/-- A block accepts a write: WR_DROPPED ends (R458). -/
def acceptWrite (s : State) (b : Blk) : State :=
  { s with regs := { s.regs with wrDropped := s.regs.wrDropped.filter fun x => x != b.base } }

/-- A software write that is a command of its own: dropped while the block is BUSY, else accepted (R464). -/
def softWrite (s : State) (b : Blk) (f : State → Result) : Result :=
  if isBusy s b then .next (dropWrite s b) else f (acceptWrite s b)

/-! ## Events and the error log -/

/-- Assemble a little-endian value of `w` bits from (width, value) fields, the lowest first. -/
def fields (w : Nat) : List (Nat × Nat) → BitVec w
  | [] => 0
  | (n, v) :: r => BitVec.ofNat w (v % 2 ^ n) ||| (fields w r <<< n)

/-- Events that wait, at most (R382). -/
def maxEvents : Nat := 1024

/-- Queue an event message; a full queue drops it and the next event queued carries LOST (R382). -/
def sendEvent (s : State) (cls : Nat) (data : BitVec 256) : State :=
  if s.events.length < maxEvents then
    { s with events := s.events ++ [{ cls := cls, lost := s.eventLost, time := s.tide.hub, data := data }], eventLost := false }
  else cntAdd { s with eventLost := true } (blkPL.reg 0x074) 1

/-- Kinds whose record sends a RECORD event (R200, R271, R300, R362, R403, R426, R452, R471). -/
def kindSendsEvent (kind : Nat) : Bool :=
  [0x0102, 0x0103, 0x0104, 0x0112, 0x0113, 0x0121, 0x0403, 0x0404, 0x0405, 0x0409, 0x040A, 0x040B,
   0x0501, 0x0503, 0x0504, 0x0505, 0x0510, 0x0511, 0x0512, 0x0513, 0x0521, 0x0522, 0x0523, 0x0524,
   0x0604, 0x0605, 0x0606, 0x0607, 0x0608, 0x060A, 0x060C, 0x0703, 0x0704, 0x0705, 0x0706, 0x0707, 0x0709, 0x070A,
   0x070B, 0x070C, 0x0801, 0x0802, 0x0803, 0x0804, 0x0805, 0x0806, 0x0807, 0x0901, 0x0903, 0x0905, 0x0906, 0x0907,
   0x0A01].contains kind

/-- A record of R197. -/
def mkRecord (time : Dword) (kind slot unit detail addr tag : Nat) (seq : BitVec 16) (rep : Nat) : BitVec 256 :=
  fields 256 [(64, time.toNat), (16, kind), (8, slot), (8, unit), (32, detail), (64, addr), (32, tag), (16, seq.toNat), (16, rep)]

/-- Slots of the error log (R197). -/
def elogSlots : Nat := 4096

/-- Whether a record merges into the most recent record still held (R199). -/
def elogMerges (s : State) (kind slot unit addr : Nat) : Bool :=
  let r := tget s.elog.ring ((s.elog.head + elogSlots - 1) % elogSlots) 0
  s.elog.count != 0 && (field r 64 16).toNat == kind && (field r 80 8).toNat == slot && (field r 88 8).toNat == unit
    && (field r 128 64).toNat == addr && decide (s.tide.hub.toNat ≤ (field r 0 64).toNat + 1000000 ∧ (field r 0 64).toNat ≤ s.tide.hub.toNat + 1000000)

/-- Write or merge an error-log record (R199, R200). `event` says that this record's kind sends an event. -/
def logRecordEv (s : State) (event : Bool) (kind slot unit detail addr tag : Nat) : State :=
  if !enabled s blkEL then s
  else if elogMerges s kind slot unit addr then
    let i := (s.elog.head + elogSlots - 1) % elogSlots
    let r := tget s.elog.ring i 0
    let n := min ((field r 240 16).toNat + 1) 0xFFFF
    { s with elog := { s.elog with ring := tset s.elog.ring i (setField r 240 (BitVec.ofNat 16 n)) 0 } }
  else if s.elog.count = elogSlots then
    logCapture (cntAdd s (blkEL.reg 0x028) 1) (blkEL.reg 0x02C) (fields 32 [(16, kind), (6, slot)])
  else
    let r := mkRecord s.tide.hub kind slot unit detail addr tag s.elog.seq 0
    let t := cntAdd { s with elog := { s.elog with
      ring := tset s.elog.ring s.elog.head r 0, head := (s.elog.head + 1) % elogSlots,
      count := s.elog.count + 1, seq := s.elog.seq + 1 } } (blkEL.reg 0x024) 1
    let evEn := (cfg t blkEL 0x010).getLsbD 0
    let water := (field (cfg t blkEL 0x010) 4 13).toNat
    let t := if event && evEn then sendEvent t 0x0002 r else t
    if evEn && water != 0 && t.elog.count == water then sendEvent t 0x0003 (BitVec.ofNat 256 t.elog.count) else t

/-- Write an error-log record of a kind that always, or never, sends an event. -/
def logRecord (s : State) (kind slot unit detail addr tag : Nat) : State :=
  logRecordEv s (kindSendsEvent kind) kind slot unit detail addr tag

/-! ## The address map (R21) -/

/-- The place an address names. -/
inductive Home where
  | hbm (m off : Nat)
  | base (q off : Nat)
  | core (c p k off : Nat)
  | hub (off : Nat)
  | guest (off : Nat)
  | reg (off : Nat)
  deriving DecidableEq, Repr

def hbmBase (m : Nat) : Nat := m * 0x2000000000
def baseSramBase (q : Nat) : Nat := 0x400000000000 + q * 0x20000000
def coreBase (c p k : Nat) : Nat := 0x500000000000 + c * 0x80000000 + p * 0x2000000 + k * 0x100000
def hubSramBase : Nat := 0x600000000000
def guestBase : Nat := 0x700000000000
def regSpace : Nat := 0xF00000000000

def hbmSize : Nat := 0x2000000000
def baseSramSize : Nat := 0x18000000
def coreSramSize : Nat := 0x100000
def hubSramSize : Nat := 0x4000000
def guestSize : Nat := 0x10000000000

/-- The home of an address, or none where it is unmapped (R21, R23). -/
def homeOf (a : Nat) : Option Home :=
  if a < 0x20000000000 then some (.hbm (a / hbmSize) (a % hbmSize))
  else if 0x400000000000 ≤ a ∧ a < 0x400000000000 + 6 * 0x20000000 then
    let o := a - 0x400000000000
    if o % 0x20000000 < baseSramSize then some (.base (o / 0x20000000) (o % 0x20000000)) else none
  else if 0x500000000000 ≤ a ∧ a < 0x500000000000 + 12 * 0x80000000 then
    let o := a - 0x500000000000
    let c := o / 0x80000000
    let p := o % 0x80000000 / 0x2000000
    let k := o % 0x2000000 / 0x100000
    if p < 48 ∧ k < 16 then some (.core c p k (o % 0x100000)) else none
  else if hubSramBase ≤ a ∧ a < hubSramBase + hubSramSize then some (.hub (a - hubSramBase))
  else if guestBase ≤ a ∧ a < guestBase + guestSize then some (.guest (a - guestBase))
  else if regSpace ≤ a ∧ a < regSpace + 41 * 0x4000000 then
    let o := a - regSpace
    if (dieType (o / 0x4000000)).isSome then some (.reg o) else none
  else none

/-- A place that exists: a stack that failed training is unpopulated (R431). -/
def State.home (s : State) (a : Nat) : Option Home :=
  match homeOf a with
  | some (.hbm m off) => if (tget s.mc m {}).failed then none else some (.hbm m off)
  | h => h

/-- Where the populated range that holds an address ends. -/
def rangeEnd (a : Nat) : Nat :=
  match homeOf a with
  | some (.hbm m _) => hbmBase m + hbmSize
  | some (.base q _) => baseSramBase q + baseSramSize
  | some (.core c p k _) => coreBase c p k + coreSramSize
  | some (.hub _) => hubSramBase + hubSramSize
  | some (.guest _) => guestBase + guestSize
  | some (.reg o) => regSpace + (o / 0x4000000 + 1) * 0x4000000
  | none => a

/-! ## Keys -/

def pierKey (c p : Nat) : Nat := c * 48 + p
def siteKey (c p j : Nat) : Nat := pierKey c p * 17 + j
/-- The compute die of a core site's key. -/
def siteDie (key : Nat) : Nat := key / 17 / 48
def tugKey (c p t : Nat) : Nat := pierKey c p * 2 + t

/-- The physical site that carries a logical core (R69, R83: PR_MAP). -/
def siteOf (s : State) (c p k : Nat) : Nat :=
  let m := rget s ((blkPR c p).reg 0x010)
  if m.getLsbD 4 ∧ (field m 0 4).toNat = k then 16 else k

/-- A logical core that is absent (R69). -/
def absentCore (s : State) (c p k : Nat) : Bool := (rget s ((blkPR c p).reg 0x010)).getLsbD (16 + k)

/-! ## Parcels at rest -/

/-- Seal states (R92). -/
def sealUnverified : BitVec 2 := 0
def sealVerified : BitVec 2 := 1
def sealOpen : BitVec 2 := 2

/-- A parcel of zeros with its matching check. -/
def zeroParcel (poison : Bool) : PData := ⟨0, zeroCheck, poison⟩

/-- The stored bytes, check and mark of the parcel at an address. -/
def MemSt.parcel (m : MemSt) (a : Nat) : PData :=
  ⟨Parcel.ofBytes (m.bytes.readBytes a 256), tget m.check (a / 256) zeroCheck, tget m.poison (a / 256) false⟩

/-- Store a parcel's bytes, check and mark. -/
def MemSt.setParcel (m : MemSt) (a : Nat) (d : PData) : MemSt :=
  { m with bytes := m.bytes.writeBytes a (Parcel.bytes d.data), check := tset m.check (a / 256) d.check zeroCheck,
           poison := tset m.poison (a / 256) d.poison false }

def MemSt.sealAt (m : MemSt) (a : Nat) : BitVec 2 := tget m.sealSt (a / 256) sealVerified
def MemSt.setSeal (m : MemSt) (a : Nat) (v : BitVec 2) : MemSt := { m with sealSt := tset m.sealSt (a / 256) v sealVerified }
def MemSt.setPoison (m : MemSt) (a : Nat) (p : Bool) : MemSt := { m with poison := tset m.poison (a / 256) p false }
def MemSt.setCheck (m : MemSt) (a : Nat) (c : Word) : MemSt := { m with check := tset m.check (a / 256) c zeroCheck }

/-- Clear a range of memory: zeros, valid codes, the check of zeros, no poison, sealed VERIFIED (R79, R92, R170). -/
def MemSt.clear (m : MemSt) (lo hi : Nat) : MemSt :=
  { bytes := tclear m.bytes lo hi, check := tclear m.check (lo / 256) (hi / 256), poison := tclear m.poison (lo / 256) (hi / 256),
    sealSt := tclear m.sealSt (lo / 256) (hi / 256), sramErr := tclear m.sramErr (lo / 8) (hi / 8),
    sideErr := tclear m.sideErr (lo / 256) (hi / 256), hbmErr := tclear m.hbmErr (lo / 64) (hi / 64), hbmPois := tclear m.hbmPois (lo / 64) (hi / 64),
    hbmFlip := tclear m.hbmFlip (lo / 64) (hi / 64) }

def State.setMem (s : State) (m : MemSt) : State := { s with mem := m }

/-- The slot and unit that name an SRAM parcel in a record (R197), its bank and site (R198), and its die's slot. -/
def sramUnit (s : State) (a : Nat) : Nat × Nat × Nat × Nat :=
  match homeOf a with
  | some (.base q _) => (slotQ q, a / 256 % 32, a / 256 % 32, 0)
  | some (.core c p k _) => (slotC c, p, a / 256 % 8, siteOf s c p k)
  | _ => (0, a / 256 % 16, a / 256 % 16, 0)

/-! ### SRAM reads (R186) -/

/-- Who reads SRAM: the scrubber, or a core or unit in the foreground whose records carry `tag` (R197). -/
inductive SramReader where
  | scrubber
  | user (tag : Nat)
  deriving DecidableEq, Repr

def SramReader.scrub : SramReader → Bool
  | .scrubber => true
  | .user _ => false

def SramReader.tag : SramReader → Nat
  | .scrubber => 0
  | .user tag => tag

/-- The second of hub tide time (R198). -/
def tideSecond (s : State) : Nat := s.tide.hub.toNat / 1000000000

/-- Write the corrected-error sample of a die's SRAM, where the second that it counts has ended (R198: kind 0x0111). -/
def sramSample (s : State) (slot : Nat) : State :=
  let x := tget s.sc slot {}
  if x.ceCount = 0 ∨ tideSecond s ≤ x.ceSec then s
  else logRecord { s with sc := tset s.sc slot { x with ceCount := 0, ceAddr := 0, ceUnit := 0 } {} } 0x0111 slot x.ceUnit x.ceCount x.ceAddr 0

/-- Count a correction in SRAM, by its core, its scrubber and its second (R186, R198). The sample's ADDR is the word's
(DESIGN CHOICE). -/
def sramCorrected (s : State) (a : Nat) (who : SramReader) : State :=
  let u := sramUnit s a
  let t := match homeOf a with
    | some (.core c p k _) => cntAdd s ((blkCO c p (siteOf s c p k)).reg 0x040) 1
    | _ => s
  let t := sramSample (if who.scrub then cntAdd t ((blkSC u.1).reg 0x020) 1 else t) u.1
  let x := tget t.sc u.1 {}
  { t with sc := tset t.sc u.1 { x with ceCount := x.ceCount + 1, ceAddr := a, ceUnit := u.2.1, ceSec := tideSecond t } {} }

/-- Count and log an uncorrectable SRAM word, or with `side` an entry of the side array (R186, R198: kinds 0x0112 and
0x0113). The record's ADDR is the parcel's (DESIGN CHOICE). -/
def sramUncorrectable (s : State) (a : Nat) (who : SramReader) (side : Bool) : State :=
  let u := sramUnit s a
  let t := match homeOf a with
    | some (.core c p k _) => cntAdd s ((blkCO c p (siteOf s c p k)).reg 0x044) 1
    | _ => s
  let t := if who.scrub then cntAdd t ((blkSC u.1).reg 0x024) 1 else t
  logRecord t (if who.scrub then 0x0113 else 0x0112) u.1 u.2.1 (u.2.2.1 + u.2.2.2 * 256 + (if side then 0x10000 else 0)) (a / 256 * 256) who.tag

/-- Read one 64-bit word of SRAM at address `a`: correct a single error, or rewrite the word with zeros and poison its
parcel (R186). Only the number of flipped bits matters; a flip register makes at most two. -/
def sramFixWord (s : State) (a : Nat) (who : SramReader) : State :=
  let e := tget s.mem.sramErr (a / 8) 0
  if e = 0 then s
  else
    let m := { s.mem with sramErr := terase s.mem.sramErr (a / 8) }
    if popcount 72 e.toNat = 1 then sramCorrected (s.setMem m) a who
    else
      let m := { m with bytes := m.bytes.writeBytes (a / 8 * 8) (natToBytes 8 0) }
      let m := (m.setPoison a true).setCheck a (parcelCheck (m.parcel (a / 256 * 256)).data)
      sramUncorrectable (s.setMem m) a who false

/-- An address of core SRAM, whose side array holds the seal states. -/
def inCore (a : Nat) : Bool := match homeOf a with
  | some (.core _ _ _ _) => true
  | _ => false

/-- The side-array entry of the parcel at `a` cannot be corrected, or reads the seal state that is never written (R92). -/
def sideBad (m : MemSt) (a : Nat) : Bool :=
  decide (1 < popcount 72 (tget m.sideErr (a / 256) 0).toNat) || inCore a && m.sealAt a == 3

/-- Rewrite the side-array entry of the parcel at `a`: its data is kept (R186). -/
def rewriteSide (m : MemSt) (a : Nat) : MemSt :=
  let m := { m with sideErr := terase m.sideErr (a / 256) }
  let m := (m.setPoison a true).setCheck a (parcelCheck (m.parcel (a / 256 * 256)).data)
  if inCore a then m.setSeal a sealUnverified else m

/-- Read the side-array entry of the parcel at `a`: a single error is corrected (R186). -/
def sideFix (s : State) (a : Nat) (who : SramReader) : State :=
  if sideBad s.mem a then sramUncorrectable (s.setMem (rewriteSide s.mem a)) a who true
  else if tget s.mem.sideErr (a / 256) 0 = 0 then s
  else sramCorrected (s.setMem { s.mem with sideErr := terase s.mem.sideErr (a / 256) }) a who

/-- Read `n` words of SRAM from address `a` on, with the side-array entry of each parcel that begins among them. -/
def sramWords (s : State) (a : Nat) (who : SramReader) : Nat → State
  | 0 => s
  | n + 1 => sramWords (sramFixWord (if a % 256 = 0 then sideFix s a who else s) a who) (a + 8) who n

/-- Read `n` words of SRAM from address `a` on, with the side-array entry of every parcel that they lie in (R186). -/
def sramFix (s : State) (a : Nat) (who : SramReader) (n : Nat) : State := sramWords (sideFix s a who) a who n

/-- The parcel that holds an address, or its side-array entry, is uncorrectable: a fetch of it faults (R93). -/
def sramHasUE (s : State) (a : Nat) : Bool :=
  sideBad s.mem a || (List.range 32).any fun i => decide (1 < popcount 72 (tget s.mem.sramErr (a / 256 * 32 + i) 0).toNat)

/-! ### SRAM writes and the flip register (R203) -/

/-- The SC block that covers an SRAM address and whether its flip register's TARGET names the address (R205). -/
def flipTargets (s : State) (a : Nat) (target : Nat) : Bool :=
  match homeOf a with
  | some (.base _ _) => target % 32 == a / 256 % 32
  | some (.core c p k _) => target % 8 == a / 256 % 8 && target / 8 % 32 == siteOf s c p k && target / 256 % 64 == p
  | some (.hub _) => target % 16 == a / 256 % 16
  | _ => false

/-- A foreground write of the `n` bytes at `a` has replaced whole words: their stored code is now valid, except for what
an armed flip register makes of the word at the lowest address (R203). -/
def sramWritten (s : State) (a n : Nat) : State :=
  let lo := a / 8
  let hi := (a + n + 7) / 8
  let t := s.setMem { s.mem with sramErr := tclear s.mem.sramErr lo hi }
  let f := rget t ((blkSC (sramUnit t a).1).reg 0x02C)
  if f.getLsbD 31 && flipTargets t a (field f 0 14).toNat then
    let mask := flipMask (field f 14 7).toNat (field f 21 7).toNat (f.getLsbD 28)
    rset (t.setMem { t.mem with sramErr := tset t.mem.sramErr lo mask 0 }) ((blkSC (sramUnit t a).1).reg 0x02C) 0
  else t

/-- A foreground write has replaced the whole parcel at `a` and its entry of the side array. -/
def parcelWritten (s : State) (a : Nat) : State :=
  let s := sramWritten s a 256
  s.setMem { s.mem with sideErr := terase s.mem.sideErr (a / 256) }

/-! ### HBM (R170–R173, R187–R191, R201) -/

def mcGet (s : State) (m : Nat) : McSt := tget s.mc m {}
def mcSet (s : State) (m : Nat) (x : McSt) : State := { s with mc := tset s.mc m x {} }

/-- Regions of 2 MiB (R170). -/
def regionOf (off : Nat) : Nat := off / 0x200000

def McSt.released (x : McSt) (r : Nat) : Bool := (decide (r < x.dredge) || x.ahead.contains r) && !x.skipped.contains r

/-- Regions released so far. -/
def McSt.releasedCount (x : McSt) : Nat := x.dredge + x.ahead.length - x.skipped.length

/-- The walk passes over regions that were released ahead of it. -/
def McSt.advance (x : McSt) : Nat → McSt
  | 0 => x
  | n + 1 => if x.ahead.contains x.dredge then McSt.advance { x with dredge := x.dredge + 1, ahead := x.ahead.erase x.dredge } n else x

/-- The walk goes past its present region. -/
def McSt.pass (x : McSt) : McSt := McSt.advance { x with dredge := x.dredge + 1 } x.ahead.length

/-- Dredge one region: zeros, valid code and check, no poison; then release it (R170). -/
def dredge (s : State) (m r : Nat) : State :=
  let x := mcGet s m
  let lo := hbmBase m + r * 0x200000
  let x' :=
    if r = x.dredge then x.pass
    else if x.skipped.contains r then { x with skipped := x.skipped.erase r }
    else { x with ahead := r :: x.ahead }
  mcSet (s.setMem (s.mem.clear lo (lo + 0x200000))) m x'

/-- A page is retired (R201). -/
def McSt.retiredPage (x : McSt) (page : Nat) : Bool := x.retired.any fun e => e.2 == page

def srcCode : MemSource → Nat
  | .tug => 0
  | .pilot => 1
  | .scrubber => 2
  | .guest => 3

/-- Count a request to a retired page and log the first in each power cycle per page (R201). -/
def retiredHit (s : State) (m off : Nat) (write : Bool) (src : MemSource) (tag : Nat) : State :=
  let page := off / 0x400000
  let t := cntAdd s ((blkMC m).reg 0x06C) 1
  let x := mcGet t m
  if x.retLogged.contains page then t
  else logRecord (mcSet t m { x with retLogged := page :: x.retLogged }) 0x0106 (stackHome m |>.1 |> slotQ) m
    ((if write then 1 else 0) + srcCode src * 65536) (hbmBase m + off) tag

/-- Count a read of a region not yet released, capture the first and log the first of the power cycle (R173). -/
def unwrittenHit (s : State) (m off : Nat) (src : MemSource) (tag : Nat) : State :=
  let a := hbmBase m + off
  let t := cntAdd s ((blkMC m).reg 0x024) 1
  let t := logCapture64 t ((blkMC m).reg 0x028) (BitVec.ofNat 32 a) (BitVec.ofNat 32 (a / 2 ^ 32))
  let x := mcGet t m
  if x.unwrittenLogged then t
  else logRecord (mcSet t m { x with unwrittenLogged := true }) 0x0105 (stackHome m |>.1 |> slotQ) m (srcCode src * 65536) a tag

/-- What decoding the four burst pairs of a parcel found. -/
structure HbmFind where
  corrected : Bool := false
  /-- The first uncorrectable pair: DETAIL[7:6] names it where several are (DESIGN CHOICE). -/
  bad  : Option Nat := none
  hard : Bool := false
  marked : Bool := false         -- a pair gives the poison syndrome
  deriving DecidableEq, Repr

/-- An error turns a burst pair's POISON bit over. -/
def MemSt.flipPair (m : MemSt) (k : Nat) (b : Bool) : MemSt := { m with hbmFlip := tset m.hbmFlip k (tget m.hbmFlip k false != b) false }

/-- The four burst pairs of a parcel have the parcel's mark. -/
def MemSt.clearFlips (m : MemSt) (a : Nat) : MemSt := { m with hbmFlip := tclear m.hbmFlip (a / 64) (a / 64 + 4) }

/-- What a pair's remaining difference `e` makes of the bytes it delivers: data bytes, its byte of the check, its own
POISON bit. -/
def applyDiff (m : MemSt) (a j : Nat) (e : BitVec 576) : MemSt :=
  if e = 0 then m
  else
    let pa := a + 64 * j
    let old := m.bytes.readNat pa 64
    let m := { m with bytes := m.bytes.writeNat pa 64 (old ^^^ (e.extractLsb' 0 512).toNat) }
    let d := m.parcel a
    let m := m.setCheck a (d.check ^^^ (BitVec.ofNat 32 (symbol e 64 * 2 ^ (8 * j))))
    m.flipPair (a / 64 + j) (symbol e 65 % 2 == 1)

/-- POISON is set in some burst pair of the parcel at `a` (R190). -/
def anyPoison (m : MemSt) (a : Nat) : Bool :=
  (List.range 4).any fun j => tget m.poison (a / 256) false != tget m.hbmFlip (a / 64 + j) false

/-- Decode burst pair `j` of the parcel at `a`: correct it in place, or say that it cannot be corrected (R188). -/
def decodePair (m : MemSt) (a j : Nat) (f : HbmFind) : MemSt × HbmFind :=
  let key := a / 64 + j
  let e := tget m.hbmErr key 0
  let put (m : MemSt) (v : BitVec 576) : MemSt := { m with hbmErr := tset m.hbmErr key v 0 }
  match symClassify e with
  | .clean => (put (applyDiff m a j e) 0, f)
  | .single i v => (put (applyDiff m a j (e ^^^ symAt i v)) 0, { f with corrected := true })
  | .poison => (m, { f with marked := true })
  | .uncorrectable =>
    (m, { f with bad := f.bad.orElse (fun _ => some j), hard := f.hard || tget m.hbmPois key false })

/-- The pairs that cannot be corrected, by R188. -/
def badPair (m : MemSt) (a j : Nat) : Bool :=
  match symClassify (tget m.hbmErr (a / 64 + j) 0) with
  | .uncorrectable => true
  | _ => false

/-- Rewrite one failing pair with 64 zero bytes and the poison syndrome (R190). -/
def poisonOne (m : MemSt) (a j : Nat) : MemSt :=
  if badPair m a j then
    { m with bytes := m.bytes.writeNat (a + 64 * j) 64 0, hbmErr := tset m.hbmErr (a / 64 + j) poisonPair 0,
             hbmPois := tset m.hbmPois (a / 64 + j) true false }
  else m

/-- Rewrite a parcel with an uncorrectable pair: failing pairs zero, every pair marked, a fresh check (R190). -/
def poisonParcel (m : MemSt) (a : Nat) : MemSt :=
  let m := (poisonOne (poisonOne (poisonOne (poisonOne m a 0) a 1) a 2) a 3).clearFlips a
  (m.setPoison a true).setCheck a (parcelCheck (m.parcel a).data)

/-- Decode the four pairs of a parcel. -/
def decodePairs (m : MemSt) (a : Nat) : MemSt × HbmFind :=
  let r := decodePair m a 0 {}
  let r := decodePair r.1 a 1 r.2
  let r := decodePair r.1 a 2 r.2
  decodePair r.1 a 3 r.2

/-- The pseudo-channel of an offset within a stack (R151). -/
def pseudoChannel (off : Nat) : Nat := off / 256 % 64 ^^^ off / 16384 % 64

/-- Write the corrected-error sample of a stack, where the second that it counts has ended (R198: kind 0x0101). -/
def mcSample (s : State) (m : Nat) : State :=
  let x := mcGet s m
  if x.ceCount = 0 ∨ tideSecond s ≤ x.ceSec then s
  else logRecord (mcSet s m { x with ceCount := 0, ceAddr := 0 }) 0x0101 (slotQ (stackHome m).1) m x.ceCount x.ceAddr 0

/-- Count a correction for the sample of the present second (R198). -/
def mcCorrected (s : State) (m a : Nat) : State :=
  let s := mcSample (cntAdd s ((blkMC m).reg 0x048) 1) m
  let x := mcGet s m
  mcSet s m { x with ceCount := x.ceCount + 1, ceAddr := a, ceSec := tideSecond s }

/-- A read or a write of a released parcel, after which the stack's activation counting may ask for one RFM command: whether it does
is not stated, and is a free value. Dredging asks for none (DESIGN CHOICE; R150). -/
def rfm (s : State) (m : Nat) : State :=
  if (cfg s (blkMC m) 0x010).getLsbD 0 then cntAdd s.takeFree ((blkMC m).reg 0x040) (s.free % 2) else s

/-- A pair was corrected, for the controller and, where it read, the scrubber. -/
def countCorrected (s : State) (m a : Nat) (src : MemSource) : State :=
  let s := mcCorrected s m a
  if src = .scrubber then cntAdd s ((blkSC (slotQ (stackHome m).1)).reg 0x020) 1 else s

/-- The controller reads a parcel for a requester (R190), `tag` being the berth SESSION or descriptor TAG of a record. Each finding
counts, also where one pair is corrected and another is not (DEDUCED). -/
def hbmRead (s : State) (m off : Nat) (src : MemSource) (tag : Nat) : State × PData :=
  let off := off / 256 * 256
  let a := hbmBase m + off
  let s := cntAdd64 s ((blkMC m).reg 0x030) 1
  let x := mcGet s m
  if x.retiredPage (off / 0x400000) then (retiredHit s m off false src tag, zeroParcel true)
  else if !x.released (regionOf off) then (unwrittenHit s m off src tag, zeroParcel true)
  else
    let s := rfm s m
    let r := decodePairs s.mem a
    let s := if r.2.corrected then countCorrected s m a src else s
    let s := if anyPoison r.1 a || r.2.marked then cntAdd s ((blkMC m).reg 0x050) 1 else s
    match r.2.bad with
    | some j =>
      let mem := poisonParcel r.1 a
      let t := cntAdd (s.setMem mem) ((blkMC m).reg 0x04C) 1
      let t := logCapture64 t ((blkMC m).reg 0x070) (BitVec.ofNat 32 a) (BitVec.ofNat 32 (a / 2 ^ 32))
      let t := if src = .scrubber then cntAdd t ((blkSC (slotQ (stackHome m).1)).reg 0x024) 1 else t
      let kind := if r.2.hard then 0x0104 else if src = .scrubber then 0x0103 else 0x0102
      let t := logRecord t kind (slotQ (stackHome m).1) m (pseudoChannel off + j * 64 + srcCode src * 65536) a tag
      (t, t.mem.parcel a)
    | none =>
      (s.setMem r.1, { r.1.parcel a with poison := anyPoison r.1 a || r.2.marked })

/-- The difference that an armed MC_FLIP makes in the next foreground parcel (R203, R204). A symbol that both
fields name is struck once (DESIGN CHOICE: the fields name a set). -/
def mcFlipDiff (f : Word) : BitVec 576 :=
  symAt (field f 0 7).toNat (field f 20 8).toNat ^^^ (if f.getLsbD 15 && field f 8 7 != (field f 0 7 : BitVec 7) then symAt (field f 8 7).toNat (field f 20 8).toNat else 0)

/-- The controller stores a whole parcel, dredging its region ahead where it is not released (R172). -/
def hbmStore (s : State) (m off : Nat) (d : PData) : State :=
  let a := hbmBase m + off
  let s := cntAdd64 s ((blkMC m).reg 0x038) 1
  let s := if (mcGet s m).released (regionOf off) then s
    else cntAdd (dredge s m (regionOf off)) ((blkMC m).reg 0x020) 1
  rfm (s.setMem { s.mem.setParcel a d with
    hbmErr := tclear s.mem.hbmErr (a / 64) (a / 64 + 4), hbmPois := tclear s.mem.hbmPois (a / 64) (a / 64 + 4),
    hbmFlip := tclear s.mem.hbmFlip (a / 64) (a / 64 + 4) }) m

/-- The controller writes a whole parcel (R172, R191, R201), a foreground write through MC_FLIP where it is armed (R203). -/
def hbmWrite (s : State) (m off : Nat) (src : MemSource) (d : PData) (tag : Nat) : State :=
  let off := off / 256 * 256
  let a := hbmBase m + off
  if (mcGet s m).retiredPage (off / 0x400000) then retiredHit s m off true src tag
  else
    let s := hbmStore s m off d
    let f := rget s ((blkMC m).reg 0x058)
    if f.getLsbD 31 && src != .scrubber then
      rset (s.setMem { s.mem with hbmErr := tset s.mem.hbmErr (a / 64 + (field f 16 2).toNat) (mcFlipDiff f) 0 }) ((blkMC m).reg 0x058) 0
    else s

/-! ### Parcels anywhere in local memory -/

/-- Read the parcel at an address as a tug, the pilot engine or the guest reads it: HBM through its controller, SRAM
through its code, core SRAM through the seal logic (R94, R186, R190). -/
def readParcel (s : State) (a : Nat) (src : MemSource) (tag : Nat) : State × PData :=
  match homeOf a with
  | some (.hbm m off) => hbmRead s m off src tag
  | some (.core _ _ _ _) =>
    let s := sramFix s (a / 256 * 256) (.user tag) 32
    if s.mem.sealAt a = sealOpen then
      let c := parcelCheck (s.mem.parcel (a / 256 * 256)).data
      let t := s.setMem ((s.mem.setCheck a c).setSeal a sealVerified)
      (t, t.mem.parcel (a / 256 * 256))
    else (s, s.mem.parcel (a / 256 * 256))
  | _ =>
    let s := sramFix s (a / 256 * 256) (.user tag) 32
    (s, s.mem.parcel (a / 256 * 256))

/-- Write a whole parcel as a tug or the pilot engine writes it; a record of it carries `tag`. In core SRAM it becomes
UNVERIFIED (R92). -/
def writeParcel (s : State) (a : Nat) (src : MemSource) (d : PData) (tag : Nat) : State :=
  match homeOf a with
  | some (.hbm m off) => hbmWrite s m off src d tag
  | some (.core _ _ _ _) =>
    let s := parcelWritten s (a / 256 * 256)
    s.setMem ((s.mem.setParcel (a / 256 * 256) d).setSeal a sealUnverified)
  | _ =>
    let s := parcelWritten s (a / 256 * 256)
    s.setMem (s.mem.setParcel (a / 256 * 256) d)

/-! ## Bollards (R135–R139) -/

/-- `v` is at least `t` (R136). -/
def atLeast (v t : Word) : Bool := decide ((v - t).toNat < 2 ^ 31)

def bollGet (s : State) (b : Nat) : Word := tget s.boll.val b 0

/-- The watch slots that wait on a bollard and whose target its value has reached are released (R138). The release is
timed from the acceptance of the signal, at the present control cycle. -/
def watchHits (s : State) (b : Nat) : State :=
  let hit (w : Option Watch) : Option Watch := w.map fun x =>
    if x.boll = b ∧ x.hit.isNone ∧ atLeast (bollGet s b) x.target then { x with hit := some (BitVec.ofNat 64 s.now) } else x
  { s with boll := { s.boll with watch := s.boll.watch.map fun e => (e.1, hit e.2) } }

/-- Store a bollard's value and compare it with its waiters at once. -/
def bollSet (s : State) (b : Nat) (v : Word) : State :=
  watchHits { s with boll := { s.boll with val := tset s.boll.val b v 0 } } b

/-- Add to a local bollard, modulo 2^32 (R135). -/
def bollAdd (s : State) (b : Nat) (n : Word) : State := cntAdd (bollSet s b (bollGet s b + n)) (blkBL.reg 0x028) 1

/-- Watch slots: one for each logical core, then one for each tug (R138). -/
def watchKey : Waiter → Nat
  | .core c => (c.die.val * 48 + c.pier.val) * 16 + c.core.val
  | .tug t => 9216 + (t.die.val * 48 + t.pier.val) * 2 + t.tug.val

def watchGet (s : State) (w : Waiter) : Option Watch := tget s.boll.watch (watchKey w) none
def watchSet (s : State) (w : Waiter) (x : Option Watch) : State :=
  { s with boll := { s.boll with watch := tset s.boll.watch (watchKey w) x none } }

end Sys2Proof.Machine
end

