-- ==== Sys2Proof/Machine/LinkOps.lean ====
section
/-! DEFINITION. Where traffic goes: members and reachability (R139, R140, R247), routes between base dies (R279–R281),
and parcels placed behind the credits of a link. -/

namespace Sys2Proof.Machine

/-! ## Members -/

/-- The chart in force, else what the installation record gives in its place (R379, R433). -/
def effChart (s : State) : Option Chart :=
  match s.hm.chart with
  | some c => some c
  | none => s.hm.boot

/-- The module's device index: that of the chart in force, else of the installation record (R208, R433). -/
def ownDev (s : State) : Nat :=
  match effChart s with
  | some c => c.device.toNat
  | none => 0

/-- The size G of the group plan of an engine, from the home lines of its engine word; 0 for the partner plan (R316, R317). -/
def planSize (word : Word) : Nat :=
  let h := popcount 16 (field word 16 16).toNat
  if h = 0 then 0 else 16 / h

/-- The member that a lane record of engine `n` reaches (R316, R317). -/
def laneDest (c : Chart) (n : Nat) (r : BitVec 16) : Nat :=
  let g := planSize (c.engines.getD n 0)
  let line := (field r 4 4).toNat
  if g = 0 then Config.partner c.device.toNat n else (c.device.toNat + line + 1) % g

def laneRec (c : Chart) (n i : Nat) : BitVec 16 := tget c.lanes (n * 256 + i) 0

/-- EN of a lane record (R213). -/
def laneEn (r : BitVec 16) : Bool := r.getLsbD 8

/-- The electrical lanes of engine `n` that the chart maps to member `d`, in increasing order (R233). -/
def linkLanes (c : Chart) (n d : Nat) : List Nat :=
  (List.range 256).filter fun i => laneEn (laneRec c n i) && laneDest c n (laneRec c n i) == d && d != c.device.toNat

/-- Engines with lanes to a member. -/
def enginesTo (c : Chart) (d : Nat) : List Nat := (List.range 8).filter fun n => !(linkLanes c n d).isEmpty

def relayOf (c : Chart) (d : Nat) : Nat := c.relay.getD d 15

/-- A member is reachable (R140). -/
def reachable (s : State) (d : Nat) : Bool :=
  match s.hm.chart with
  | none => false
  | some c => c.group.getLsbD d && d != c.device.toNat && (!(enginesTo c d).isEmpty || relayOf c d != 15)

/-- The member a parcel for `d` is sent to next: `d` where lanes lead there, else the relay of ROUTE (R139, R247). -/
def nextMember (c : Chart) (d : Nat) : Nat := if (enginesTo c d).isEmpty then relayOf c d else d

/-! ## Link endpoints -/

def linkKey (slot u : Nat) : Nat := slot * 64 + u
def linkGet (s : State) (k : Nat) : LinkSt := tget s.links k {}
def linkSet (s : State) (k : Nat) (x : LinkSt) : State := { s with links := tset s.links k x {} }
def linkMod (s : State) (k : Nat) (f : LinkSt → LinkSt) : State := linkSet s k (f (linkGet s k))

/-- The guest port's endpoint, at the hub end of the guest's bundles (R292). -/
def guestKey : Nat := 2

/-- The QL block of an endpoint. The guest port has none (R270): its words stand outside register space, where nothing reads
them. -/
def qlBlk (k : Nat) : Blk := if k = guestKey then ⟨.ql, 0, 2, 41 * 0x4000000⟩ else blkQL (k / 64) (k % 64)

/-- GF_FUSE: a guest die is fitted; its mode is UCIe. -/
def guestPresent (s : State) : Bool := (rget s (blkGF.reg 0x014)).getLsbD 1
def guestUcie (s : State) : Bool := (rget s (blkGF.reg 0x014)).getLsbD 0

/-- The endpoint of the optical link of engine `n` toward member `d` (R475). -/
def opticKey (n d : Nat) : Nat := linkKey (slotQ (engineHome n).1) (32 + 16 * (engineHome n).2 + d)

/-- The engine and member of an optical endpoint. -/
def opticOf (k : Nat) : Option (Nat × Nat) :=
  if k / 64 = 0 ∨ k % 64 < 32 then none
  else match enginesOf (k / 64 - 1) with
    | some (n0, _) => some (n0 + (k % 64 - 32) / 16, k % 16)
    | none => none

/-- An endpoint may start to send, to train or to ask for a width: its block is enabled (R462). -/
def endRuns (s : State) (k : Nat) : Bool := if k = guestKey then enabled s blkGF else enabled s (qlBlk k)

/-- A scheduled switchover has stopped the transmitters of an optical endpoint's engine (R349). -/
def blanked (s : State) (k : Nat) : Bool := match opticOf k with
  | some (n, _) => (tget s.ls n {}).blank
  | none => false

/-- A lane of an optical endpoint is on the move to another place: no TRAIN blocks go out on it yet (R323). -/
def laneMoving (s : State) (k i : Nat) : Bool := match opticOf k, effChart s with
  | some (n, d), some c => match (linkLanes c n d)[i]? with
    | some e => (tget (tget s.oe n {}).place e {}).moving
    | none => false
  | _, _ => false

/-- The edge of base die `q` toward its neighbour `r`. -/
def edgeTo (q r : Nat) : Option Nat := (List.range 4).find? fun e => neighbour q e == some r

/-- The endpoint of bundle `i` of base die `q` toward its neighbour `r` (R475). -/
def bundleKey (q r i : Nat) : Option Nat := (edgeTo q r).map fun e => linkKey (slotQ q) (8 * e + i)

/-- The endpoint at the other end of a bundle link, if it is one. -/
def farEnd (k : Nat) : Option Nat :=
  let slot := k / 64
  let u := k % 64
  if slot = 0 then if u < 2 then some (linkKey (slotQ 1) u) else none
  else if slot = slotQ 1 ∧ u < 2 then some (linkKey 0 u)
  else if u < 32 then
    match neighbour (slot - 1) (u / 8) with
    | some r => bundleKey r (slot - 1) (u % 8)
    | none => none
  else none

def isUp (s : State) (k : Nat) : Bool := (linkGet s k).st == .up

/-- A bundle link is UP at both its ends. -/
def bundleUp (s : State) (k : Nat) : Bool := isUp s k && (match farEnd k with
  | some f => isUp s f
  | none => true)

/-- The UP links from base die `q` to its neighbour `r` (R279). -/
def pairLinks (s : State) (q r : Nat) : List Nat :=
  (List.range 8).filterMap fun i => match bundleKey q r i with
    | some k => if bundleUp s k then some k else none
    | none => none

/-- A neighbour pair is UP while one of its links is (R279). -/
def pairIsUp (s : State) (q r : Nat) : Bool := !(pairLinks s q r).isEmpty

/-! ## Routes (R280, R281) -/

/-- Path 0 and path 1 from the lower-numbered base die to the higher (R280). -/
def pathTable : Nat → Nat → List Nat × List Nat
  | 0, 1 => ([0, 1], [0, 3, 4, 1])
  | 0, 2 => ([0, 1, 2], [0, 3, 4, 5, 2])
  | 0, 3 => ([0, 3], [0, 1, 4, 3])
  | 0, 4 => ([0, 1, 4], [0, 3, 4])
  | 0, 5 => ([0, 1, 2, 5], [0, 3, 4, 5])
  | 1, 2 => ([1, 2], [1, 4, 5, 2])
  | 1, 3 => ([1, 0, 3], [1, 4, 3])
  | 1, 4 => ([1, 4], [1, 0, 3, 4])
  | 1, 5 => ([1, 2, 5], [1, 4, 5])
  | 2, 3 => ([2, 1, 0, 3], [2, 5, 4, 3])
  | 2, 4 => ([2, 1, 4], [2, 5, 4])
  | 2, 5 => ([2, 5], [2, 1, 4, 5])
  | 3, 4 => ([3, 4], [3, 0, 1, 4])
  | 3, 5 => ([3, 4, 5], [3, 0, 1, 2, 5])
  | 4, 5 => ([4, 5], [4, 1, 2, 5])
  | _, _ => ([], [])

/-- The path of an ordered pair by its PATH bit. -/
def pathOf (a b : Nat) (bit : Bool) : List Nat :=
  let t := if a < b then pathTable a b else pathTable b a
  let p := if bit then t.2 else t.1
  if a < b then p else p.reverse

/-- Consecutive dies of a path. -/
def hops : List Nat → List (Nat × Nat)
  | a :: b :: r => (a, b) :: hops (b :: r)
  | _ => []

/-- Every hop of a path is UP. -/
def pathUp (s : State) (p : List Nat) : Bool := (hops p).all fun h => pairIsUp s h.1 h.2

/-- The selected path bit of an ordered pair (R212). -/
def pathBit (s : State) (a b : Nat) : Bool := (cfg s (blkQN a) 0x010).getLsbD b

/-- The path an ordered pair runs on now (R281). -/
def pathNow (s : State) (a b : Nat) : List Nat := pathOf a b (pathBit s a b != s.hm.moved.contains (a * 6 + b))

/-- The base die through which a place is reached: its own, the one below a compute die, Q1 for the hub and the guest. -/
def baseOf : Home → Nat
  | .hbm m _ => (stackHome m).1
  | .base q _ => q
  | .core c _ _ _ => c / 2
  | _ => 1

/-- A place lies behind the hub bundles of Q1 (R155). -/
def behindHub : Home → Bool
  | .hub _ | .guest _ | .reg _ => true
  | _ => false

/-- One of the hub's two bundles is UP. -/
def hubLinks (s : State) : List Nat := [linkKey 0 0, linkKey 0 1].filter fun k => bundleUp s k

/-- Traffic from base die `a` can reach base die `b` now; a disabled QN sends none on its way (R462). -/
def routeUp (s : State) (a b : Nat) : Bool := a == b || (enabled s (blkQN a) && pathNow s a b != [] && pathUp s (pathNow s a b))

def dieState (s : State) (slot : Nat) : DieState := (tget s.hm.dies slot {}).st

/-- A place's die answers (R285). -/
def homeAlive (s : State) : Home → Bool
  | .hbm m _ => dieState s (slotQ (stackHome m).1) == .up && enabled s (blkMC m)
  | .base q _ => dieState s (slotQ q) == .up
  | .core c _ _ _ => dieState s (slotC c) == .up
  | _ => true

/-- A point of the quay network: a base die, and whether what stands there lies behind the hub bundles of Q1. -/
abbrev Point := Nat × Bool

def pointOf (h : Home) : Point := (baseOf h, behindHub h)

/-- The hub's point, and that of an endpoint's die. -/
def hubPoint : Point := (1, true)
def diePoint (k : Nat) : Point := if k / 64 = 0 then hubPoint else (k / 64 - 1, false)

/-- Traffic can pass between two points now. -/
def wayUp (s : State) (a b : Point) : Bool := routeUp s a.1 b.1 && (a.2 == b.2 || !(hubLinks s).isEmpty)

/-- A unit at a point can reach a place now; otherwise its traffic waits (R264). -/
def reachHome (s : State) (a : Point) (h : Home) : Bool := homeAlive s h && wayUp s a (pointOf h)

/-- The link of a pair that carries a parcel: by address bits [15:8] on channels 1 and 2, else the lowest UP (R279). -/
def pairLink (s : State) (a b vc addr : Nat) : Option Nat :=
  let l := pairLinks s a b
  if l.isEmpty then none else if vc = 1 ∨ vc = 2 then l[addr / 256 % 256 % l.length]? else l.head?

/-- Count a parcel over each hop of its route: sent at one end, released at the other, passed on by the dies between
(R270, R482). -/
def countHops (s : State) (vc addr : Nat) : List (Nat × Nat) → State
  | [] => s
  | (a, b) :: r =>
    match pairLink s a b vc addr with
    | none => countHops s vc addr r
    | some k =>
      let t := cntAdd64 s ((qlBlk k).reg 0x078) 1
      let t := match farEnd k with
        | some k' => cntAdd64 t ((qlBlk k').reg 0x080) 1
        | none => t
      let t := if r.isEmpty then t else cntAdd64 t ((blkQN b).reg 0x0A0) 1
      countHops t vc addr r

/-- Count one parcel carried between two points. -/
def countWay (s : State) (a b : Point) (vc addr : Nat) : State :=
  let s := countHops s vc addr (hops (pathNow s a.1 b.1))
  if a.2 == b.2 then s
  else match hubLinks s with
    | [] => s
    | k :: _ =>
      let out := if a.2 then k else (farEnd k).getD k
      let inn := if a.2 then (farEnd k).getD k else k
      cntAdd64 (cntAdd64 s ((qlBlk out).reg 0x078) 1) ((qlBlk inn).reg 0x080) 1

/-- Count one parcel carried between two places of this module. -/
def countLocal (s : State) (a b : Home) (vc addr : Nat) : State := countWay s (pointOf a) (pointOf b) vc addr

/-! ## Sending to members -/

/-- The endpoint that takes a parcel toward member `d` (R247): on channels 0 and 3 the lowest-numbered engine with an UP
link, on channels 1 and 2 the UP links in turn by address bits [15:8]; with no UP link, the lowest-numbered engine that
is mapped, where the parcel is held (R264). -/
def sendKey (s : State) (c : Chart) (d vc addr : Nat) : Option Nat :=
  let m := nextMember c d
  let all := (enginesTo c m).map fun n => opticKey n m
  let up := all.filter fun k => isUp s k
  if up.isEmpty then all.head?
  else if vc = 1 ∨ vc = 2 then up[addr / 256 % 256 % up.length]?
  else up.head?

/-- The guest port is up. -/
def guestUp (s : State) : Bool := isUp s guestKey

/-- Place a parcel behind the credits of an endpoint. -/
def enqueue (s : State) (k : Nat) (p : QPar) : State := linkMod s k fun x => { x with waiting := x.waiting ++ [p] }

/-- Members with optical links, by endpoint: those the map in force gives lanes to (R232). -/
def mapped (c : Chart) : List Nat :=
  (List.range 8).flatMap fun n => ((List.range 16).filter fun d => !(linkLanes c n d).isEmpty).map fun d => opticKey n d

/-- The endpoint that takes a parcel now. -/
def takerOf (s : State) (p : QPar) : Option Nat := (effChart s).bind fun c => sendKey s c p.dev.toNat p.vc.toNat (p.addr.toNat * 256)

/-- A parcel of the same order waits already at its source: order is kept. Parcels held in a failed link may be overtaken (R281). -/
def outBefore (s : State) (src : Point) (p : QPar) : Bool :=
  s.trans.outbound.any fun o => o.hold.isNone && o.src == src && o.par.dev == p.dev && o.par.vc == p.vc

/-- The two hub bundles' sending ends, at the hub and at Q1. A parcel takes one of two DOWN bundles by its address, as R279 spreads parcels
over UP links (DESIGN CHOICE). -/
def hubEnd (hub : Bool) (vc addr : Nat) : Nat :=
  linkKey (if hub then 0 else slotQ 1) (if vc = 1 ∨ vc = 2 then addr / 256 % 2 else 0)

/-- The first hop of a way that is not UP, as the endpoint at which traffic for it stalls: of a pair's eight DOWN links the one that the
address names, as R279 spreads parcels over UP links (DESIGN CHOICE; R264, R281). -/
def blockedAt (s : State) (a b : Point) (vc addr : Nat) : Option Nat :=
  let crosses := a.2 != b.2 && (hubLinks s).isEmpty
  if a.2 && crosses then some (hubEnd true vc addr)
  else match (hops (pathNow s a.1 b.1)).find? fun h => !pairIsUp s h.1 h.2 with
    | some h => bundleKey h.1 h.2 (if vc = 1 ∨ vc = 2 then addr / 256 % 8 else 0)
    | none => if crosses then some (hubEnd false vc addr) else none

/-- The other path of the pair between two points' base dies is UP: traffic will move there (R281). -/
def willMove (s : State) (a b : Point) : Bool :=
  a.1 != b.1 && pathUp s (pathOf a.1 b.1 (pathBit s a.1 b.1 == s.hm.moved.contains (a.1 * 6 + b.1)))

/-- Put a parcel among those that wait. One whose traffic is about to move enters the failed pair and is held there; without an UP path it waits
at its source (R281). -/
def holdOut (s : State) (src dst : Point) (p : QPar) : State :=
  let vc := p.vc.toNat
  let addr := p.addr.toNat * 256
  match if outBefore s src p || !willMove s src dst then none else blockedAt s src dst vc addr with
  | none => { s with trans := { s.trans with outbound := s.trans.outbound ++ [{ src := src, par := p }] } }
  | some k =>
    let s := countHops s vc addr ((hops (pathNow s src.1 dst.1)).takeWhile fun h => pairIsUp s h.1 h.2)
    { s with trans := { s.trans with outbound := s.trans.outbound ++ [{ src := src, par := p, hold := some k }] } }

/-- Send a parcel from a point toward a member, over the paths to the engine's base die (R15). While there is no UP path it
waits (R281). Without a link toward the member nothing is sent. -/
def sendTo (s : State) (src : Point) (p : QPar) : State :=
  match takerOf s p with
  | none => s
  | some k =>
    if outBefore s src p || !wayUp s src (diePoint k) then holdOut s src (diePoint k) p
    else enqueue (countWay s src (diePoint k) p.vc.toNat (p.addr.toNat * 256)) k p

/-- The bundle of an endpoint can be passed again: its pair is UP, or one of the hub's bundles is. -/
def passable (s : State) (k : Nat) : Bool :=
  if k / 64 = 0 ∨ (k / 64 = slotQ 1 ∧ k % 64 < 2) then !(hubLinks s).isEmpty
  else match farEnd k with
    | some f => pairIsUp s (k / 64 - 1) (f / 64 - 1)
    | none => true

/-- A parcel that waits tries again: from its source, or, once the failed link that holds it has returned, from there on (R281). -/
def retryOut (s : State) (o : OutPar) : State :=
  match o.hold with
  | none => sendTo s o.src o.par
  | some k => if passable s k then sendTo s (diePoint k) o.par else { s with trans := { s.trans with outbound := s.trans.outbound ++ [o] } }

/-- Parcels that wait try again, in order. -/
def flushOutbound (s : State) : State :=
  s.trans.outbound.foldl retryOut { s with trans := { s.trans with outbound := [] } }

/-- A control parcel made here, with a fresh check (R182). -/
def controlPar (ty : BitVec 4) (vc : BitVec 2) (dev : Nat) (payload : Parcel) (len : BitVec 6) : QPar :=
  { ty := ty, vc := vc, dev := BitVec.ofNat 4 dev, payload := payload, check := parcelCheck payload, len := len }

def tyWrite : BitVec 4 := 1
def tyReadReq : BitVec 4 := 2
def tyReadData : BitVec 4 := 3
def tyResp : BitVec 4 := 4
def tyBollard : BitVec 4 := 5
def tyTime : BitVec 4 := 6
def tyPilot : BitVec 4 := 7
def tyLink : BitVec 4 := 8

/-- A remote bollard add from a point: one add in a BOLLARD parcel on channel 0 (R139, R244). -/
def sendBollard (s : State) (src : Point) (dev boll : Nat) (amount : Word) : State :=
  sendTo s src (controlPar tyBollard 0 dev (fields 2048 [(14, boll), (4, ownDev s), (14, 0), (32, amount.toNat)]) 1)

/-- Add to a bollard of this module or of a peer; the module's own index acts here (R75, R99, R131). The hub keeps the
bollards, and sends the adds for peers (R16, R135, R139). -/
def bollSignal (s : State) (remote : Bool) (dev boll : Nat) (amount : Word) : State :=
  if remote && dev != ownDev s then sendBollard s hubPoint dev boll amount else bollAdd s boll amount

end Sys2Proof.Machine
end

