-- ==== Sys2Proof/Machine/Numbers.lean ====
section
/-! DEFINITION. Number formats and arithmetic (R29–R53): every operation is computed exactly on dyadic numbers and
rounded once. -/

namespace Sys2Proof.Machine

/-- An exact number: a NaN, an infinity, or (−1)^neg · m · 2^e. A zero keeps its sign. -/
inductive FV where
  | nan
  | inf (neg : Bool)
  | fin (neg : Bool) (m : Nat) (e : Int)
  deriving DecidableEq, Repr

/-- The numerical events of R53: a NaN written, an infinity from finite operands, a saturation. -/
structure NumEv where
  nan : Bool := false
  ovf : Bool := false
  sat : Bool := false
  deriving DecidableEq, Repr

/-- One instruction adds at most one to each counter, however many elements it affects (R53). -/
def NumEv.or (a b : NumEv) : NumEv := ⟨a.nan || b.nan, a.ovf || b.ovf, a.sat || b.sat⟩

/-- Events of several elements together. -/
def NumEv.all (l : List NumEv) : NumEv := l.foldl NumEv.or {}

/-- How a floating-point format treats its all-ones exponent (R30). -/
inductive TopCodes where
  | ieee      -- infinity at M = 0, NaN otherwise
  | e4m3      -- finite, but for a NaN at M all ones
  | none      -- finite
  deriving DecidableEq, Repr

/-- A floating-point element format (R30). -/
structure FSpec where
  expBits : Nat
  manBits : Nat
  bias    : Nat
  top     : TopCodes
  /-- Mantissa and exponent of the largest finite value: `maxM · 2^maxE`. -/
  maxM    : Nat
  maxE    : Int
  /-- The canonical NaN (R50). -/
  canonNan : Nat
  /-- R50: an overflow or an infinity saturates instead of becoming an infinity. -/
  saturates : Bool
  deriving DecidableEq, Repr

def fp32 : FSpec := ⟨8, 23, 127, .ieee, 2 ^ 24 - 1, 104, 0x7FC00000, false⟩
def bf16 : FSpec := ⟨8, 7, 127, .ieee, 255, 120, 0x7FC0, false⟩
def e5m2 : FSpec := ⟨5, 2, 15, .ieee, 7, 13, 0x7E, true⟩
def e4m3 : FSpec := ⟨4, 3, 7, .e4m3, 14, 5, 0x7F, true⟩
def e2m1 : FSpec := ⟨2, 1, 1, .none, 3, 1, 0, true⟩

/-- The exponent of the last place of the smallest normal and of every subnormal. -/
def FSpec.emin (f : FSpec) : Int := 1 - (f.bias : Int) - f.manBits

/-- The value of a code (R30). -/
def FSpec.decode (f : FSpec) (x : Nat) : FV :=
  let man := x % 2 ^ f.manBits
  let ex := x / 2 ^ f.manBits % 2 ^ f.expBits
  let neg := x / 2 ^ (f.manBits + f.expBits) % 2 == 1
  let ones := 2 ^ f.expBits - 1
  let finite : FV :=
    if ex = 0 then .fin neg man f.emin else .fin neg (man + 2 ^ f.manBits) (f.emin + (ex - 1 : Nat))
  if ex = ones then
    match f.top with
    | .ieee => if man = 0 then .inf neg else .nan
    | .e4m3 => if man = 2 ^ f.manBits - 1 then .nan else finite
    | .none => finite
  else finite

/-- `m / 2^k` rounded to the nearest integer, ties to even. -/
def rneShift (m k : Nat) : Nat :=
  let q := m / 2 ^ k
  let r := m % 2 ^ k
  let half := 2 ^ k / 2
  if k = 0 then m
  else if r > half then q + 1
  else if r = half then q + q % 2
  else q

/-- Round `m · 2^e` to `p` bits of precision with last places no smaller than `2^emin`, to nearest, ties to even.
The result `(n, q)` is `n · 2^q`. The exponent range has no upper end. -/
def roundTo (p : Nat) (emin : Int) (m : Nat) (e : Int) : Nat × Int :=
  if m = 0 then (0, emin)
  else
    let q := max (e + (Nat.log2 m + 1 : Nat) - p) emin
    let n := if q ≤ e then m * 2 ^ (e - q).toNat else rneShift m (q - e).toNat
    if n = 2 ^ p then (2 ^ (p - 1), q + 1) else (n, q)

/-- `a·2^ea > b·2^eb`, exactly. -/
def dyGt (a : Nat) (ea : Int) (b : Nat) (eb : Int) : Bool :=
  let e0 := min ea eb
  decide (a * 2 ^ (ea - e0).toNat > b * 2 ^ (eb - e0).toNat)

/-- Assemble a code from its parts. -/
def FSpec.pack (f : FSpec) (neg : Bool) (rest : Nat) : Nat :=
  (if neg then 2 ^ (f.expBits + f.manBits) else 0) + rest

/-- The code of the infinity of a format that has one. -/
def FSpec.infCode (f : FSpec) (neg : Bool) : Nat := f.pack neg ((2 ^ f.expBits - 1) * 2 ^ f.manBits)

/-- The code of a finite rounded magnitude `n · 2^q`. -/
def FSpec.codeOf (f : FSpec) (neg : Bool) (n : Nat) (q : Int) : Nat :=
  if n < 2 ^ f.manBits then f.pack neg n
  else f.pack neg ((q - f.emin + 1).toNat * 2 ^ f.manBits + (n - 2 ^ f.manBits))

/-- The code of the largest finite value. -/
def FSpec.maxCode (f : FSpec) (neg : Bool) : Nat := f.codeOf neg f.maxM f.maxE

/-- Round a number into a format (R48, R50). `ev.ovf` here says that a finite value became an infinity. -/
def FSpec.encode (f : FSpec) (v : FV) : Nat × NumEv :=
  match v with
  | .nan => (f.canonNan, { nan := true })
  | .inf neg => if f.saturates then (f.maxCode neg, { sat := true }) else (f.infCode neg, {})
  | .fin neg m e =>
    let r := roundTo (f.manBits + 1) f.emin m e
    if dyGt r.1 r.2 f.maxM f.maxE then
      if f.saturates then (f.maxCode neg, { sat := true }) else (f.infCode neg, { ovf := true })
    else (f.codeOf neg r.1 r.2, {})

/-! Exact operations (IEEE 754, R46, R48). -/

def FV.isFinite : FV → Bool
  | .fin _ _ _ => true
  | _ => false

def FV.isNan : FV → Bool
  | .nan => true
  | _ => false

def FV.neg : FV → FV
  | .nan => .nan
  | .inf s => .inf (!s)
  | .fin s m e => .fin (!s) m e

/-- Exact sum. An exact zero is +0 unless both operands are negative. -/
def FV.add : FV → FV → FV
  | .nan, _ => .nan
  | _, .nan => .nan
  | .inf s, .inf t => if s = t then .inf s else .nan
  | .inf s, .fin _ _ _ => .inf s
  | .fin _ _ _, .inf t => .inf t
  | .fin s m e, .fin t n f =>
    let e0 := min e f
    let x : Int := (if s then -1 else 1) * (m * 2 ^ (e - e0).toNat : Nat)
    let y : Int := (if t then -1 else 1) * (n * 2 ^ (f - e0).toNat : Nat)
    let z := x + y
    if z = 0 then .fin (s && t) 0 e0 else .fin (decide (z < 0)) z.natAbs e0

/-- Exact product. -/
def FV.mul : FV → FV → FV
  | .nan, _ => .nan
  | _, .nan => .nan
  | .inf s, .inf t => .inf (s != t)
  | .inf s, .fin t n _ => if n = 0 then .nan else .inf (s != t)
  | .fin s m _, .inf t => if m = 0 then .nan else .inf (s != t)
  | .fin s m e, .fin t n f => .fin (s != t) (m * n) (e + f)

/-- Exact fused multiply-add. -/
def FV.fma (a b c : FV) : FV := (a.mul b).add c

/-- Multiply by a power of two. -/
def FV.scale (v : FV) (k : Int) : FV :=
  match v with
  | .fin s m e => .fin s m (e + k)
  | x => x

/-- Numerical less-than; false where either operand is a NaN. The two zeros are equal. -/
def FV.lt : FV → FV → Bool
  | .nan, _ => false
  | _, .nan => false
  | .inf s, .inf t => s && !t
  | .inf s, .fin _ _ _ => s
  | .fin _ _ _, .inf t => !t
  | .fin s m e, .fin t n f =>
    let e0 := min e f
    let x : Int := (if s then -1 else 1) * (m * 2 ^ (e - e0).toNat : Nat)
    let y : Int := (if t then -1 else 1) * (n * 2 ^ (f - e0).toNat : Nat)
    decide (x < y)

def FV.sign : FV → Bool
  | .nan => false
  | .inf s => s
  | .fin s _ _ => s

/-- The order of FMIN and FMAX on numbers: −0 below +0 (R97). -/
def FV.below (a b : FV) : Bool := a.lt b || (!(b.lt a) && a.sign && !b.sign)

/-- FMIN: NaN if either is a NaN. -/
def FV.min (a b : FV) : FV := if a.isNan || b.isNan then .nan else if b.below a then b else a

/-- FMAX: NaN if either is a NaN. -/
def FV.max (a b : FV) : FV := if a.isNan || b.isNan then .nan else if a.below b then b else a

/-- An integer as an exact number. Zero is +0. -/
def FV.ofInt (i : Int) : FV := .fin (decide (i < 0)) i.natAbs 0

/-- A finite number rounded to the nearest integer, ties to even. -/
def roundInt (neg : Bool) (m : Nat) (e : Int) : Int :=
  let n := if 0 ≤ e then m * 2 ^ e.toNat else rneShift m (-e).toNat
  if neg then -(n : Int) else n

/-- Conversion to a two's-complement integer of `w` bits: rounded to nearest even, saturated, NaN gives 0 and is
counted (R50, R52, R97). -/
def toSInt (w : Nat) (v : FV) : BitVec w × NumEv :=
  let hi : Int := 2 ^ (w - 1) - 1
  let lo : Int := -(2 ^ (w - 1))
  match v with
  | .nan => (0, { nan := true })
  | .inf neg => (BitVec.ofInt w (if neg then lo else hi), { sat := true })
  | .fin neg m e =>
    let i := roundInt neg m e
    if i > hi then (BitVec.ofInt w hi, { sat := true })
    else if i < lo then (BitVec.ofInt w lo, { sat := true })
    else (BitVec.ofInt w i, {})

/-! Format codes (R29). -/

abbrev FmtCode := BitVec 3

def fmtFP32 : FmtCode := 0
def fmtBF16 : FmtCode := 1
def fmtE4M3 : FmtCode := 2
def fmtE5M2 : FmtCode := 3
def fmtF4 : FmtCode := 4
def fmtQ2 : FmtCode := 5
def fmtINT8 : FmtCode := 6

/-- The formats of vector arithmetic (R100). -/
def fmtArith (f : FmtCode) : Bool := f == fmtFP32 || f == fmtBF16 || f == fmtE4M3 || f == fmtE5M2 || f == fmtINT8

/-- Bytes of an element of an arithmetic format. -/
def fmtBytes (f : FmtCode) : Nat := if f == fmtFP32 then 4 else if f == fmtBF16 then 2 else 1

/-- Lanes of a vector register (R48). -/
def fmtLanes (f : FmtCode) : Nat := 256 / fmtBytes f

/-- The element format of a floating-point code. -/
def fmtSpec (f : FmtCode) : FSpec :=
  if f == fmtFP32 then fp32 else if f == fmtBF16 then bf16 else if f == fmtE5M2 then e5m2
  else if f == fmtF4 || f == fmtQ2 then e2m1 else e4m3

/-- The exact value of an element of an arithmetic format. -/
def elemVal (f : FmtCode) (x : Nat) : FV :=
  if f == fmtINT8 then FV.ofInt (BitVec.ofNat 8 x).toInt else (fmtSpec f).decode x

/-- Round a number into an element of an arithmetic format (R50). `finiteIn` says that every operand was finite: an
infinity then counts as overflow (R53). -/
def elemCode (f : FmtCode) (finiteIn : Bool) (v : FV) : Nat × NumEv :=
  if f == fmtINT8 then
    let r := toSInt 8 v
    (r.1.toNat, r.2)
  else
    let r := (fmtSpec f).encode v
    let isInf := match (fmtSpec f).decode r.1 with
      | .inf _ => true
      | _ => false
    (r.1, { r.2 with ovf := isInf && finiteIn })

/-! The approximate functions (R49). -/

/-- The FP32 value of a word. -/
def f32 (x : Word) : FV := fp32.decode x.toNat

/-- Round to FP32. -/
def toF32 (v : FV) : Word := BitVec.ofNat 32 (fp32.encode v).1

/-- The exponent of one unit in the last place of a finite FP32 code. -/
def ulpExp (x : Word) : Int :=
  let ex := x.toNat / 2 ^ 23 % 256
  if ex = 0 then fp32.emin else fp32.emin + (ex - 1 : Nat)

/-- `|r − y| ≤ k·2^u` for exact finite numbers. -/
def within (r y : FV) (k : Nat) (u : Int) : Bool :=
  match r.add y.neg with
  | .fin _ m e => !(dyGt m e k u)
  | _ => false

/-- `1/(m·2^e)` to 40 significant bits, correctly rounded to FP32 but for double rounding. -/
def rcpNear (neg : Bool) (m : Nat) (e : Int) : Word :=
  let k := Nat.log2 m + 64
  toF32 (.fin neg (2 ^ k * 2 / m ||| 1) (-e - k - 1))

/-- `1/√(m·2^e)`, to within one unit in the last place. -/
def rsqrtNear (m : Nat) (e : Int) : Word :=
  let m' := if e % 2 = 0 then m else 2 * m
  let e' := if e % 2 = 0 then e else e - 1
  let k := Nat.log2 m' + 128
  let k := k + k % 2
  toF32 (.fin false (Nat.sqrt (2 ^ k / m') ||| 1) (-(k / 2 : Nat) - e' / 2))

/-- Reciprocal (R49): special inputs as IEEE 754; otherwise the device's own value, within 1 ulp. Within the bound is
`|r·x − 1| ≤ ulp(r)·|x|`. -/
def vrcp (x : Word) : Word :=
  match f32 x with
  | .nan => 0x7FC00000
  | .inf neg => toF32 (.fin neg 0 0)
  | .fin neg m e =>
    if m = 0 then toF32 (.inf neg)
    else
      let r := Config.rcpRaw x
      match f32 r with
      | .fin s n f =>
        if within ((FV.fin s n f).mul (.fin neg m e)) (.fin false 1 0) m (ulpExp r + e) then r else rcpNear neg m e
      | _ => rcpNear neg m e

/-- Reciprocal square root (R49): within 2 ulp, that is `(r−2u)²·x ≤ 1 ≤ (r+2u)²·x`. -/
def vrsq (x : Word) : Word :=
  match f32 x with
  | .nan => 0x7FC00000
  | .inf neg => if neg then 0x7FC00000 else 0
  | .fin neg m e =>
    if m = 0 then toF32 (.inf neg)
    else if neg then 0x7FC00000
    else
      let r := Config.rsqrtRaw x
      match f32 r with
      | .fin s n _ =>
        let u := ulpExp r
        let lo := n - 2
        let hi := n + 2
        if !s && !(dyGt (lo * lo * m) (2 * u + e) 1 0) && !(dyGt 1 0 (hi * hi * m) (2 * u + e)) then r
        else rsqrtNear m e
      | _ => rsqrtNear m e

/-! Exponentials and logarithms in fixed point, to 160 places with an error far below any unit in the last place of FP32:
against them the bounds of R49 are judged. -/

def fixPlaces : Nat := 160
def fixOne : Nat := 2 ^ fixPlaces

/-- The sum of `t^i / i!` from the term `term` of index `i` on, for `n` terms. -/
def expTerms (t : Nat) : Nat → Nat → Nat → Nat
  | 0, _, _ => 0
  | n + 1, i, term => term + expTerms t n (i + 1) (term * t / fixOne / (i + 1))

/-- `e^t` for `0 ≤ t < 1`. -/
def expFix (t : Nat) : Nat := expTerms t 44 0 fixOne

/-- `e^(−t)`, below 2^−160 taken as 0. -/
def expNeg (t : Nat) : Nat :=
  if 128 * fixOne ≤ t then 0
  else
    let sq (y : Nat) : Nat := y * y / fixOne
    sq (sq (sq (sq (sq (sq (sq (fixOne * fixOne / expFix (t / 128))))))))

/-- The sum of `s^i / i` over odd `i`, from the power `pow` of index `i` on, for `n` terms. -/
def atanhTerms (s : Nat) : Nat → Nat → Nat → Nat
  | 0, _, _ => 0
  | n + 1, i, pow => pow / i + atanhTerms s n (i + 2) (pow * s / fixOne * s / fixOne)

/-- The natural logarithm of `1 ≤ z ≤ 2`. -/
def lnFix (z : Nat) : Nat := 2 * atanhTerms ((z - fixOne) * fixOne / (z + fixOne)) 56 1 ((z - fixOne) * fixOne / (z + fixOne))

/-- The largest fixed-point number not above `m·2^e`. -/
def toFix (m : Nat) (e : Int) : Nat := if 0 ≤ e + fixPlaces then m * 2 ^ (e + fixPlaces).toNat else m / 2 ^ (-(e + fixPlaces)).toNat

/-- A signed fixed-point number. -/
def ofFix (x : Int) : FV := .fin (decide (x < 0)) x.natAbs (-fixPlaces)

/-- The device's own value `r` where it lies within `k` ulp of `y`, or within `2^u` where `u` is given; else `y` rounded. -/
def approx (r : Word) (y : FV) (k : Nat) (u : Option Int := none) : Word :=
  match f32 r with
  | .fin s m e =>
    if within (.fin s m e) y k (ulpExp r) || u.any (within (.fin s m e) y 1) then r else toF32 y
  | _ => toF32 y

/-- `2^x`, `x` in fixed point. -/
def exp2Fix (x : Int) : FV :=
  let n := x / fixOne
  if n < -160 then .fin false 0 0
  else .fin false (expFix ((x % fixOne).toNat * lnFix (2 * fixOne) / fixOne)) (n - fixPlaces)

/-- Base-2 exponential (R49): exact at 0, +infinity from 128 on, otherwise within 2 ulp. -/
def vexp2 (x : Word) : Word :=
  match f32 x with
  | .nan => 0x7FC00000
  | .inf neg => if neg then 0 else 0x7F800000
  | .fin neg m e =>
    let q := toFix m e
    if m = 0 then 0x3F800000
    else if !neg && decide (128 * fixOne ≤ q) then 0x7F800000
    else approx (Config.exp2Raw x) (exp2Fix (if neg then -(q : Int) else q)) 2

/-- `log2 (m·2^e)` in fixed point, for `m ≠ 0`. -/
def log2Fix (m : Nat) (e : Int) : Int :=
  (e + Nat.log2 m) * fixOne + (lnFix (toFix m (-(Nat.log2 m : Int))) * fixOne / lnFix (2 * fixOne) : Nat)

/-- Base-2 logarithm (R49): within 2 ulp, or within 2^−22 for inputs in [0.5, 2]. -/
def vlog2 (x : Word) : Word :=
  match f32 x with
  | .nan => 0x7FC00000
  | .inf neg => if neg then 0x7FC00000 else 0x7F800000
  | .fin neg m e =>
    if m = 0 then 0xFF800000
    else if neg then 0x7FC00000
    else if x = 0x3F800000 then 0
    else
      let mid := decide (0x3F000000 ≤ x.toNat ∧ x.toNat ≤ 0x40000000)
      approx (Config.log2Raw x) (ofFix (log2Fix m e)) 2 (if mid then some (-22) else none)

/-- `tanh (m·2^e)`: the operand itself below 2^−30, 1 from 32 on, and otherwise from `e^(2x)`, the 64th power of `e^(x/32)`. -/
def tanhFix (m : Nat) (e : Int) : FV :=
  if e + Nat.log2 m < -30 then .fin false m e
  else if 5 ≤ e + Nat.log2 m then .fin false 1 0
  else
    let sq (y : Nat) : Nat := y * y / fixOne
    let y := sq (sq (sq (sq (sq (sq (expFix (toFix m e / 32)))))))
    ofFix ((y - fixOne) * fixOne / (y + fixOne) : Nat)

/-- Hyperbolic tangent (R49): within 4 ulp. -/
def vtanh (x : Word) : Word :=
  match f32 x with
  | .nan => 0x7FC00000
  | .inf neg => if neg then 0xBF800000 else 0x3F800000
  | .fin neg m e =>
    if m = 0 then x
    else approx (Config.tanhRaw x) (if neg then (tanhFix m e).neg else tanhFix m e) 4

/-! F4 blocks (R31–R33, R51). -/

/-- The value of an E2M1 code under an E8M0 scale code (R31–R33). -/
def f4Val (code scale : Nat) : FV :=
  if scale = 255 then .nan else (e2m1.decode code).scale ((scale : Int) - 127)

/-- `floor(log2 (m·2^e))` for `m ≠ 0`. -/
def floorLog2 (m : Nat) (e : Int) : Int := e + Nat.log2 m

/-- The larger magnitude of two finite numbers. -/
def magMax (a b : Nat × Int) : Nat × Int := if dyGt b.1 b.2 a.1 a.2 then b else a

/-- Convert a list of values to one F4 block: element codes, scale code and events (R51, R53). -/
def packF4 (vs : List FV) : List Nat × Nat × NumEv :=
  if vs.any FV.isNan then (vs.map fun _ => 0, 255, { nan := true })
  else
    let fin := vs.map fun v => match v with
      | .inf s => FV.fin s fp32.maxM fp32.maxE
      | x => x
    let mag := fin.foldl (fun acc v => match v with
      | .fin _ m e => magMax acc (m, e)
      | _ => acc) (0, 0)
    let hasInf := vs.any fun v => !v.isFinite
    if mag.1 = 0 then (fin.map fun v => if v.sign then 8 else 0, 127, {})
    else
      let x := floorLog2 mag.1 mag.2 - 2
      let code := (max x (-127) + 127).toNat
      (fin.map fun v => (e2m1.encode (v.scale (127 - (code : Int)))).1, code, { sat := hasInf })

end Sys2Proof.Machine
end

