-- ==== Sys2Proof/Machine/Operands.lean ====
section
/-! DEFINITION. Instruction words (R84–R87): fields, reserved bits, the instruction a word names, and the registers
it reads and writes. -/

namespace Sys2Proof.Machine

/-! ## Fields (R85) -/

def fOP (w : Dword) : Nat := (field w 56 8).toNat
def fD (w : Dword) : Reg := field w 51 5
def fA (w : Dword) : Reg := field w 46 5
def fB (w : Dword) : Reg := field w 41 5
def fFA (w : Dword) : Fmt := field w 38 3
def fFB (w : Dword) : Fmt := field w 35 3
def fM (w : Dword) : BitVec 3 := field w 32 3
def fIMM (w : Dword) : Word := field w 0 32

/-- The bits an instruction uses beside its opcode: how many low bits of D, A, B, FA, FB, M and IMM (R86). -/
structure Uses where
  d : Nat := 0
  a : Nat := 0
  b : Nat := 0
  fa : Bool := false
  fb : Bool := false
  m : Nat := 0
  imm : Nat := 0

/-- The bits of a word that may be nonzero. -/
def Uses.mask (u : Uses) : Nat :=
  0xFF * 2 ^ 56 + (2 ^ u.d - 1) * 2 ^ 51 + (2 ^ u.a - 1) * 2 ^ 46 + (2 ^ u.b - 1) * 2 ^ 41 + (if u.fa then 7 * 2 ^ 38 else 0)
    + (if u.fb then 7 * 2 ^ 35 else 0) + (2 ^ u.m - 1) * 2 ^ 32 + (2 ^ u.imm - 1)

def useDAB : Uses := { d := 5, a := 5, b := 5 }
def useDAI : Uses := { d := 5, a := 5, imm := 32 }
def useABI : Uses := { a := 5, b := 5, imm := 32 }
def useDABF : Uses := { d := 5, a := 5, b := 5, fa := true }
def useDAF : Uses := { d := 5, a := 5, fa := true }
def useDABM : Uses := { d := 5, a := 5, b := 5, m := 3 }

/-- The instruction a word names in a slot and the bits it uses; none for an opcode not listed or in the wrong slot
(R86, R97, R100, R104–R106). -/
def decodeOp (c : CoreId) (slot : Fin 2) (w : Dword) : Option (Uses × Instr) :=
  let d := fD w; let a := fA w; let b := fB w; let fa := fFA w; let fb := fFB w; let m := fM w; let i := fIMM w
  match fOP w with
  | 0x00 => some ({}, .nop c slot)
  | op =>
  match slot, op with
  | 0, 0x01 => some (useDAB, .add c d a b)
  | 0, 0x02 => some (useDAB, .sub c d a b)
  | 0, 0x03 => some (useDAB, .and c d a b)
  | 0, 0x04 => some (useDAB, .or c d a b)
  | 0, 0x05 => some (useDAB, .xor c d a b)
  | 0, 0x06 => some (useDAB, .shl c d a b)
  | 0, 0x07 => some (useDAB, .shr c d a b)
  | 0, 0x08 => some (useDAB, .sar c d a b)
  | 0, 0x09 => some (useDAB, .mul c d a b)
  | 0, 0x0A => some (useDAB, .cmpeq c d a b)
  | 0, 0x0B => some (useDAB, .cmplt c d a b)
  | 0, 0x0C => some (useDAB, .cmpltu c d a b)
  | 0, 0x10 => some (useDAI, .addi c d a i)
  | 0, 0x11 => some (useDAI, .andi c d a i)
  | 0, 0x12 => some (useDAI, .ori c d a i)
  | 0, 0x13 => some (useDAI, .xori c d a i)
  | 0, 0x14 => some ({ d := 5, a := 5, imm := 6 }, .shli c d a i)
  | 0, 0x15 => some (useDAI, .shri c d a i)
  | 0, 0x16 => some (useDAI, .sari c d a i)
  | 0, 0x17 => some (useDAI, .insh c d a i)
  | 0, 0x18 => some (useDAI, .cmpeqi c d a i)
  | 0, 0x19 => some (useDAI, .cmplti c d a i)
  | 0, 0x20 => some (useDAB, .fadd c d a b)
  | 0, 0x21 => some (useDAB, .fsub c d a b)
  | 0, 0x22 => some (useDAB, .fmul c d a b)
  | 0, 0x23 => some (useDAB, .fma c d a b)
  | 0, 0x24 => some (useDAB, .fmin c d a b)
  | 0, 0x25 => some (useDAB, .fmax c d a b)
  | 0, 0x26 => some (useDAB, .fcmplt c d a b)
  | 0, 0x27 => some ({ d := 5, a := 5 }, .icvtf c d a)
  | 0, 0x28 => some ({ d := 5, a := 5 }, .fcvti c d a)
  | 0, 0x30 => some (useABI, .beq c a b i)
  | 0, 0x31 => some (useABI, .bne c a b i)
  | 0, 0x32 => some (useABI, .blt c a b i)
  | 0, 0x33 => some (useABI, .bltu c a b i)
  | 0, 0x34 => some ({ imm := 32 }, .jmp c i)
  | 0, 0x35 => some ({ d := 5, imm := 32 }, .jal c d i)
  | 0, 0x36 => some ({ a := 5 }, .jr c a)
  | 0, 0x37 => some ({}, .endVoyage c)
  | 0, 0x38 => some ({ d := 5 }, .tide c d)
  | 0, 0x39 => some ({ d := 5, imm := 32 }, .csrr c d i)
  | 0, 0x40 => some (useDAI, .ld c d a i)
  | 0, 0x41 => some (useDAI, .lw c d a i)
  | 0, 0x42 => some (useABI, .sd c a b i)
  | 0, 0x43 => some (useABI, .sw c a b i)
  | 0, 0x50 => some ({ a := 5, b := 5, imm := 19 }, .bsig c a b i)
  | 0, 0x51 => some ({ a := 5, b := 5, imm := 19 }, .bwait c a b i)
  | 0, 0x52 => some ({ d := 5, a := 5, imm := 19 }, .bread c d a i)
  | 0, 0x58 => some ({ a := 5, m := 1 }, .tugp c a m)
  | 1, 0x80 => some (useDAI, .vld c d a i)
  | 1, 0x81 => some (useDAI, .vst c d a i)
  | 1, 0x82 => some (useDAF, .vbcast c d a fa)
  | 1, 0x83 => some ({ d := 5, a := 5, fa := true, imm := 8 }, .vmovs c d a fa i)
  | 1, 0x84 => some ({ d := 5, a := 5 }, .vmov c d a)
  | 1, 0x85 => some (useDABF, .vshuf c d a b fa)
  | 1, 0x88 => some (useDABF, .vadd c d a b fa)
  | 1, 0x89 => some (useDABF, .vsub c d a b fa)
  | 1, 0x8A => some (useDABF, .vmul c d a b fa)
  | 1, 0x8B => some (useDABF, .vfma c d a b fa)
  | 1, 0x8C => some (useDABF, .vmin c d a b fa)
  | 1, 0x8D => some (useDABF, .vmax c d a b fa)
  | 1, 0x8E => some (useDABF, .vscl c d a b fa)
  | 1, 0x90 => some (useDAF, .vrcp c d a fa)
  | 1, 0x91 => some (useDAF, .vrsq c d a fa)
  | 1, 0x92 => some (useDAF, .vexp2 c d a fa)
  | 1, 0x93 => some (useDAF, .vlog2 c d a fa)
  | 1, 0x94 => some (useDAF, .vtanh c d a fa)
  | 1, 0x98 => some (useDAF, .vrsum c d a fa)
  | 1, 0x99 => some (useDAF, .vrmax c d a fa)
  | 1, 0x9A => some (useDAF, .vargmax c d a fa)
  | 1, 0xA0 => some ({ d := 5, a := 5, fa := true, fb := true, m := 2 }, .vcvt c d a fa fb m)
  | 1, 0xA1 => some (useDABM, .vpk4 c d a b m)
  | 1, 0xA2 => some (useDABM, .vup4 c d a b m)
  | 1, 0xC0 => some ({ a := 5, b := 5, fb := true, m := 1 }, .wld c a b fb m)
  | 1, 0xC1 => some ({ d := 2, a := 5, b := 5, fa := true, fb := true, m := 1, imm := 27 }, .mma c d a b fa fb m i)
  | 1, 0xC4 => some ({ d := 5, a := 2, imm := 4 }, .amov c d a i)
  | 1, 0xC5 => some ({ d := 2, a := 5, imm := 4 }, .vamov c d a i)
  | _, _ => none

/-- Bytes of one activation row (R105). -/
def rowBytes (fa : Fmt) : Nat := if fa == fmtF4 then 16 else if fa == fmtBF16 then 64 else 32

/-- The formats of activations that R43 pairs with a weight format. -/
def matrixPair (fa fb : Fmt) : Bool :=
  (fa == fmtF4 && (fb == fmtF4 || fb == fmtQ2))
    || ((fa == fmtE4M3 || fa == fmtE5M2) && (fb == fmtE4M3 || fb == fmtE5M2))
    || (fa == fmtINT8 && fb == fmtINT8) || (fa == fmtBF16 && fb == fmtBF16)

/-- R105 gives the format a row size of activations. -/
def fmtRows (f : Fmt) : Bool := f == fmtF4 || f == fmtE4M3 || f == fmtE5M2 || f == fmtINT8 || f == fmtBF16

/-- The number of parts of a conversion: valid M are those below it (R102). -/
def cvtParts (fa fb : Fmt) : Nat :=
  let a := fmtBytes fa
  let b := fmtBytes fb
  if a ≤ b then b / a else a / b

/-- A field value that the instruction's entry declares out of range (R86). -/
def outOfRange : Instr → Bool
  | .csrr _ _ i => decide (9 < i.toNat)
  | .bwait _ _ _ i => i.getLsbD 18
  | .bread _ _ _ i => i.getLsbD 18
  | .vmovs _ _ _ fa i => fmtArith fa && decide (fmtLanes fa ≤ (field i 0 8).toNat)
  | .vcvt _ _ _ fa fb m => fmtArith fa && fmtArith fb && decide (cvtParts fa fb ≤ m.toNat)
  | .mma _ _ _ _ fa _ _ i =>
    decide (32 < (field i 0 5).toNat + (field i 5 5).toNat + 1)
      || (fmtRows fa && (field i 11 16).toNat % rowBytes fa != 0)
  | _ => false

/-- An instruction word of a slot: the instruction, or none where it raises cause 0x01 (R86). -/
def decodeSlot (c : CoreId) (slot : Fin 2) (w : Dword) : Option Instr :=
  match decodeOp c slot w with
  | none => none
  | some (u, i) => if w.toNat &&& u.mask = w.toNat ∧ outOfRange i = false then some i else none

/-- The format code that an instruction may not name (cause 0x02), but for what depends on a weight buffer (R100, R104,
R105). -/
def badFormat : Instr → Option Nat
  | .vbcast _ _ _ f | .vmovs _ _ _ f _ | .vadd _ _ _ _ f | .vsub _ _ _ _ f | .vmin _ _ _ _ f | .vmax _ _ _ _ f =>
    if fmtArith f then none else some f.toNat
  | .vmul _ _ _ _ f | .vfma _ _ _ _ f | .vscl _ _ _ _ f =>
    if fmtArith f && f != fmtINT8 then none else some f.toNat
  | .vshuf _ _ _ _ f | .vrcp _ _ _ f | .vrsq _ _ _ f | .vexp2 _ _ _ f | .vlog2 _ _ _ f | .vtanh _ _ _ f
  | .vrsum _ _ _ f | .vrmax _ _ _ f | .vargmax _ _ _ f => if f == fmtFP32 then none else some f.toNat
  | .vcvt _ _ _ fa fb _ => if !fmtArith fa then some fa.toNat else if !fmtArith fb then some fb.toNat else none
  | .wld _ _ b fb _ =>
    if fb == fmtFP32 || fb == 7 || ((fb == fmtINT8 || fb == fmtBF16) && b != 0) then some fb.toNat else none
  | .mma _ _ _ b fa fb _ _ =>
    if !matrixPair fa fb || ((fa == fmtINT8 || fa == fmtBF16) && b != 0) then some fb.toNat else none
  | _ => none

/-! ## Registers read and written -/

/-- The s register a slot's instruction writes (R87). -/
def destS : Instr → Option Reg
  | .add _ d _ _ | .sub _ d _ _ | .and _ d _ _ | .or _ d _ _ | .xor _ d _ _ | .shl _ d _ _ | .shr _ d _ _ | .sar _ d _ _
  | .mul _ d _ _ | .cmpeq _ d _ _ | .cmplt _ d _ _ | .cmpltu _ d _ _ | .addi _ d _ _ | .andi _ d _ _ | .ori _ d _ _
  | .xori _ d _ _ | .shli _ d _ _ | .shri _ d _ _ | .sari _ d _ _ | .insh _ d _ _ | .cmpeqi _ d _ _ | .cmplti _ d _ _
  | .fadd _ d _ _ | .fsub _ d _ _ | .fmul _ d _ _ | .fma _ d _ _ | .fmin _ d _ _ | .fmax _ d _ _ | .fcmplt _ d _ _
  | .icvtf _ d _ | .fcvti _ d _ | .jal _ d _ | .tide _ d | .csrr _ d _ | .ld _ d _ _ | .lw _ d _ _ | .bread _ d _ _
  | .vmovs _ d _ _ _ | .vrsum _ d _ _ | .vrmax _ d _ _ | .vargmax _ d _ _ => some d
  | _ => none

/-- The registers a slot's instruction reads when it issues, in the order of its fields (R95, R110). -/
def reads : Instr → List RegRef
  | .add _ _ a b | .sub _ _ a b | .and _ _ a b | .or _ _ a b | .xor _ _ a b | .shl _ _ a b | .shr _ _ a b | .sar _ _ a b
  | .mul _ _ a b | .cmpeq _ _ a b | .cmplt _ _ a b | .cmpltu _ _ a b | .fadd _ _ a b | .fsub _ _ a b | .fmul _ _ a b
  | .fmin _ _ a b | .fmax _ _ a b | .fcmplt _ _ a b | .beq _ a b _ | .bne _ a b _ | .blt _ a b _ | .bltu _ a b _
  | .sd _ a b _ | .sw _ a b _ | .bsig _ a b _ | .bwait _ a b _ | .wld _ a b _ _ | .mma _ _ a b _ _ _ _ =>
    [.scalar a, .scalar b]
  | .fma _ d a b => [.scalar a, .scalar b, .scalar d]
  | .addi _ _ a _ | .andi _ _ a _ | .ori _ _ a _ | .xori _ _ a _ | .shli _ _ a _ | .shri _ _ a _ | .sari _ _ a _
  | .insh _ _ a _ | .cmpeqi _ _ a _ | .cmplti _ _ a _ | .icvtf _ _ a | .fcvti _ _ a | .jr _ a | .ld _ _ a _ | .lw _ _ a _
  | .bread _ _ a _ | .tugp _ a _ | .vld _ _ a _ | .vbcast _ _ a _ => [.scalar a]
  | .vst _ d a _ => [.vector d, .scalar a]
  | .vmovs _ _ a _ _ | .vmov _ _ a | .vrcp _ _ a _ | .vrsq _ _ a _ | .vexp2 _ _ a _ | .vlog2 _ _ a _ | .vtanh _ _ a _
  | .vrsum _ _ a _ | .vrmax _ _ a _ | .vargmax _ _ a _ | .vamov _ _ a _ => [.vector a]
  | .vshuf _ _ a b _ | .vadd _ _ a b _ | .vsub _ _ a b _ | .vmul _ _ a b _ | .vmin _ _ a b _ | .vmax _ _ a b _
  | .vup4 _ _ a b _ => [.vector a, .vector b]
  | .vfma _ d a b _ => [.vector a, .vector b, .vector d]
  | .vscl _ _ a b _ => [.vector a, .scalar b]
  | .vcvt _ d a fa fb _ => if fmtBytes fb < fmtBytes fa then [.vector a, .vector d] else [.vector a]
  | .vpk4 _ d a b _ => [.vector a, .vector d, .vector b]
  | .amov _ _ a _ => [.accum (a.extractLsb' 0 2).toFin]
  | _ => []

end Sys2Proof.Machine
end

