-- ==== Sys2Proof/Machine/CoreOps.lean ====
section
/-! DEFINITION. How a core executes a bundle (R84–R96, R110): registers, the precise checks, the slot that an
instruction command executes, the writes made together when both slots are done, and the taking of a core fault. -/

namespace Sys2Proof.Machine

/-! ## The state of a core -/

/-- The key of the physical site that carries a logical core. -/
def coreKey (s : State) (c : CoreId) : Nat := siteKey c.c c.p (siteOf s c.c c.p c.k)

def coreGet (s : State) (c : CoreId) : CoreSt := tget s.cores.core (coreKey s c) {}
def coreSet (s : State) (c : CoreId) (k : CoreSt) : State :=
  { s with cores := { s.cores with core := tset s.cores.core (coreKey s c) k {} } }
def coreMod (s : State) (c : CoreId) (f : CoreSt → CoreSt) : State := coreSet s c (f (coreGet s c))

def voyGet (s : State) (c : CoreId) : CoreVoyage := tget s.cores.voy (coreKey s c) {}
def voySet (s : State) (c : CoreId) (v : CoreVoyage) : State :=
  { s with cores := { s.cores with voy := tset s.cores.voy (coreKey s c) v {} } }

/-- The CO block of a logical core. -/
def coBlk (s : State) (c : CoreId) : Blk := blkCO c.c c.p (siteOf s c.c c.p c.k)

/-- A core's own SRAM at its logical address (R21). -/
def coreSram (c : CoreId) : Nat := coreBase c.c c.p c.k

/-! ## Clocks (R27, R115, R417) -/

/-- The tide that a die counts (R115). -/
def dieTide (s : State) (slot : Nat) : Dword := s.tide.hub + BitVec.ofInt 64 (tget s.tide.dieOfs slot 0)

/-- VCORE of a throttle level, in mV (R417). -/
def levelMv (level : Nat) : Nat := [850, 740, 600, 450].getD level 450

/-- VCORE now, before trims and boosts: it moves at 10 mV per µs toward the value of the present level (R418). -/
def vcoreNow (s : State) : Nat :=
  let d := (s.now - s.tm.vAt) / 100
  let v := levelMv s.tm.level
  if s.tm.vFrom ≤ v then min v (s.tm.vFrom + d) else max v (s.tm.vFrom - d)

/-- The level whose clock limit holds: clocks fall at once, and rise only when VCORE has settled (R418). -/
def clockLevel (s : State) : Nat := if vcoreNow s = levelMv s.tm.level then s.tm.level else max s.tm.clock s.tm.level

/-- The core clock limit of every compute die in MHz, by the module throttle level (R417). -/
def clockLimit (s : State) : Nat := match clockLevel s with
  | 0 => 2200
  | 1 => 1800
  | 2 => 1200
  | _ => 400

/-- The rate of a compute die's core cycles in MHz: half the limit while its droop detector stretches them to twice their period
(R410). -/
def coreMHz (s : State) (die : Nat) : Nat := if s.pw.droop.contains die then clockLimit s / 2 else clockLimit s

/-- A nanosecond without a bundle retired counts towards the watchdog, but for time spent waiting on a bollard or for a tug slot
(R78). -/
def tickIdle (s : State) : State :=
  { s with cores := { s.cores with core := tmap s.cores.core {} fun key k =>
      if k.run = .running ∨ k.run = .waitEnd then { k with idle := k.idle + coreMHz s (siteDie key) } else k } }

/-! ## Registers (R58, R87, R95) -/

/-- An s register; s0 reads as 0 (R87). -/
def CoreSt.s (k : CoreSt) (r : Reg) : Dword := if r = 0 then 0 else tget k.sreg r.toNat 0
def CoreSt.v (k : CoreSt) (r : Reg) : Parcel := tget k.vreg r.toNat 0
def CoreSt.sp (k : CoreSt) (r : Reg) : Bool := k.spois.getLsbD r.toNat
def CoreSt.vp (k : CoreSt) (r : Reg) : Bool := k.vpois.getLsbD r.toNat
def CoreSt.ap (k : CoreSt) (a : Fin 4) : Bool := k.apois.getLsbD a.val
def CoreSt.wbuf (k : CoreSt) (w : Fin 2) : WBuf := if w = 0 then k.w0 else k.w1

/-- An accumulator element (R43). -/
def CoreSt.accAt (k : CoreSt) (a row col : Nat) : Word := tget k.acc (a * 1024 + row * 32 + col) 0

/-- The parity bits of some words are written again, so that they match (R58). -/
def clearPar (l : List ParityBit) (p : ParityBit → Bool) : List ParityBit := l.filter fun b => !p b

/-- A write to s0 is discarded (R87). -/
def CoreSt.setS (k : CoreSt) (r : Reg) (v : Dword) (p : Bool) : CoreSt :=
  if r = 0 then k
  else { k with sreg := tset k.sreg r.toNat v 0, spois := setBit k.spois r.toNat p, badPar := clearPar k.badPar fun b => b.reg == .scalar r }

def CoreSt.setV (k : CoreSt) (r : Reg) (v : Parcel) (p : Bool) : CoreSt :=
  { k with vreg := tset k.vreg r.toNat v 0, vpois := setBit k.vpois r.toNat p, badPar := clearPar k.badPar fun b => b.reg == .vector r }

/-- Write 32-bit lanes from lane `i` on into accumulator elements from key `base` on. -/
def setAccLanes (m : Tbl Word) (base : Nat) (v : Parcel) : Nat → Tbl Word
  | 0 => m
  | n + 1 => tset (setAccLanes m base v n) (base + n) (field v (32 * n) 32) 0

/-- A parity bit of `n` accumulator elements from element `i` on. -/
def accBit (a : Fin 4) (i n : Nat) (b : ParityBit) : Bool := b.reg == .accum a && decide (i ≤ b.word.val ∧ b.word.val < i + n)

/-- VAMOV: rows 2j and 2j + 1 of an accumulator (R106). A poisoned vector marks the whole accumulator; the elements kept
count as a source (R95). -/
def CoreSt.setAccRows (k : CoreSt) (a : Fin 4) (j : Nat) (v : Parcel) (p : Bool) : CoreSt :=
  { k with
    acc := setAccLanes k.acc (a.val * 1024 + j * 64) v 64, apois := setBit k.apois a.val (p || k.ap a)
    badPar := clearPar k.badPar (accBit a (j * 64) 64) }

/-- Any of these registers is poisoned (R95). -/
def CoreSt.anyPoison (k : CoreSt) (l : List RegRef) : Bool :=
  l.any fun r => match r with
    | .scalar r => k.sp r
    | .vector r => k.vp r
    | .accum a => k.ap a
    | .weight w => (k.wbuf w).poison

/-- The index of the bundle a core is executing. -/
def CoreSt.idx (k : CoreSt) : Nat := match k.cur with
  | some b => b.idx
  | none => k.pc

/-! ## Voyages of cores -/

/-- The core-set record of the chart in force (R211). -/
def setRec (s : State) (set : Nat) : Option CoreSetRec :=
  match s.hm.chart with
  | some c => c.sets.find? fun r => r.num == set
  | none => none

def setCores (s : State) (set : Nat) : List CoreId :=
  match setRec s set with
  | some r => r.cores
  | none => []

def voyageGet (s : State) (set : Nat) : Option Voyage := tget s.launch.run set none
def voyageSet (s : State) (set : Nat) (v : Option Voyage) : State :=
  { s with launch := { s.launch with run := tset s.launch.run set v none } }
def voyageMod (s : State) (set : Nat) (f : Voyage → Voyage) : State := voyageSet s set ((voyageGet s set).map f)

/-- Stop a core at a bundle boundary: it issues nothing more, keeps its registers, and drops what has not started
(R78, R111). -/
def stopCore (s : State) (c : CoreId) (run : CoreRun) : State :=
  watchSet (coreMod s c fun k => { k with cur := none, wq := [], aq := [], run := run }) (.core c) none

/-- A core is working on a voyage and has not retired END. -/
def CoreRun.active : CoreRun → Bool
  | .running | .waitBollard | .waitTug | .waitEnd => true
  | _ => false

/-- Stop every active core of a list. -/
def stopCores (s : State) (l : List CoreId) : State :=
  l.foldl (fun t c => if (coreGet t c).run.active then stopCore t c .stopped else t) s

def tugGet (s : State) (key : Nat) : TugSt := tget s.cores.tug key {}
def tugSet (s : State) (key : Nat) (t : TugSt) : State :=
  { s with cores := { s.cores with tug := tset s.cores.tug key t {} } }

/-- Every tug discards the set's unstarted descriptors (R76, R111). -/
def discardUnstarted (s : State) (set : Nat) : State :=
  { s with cores := { s.cores with tug := tmap s.cores.tug {} fun _ t =>
      { t with slots := t.slots.filter fun x => !(x.set == set && !x.started) } } }

/-- The status word of a core fault (R112). -/
def faultStatus (c : CoreId) (cause : Nat) : Word :=
  fields 32 [(8, 0x10 + cause), (8, 0), (4, c.k), (6, c.p), (4, c.c)]

/-- A voyage begins to end: the first status to reach the harbourmaster is the one reported; of those that reach it in one
control cycle, that of the lowest compute die, then pier, then core (R113). -/
def endVoyageWith (s : State) (set : Nat) (status : Word) : State :=
  voyageMod s set fun v => match v.ending with
    | none => { v with ending := some status, endAt := s.now }
    | some old => if v.endAt = s.now ∧ (status >>> 16).toNat < (old >>> 16).toNat then { v with ending := some status } else v

/-- The fault of a core: its CO_FAULT cause and detail, the bundle it names, and the address involved (R78, R110). -/
structure CFault where
  cause  : Nat
  detail : Nat
  addr   : Nat := 0
  deriving DecidableEq, Repr

def coFaultWord (f : CFault) : Word := fields 32 [(8, f.cause), (8, f.detail)]

/-- CO_FAULT, CO_FAULT_LOC and CO_FAULT_ADDR capture together while VALID is clear; the record is always written (R78,
R83, R113). -/
def recordCoreFault (s : State) (c : CoreId) (f : CFault) (loc tag : Nat) : State :=
  let b := coBlk s c
  let t := logCapture s (b.reg 0x010) (coFaultWord f)
    [(b.reg 0x014, fields 32 [(16, loc), (16, (voyGet s c).voyage.toNat)]),
     (b.reg 0x018, BitVec.ofNat 32 f.addr), (b.reg 0x01C, BitVec.ofNat 32 (f.addr / 2 ^ 32))]
  logRecord t 0x0201 b.slot c.p (coFaultWord f ||| validBit).toNat (f.addr % 2 ^ 52) tag

/-- A core takes a fault: it records it and stops issuing, and the tugs discard the set's unstarted descriptors (R78, R111);
`stopEnding` then stops the other cores of the set. A core that has retired END records nothing (R113). -/
def coreFault (s : State) (c : CoreId) (f : CFault) (loc tag : Nat) : State :=
  if (coreGet s c).run.active then
    let set := (voyGet s c).set
    let t := recordCoreFault s c f loc tag
    discardUnstarted (endVoyageWith (stopCore t c .faulted) set (faultStatus c f.cause)) set
  else s

/-- A core takes the tug fault raised on it, at a bundle boundary: where it has met a fault of its own, it keeps that one, and the tug
fault stays with the tug (R110, R113). -/
def takeHit (s : State) (h : TugHit) : State := coreFault s h.core ⟨0x07, h.detail, h.addr⟩ h.loc 0

/-- The tug fault waiting on a core, if there is one, is taken. -/
def takeTugHit (s : State) (c : CoreId) : State :=
  match s.cores.tugHits.find? fun h => h.core == c with
  | some h => takeHit { s with cores := { s.cores with tugHits := s.cores.tugHits.filter fun h => h.core != c } } h
  | none => s

/-- Every tug fault that waits is taken: the next bundle boundary of a core that does not issue lies in the next nanosecond
without a command (DESIGN CHOICE). -/
def takeTugHits (s : State) : State := s.cores.tugHits.foldl takeHit { s with cores := { s.cores with tugHits := [] } }

/-- The harbourmaster stops every core of the sets whose voyage is ending, within 1 µs of the fault: in the next nanosecond
with no command (DESIGN CHOICE; R111, R113). A die that has not fired does not start. -/
def stopEnding (s : State) : State :=
  s.launch.run.foldl (fun t e => match e.2 with
    | some v => if v.ending.isSome
        then discardUnstarted (stopCores (voyageMod t e.1 fun v => { v with waiting := [] }) (setCores t e.1)) e.1 else t
    | none => t) s

/-! ## Numerical events (R53) and poison (R95, R112) -/

/-- Count an instruction's numerical events and capture the first. -/
def countNumeric (s : State) (c : CoreId) (loc : Nat) (e : NumEv) : State :=
  if e.nan || e.ovf || e.sat then
    let b := coBlk s c
    let t := if e.nan then cntAdd s (b.reg 0x020) 1 else s
    let t := if e.ovf then cntAdd t (b.reg 0x024) 1 else t
    let t := if e.sat then cntAdd t (b.reg 0x028) 1 else t
    let kind := if e.nan then 0 else if e.ovf then 1 else 2
    let t := logCapture64 t (b.reg 0x030) (fields 32 [(16, loc), (16, (voyGet s c).voyage.toNat)]) (BitVec.ofNat 32 kind)
    voyageMod t (voyGet s c).set fun v => { v with numeric := true }
  else s

/-- A core consumes a parcel: a poisoned one is counted and the voyage reports it. -/
def countConsumed (s : State) (c : CoreId) (poisoned : Bool) : State :=
  if poisoned then
    voyageMod (cntAdd s ((coBlk s c).reg 0x04C) 1) (voyGet s c).set fun v => { v with poisonSeen := true }
  else s

/-! ## Core SRAM as the instruction side reads it (R93) -/

/-- Read `words` words from `a` and, where the parcel is UNVERIFIED, the whole parcel; then verify it. The flag says
that the check does not match. -/
def verifyRead (s : State) (a words : Nat) : State × Bool :=
  let pa := a / 256 * 256
  if s.mem.sealAt pa = sealUnverified then
    let s := sramFix s pa (.user 0) 32
    let d := s.mem.parcel pa
    if parcelCheck d.data = d.check then (s.setMem (s.mem.setSeal pa sealVerified), false) else (s, true)
  else (sramFix s (a / 8 * 8) (.user 0) words, false)

/-- The bank of an address (R59). -/
def bankOf (a : Nat) : Nat := a / 256 % 8

/-! ## The precise checks at issue (R110) -/

def sextImm (i : Word) : Dword := i.signExtend 64

/-- The address of an instruction's SRAM operand and its size, for those that have one (R97, R100). -/
def operandAddr (k : CoreSt) : Instr → Option (Nat × Nat)
  | .ld _ _ a i => some ((k.s a + sextImm i).toNat, 8)
  | .lw _ _ a i => some ((k.s a + sextImm i).toNat, 4)
  | .sd _ a _ i => some ((k.s a + sextImm i).toNat, 8)
  | .sw _ a _ i => some ((k.s a + sextImm i).toNat, 4)
  | .vld _ _ a i => some ((k.s a + sextImm i).toNat, 256)
  | .vst _ _ a i => some ((k.s a + sextImm i).toNat, 256)
  | .tugp _ a _ => some ((k.s a).toNat, 64)
  | _ => none

/-- `n` bytes at `a`, aligned to `al`, lie in a core's own SRAM. -/
def inSram (c : CoreId) (a n al : Nat) : Bool :=
  decide (coreSram c ≤ a ∧ a + n ≤ coreSram c + coreSramSize) && a % al == 0

/-- Parcels of weight data of a tile (R104). -/
def tileParcels (fb : Fmt) : Nat := if fb == fmtF4 then 2 else if fb == fmtQ2 then 1 else if fb == fmtBF16 then 8 else 4

/-- Where a branch or jump goes, if it is taken: the target may lie outside the bundles (R97). -/
def branchTarget (k : CoreSt) (idx : Nat) : Instr → Option Int
  | .beq _ a b i => if k.s a = k.s b then some (idx + i.toInt) else none
  | .bne _ a b i => if k.s a ≠ k.s b then some (idx + i.toInt) else none
  | .blt _ a b i => if (k.s a).slt (k.s b) then some (idx + i.toInt) else none
  | .bltu _ a b i => if (k.s a).ult (k.s b) then some (idx + i.toInt) else none
  | .jmp _ i => some (idx + i.toInt)
  | .jal _ _ i => some (idx + i.toInt)
  | .jr _ a => some (k.s a).toNat
  | _ => none

/-- Whether scales are read at sB (R104, R105). -/
def usesScale (f : Fmt) (b : Reg) : Bool := f == fmtF4 || f == fmtQ2 || ((f == fmtE4M3 || f == fmtE5M2) && b != 0)

/-- The address fault of an instruction, if it has one: the address CO_FAULT_ADDR holds (R97, R100, R104, R105). -/
def addressFault (c : CoreId) (k : CoreSt) (idx : Nat) (i : Instr) : Option Nat :=
  match i with
  | .wld _ a b fb _ =>
    let da := (k.s a).toNat
    let sa := (k.s b).toNat
    let al := if fb == fmtQ2 then 64 else 32
    if !inSram c da (256 * tileParcels fb) 256 then some da
    else if usesScale fb b && !inSram c sa al al then some sa
    else none
  | .mma _ _ a b fa _ _ imm =>
    let rows := (field imm 5 5).toNat + 1
    let stride := (field imm 11 16).toNat
    let da := (k.s a).toNat
    let sa := (k.s b).toNat
    if !inSram c da ((rows - 1) * stride + rowBytes fa) (rowBytes fa) then some da
    else if usesScale fa b && !inSram c sa rows 1 then some sa
    else none
  | _ =>
    match branchTarget k idx i with
    | some t => if 0 ≤ t ∧ t ≤ 65535 then none else some 0
    | none =>
      match operandAddr k i with
      | some (a, n) => if inSram c a n n then none else some a
      | none => none

/-- DETAIL of a register parity fault (R78). -/
def parityDetail : RegRef → Nat
  | .accum _ => 0
  | .weight _ => 1
  | .vector _ => 2
  | .scalar _ => 3

/-- The 32-bit words of a register that an instruction reads: of an accumulator the rows it names, of every other register all of
them (DESIGN CHOICE). -/
def readsWord (i : Instr) (b : ParityBit) : Bool := match i with
  | .amov _ _ a imm => accBit (a.extractLsb' 0 2).toFin ((field imm 0 4).toNat * 64) 64 b
  | _ => true

/-- The first register of an instruction's operands whose parity does not match (R58, R78). -/
def badRead (k : CoreSt) (i : Instr) : Option RegRef :=
  (reads i).find? fun r => k.badPar.any fun b => b.reg == r && readsWord i b

/-- The SRAM that a load reads. -/
def loadAddr (k : CoreSt) (i : Instr) : Option (Nat × Nat) :=
  match i with
  | .ld _ _ _ _ | .lw _ _ _ _ | .vld _ _ _ _ => operandAddr k i
  | _ => none

/-- Verify a slot's load (order 6 of R110). -/
def verifySlot (s : State) (k : CoreSt) (i : Instr) : State × Option CFault :=
  match loadAddr k i with
  | none => (s, none)
  | some (a, n) =>
    let r := verifyRead s a ((n + 7) / 8)
    (r.1, if r.2 then some ⟨0x05, bankOf a, a⟩ else none)

/-- Register parity, addresses and verification of a bundle, in the order of R110. -/
def issueCheck (s : State) (c : CoreId) (k : CoreSt) (b : Bundle) : State × Option CFault :=
  match (badRead k b.op0).orElse fun _ => badRead k b.op1 with
  | some r => (s, some ⟨0x06, parityDetail r, 0⟩)
  | none =>
  match addressFault c k b.idx b.op0 with
  | some a => (s, some ⟨0x03, 0, a⟩)
  | none =>
  match addressFault c k b.idx b.op1 with
  | some a => (s, some ⟨0x03, 1, a⟩)
  | none =>
  match verifySlot s k b.op0 with
  | (t, some f) => (t, some f)
  | (t, none) => verifySlot t k b.op1

/-- Count a failed verification (R83) and take the fault. -/
def takeIssueFault (s : State) (c : CoreId) (f : CFault) (idx : Nat) : State :=
  let s := if f.cause = 0x05 then cntAdd s ((coBlk s c).reg 0x048) 1 else s
  coreFault s c f idx 0

/-! ## Completing a bundle (R87) -/

/-- One write of a bundle. -/
def applyWrite (c : CoreId) (idx : Nat) (s : State) (w : CoreWrite) : State :=
  match w with
  | .sreg r v p => coreMod s c fun k => k.setS r v p
  | .vreg r v p => coreMod s c fun k => k.setV r v p
  | .accRows a j v p => coreMod s c fun k => k.setAccRows a j v p
  | .store a n x p =>
    let s := sramWritten (if n < 8 then sramFixWord (sideFix s a (.user 0)) a (.user 0) else sideFix s a (.user 0)) a n
    let m := { s.mem with bytes := s.mem.bytes.writeNat a n x }
    s.setMem ((m.setPoison a (p || tget m.poison (a / 256) false)).setSeal a sealOpen)
  | .storeParcel a x p =>
    let s := parcelWritten s a
    let m := { s.mem with bytes := s.mem.bytes.writeBytes a (Parcel.bytes x) }
    s.setMem ((m.setPoison a p).setSeal a sealOpen)
  | .verified a => s.setMem (s.mem.setSeal a sealVerified)
  | .numeric n o t => countNumeric s c idx ⟨n, o, t⟩
  | .consumed p => countConsumed s c p
  | .poisonSeen => voyageMod s (voyGet s c).set fun v => { v with poisonSeen := true }
  | .wld e => coreMod s c fun k =>
      let k := { k with wq := k.wq ++ [{ e with seq := k.issueSeq }], issueSeq := k.issueSeq + 1 }
      if e.buf = 0 then { k with wfmt0 := some e.fmt } else { k with wfmt1 := some e.fmt }
  | .mma e => coreMod s c fun k => { k with aq := k.aq ++ [{ e with seq := k.issueSeq }], issueSeq := k.issueSeq + 1 }
  | .signal b n => bollAdd s b n
  | .signalRemote d b n => sendBollard s hubPoint d b n
  | .branch _ => s
  | .ending => coreMod s c fun k => { k with run := .waitEnd }

/-- The target that a bundle's writes branch to. -/
def branchOf (l : List CoreWrite) : Option Nat :=
  l.findSome? fun w => match w with
    | .branch t => some t
    | _ => none

/-- Both slots are done: the writes of slot 0, then of slot 1, and the next bundle. Where both slots count a numerical event,
CO_NUM_FIRST takes slot 0's (DESIGN CHOICE). -/
def commitBundle (s : State) (c : CoreId) (b : Bundle) : State :=
  let ws := b.writes0 ++ b.writes1
  let t := ws.foldl (applyWrite c b.idx) s
  takeTugHit (coreMod t c fun k => { k with cur := none, pc := (branchOf ws).getD (b.idx + 1), idle := 0 }) c

/-- A slot has been executed with these writes. -/
def finishSlot (s : State) (c : CoreId) (slot : Nat) (ws : List CoreWrite) : State :=
  match (coreGet s c).cur with
  | none => s
  | some b =>
    let b := if slot = 0 then { b with done0 := true, writes0 := ws } else { b with done1 := true, writes1 := ws }
    if b.done0 && b.done1 then commitBundle s c b else coreMod s c fun k => { k with cur := some b }

/-- The bundle a core is executing, when slot `slot` of it holds the instruction `i` and has not been executed. -/
def slotBundle (s : State) (c : CoreId) (slot : Nat) (i : Instr) : Option Bundle :=
  let k := coreGet s c
  match k.cur with
  | none => none
  | some b =>
    let op := if slot = 0 then b.op0 else b.op1
    let done := if slot = 0 then b.done0 else b.done1
    if (k.run = .running ∨ k.run = .waitBollard ∨ k.run = .waitTug) ∧ op = i ∧ done = false then some b else none

/-- A core executes the instruction of a slot. `eff` gives the writes of the instruction from the registers and memory
as they were before the bundle, or none where it stalls. A load that is executed after the bundle's checks is verified again, for a
tug may have written its parcel since (R93). Where the core's bundle does not hold the instruction, nothing happens. -/
def slotRun (c : CoreId) (slot : Nat) (i : Instr) (eff : State → CoreSt → State × Option (List CoreWrite)) (s : State) : State :=
  match slotBundle s c slot i with
  | none => s
  | some b =>
    match (if b.issued then verifySlot s (coreGet s c) i else issueCheck s c (coreGet s c) b) with
    | (t, some f) => takeIssueFault t c f b.idx
    | (t, none) =>
      let t := coreMod t c fun k => { k with cur := some { b with issued := true } }
      match eff t (coreGet t c) with
      | (u, none) => u
      | (u, some ws) => finishSlot u c slot ws

/-- A core executes a slot's instruction that never stalls. -/
def slotPure (c : CoreId) (slot : Nat) (i : Instr) (eff : State → CoreSt → List CoreWrite) (s : State) : State :=
  slotRun c slot i (fun t k => (t, some (eff t k))) s

end Sys2Proof.Machine
end

