-- ==== Sys2Proof/Machine/LaunchOps.lean ====
section
/-! DEFINITION. Windows of slack water (R142), launch entries (R124–R133), and the start and end of voyages (R107–R113). -/

namespace Sys2Proof.Machine

/-! ## Slack water (R142, R145) -/

/-- Background kinds, by their KINDS bit (R220). -/
def kindSelfTest : Nat := 0
def kindScrub : Nat := 1
def kindCalib : Nat := 2
def kindRing : Nat := 3

/-- The forced window that is open: its end. It lasts 20 µs. -/
def forcedOpen (s : State) : Option Nat :=
  match s.slack.forced with
  | some e => if e.toNat - 20000 ≤ s.tide.hub.toNat ∧ s.tide.hub.toNat < e.toNat then some e.toNat else none
  | none => none

/-- The patterns of the chart in force. -/
def patterns (s : State) : List SlackPat := match s.hm.chart with
  | some c => c.slack
  | none => []

/-- How long a pattern stays open from the tide `t` on; 0 while it is closed. A pattern as long as its period never closes. -/
def patLeft (p : SlackPat) (t : Nat) : Nat :=
  let x := (t + p.period - p.phase % p.period) % p.period
  if x < p.length then (if p.length = p.period then p.period else p.length - x) else 0

/-- How much of a window that admits a background kind is left (R142); every kind may use a forced window (R145). -/
def windowLeft (s : State) (kind : Nat) : Nat :=
  let t := s.tide.hub.toNat
  let declared := (patterns s).foldl (fun m p => if p.kinds.getLsbD kind then max m (patLeft p t) else m) 0
  match forcedOpen s with
  | some e => max declared (e - t)
  | none => declared

/-- At least one pattern is open (R144). -/
def spanOpen (s : State) : Bool := (patterns s).any fun p => decide (0 < patLeft p s.tide.hub.toNat)

/-- No voyage runs on the module. -/
def noVoyage (s : State) : Bool := s.launch.run.all fun e => e.2.isNone

/-! ## Launch entries -/

def launchSlots : Nat := 4096
def entryGet (s : State) (i : Nat) : LEntry := tget s.launch.table i {}
def entrySet (s : State) (i : Nat) (e : LEntry) : State :=
  { s with launch := { s.launch with table := tset s.launch.table i e {} } }

def entriesIn (s : State) (st : LState) : List (Nat × LEntry) := s.launch.table.filter fun e => e.2.st == st

/-- The first of a list of entries by (TIME, index). -/
def firstEntry (l : List (Nat × LEntry)) : Option (Nat × LEntry) :=
  l.foldl (fun b e => match b with
    | none => some e
    | some x => if e.2.time.toNat < x.2.time.toNat ∨ (e.2.time = x.2.time ∧ e.1 < x.1) then some e else b) none

/-- CTRL fields (R124). -/
def LEntry.event (e : LEntry) : Bool := e.ctrl.getLsbD 1
def LEntry.hold (e : LEntry) : Bool := e.ctrl.getLsbD 2
def LEntry.cookie (e : LEntry) : Nat := (field e.ctrl 16 16).toNat
def LEntry.set (e : LEntry) : Nat := e.coreset.toNat

/-- The compute dies of a core set. -/
def setDies (s : State) (set : Nat) : List Nat := ((setCores s set).map CoreId.c).dedup

/-- A die of the set is LOST or REJOINING (R287). -/
def setCut (s : State) (set : Nat) : Bool :=
  (setDies s set).any fun d => dieState s (slotC d) == .lost || dieState s (slotC d) == .rejoining

/-- A core set is busy (R126, R287). -/
def coreSetBusy (s : State) (set : Nat) : Bool :=
  (voyageGet s set).isSome || (entriesIn s .armed).any (fun e => e.2.set == set) || setCut s set

def setHeld (s : State) (set : Nat) : List (Nat × LEntry) := (entriesIn s .held).filter fun e => e.2.set == set

/-- The thermal throttle is engaged (R417). -/
def throttled (s : State) : Bool := s.tm.level != 0

/-- TD_STRETCH_GAP by throttle level (R417). -/
def stretchGap (s : State) : Nat :=
  match s.tm.level with
  | 0 => 0
  | 1 => 2000
  | 2 => 20000
  | _ => 200000

/-- Two launches fire at least this far apart (R126). -/
def spacing : Nat := 8
/-- The arming lead (R19). -/
def lead : Nat := 256

def afterLast (s : State) : Nat := match s.launch.lastF with
  | some f => f.toNat + spacing
  | none => 0

/-- Whether a fire time falls in the forced window, whose end it then becomes (R145). -/
def deferred (s : State) (f : Nat) : Bool :=
  match s.slack.forced with
  | some e => decide (e.toNat - 20000 ≤ f ∧ f < e.toNat)
  | none => false

def forcedEndOf (s : State) : Nat := match s.slack.forced with
  | some e => e.toNat
  | none => 0

/-- How long after its fire time a forecast matters to a regulator (R410). -/
def boostHold : Nat := 1000000

/-- The load-step forecast of an entry (R20) goes to every engine and to the regulators of the set's compute dies: counted, and short
when its lead is under 100 µs. The power steps that it carries are free values (R340). -/
def sendForecast (s : State) (i : Nat) (f : Nat) : State :=
  let e := entryGet s i
  let dies := setDies s e.set
  let s := entrySet s i { e with forecast := true }
  let live := s.launch.forecasts.filter fun x => decide (s.tide.hub.toNat < x.fire.toNat + boostHold)
  let s := { s with launch := { s.launch with forecasts :=
    { fire := BitVec.ofNat 64 f, steps := dies.map fun d => (d, Config.stepWatts e.voyage.toNat e.set d), engines := List.range 8,
      dies := dies } :: live } }
  let s := cntAdd s (blkHM.reg 0x040) 1
  if f < s.tide.hub.toNat + 100000 then cntAdd s (blkHM.reg 0x044) 1 else s

/-- One of those concerned has taken a forecast. -/
def takeForecast (s : State) (f g : Forecast) : State :=
  { s with launch := { s.launch with forecasts := s.launch.forecasts.map fun x => if x = f then g else x } }

/-- The voyage record of the chart in force. -/
def voyRec (s : State) (voyage set : Nat) : Option VoyageRec :=
  match s.hm.chart with
  | some c => c.voyages.find? fun r => r.voyage == voyage && r.set == set
  | none => none

def stepLarge (s : State) (e : LEntry) : Bool := match voyRec s e.voyage.toNat e.set with
  | some r => r.stepLarge
  | none => false

def pierGet (s : State) (key : Nat) : PierSt := tget s.cores.pier key {}
def pierSet (s : State) (key : Nat) (p : PierSt) : State :=
  { s with cores := { s.cores with pier := tset s.cores.pier key p {} } }

/-- A slice in progress on a site of the set is abandoned when a launch is armed (R81). -/
def abandonSlice (s : State) (c : CoreId) : State :=
  let p := pierGet s (pierKey c.c c.p)
  match p.test.active with
  | some (j, _) =>
    if j = siteOf s c.c c.p c.k then
      cntAdd (pierSet s (pierKey c.c c.p) { p with test := { p.test with active := none } }) ((blkPR c.c c.p).reg 0x024) 1
    else s
  | none => s

/-- Armed launches that a die holds (R129). -/
def armedPerDie : Nat := 32

/-- A die of the core set holds as many armed launches as it can (R129). -/
def armedFull (s : State) (set : Nat) : Bool :=
  (setDies s set).any fun d => decide (armedPerDie ≤ (entriesIn s .armed).countP fun e => (setDies s e.2.set).contains d)

/-- The fire time of an entry if no forced window deferred any (R127, R145). -/
def plainFire (s : State) (e : LEntry) : Nat := max e.time.toNat s.launch.plain

/-- Arm entry `i` for `f` on every die of its core set (R126, R129). -/
def armEntry (s : State) (i f cause : Nat) : State :=
  let e := entryGet s i
  let s := entrySet s i { e with st := .armed, fire := BitVec.ofNat 64 f, cause := cause }
  let s := { s with launch := { s.launch with
    lastF := some (BitVec.ofNat 64 f), plain := (if cause = 4 then plainFire s e else f) + spacing } }
  let s := (setCores s e.set).foldl abandonSlice s
  if stepLarge s e && !e.forecast then sendForecast s i f else s

/-- The first held entry of a set that is no longer busy is armed at once (R128), unless a die of the set holds as many armed launches
as it can; it then waits until one has fired (DESIGN CHOICE). During a switchover gap it waits for the takeover (R394). -/
def freeSet (s : State) (set : Nat) : State :=
  if inGap s || s.hm.st != .running || coreSetBusy s set || armedFull s set then s
  else match firstEntry (setHeld s set) with
    | none => s
    | some (i, e) =>
      let f := max (s.tide.hub.toNat + stretchGap s + lead) (afterLast s)
      let d := deferred s f
      let f := if d then max (forcedEndOf s) (afterLast s) else f
      armEntry s i f (if f ≤ e.time.toNat then 0 else if d then 4 else 3)

/-! ## Starting a voyage (R107, R129) -/

/-- Level tables of a voyage for a core set: zeros where CONST gives none (R209, R219). -/
def levelsOf (s : State) (voyage set : Nat) : BitVec 256 :=
  match s.hm.chart with
  | some c => match c.consts.find? (fun r => r.voyage == voyage && r.set == set) with
    | some r => r.levels
    | none => 0
  | none => 0

/-- The state in which each core of a set starts. -/
def startCore (arg : Dword) (entry : Nat) : CoreSt :=
  { sreg := tset [] 1 arg 0, pc := entry, run := .running }

/-- Start each core of a list, which gives the ranks. -/
def startCores (s : State) (e : LEntry) (entry size : Nat) : List (CoreId × Nat) → State
  | [] => s
  | (c, rank) :: r =>
    let s := coreSet s c (startCore e.arg entry)
    let s := voySet s c { voyGet s c with
      set := e.set, voyage := e.voyage, rank := rank, size := size, time := e.time, fire := e.fire,
      levels := levelsOf s e.voyage.toNat e.set }
    startCores s e entry size r

/-- Each waiting die of a running voyage fires at the first tick on its own counter that is equal to or later than the launch time
(R19). -/
def fireVoyage (s : State) (set : Nat) (v : Voyage) : State :=
  let now := v.waiting.filter fun d => decide (v.entry.fire.toNat ≤ (dieTide s (slotC d)).toNat)
  if now.isEmpty then s
  else
    let entry := match voyRec s v.voyage.toNat set with
      | some r => r.entry
      | none => 0
    let cores := setCores s set
    let s := voyageMod s set fun v => { v with waiting := v.waiting.filter fun d => !now.contains d }
    startCores s v.entry entry cores.length (cores.zipIdx.filter fun c => now.contains c.1.c)

/-- Every die whose counter has reached a launch fires. -/
def fireDies (s : State) : State :=
  s.launch.run.foldl (fun t e => match e.2 with
    | some v => if v.waiting.isEmpty then t else fireVoyage t e.1 v
    | none => t) s

/-! ## Ending a voyage -/

/-- The VOYAGE event (R381). -/
def voyageEvent (s : State) (e : LEntry) (index : Nat) (status : Word) (slip : Nat) : State :=
  sendEvent s 0x0001 (fields 256 [(32, status.toNat), (16, e.cookie), (16, index), (64, e.time.toNat), (64, slip),
    (16, e.voyage.toNat), (16, e.set)])

/-- The status word with its flags (R112). -/
def Voyage.status (v : Voyage) (code : Word) : Word := setBit (setBit code 8 v.poisonSeen) 9 v.numeric

/-- The slip F − TIME of an entry that fired. -/
def LEntry.slip (e : LEntry) : Nat := e.fire.toNat - e.time.toNat

/-- TG_STAT.HALTED clears when the core set's voyage ends (R83, R111). -/
def clearHalted (s : State) (set : Nat) : State :=
  { s with cores := { s.cores with tug := tmap s.cores.tug {} fun _ t => { t with halted := t.halted.filter fun x => x != set } } }

/-- A voyage has ended with a nonzero status: the event is always sent, and a held entry may be armed (R111, R128). The
status of a fault is written to the error log as well. -/
def finishVoyage (s : State) (set : Nat) (v : Voyage) (code : Word) : State :=
  let st := v.status code
  let s := clearHalted (voyageSet s set none) set
  let c := (field code 0 8).toNat
  let s := if 0x11 ≤ c ∧ c ≤ 0x18 then logRecord s 0x0203 0 0 st.toNat 0 v.entry.cookie else s
  freeSet (voyageEvent s v.entry v.index st v.entry.slip) set

/-- The harbourmaster stops a voyage (R132, R288): no die of it starts any more, and with the control cycle it ends, so that a
fault of one of its cores in the same cycle is still recorded and reported (R113). -/
def killVoyage (s : State) (set : Nat) (code : Word) (detail : Nat) : State :=
  voyageMod s set fun v => { v with waiting := [], halt := v.halt.orElse fun _ => some (code, detail) }

/-- A voyage that the harbourmaster stops ends: its cores stop, those of UP dies recording cause 0x09, its unstarted descriptors
go, and its event is sent. A fault is the status reported (R113). -/
def endHalted (s : State) (set : Nat) (v : Voyage) (code : Word) (detail : Nat) : State :=
  let cores := (setCores s set).filter fun c => (coreGet s c).run.active
  let s := (cores.filter fun c => dieState s (slotC c.c) == .up).foldl
    (fun t c => recordCoreFault t c ⟨0x09, detail, 0⟩ (coreGet t c).idx 0) s
  finishVoyage (discardUnstarted (stopCores s cores) set) set v (v.ending.getD code)

/-- The control cycle ends: the voyages that the harbourmaster has stopped end. -/
def endHalts (s : State) : State :=
  s.launch.run.foldl (fun t e => match e.2 with
    | some v => match v.halt with
      | some h => endHalted t e.1 v h.1 h.2
      | none => t
    | none => t) s

/-- No started descriptor of a set remains in any tug. -/
def setDrained (s : State) (set : Nat) : Bool :=
  s.cores.tug.all fun t => t.2.slots.all (fun x => x.set != set) && t.2.pend.all fun x => x.set != set

/-- Running voyages, by core set. -/
def running (s : State) : List Nat := s.launch.run.filterMap fun e => e.2.map fun _ => e.1

end Sys2Proof.Machine
end

