-- ==== Sys2Proof/Machine/TugOps.lean ====
section
/-! DEFINITION. Tugs: descriptors, their checks, translation of berth-mode runs, and the movement of parcels
(R66, R67, R72–R77, R160–R163). -/

namespace Sys2Proof.Machine

/-! ## Descriptors (R74) -/

/-- A field of a descriptor: `n` bits from bit `b` of the byte at `o`. -/
def dget (d : BitVec 512) (o b n : Nat) : Nat := (field d (8 * o + b) n).toNat

def dOp (d : BitVec 512) : Nat := dget d 0 0 4
def dVc (d : BitVec 512) : Nat := dget d 0 4 2
def dPeer (d : BitVec 512) : Nat := dget d 0 10 4
def dCount (d : BitVec 512) : Nat := dget d 4 0 24
def dRows (d : BitVec 512) : Nat := if dOp d = 1 then dget d 0x18 0 16 else 1
def dTag (d : BitVec 512) : Nat := dget d 0x34 0 32
def dNext (d : BitVec 512) : Nat := dget d 0x38 0 52
def dDone (d : BitVec 512) : Nat := dget d 0x2C 0 32
def dDoneAdd (d : BitVec 512) : Word := field d (8 * 0x30) 32

/-- One side of a descriptor. -/
structure Side where
  dst    : Bool
  berth  : Bool
  remote : Bool
  word   : Nat
  stride : Nat
  deriving DecidableEq, Repr

/-- The sides an operation uses; a peer whose index is the module's own is local (R75). -/
def sides (s : State) (d : BitVec 512) : List Side :=
  let far := dPeer d != ownDev s
  let st (o : Nat) := if dOp d = 1 then dget d o 0 32 else 0
  (if dOp d ≤ 1 then [⟨false, dget d 0 6 1 == 1, dget d 0 8 1 == 1 && far, dget d 8 0 64, st 0x1C⟩] else []) ++
  (if dOp d ≤ 2 then [⟨true, dget d 0 7 1 == 1, dget d 0 9 1 == 1 && far, dget d 0x10 0 64, st 0x20⟩] else [])

def Side.addr (x : Side) : Nat := x.word % 2 ^ 52
def Side.index (x : Side) : Nat := x.word % 2 ^ 17
def Side.offset (x : Side) : Nat := x.word / 2 ^ 17 % 2 ^ 14
def Side.gen (x : Side) : Nat := x.word / 2 ^ 31 % 2 ^ 8

/-- Parcels of a descriptor. -/
def dTotal (d : BitVec 512) : Nat := if dOp d ≤ 2 then dRows d * dCount d else 0

/-- Parcels from a side's first to its last, both counted: for COPY2D the strides between its rows are part of what the checks of
codes 0x06 and 0x09 bound (DESIGN CHOICE). -/
def span (d : BitVec 512) (x : Side) : Nat := (dRows d - 1) * x.stride + dCount d

/-- A nonzero reserved bit of SRC or DST, in the form that CTRL gives it. -/
def placeReserved (word : Nat) (berth : Bool) : Bool := word / 2 ^ (if berth then 39 else 52) != 0

/-- A reserved OP or a nonzero reserved bit anywhere (code 0x01), also in a field that the operation ignores (DEDUCED). -/
def descReserved (d : BitVec 512) : Bool :=
  decide (3 < dOp d) || dget d 0 14 18 != 0 || dget d 4 24 8 != 0 || dget d 0x18 16 16 != 0 || dget d 0x24 15 17 != 0
    || dget d 0x2C 20 12 != 0 || dget d 0x38 52 12 != 0
    || placeReserved (dget d 8 0 64) (dget d 0 6 1 == 1) || placeReserved (dget d 0x10 0 64) (dget d 0 7 1 == 1)

/-- An address side that is misaligned or in register space, or here unmapped (code 0x05). -/
def sideUnmapped (s : State) (x : Side) : Bool :=
  !x.berth && (x.addr % 256 != 0 || match homeOf x.addr with
    | some (.reg _) => true
    | _ => !x.remote && (s.home x.addr).isNone)

/-- A transfer that runs past the end of the populated range in which it starts (code 0x06); a peer's ranges are laid out as this
module's, and an address that is unmapped there is the peer's to refuse. -/
def sideRunsPast (d : BitVec 512) (x : Side) : Bool :=
  !x.berth && (homeOf x.addr).isSome && decide (rangeEnd x.addr < x.addr + 256 * span d x)

/-- The first of R76's codes, from the lowest, that a descriptor's checks find before any parcel moves; 0 for none. Code 0x04 is for
a COUNT of zero in every operation (DEDUCED). -/
def descCode (s : State) (core : CoreId) (d : BitVec 512) (poisoned : Bool) : Nat :=
  let l := sides s d
  let far := l.filter Side.remote
  let done := dDone d
  if poisoned then 0x0B
  else if descReserved d then 0x01
  else if !far.isEmpty && (dVc d == 0 || dVc d == 3) then 0x02
  else if far.length == 2 || far.any Side.berth then 0x03
  else if dCount d = 0 ∨ dRows d = 0 then 0x04
  else if l.any (sideUnmapped s) then 0x05
  else if l.any (sideRunsPast d) then 0x06
  else if l.any (fun x => x.berth && decide (16384 < x.offset + span d x)) then 0x09
  else if dNext d ≠ 0 ∧ !inSram core (dNext d) 64 64 then 0x0C
  else if (!far.isEmpty && !reachable s (dPeer d)) || (done / 2 ^ 19 % 2 == 1 && done / 2 ^ 18 % 2 == 1
      && done / 2 ^ 14 % 16 != ownDev s && !reachable s (done / 2 ^ 14 % 16)) then 0x0E
  else 0

/-! ## Tug faults (R76, R110, R113) -/

/-- The tug of a key. -/
def tugDie (key : Nat) : Nat := key / 2 / 48
def tugPier (key : Nat) : Nat := key / 2 % 48
def tgBlk (key : Nat) : Blk := blkTG (tugDie key) (tugPier key) (key % 2)

def tugMod (s : State) (key : Nat) (f : TugSt → TugSt) : State := tugSet s key (f (tugGet s key))

/-- A voyage is being stopped because a die of its set is quarantined: traffic of it that is scuttled with the die changes nothing of
its status (R288). -/
def quarantined (s : State) (set : Nat) : Bool := match voyageGet s set with
  | some v => v.halt.any fun h => h.1 == 0x21
  | none => false

/-- A descriptor fails: the tug records the fault, discards its remaining slots of the same set, and raises a tug fault
on the posting core, which takes it at its next bundle boundary. Where that core has retired END the voyage still ends by the fault. -/
def tugFault (s : State) (key : Nat) (core : CoreId) (loc set : Nat) (desc : BitVec 512) (code addr : Nat) : State :=
  let b := tgBlk key
  let w : Word := fields 32 [(8, code), (5, siteOf s core.c core.p core.k)]
  let s := logCapture s (b.reg 0x014) w [(b.reg 0x018, BitVec.ofNat 32 (dTag desc))]
  let s := logRecord s 0x0202 b.slot (tugPier key) (w ||| validBit).toNat addr (dTag desc)
  let s := tugMod s key fun t => { t with
    slots := t.slots.filter (fun x => x.set != set), halted := if t.halted.contains set then t.halted else set :: t.halted }
  let detail := code + 128 * (key % 2)
  if code = 0x0D && quarantined s set then s
  else if (coreGet s core).run.active then
    { s with cores := { s.cores with tugHits := s.cores.tugHits ++ [⟨core, detail, addr, loc⟩] } }
  else if (coreGet s core).run = .ended then
    discardUnstarted (endVoyageWith s set (faultStatus core 0x07)) set
  else s

/-! ## The berth table (R160–R163) -/

def berthGet (s : State) (i : Nat) : BitVec 128 := tget s.berth.table i 0
def bValid (e : BitVec 128) : Bool := e.getLsbD 0
def bHome (e : BitVec 128) : Nat := (field e 1 5).toNat
def bLayer (e : BitVec 128) : Nat := (field e 8 8).toNat
def bGen (e : BitVec 128) : BitVec 8 := field e 16 8
def bPage (e : BitVec 128) : Nat := (field e 32 15).toNat
def bSession (e : BitVec 128) : Word := field e 64 32

/-- The page base of an entry (R162). -/
def pageBase (e : BitVec 128) : Nat :=
  (if bHome e < 16 then hbmBase (bHome e) else baseSramBase (bHome e - 16)) + bPage e * 0x400000

/-- A berth entry given to a core set by the chart in force. -/
def inRange (s : State) (i set : Nat) : Bool := match s.hm.chart with
  | some c => c.ranges.any fun r => decide (r.first ≤ i ∧ i < r.first + r.count) && r.mask.getLsbD set
  | none => false

/-- Entries of a pier's translation cache (R65). -/
def cacheSize : Nat := 64

/-- What a translation through an entry gives a side (R163). -/
def translate (e : BitVec 128) (gen epoch : Nat) : TugRun :=
  if !bValid e then { code := 0x07 }
  else if (bGen e).toNat != gen then { code := 0x08 }
  else { base := pageBase e, session := bSession e, epoch := epoch }

/-- A pier is still to drop its copy of an entry (R67). -/
def invalidating (s : State) (pk i : Nat) : Bool := match s.berth.op with
  | some op => op.piers.contains pk && op.entries.contains i
  | none => false

/-- The result of looking a side up: a translation, or a miss. A copy that is being invalidated translates no further access. -/
def lookup (s : State) (key set : Nat) (x : Side) : State × Option TugRun :=
  let pk := key / 2
  let b := blkPR (tugDie key) (tugPier key)
  if !inRange s x.index set then (s, some { code := 0x07 })
  else
    let p := pierGet s pk
    match if invalidating s pk x.index then none else p.cache.find? fun e => e.1 == x.index with
    | some e =>
      (cntAdd (pierSet s pk { p with cache := e :: p.cache.erase e }) (b.reg 0x028) 1, some (translate e.2 x.gen s.berth.epoch))
    | none => (cntAdd s (b.reg 0x02C) 1, none)

/-! ## Moving parcels -/

/-- The slot at the head of a tug. -/
def headSlot (s : State) (key : Nat) : Option TugSlot := (tugGet s key).slots.head?

/-- Replace the head slot. -/
def setHead (s : State) (key : Nat) (x : TugSlot) : State := tugMod s key fun t => { t with slots := x :: t.slots.tail }

/-- The address of parcel `i` of a side, in the run in force. -/
def parcelAddr (d : BitVec 512) (x : Side) (run : Option TugRun) (i : Nat) : Nat :=
  let o := i / dCount d * x.stride + i % dCount d
  match run with
  | some r => r.base + (x.offset + o) * 256
  | none => x.addr + o * 256

/-- Parcels of the run that starts at parcel `i`: at most 64, of one row (R67). -/
def runLen (d : BitVec 512) (i : Nat) : Nat := min 64 (dCount d - i % dCount d)

def isGuest (s : State) (a : Nat) : Bool := match s.home a with
  | some (.guest _) => true
  | _ => false

/-- The windows of the breakwater (R295): `n` bytes at `a` lie wholly within an enabled window of the direction that
permits the access. -/
def windowOk (s : State) (a n : Nat) (out write : Bool) : Bool :=
  enabled s blkGF && (List.range 16).any fun w =>
    let attr := rget s (blkGF.reg (0x110 + 32 * w))
    let base := (rget64 s (blkGF.reg (0x100 + 32 * w))).toNat
    let limit := (rget64 s (blkGF.reg (0x108 + 32 * w))).toNat
    attr.getLsbD 0 && attr.getLsbD 1 == out && attr.getLsbD (if write then 3 else 2) && decide (base ≤ a ∧ a + n ≤ limit + 256)

/-- A parcel leaves for the guest: it is verified, and waits behind the port's credits, also while the port is not up (R296,
R298). A record of it carries `tag`. A port in quarantine takes none. -/
def toGuest (s : State) (p : QPar) (tag : Nat) : State :=
  let bad := parcelCheck p.payload != p.check
  let p := if bad then { p with poison := true } else p
  let s := if bad then logRecord (cntAdd s (blkGF.reg 0x050) 1) 0x0121 0 0 1 (p.addr.toNat * 256) tag else s
  if s.guest.quar then s else enqueue s guestKey p

/-- A parcel of the guest window, or of data for the guest. -/
def guestPar (s : State) (ty : BitVec 4) (vc addr : Nat) (d : PData) (owner : Option Origin) : QPar :=
  { ty := ty, vc := BitVec.ofNat 2 vc, poison := d.poison, dev := BitVec.ofNat 4 (ownDev s), addr := BitVec.ofNat 44 (addr / 256)
    payload := d.data, check := d.check, owner := owner }

/-- The payload of a READ_REQ (R244). -/
def readReqPayload (count dev vc addr tag : Nat) : Parcel :=
  fields 2048 [(32, count), (8, dev), (8, vc), (16, 0), (64, addr), (32, tag)]

/-- A READ_REQ for `n` parcels at `addr`, whose data goes to `reply`. -/
def readReq (s : State) (dev vc addr n reply : Nat) (tag : Word) (owner : Option Origin) : QPar :=
  let q := readReqPayload n (ownDev s) vc reply tag.toNat
  { ty := tyReadReq, vc := BitVec.ofNat 2 vc, dev := BitVec.ofNat 4 dev, addr := BitVec.ofNat 44 (addr / 256), len := 4
    payload := q, check := parcelCheck q, owner := owner }

/-- A read that has been sent and its waiting owner. -/
def newRead (s : State) (addr count : Nat) (owner : ReadOwner) (berth : Option (Nat × TugRun)) (guest : Bool) : State × Word :=
  let tag : Word := BitVec.ofNat 32 (0x10000 + s.trans.nextTag)
  ({ s with trans := { s.trans with
      nextTag := s.trans.nextTag + 1
      reads := s.trans.reads ++ [{ tag := tag, addr := addr, count := count, owner := owner, berth := berth, guest := guest
                                   link := if guest then some guestKey else none }] } }, tag)

/-- Where the data of a read is to come that goes on from here: an address of the read's own (R295). -/
def viaAddr (tag : Word) : Nat := tag.toNat * 0x4000

/-- A read of the guest window whose data goes on from the hub to `owner`. -/
def guestRelay (s : State) (vc a n : Nat) (owner : ReadOwner) : State :=
  let tag : Word := BitVec.ofNat 32 (0x10000 + s.trans.nextTag)
  let r := newRead s (viaAddr tag) n owner none true
  toGuest r.1 (readReq s (ownDev s) vc a n (viaAddr tag) tag none) 0

/-- One more answer that a descriptor waits for. -/
def addWait (s : State) (key serial : Nat) : State := tugMod s key fun t => { t with waits := tmod t.waits serial 0 (· + 1) }

/-- Count a parcel written by a tug. -/
def countMoved (s : State) (key : Nat) (poison : Bool) : State :=
  let s := cntAdd64 s ((tgBlk key).reg 0x020) 1
  if poison then cntAdd s ((tgBlk key).reg 0x02C) 1 else s

/-- Where a run's parcels come from and go to. -/
inductive Port where
  | zero
  | mem (a : Nat)
  | guest (a : Nat)
  | peer (dev a : Nat)
  deriving DecidableEq, Repr

/-! ### A tug's write into core SRAM (R61) -/

/-- Store `n` bytes of a parcel from its offset `o` on. -/
def writePiece (m : MemSt) (a o n : Nat) (d : PData) : MemSt :=
  { m with bytes := m.bytes.writeBytes (a + o) (((Parcel.bytes d.data).drop o).take n) }

/-- The tug makes the last three of its four accesses to the parcel it is writing, with the last the check and the poison
mark. -/
def finishPart (s : State) (key : Nat) : State :=
  match (tugGet s key).part with
  | none => s
  | some (a, d) =>
    let s := tugMod s key fun t => { t with part := none }
    let m := { s.mem with sramErr := tclear s.mem.sramErr (a / 8 + 8) (a / 8 + 32), sideErr := terase s.mem.sideErr (a / 256) }
    s.setMem (((writePiece m a 64 192 d).setCheck a d.check).setPoison a d.poison)

/-- A tug writes a parcel. In core SRAM its first access stores 64 bytes and makes the parcel UNVERIFIED; the others follow
before its next parcel or its DONE, and at the latest in the next nanosecond without a command (DESIGN CHOICE). -/
def tugWrite (s : State) (key a : Nat) (d : PData) (tag : Nat) : State :=
  if inCore a then
    let s := sramWritten (sideFix (finishPart s key) a (.user tag)) a 64
    tugMod (s.setMem ((writePiece s.mem a 0 64 d).setSeal a sealUnverified)) key fun t => { t with part := some (a, d) }
  else writeParcel s a .tug d tag

/-- Every tug ends the parcel it is writing. -/
def finishParts (s : State) : State := s.cores.tug.foldl (fun t e => finishPart t e.1) s

/-- A parcel of a source that is read here. -/
def fetchPar (s : State) (p : Port) (i tag : Nat) : State × PData :=
  match p with
  | .mem a => readParcel s (a + 256 * i) .tug tag
  | _ => (s, zeroParcel false)

/-- Put a parcel where it goes: local memory, the guest, or a WRITE to the peer, the last of a run asking for a report
(R245). -/
def placePar (s : State) (key serial vc tag : Nat) (p : Port) (i n : Nat) (d : PData) : State :=
  let s := countMoved s key d.poison
  match p with
  | .mem a => tugWrite s key (a + 256 * i) d tag
  | .guest a => toGuest s (guestPar s tyWrite vc (a + 256 * i) d (if i + 1 = n then some (.guestRun key serial) else some (.tug key serial))) tag
  | .peer dev a => sendTo s (tugDie key / 2, false) {
      ty := tyWrite, vc := BitVec.ofNat 2 vc, poison := d.poison, report := i + 1 == n, dev := BitVec.ofNat 4 dev, addr := BitVec.ofNat 44 ((a + 256 * i) / 256), payload := d.data, check := d.check,
      owner := some (.tug key serial) }
  | .zero => s

/-- Move the first `m` parcels of a run of `n`. -/
def moveParcels (s : State) (key serial vc : Nat) (tags : Nat × Nat) (src dst : Port) (n : Nat) : Nat → State
  | 0 => s
  | m + 1 =>
    let s := moveParcels s key serial vc tags src dst n m
    let r := fetchPar s src m tags.1
    placePar r.1 key serial vc (match dst with | .mem _ => tags.2 | _ => tags.1) dst m n r.2

/-- Move one run: read here and write here or away, or ask the peer or the guest for `n` parcels. A run into the guest window
waits until the guest has acknowledged its last parcel, also where its data comes from a peer or from the guest (R73). `tags` are the TAG of records of what is read and of what is
written: a berth side's SESSION, else the descriptor's TAG (R197). -/
def moveRun (s : State) (key serial vc : Nat) (tags : Nat × Nat) (berth : Option (Nat × TugRun)) (src dst : Port) (n : Nat) : State :=
  let s := finishPart s key
  match src, dst with
  | .peer dev a, .mem b =>
    let r := newRead (addWait s key serial) b n (.tug key serial) berth false
    sendTo r.1 (tugDie key / 2, false) (readReq s dev vc a n b r.2 (some (.tug key serial)))
  | .guest a, .mem b =>
    let r := newRead (addWait s key serial) b n (.tug key serial) berth true
    toGuest r.1 (readReq s (ownDev s) vc a n b r.2 (some (.tug key serial))) tags.1
  | .guest a, .peer dev b => guestRelay (addWait s key serial) vc a n (.copy key serial dev vc b)
  | .guest a, .guest b => guestRelay (addWait s key serial) vc a n (.back key serial vc b)
  | .peer dev a, .guest b =>
    let r := newRead (addWait (addWait s key serial) key serial) b n (.tug key serial) berth false
    sendTo r.1 (tugDie key / 2, false) (readReq s dev vc a n b r.2 (some (.tug key serial)))
  | src, .guest b => moveParcels (addWait s key serial) key serial vc tags src (.guest b) n n
  | src, .peer dev a => moveParcels (addWait s key serial) key serial vc tags src (.peer dev a) n n
  | src, dst => moveParcels s key serial vc tags src dst n n

/-- A run's port of a side. -/
def portOf (s : State) (d : BitVec 512) (x : Side) (run : Option TugRun) (i : Nat) : Port :=
  let a := parcelAddr d x run i
  if x.remote then .peer (dPeer d) a else if isGuest s a then .guest a else .mem a

/-- A side's place can be reached from a tug of base die `q` now. -/
def portUp (s : State) (q : Nat) (p : Port) (vc : Nat) : Bool :=
  match p with
  | .zero => true
  | .mem a => match s.home a with
    | some h => reachHome s (q, false) h
    | none => true
  | .guest _ => reachHome s (q, false) (.hub 0)
  | .peer dev a => match s.hm.chart with
    | none => false
    | some c => match sendKey s c dev vc a with
      | some k => match opticOf k with
        | some (n, _) => routeUp s q (engineHome n).1
        | none => false
      | none => false

/-- Count the route of `n` parcels between two ports by way of the pier. -/
def countPath (s : State) (pier : Home) (p : Port) (vc : Nat) : Nat → State
  | 0 => s
  | n + 1 =>
    let s := countPath s pier p vc n
    match p with
    | .mem a => match s.home (a + 256 * n) with
      | some h => countLocal s h pier vc (a + 256 * n)
      | none => s
    | .guest a => countLocal s (.hub 0) pier vc a
    | _ => s

/-- What a run that is fully translated does next: it waits for its places, faults, or moves its parcels. -/
inductive RunStep where
  | blocked
  | fault (code addr : Nat)
  | moved (s : State)

/-- One run of the head slot. -/
def runStep (s : State) (key : Nat) (x : TugSlot) : RunStep :=
  let d := x.desc
  let i := x.issued
  let n := runLen d i
  let l := sides s d
  let q := tugDie key / 2
  let port (dst : Bool) : Port := match l.find? fun y => y.dst == dst with
    | some y => portOf s d y (if dst then x.dst else x.src) i
    | none => .zero
  let src := port false
  let dst := port true
  let code := (x.src.toList ++ x.dst.toList).foldl (fun c r => if r.code = 0 then c else if c = 0 then r.code else min c r.code) 0
  let bad (p : Port) (write : Bool) : Option (Nat × Nat) := match p with
    | .guest a => if s.guest.quar || !windowOk s a (256 * n) true write then some (0x0A, a) else none
    | .mem a => if (s.home a).isNone then some (0x05, a) else none
    | _ => none
  if code != 0 then .fault code 0
  else match (bad src false).orElse fun _ => bad dst true with
  | some (c, a) => .fault c a
  | none =>
    if !portUp s q src (dVc d) || !portUp s q dst (dVc d) then .blocked
    else
      let pier := Home.core (tugDie key) (tugPier key) 0 0
      let s := countPath (countPath s pier src 1 n) pier dst 1 n
      let tag (r : Option TugRun) : Nat := match r with
        | some r => r.session.toNat
        | none => dTag d
      let berth := match l.find? fun y => y.dst && y.berth, x.dst with
        | some y, some r => some (y.index, r)
        | _, _ => none
      .moved (moveRun s key x.serial (dVc d) (tag x.src, tag x.dst) berth src dst n)

/-- A descriptor leaves its slot for the list of those whose DONE is awaited (R73). -/
def toPend (s : State) (key : Nat) (x : TugSlot) (last : Bool) : State :=
  tugMod s key fun t => { t with
    slots := t.slots.tail
    pend := t.pend ++ [{ core := x.core, loc := x.loc, set := x.set, voyage := x.voyage, desc := x.desc, last := last, serial := x.serial }] }

/-- The last read has been issued: a descriptor with no NEXT gives its slot up. -/
def readsDone (s : State) (key : Nat) (x : TugSlot) : State :=
  if dTotal x.desc ≤ x.issued ∧ dNext x.desc = 0 then toPend s key x true else setHead s key x

/-- Whether every berth side of the head slot has its run's translation. -/
def translated (s : State) (x : TugSlot) : Bool :=
  (sides s x.desc).all fun y => !y.berth || (if y.dst then x.dst else x.src).isSome

/-- Take one translated run forward. -/
def runGo (s : State) (key : Nat) (x : TugSlot) : State :=
  match runStep s key x with
  | .blocked => setHead s key x
  | .fault c a => tugFault (tugMod s key fun t => { t with slots := t.slots.tail }) key x.core x.loc x.set x.desc c a
  | .moved t => readsDone t key { x with issued := x.issued + runLen x.desc x.issued, src := none, dst := none }

/-- Take forward as many runs as need no translation. -/
def pumpRuns (s : State) (key : Nat) : Nat → State
  | 0 => s
  | n + 1 =>
    match headSlot s key with
    | some x =>
      if x.started && decide (x.issued < dTotal x.desc) && translated s x then
        let t := runGo s key x
        match headSlot t key with
        | some y => if y.serial = x.serial ∧ y.issued = x.issued then t else pumpRuns t key n
        | none => t
      else s
    | none => s

end Sys2Proof.Machine
end

