-- ==== Sys2Proof/Machine/Berth.lean ====
section
/-! DEFINITION. Berth commits, sweeps and invalidations (R67, R164–R168). -/

namespace Sys2Proof.Machine

/-! ## Invalidation (R67) -/

/-- Accesses translated through the old copy of an entry have not all been performed by the tugs of a pier. -/
def entryInUse (s : State) (pk i : Nat) : Bool :=
  [pk * 2, pk * 2 + 1].any fun key =>
    (match headSlot s key with
      | some x => (sides s x.desc).any fun y => y.berth && y.index == i && (match if y.dst then x.dst else x.src with
        | some r => decide (r.epoch < s.berth.epoch)
        | none => false)
      | none => false) ||
    s.trans.reads.any fun r => (match r.berth, r.owner with
      | some (j, run), .tug k _ => j == i && decide (run.epoch < s.berth.epoch) && k == key
      | _, _ => false)

/-- A pier drops its copies of some entries. -/
def dropCopies (s : State) (pk : Nat) (l : List Nat) : State :=
  pierSet s pk { pierGet s pk with cache := (pierGet s pk).cache.filter fun e => !l.contains e.1 }

/-- Piers that hold a copy of an entry of the list. -/
def holders (s : State) (l : List Nat) : List Nat :=
  (s.cores.pier.filter fun p => p.2.cache.any fun e => l.contains e.1).map fun p => p.1

/-- Piers that must still perform accesses through an entry of the list. -/
def usersOf (s : State) (l : List Nat) : List Nat :=
  ((s.cores.tug.map fun t => t.1 / 2).dedup).filter fun pk => l.any fun i => entryInUse s pk i

/-- The result of a commit or a sweep, and the end of BUSY, unless a LOAD holds it (R229). -/
def berthFinish (s : State) (sweep : Bool) (result : Word) : State :=
  let s := setBusy { s with berth := { s.berth with op := none } } blkBT (s.hm.st == .loading)
  if sweep then logCapture (rset (rset s (blkBT.reg 0x028) 0) (blkBT.reg 0x02C) 0) (blkBT.reg 0x030) result
  else
    let s := [0x010, 0x014, 0x018, 0x01C, 0x020].foldl (fun t o => rset t (blkBT.reg o) 0) s
    let s := if field result 0 2 = 0 then cntAdd s (blkBT.reg 0x034) 1 else s
    logCapture s (blkBT.reg 0x024) result

/-- Invalidate entries in every pier: those that use none of them answer at once, and the others hold BUSY. -/
def invalidate (s : State) (l : List Nat) (sweep : Bool) (result : Word) : State :=
  let s := { s with berth := { s.berth with epoch := s.berth.epoch + 1 } }
  let wait := usersOf s l
  let s := ((holders s l).filter fun p => !wait.contains p).foldl (fun t p => dropCopies t p l) s
  if wait.isEmpty then berthFinish s sweep result
  else setBusy { s with berth := { s.berth with op := some ⟨l, wait, sweep, result⟩ } } blkBT true

/-- BERTH_INVALIDATE: the pier has performed its runs, drops its copies and answers the hub. -/
def execBerthInvalidate (die : Fin 12) (pier : Fin 48) (s : State) : Result :=
  let pk := pierKey die.val pier.val
  match s.berth.op with
  | none => .next s
  | some op =>
    if !op.piers.contains pk || op.entries.any (fun i => entryInUse s pk i) then .next s
    else
      let s := dropCopies s pk op.entries
      let op := { op with piers := op.piers.erase pk }
      if op.piers.isEmpty then .next (berthFinish s op.sweep op.result)
      else .next { s with berth := { s.berth with op := some op } }

/-! ## Commit (R164) -/

/-- The result code of a staged entry (R161, R162, R164). -/
def berthCode (e : BitVec 128) : Nat :=
  if field e 6 2 != 0 || field e 24 8 != 0 || field e 47 17 != 0 || field e 96 32 != 0 || decide (21 < bHome e) then 1
  else if 16 ≤ bHome e ∧ 95 < bPage e then 2
  else 0

/-- The staged entry. -/
def staged (s : State) : BitVec 128 :=
  rget s (blkBT.reg 0x01C) ++ rget s (blkBT.reg 0x018) ++ rget s (blkBT.reg 0x014) ++ rget s (blkBT.reg 0x010)

def berthSet (s : State) (i : Nat) (e : BitVec 128) : State :=
  { s with berth := { s.berth with table := tset s.berth.table i e 0 } }

/-- BT_COMMIT. -/
def execBtCommit (value : Word) (s : State) : Result :=
  if !hubUp s then .next s
  else softWrite s blkBT fun s =>
    let s := rset s (blkBT.reg 0x020) value
    if !value.getLsbD 31 then .next s
    else
      let i := (field value 0 17).toNat
      let e := staged s
      let code := berthCode e
      let res : Word := fields 32 [(2, code), (17, i)]
      if code != 0 then .next (berthFinish s false res)
      else .next (invalidate (berthSet s i e) [i] false res)

/-! ## Sweep (R166) -/

/-- An entry matches a sweep. -/
def sweepMatch (value tag : Word) (e : BitVec 128) : Bool :=
  bValid e && (!value.getLsbD 8 || bSession e == tag) && (!value.getLsbD 9 || bLayer e == (field value 0 8).toNat)

/-- VALID cleared and GEN advanced. -/
def sweepEntry (e : BitVec 128) : BitVec 128 := setField (setBit e 0 false) 16 (bGen e + 1)

/-- BT_SWEEP. -/
def execBtSweep (value : Word) (s : State) : Result :=
  if !hubUp s then .next s
  else softWrite s blkBT fun s =>
    let s := rset s (blkBT.reg 0x02C) value
    if !value.getLsbD 31 then .next s
    else
      let tag := rget s (blkBT.reg 0x028)
      let hit := (s.berth.table.filter fun e => sweepMatch value tag e.2).map fun e => e.1
      let s := { s with berth := { s.berth with table := tmap s.berth.table 0 fun _ e =>
                                                  if sweepMatch value tag e then sweepEntry e else e } }
      .next (invalidate s hit true (BitVec.ofNat 32 hit.length))

/-- Entries with VALID set (BT_VALID). -/
def berthValid (s : State) : Nat := s.berth.table.countP fun e => bValid e.2

end Sys2Proof.Machine
end

