-- ==== Sys2Proof/Machine/Bollard.lean ====
section
/-! DEFINITION. Bollard releases and the driver's adds and writes (R138, R141). -/

namespace Sys2Proof.Machine

/-- A released core goes on with the bundle after its BWAIT (R99, R138). -/
def releaseCore (s : State) (c : CoreId) : State :=
  if (coreGet s c).run = .waitBollard then finishSlot (coreMod s c fun k => { k with run := .running }) c 0 [] else s

/-- BOLLARD_RELEASE: the release leaves the hub; one later than 100 ns after acceptance is counted and logged; during a
switchover gap none leaves (R394). -/
def execBollardRelease (w : Waiter) (s : State) : Result :=
  match watchGet s w with
  | none => .next s
  | some x =>
    if inGap s then .next s
    else match x.hit with
    | none => .next s
    | some t =>
      let s := watchSet s w none
      let s := if t.toNat + 100 < s.now then logRecord (cntAdd s (blkBL.reg 0x020) 1) 0x0301 0 0 x.boll 0 0 else s
      match w with
      | .core c => .next (releaseCore s c)
      | .tug t =>
        let key := tugKey t.die.val t.pier.val t.tug.val
        match headSlot s key with
        | some y => .next (setHead s key { y with waited := true })
        | none => .next s

/-- BL_HOST_ADD: the hub applies the addition, or refuses an AMOUNT of 0, and clears the register (R141). -/
def execBlHostAdd (value : Word) (s : State) : Result :=
  let n := value >>> 14
  if !hubUp s then .next s
  else softWrite s blkBL fun s =>
    if n = 0 then .next (errCount (rset s (blkBL.reg 0x010) 0) blkBL)
    else .next (cntAdd (bollAdd (rset s (blkBL.reg 0x010) 0) (field value 0 14).toNat n) (blkBL.reg 0x014) 1)

/-- BL_VALUE: the new value is compared at once; against an addition in the same cycle the write is lost (R141). -/
def execBlValue (b : Fin 16384) (value : Word) (collides : Bool) (s : State) : Result :=
  if !hubUp s then .next s
  else softWrite s blkBL fun s => .next (if collides then s else bollSet s b.val value)

end Sys2Proof.Machine
end

