-- ==== Sys2Proof/Machine/LinkRx.lean ====
section
/-! DEFINITION. Quayline endpoints: lanes, parcels sent and received, acknowledgement, replay, credit and the link
states (R232–R271). -/

namespace Sys2Proof.Machine

/-! ## Endpoints -/

def isOptical (k : Nat) : Bool := (opticOf k).isSome

/-- The two base dies of a neighbour bundle's endpoint: its own and the neighbour. -/
def pairOf (k : Nat) : Option (Nat × Nat) :=
  let slot := k / 64
  if slot = 0 ∨ 32 ≤ k % 64 ∨ 6 < slot then none
  else match neighbour (slot - 1) (k % 64 / 8) with
    | some r => some (slot - 1, r)
    | none => none

/-- The endpoint exists: a bundle that the die has, or an optical link that the map in force gives lanes to. -/
def linkExists (s : State) (k : Nat) : Bool :=
  (farEnd k).isSome || (match opticOf k, effChart s with
    | some (n, d), some c => !(linkLanes c n d).isEmpty
    | _, _ => false)

/-- Lanes of an optical link (R233). -/
def nominalLanes (s : State) (k : Nat) : Nat :=
  match opticOf k, effChart s with
  | some (n, d), some c => (linkLanes c n d).length
  | _, _ => 0

/-- The die of an endpoint is UP, the hub included. -/
def endAlive (s : State) (k : Nat) : Bool := k / 64 == 0 || dieState s (k / 64) == .up

/-- Identity of an endpoint (R234). -/
def identity (s : State) (k : Nat) : Dword :=
  if isOptical k then rget64 s ((blkID 0).reg 0x018) else BitVec.ofNat 64 (k / 64)

/-- MIN_W and MAX_W of an endpoint. -/
def minW (s : State) (k : Nat) : Nat :=
  if isOptical k then (field (cfg s (qlBlk k) 0x010) 0 9).toNat
  else if k = guestKey then (field (cfg s blkGF 0x010) 16 7).toNat else 32
def maxW (s : State) (k : Nat) : Nat := if isOptical k then (field (cfg s (qlBlk k) 0x010) 16 9).toNat else 64

def maskOf (n : Nat) : BitVec 256 := BitVec.ofNat 256 (2 ^ n - 1)
def widthOf (m : BitVec 256) : Nat := popcount 256 m.toNat

/-- Lanes of the transmitted direction in service: not out and not removed. -/
def inService (x : LinkSt) : BitVec 256 := maskOf x.lanes &&& ~~~x.txOut &&& ~~~x.txGone

/-- The lowest-numbered `n` lanes of a mask. -/
def lowest : Nat → Nat → BitVec 256 → BitVec 256
  | 0, _, _ => 0
  | fuel + 1, n, m =>
    let i := 255 - fuel
    if n = 0 then 0
    else if m.getLsbD i then setBit (lowest fuel (n - 1) m) i true else lowest fuel n m

/-- The lowest-numbered lanes of a mask, as many as the width allows. -/
def upTo (n : Nat) (m : BitVec 256) : BitVec 256 := lowest 256 n m

/-- A log record of an endpoint (R271). Of the guest port only DOWN is recorded, by a kind of its own (R300). -/
def linkLog (s : State) (k kind detail : Nat) : State :=
  if k = guestKey then (if kind = 0x0404 then logRecord s 0x0522 0 0 0 0 0 else s)
  else logRecord s kind (k / 64) (k % 64) detail 0 0

/-! ## Sequence numbers (R250) -/

/-- `a` is after `b`. -/
def seqAfter (a b : BitVec 16) : Bool := decide (1 ≤ (a - b).toNat ∧ (a - b).toNat ≤ 32767)

/-! ## Receive buffers and credit (R248, R249) -/

/-- 64-byte units of an endpoint's receive buffer. An engine's is divided by EN lanes, a link's part being rounded down to whole units
(DESIGN CHOICE: R248 states no rounding). -/
def bufferUnits (s : State) (k : Nat) : Nat :=
  match opticOf k, effChart s with
  | some (n, d), some c =>
    let all := (List.range 256).countP fun i => laneEn (laneRec c n i)
    if all = 0 then 0 else 131072 * (linkLanes c n d).length / all
  | some _, none => 0
  | none, _ => 16384

/-- A channel's share, rounded down to whole units (DESIGN CHOICE: R248 states no rounding). -/
def share (s : State) (k v : Nat) : Nat :=
  let u := bufferUnits s k
  match v with
  | 0 => u / 64
  | 1 => u / 2
  | 2 => u * 3 / 8
  | _ => u * 7 / 64

/-- A channel's share in the buffer at the far end: a bundle's two ends are alike; the guest's buffer is the guest's. -/
def farShare (s : State) (k v : Nat) : Nat := if isOptical k ∨ k = guestKey then Config.peerShare k v else share s k v

/-- The credit that an endpoint announces for a channel. -/
def announced (s : State) (k v : Nat) : Word := BitVec.ofNat 32 (share s k v + 5 * tget (linkGet s k).freed v 0)

/-- A received parcel has been freed. -/
def freeUnit (s : State) (k v : Nat) : State := linkMod s k fun x => { x with freed := tmod x.freed v 0 (· + 1) }

/-- A received CREDIT replaces the held value only when it is newer. -/
def takeCredit (x : LinkSt) (v : Nat) (c : Word) : LinkSt :=
  if (c - tget x.credit v 0).toNat < 2 ^ 31 then { x with credit := tset x.credit v c 0 } else x

/-- The member at the far end of an endpoint's link; a bundle's is this module. -/
def farMember (s : State) (k : Nat) : Nat := match opticOf k with
  | some (_, d) => d
  | none => ownDev s

/-- A descriptor ends with a tug fault, wherever it stands. -/
def failDescriptor (s : State) (key serial code : Nat) : State :=
  let t := tugGet s key
  match t.pend.find? fun p => p.serial == serial with
  | some p => tugFault (tugSet s key { t with pend := t.pend.filter fun p => p.serial != serial }) key p.core p.loc p.set p.desc code 0
  | none =>
    match t.slots.find? fun x => x.serial == serial with
    | some x => tugFault (tugSet s key { t with slots := t.slots.filter fun x => x.serial != serial }) key x.core x.loc x.set x.desc code 0
    | none => s

/-- The descriptor whose traffic a parcel or a report is. -/
def Origin.descriptor : Origin → Option (Nat × Nat)
  | .tug key serial | .guestRun key serial => some (key, serial)
  | _ => none

/-- The descriptor that waits for a read. -/
def ReadOwner.descriptor : ReadOwner → Option (Nat × Nat)
  | .tug key serial | .copy key serial _ _ _ | .back key serial _ _ => some (key, serial)
  | _ => none

/-- Forget what a descriptor still waited for. -/
def forget (s : State) (key serial : Nat) : State :=
  { s with trans := { s.trans with
      reports := s.trans.reports.filter fun r => r.owner.descriptor != some (key, serial)
      reads := s.trans.reads.filter fun r => r.owner.descriptor != some (key, serial) } }

/-- One answer that a descriptor waited for has come. -/
def endWait (s : State) (key serial status : Nat) : State :=
  if status = 1 then failDescriptor (forget s key serial) key serial 0x0A
  else tugMod s key fun t => { t with waits := tmod t.waits serial 0 fun n => n - 1 }

/-- Send a RESP of one record (R244), to a member or, without one, to the guest. -/
def sendResp (s : State) (src : Point) (dev : Option Nat) (tag count status : Nat) : State :=
  let p (d : Nat) : QPar := controlPar tyResp 0 d (fields 2048 [(32, tag), (16, count), (8, status), (8, 0)]) 1
  match dev with
  | some d => sendTo s src (p d)
  | none => toGuest s (p (ownDev s)) tag

/-- A parcel of the session's MEM_WRITEs into the guest window has been performed, or given up (R372). -/
def pilotWriteDone (s : State) (session : BitVec 16) : State :=
  if session = s.pl.session then { s with pl := { s.pl with gwrite := s.pl.gwrite - 1 } } else s

/-- The acknowledgement of a parcel by the guest performs it (R73, R245, R252, R372). -/
def guestAcked (s : State) (o : Option Origin) : State :=
  match o with
  | some (.guestRun key serial) => endWait s key serial 0
  | some (.guestReport l seq) => sendResp s (diePoint l) (some (farMember s l)) seq.toNat 1 0
  | some (.pilotWrite session) => pilotWriteDone s session
  | _ => s

/-- An ACK frees what it covers; one after the last SEQ sent is ignored and counted (R251, R252). A replay in progress goes
on behind what is freed. -/
def takeAck (s : State) (k : Nat) (a : BitVec 16) : State :=
  let x := linkGet s k
  if seqAfter a x.txSeq then cntAdd s ((qlBlk k).reg 0x06C) 1
  else
    let keep := x.replay.filter fun p => seqAfter p.seq a
    let s := linkSet s k { x with
      replay := keep
      resend := x.resend.bind fun q => if keep.any fun p => p.seq == q then some q else keep.head?.map QPar.seq }
    if k = guestKey then (x.replay.filter fun p => !seqAfter p.seq a).foldl (fun t p => guestAcked t p.owner) s else s

/-! ## Sending -/

/-- The 16 bytes of a parcel header (R243). -/
def headerBytes (h : Hdr) : List Byte :=
  natToBytes 16 (fields 128 [(4, h.ty.toNat), (2, h.vc.toNat), (2, h.cvc.toNat), (6, h.len.toNat), (1, h.poison.toNat),
    (1, h.report.toNat), (16, h.seq.toNat), (16, h.ack.toNat), (32, h.credit.toNat), (4, h.dev.toNat), (44, h.addr.toNat)]).toNat

/-- The 276 bytes of a parcel on the line: header, payload, and its check XOR the CRC of the header (R242, R246). -/
def lineBytes (h : Hdr) (payload : Parcel) (check : Word) : List Byte :=
  headerBytes h ++ Parcel.bytes payload ++ natToBytes 4 (check ^^^ crc32c (headerBytes h)).toNat

/-- The header that a parcel goes out with. -/
def QPar.hdr (p : QPar) (ack : BitVec 16) (cvc : BitVec 2) (credit : Word) : Hdr :=
  { ty := p.ty, vc := p.vc, cvc := cvc, len := p.len, poison := p.poison, report := p.report, seq := p.seq, ack := ack
    credit := credit, dev := p.dev, addr := p.addr }

/-- The five 64-byte units in which a parcel crosses a UCIe port: 44 zero bytes follow it (R293). -/
def ucieUnits (p : QPar) (ack : BitVec 16) (cvc : BitVec 2) (credit : Word) : BitVec 2560 :=
  BitVec.ofNat 2560 (bytesToNat (lineBytes (p.hdr ack cvc credit) p.payload p.check))

/-- The next carrier names its channel's credit; the guest has been told it (R249, R297). -/
def carry (s : State) (k : Nat) : State :=
  let x := linkGet s k
  let s := linkSet s k { x with carrier := x.carrier + 1 }
  if k = guestKey then
    { s with guest := { s.guest with told := tput s.guest.told x.carrier.toNat (announced s k x.carrier.toNat) } }
  else s

/-- Put a parcel on the line with the acknowledgement and the credit of the carrier's turn. -/
def putLine (s : State) (k : Nat) (p : QPar) : State :=
  let x := linkGet s k
  let cr := announced s k x.carrier.toNat
  let t := (linkMod (carry s k) k fun y => { y with txAt := s.now }).emit (.parcel k p x.rxAck x.carrier cr)
  if k = guestKey && guestUcie s then t.emit (.ucie (ucieUnits p x.rxAck x.carrier cr)) else t

/-- A direction with no parcel to send sends a CA block (R249). -/
def sendCa (s : State) (k : Nat) : State :=
  let x := linkGet s k
  (carry s k).emit (.ca k x.carrier x.rxAck (announced s k x.carrier.toNat))

/-- A replay starts at the oldest unacknowledged parcel; the timeout restarts (R253, R267). -/
def replayAll (s : State) (k : Nat) : State :=
  linkMod s k fun x => { x with replay := x.replay.map fun p => { p with since := s.now }, resend := x.replay.head?.map QPar.seq }

/-- EXPECT − 1 is an ACK, and the replay starts from EXPECT (R253, R256). -/
def replayFrom (s : State) (k : Nat) (expect : BitVec 16) : State := replayAll (takeAck s k (expect - 1)) k

/-- Units that a channel has sent, with one more parcel. -/
def charge (x : LinkSt) (v : Nat) : Tbl Word := tset x.sent v (tget x.sent v 0 + 5) 0

/-- The parcel that a replay in progress resends next. -/
def resendNext (x : LinkSt) : Option QPar := x.resend.bind fun q => x.replay.find? fun p => p.seq == q

/-- Resend one parcel, as first sent. What its original transmission was charged is not charged again (R253). -/
def resendPar (s : State) (k : Nat) (p : QPar) : State :=
  let x := linkGet s k
  let mark (r : QPar) : QPar := if r.seq = p.seq then { r with since := s.now, charged := true } else r
  let x := { x with
    replay := x.replay.map mark, sent := if p.charged then x.sent else charge x p.vc.toNat
    resend := (x.replay.dropWhile fun r => r.seq != p.seq).tail.head?.map QPar.seq }
  putLine (cntAdd64 (linkSet s k x) ((qlBlk k).reg 0x070) 1) k p

/-- A read of a peer or of the guest begins: its RESP waits for its parcels. -/
def newAnswer (s : State) (src : Point) (dev : Option Nat) (tag count : Nat) : State × Nat :=
  ({ s with trans := { s.trans with
      answers := s.trans.answers ++ [⟨s.trans.nextAnswer, src, dev, tag, count, count⟩], nextAnswer := s.trans.nextAnswer + 1 } },
    s.trans.nextAnswer)

/-- A parcel of a peer's read has been sent, or discarded; the RESP follows the last (R244). -/
def answerSent (s : State) (id : Nat) : State :=
  match s.trans.answers.find? fun a => a.id == id with
  | none => s
  | some a =>
    let rest := s.trans.answers.filter fun b => b.id != id
    if a.left ≤ 1 then sendResp { s with trans := { s.trans with answers := rest } } a.src a.dev a.tag a.count 0
    else { s with trans := { s.trans with answers := { a with left := a.left - 1 } :: rest } }

/-- A read goes out on an endpoint. -/
def noteRead (s : State) (k : Nat) (tag : Word) : State :=
  { s with trans := { s.trans with reads := s.trans.reads.map fun r => if r.tag = tag then { r with link := some k } else r } }

/-- What the first transmission of a parcel starts: a reporting WRITE is remembered until its RESP (R245). -/
def noteSent (s : State) (k : Nat) (p : QPar) : State :=
  let s := if p.ty = tyReadReq then noteRead s k (field p.payload 128 32) else s
  match p.owner with
  | some (.answer id) => answerSent s id
  | some o => if p.report then { s with trans := { s.trans with reports := s.trans.reports ++ [⟨k, p.seq, o⟩] } } else s
  | none => s

/-- Send a parcel anew: it takes the next SEQ, is charged against its channel and kept for replay. -/
def transmit (s : State) (k : Nat) (p : QPar) : State :=
  let x := linkGet s k
  let p := { p with seq := x.txSeq + 1, since := s.now, charged := true }
  let s := linkSet s k { x with txSeq := x.txSeq + 1, sent := charge x p.vc.toNat, replay := x.replay ++ [p] }
  let s := if k = guestKey then cntAdd64 s (blkGF.reg 0x048) 1 else s
  noteSent (putLine (cntAdd64 s ((qlBlk k).reg 0x078) 1) k p) k p

/-- The replay buffer of an endpoint, in parcels: an engine's is shared by its links (R252). -/
def replayRoom (s : State) (k : Nat) : Bool :=
  match opticOf k with
  | some (n, _) => decide (((List.range 16).map fun d => (linkGet s (opticKey n d)).replay.length).sum < 30393)
  | none => decide ((linkGet s k).replay.length < 3799)

/-- The window of unacknowledged parcels (R252). -/
def windowRoom (x : LinkSt) : Bool := decide (x.replay.length < 32767)

/-- A channel may send (R249). -/
def hasCredit (x : LinkSt) (v : Nat) : Bool :=
  let d := (tget x.credit v 0 - tget x.sent v 0).toNat
  decide (5 ≤ d ∧ d < 2 ^ 31)

/-- The channel that sends next: 0 first, then 1–3 in turn (R248). -/
def nextChannel (x : LinkSt) : Option Nat :=
  ([0] ++ (List.range 3).map fun i => (x.rr - 1 + i) % 3 + 1).find? fun v =>
    (x.waiting.any fun p => p.vc.toNat == v) && hasCredit x v

/-! ## NOTICE and MARK blocks (R236, R237, R255, R256) -/

/-- The round that an endpoint sends now: a round takes 16 ns. -/
def roundNow (s : State) (k : Nat) : BitVec 24 :=
  let x := linkGet s k
  x.round0 + BitVec.ofNat 24 ((s.now - x.trainAt) / 16)

/-- A new round starts now. -/
def roundStarts (s : State) (x : LinkSt) : Bool := (s.now - x.trainAt) % 16 == 0

/-- A NOTICE goes out on every active lane of the reverse direction, with EXPECT = ACK + 1. -/
def sendNotice (s : State) (k lane reason : Nat) (round : BitVec 24) : State :=
  let x := linkGet s k
  if x.txActive = 0 then s else s.emit (.notice k lane reason (x.rxAck + 1) round)

/-- A NOTICE for which no failed round is stated. -/
def sendPlainNotice (s : State) (k lane reason : Nat) : State := sendNotice s.takeFree k lane reason (BitVec.ofNat 24 s.free)

/-- A MARK begins a new epoch. -/
def sendMark (s : State) (k : Nat) (action : MarkAction) (lane width : Nat) : State :=
  let x := linkGet s k
  (linkSet s k { x with epoch := x.epoch + 1 }).emit (.mark k action lane (x.epoch + 1) (roundNow s k) width)

/-- A MARK waits for its round boundary. -/
def queueMark (s : State) (k : Nat) (action : MarkAction) (lane width : Nat) : State :=
  linkMod s k fun x => { x with marks := x.marks ++ [(action, lane, width)] }

/-- A MARK of a lane waits already. -/
def markQueued (x : LinkSt) (action : MarkAction) (lane : Nat) : Bool := x.marks.any fun m => m.1 == action && m.2.1 == lane

/-- Ask for a replay: once, until a parcel with SEQ EXPECT arrives (R246, R251, R255). -/
def requestReplay (s : State) (k : Nat) : State :=
  let x := linkGet s k
  if x.replayReq.isSome then s
  else
    let s := sendPlainNotice (linkSet s k { x with replayReq := some s.now }) k 0 4
    linkLog (cntAdd s ((qlBlk k).reg 0x04C) 1) k 0x0408 (x.rxAck + 1).toNat

/-! ## Receiving -/

/-- The parcel's own check, recovered from the check field (R246). -/
def recoverCheck (h : Hdr) (checkField : Word) : Word := checkField ^^^ crc32c (headerBytes h)

/-- Types 0x9–0xF are reserved (R244). -/
def reservedType (ty : BitVec 4) : Bool := decide (9 ≤ ty.toNat)

/-- What an endpoint does with an arriving parcel before anything acts on it: nothing while it is not UP or waits for a
MARK; a reserved TYPE, a bad check of a control parcel or a gap asks for a replay; a duplicate is counted; else the parcel
is released (R246, R251, R254). On the guest port the check of every type is verified, and the breakwater judges the TYPE
(R294, R296). A parcel of another type than the command's arrives by that type's command. -/
def receive (s : State) (l : LinkId) (ty : BitVec 4) (h : Hdr) (payload : Parcel) (checkField : Word) : State × Option QPar :=
  let k := l.key
  let x := linkGet s k
  let c := recoverCheck h checkField
  let guest := k == guestKey
  if x.st != .up || x.waitMark || !endAlive s k then (s, none)
  else if (reservedType h.ty && !guest) || ((guest || decide (4 ≤ h.ty.toNat)) && parcelCheck payload != c) then
    (requestReplay s k, none)
  else if h.ty ≠ ty then (s, none)
  else
    let s := takeAck (linkSet s k (takeCredit x h.cvc.toNat h.credit)) k h.ack
    if h.seq = x.rxAck + 1 then
      let s := linkMod s k fun y => { y with rxAck := h.seq, replayReq := none }
      (cntAdd64 s ((qlBlk k).reg 0x080) 1,
        some { ty := ty, vc := h.vc, len := h.len, poison := h.poison, report := h.report, dev := h.dev, addr := h.addr,
               payload := payload, check := c, seq := h.seq })
    else if seqAfter h.seq x.rxAck then (requestReplay s k, none)
    else (cntAdd s ((qlBlk k).reg 0x054) 1, none)

/-- The arrival of a parcel on a link, as against the guest port. -/
def receiveLink (s : State) (l : LinkId) (ty : BitVec 4) (h : Hdr) (payload : Parcel) (checkField : Word) : State × Option QPar :=
  if l.key = guestKey then (s, none) else receive s l ty h payload checkField

/-! ## States (R263, R264) -/

/-- Active lanes of a neighbour pair in the direction from `q` to `r`. -/
def pairWidth (s : State) (q r : Nat) : Nat := ((pairLinks s q r).map fun k => widthOf (linkGet s k).txActive).sum

/-- Kind 0x0503: a link of a neighbour pair has gone DOWN or come UP since `was`, with the lanes active after it (R282). -/
def pairLog (was s : State) (k : Nat) : State :=
  match pairOf k with
  | none => s
  | some (q, r) =>
    let a := min q r
    let b := max q r
    if bundleUp was k == bundleUp s k then s
    else logRecord s 0x0503 0 0 (pairWidth s a b + pairWidth s b a * 65536) (slotQ a + slotQ b * 256) 0

/-- Report the result of a width or retrain request (R261). -/
def widthResult (s : State) (k code width : Nat) : State :=
  logCapture s ((qlBlk k).reg 0x02C) (fields 32 [(3, code), (1, 0), (9, width)])

/-- Requests of an endpoint whose link leaves UP end with result 4. -/
def dropRequests (s : State) (k : Nat) : State :=
  let x := linkGet s k
  if x.nego.isNone then s else widthResult (rset s ((qlBlk k).reg 0x028) 0) k 4 (widthOf x.txActive)

/-- A link goes DOWN: its parcels stay, and new traffic waits. -/
def linkDown (s : State) (k : Nat) : State :=
  let x := linkGet s k
  if x.st == .down || x.st == .off then s
  else
    let t := linkSet (dropRequests s k) k { x with
      st := .down, silentAt := none, waitMark := false, nego := none, serving := none, retraining := false, helloSent := false
      replayReq := none, marks := [], replayAt := none, resend := none, triedAt := s.now }
    pairLog s (linkLog (cntAdd t ((qlBlk k).reg 0x05C) 1) k 0x0404 (widthOf x.txActive)) k

/-- ENGINE of an endpoint's identity record (R260). -/
def engineOf (k : Nat) : Nat := match opticOf k with
  | some (n, _) => n
  | none => 0

/-- HELLO as an endpoint sends it (R260). -/
def helloPayload (s : State) (k : Nat) : Parcel :=
  let x := linkGet s k
  fields 2048 [(8, 1), (8, x.fresh.toNat), (16, (x.rxAck + 1).toNat), (32, 0), (64, (identity s k).toNat), (8, ownDev s),
    (8, engineOf k), (16, x.lanes)]

def sendHello (s : State) (k : Nat) : State :=
  let p := controlPar tyLink 0 (match opticOf k with | some (_, d) => d | none => ownDev s) (helloPayload s k) 4
  putLine (linkMod s k fun x => { x with helloSent := true }) k p

/-- The lane maps of a bundle's end. -/
def dlGet (s : State) (k : Nat) : DlSt := tget s.dl (k / 64 * 32 + k % 64) {}
def dlSet (s : State) (k : Nat) (x : DlSt) : State := { s with dl := tset s.dl (k / 64 * 32 + k % 64) x {} }
def dlBlk (k : Nat) : Blk := blkDL (k / 64) (k % 64)

/-- A physical lane of the bundle received at an end is bad: fused, or failed in the start-up test (R276). -/
def rxBad (s : State) (k p : Nat) : Bool :=
  (rget s ((dlBlk k).reg (0x018 + 4 * (p / 32)))).getLsbD (p % 32) || (rget s ((dlBlk k).reg (0x024 + 4 * (p / 32)))).getLsbD (p % 32)

/-- Physical lanes P0–P67 that are good. -/
def goodLanes (s : State) (k : Nat) : List Nat := (List.range 68).filter fun p => !rxBad s k p

/-- The ends of bundle pair `b` of engine `n`: at the engine and at its base die (R475, R477). -/
def engineEnds (n b : Nat) : Nat × Nat :=
  let h := engineHome n
  let e := match enginesOf h.1 with
    | some (_, e) => e
    | none => 0
  (linkKey (slotOE n) b, linkKey (slotQ h.1) (8 * e + 4 * h.2 + b))

/-- Logical lanes of an optical link whose electrical lane has no good physical lane, sent (received at the engine) or
received (at the base die): electrical lane e is logical lane e mod 64 of bundle pair ⌊e ÷ 64⌋ (R276, R278). -/
def wiredOut (s : State) (k : Nat) (tx : Bool) : BitVec 256 :=
  match opticOf k, effChart s with
  | some (n, d), some c =>
    let ends (b : Nat) : Nat := if tx then (engineEnds n b).1 else (engineEnds n b).2
    let good := (List.range 4).map fun b => (goodLanes s (ends b)).length
    ((linkLanes c n d).zipIdx).foldl (fun m e => setBit m e.2 (decide (good.getD (e.1 / 64) 0 ≤ e.1 % 64))) 0
  | _, _ => 0

/-- The bundle pair at the other end of one: across a die edge, or between an engine and its base die (R275, R475). -/
def dlFar (slot k : Nat) : Option (Nat × Nat) :=
  match dieType slot with
  | some 3 =>
    let h := engineHome (slot - 24)
    (enginesOf h.1).map fun e => (slotQ h.1, 8 * e.2 + 4 * h.2 + k)
  | _ =>
    match farEnd (linkKey slot k) with
    | some f => some (f / 64, f % 64)
    | none => match enginesOf (slot - 1) with
      | some (n0, e) => if dieType slot = some 1 ∧ k / 8 = e then some (slotOE (n0 + k % 8 / 4), k % 4) else none
      | none => none

/-- DL_TX_FUSE_BADi of an end: DL_RX_FUSE_BADi of the end that receives the bundle, which tells it over TRAIN blocks (R276,
R302). What the guest's end tells is a value of its own. -/
def txFuse (s : State) (k i : Nat) : Word := match dlFar (k / 64) (k % 64) with
  | some (f, j) => rget s ((blkDL f j).reg (0x018 + 4 * i))
  | none => rget s ((dlBlk k).reg (0x030 + 4 * i))

/-- A physical lane of the bundle transmitted at an end is bad. -/
def txBad (s : State) (k p : Nat) : Bool :=
  (txFuse s k (p / 32)).getLsbD (p % 32) || (rget s ((dlBlk k).reg (0x03C + 4 * (p / 32)))).getLsbD (p % 32)

def goodTx (s : State) (k : Nat) : List Nat := (List.range 68).filter fun p => !txBad s k p

/-- Lanes of a UCIe module (R293). -/
def ucieLanes : Nat := 16

/-- Logical lanes of the bundle received at an end, or of an optical link (R276). -/
def lanesRx (s : State) (k : Nat) : Nat :=
  if k = guestKey then if guestUcie s then ucieLanes else min 64 (goodLanes s k).length
  else match farEnd k with
  | some _ => min 64 (goodLanes s k).length
  | none => nominalLanes s k

/-- Logical lanes of the transmitted direction: the receiving end's. -/
def lanesTx (s : State) (k : Nat) : Nat :=
  if k = guestKey then if guestUcie s then ucieLanes else min 64 (goodTx s k).length
  else match farEnd k with
  | some f => lanesRx s f
  | none => nominalLanes s k

/-- The DL blocks of bundle pair `b` between engine `n` and its base die. -/
def engineDl (n b : Nat) : List Blk := [dlBlk (engineEnds n b).1, dlBlk (engineEnds n b).2]

/-- The bundle pairs that carry lanes of an optical link: electrical lane e is lane e mod 64 of pair ⌊e ÷ 64⌋. -/
def linkBundles (s : State) (n d : Nat) : List Nat := match effChart s with
  | some c => ((linkLanes c n d).map fun e => e / 64).dedup
  | none => []

/-- QL_CFG selects a test loop: the link is OFF for traffic (R269). -/
def inLoop (s : State) (k : Nat) : Bool := field (cfg s (qlBlk k) 0x010) 26 2 != 0

/-- A link may train: it is in no loop, no block in its path is in its safe state, and the engine of an optical link runs and
has light (R269, R289, R351, R466). -/
def trainable (s : State) (k : Nat) : Bool :=
  endRuns s k && !inSafe s (qlBlk k) && !inLoop s k && match opticOf k, farEnd k with
  | some (n, d), _ => dieState s (slotOE n) == .up && !(tget s.oe n {}).dark && !inSafe s (blkOE n) &&
      (linkBundles s n d).all fun b => (engineDl n b).all fun x => !inSafe s x
  | none, some f => !inSafe s (dlBlk k) && !inSafe s (dlBlk f) && !inSafe s (qlBlk f)
  | none, none => true

/-- The lanes of an endpoint as training leaves them: the lowest-numbered of those that have wires and are not out, as many as
the width range allows (R213, R232, R276). -/
def trainLanes (s : State) (k : Nat) (x : LinkSt) : LinkSt :=
  let txOut := x.txOut ||| wiredOut s k true
  let rxOut := x.rxOut ||| wiredOut s k false
  { x with
    lanes := lanesTx s k, rxLanes := lanesRx s k, txOut := txOut, rxOut := rxOut
    txActive := upTo (maxW s k) (maskOf (lanesTx s k) &&& ~~~txOut), rxActive := upTo (maxW s k) (maskOf (lanesRx s k) &&& ~~~rxOut)
    txGone := 0, txRepl := 0, txDue := 0, retireAt := [], lane := [], waitMark := false, marks := [], replayAt := none }

/-- Lanes of an endpoint begin to train, each sending its identity in TRAIN blocks, and it sends HELLO (R237, R260). A link
that may not train is DOWN. ROUND counts on from a value that the manual leaves open. -/
def trainLink (s : State) (k : Nat) : State :=
  let round := BitVec.ofNat 24 s.free
  let s := linkMod s.takeFree k fun x =>
    { trainLanes s k x with st := .train, round0 := round, trainAt := s.now, triedAt := s.now }
  if trainable s k then sendHello (s.emit (.train k (linkGet s k).txActive (identity s k) (ownDev s) (engineOf k))) k
  else linkMod s k fun x => { x with st := .down }

/-- The SEQ that a parcel of a list had, and the one that it is renumbered to. -/
def renumbered (l : List QPar) : List (BitVec 16 × BitVec 16) := l.mapIdx fun i p => (p.seq, BitVec.ofNat 16 (i + 1))

/-- The awaited reports of an endpoint follow its parcels' new numbers. -/
def renumberReports (s : State) (k : Nat) : State :=
  let m := renumbered (linkGet s k).replay
  let moved (r : Report) : Option Report :=
    if r.link = k then (m.find? fun e => e.1 == r.seq).map fun e => { r with seq := e.2 } else none
  { s with trans := { s.trans with
      reports := s.trans.reports.filterMap moved ++ s.trans.reports.filter fun r => (moved r).isNone } }

/-- Both directions of an endpoint start fresh: what it holds is renumbered from SEQ 1, SENT restarts at 0 and CREDIT at the
receiver's share (R265). -/
def startFresh (s : State) (k : Nat) : State :=
  let credit := (List.range 4).foldl (fun m v => tset m v (BitVec.ofNat 32 (farShare s k v)) 0) ([] : Tbl Word)
  linkMod (renumberReports s k) k fun x => { x with
    txSeq := BitVec.ofNat 16 x.replay.length
    replay := x.replay.mapIdx fun i p => { p with seq := BitVec.ofNat 16 (i + 1), charged := false }
    sent := [], credit := credit, rxAck := 0, freed := [], fresh := false, carrier := 0 }

/-- The least width at which a link is UP (R263, R292). -/
def upWidth (s : State) (k : Nat) : Nat := if isOptical k then 1 else minW s k

/-- An optical link narrower than MIN_LANES is reported (R259). -/
def checkBelowMin (s : State) (k : Nat) : State :=
  let x := linkGet s k
  let below := isOptical k && decide (widthOf x.txActive < minW s k)
  let s' := linkSet s k { x with belowMin := below }
  if below && !x.belowMin then linkLog s' k 0x040B (widthOf x.txActive) else s'

/-- The neighbour pair of an endpoint is UP now and was not before (R281). -/
def notePair (was s : State) (k : Nat) : State :=
  match pairOf k with
  | none => s
  | some (q, r) =>
    let key := min q r * 6 + max q r
    if pairIsUp was q r || !pairIsUp s q r then s
    else { s with hm := { s.hm with pairUp := tput s.hm.pairUp key s.now } }

/-- A link comes UP: fresh, or with a replay from the far end's EXPECT (R264, R265). -/
def linkUp (s : State) (k : Nat) (farFresh : Bool) (expect : BitVec 16) (id : Dword) : State :=
  let x := linkGet s k
  let fresh := x.fresh || farFresh
  let was := s
  let s := if fresh then startFresh s k else takeAck s k (expect - 1)
  let s := linkMod s k fun y => { y with
    st := .up, peerId := id, silentAt := none, retraining := false, wideLoss := y.wideLoss.map fun _ => s.now }
  let s := linkLog (notePair was s k) k 0x0405 (widthOf (linkGet s k).txActive + (if fresh then 65536 else 0))
  checkBelowMin (replayAll (pairLog was s k) k) k

/-- A bundle link of this module is trained between its two ends. -/
def bundleUpBoth (s : State) (k : Nat) (fresh : Bool) : State :=
  match farEnd k with
  | none => s
  | some f =>
    let up (s : State) (k f : Nat) : State :=
      let x := linkGet s k
      if widthOf x.txActive < upWidth s k ∨ widthOf x.rxActive < upWidth s k then linkDown s k
      else linkUp s k fresh ((linkGet s f).rxAck + 1) (identity s f)
    let s := linkMod (linkMod s k fun x => { x with fresh := fresh || x.fresh }) f fun x => { x with fresh := fresh || x.fresh }
    up (up s k f) f k

end Sys2Proof.Machine
end

