-- ==== Sys2Proof/Machine/Held.lean ====
section
/-! DEFINITION. Traffic that a link holds, and scuttling it (R222, R264, R266, R281, R297). -/

namespace Sys2Proof.Machine

/-! ## The token bucket (R297) -/

def gfRate (s : State) : Nat := (field (cfg s blkGF 0x024) 0 16).toNat
def gfBurst (s : State) : Nat := (field (cfg s blkGF 0x024) 16 16).toNat

/-- Thousandths of tokens in the bucket now. -/
def tokensNow (s : State) : Nat := min (gfBurst s * 1000) (s.guest.tokens + gfRate s * (s.now - s.guest.tokenAt))

/-- Take tokens; a RATE of 0 does not limit. -/
def takeTokens (s : State) (n : Nat) : State :=
  if gfRate s = 0 then s else { s with guest := { s.guest with tokens := tokensNow s - n * 1000, tokenAt := s.now } }

/-- `n` tokens are there. -/
def tokensFor (s : State) (n : Nat) : Bool := gfRate s == 0 || decide (n * 1000 ≤ tokensNow s)

/-! ## Credit (R297) -/

/-- A parcel of the guest has been freed. While tokens are short, credit of channels 1 and 2 is withheld. -/
def guestFree (s : State) (v : Nat) : State :=
  if (v = 1 ∨ v = 2) && !tokensFor s 1 then { s with guest := { s.guest with withheld := tmod s.guest.withheld v 0 (· + 1) } }
  else freeUnit s guestKey v

/-! ## Answers to the guest -/

/-- A RESP to the guest. -/
def guestAnswer (s : State) (tag : Word) (count status : Nat) : State := sendResp s hubPoint none tag.toNat count status

/-! ## What stalls behind a bundle (R264, R281) -/

/-- The tug that waits for data at an address, and the TAG of a record of its being written: the SESSION of a berth side's
entry (R197). -/
def readerOf (s : State) (a : Nat) : Option (Nat × Nat) :=
  match s.trans.reads.find? fun r => decide (r.addr ≤ a ∧ a < r.addr + 256 * r.count) with
  | some r => match r.owner with
    | .tug key _ => some (key, match r.berth with
      | some e => e.2.session.toNat
      | none => 0)
    | _ => none
  | none => none

/-- Where a parcel of a peer acts; none for one that acts at its endpoint. -/
def goalOf (s : State) (p : QPar) : Option Point :=
  if p.ty = tyBollard then some hubPoint
  else if p.ty = tyWrite ∨ p.ty = tyReadReq ∨ p.ty = tyReadData then (s.home (p.addr.toNat * 256)).map pointOf
  else none

/-- An accepted parcel of a peer waits behind endpoint `k`. -/
def heldBehind (s : State) (k : Nat) (h : HeldPar) : Bool :=
  ((goalOf s h.par).bind fun g => blockedAt s (diePoint h.link) g h.par.vc.toNat (h.par.addr.toNat * 256)) == some k

/-- A parcel toward a peer is held in endpoint `k`, or waits behind it. -/
def outBehind (s : State) (k : Nat) (o : OutPar) : Bool :=
  (match o.hold with
    | some h => some h
    | none => (takerOf s o.par).bind fun t => blockedAt s o.src (diePoint t) o.par.vc.toNat (o.par.addr.toNat * 256)) == some k

/-- An access of the guest waits behind endpoint `k`. -/
def guestBehind (s : State) (k : Nat) (p : GPar) : Bool :=
  p.ty != tyResp && ((s.home p.addr).bind fun h => blockedAt s hubPoint (pointOf h) p.vc p.addr) == some k

/-- The point at which a side of a run is reached, with the address there. -/
def portPoint (s : State) (vc : Nat) : Port → Option (Point × Nat)
  | .zero => none
  | .mem a => (s.home a).map fun h => (pointOf h, a)
  | .guest a => some (hubPoint, a)
  | .peer dev a => s.hm.chart.bind fun c => (sendKey s c dev vc a).map fun k => (diePoint k, a)

/-- The endpoint behind which the present run of a descriptor waits. -/
def runBehind (s : State) (key : Nat) (x : TugSlot) : Option Nat :=
  if !x.started || decide (dTotal x.desc ≤ x.issued) || !translated s x then none
  else
    let vc := dVc x.desc
    let ports := (sides s x.desc).filterMap fun y => portPoint s vc (portOf s x.desc y (if y.dst then x.dst else x.src) x.issued)
    ports.findSome? fun e => blockedAt s (tugDie key / 2, false) e.1 vc e.2

/-- Descriptors whose run, or whose DONE toward the hub, waits behind endpoint `k`: with the parcels that wait. -/
def tugBehind (s : State) (k : Nat) : List (Nat × Nat × Nat) :=
  s.cores.tug.flatMap fun t =>
    ((t.2.slots.take 1).filter fun x => runBehind s t.1 x == some k).map (fun x => (t.1, x.serial, runLen x.desc x.issued)) ++
    ((t.2.pend.take 1).filter fun p => tget t.2.waits p.serial 0 == 0 && blockedAt s (tugDie t.1 / 2, false) hubPoint 0 0 == some k).map
      fun p => (t.1, p.serial, 1)

/-- Parcels that a bundle holds, and that stall at their sources for it. -/
def behindCount (s : State) (k : Nat) : Nat :=
  s.trans.held.countP (heldBehind s k) + s.trans.outbound.countP (outBehind s k) + s.guest.deferred.countP (guestBehind s k) +
    ((tugBehind s k).map fun e => e.2.2).sum

/-- Parcels that an endpoint holds (R264). -/
def heldCount (s : State) (k : Nat) : Nat := (linkGet s k).replay.length + (linkGet s k).waiting.length + behindCount s k

/-- Some descriptor's traffic is held: in a link that is not UP, by a report or a read whose answer comes over one, or behind a bundle
(R222). -/
def trafficHeld (s : State) : Bool :=
  let mine (o : Option Origin) : Bool := (o.bind Origin.descriptor).isSome
  (s.links.any fun e => e.2.st != .up && (e.2.replay ++ e.2.waiting).any fun p => mine p.owner) ||
  (s.trans.reports.any fun r => r.owner.descriptor.isSome && !isUp s r.link) ||
  (s.trans.reads.any fun r => r.owner.descriptor.isSome && r.link.any fun k => !isUp s k) ||
  (s.trans.outbound.any fun o => mine o.par.owner) ||
  (s.trans.held.any fun h => h.par.ty == tyReadData && (readerOf s (h.par.addr.toNat * 256)).isSome) ||
  s.cores.tug.any fun t => (t.2.slots.take 1).any fun x => (runBehind s t.1 x).isSome

/-! ## Scuttling (R266) -/

/-- Descriptors with traffic in a list of parcels. -/
def tugOwners (l : List QPar) : List (Nat × Nat) := (l.filterMap fun p => p.owner.bind Origin.descriptor).dedup

/-- A reporting WRITE of another member that is discarded is refused, and a parcel of a pilot write counts as ended (DESIGN CHOICE: R266
states no answer). -/
def refuseReport (s : State) (o : Origin) : State :=
  match o with
  | .pilotWrite session => pilotWriteDone s session
  | .guestReport k seq | .relay k seq => sendResp s (diePoint k) (some (farMember s k)) seq.toNat 1 1
  | _ => s

/-- Parcels of peers' reads in a list of parcels. -/
def answerOwners (l : List QPar) : List Nat := l.filterMap fun p => match p.owner with
  | some (.answer id) => some id
  | _ => none

/-- Whose traffic a list of parcels is. -/
def ownersOf (l : List QPar) : List Origin := l.filterMap fun p => p.owner

/-- A parcel of a peer that is discarded as it waits: its buffer space is freed; a WRITE or a READ_REQ that asks for an answer is refused
(DESIGN CHOICE), and data that a tug waits for ends its descriptor. -/
def dropHeldPar (s : State) (h : HeldPar) : State :=
  let p := h.par
  let s := freeUnit s h.link p.vc.toNat
  if p.ty = tyWrite then if p.report then sendResp s (diePoint h.link) (some (farMember s h.link)) p.seq.toNat 1 1 else s
  else if p.ty = tyReadReq then
    sendResp s (diePoint h.link) (some (field p.payload 32 4).toNat) (field p.payload 128 32).toNat (field p.payload 0 32).toNat 1
  else s

/-- The descriptors that wait for the data of held parcels. -/
def heldReaders (s : State) (l : List HeldPar) : List (Nat × Nat) :=
  l.filterMap fun h =>
    if h.par.ty = tyReadData then
      (s.trans.reads.find? fun r => decide (r.addr ≤ h.par.addr.toNat * 256 ∧ h.par.addr.toNat * 256 < r.addr + 256 * r.count)).bind
        fun r => r.owner.descriptor
    else none

/-- An access of the guest that is discarded as it waits is refused, where it asks for an answer; data that a tug waits for ends its
descriptor. -/
def dropGuestPar (s : State) (p : GPar) : State :=
  let s := guestFree s p.vc
  if p.ty = tyReadData then match readerOf s p.addr with
    | some (key, _) => match (s.trans.reads.find? fun r => decide (r.addr ≤ p.addr ∧ p.addr < r.addr + 256 * r.count)).bind fun r => r.owner.descriptor with
      | some (_, serial) => failDescriptor (forget s key serial) key serial 0x0D
      | none => s
    | none => s
  else if p.ty = tyReadReq then guestAnswer s p.tag p.count 1 else if p.tag = 0 then s else guestAnswer s (p.tag - 1) 1 1

/-- Discard the held traffic of an endpoint: its queues and, of a bundle, what stalls behind it. The descriptors with parcels or reports
in it end with code 0x0D. The parcels of a peer's read count as sent, so that its RESP follows with STATUS 0 (DESIGN CHOICE: R266 states no
answer). One that trains and has sent its HELLO sends it anew, with FRESH (R266). -/
def scuttle (s : State) (k : Nat) : State :=
  let x := linkGet s k
  let outs := s.trans.outbound.filter (outBehind s k)
  let held := s.trans.held.filter (heldBehind s k)
  let guests := s.guest.deferred.filter (guestBehind s k)
  let tugs := (tugBehind s k).map fun e => (e.1, e.2.1)
  let reports := (s.trans.reports.filter fun r => r.link == k).map fun r => r.owner
  let reads := (s.trans.reads.filter fun r => r.link == some k).filterMap fun r => r.owner.descriptor
  let n := heldCount s k
  let outPars := outs.map fun o => o.par
  let readers := heldReaders s held
  let s := linkSet s k { x with replay := [], waiting := [], resend := none, fresh := true, retraining := false }
  let s := { s with
    guest := { s.guest with deferred := s.guest.deferred.filter fun p => !guests.contains p }
    trans := { s.trans with
      outbound := s.trans.outbound.filter fun o => !outs.contains o
      held := s.trans.held.filter fun h => !held.contains h
      reports := s.trans.reports.filter fun r => r.link != k } }
  let s := linkLog (cntAdd s ((qlBlk k).reg 0x08C) n) k 0x0409 n
  let s := (ownersOf ((x.replay.filter fun p => !p.owner.any fun o => reports.contains o) ++ x.waiting ++ outPars) ++ reports).foldl refuseReport s
  let s := guests.foldl dropGuestPar (held.foldl dropHeldPar ((answerOwners (x.waiting ++ outPars)).foldl answerSent s))
  let ends := (tugOwners (x.replay ++ x.waiting ++ outPars) ++ reports.filterMap Origin.descriptor ++ reads ++ readers ++ tugs).dedup
  let s := ends.foldl (fun t o => failDescriptor (forget t o.1 o.2) o.1 o.2 0x0D) s
  if x.st == .train && (x.helloSent || x.retraining) then sendHello s k else s

end Sys2Proof.Machine
end

