-- ==== Sys2Proof/Machine/Traffic.lean ====
section
/-! DEFINITION. What a received parcel does at its destination: writes, reads, reports, remote bollard adds, and parcels
passed on for another member (R139, R229, R244–R247, R264). -/

namespace Sys2Proof.Machine

/-! ## Access from a peer -/

/-- A peer's access to `n` bytes at `a` is refused (R229, R295; the meaning of R76 code 0x0A). -/
def peerRefused (s : State) (a n : Nat) (write : Bool) : Bool :=
  match s.home a with
  | none => true
  | some (.reg _) => true
  | some (.core _ _ _ _) => s.hm.st == .stopping || s.hm.st == .loading || decide (rangeEnd a < a + n)
  | some (.guest _) => s.guest.quar || !windowOk s a n true write
  | some _ => decide (rangeEnd a < a + n)

/-- A place can be reached from an endpoint's die now. -/
def reachFrom (s : State) (k a : Nat) : Bool :=
  match s.home a with
  | some h => reachHome s (diePoint k) h
  | none => true

/-- Count a parcel from an endpoint's die to a place. -/
def countFrom (s : State) (k a vc : Nat) : State :=
  match s.home a with
  | some h => countWay s (diePoint k) (pointOf h) vc a
  | none => s

/-! ## WRITE (R245) -/

/-- Perform a WRITE; none where its home cannot be reached now. -/
def performWrite (s : State) (k : Nat) (p : QPar) : Option State :=
  let a := p.addr.toNat * 256
  let report (s : State) (status : Nat) : State := if p.report then sendResp s (diePoint k) (some (farMember s k)) p.seq.toNat 1 status else s
  if peerRefused s a 256 true then some (report s 1)
  else if !reachFrom s k a then none
  else
    let s := countFrom s k a p.vc.toNat
    if isGuest s a then
      some (toGuest s (guestPar s tyWrite p.vc.toNat a ⟨p.payload, p.check, p.poison⟩ (if p.report then some (.guestReport k p.seq) else none)) 0)
    else some (report (writeParcel s a .tug ⟨p.payload, p.check, p.poison⟩ 0) 0)

/-! ## READ_REQ (R244) -/

/-- The fields of a READ_REQ's payload. -/
def rrCount (p : QPar) : Nat := (field p.payload 0 32).toNat
def rrDev (p : QPar) : Nat := (field p.payload 32 4).toNat
def rrVc (p : QPar) : BitVec 2 := field p.payload 40 2
def rrAddr (p : QPar) : Nat := (field p.payload 64 52).toNat
def rrTag (p : QPar) : Word := field p.payload 128 32

/-- The point of the place at an address. -/
def pointAt (s : State) (a : Nat) : Point := match s.home a with
  | some h => pointOf h
  | none => hubPoint

/-- Send one parcel of a read back, for the RESP with this number. -/
def sendData (s : State) (src : Point) (id dev : Nat) (vc : BitVec 2) (addr : Nat) (d : PData) : State :=
  sendTo s src {
    ty := tyReadData, vc := vc, poison := d.poison, dev := BitVec.ofNat 4 dev, addr := BitVec.ofNat 44 (addr / 256)
    payload := d.data, check := d.check, owner := some (.answer id) }

/-- Read the first `n` parcels from `a` on and send each to the requester. A record of the read carries its TAG (R197). -/
def sendRead (s : State) (id a : Nat) (p : QPar) : Nat → State
  | 0 => s
  | n + 1 =>
    let s := sendRead s id a p n
    let r := readParcel s (a + 256 * n) .tug (rrTag p).toNat
    sendData r.1 (pointAt s (a + 256 * n)) id (rrDev p) (rrVc p) (rrAddr p + 256 * n) r.2

/-- Perform a READ_REQ; none where its home cannot be reached now. A read of the guest window goes on to the guest. -/
def performRead (s : State) (k : Nat) (p : QPar) : Option State :=
  let a := p.addr.toNat * 256
  let n := rrCount p
  if n = 0 ∨ 64 < n ∨ peerRefused s a (256 * n) false then some (sendResp s (diePoint k) (some (rrDev p)) (rrTag p).toNat n 1)
  else if !reachFrom s k a then none
  else
    let r := newAnswer (countFrom s k a p.vc.toNat) (pointAt s a) (some (rrDev p)) (rrTag p).toNat n
    some (if isGuest s a then guestRelay r.1 (rrVc p).toNat a n (.peer (rrDev p) (rrVc p).toNat (rrAddr p) r.2)
      else sendRead r.1 r.2 a p n)

/-! ## READ_DATA and RESP at the requester -/

/-- A peer's data that a tug moves into the guest window: the guest's acknowledgement of a run's last parcel ends one of the waits
of the descriptor (R73). -/
def dataToGuest (s : State) (key a vc : Nat) (d : PData) : State :=
  match s.trans.reads.find? fun r => decide (r.addr ≤ a ∧ a < r.addr + 256 * r.count) with
  | some r => match r.owner with
    | .tug _ serial => placePar s key serial vc 0 (.guest r.addr) ((a - r.addr) / 256) r.count d
    | _ => s
  | none => s

/-- Perform a READ_DATA; none where its home cannot be reached now. Data that a tug of this module has asked for is that tug's access,
not a peer's (R229). -/
def performData (s : State) (k : Nat) (p : QPar) : Option State :=
  let a := p.addr.toNat * 256
  if (readerOf s a).isNone && peerRefused s a 256 true then some s
  else if !reachFrom s k a then none
  else
    let s := countFrom s k a p.vc.toNat
    let d : PData := ⟨p.payload, p.check, p.poison⟩
    some (match readerOf s a with
      | some (key, tag) => if isGuest s a then dataToGuest s key a p.vc.toNat d else tugWrite (countMoved s key p.poison) key a d tag
      | none => writeParcel s a .tug d 0)

/-- A read's RESP: its data has been delivered. -/
def readAnswered (s : State) (tag : Word) (status : Nat) : State :=
  match s.trans.reads.find? fun r => r.tag == tag && !r.guest with
  | none => s
  | some r =>
    let s := { s with trans := { s.trans with reads := s.trans.reads.erase r } }
    match r.owner with
    | .tug key serial => endWait s key serial status
    | _ => s

/-- The report of a WRITE, matched by the far member and the SEQ of the reporting parcel, the oldest first. -/
def writeReported (s : State) (k : Nat) (tag : Word) (count status : Nat) : State :=
  match s.trans.reports.find? fun r => farMember s r.link == farMember s k && r.seq.toNat == tag.toNat with
  | none => s
  | some r =>
    let s := { s with trans := { s.trans with reports := s.trans.reports.erase r } }
    match r.owner with
    | .tug key serial => endWait s key serial status
    | .relay l q => sendResp s (diePoint l) (some (farMember s l)) q.toNat count status
    | _ => s

/-- Record `i` of a RESP. -/
def respRecord (s : State) (k : Nat) (p : QPar) (i : Nat) : State :=
  let tag : Word := field p.payload (64 * i) 32
  let count := (field p.payload (64 * i + 32) 16).toNat
  let status := (field p.payload (64 * i + 48) 8).toNat
  if 0x10000 ≤ tag.toNat then readAnswered s tag status else writeReported s k tag count status

/-- Records or adds of 8 bytes that a control parcel carries. -/
def recordsOf (p : QPar) : Nat := (p.len.toNat + 1) / 2

/-- Perform a RESP. -/
def performResp (s : State) (k : Nat) (p : QPar) : Option State :=
  some ((List.range (min 16 (recordsOf p))).foldl (fun t i => respRecord t k p i) s)

/-! ## BOLLARD (R139) -/

/-- The chart opens a bollard to remote adds, and no load is in progress (R229). -/
def remoteOpen (s : State) (b : Nat) : Bool :=
  s.hm.st != .loading && match s.hm.chart with
  | some c => c.bolls.any fun r => r.remoteOpen && decide (r.first ≤ b ∧ b < r.first + r.count)
  | none => false

/-- Apply one remote add, or drop, count and log it. -/
def remoteAdd (s : State) (p : QPar) (i : Nat) : State :=
  let b := (field p.payload (64 * i) 14).toNat
  let w : Word := field p.payload (64 * i) 18 |>.setWidth 32
  if remoteOpen s b then bollAdd s b (field p.payload (64 * i + 32) 32)
  else
    let s := logCapture (cntAdd s (blkBL.reg 0x018) 1) (blkBL.reg 0x01C) w
    logRecord s 0x0302 0 0 (w ||| validBit).toNat 0 0

/-- Perform a BOLLARD parcel; none while the hub cannot be reached. -/
def performBollard (s : State) (k : Nat) (p : QPar) : Option State :=
  if !reachHome s (diePoint k) (.hub 0) then none
  else some ((List.range (min 32 (recordsOf p))).foldl (fun t i => remoteAdd t p i) (countWay s (diePoint k) hubPoint 0 0))

/-! ## Accepting a parcel -/

/-- Perform a parcel for this module. -/
def perform (s : State) (k : Nat) (p : QPar) : Option State :=
  if p.ty = tyWrite then performWrite s k p
  else if p.ty = tyReadReq then performRead s k p
  else if p.ty = tyReadData then performData s k p
  else if p.ty = tyResp then performResp s k p
  else if p.ty = tyBollard then performBollard s k p
  else some s

/-- A parcel of the same link and channel waits already: order is kept (R245). -/
def heldBefore (s : State) (k : Nat) (p : QPar) : Bool := s.trans.held.any fun h => h.link == k && h.par.vc == p.vc

/-- Pass a parcel on toward another member (R247). Only its SEQ, ACK and CREDIT change. -/
def relayPar (s : State) (k : Nat) (p : QPar) : State :=
  let s := cntAdd s ((blkQN (k / 64 - 1)).reg 0x0A8) 1
  sendTo s (diePoint k) { p with owner := if p.report then some (.relay k p.seq) else none }

/-- A released parcel is relayed, performed, or waits in the receive buffer until its home can be reached. Its buffer space
is freed when it leaves (R249). -/
def acceptPar (s : State) (k : Nat) (p : QPar) : State :=
  if p.dev.toNat ≠ ownDev s then freeUnit (relayPar s k p) k p.vc.toNat
  else
    let hold : State := { s with trans := { s.trans with held := s.trans.held ++ [⟨k, p⟩] } }
    if heldBefore s k p then hold
    else match perform s k p with
      | some t => freeUnit t k p.vc.toNat
      | none => hold

/-- Try each waiting parcel again, in order of arrival. -/
def deliverHeld (s : State) : State :=
  s.trans.held.foldl (fun t h => acceptPar t h.link h.par) { s with trans := { s.trans with held := [] } }

/-- What the arrival of a data or control parcel does. The guest's come by way of the breakwater (R291). -/
def arrive (s : State) (l : LinkId) (ty : BitVec 4) (h : Hdr) (payload : Parcel) (check : Word) : Result :=
  match receiveLink s l ty h payload check with
  | (t, none) => .next t
  | (t, some p) => .next (acceptPar t l.key p)

/-- WRITE. -/
def execWrite (l : LinkId) (h : Hdr) (payload : Parcel) (check : Word) (s : State) : Result := arrive s l tyWrite h payload check

/-- READ_REQ. -/
def execReadReq (l : LinkId) (h : Hdr) (payload : Parcel) (check : Word) (s : State) : Result := arrive s l tyReadReq h payload check

/-- READ_DATA. -/
def execReadData (l : LinkId) (h : Hdr) (payload : Parcel) (check : Word) (s : State) : Result := arrive s l tyReadData h payload check

/-- RESP. -/
def execResp (l : LinkId) (h : Hdr) (payload : Parcel) (check : Word) (s : State) : Result := arrive s l tyResp h payload check

/-- BOLLARD. -/
def execBollard (l : LinkId) (h : Hdr) (payload : Parcel) (check : Word) (s : State) : Result := arrive s l tyBollard h payload check

end Sys2Proof.Machine
end

