-- ==== Sys2Proof/Machine/Link.lean ====
section
/-! DEFINITION. Lanes, sending, width changes and the states of a Quayline link (R249–R267, R281). -/

namespace Sys2Proof.Machine

/-- An endpoint whose link is UP and whose die runs. -/
def linkLive (s : State) (k : Nat) : Bool := isUp s k && endAlive s k

def laneGet (x : LinkSt) (i : Nat) : LaneSt := tget x.lane i {}
def laneMod (s : State) (k i : Nat) (f : LaneSt → LaneSt) : State := linkMod s k fun x => { x with lane := tmod x.lane i {} f }

/-! ## Width negotiation (R261, R262) -/

/-- The limits that a TARGET must meet, `serve` being the lanes in service of the direction concerned. -/
def widthOk (s : State) (k target serve : Nat) : Bool :=
  decide (minW s k ≤ target ∧ target ≤ maxW s k ∧ target ≤ serve ∧ 0 < target)

/-- A link message with its fields from byte 0 on. -/
def linkMsg (s : State) (k : Nat) (len : BitVec 6) (l : List (Nat × Nat)) : QPar :=
  controlPar tyLink 0 (farMember s k) (fields 2048 l) len

/-- Send a width or retrain request. -/
def startNego (s : State) (k : Nat) (value : Word) : State :=
  let x := linkGet s k
  let retrain := value.getLsbD 30
  let target := (field value 0 9).toNat
  let s := rset s ((qlBlk k).reg 0x028) 0
  if x.st != .up || !endRuns s k then widthResult s k 4 (widthOf x.txActive)
  else if !retrain && !widthOk s k target (widthOf (inService x)) then widthResult s k 1 (widthOf x.txActive)
  else
    let s := linkSet s k { x with nonce := x.nonce + 1, nego := some ⟨retrain, target, x.nonce + 1⟩ }
    enqueue s k (if retrain then linkMsg s k 1 [(8, 3), (24, 0), (32, (x.nonce + 1).toNat)]
      else linkMsg s k 1 [(8, 2), (8, 0), (16, target), (32, (x.nonce + 1).toNat)])

/-- A request of this endpoint ends; one written meanwhile is sent. -/
def endNego (s : State) (k code : Nat) : State :=
  let s := widthResult (linkMod s k fun x => { x with nego := none }) k code (widthOf (linkGet s k).txActive)
  let v := rget s ((qlBlk k).reg 0x028)
  if v.getLsbD 31 then startNego s k v else s

/-- A MARK that sets the width, or a lane's MARK of one kind, is taken out of the queue. -/
def dropMark (s : State) (k : Nat) (f : MarkAction × Nat × Nat → Bool) : State :=
  linkMod s k fun x => { x with marks := x.marks.filter fun m => !f m }

/-- A fatal ends an outstanding request at both ends: this endpoint's own, and one that it serves (R267). -/
def interruptNego (s : State) (k : Nat) : State :=
  let x := linkGet s k
  let s := if x.serving.isSome then widthResult (linkMod s k fun y => { y with serving := none }) k 5 (widthOf x.txActive) else s
  if x.nego.isSome then endNego (dropMark s k fun m => m.1 == .setWidth) k 5 else s

/-- Software writes the request register. GO sends the request, at once or when the one outstanding has ended. -/
def negoWrite (s : State) (k : Nat) (value : Word) : State :=
  if !value.getLsbD 31 || (linkGet s k).nego.isSome then rset s ((qlBlk k).reg 0x028) value else startNego s k value

/-! ## Lanes of the received direction (R254–R258) -/

/-- Block types of R237. -/
def blockTypes : List Byte := [0x1E, 0x2D, 0x33, 0x4B, 0x55]

/-- The reason of R238 for which a round is bad; 0 for none. Where several hold, the one that leaves least of the round to
judge by. -/
def laneReason (r : LaneRound) : Nat :=
  if !r.signal then 3
  else match r.tally with
    | none => 2
    | some (parity, round) =>
      if (r.headers.any fun h => h == 0 || h == 3) || (r.types.any fun t => !blockTypes.contains t) || round != r.prev + 1 then 2
      else if parity != r.parity then 1 else 0

/-- Failures within the sliding window of 10 s. -/
def failsNow (s : State) (l : LaneSt) : List Nat := (s.now :: l.fails).filter fun t => decide (s.now < t + 10000000000)

/-- The lowest-numbered free spare of the bundle received at an end: a good lane that carries, and has carried, no logical
lane. Good lanes 0–63 of the start carried one each; every replacement since took the next (R276, R278). -/
def freeSpare (s : State) (f : Nat) : Option Nat :=
  let used := (dlGet s f).rx.map fun e => e.2
  ((goodLanes s f).drop 64).find? fun p => used.all fun u => decide (u ≤ p)

/-- Put a spare in the place of lane `i` of the bundle from `k` to `f`, at both ends. -/
def mapSpare (s : State) (k f i p : Nat) : State :=
  let s := dlSet s k { dlGet s k with tx := tput (dlGet s k).tx i (p + 1) }
  let s := dlSet s f { dlGet s f with rx := tput (dlGet s f).rx i (p + 1) }
  cntAdd (cntAdd s ((dlBlk k).reg 0x048) 1) ((dlBlk f).reg 0x048) 1

/-- On the electrical segment of a retired optical lane a spare of the engine bundle stands in, where one is free: of the bundle to the engine
for a lane that is sent, of the bundle from it for one that is received (R232, R278). -/
def resteerEngine (s : State) (k i : Nat) (sent : Bool) : State :=
  match opticOf k, effChart s with
  | some (n, d), some c =>
    match (linkLanes c n d)[i]? with
    | some e =>
      let ends := engineEnds n (e / 64)
      let far := if sent then ends.1 else ends.2
      match freeSpare s far with
      | some p => mapSpare s (if sent then ends.2 else ends.1) far (e % 64) p
      | none => s
    | none => s
  | _, _ => s

/-- Retire a lane of the received direction (R258). -/
def retireLane (s : State) (k i : Nat) : State :=
  let s := resteerEngine (laneMod s k i fun l => { l with fails := [], ready := false, retiring := true, noticeAt := s.now }) k i false
  sendPlainNotice (cntAdd s ((qlBlk k).reg 0x048) 1) k i 5

/-- A failure of a lane: the third in the window retires it. A fatal is told by a NOTICE with its reason and round otherwise. -/
def laneFails (s : State) (k i reason : Nat) (round : BitVec 24) : State :=
  let f := failsNow s (laneGet (linkGet s k) i)
  if 3 ≤ f.length then
    retireLane s k i
  else
    let s := laneMod s k i fun l => { l with fails := f, ready := false }
    if reason = 0 then s
    else sendNotice (laneMod s k i fun l => { l with reason := reason, round := round, noticeAt := s.now }) k i reason round

/-- Every active lane of the received direction is fatal. -/
def allFatal (x : LinkSt) : Bool :=
  x.rxActive != 0 && (List.range 256).all fun i => !x.rxActive.getLsbD i || (laneGet x i).fatal

/-- Note when a link has lost every lane (R263). -/
def noteSilent (s : State) (k : Nat) : State :=
  linkMod s k fun x => { x with silentAt := if allFatal x then x.silentAt.orElse fun _ => some s.now else none }

/-- A lane of the received direction is fatal: its re-berthing begins, and stream data is discarded until the MARK that
removes it, where it is active. -/
def laneGoesFatal (s : State) (k i : Nat) : State :=
  linkMod s k fun y =>
    let active := y.rxActive.getLsbD i
    { y with waitMark := y.waitMark || active
             lane := tmod y.lane i {} fun z => { z with fatal := true, removed := z.removed && !active, since := s.now } }

/-- Lanes that can fail a round: active ones that have not, and ones that have re-berthed and wait to be added (R267). -/
def canFail (x : LinkSt) (i : Nat) : Bool :=
  (x.rxActive.getLsbD i && !(laneGet x i).fatal) || ((laneGet x i).fatal && (laneGet x i).ready)

/-- Lanes of the received direction, with their reasons, go fatal in one round (R254). When every active lane of an optical link is among them
with reason 3, that is one link-wide loss and no failure of any of these (R324). -/
def fatalLanes (s : State) (k : Nat) (found : List (Nat × Nat)) (round : BitVec 24) : State :=
  let x := linkGet s k
  let l := (found.filter fun e => canFail x e.1).dedup
  match l with
  | [] => s
  | e :: _ =>
    let p := l.partition fun e => e.2 == 3 && x.rxActive.getLsbD e.1
    let wide := isOptical k && !p.1.isEmpty && p.1.length == widthOf x.rxActive
    let counted := if wide then p.1.take 1 ++ p.2 else l
    let s := cntAdd s ((qlBlk k).reg 0x040) counted.length
    let s := logCapture s ((qlBlk k).reg 0x068) (fields 32 [(8, e.1), (4, e.2), (12, round.toNat)])
    let s := counted.foldl (fun t j => linkLog t k 0x0401 (j.1 + 256 * j.2)) s
    let s := l.foldl (fun t j => laneGoesFatal t k j.1) (interruptNego s k)
    let note (t : State) (j : Nat × Nat) : State :=
      sendNotice (laneMod t k j.1 fun z => { z with reason := j.2, round := round, noticeAt := s.now }) k j.1 j.2 round
    let s := if wide then p.1.foldl note (linkMod s k fun y => { y with wideLoss := some s.now }) else s
    noteSilent ((if wide then p.2 else l).foldl (fun t j => laneFails t k j.1 j.2 round) s) k

/-- LANE_FATAL: lanes whose round is bad go fatal. A UCIe port has no tally and no lane parity (R293). -/
def execLaneFatal (l : LinkId) (found : List LaneRound) (s : State) : Result :=
  let bad := found.filter fun r => laneReason r != 0
  match bad with
  | [] => .next s
  | r :: _ =>
    if !linkLive s l.key || (l.key == guestKey && guestUcie s) then .next s
    else .next (fatalLanes s l.key (bad.map fun r => (r.lane.toNat, laneReason r)) (r.prev + 1))

/-- Lanes of one direction may be this many blocks apart (R239). -/
def maxSkew : Nat := 512

/-- Identity of the guest (R292). -/
def guestIdentity : Dword := 40

/-- The far end of a lane is the one that the chart maps: its member, its engine, the link running between engines of one
number (R315), and the lane; a bundle's, the die at its other end; the guest port's, the guest (R234, R260, R292). -/
def endMatches (k : Nat) (ident : Dword) (dev engine : Byte) : Bool :=
  if k = guestKey then ident == guestIdentity
  else match opticOf k, farEnd k with
  | some (n, d), _ => dev == BitVec.ofNat 8 d && engine == BitVec.ofNat 8 n
  | none, some f => ident.toNat == f / 64
  | none, none => false

/-- What a training lane shows lets it join its link (R239, R260). -/
def lanePasses (k i : Nat) (t : TrainRx) : Bool :=
  decide (t.skew.toNat ≤ maxSkew) && endMatches k t.ident t.dev t.engine && t.lane.toNat == i

/-- Kind 0x040A: a lane does not join, for skew with REASON 2 (R239, R271). For another far end no REASON is stated. -/
def notJoined (s : State) (k i : Nat) (t : TrainRx) : State :=
  if t.skew.toNat ≤ maxSkew then linkLog s.takeFree k 0x040A (i + 256 * (s.free % 16)) else linkLog s k 0x040A (i + 256 * 2)

/-- A re-berthed lane whose removing MARK has been seen is ready (R257). -/
def checkReady (s : State) (k i : Nat) : State :=
  let z := laneGet (linkGet s k) i
  if z.fatal && z.ready && z.removed then sendPlainNotice s k i 0 else s

/-- LANE_REBERTHED: a lane that is aligned and matched is ready once its removing MARK has come. One that has been retired is
not re-berthed until its replacement is made (R258). -/
def execLaneReberthed (l : LinkId) (lane : Byte) (train : TrainRx) (s : State) : Result :=
  let k := l.key
  let z := laneGet (linkGet s k) lane.toNat
  if !linkLive s k || !z.fatal || z.ready || z.retiring then .next s
  else if !lanePasses k lane.toNat train then .next (notJoined s k lane.toNat train)
  else
    let s := laneMod s k lane.toNat fun z => { z with ready := true }
    let s := linkMod s k fun x => { x with silentAt := none, wideLoss := x.wideLoss.map fun _ => s.now }
    .next (checkReady s k lane.toNat)

/-- A link-wide loss has happened and the link has not been UP for 100 µs since (R324). -/
def wideLossOpen (s : State) (k : Nat) : Bool := match (linkGet s k).wideLoss with
  | some t => decide (s.now < t + 100000)
  | none => false

/-- A re-berthing attempt takes at most this long (R257). -/
def reberthTime : Nat := 800

/-- REBERTH_TIMEOUT: the attempt is counted, as a failure of the lane, and starts again (R257, R258). -/
def execReberthTimeout (l : LinkId) (lane : Byte) (s : State) : Result :=
  let k := l.key
  let z := laneGet (linkGet s k) lane.toNat
  if !linkLive s k || !z.fatal || z.ready || z.retiring || decide (s.now < z.since + reberthTime) then .next s
  else
    let s := cntAdd (laneMod s k lane.toNat fun y => { y with since := s.now }) ((qlBlk k).reg 0x044) 1
    .next (if wideLossOpen s k then s else laneFails s k lane.toNat 0 0)

/-- RETIRE_NOTICE_REPEAT: 2 µs after the last, until the replacement is made or the lane is out (R258). -/
def execRetireNoticeRepeat (l : LinkId) (lane : Byte) (s : State) : Result :=
  let k := l.key
  let z := laneGet (linkGet s k) lane.toNat
  if linkLive s k && z.retiring && decide (z.noticeAt + 2000 ≤ s.now) then
    .next (sendPlainNotice (laneMod s k lane.toNat fun y => { y with noticeAt := s.now }) k lane.toNat 5)
  else .next s

/-- REPLAY_REQUEST_RESEND: 2 µs without the expected parcel (R255). -/
def execReplayRequestResend (l : LinkId) (s : State) : Result :=
  let k := l.key
  match (linkGet s k).replayReq with
  | none => .next s
  | some t =>
    if linkLive s k && decide (t + 2000 ≤ s.now) then
      .next (sendPlainNotice (linkMod s k fun x => { x with replayReq := some s.now }) k 0 4)
    else .next s

/-- Lanes in service of the received direction: a lane that re-berths does not count (R267). -/
def rxService (x : LinkSt) : BitVec 256 :=
  (List.range 256).foldl (fun m j => if (laneGet x j).fatal then setBit m j false else m) (maskOf x.rxLanes &&& ~~~x.rxOut)

/-- What a MARK does at the receiver: a lane is removed or added, or the width set; a new epoch begins (R241, R256, R257,
R261). -/
def applyMark (s : State) (k : Nat) (action : MarkAction) (i width : Nat) : State :=
  match action with
  | .remove =>
    let s := linkMod s k fun x =>
      let lane := tmod x.lane i {} fun z => { z with fatal := true, removed := true }
      { x with rxActive := setBit x.rxActive i false, lane := lane, waitMark := lane.any fun e => e.2.fatal && !e.2.removed }
    checkReady s k i
  | .add => linkMod s k fun x => { x with
      rxActive := setBit x.rxActive i true
      lane := tmod x.lane i {} fun z => { z with fatal := false, ready := false, removed := false } }
  | .setWidth => linkMod s k fun x => { x with rxActive := upTo (width + 1) (rxService x), serving := none }

/-- MARK. -/
def execMark (l : LinkId) (action : MarkAction) (lane : Byte) (epoch : Byte) (_round : BitVec 24) (width : Byte) (s : State) : Result :=
  let k := l.key
  if !linkLive s k || (action != .setWidth && decide ((linkGet s k).rxLanes ≤ lane.toNat)) then .next s
  else .next (applyMark (linkMod s k fun x => { x with rxEpoch := epoch }) k action lane.toNat width.toNat)

/-! ## The sender (R252, R253, R256, R258) -/

/-- A bundle whose transmitted direction is too narrow goes DOWN at both its ends. -/
def checkNarrow (s : State) (k : Nat) : State :=
  let x := linkGet s k
  if isOptical k then
    checkBelowMin (if x.txActive = 0 then linkMod s k fun y => { y with silentAt := y.silentAt.orElse fun _ => some s.now } else s) k
  else if widthOf x.txActive < upWidth s k then
    match farEnd k with
    | some f => linkDown (linkDown s k) f
    | none => linkDown s k
  else s

/-- A lane leaves the transmitted direction at the next round boundary, and the replay after the last removal starts from
the latest EXPECT. The ack timeout restarts (R256, R267). -/
def queueRemoval (s : State) (k i : Nat) (expect : BitVec 16) : State :=
  let s := takeAck (interruptNego s k) k (expect - 1)
  let later (e : BitVec 16) : BitVec 16 := if seqAfter e expect then e else expect
  linkMod s k fun x => { x with replay := x.replay.map fun p => { p with since := s.now }, marks := x.marks ++ [(.remove, i, 0)], replayAt := some (match x.replayAt with
    | some e => later e
    | none => expect) }

/-- The lane is active, and no MARK that removes it waits. -/
def removable (x : LinkSt) (i : Nat) : Bool := x.txActive.getLsbD i && !markQueued x .remove i

/-- Replace a retired lane that the hub sends to the guest on (R292): the hub's end alone stands in this module. -/
def resteerGuest (s : State) (i : Nat) : State :=
  let used := (dlGet s guestKey).tx.map fun e => e.2
  match ((goodTx s guestKey).drop 64).find? fun p => used.all fun u => decide (u ≤ p) with
  | none => s
  | some p =>
    let s := dlSet s guestKey { dlGet s guestKey with tx := tput (dlGet s guestKey).tx i (p + 1) }
    linkMod (cntAdd s ((dlBlk guestKey).reg 0x048) 1) guestKey fun x => { x with txRepl := setBit x.txRepl i true, txDue := setBit x.txDue i false }

/-- Replace a retired lane of a bundle link: TRAIN blocks arrive on the replacement, which re-berths (R258, R278). -/
def resteer (s : State) (k f i p : Nat) : State :=
  let s := linkMod (mapSpare s k f i p) k fun x => { x with txRepl := setBit x.txRepl i true, txDue := setBit x.txDue i false }
  linkLog (laneMod s f i fun z => { z with retiring := false, since := s.now }) k 0x0402 i


/-- The sender replaces a retired lane: on a bundle at once where a spare is free, on an optical link by a move of its place
(R258). -/
def replaceLane (s : State) (k i : Nat) : State :=
  let s := linkMod s k fun y => { y with txDue := setBit y.txDue i true }
  match farEnd k with
  | some f => match freeSpare s f with
    | some p => resteer s k f i p
    | none => s
  | none => if k = guestKey then resteerGuest s i else resteerEngine s k i true

/-- A retire NOTICE comes less than this after the last one only where it repeats it, at intervals of 2 µs until TRAIN blocks arrive on the
replacement: a replacement fails for the third time no sooner than three attempts of 800 ns (DEDUCED; R257, R258). -/
def retireRepeat : Nat := 3 * reberthTime

/-- A retire NOTICE is new: the lane is not out, no replacement of it is due, and it repeats none that has been acted on. A bundle's receiving
end stands in this module: the lane waits for its replacement there (R258). -/
def retireNew (s : State) (k i : Nat) : Bool :=
  let x := linkGet s k
  !x.txOut.getLsbD i && !x.txDue.getLsbD i && match farEnd k with
    | some f => (laneGet (linkGet s f) i).retiring
    | none => !x.txRepl.getLsbD i || decide (tget x.retireAt i 0 + retireRepeat ≤ s.now)

/-- A NOTICE names a lane that has gone fatal, or one that has been retired. Its EXPECT acknowledges, but for a fatal of a lane that is already
removed, which is ignored (R252, R256, R267). -/
def noticeLane (s : State) (k i reason : Nat) (expect : BitVec 16) : State :=
  let s := if removable (linkGet s k) i then queueRemoval s k i expect
    else if reason = 5 || (linkGet s k).txActive.getLsbD i then takeAck s k (expect - 1) else s
  if reason != 5 then s
  else
    let s := if retireNew s k i then replaceLane (dropMark s k fun m => m == (.add, i, 0)) k i else s
    linkMod s k fun x => { x with retireAt := tput x.retireAt i s.now }

/-- A lane that is ready is added at the next round boundary, whatever MAX_W is (DESIGN CHOICE: R257 and R313 do not say that a lane which
returns to a link already at MAX_W stays out). -/
def queueAdd (s : State) (k i : Nat) : State :=
  let x := linkGet s k
  if x.txGone.getLsbD i && !x.txDue.getLsbD i && !markQueued x .add i then queueMark s k .add i 0 else s

/-- NOTICE: what the sender does (R253, R255, R256, R258, R267). A reserved REASON is ignored. -/
def execNotice (l : LinkId) (lane : Byte) (reason : BitVec 4) (expect : BitVec 16) (_round : BitVec 24) (s : State) : Result :=
  let k := l.key
  if !linkLive s k then .next s
  else if reason = 4 then .next (replayFrom s k expect)
  else if decide (5 < reason.toNat) || decide ((linkGet s k).lanes ≤ lane.toNat) then .next s
  else if reason = 0 then .next (queueAdd (takeAck s k (expect - 1)) k lane.toNat)
  else .next (noticeLane s k lane.toNat reason.toNat expect)

/-- What a MARK does at the sender, as it goes out. -/
def markSent (s : State) (k : Nat) (action : MarkAction) (i width : Nat) : State :=
  let x := linkGet s k
  match action with
  | .remove =>
    let s := linkSet s k { x with
      txActive := setBit x.txActive i false, txGone := if x.txOut.getLsbD i then x.txGone else setBit x.txGone i true }
    let s := if x.txDue.getLsbD i || laneMoving s k i then s else s.emit (.train k (setBit 0 i true) (identity s k) (ownDev s) (engineOf k))
    let s := match x.replayAt with
      | some e => if x.marks.any fun m => m.1 == .remove then s else replayFrom (linkMod s k fun y => { y with replayAt := none }) k e
      | none => s
    checkNarrow s k
  | .add => checkBelowMin (linkSet s k { x with
      txActive := setBit x.txActive i true, txGone := setBit x.txGone i false, txRepl := setBit x.txRepl i false, silentAt := none }) k
  | .setWidth =>
    let active := upTo (width + 1) (inService x)
    let out := x.txActive &&& ~~~active
    let s := linkSet s k { x with txActive := active }
    let s := if out = 0 then s else s.emit (.train k out (identity s k) (ownDev s) (engineOf k))
    endNego (checkBelowMin (linkLog s k 0x0406 (widthOf x.txActive + 65536 * (width + 1))) k) k 0

/-- At a round boundary the oldest waiting MARK goes out: one a round (R256). -/
def nextMark (s : State) (k : Nat) : State :=
  match (linkGet s k).marks with
  | [] => s
  | (action, i, width) :: rest =>
    markSent (sendMark (linkMod s k fun x => { x with marks := rest }) k action i width) k action i width

/-- The NOTICE of a fatal lane repeats in every round until the MARK that removes it (R254). -/
def repeatNotices (s : State) (k : Nat) : State :=
  (linkGet s k).lane.foldl (fun t e =>
    if e.2.fatal && !e.2.removed && !e.2.retiring && decide (e.2.noticeAt < t.now) then
      sendNotice (laneMod t k e.1 fun z => { z with noticeAt := t.now }) k e.1 e.2.reason e.2.round
    else t) s

/-- What an endpoint does at the boundaries of its rounds. -/
def linkTick (s : State) (k : Nat) : State :=
  let x := linkGet s k
  if (x.marks.isEmpty && x.lane.isEmpty) || !roundStarts s x || !linkLive s k || blanked s k then s else nextMark (repeatNotices s k) k

/-- Every endpoint at this moment. -/
def tickLinks (s : State) : State := s.links.foldl (fun t e => linkTick t e.1) s

/-- CA: credit and acknowledgement, discarded while the receiver waits for a MARK (R249, R254). -/
def execCa (l : LinkId) (vc : BitVec 2) (ack : BitVec 16) (credit : Word) (s : State) : Result :=
  let k := l.key
  let x := linkGet s k
  if !linkLive s k || x.waitMark then .next s
  else .next (takeAck (linkSet s k (takeCredit x vc.toNat credit)) k ack)

/-- KIND of a time parcel: 1 request, 2 reply (R120). -/
def timeKind (p : Parcel) : Nat := (field p 0 8).toNat

/-- A time parcel takes its transmit stamp as it passes the line: T1 of a request, T3 of a reply (R120). -/
def stampTime (s : State) (p : QPar) : State × QPar :=
  if p.ty ≠ tyTime then (s, p)
  else
    let reply := timeKind p.payload == 2
    let payload := setField p.payload (if reply then 192 else 64) s.tide.hub
    let s := if reply then s
      else { s with tide := { s.tide with outst := some (field p.payload 16 16, s.tide.hub) } }
    (s, { p with payload := payload, check := parcelCheck payload })

/-- Remove the first waiting parcel of a channel. -/
def takeWaiting (l : List QPar) (v : Nat) : Option QPar × List QPar :=
  match l with
  | [] => (none, [])
  | p :: r => if p.vc.toNat = v then (some p, r) else let t := takeWaiting r v; (t.1, p :: t.2)

/-- MSG of a link message, and its NONCE (R260). -/
def msgOf (p : Parcel) : Nat := (field p 0 8).toNat
def msgNonce (p : Parcel) : Word := field p 32 32

/-- Take a link into its retrain: every lane goes through TRAIN and traffic is held. -/
def beginRetrain (s : State) (k : Nat) : State :=
  let lanes := (linkGet s k).txActive ||| (linkGet s k).txGone
  linkMod (s.emit (.train k lanes (identity s k) (ownDev s) (engineOf k))) k fun x => { x with
    st := .train, retraining := true, waitMark := false, replayReq := none, silentAt := none, marks := [], replayAt := none
    resend := none, triedAt := s.now }

/-- The ACCEPT of a retrain has gone out: the retrain begins at this end too. -/
def acceptSent (s : State) (k : Nat) (p : QPar) : State :=
  match (linkGet s k).serving with
  | some n => if n.retrain && p.ty == tyLink && msgOf p.payload == 4 && msgNonce p.payload == n.nonce then beginRetrain s k else s
  | none => s

/-- Send the first waiting parcel of a channel. -/
def sendWaiting (s : State) (k v : Nat) : State :=
  let x := linkGet s k
  match takeWaiting x.waiting v with
  | (none, _) => s
  | (some p, rest) =>
    let s := linkSet s k { x with waiting := rest, stalled := false, rr := if v = 0 then x.rr else v % 3 + 1 }
    let r := stampTime s p
    acceptSent (transmit r.1 k r.2) k r.2

/-- Neither the replay buffer nor the window lets a further parcel be sent (R252). -/
def sendStalled (s : State) (k : Nat) : Bool := !replayRoom s k || !windowRoom (linkGet s k)

/-- A sender enters a stall. -/
def enterStall (s : State) (k : Nat) : State :=
  let x := linkGet s k
  if x.stalled then s else cntAdd (linkSet s k { x with stalled := true }) ((qlBlk k).reg 0x058) 1

/-- PARCEL_SEND: the next parcel of a replay in progress, else the next new one that credit and replay room allow, else a CA
block; nothing while the transmitters have stopped (R248, R249, R252, R253, R349). -/
def execParcelSend (l : LinkId) (s : State) : Result :=
  let k := l.key
  let x := linkGet s k
  if !linkLive s k || blanked s k || !endRuns s k then .next s
  else match resendNext x with
  | some p => .next (if p.charged || hasCredit x p.vc.toNat then resendPar s k p else sendCa s k)
  | none =>
    if x.waiting.isEmpty then .next (sendCa s k)
    else if sendStalled s k then .next (sendCa (enterStall s k) k)
    else match nextChannel x with
      | none => .next (sendCa s k)
      | some v => .next (sendWaiting s k v)

/-- The ack timeout in µs: QL_ACK_TO, whose reset value the guest port keeps (R253, R270). -/
def ackMicros (s : State) (k : Nat) : Nat := if k = guestKey then 20 else (field (cfg s (qlBlk k) 0x038) 0 8).toNat

/-- ACK_TIMEOUT (R253). -/
def execAckTimeout (l : LinkId) (s : State) : Result :=
  let k := l.key
  match (linkGet s k).replay with
  | [] => .next s
  | p :: _ =>
    if linkLive s k && decide (p.since + 1000 * ackMicros s k ≤ s.now) then
      .next (replayAll (linkLog (cntAdd s ((qlBlk k).reg 0x050) 1) k 0x0407 p.seq.toNat) k)
    else .next s

/-! ## Link messages (R260–R262) -/

/-- Serve a request of the far end that has prevailed or stands alone. REASON 1: out of range; 2: another is being served. -/
def serveRequest (s : State) (k : Nat) (n : Nego) : State :=
  let x := linkGet s k
  let refuse (reason : Nat) : State := enqueue s k (linkMsg s k 1 [(8, 5), (8, reason), (16, 0), (32, n.nonce.toNat)])
  if x.serving.isSome then refuse 2
  else if !n.retrain && !widthOk s k n.target (widthOf (rxService x)) then refuse 1
  else enqueue (linkSet s k { x with serving := some n }) k (linkMsg s k 1 [(8, 4), (24, 0), (32, n.nonce.toNat)])

/-- A request meets one of our own: the endpoint with the higher identity proceeds (R262). -/
def meetRequest (s : State) (k : Nat) (n : Nego) : State :=
  let x := linkGet s k
  if x.nego.isNone then serveRequest s k n
  else if x.peerId.toNat < (identity s k).toNat then s
  else serveRequest (endNego (cntAdd s ((qlBlk k).reg 0x060) 1) k 3) k n

/-- The far end accepts: a MARK sets the width at the next round boundary, or the retrain begins. -/
def accepted (s : State) (k : Nat) (n : Nego) : State :=
  if n.retrain then beginRetrain s k else queueMark s k .setWidth 0 (n.target - 1)

/-- The answer to an outstanding request. -/
def answered (s : State) (k : Nat) (nonce : Word) (f : Nego → State) : State :=
  match (linkGet s k).nego with
  | some n => if n.nonce = nonce then f n else s
  | none => s

/-- The far end leaves a lane out (R259). -/
def leaveOut (s : State) (k i : Nat) : State :=
  linkMod s k fun x =>
    let lane := terase x.lane i
    { x with rxOut := setBit x.rxOut i true, rxActive := setBit x.rxActive i false, lane := lane
             waitMark := x.waitMark && lane.any fun e => e.2.fatal && !e.2.removed }

/-- What a link message does at an endpoint whose link is UP, by its MSG. -/
def linkMessage (s : State) (k : Nat) (p : Parcel) : State :=
  match msgOf p with
  | 2 => meetRequest s k ⟨false, (field p 16 16).toNat, msgNonce p⟩
  | 3 => meetRequest s k ⟨true, 0, msgNonce p⟩
  | 4 => answered s k (msgNonce p) (accepted s k)
  | 5 => answered s k (msgNonce p) fun _ => endNego s k 2
  | 6 => leaveOut s k (field p 8 8).toNat
  | _ => s

/-- The arrival of a link message under the order of SEQ; it ends at this endpoint. -/
def linkArrive (s : State) (l : LinkId) (h : Hdr) (payload : Parcel) (check : Word) : Result :=
  match receive s l tyLink h payload check with
  | (t, none) => .next t
  | (t, some p) => .next (linkMessage (freeUnit t l.key p.vc.toNat) l.key p.payload)

/-- Lanes that show another far end, or too much skew, do not join; each re-berths until it does (R239, R260). -/
def dropStrays (s : State) (k : Nat) (strays : List (Byte × TrainRx)) : State :=
  (strays.filter fun e => !lanePasses k e.1.toNat e.2).foldl (fun t e =>
    let i := e.1.toNat
    let t := notJoined t k i e.2
    linkMod t k fun x => { x with
      rxActive := setBit x.rxActive i false
      lane := tmod x.lane i {} fun z => { z with fatal := true, removed := true, since := t.now } }) s

/-- Every lane of a link whose far end is not the one mapped stays out of it. -/
def noneJoined (s : State) (k : Nat) (p : Parcel) : State :=
  (List.range (linkGet s k).rxLanes).foldl (fun t i => notJoined t k i
    { ident := field p 64 64, dev := field p 128 8, engine := field p 136 8, lane := BitVec.ofNat 8 i, skew := 0 }) s

/-- LANES of a HELLO bounds both directions of an optical link to the lanes that both ends map. -/
def matchLanes (s : State) (k n : Nat) : State :=
  if isOptical k && decide (n < (linkGet s k).lanes) then
    linkMod s k fun y => { y with
      lanes := n, rxLanes := min n y.rxLanes, txActive := y.txActive &&& maskOf n, rxActive := y.rxActive &&& maskOf n }
  else s

/-- HELLO brings a training link UP (R263–R265). It stands outside the order of SEQ, which it may restart. -/
def helloUp (s : State) (k : Nat) (p : Parcel) (strays : List (Byte × TrainRx)) : State :=
  if !endMatches k (field p 64 64) (field p 128 8) (field p 136 8) then noneJoined s k p
  else
    let s := dropStrays (matchLanes s k (field p 144 16).toNat) k strays
    if widthOf (linkGet s k).txActive < upWidth s k ∨ widthOf (linkGet s k).rxActive < upWidth s k then linkDown s k
    else linkUp s k (p.getLsbD 8) (field p 16 16) (field p 64 64)

/-- HELLO. One with a reserved TYPE or a bad check is discarded and asked for again (R246). -/
def execHello (l : LinkId) (h : Hdr) (payload : Parcel) (check : Word) (strays : List (Byte × TrainRx)) (s : State) : Result :=
  let k := l.key
  let x := linkGet s k
  if x.st != .train || x.retraining then linkArrive s l h payload check
  else if !endAlive s k || !trainable s k then .next s
  else if reservedType h.ty || parcelCheck payload != recoverCheck h check then .next (requestReplay s k)
  else if h.ty != tyLink || msgOf payload != 1 then .next s
  else .next (helloUp s k payload strays)

/-- WIDTH_REQ. -/
def execWidthReq (l : LinkId) (h : Hdr) (payload : Parcel) (check : Word) (s : State) : Result := linkArrive s l h payload check

/-- RETRAIN_REQ. -/
def execRetrainReq (l : LinkId) (h : Hdr) (payload : Parcel) (check : Word) (s : State) : Result := linkArrive s l h payload check

/-- ACCEPT. -/
def execAccept (l : LinkId) (h : Hdr) (payload : Parcel) (check : Word) (s : State) : Result := linkArrive s l h payload check

/-- REFUSE. -/
def execRefuse (l : LinkId) (h : Hdr) (payload : Parcel) (check : Word) (s : State) : Result := linkArrive s l h payload check

/-- A lane that this endpoint sends on stays out: no spare is left. The far end learns of it by a message, which waits while the link is not UP
(R259). -/
def laneOutHere (s : State) (k i : Nat) : State :=
  let x := linkGet s k
  if decide (lanesTx s k ≤ i) || x.txOut.getLsbD i then s
  else
    let t := linkSet s k { x with
      txOut := setBit x.txOut i true, txGone := setBit x.txGone i false, txRepl := setBit x.txRepl i false
      txDue := setBit x.txDue i false, marks := x.marks.filter fun m => m != (.add, i, 0) }
    let t := enqueue t k (linkMsg t k 0 [(8, 6), (8, i)])
    if linkLive s k then
      let t := if removable x i then queueMark t k .remove i 0 else t
      linkLog t k 0x0403 (i + 65536 * widthOf (setBit x.txActive i false))
    else
      let left := upTo (maxW s k) (maskOf (lanesTx s k) &&& ~~~((linkGet t k).txOut ||| wiredOut s k true))
      linkLog (linkMod t k fun y => { y with txActive := setBit y.txActive i false }) k 0x0403 (i + 65536 * widthOf left)

/-! ## Requests of software -/

/-- QL_WIDTH_REQ. -/
def execQlWidthReq (l : LinkId) (value : Word) (s : State) : Result :=
  if endAlive s l.key then softWrite s (qlBlk l.key) fun s => .next (negoWrite s l.key value) else .next s

/-- QL_RETRAIN: QL_WIDTH_REQ with RETRAIN. -/
def execQlRetrain (l : LinkId) (value : Word) (s : State) : Result :=
  if endAlive s l.key then softWrite s (qlBlk l.key) fun s => .next (negoWrite s l.key value) else .next s

/-- The lanes of a link after its retrain: those that had been removed have trained with the others. -/
def retrainedLanes (x : LinkSt) : LinkSt :=
  { x with
    txActive := x.txActive ||| x.txGone, txGone := 0, txRepl := 0
    rxActive := x.lane.foldl (fun m e => if e.2.fatal then setBit m e.1 true else m) x.rxActive
    lane := x.lane.filterMap fun e => if e.2.fails = [] then none else some (e.1, { fails := e.2.fails }) }

/-- RETRAIN_DONE: traffic resumes with replay from EXPECT, not fresh (R261, R264). -/
def execRetrainDone (l : LinkId) (expect : BitVec 16) (s : State) : Result :=
  let k := l.key
  let x := linkGet s k
  if x.st != .train || !x.retraining || !endAlive s k then .next s
  else
    let t := linkSet s k { retrainedLanes x with st := .up, retraining := false, serving := none }
    let t := pairLog s (replayFrom (linkLog t k 0x0405 (widthOf (linkGet t k).txActive)) k expect) k
    .next (match x.nego with
      | some n => if n.retrain then endNego t k 0 else t
      | none => t)

/-- QL_SCUTTLE (R266, R267). -/
def execQlScuttle (l : LinkId) (value : Word) (reachesUp : Bool) (s : State) : Result :=
  let k := l.key
  if !endAlive s k then .next s
  else softWrite s (qlBlk k) fun s =>
    if !value.getLsbD 31 then .next (rset s ((qlBlk k).reg 0x030) value)
    else
      let s := rset s ((qlBlk k).reg 0x030) 0
      let st := (linkGet s k).st
      if reachesUp || (st != .train && st != .down) then .next (logCapture s ((qlBlk k).reg 0x034) 1)
      else .next (logCapture (scuttle s k) ((qlBlk k).reg 0x034) 0)

/-! ## States (R263) -/

/-- LINK_SILENT_TIMEOUT: 100 µs with every active lane fatal. -/
def execLinkSilentTimeout (l : LinkId) (s : State) : Result :=
  match (linkGet s l.key).silentAt with
  | none => .next s
  | some t => if linkLive s l.key && decide (t + 100000 ≤ s.now) then .next (linkDown s l.key) else .next s

/-- LINK_TRAIN_RETRY: the lanes of a DOWN link try again, every 100 µs. -/
def execLinkTrainRetry (l : LinkId) (s : State) : Result :=
  let x := linkGet s l.key
  if x.st == .down && trainable s l.key && linkExists s l.key && endAlive s l.key && decide (x.triedAt + 100000 ≤ s.now) then
    .next (trainLink s l.key)
  else .next s

/-! ## Neighbour pairs (R281) -/

/-- Ordered pairs of base dies. -/
def orderedPairs : List (Nat × Nat) :=
  (List.range 6).flatMap fun x => ((List.range 6).filter fun y => x != y).map fun y => (x, y)

/-- The selected path of an ordered pair, and its other path. -/
def selectedPath (s : State) (x y : Nat) : List Nat := pathOf x y (pathBit s x y)
def otherPath (s : State) (x y : Nat) : List Nat := pathOf x y (!pathBit s x y)

/-- A path crosses a neighbour pair, in either direction. -/
def crosses (p : List Nat) (a b : Nat) : Bool := (hops p).any fun h => h == (a, b) || h == (b, a)

/-- Move an ordered pair whose selected path crosses the pair that is down, where the other path is UP. -/
def movePair (a b : Nat) (s : State) (x : Nat × Nat) : State :=
  let key := x.1 * 6 + x.2
  if s.hm.moved.contains key || !crosses (selectedPath s x.1 x.2) a b || !pathUp s (otherPath s x.1 x.2) then s
  else
    let s := { s with hm := { s.hm with moved := key :: s.hm.moved } }
    let s := cntAdd (cntAdd s (blkHM.reg 0x2CC) 1) ((blkQN x.1).reg 0x0B0) 1
    logRecord s 0x0504 0 0 (slotQ x.1 + 256 * slotQ x.2) 0 0

/-- Return a moved ordered pair to its selected path. -/
def returnPair (a b : Nat) (s : State) (x : Nat × Nat) : State :=
  let key := x.1 * 6 + x.2
  if !s.hm.moved.contains key || !crosses (selectedPath s x.1 x.2) a b || !pathUp s (selectedPath s x.1 x.2) then s
  else
    let s := { s with hm := { s.hm with moved := s.hm.moved.erase key } }
    let s := cntAdd s ((blkQN x.1).reg 0x0B4) 1
    logRecord s 0x0505 0 0 (slotQ x.1 + 256 * slotQ x.2) 0 0

/-- PAIR_REROUTE. -/
def execPairReroute (a b : Fin 6) (s : State) : Result :=
  if (edgeTo a.val b.val).isNone || pairIsUp s a.val b.val then .next s
  else .next (orderedPairs.foldl (movePair a.val b.val) s)

/-- PAIR_RETURN: the pair has been UP for 1 ms. -/
def execPairReturn (a b : Fin 6) (s : State) : Result :=
  let t := tget s.hm.pairUp (min a.val b.val * 6 + max a.val b.val) 0
  if (edgeTo a.val b.val).isNone then .next s
  else if pairIsUp s a.val b.val && decide (t + 1000000 ≤ s.now) then .next (orderedPairs.foldl (returnPair a.val b.val) s) else .next s

end Sys2Proof.Machine
end

