-- ==== Sys2Proof/Machine/Records.lean ====
section
/-! DEFINITION. Records in the module NOR, and the calibration values in use (R352–R357, R433). -/

namespace Sys2Proof.Machine

/-- ID_DEVICE. -/
def deviceId (s : State) : Nat := (rget64 s ((blkID 0).reg 0x018)).toNat

/-! ## The format (R353) -/

/-- MAGIC of a calibration record, "QCAL", and of an installation record, "QINS". -/
def calMagic : Nat := 0x4C414351
def instMagic : Nat := 0x534E4951

/-- The bytes of a record. -/
def recordBytes (magic ty slot copy gen dev : Nat) (body : List Byte) : List Byte :=
  let l := natToBytes 4 magic ++ natToBytes 2 ty ++ natToBytes 1 slot ++ natToBytes 1 copy ++ natToBytes 4 gen ++
    natToBytes 4 body.length ++ natToBytes 8 dev ++ body
  l ++ natToBytes 4 (crc32 l).toNat

/-- GEN and BODY. -/
def recordGen (b : List Byte) : Nat := le b 0x08 4
def recordBody (b : List Byte) : List Byte := (b.drop 0x18).take (le b 0x0C 4)

/-- CHECK is right. -/
def recordCheck (b : List Byte) : Bool :=
  let n := le b 0x0C 4
  decide (n + 0x1C ≤ b.length) && le b (0x18 + n) 4 == (crc32 (b.take (0x18 + n))).toNat

/-- A copy is valid when its MAGIC, COPY, DEVICE_ID and CHECK are correct (R354). -/
def recordValid (magic copy dev : Nat) (b : List Byte) : Bool :=
  le b 0x00 4 == magic && le b 0x07 1 == copy && le b 0x10 8 == dev && recordCheck b

/-- Of two copies, the one in use: the newer of two valid ones, copy 0 where their GENs are equal (R354). -/
def newerCopy (va vb : Bool) (ga gb : Word) : Option Nat :=
  let d := (gb - ga).toNat
  if va && vb then some (if 1 ≤ d ∧ d < 2 ^ 31 then 1 else 0)
  else if va then some 0
  else if vb then some 1 else none

/-! ## Calibration records (R352) -/

/-- The dies that a record type belongs to. -/
def calDies (ty slot : Nat) : Bool :=
  match ty, dieType slot with
  | 1, some 3 | 2, some 3 | 3, some 4 | 4, some 4 | 5, some 0 | 5, some 1 | 5, some 3 | 6, some 1 | 7, some 0 | 7, some 1
  | 8, some 0 | 9, some 3 => true
  | _, _ => false

def calKey (ty slot : Nat) : Nat := ty * 41 + slot

def calGet (s : State) (ty slot copy : Nat) : CalCopy := tget s.nor.copy (calKey ty slot * 2 + copy) {}
def calSet (s : State) (ty slot copy : Nat) (v : CalCopy) : State :=
  { s with nor := { s.nor with copy := tset s.nor.copy (calKey ty slot * 2 + copy) v {} } }

def CalCopy.valid (c : CalCopy) (dev copy : Nat) : Bool := match c.bytes with
  | none => true
  | some b => recordValid calMagic copy dev b

def CalCopy.gen (c : CalCopy) : Word := match c.bytes with
  | none => 0
  | some b => BitVec.ofNat 32 (recordGen b)

/-- The type-specific values of BODY: a word for the number of a value and a word for the value, as far as firmware has written them
(DESIGN CHOICE: R352 states no layout). -/
def calBody (l : List (Nat × Int)) : List Byte := l.flatMap fun e => natToBytes 4 e.1 ++ natToBytes 4 (BitVec.ofInt 32 e.2).toNat

/-- A value as BODY holds it: trims, offsets and received powers are signed. -/
def calWord (ty : Nat) (w : Word) : Int := if 7 ≤ ty then w.toInt else w.toNat

/-- The values of a BODY of `n` pairs. -/
def calPairs (ty : Nat) : Nat → List Byte → List (Nat × Int)
  | 0, _ => []
  | n + 1, b => (le b 0 4, calWord ty (BitVec.ofNat 32 (le b 4 4))) :: calPairs ty n (b.drop 8)

def CalCopy.pairs (c : CalCopy) (ty : Nat) : List (Nat × Int) := match c.bytes with
  | none => []
  | some b => calPairs ty ((recordBody b).length / 8) (recordBody b)

/-! ## Values in use (R354–R357) -/

/-- The key of value `k` of a record. -/
def calNum (ty slot k : Nat) : Nat := calKey ty slot * 2 ^ 32 + k

/-- What a value is that no record gives: the device's own, or, where no copy was valid at start-up, what was measured afresh; trims and
offsets then take their built-in defaults (R354). -/
def calOwn (s : State) (ty slot k : Nat) : Int := match tget s.cal.fresh (calKey ty slot) none with
  | none => Config.calibrated ty slot k
  | some m => if ty = 7 ∨ ty = 8 then Config.calDefault ty slot k else Config.calFresh m ty slot k

/-- A value as it stands. -/
def calValue (s : State) (ty slot k : Nat) : Int := match tget s.cal.use (calNum ty slot k) none with
  | some v => v.now
  | none => calOwn s ty slot k

/-- A value moves towards a target (R357). -/
def calMove (s : State) (ty slot k : Nat) (target : Int) : State :=
  { s with cal := { s.cal with use := tput s.cal.use (calNum ty slot k) (some ⟨calValue s ty slot k, target⟩) } }

/-- Values of a record that something has given, with their targets. -/
def calTargets (s : State) (ty slot : Nat) : List (Nat × Int) :=
  s.cal.use.filterMap fun e => if e.1 / 2 ^ 32 = calKey ty slot then e.2.map fun v => (e.1 % 2 ^ 32, v.target) else none

/-- The values of a pair are loaded whole from its copy in use; with none, they are measured afresh (R354, R356). A pair without a copy in
use is written in copy 0. -/
def calLoad (s : State) (readable : Bool) (ty slot : Nat) : State :=
  let dev := deviceId s
  let a := calGet s ty slot 0
  let b := calGet s ty slot 1
  match newerCopy (readable && a.valid dev 0) (readable && b.valid dev 1) a.gen b.gen with
  | some c =>
    let l := (calGet s ty slot c).pairs ty
    { s with cal := { s.cal with
        inUse := tset s.cal.inUse (calKey ty slot) c 0
        use := l.foldl (fun m e => tput m (calNum ty slot e.1) (some ⟨e.2, e.2⟩)) s.cal.use } }
  | none =>
    let s' := s.takeFree
    { s' with cal := { s'.cal with
        inUse := tset s.cal.inUse (calKey ty slot) 1 0, fresh := tput s.cal.fresh (calKey ty slot) (some s.freeCtr) } }

/-- A value of a die is still moving (OE_CAL_PENDING counts those of an engine). -/
def calMoving (slot : Nat) (e : Nat × Option CalVal) : Bool := e.1 / 2 ^ 32 % 41 == slot && (match e.2 with
  | some v => v.now != v.target
  | none => false)

/-- One millisecond of a value under correction: 1/16 of what remains, or one step where that is larger. -/
def CalVal.stepped (v : CalVal) : CalVal :=
  let d := v.target - v.now
  if d = 0 then v
  else if d.natAbs < 16 then { v with now := v.now + d.sign }
  else { v with now := v.now + d.tdiv 16 }

end Sys2Proof.Machine
end

