-- ==== Sys2Proof/Machine/OpticOps.lean ====
section
/-! DEFINITION. Optical engines: places, slots, rings and which lane uses which (R305–R313, R321–R326, R329–R338). -/

namespace Sys2Proof.Machine

def oeGet (s : State) (n : Nat) : OeSt := tget s.oe n {}
def oeSet (s : State) (n : Nat) (x : OeSt) : State := { s with oe := tset s.oe n x {} }
def oeMod (s : State) (n : Nat) (f : OeSt → OeSt) : State := oeSet s n (f (oeGet s n))

/-- The engine's die is UP. -/
def oeUp (s : State) (n : Nat) : Bool := dieState s (slotOE n) == .up

/-- The engine's die runs: it is UP, or rejoins and locks its rings (R289, R332). -/
def oeRuns (s : State) (n : Nat) : Bool := oeUp s n || dieState s (slotOE n) == .rejoining

/-- Endpoints of an engine's optical links. -/
def engineKeys (n : Nat) : List Nat := (List.range 16).map fun d => opticKey n d

/-! ## Lanes -/

/-- The endpoint and the logical lane that electrical lane `e` of an engine carries (R233). -/
def laneLink (s : State) (n e : Nat) : Option (Nat × Nat) :=
  match effChart s with
  | none => none
  | some c =>
    let d := laneDest c n (laneRec c n e)
    match (linkLanes c n d).findIdx? fun i => i == e with
    | some i => some (opticKey n d, i)
    | none => none

/-- The electrical lane that carries a logical lane of the link to member `d`. -/
def elecLane (s : State) (n d i : Nat) : Option Nat := match effChart s with
  | some c => (linkLanes c n d)[i]?
  | none => none

/-- The lane of an engine carries traffic: it is active in its link. -/
def laneBusy (s : State) (n e : Nat) : Bool := match laneLink s n e with
  | some (k, i) => linkLive s k && ((linkGet s k).txActive.getLsbD i || (linkGet s k).rxActive.getLsbD i)
  | none => false

def placeGet (x : OeSt) (e : Nat) : TxPlace := tget x.place e {}
def placeSet (x : OeSt) (e : Nat) (p : TxPlace) : OeSt := { x with place := tset x.place e p {} }

/-- Lanes whose places are in use. -/
def enPlaces (x : OeSt) : List (Nat × TxPlace) := x.place.filter fun e => e.2.en

def slotCount : Nat := 272

/-- The enabled lane that uses a slot. -/
def slotLane (x : OeSt) (slot : Nat) : Option Nat := ((enPlaces x).find? fun e => e.2.slot == slot).map fun e => e.1

/-- A place on the transmit side is free. -/
def placeFree (x : OeSt) (f k : Nat) : Bool := (enPlaces x).all fun e => !(e.2.fibre == f && e.2.line == k)

/-! ## Steering (R312) -/

/-- The steering of an electrical lane that is enabled follows the identities seen, of the place lit most recently first. -/
def steerFrom (s : State) (n : Nat) (x : OeSt) : OeSt :=
  { x with steer := x.ident.reverse.foldl (fun m i => match elecLane s n i.2.1 i.2.2 with
      | some e => tput m e (i.1 + 1)
      | none => m) [] }

/-- Put a place's identity among those seen. Of two places lit at the same moment the one identified last stands first (DESIGN CHOICE: R312 steers
to the place lit more recently). -/
def insertIdent (x : OeSt) (i : Nat × Nat × Nat) : List (Nat × Nat × Nat) → List (Nat × Nat × Nat)
  | [] => [i]
  | j :: r => if (tget x.rx i.1 {}).litAt < (tget x.rx j.1 {}).litAt then j :: insertIdent x i r else i :: j :: r

/-! ## Rings (R329, R360) -/

def ringGet (x : OeSt) (r : Nat) : RingSt := tget x.ring r {}
def ringSet (x : OeSt) (r : Nat) (v : RingSt) : OeSt := { x with ring := tset x.ring r v {} }
def ringMod (s : State) (n r : Nat) (f : RingSt → RingSt) : State := oeMod s n fun x => ringSet x r (f (ringGet x r))

/-- A slot may take a line: it is free, no slot of its feeder drops that line, and none of its rings for it has been given up (R307, R322: a
move leaves a faulty slot behind). -/
def slotTakes (x : OeSt) (slot line : Nat) : Bool :=
  ((enPlaces x).all fun e => e.2.slot != slot && !(e.2.slot / 16 == slot / 16 && e.2.line == line)) &&
    [18 * slot + line, 4896 + slot, 10404 + slot].all fun r => (ringGet x r).st != .givenUp

/-- The lowest-numbered slot that may take a line, on feeder `want` first. -/
def freeSlot (x : OeSt) (line : Nat) (want : Option Nat) : Option Nat :=
  let first := match want with
    | some f => (List.range 16).map fun j => f * 16 + j
    | none => []
  (first ++ List.range slotCount).find? fun j => slotTakes x j line

/-! ## Calibration values and thermal feed-forward (R339, R340, R357) -/

/-- The number of coefficient `w` of a group of 16 rings and a compute die. -/
def coupKey (g c w : Nat) : Nat := (g * 12 + c) * 3 + w

/-- A coefficient of the coupling record as it stands. -/
def coupVal (s : State) (n g c w : Nat) : Nat := (calValue s 2 (slotOE n) (coupKey g c w)).toNat

/-- The compute dies on an engine's own base die. -/
def ownDie (n c : Nat) : Bool := (engineHome n).1 == c / 2

/-- κ in millionths and τ in ns, within the bounds of R339. -/
def kappaOf (s : State) (n g c : Nat) : Nat := min (coupVal s n g c 0) (if ownDie n c then 60000 else 20000)
def tauOf (s : State) (n g c : Nat) : Nat :=
  if ownDie n c then max 150000 (min 400000 (coupVal s n g c 1)) else max 1 (coupVal s n g c 1)

/-- The predicted shift of a ring, in fixed-point GHz, `t` ns after F: −14 · Σ κ · ΔT · (1 − e^(−t/τ)) (R339). -/
def predictedShift (s : State) (n r : Nat) (steps : List (Nat × Nat)) (t : Nat) : Int :=
  let g := r / 16
  let part (c w : Nat) : Nat :=
    kappaOf s n g c * (w * coupVal s n g c 2) * (fixOne - expNeg (t * fixOne / tauOf s n g c)) / 1000000000
  Int.negOfNat (14 * (steps.map fun e => part e.1 e.2).sum)

/-- What the loaded profiles add to a ring's heater now, in codes of which 4,096 are 80 GHz (R329, R340). A profile ends when one is
loaded after its launch (DESIGN CHOICE). -/
def feedForward (s : State) (n r : Nat) : Nat :=
  let tide := s.tide.hub.toNat
  ((oeGet s n).profiles.map fun p => if p.fire.toNat ≤ tide
    then ((-(predictedShift s n r p.steps (tide - p.fire.toNat))) * 512 / (10 * (fixOne : Int))).toNat else 0).sum

/-! ## Which rings a place uses (R360) -/

/-- Ring classes: line-select, modulator, fibre-select, receive-drop, monitor. -/
def ringClass (r : Nat) : Nat := if r < 4896 then 0 else if r < 5168 then 1 else if r < 9792 then 2 else if r < 10098 then 3 else 4

/-- The rings that a transmit place uses: its line-select, modulator and fibre-select rings and the monitor rings of its
feeder line, slot and fibre. -/
def placeRings (p : TxPlace) : List Nat :=
  [18 * p.slot + p.line, 4896 + p.slot, 5168 + 17 * p.slot + p.fibre, 10098 + 18 * (p.slot / 16) + p.line, 10404 + p.slot,
   10676 + p.fibre]

/-- The rings of a receive place: its drop ring and its monitor ring. -/
def rxRings (place : Nat) : List Nat := [9792 + place, 10693 + place]

/-- The receive place of a ring, if it is one of a receive place. -/
def ringRx (r : Nat) : Option Nat := if 9792 ≤ r ∧ r < 10098 then some (r - 9792) else if 10693 ≤ r then some (r - 10693) else none

/-- The electrical lane that a ring serves. -/
def ringLane (x : OeSt) (r : Nat) : Option Nat :=
  match ringRx r with
  | some p => (x.steer.find? fun e => e.2 == p + 1).map fun e => e.1
  | none => ((enPlaces x).find? fun e => (placeRings e.2).contains r).map fun e => e.1

/-- A ring's own line. -/
def ringLine (x : OeSt) (r : Nat) : Option Nat :=
  match ringClass r with
  | 0 => some (r % 18)
  | 3 => some ((r - 9792) % 18)
  | _ =>
    if 10693 ≤ r then some ((r - 10693) % 18)
    else if 10098 ≤ r ∧ r < 10404 then some ((r - 10098) % 18)
    else (ringLane x r).map fun e => (placeGet x e).line

/-- A ring is needed by some place in use. -/
def ringNeeded (x : OeSt) (r : Nat) : Bool := (ringRx r).isSome || (ringLane x r).isSome

/-- Codes between two comb lines, and half of it. -/
def lineCodes : Int := 20480

/-- OE_HEATER_LIMIT. -/
def heaterLimit (s : State) (n : Nat) : Nat := (field (cfg s (blkOE n) 0x104) 0 16).toNat

/-- The lock code of the ring's heater table now: value 2r of the record; value 2r + 1 is its setpoint (R345, R352). -/
def tableCode (s : State) (n r : Nat) : Int := calValue s 1 (slotOE n) (2 * r)

/-- A park point, clamped to the heater's reach: below the lock code for a downward sweep, above it for an upward one
(R332, R337). -/
def parkCode (s : State) (n r : Nat) (v : RingSt) (up : Bool) : BitVec 16 :=
  let lock := v.implied.getD (tableCode s n r)
  let c := if up then lock + lineCodes / 2 else lock - lineCodes / 2
  BitVec.ofInt 16 (max 0 (min (heaterLimit s n) c))

/-- A ring enters a state. -/
def ringEnter (s : State) (n r : Nat) (m : RingMode) (f : RingSt → RingSt) : State :=
  ringMod s n r fun v => { f v with st := m, since := s.now, recheck := none }

/-- A ring sweeps from a park point. -/
def sweepRing (s : State) (n r : Nat) (up : Bool) : State :=
  let h := parkCode s n r (ringGet (oeGet s n) r) up
  ringEnter s n r .sweep fun v => { v with up := up, heater := h, err := 0 }

/-- A ring stands at its park point. -/
def toPark (s : State) (n r : Nat) : State :=
  let h := parkCode s n r (ringGet (oeGet s n) r) false
  ringEnter s n r .parked fun v => { v with heater := h, err := 0 }

/-- A ring in use returns to PARKED. Its failures count anew when it leaves it (R336). -/
def parkRing (s : State) (n r : Nat) : State :=
  let m := (ringGet (oeGet s n) r).st
  if m == .unused || m == .givenUp then s else toPark (ringMod s n r fun v => { v with fails := 0 }) n r

/-- A ring's place is brought into use: it leaves PARKED, or stays there while its place has no light (R332, R359). One that has been given up
stays so. -/
def startRing (s : State) (n r : Nat) : State :=
  let x := oeGet s n
  let m := (ringGet x r).st
  if m != .unused && m != .parked then s
  else
    let s := ringMod s n r fun v => { v with fails := 0 }
    if x.dark && (ringRx r).isNone then toPark s n r else sweepRing s n r false

/-- Rings that no place needs any longer go dark. -/
def releaseRings (s : State) (n : Nat) (l : List Nat) : State :=
  oeMod s n fun x => l.foldl (fun x r => if ringNeeded x r || (ringGet x r).st == .givenUp then x else ringSet x r {}) x

/-- Rings that the places of a new chart do not need park (R359). -/
def parkUnneeded (s : State) (n : Nat) (l : List Nat) : State :=
  l.foldl (fun t r => if ringNeeded (oeGet t n) r then t else parkRing t n r) s

/-- A record of an engine (R362). -/
def oeLog (s : State) (n kind detail ring : Nat) : State := logRecord s kind (slotOE n) n detail ring 0

/-! ## Places (R322) -/

/-- The charted place of an electrical lane (R213). -/
def charted (s : State) (n e : Nat) : Nat × Nat := match effChart s with
  | some c => let r := laneRec c n e; ((field r 0 4).toNat, (field r 4 4).toNat)
  | none => (0, 0)

/-- The candidates of R322 for a charted place, in order. -/
def candidates (spare : Bool) (f k : Nat) : List (Nat × Nat) :=
  (if k < 2 then [(f, k + 16)] else []) ++ (if spare then [(16, k)] else []) ++ (if k < 2 ∧ spare then [(16, k + 16)] else [])

/-- What is left of the candidates after the place a lane stands on now. -/
def candidatesLeft (l : List (Nat × Nat)) (p : TxPlace) : List (Nat × Nat) :=
  if l.contains (p.fibre, p.line) then (l.dropWhile fun c => c != (p.fibre, p.line)).tail else l

/-- OE_CFG.SPARE_FIBRE. -/
def spareFibre (s : State) (n : Nat) : Bool := (cfg s (blkOE n) 0x010).getLsbD 0

/-- A free slot other than the one that lane `e` leaves, for a line (R322). -/
def newSlot (x : OeSt) (e k : Nat) : Option Nat :=
  let y := { x with place := x.place.filter fun p => p.1 != e }
  (List.range slotCount).find? fun j => j != (placeGet x e).slot && slotTakes y j k

/-- Where lane `e` moves: the first free candidate that none of `taken` is, and a free slot for it. From a bad fibre it moves to
fibre 16 (R319). -/
def movePlace (s : State) (n e cause : Nat) (taken : List (Nat × Nat)) : Option TxPlace :=
  let x := oeGet s n
  let p := placeGet x e
  let fk := charted s n e
  let l := (candidatesLeft (candidates (spareFibre s n) fk.1 fk.2) p).filter fun c =>
    placeFree x c.1 c.2 && !taken.contains c && (cause != 2 || c.1 == 16)
  match l with
  | [] => none
  | (f, k) :: _ => (newSlot x e k).map fun j =>
      { fibre := f, line := k, slot := j, en := true, subst := true, moving := true, home := fk }

/-- A weight-bank reading ends for foreground (R343). -/
def dropReading (s : State) (n : Nat) : State :=
  match (oeGet s n).wb with
  | none => s
  | some _ =>
    let s := oeMod s n fun x => { x with wb := none }
    let s := rset s ((blkOE n).reg 0x130) 0
    let s := (List.range 18).foldl (fun t j => rset t ((blkOE n).reg (0x140 + 4 * j)) 0) s
    logCapture s ((blkOE n).reg 0x134) 2

/-- Take a lane's new place: its old rings go dark and those of the new place lock (R323). -/
def takePlace (s : State) (n e : Nat) (q : TxPlace) : State :=
  let x := oeGet s n
  let p := placeGet x e
  let s := match x.wb with
    | some w => if w.slot = q.slot then dropReading s n else s
    | none => s
  let s := oeMod s n fun x => placeSet x e { q with darkAt := if x.dark || inSafe s (blkOE n) then some s.now else none }
  let s := releaseRings s n (if p.en then placeRings p else [])
  (placeRings q).foldl (fun t r => startRing t n r) s

/-- No spare is left for a lane that this endpoint sends on: it stays out, which an engine counts (R259, R322). -/
def leftOut (s : State) (k i : Nat) : State :=
  laneOutHere (match opticOf k with
    | some (n, _) => cntAdd s ((blkOE n).reg 0x02C) 1
    | none => s) k i

/-- Move a lane to a spare place, or leave it out (R322). -/
def moveLane (s : State) (n e cause : Nat) (taken : List (Nat × Nat)) : State :=
  let p := placeGet (oeGet s n) e
  match laneLink s n e with
  | none => s
  | some (k, i) =>
    match movePlace s n e cause taken with
    | none => leftOut s k i
    | some q =>
      let s := takePlace s n e q
      let s := logCapture64 (cntAdd s ((blkOE n).reg 0x028) 1) ((blkOE n).reg 0x030)
        (fields 32 [(8, e), (5, p.fibre), (5, p.line), (5, q.fibre), (5, q.line)]) (BitVec.ofNat 32 cause)
      let s := linkMod s k fun y => { y with
        txRepl := setBit y.txRepl i true, txDue := setBit y.txDue i false, retireAt := tput y.retireAt i s.now }
      linkLog s k 0x0402 i

/-- No spare is left for a retired lane: no free lane of a bundle, no place that R322 gives an optical lane. -/
def noSpare (s : State) (k i : Nat) : Bool :=
  match opticOf k, farEnd k with
  | some (n, d), _ => match elecLane s n d i with
    | some e => (movePlace s n e 0 []).isNone
    | none => true
  | none, some f => (freeSpare s f).isNone
  | none, none => true

/-- LANE_OUT: the sending endpoint has no spare for a retired lane, or the far end's message says so; both endpoints leave it
out (R259). -/
def execLaneOut (l : LinkId) (e : LaneOut) (s : State) : Result :=
  let k := l.key
  match e with
  | .here lane =>
    if linkLive s k && (linkGet s k).txDue.getLsbD lane.toNat && noSpare s k lane.toNat then .next (leftOut s k lane.toNat)
    else .next s
  | .message h payload check => linkArrive s l h payload check

/-! ## Failures of rings (R336–R338) -/

/-- Lanes whose transmit places use a ring, in order. -/
def ringUsers (x : OeSt) (r : Nat) : List Nat := ((enPlaces x).filter fun e => (placeRings e.2).contains r).map fun e => e.1

/-- The lane that a receive place carries is retired, where it is not already (R258, R322). -/
def retireReceived (s : State) (n e : Nat) : State :=
  match laneLink s n e with
  | some (k, i) => if linkLive s k && !(laneGet (linkGet s k) i).retiring then retireLane (laneGoesFatal s k i) k i else s
  | none => s

/-- A ring gives up (R336). Lanes move at once from a transmit place that used it; the lane of a receive place whose drop ring it is, is
retired (R322). -/
def giveUp (s : State) (n r kind : Nat) : State :=
  let x := oeGet s n
  let s := ringEnter s n r .givenUp fun v => { v with heater := 0, err := 0 }
  let s := oeLog (cntAdd s ((blkOE n).reg 0x110) 1) n 0x0602 (ringClass r + 256 * kind) r
  if (ringRx r).isNone then (ringUsers x r).foldl (fun t e => moveLane t n e 1 []) s
  else match ringLane x r with
    | some e => if ringClass r = 3 then retireReceived s n e else s
    | none => s

/-- A failure of a ring: 0 a check, 1 an empty sweep, 2 an unlock. The third gives it up; after an empty sweep it is PARKED, and otherwise it
sweeps again (R333, R336). -/
def ringFails (s : State) (n r kind : Nat) : State :=
  let v := ringGet (oeGet s n) r
  let s := ringMod s n r fun v => { v with fails := min 3 (v.fails + 1) }
  if 2 ≤ v.fails then giveUp s n r kind
  else if kind = 1 then toPark s n r else sweepRing s n r false

/-- A ring that carries traffic requests a lane-fatal with reason 3 (R338). -/
def ringFatal (s : State) (n r : Nat) : State :=
  match ringLane (oeGet s n) r with
  | none => s
  | some e =>
    if !laneBusy s n e then s
    else
      let s := oeLog (cntAdd s ((blkOE n).reg 0x114) 1) n 0x0603 e r
      match laneLink s n e with
      | some (k, i) => fatalLanes s.takeFree k [(i, 3)] (BitVec.ofNat 24 s.free)
      | none => s

/-- A ring has locked to the wrong line (R337). -/
def wrongLine (s : State) (n r found : Nat) : State :=
  let x := oeGet s n
  let v := ringGet x r
  match ringLine x r with
  | none => s
  | some own =>
    let implied : Int := v.heater.toNat - ((own : Int) - found) * lineCodes
    let s := calMove s 1 (slotOE n) (2 * r) (max 0 (min 0xFFFF implied))
    let s := ringMod s n r fun v => { v with implied := some implied, fails := min 3 (v.fails + 1) }
    let s := logCapture (cntAdd s ((blkOE n).reg 0x10C) 1) ((blkOE n).reg 0x118) (fields 32 [(14, r), (5, own), (5, found)])
    let s := oeLog s n 0x0601 (own + 256 * found) r
    if 2 ≤ v.fails then giveUp s n r 0 else sweepRing s n r (!v.up)

/-! ## Places at a chart load or a start (R307, R319, R325) -/

/-- Enabled lanes of an engine, by line and then by fibre (R307). -/
def sortedLanes (c : Chart) (n : Nat) : List Nat :=
  (List.range 16).flatMap fun k => (List.range 16).flatMap fun f =>
    (List.range 256).filter fun e => let r := laneRec c n e; laneEn r && field r 0 4 == BitVec.ofNat 4 f && field r 4 4 == BitVec.ofNat 4 k

/-- Fibre `f` is the only bad one. -/
def oneBad (m : BitVec 17) : Bool := popcount 17 m.toNat == 1

/-- A lane whose place is on a bad fibre goes to fibre 16 where only that fibre is bad, and otherwise stays out (R319). -/
def leaveFibre (s : State) (n e : Nat) : State :=
  let x := oeGet s n
  let f := (placeGet x e).fibre
  if !x.fibreBad.getLsbD f then s
  else if spareFibre s n && oneBad x.fibreBad && f != 16 then moveLane s n e 2 []
  else match laneLink s n e with
    | some (k, i) => laneOutHere s k i
    | none => s

/-- Place lane `e`, the `i`-th of the sorted list, unless it keeps the place, and with it the slot, that it has; where its feeder has no slot
that may take its line, another feeder's does (DESIGN CHOICE: R307 gives the assignment of a map alone). -/
def placeLane (n : Nat) (s : State) (ie : Nat × Nat) : State :=
  let x := oeGet s n
  let e := ie.2
  let fk := charted s n e
  let slot := (freeSlot x fk.2 (some (ie.1 % 17))).getD 0
  let s := if (placeGet x e).en then s
    else takePlace s n e { fibre := fk.1, line := fk.2, slot := slot, en := true, home := fk }
  leaveFibre s n e

/-- A chart keeps the place that the last map gave a lane (R325). -/
def keepsPlace (c : Chart) (n : Nat) (e : Nat × TxPlace) : Bool :=
  let r := laneRec c n e.1
  e.2.en && laneEn r && e.2.home == ((field r 0 4).toNat, (field r 4 4).toNat)

/-- Lanes whose charted place changes give up their places. A receive place is steered to an enabled lane only (R308). -/
def dropPlaces (s : State) (c : Chart) (n : Nat) : State :=
  let x := oeGet s n
  let gone := x.place.filter fun p => p.2.en && !keepsPlace c n p
  let s := oeSet s n (steerFrom s n { x with place := x.place.filter (keepsPlace c n) })
  parkUnneeded s n (gone.flatMap fun p => placeRings p.2)

/-- The receive-drop rings of an engine that has enabled places look for light (R312, R332, R333). -/
def startReceive (s : State) (n : Nat) : State :=
  if (enPlaces (oeGet s n)).isEmpty then s else (List.range 306).foldl (fun t p => startRing t n (9792 + p)) s

/-- The places of an engine follow the map in force. Lanes whose charted place is kept keep their place and their
substitution. -/
def placeLanes (s : State) (n : Nat) : State :=
  match effChart s with
  | none => s
  | some c =>
    let s := dropPlaces s c n
    let l := sortedLanes c n
    startReceive (((List.range l.length).zip l).foldl (placeLane n) s) n

/-- Every ring of an engine's places starts: the engine rejoins (R289, R332). -/
def startRings (s : State) (n : Nat) : State :=
  startReceive (((enPlaces (oeGet s n)).flatMap fun p => placeRings p.2).foldl (fun t r => startRing t n r) s) n

/-- Every ring of an engine's transmit places has locked or has been given up, or the engine has no light. -/
def ringsSettled (s : State) (n : Nat) : Bool :=
  let x := oeGet s n
  x.dark || ((enPlaces x).flatMap fun p => placeRings p.2).all fun r =>
    (ringGet x r).st == .locked || (ringGet x r).st == .givenUp

/-! ## Light (R334, R359) -/

/-- The light of some rings goes: what is under way is abandoned without a failure, and locked rings hold their code and drop their repeated
check (R334, R359). -/
def dimRings (s : State) (n : Nat) (l : List Nat) : State :=
  l.foldl (fun t r =>
    let v := ringGet (oeGet t n) r
    if v.st == .sweep || v.st == .acquire || v.st == .check then parkRing t n r
    else if v.st == .locked then ringMod t n r fun v => { v with recheck := none } else t) s

/-- Light has returned: the parked rings of a list start, and every locked ring of the engine repeats its identity check (R334). -/
def lightBack (s : State) (n : Nat) (l : List Nat) : State :=
  let s := l.foldl (fun t r => startRing t n r) s
  oeMod s n fun x => { x with ring := tmap x.ring {} fun _ v => if v.st = .locked then { v with recheck := some s.now } else v }

/-- The rings of every transmit place. -/
def txRings (x : OeSt) : List Nat := ((enPlaces x).flatMap fun e => placeRings e.2).dedup

/-- The transmit places of an engine are dark from now on. -/
def darkTx (s : State) (n : Nat) : State :=
  let s := oeMod s n fun x => { x with
    place := tmap x.place {} fun _ p => if p.en then { p with darkAt := p.darkAt.orElse fun _ => some s.now } else p }
  dimRings s n (txRings (oeGet s n))

/-- They are dark for want of a laser side. -/
def darkPlaces (s : State) (n : Nat) : State := darkTx (oeMod s n fun x => { x with dark := true }) n

/-- They have light again, unless the engine's safe state keeps them dark (R466). -/
def lightPlaces (s : State) (n : Nat) : State :=
  if inSafe s (blkOE n) then oeMod s n fun x => { x with dark := false }
  else
  let s := oeMod s n fun x => { x with dark := false, place := tmap x.place {} fun _ p => { p with darkAt := none } }
  lightBack s n (txRings (oeGet s n))

end Sys2Proof.Machine
end

