-- ==== Sys2Proof/Machine/Optic.lean ====
section
/-! DEFINITION. Commands of the optical engines: steering, moves, home-line test, rings, forecasts, weight-bank readings and
calibration (R312, R319, R322, R323, R329–R345, R352–R358). -/

namespace Sys2Proof.Machine

/-! ## Receive places (R312) -/

/-- An identity that no electrical lane of the engine may take. -/
def badIdentity (s : State) (n dev engine lane : Nat) : Bool :=
  engine != n || dev == ownDev s || (elecLane s n dev lane).isNone

/-- RECEIVE_PLACE_STEER: a lit place is steered to its lane, or recorded as not joined (kind 0x040A). -/
def execReceivePlaceSteer (n : Fin 8) (place : Fin 306) (dev : BitVec 4) (engine : Fin 8) (lane : Byte) (s : State) : Result :=
  if !oeUp s n.val || !(tget (oeGet s n.val).rx place.val {}).lit then .next s
  else if badIdentity s n.val dev.toNat engine.val lane.toNat then
    let s := oeMod s n.val fun x => steerFrom s n.val { x with ident := x.ident.filter fun i => i.1 != place.val }
    .next (linkLog s.takeFree (opticKey n.val dev.toNat) 0x040A (lane.toNat + 256 * (s.free % 16)))
  else
    let k := opticKey n.val dev.toNat
    let s := if (laneGet (linkGet s k) lane.toNat).retiring then laneMod s k lane.toNat fun z => { z with retiring := false, since := s.now } else s
    .next (oeMod s n.val fun x =>
      steerFrom s n.val { x with ident := insertIdent x (place.val, dev.toNat, lane.toNat) (x.ident.filter fun i => i.1 != place.val) })

/-! ## Moves (R322, R323) -/

/-- A ring of a lane's transmit place has been given up. -/
def ringLost (x : OeSt) (e : Nat) : Bool := (placeRings (placeGet x e)).any fun r => (ringGet x r).st == .givenUp

/-- What calls for a move of lane `e` for a cause of OE_SUBST_FIRST: its retirement, or a ring given up (R322). A fibre that fails the
home-line test moves its lanes at the next chart load only (R319). -/
def moveDue (s : State) (n e : Nat) (ring : Bool) : Bool :=
  let x := oeGet s n
  (placeGet x e).en && match laneLink s n e with
    | some (k, i) => if ring then ringLost x e && !(linkGet s k).txOut.getLsbD i else (linkGet s k).txDue.getLsbD i
    | none => false

/-- The candidates that the engine's due lanes of a lower index take before lane `e` (R326). -/
def takenBelow (s : State) (n e : Nat) : List (Nat × Nat) :=
  ((enPlaces (oeGet s n)).filter fun p => decide (p.1 < e) && (moveDue s n p.1 false || moveDue s n p.1 true)).foldl
    (fun l p => match movePlace s n p.1 0 l with
      | some q => (q.fibre, q.line) :: l
      | none => l) []

/-- PLACE_MOVE. -/
def execPlaceMove (n : Fin 8) (lane : Byte) (ring : Bool) (s : State) : Result :=
  let e := lane.toNat
  if oeUp s n.val && moveDue s n.val e ring then .next (moveLane s n.val e ring.toNat (takenBelow s n.val e)) else .next s

/-- TRAIN blocks start on the place of a lane that has moved (R323). -/
def trainMoved (s : State) (n e : Nat) : State :=
  match laneLink s n e with
  | some (k, i) => if linkLive s k then s.emit (.train k (setBit 0 i true) (identity s k) (ownDev s) (engineOf k)) else s
  | none => s

/-- PLACE_MOVE_DONE: the rings of the new place are locked and its tone checked; TRAIN blocks start on it. -/
def execPlaceMoveDone (n : Fin 8) (lane : Byte) (s : State) : Result :=
  let x := oeGet s n.val
  let p := placeGet x lane.toNat
  if oeUp s n.val && p.en && p.moving && (placeRings p).all fun r => (ringGet x r).st == .locked then
    .next (trainMoved (oeSet s n.val (placeSet x lane.toNat { p with moving := false })) n.val lane.toNat)
  else .next s

/-- The result of a home-line test (R319). -/
def homeTest (s : State) (n : Nat) (bad : BitVec 17) (delays : List (Fin 17 × BitVec 16)) : State :=
  if field (cfg s (blkOE n) 0x010) 16 16 = 0 then s
  else oeMod s n fun x => { x with
    fibreBad := bad, homeDelay := delays.foldl (fun m d => tput m d.1.val (some d.2)) x.homeDelay }

/-- OE_HOME_TEST: GO runs the test; an engine without home lines runs none. -/
def execOeHomeTest (n : Fin 8) (value : Word) (bad : BitVec 17) (delays : List (Fin 17 × BitVec 16)) (s : State) : Result :=
  if !oeUp s n.val then .next s
  else softWrite s (blkOE n.val) fun s => .next (if value.getLsbD 0 then homeTest s n.val bad delays else s)

/-! ## Rings (R332–R338) -/

/-- A ring of a running engine, in one state. -/
def ringIn (s : State) (n r : Nat) (m : RingMode) : Bool := oeRuns s n && (ringGet (oeGet s n) r).st == m

/-- RING_SWEEP_DONE: a line is found at a heater code, or none within reach, where a code above OE_HEATER_LIMIT is not; a receive-drop ring then
sees no light (R333, R337). -/
def execRingSweepDone (n : Fin 8) (ring : Fin 10999) (found : Option (BitVec 16)) (s : State) : Result :=
  if !ringIn s n.val ring.val .sweep then .next s
  else match found.filter fun c => decide (c.toNat ≤ heaterLimit s n.val) with
  | some code => .next (ringEnter s n.val ring.val .acquire fun v => { v with heater := code })
  | none => .next (if ringClass ring.val = 3 then parkRing s n.val ring.val else ringFails s n.val ring.val 1)

/-- RING_SWEEP_RETRY: a receive-drop ring that found no light, 1 ms after it parked; a ring of another class whose empty sweep was a failure,
which keeps its count (R333, R336). -/
def execRingSweepRetry (n : Fin 8) (ring : Fin 10999) (s : State) : Result :=
  let v := ringGet (oeGet s n.val) ring.val
  if !ringIn s n.val ring.val .parked then .next s
  else if ringClass ring.val = 3 then .next (if s.now < v.since + 1000000 then s else startRing s n.val ring.val)
  else .next (if v.fails = 0 then s else sweepRing s n.val ring.val false)

/-- OE_LOCKERR_MAX follows the largest error seen on a ring that carries traffic (R341). -/
def noteError (s : State) (n r : Nat) (err : Byte) : State :=
  let busy := match ringLane (oeGet s n) r with
    | some e => laneBusy s n e
    | none => false
  let b := (blkOE n).reg 0x124
  if busy && decide ((field (rget s b) 0 8).toInt.natAbs < err.toInt.natAbs) then rset s b (fields 32 [(8, err.toNat), (14, r)])
  else s

/-- A ring's loop stands at a heater code with an error (R331, R360). -/
def loopAt (s : State) (n r : Nat) (code : BitVec 16) (err : Byte) : State :=
  noteError (ringMod s n r fun v => { v with heater := code, err := err }) n r err

/-- RING_ACQUIRED: the loop has pulled the ring onto its setpoint and its check begins. A setpoint above OE_HEATER_LIMIT is out of reach: the
acquisition fails like a sweep that finds no line (DESIGN CHOICE; R332, R338). -/
def execRingAcquired (n : Fin 8) (ring : Fin 10999) (code : BitVec 16) (err : Byte) (s : State) : Result :=
  if !ringIn s n.val ring.val .acquire then .next s
  else if heaterLimit s n.val < code.toNat then .next (ringFails s n.val ring.val 1)
  else .next (ringEnter (loopAt s n.val ring.val code err) n.val ring.val .check id)

/-! ### Identity checks (R335–R337) -/

/-- Classes whose check can find a different line (R337). What another class finds wrong is a failed check. -/
def tellsLines (r : Nat) : Bool := ringClass r == 0 || ringClass r == 3 || ringClass r == 4

/-- The level of tone `k` in 0.01 dB; one that a correlation does not give is as low as can be. -/
def toneAt (l : List (BitVec 16)) (k : Nat) : Int := (l.getD k (BitVec.intMin 16)).toInt

/-- The strongest tone, the lowest-numbered of equals. -/
def strongest (l : List (BitVec 16)) : Nat := (List.range 18).foldl (fun m k => if toneAt l m < toneAt l k then k else m) 0

/-- The strongest tone exceeds every other by at least 10 dB. -/
def standsOut (l : List (BitVec 16)) : Bool :=
  let m := strongest l
  (List.range 18).all fun k => k == m || decide (toneAt l k + 1000 ≤ toneAt l m)

/-- A tone lies within so many hundredths of a dB of the ring's calibrated level. -/
def nearLevel (n r : Nat) (l : List (BitVec 16)) (k limit : Nat) : Bool :=
  decide ((toneAt l k - (Config.toneLevel n r).toInt).natAbs ≤ limit)

/-- What an identity check finds. -/
inductive RingVerdict where
  | passed
  | wrongLine (found : Nat)
  | failed
  deriving DecidableEq, Repr

/-- The condition of a ring's class (R336). A line-select, receive-drop or monitor ring finds a different line when that line's tone stands
out as its own would have to (DESIGN CHOICE: R337 does not say by how much). -/
def ringVerdict (x : OeSt) (n r : Nat) (l : List (BitVec 16)) : RingVerdict :=
  match ringLine x r with
  | none => .failed
  | some own =>
    if tellsLines r then
      if !standsOut l then .failed
      else if strongest l ≠ own then .wrongLine (strongest l)
      else if nearLevel n r l own 600 then .passed else .failed
    else if nearLevel n r l own (if ringClass r = 1 then 100 else 300) then .passed else .failed

/-- Every lit place that a ring serves has lost its light. -/
def ringDark (x : OeSt) (r : Nat) : Bool := match ringRx r with
  | some p => (tget x.rx p {}).darkAt.isSome
  | none => !(ringUsers x r).isEmpty && (ringUsers x r).all fun e => (placeGet x e).darkAt.isSome

/-- A correlation takes this long (R336). -/
def checkTime : Nat := 100000

/-- RING_IDENTITY_CHECK. -/
def execRingIdentityCheck (n : Fin 8) (ring : Fin 10999) (tones : List (BitVec 16)) (s : State) : Result :=
  let x := oeGet s n.val
  if !ringIn s n.val ring.val .check || decide (s.now < (ringGet x ring.val).since + checkTime) then .next s
  else match ringVerdict x n.val ring.val tones with
  | .passed =>
    .next (cntAdd (ringEnter s n.val ring.val .locked fun v => { v with checkedAt := s.now }) ((blkOE n.val).reg 0x108) 1)
  | .wrongLine found => .next (wrongLine s n.val ring.val found)
  | .failed => .next (ringFails s n.val ring.val 0)

/-- A locked ring's check is due: TONE_PERIOD ms after the last, or 100 µs after light has returned (R332, R334). -/
def checkDue (s : State) (n : Nat) (v : RingSt) : Bool := match v.recheck with
  | some t => decide (t + checkTime ≤ s.now)
  | none => decide (v.checkedAt + 1000000 * (field (cfg s (blkOE n) 0x100) 24 8).toNat ≤ s.now)

/-- RING_PERIODIC_CHECK. -/
def execRingPeriodicCheck (n : Fin 8) (ring : Fin 10999) (tones : List (BitVec 16)) (s : State) : Result :=
  let x := oeGet s n.val
  if !ringIn s n.val ring.val .locked || ringDark x ring.val || !checkDue s n.val (ringGet x ring.val) then .next s
  else
    let s := ringMod s n.val ring.val fun v => { v with checkedAt := s.now, recheck := none }
    match ringVerdict x n.val ring.val tones with
    | .passed => .next s
    | .wrongLine found => .next (wrongLine (ringFatal s n.val ring.val) n.val ring.val found)
    | .failed => .next (ringFails (ringFatal s n.val ring.val) n.val ring.val 0)

/-- RING_UNLOCK: the error of a locked ring has stood for 2 µs, with its loop at a heater code. Above UNLOCK the ring unlocks, and at
OE_HEATER_LIMIT its loop can hold it no longer, for which the manual gives no failure code; otherwise the error is seen and no more
(R331, R338, R341). -/
def execRingUnlock (n : Fin 8) (ring : Fin 10999) (err : Byte) (code : BitVec 16) (s : State) : Result :=
  if !ringIn s n.val ring.val .locked || ringDark (oeGet s n.val) ring.val then .next s
  else
    let s := loopAt s n.val ring.val code err
    if (field (cfg s (blkOE n.val) 0x100) 16 8).toNat < err.toInt.natAbs then .next (ringFails (ringFatal s n.val ring.val) n.val ring.val 2)
    else if heaterLimit s n.val ≤ code.toNat then .next (ringFails (ringFatal s.takeFree n.val ring.val) n.val ring.val (s.free % 3))
    else .next s

/-! ## Light (R334) -/

def rxGet (x : OeSt) (p : Nat) : RxPlace := tget x.rx p {}

/-- RING_LIGHT_LOSS. -/
def execRingLightLoss (n : Fin 8) (place : LightAt) (s : State) : Result :=
  if !oeRuns s n.val then .next s
  else match place with
  | .rx i =>
    let p := rxGet (oeGet s n.val) i.val
    if !p.lit || p.darkAt.isSome then .next s
    else .next (dimRings (oeMod s n.val fun x => { x with rx := tset x.rx i.val { p with darkAt := some s.now } {} }) n.val (rxRings i.val))
  | .tx lane =>
    let p := placeGet (oeGet s n.val) lane.toNat
    if !p.en || p.darkAt.isSome then .next s
    else
      let s := oeMod s n.val fun x => placeSet x lane.toNat { p with darkAt := some s.now }
      .next (dimRings s n.val ((placeRings p).filter fun r => ringDark (oeGet s n.val) r))

/-- RING_LIGHT_RETURN: the place's parked rings sweep again, and every locked ring of the engine repeats its identity check. -/
def execRingLightReturn (n : Fin 8) (place : LightAt) (power : BitVec 16) (s : State) : Result :=
  if !oeRuns s n.val then .next s
  else match place with
  | .rx i =>
    let s := oeMod s n.val fun x =>
      let p := rxGet x i.val
      { x with rx := tset x.rx i.val { p with lit := true, litAt := if p.lit then p.litAt else s.now, power := power, darkAt := none } {} }
    .next (lightBack s n.val (rxRings i.val))
  | .tx lane =>
    let x := oeGet s n.val
    let p := placeGet x lane.toNat
    if x.dark || inSafe s (blkOE n.val) || p.darkAt.isNone then .next s
    else .next (lightBack (oeSet s n.val (placeSet x lane.toNat { p with darkAt := none })) n.val (placeRings p))

/-- A place has been without light for 10 µs. -/
def darkLong (s : State) (t : Option Nat) : Bool := match t with
  | some t => decide (t + 10000 ≤ s.now)
  | none => false

/-- RING_DARK_TIMEOUT: 10 µs without light. The rings of the place park; those of a transmit place that serve another lit place hold on. A lane
that was steered from a receive place is released (R312). -/
def execRingDarkTimeout (n : Fin 8) (place : LightAt) (s : State) : Result :=
  let x := oeGet s n.val
  if !oeRuns s n.val then .next s
  else match place with
  | .rx i =>
    let p := rxGet x i.val
    if !darkLong s p.darkAt then .next s
    else
      let s := (rxRings i.val).foldl (fun t r => parkRing t n.val r) s
      .next (oeMod s n.val fun x => steerFrom s n.val { x with
        rx := tset x.rx i.val { p with lit := false, darkAt := none } {}
        ident := x.ident.filter fun j => j.1 != i.val })
  | .tx lane =>
    let p := placeGet x lane.toNat
    if !p.en || !darkLong s p.darkAt then .next s
    else .next (((placeRings p).filter (ringDark x)).foldl (fun t r => parkRing t n.val r) s)

/-! ## Forecasts (R340) -/

/-- FORECAST_RECEIVE: a forecast that has been sent reaches the engine, whose profiles are computed and loaded, late with a lead
under 40 µs. -/
def execForecastReceive (n : Fin 8) (fire : Dword) (s : State) : Result :=
  match s.launch.forecasts.find? fun f => f.fire == fire && f.engines.contains n.val with
  | none => .next s
  | some f =>
  if !oeUp s n.val || !enabled s (blkOE n.val) then .next s
  else
    let s := takeForecast s f { f with engines := f.engines.erase n.val }
    let s := oeMod s n.val fun x => { x with profiles := ⟨fire, s.now, f.steps⟩ :: x.profiles.filter fun p => decide (s.tide.hub.toNat ≤ p.fire.toNat) }
    let s := cntAdd s ((blkOE n.val).reg 0x11C) 1
    .next (if fire.toNat < s.tide.hub.toNat + 40000 then cntAdd s ((blkOE n.val).reg 0x120) 1 else s)

/-! ## Weight-bank mode (R342–R344) -/

/-- A link of an engine is in service. It is not in training that follows a start, a rejoin or, until RUN, a chart load (DESIGN CHOICE where
R342's "before the links train" ends). -/
def linkServes (s : State) (k : Nat) : Bool :=
  let x := linkGet s k
  match x.st with
  | .off => false
  | .train => x.retraining || (!x.fresh && s.hm.st == .running)
  | .up | .down => true

/-- A slot carries a lane: of an enabled place, whose link is in service (R342). -/
def slotBusy (s : State) (n slot : Nat) : Bool := match slotLane (oeGet s n) slot with
  | none => false
  | some e => match laneLink s n e with
    | some (k, _) => linkServes s k
    | none => true

/-- Readings may run: in a window that admits kind 3, and while nothing of the engine is in service (R342, R343). -/
def wbOpen (s : State) (n : Nat) : Bool := windowLeft s kindRing != 0 || (engineKeys n).all fun k => !linkServes s k

/-- OE_WB_CMD: a reading is asked for; a slot that carries a lane ends it with code 1. A slot or an integration time outside
its range starts nothing. Where none may run the reading waits (DESIGN CHOICE; R343). -/
def execOeWbCmd (n : Fin 8) (value : Word) (s : State) : Result :=
  let b := blkOE n.val
  if !oeRuns s n.val then .next s
  else softWrite s b fun s =>
    if !value.getLsbD 31 || (oeGet s n.val).wb.isSome then .next (rset s (b.reg 0x130) value)
    else
      let slot := (field value 0 9).toNat
      let t := (field value 9 10).toNat
      if slotCount ≤ slot ∨ t = 0 ∨ 1000 < t then .next (rset s (b.reg 0x130) value)
      else if slotBusy s n.val slot then .next (logCapture (rset s (b.reg 0x130) 0) (b.reg 0x134) 1)
      else
        let w : WbRead := { slot := slot, tint := t, start := if wbOpen s n.val then some s.now else none }
        .next (rset (oeMod s n.val fun x => { x with wb := some w }) (b.reg 0x130) value)

/-- What the engines' readings do at this moment: one that waits begins, one whose window has closed ends with code 2. -/
def tickReadings (s : State) : State :=
  s.oe.foldl (fun t e => match e.2.wb with
    | none => t
    | some w =>
      if wbOpen t e.1 then if w.start.isSome then t else oeMod t e.1 fun x => { x with wb := some { w with start := some t.now } }
      else if w.start.isSome then dropReading t e.1 else t) s

/-- WEIGHT_BANK_READING_DONE: the integration time has passed, or foreground took the slot. -/
def execWeightBankReadingDone (n : Fin 8) (sum : Word) (abandoned : Bool) (s : State) : Result :=
  match (oeGet s n.val).wb with
  | none => .next s
  | some w =>
    if !oeRuns s n.val then .next s
    else if abandoned then .next (dropReading s n.val)
    else match w.start with
    | none => .next s
    | some t =>
      if s.now < t + 1000 * w.tint then .next s
      else
        let b := blkOE n.val
        let s := oeMod s n.val fun x => { x with wb := none, wbSum := sum }
        let s := (List.range 18).foldl (fun t j => rset t (b.reg (0x140 + 4 * j)) 0) (rset s (b.reg 0x130) 0)
        .next (logCapture s (b.reg 0x134) 0)

/-- How far a heater may have moved for a reading: 0.5 mW, 2,048 codes, in 100 µs (R343). -/
def wbReach (s : State) (w : WbRead) : Nat := match w.start with
  | some t => 2048 * (s.now - t) / 100000
  | none => 0

/-- The heater code of a line-select ring that a reading detunes from a code, towards that of its weight (R342, R343). -/
def wbHeater (s : State) (n r : Nat) (w : WbRead) (code : Nat) : Nat :=
  let target := (Config.weightCode n r (field (rget s ((blkOE n).reg (0x140 + 4 * (r % 18)))) 0 16)).toNat
  if code ≤ target then min target (code + wbReach s w) else max target (code - wbReach s w)

/-- OE_LOCKERR_MAX: the hardware wins a collision (R359). -/
def execOeLockerrMax (n : Fin 8) (value : Word) (collides : Option Word) (s : State) : Result :=
  if !oeUp s n.val then .next s
  else softWrite s (blkOE n.val) fun s => .next (rset s ((blkOE n.val).reg 0x124) (collides.getD value))

/-! ## Calibration (R352–R358) -/

/-- CALIBRATION_STEP: one step of every value under correction in a millisecond of tide, in a window that admits kind 2 (R357). -/
def execCalibrationStep (s : State) : Result :=
  let ms := s.tide.hub.toNat / 1000000
  if windowLeft s kindCalib = 0 ∨ s.cal.stepMs = some ms then .next s
  else .next { s with cal := { s.cal with use := tmap s.cal.use none fun _ v => v.map CalVal.stepped, stepMs := some ms } }

/-- The received power reference of a place, in 0.01 dBm (R352). -/
def rxReference (s : State) (n place : Nat) : Int := calValue s 9 (slotOE n) place

/-- RX_POWER_LOW: 1.4 dB or more below the reference, at most once per place per hour (R358). -/
def execRxPowerLow (n : Fin 8) (place : Fin 306) (power : BitVec 16) (s : State) : Result :=
  let p := rxGet (oeGet s n.val) place.val
  let short_ := (rxReference s n.val place.val - power.toInt).toNat
  let recent := match p.lowAt with
    | some t => decide (s.now < t + 3600000000000)
    | none => false
  if !oeUp s n.val || !p.lit || decide (short_ < 140) then .next s
  else
    let s := oeMod s n.val fun x => { x with rx := tset x.rx place.val { p with power := power, lowAt := if recent then p.lowAt else some s.now } {} }
    if recent then .next s
    else .next (oeLog (cntAdd s ((blkOE n.val).reg 0x128) 1) n.val 0x0608
      (place.val / 18 + 256 * (place.val % 18) + 65536 * min 0xFFFF short_) (9792 + place.val))

/-- CAL_RECORD_WRITE: over the copy that was not loaded at start-up, with GEN one higher than the one in use, at most once in 10 minutes. The
record gathers the corrections so far. A write that power loss breaks leaves what was written of it (R345, R355, R359). -/
def execCalRecordWrite (ty : Fin 10) (slot : Fin 41) (written : Option (BitVec 16)) (values : List (Word × Word)) (s : State) : Result :=
  if !calDies ty.val slot.val then .next s
  else
    let key := calKey ty.val slot.val
    let recent := match tget s.nor.last key none with
      | some t => decide (s.now < t + 600000000000)
      | none => false
    if recent || !hubUp s then .next s
    else
      let u := tget s.cal.inUse key 0
      let t := values.foldl (fun t e => calMove t ty.val slot.val e.1.toNat (calWord ty.val e.2)) s
      let gen := ((calGet s ty.val slot.val u).gen + 1).toNat
      let b := recordBytes calMagic ty.val slot.val (1 - u) gen (deviceId s) (calBody (calTargets t ty.val slot.val))
      let n := match written with
        | some n => n.toNat
        | none => b.length
      let t := calSet (if b.length ≤ n then t else s) ty.val slot.val (1 - u) { bytes := some (b.take n) }
      .next { t with nor := { t.nor with last := tset t.nor.last key (some s.now) none } }

end Sys2Proof.Machine
end

