-- ==== Sys2Proof/Machine/Laser.lean ====
section
/-! DEFINITION. Laser chiplets: divergence, ageing and switchovers (R346–R351). -/

namespace Sys2Proof.Machine

def lsGet (s : State) (n : Nat) : LsSt := tget s.ls n {}
def lsSet (s : State) (n : Nat) (x : LsSt) : State := { s with ls := tset s.ls n x {} }

/-- The side that the selector passes: the one with the higher claim; true is side B (R346, R393). -/
def LsSt.active (x : LsSt) : Bool := decide (x.claimA < x.claimB)

/-- A side takes over: its claim becomes the other's + 1, and the other yields (R393). -/
def LsSt.claim (x : LsSt) (b : Bool) : LsSt :=
  if b then { x with claimB := x.claimA + 1, claimA := 0 } else { x with claimA := x.claimB + 1, claimB := 0 }

/-- The chiplet runs: it is not held in reset (R273, R284). -/
def lsRuns (s : State) (n : Nat) : Bool := hubUp s && (tget s.hm.dies (slotLS n) {}).st != .lost

/-- A side's state; true is side B. -/
def LsSt.side (x : LsSt) (b : Bool) : SideState := if b then x.stB else x.stA
def LsSt.setSide (x : LsSt) (b : Bool) (v : SideState) : LsSt := if b then { x with stB := v } else { x with stA := v }
def LsSt.setBias (x : LsSt) (b : Bool) (v : BitVec 12) : LsSt := if b then { x with biasB := v } else { x with biasA := v }

/-- A side that is READY or WARN may be switched to on request (R348). -/
def SideState.fresh (v : SideState) : Bool := v == .ready || v == .warn

/-- A record of a chiplet (R362). -/
def lsLog (s : State) (n kind detail : Nat) : State := logRecord s kind (slotLS n) n detail 0 0

/-- STANDBY_DIVERGE: a difference beyond 5 GHz or 0.5 dB is a divergence; one within them shows the standby in step again (R347). -/
def execStandbyDiverge (n : Fin 8) (line : Fin 18) (ferr power : BitVec 16) (s : State) : Result :=
  let x := lsGet s n.val
  if !lsRuns s n.val || x.side (!x.active) == .failed then .next s
  else if ferr.toInt.natAbs ≤ 50 ∧ power.toInt.natAbs ≤ 50 then .next (lsSet s n.val { x with diverge := false })
  else .next (lsLog (cntAdd (lsSet s n.val { x with diverge := true }) ((blkLS n.val).reg 0x044) 1) n.val 0x0606 line.val)

/-- LS_BIAS_OVR replaces the active side's bias loop at once (R351). -/
def biasOf (s : State) (n : Nat) (x : LsSt) (side : Bool) (loop : BitVec 12) : BitVec 12 :=
  let v := cfg s (blkLS n) 0x028
  if v.getLsbD 31 && side == x.active then field v 0 12 else loop

/-- Record that a side has crossed a threshold: 1 WARN, 2 EOL. -/
def biasLog (s : State) (n : Nat) (side : Bool) (level : Nat) (bias : BitVec 12) : State :=
  lsLog s n 0x0607 (side.toNat + 2 * level + 65536 * bias.toNat)

/-- LASER_BIAS_THRESHOLD: a side's bias has been this high for 1 s (R348). Where it crosses both thresholds at once, both are recorded. -/
def execLaserBiasThreshold (n : Fin 8) (side : Bool) (bias : BitVec 12) (s : State) : Result :=
  let b := blkLS n.val
  let x := lsGet s n.val
  if !lsRuns s n.val || x.side side == .failed then .next s
  else
    let bias := biasOf s n.val x side bias
    let warn := decide ((cfg s b 0x020).toNat < bias.toNat)
    let eol := decide ((cfg s b 0x024).toNat < bias.toNat)
    let x := x.setBias side bias
    let s := lsSet s n.val x
    let s := if warn && x.side side == .ready then biasLog (lsSet s n.val (x.setSide side .warn)) n.val side 1 bias else s
    let x := lsGet s n.val
    if eol && (x.side side).fresh then
      let x := x.setSide side .eol
      let ask := side == x.active && (cfg s b 0x010).getLsbD 0 && (x.side (!side)).fresh
      let x := { x with req := if ask then x.req.orElse fun _ => some s.now else x.req }
      .next (biasLog (lsSet s n.val x) n.val side 2 bias)
    else .next s

/-- LS_SW_RES. -/
def swResult (s : State) (n code : Nat) : State := logCapture s ((blkLS n).reg 0x030) (BitVec.ofNat 32 code)

/-- LS_SW_CMD. -/
def execLsSwCmd (n : Fin 8) (value : Word) (s : State) : Result :=
  let r := (blkLS n.val).reg 0x02C
  if !lsRuns s n.val then .next s
  else softWrite s (blkLS n.val) fun s =>
    if !value.getLsbD 31 then .next (rset s r value)
    else
      let x := lsGet s n.val
      let s := rset s r 0
      if (x.side (!x.active)).fresh then .next (lsSet s n.val { x with req := x.req.orElse fun _ => some s.now })
      else .next (swResult s n.val 1)

/-- The dark of a switchover passes over an engine's transmit rings: those that lock or check start again, all of them after more than 10 µs,
and every locked ring repeats its identity check (R334, R359). -/
def darkRings (s : State) (n : Nat) (dark : Nat) : State :=
  let l := txRings (oeGet s n)
  let s := dimRings s n l
  let s := if 10000 < dark then l.foldl (fun t r => parkRing t n r) s else s
  if inSafe s (blkOE n) then s else lightBack s n l

/-- The selector passes the other side after a dark. -/
def changeSide (s : State) (n : Nat) (dark : BitVec 16) (unscheduled : Bool) : State :=
  let x := lsGet s n
  let s := lsSet s n { x.claim (!x.active) with dark := dark, req := none, diverge := false, blank := false }
  let s := if oeRuns s n then darkRings s n dark.toNat else s
  lsLog s n 0x0604 ((!x.active).toNat + 2 * unscheduled.toNat + 65536 * dark.toNat)

/-- The engine's transmit links have been idle for 1 µs (R349). -/
def linksIdle (s : State) (n : Nat) : Bool := (engineKeys n).all fun k => decide ((linkGet s k).txAt + 1000 ≤ s.now) || (linkGet s k).txAt == 0

/-- SCHEDULED_SWITCHOVER: in a window that admits kind 2, the engine's links being idle, its transmitters stop: this is the blank. The next one
changes sides, with at most 0.5 µs dark, and the transmitters resume (R349). A disabled LS starts none, and completes the one that it has
started (R462). -/
def execScheduledSwitchover (n : Fin 8) (dark : BitVec 16) (s : State) : Result :=
  let x := lsGet s n.val
  if !lsRuns s n.val || x.req.isNone || (!enabled s (blkLS n.val) && !x.blank) || x.side (!x.active) == .failed then .next s
  else if x.blank then .next (swResult (cntAdd (changeSide s n.val dark false) ((blkLS n.val).reg 0x034) 1) n.val 0)
  else if windowLeft s kindCalib = 0 ∨ linksIdle s n.val = false then .next s
  else .next (lsSet s n.val { x with blank := true })

/-- SWITCHOVER_FORCED: a request 60 s old is made in the next window whatever the traffic; the links stall for up to 3 µs. -/
def execSwitchoverForced (n : Fin 8) (dark stall : BitVec 16) (s : State) : Result :=
  let x := lsGet s n.val
  match x.req with
  | none => .next s
  | some t =>
    if !lsRuns s n.val || !enabled s (blkLS n.val) || x.side (!x.active) == .failed || windowLeft s kindCalib == 0 || decide (s.now < t + 60000000000) then .next s
    else
      let s := cntAdd (changeSide s n.val dark false) ((blkLS n.val).reg 0x034) 1
      let s := cntAdd s ((blkLS n.val).reg 0x03C) 1
      .next (swResult (lsLog s n.val 0x060C stall.toNat) n.val 3)

/-- No side serves: the engine goes dark and its links go DOWN (R351). -/
def engineDark (s : State) (n : Nat) : State := (engineKeys n).foldl linkDown (darkPlaces s n)

/-- Kind 0x0605 says so. -/
def noSide (s : State) (n : Nat) : State := engineDark (lsLog s n 0x0605 0) n

/-- A laser chiplet's clock monitor resets it: its registers and the places in it start again, failed sides stay so, and the engine has no light
until it is let out (R284, R350). -/
def chipletReset (s : State) (n : Nat) : State :=
  let x := lsGet s n
  let y : LsSt := { stA := if x.stA = .failed then .failed else .ready, stB := if x.stB = .failed then .failed else .ready }
  engineDark (lsSet s n (if y.stA = .failed then y.claim true else y)) n

/-- UNSCHEDULED_SWITCHOVER: the active side has failed (R350, R351). What the peers' lanes meet is the same whether the dark
keeps within 2 µs or not: they go lane-fatal and recover (R28, R324). -/
def execUnscheduledSwitchover (n : Fin 8) (dark : BitVec 16) (s : State) : Result :=
  let x := lsGet s n.val
  if !lsRuns s n.val || x.side x.active == .failed then .next s
  else
    let asked := x.req.isSome
    let s := lsSet s n.val { x.setSide x.active .failed with req := none, blank := false }
    let s := if asked then swResult s n.val 2 else s
    if x.side (!x.active) == .failed then .next (noSide s n.val)
    else .next (cntAdd (changeSide s n.val dark true) ((blkLS n.val).reg 0x038) 1)

end Sys2Proof.Machine
end

