-- ==== Sys2Proof/Machine/Launch.lean ====
section
/-! DEFINITION. Launches: submission, arming, firing, forecasts, completion and cancelling (R124–R133). -/

namespace Sys2Proof.Machine

/-! ## Submission (R125) -/

/-- The lowest-numbered free slot of the launch table, which lists only the slots in use. -/
def lowestFree : Tbl LEntry → Nat → Nat
  | [], n => n
  | (k, _) :: r, n => if k = n then lowestFree r (n + 1) else n

/-- A launch entry from its 32 bytes (R124). -/
def entryOf (w : BitVec 256) : LEntry :=
  { st := .pending, time := field w 0 64, voyage := field w 64 16, coreset := field w 80 16, ctrl := field w 96 32,
    arg := field w 128 64, done := field w 192 32, doneAdd := field w 224 32 }

/-- The first check that a submission fails, in the order of R125; 0 for none. -/
def submitCode (s : State) (e : LEntry) : Nat :=
  let dev := (field e.done 14 4).toNat
  if s.hm.st != .running then 0x08
  else if !s.tide.everLocked then 0x07
  else if !e.ctrl.getLsbD 0 || (e.ctrl &&& 0xFFF8) != 0 || field e.coreset 12 4 != 0 || field e.arg 52 12 != 0
      || field e.done 20 12 != 0 then 0x02
  else if (setRec s e.set).isNone then 0x03
  else if (voyRec s e.voyage.toNat e.set).isNone then 0x04
  else if e.arg.toNat % 256 != 0 || (s.home e.arg.toNat).isNone then 0x05
  else if e.done.getLsbD 19 && e.done.getLsbD 18 && dev != ownDev s && !reachable s dev then 0x06
  else if launchSlots ≤ s.launch.table.length then 0x01
  else 0x00

/-- Submit an entry: the result code and, when accepted, the index. -/
def submit (s : State) (w : BitVec 256) : State × Nat × Nat :=
  let e := entryOf w
  match submitCode s e with
  | 0 => let i := lowestFree s.launch.table 0; (entrySet s i e, 0, i)
  | 1 => (cntAdd s (blkTD.reg 0x040) 1, 1, 0)
  | c => (cntAdd s (blkTD.reg 0x044) 1, c, 0)

/-! ## Arming (R126–R129, R145) -/

/-- The entry's fire time falls in the forced window, or fell in the last one (R145). -/
def pushed (s : State) (e : LEntry) : Bool := e.deferred || deferred s (plainFire s e)

/-- What becomes of the first pending entry now: it waits, or it is reached with this fire time and late cause. -/
def reach (s : State) (e : LEntry) : Option (Nat × Nat) :=
  let t := s.tide.hub.toNat
  let f0 := max e.time.toNat (afterLast s)
  if pushed s e then
    let f := max (forcedEndOf s) f0
    if t + lead < f then none else some (max (t + lead) f, 4)
  else if t + lead < f0 then none
  else
    let late := f0 < t + lead
    let f := if late then max (t + lead) (afterLast s) else f0
    if deferred s f then
      let f := max (forcedEndOf s) (afterLast s)
      if t + lead < f then none else some (f, 4)
    else
      let cause := if f ≤ e.time.toNat then 0 else if (if late then t + lead else e.time.toNat) < afterLast s then 2 else 1
      some (f, cause)

/-- The first pending entry is reached too late for its TIME, and the fire time that this leaves it falls in the forced window: it is
among those that the window defers (R127, R145). -/
def noteLate (s : State) : State :=
  match firstEntry (entriesIn s .pending) with
  | none => s
  | some (_, e) =>
    let t := s.tide.hub.toNat
    let f := max (t + lead) (afterLast s)
    if max e.time.toNat (afterLast s) < t + lead && !pushed s e && deferred s f then
      { s with launch := { s.launch with plain := max s.launch.plain f } }
    else s

/-- Hold or arm the first pending entry when it is reached; while a die of its set holds as many armed launches as it can, it waits
(R129). The flag says that something was done. -/
def armOne (s : State) : State × Bool :=
  match firstEntry (entriesIn s .pending) with
  | none => (s, false)
  | some (i, e) =>
    match reach s e with
    | none => (s, false)
    | some (f, cause) =>
      if (e.hold || throttled s) && (coreSetBusy s e.set || !(setHeld s e.set).isEmpty) then
        (cntAdd (entrySet s i { e with st := .held }) (blkTD.reg 0x02C) 1, true)
      else if armedFull s e.set then (s, false)
      else (armEntry s i f cause, true)

/-- ARM_LAUNCH: the first pending entry is reached, or a held one can be armed at last; during a switchover gap
nothing is issued (R394). -/
def execArmLaunch (s : State) : Result :=
  if s.hm.st = .running ∧ !inGap s then
    match armOne (noteLate s) with
    | (t, true) => .next t
    | (t, false) => .next ((((entriesIn t .held).map fun e => e.2.set).dedup).foldl freeSet t)
  else .next s

/-! ## Firing (R107, R109, R127, R129, R132) -/

/-- Count a late launch and capture the first (R127). -/
def countLate (s : State) (i : Nat) (e : LEntry) : State :=
  if e.fire.toNat ≤ e.time.toNat then s
  else
    let slip := e.fire.toNat - e.time.toNat
    let s := cntAdd64 (cntAdd s (blkTD.reg 0x028) 1) (blkTD.reg 0x030) slip
    logCapture64 s (blkTD.reg 0x038) (BitVec.ofNat 32 (min slip 0xFFFFFFFF)) (fields 32 [(12, i), (3, e.cause)])

/-- Why a launch starts on none of its cores: 0x21 for a quarantined die, 0x30 for a busy set; 0 where it starts. -/
def noStart (s : State) (set : Nat) : Nat :=
  if (setDies s set).any fun d => dieState s (slotC d) == .quarantined then 0x21
  else if setCut s set || (voyageGet s set).isSome || (running s).any (fun r => (setCores s r).any fun c => (setCores s set).contains c)
    then 0x30
  else 0

/-- The hub or a die of the core set has reached the launch time on its own counter (R19). -/
def fireDue (s : State) (e : LEntry) : Bool :=
  decide (e.fire.toNat ≤ s.tide.hub.toNat) || (setDies s e.set).any fun d => decide (e.fire.toNat ≤ (dieTide s (slotC d)).toNat)

/-- LAUNCH_FIRE: the entry's slot is free at that moment; the dies of its core set start, those whose counters have yet to reach
the launch time when they do (R19), or the event says why not. -/
def execLaunchFire (index : Fin 4096) (s : State) : Result :=
  let e := entryGet s index.val
  if e.st = .armed ∧ fireDue s e then
    let s := countLate (entrySet s index.val {}) index.val e
    match noStart s e.set with
    | 0 =>
      let v : Voyage := { voyage := e.voyage, index := index.val, entry := e, waiting := setDies s e.set }
      .next (fireVoyage (voyageSet s e.set (some v)) e.set v)
    | code => .next (freeSet (voyageEvent s e index.val (BitVec.ofNat 32 code) 0) e.set)
  else .next s

/-- LOAD_STEP_FORECAST: at F − 100 µs, F being what the entry's TIME and the spacing give now (R20, R126). -/
def execLoadStepForecast (index : Fin 4096) (s : State) : Result :=
  let e := entryGet s index.val
  let f := if e.st = .armed then e.fire.toNat else max e.time.toNat (afterLast s)
  if (e.st = .pending ∨ e.st = .armed) ∧ stepLarge s e ∧ !e.forecast ∧ f ≤ s.tide.hub.toNat + 100000 then
    .next (sendForecast s index.val f)
  else .next s

/-! ## Completion (R108, R131) -/

/-- Every core has retired END and every descriptor has signalled DONE. -/
def voyageDone (s : State) (set : Nat) (v : Voyage) : Bool :=
  v.ending.isNone && v.halt.isNone && v.waiting.isEmpty && (setCores s set).all (fun c => (coreGet s c).run == .ended) && setDrained s set

/-- The completion add, local or remote. -/
def completionAdd (s : State) (e : LEntry) : State :=
  if e.done.getLsbD 19 then bollSignal s (e.done.getLsbD 18) (field e.done 14 4).toNat (field e.done 0 14).toNat e.doneAdd else s

/-- VOYAGE_COMPLETE: first the completion bollard, then the event where EVENT is set. -/
def execVoyageComplete (set : Fin 4096) (s : State) : Result :=
  match voyageGet s set.val with
  | none => .next s
  | some v =>
    if voyageDone s set.val v then
      let s := completionAdd (voyageSet s set.val none) v.entry
      let s := if v.entry.event then voyageEvent s v.entry v.index (v.status 0) v.entry.slip else s
      .next (freeSet s set.val)
    else .next s

/-! ## Cancelling (R130) -/

/-- TD_CANCEL. -/
def execTdCancel (value : Word) (s : State) : Result :=
  if !hubUp s then .next s
  else softWrite s blkTD fun s =>
    if !value.getLsbD 31 then .next (rset s (blkTD.reg 0x048) value)
    else
      let i := (field value 0 12).toNat
      let st := (entryGet s i).st
      let code := if st = .free then 1 else if st = .armed then 2 else 0
      let s := if code = 0 then entrySet s i {} else s
      .next (logCapture (rset s (blkTD.reg 0x048) 0) (blkTD.reg 0x04C) (fields 32 [(2, code), (12, i)]))

end Sys2Proof.Machine
end

