-- ==== Sys2Proof/Machine/Slack.lean ====
section
/-! DEFINITION. Slack windows, declared and forced (R144–R146). -/

namespace Sys2Proof.Machine

/-- Quiet time that makes a window, and the length of a forced window: 20 µs. -/
def windowTicks : Nat := 20000

/-- SLACK_WINDOW: the quiet time within the open span has reached 20 µs (R144). -/
def execSlackWindow (s : State) : Result :=
  if spanOpen s && decide (windowTicks ≤ s.slack.quiet) then
    .next { s with slack := { s.slack with quiet := s.slack.quiet - windowTicks, last := s.tide.hub } }
  else .next s

/-- The TIDE event (R381): its CODE and TD_OFFSET. -/
def tideEvent (s : State) (code offset : Nat) : State := sendEvent s 0x0004 (fields 256 [(32, code), (32, offset)])

/-- Twice the averaged offset times the number of exchanges kept, and that number (R120). -/
def offsetSum (s : State) : Int × Nat := (s.tide.offs.foldl (· + ·) 0, s.tide.offs.length)

/-- TD_OFFSET: the averaged offset in 1/16 tide tick, rounded towards zero. -/
def tdOffset (s : State) : Word :=
  let x := offsetSum s
  if x.2 = 0 then 0 else BitVec.ofInt 32 ((x.1 * 8).tdiv x.2)

/-- FORCED_SLACK: 50 ms without a window; the forced window starts 256 tide ticks later (R145, R146). -/
def execForcedSlack (s : State) : Result :=
  if s.tide.everEnabled && s.slack.forced.isNone && decide (s.slack.last.toNat + 50000000 ≤ s.tide.hub.toNat) then
    let s := { s with
      slack := { s.slack with forced := some (s.tide.hub + BitVec.ofNat 64 (lead + windowTicks)) }
      launch := { s.launch with plain := afterLast s } }
    .next (tideEvent (cntAdd s (blkTD.reg 0x054) 1) 1 (tdOffset s).toNat)
  else .next s

/-- Arm, at the end of a forced window, every entry that waits for it. -/
def armDeferred (s : State) : Nat → State
  | 0 => s
  | n + 1 =>
    match firstEntry (entriesIn s .pending) with
    | none => s
    | some (_, e) =>
      if pushed s e then armDeferred (armOne s).1 n else s

/-- An entry takes its place by (TIME, index). -/
def insertEntry (e : Nat × LEntry) : List (Nat × LEntry) → List (Nat × LEntry)
  | [] => [e]
  | x :: r => if x.2.time.toNat < e.2.time.toNat ∨ (x.2.time = e.2.time ∧ x.1 < e.1) then x :: insertEntry e r else e :: x :: r

/-- The entries of a list, in (TIME, index) order, that would have fired before `w` with no forced window, the first at `p` at the
earliest. -/
def firedBefore (w : Nat) : List (Nat × LEntry) → Nat → List Nat
  | [], _ => []
  | e :: r, p => if max e.2.time.toNat p < w then e.1 :: firedBefore w r (max e.2.time.toNat p + spacing) else []

/-- The entries that a forced window has deferred and that are still to be armed remember it (R127, R145). -/
def markDeferred (s : State) (w : Nat) : State :=
  let l := (entriesIn s .pending).filter fun e => !((e.2.hold || throttled s) && coreSetBusy s e.2.set)
  (firedBefore w (l.foldr insertEntry []) s.launch.plain).foldl
    (fun t i => entrySet t i { entryGet t i with deferred := true }) s

/-- FORCED_SLACK_END: it counts as a window, and entries deferred by it are armed with cause 4 (R144, R145). -/
def execForcedSlackEnd (s : State) : Result :=
  match s.slack.forced with
  | none => .next s
  | some e =>
    if s.tide.hub.toNat < e.toNat then .next s
    else
      let s := if s.hm.st = .running && !inGap s then armDeferred s s.launch.table.length else s
      .next { markDeferred s e.toNat with slack := { quiet := 0, last := e, forced := none } }

end Sys2Proof.Machine
end

