-- ==== Sys2Proof/Machine/Tide.lean ====
section
/-! DEFINITION. The tide: beacon marks, group alignment, slews and the tide-mark pins (R115–R123, R384, R493). -/

namespace Sys2Proof.Machine

/-! ## The beacon (R115) -/

/-- Tide ticks from one check mark to the next. -/
def markTicks : Nat := 65536

/-- A check mark is due at a die. -/
def markDue (s : State) (slot : Nat) : Bool := match tget s.tide.markAt slot none with
  | some t => decide (t.toNat + markTicks ≤ s.tide.hub.toNat)
  | none => true

/-- BEACON_CHECK_MARK: 65,536 tide ticks after the last, a die more than one tide tick from the mark corrects the difference by
slewing. A die that has lost both nets hears no mark. -/
def execBeaconCheckMark (slot : Fin 41) (s : State) : Result :=
  let d := tget s.tide.dieOfs slot.val 0
  let deaf := s.tide.beacon.contains (slot.val, 0) && s.tide.beacon.contains (slot.val, 1)
  if dieState s slot.val != .up || deaf || !markDue s slot.val then .next s
  else
    let t := { s.tide with markAt := tset s.tide.markAt slot.val (some s.tide.hub) none }
    if d.natAbs ≤ 1 then .next { s with tide := t }
    else .next (cntAdd { s with tide := { t with dieSlew := tset t.dieSlew slot.val (-d) 0 } } (blkTD.reg 0x068) 1)

/-- TIDE_BEACON_LOST: the die keeps counting from the reference, and the hub reports the loss (kind 0x0303). -/
def execTideBeaconLost (slot : Fin 41) (net : Fin 2) (s : State) : Result :=
  if dieState s slot.val != .up || s.tide.beacon.contains (slot.val, net.val) then .next s
  else .next (logRecord { s with tide := { s.tide with beacon := (slot.val, net.val) :: s.tide.beacon } } 0x0303 slot.val 0 net.val 0 0)

/-! ## Group alignment (R119–R121) -/

def roleMaster (s : State) : Bool := (cfg s blkTD 0x018).getLsbD 0
def roleSource (s : State) : Nat := (field (cfg s blkTD 0x018) 4 4).toNat

/-- The module exchanges time with its source. -/
def exchanging (s : State) : Bool := enabled s blkTD && !s.tide.safe && !roleMaster s

/-- A time parcel's payload; the stamps that are not given here are made at transmission (R120). -/
def timePayload (kind : Nat) (seq : BitVec 16) (t1 t2 : Dword) : Parcel :=
  fields 2048 [(8, kind), (8, 0), (16, seq.toNat), (32, 0), (64, t1.toNat), (64, t2.toNat)]

/-- The next exchange is due: 10 µs have passed since the last request. -/
def askDue (s : State) : Bool := match s.tide.askedAt with
  | some t => decide (t + 10000 ≤ s.now)
  | none => true

/-- TIME_EXCHANGE_REQUEST: the next exchange begins; one still without a reply is counted. -/
def execTimeExchangeRequest (s : State) : Result :=
  if !exchanging s || !askDue s then .next s
  else
    let s := if s.tide.outst.isSome then cntAdd s (blkTD.reg 0x06C) 1 else s
    let n := s.tide.seq + 1
    let s := { s with tide := { s.tide with seq := n, outst := some (n, s.tide.hub), askedAt := some s.now } }
    .next (sendTo s hubPoint (controlPar tyTime 0 (roleSource s) (timePayload 1 n 0 0) 7))

/-- The averaged offset in whole tide ticks. -/
def averageOffset (s : State) : Int :=
  let x := offsetSum s
  if x.2 = 0 then 0 else x.1.tdiv (2 * x.2)

/-- The magnitude of the averaged offset exceeds `n` tide ticks. -/
def offsetBeyond (s : State) (n : Nat) : Bool :=
  let x := offsetSum s
  decide (2 * n * x.2 < x.1.natAbs)

/-- The tide steps once to the source's value (R121). Every die loads the hub's value again. The time since the last window is
told by the tide, and so counts the step (DESIGN CHOICE). -/
def stepTide (s : State) (twice : Int) : State :=
  { s with tide := { s.tide with
      hub := s.tide.hub + BitVec.ofInt 64 (twice.tdiv 2), offs := [], st := .acquire, dieOfs := [], markAt := [], dieSlew := []
      outst := none, lastReply := s.tide.hub + BitVec.ofInt 64 (twice.tdiv 2) } }

/-- The alarm of a LOCKED tide follows the averaged offset (R121). -/
def judgeAlarm (s : State) : State :=
  if !offsetBeyond s 4 then { s with tide := { s.tide with alarm := false } }
  else if offsetBeyond s 16 && !s.tide.alarm then tideEvent { s with tide := { s.tide with alarm := true } } 2 (tdOffset s).toNat
  else s

/-- The state follows the averaged offset (R121). -/
def settleTide (s : State) : State :=
  match s.tide.st with
  | .acquire => if !offsetBeyond s 4 then { s with tide := { s.tide with st := .locked, everLocked := true } } else s
  | .holdover => judgeAlarm { s with tide := { s.tide with st := .locked, holdLong := false } }
  | .locked => judgeAlarm s
  | .free => s

/-- A reply gives the offset ((T2 − T1) − (T4 − T3)) ÷ 2. -/
def timeReply (s : State) (p : Parcel) : State :=
  let t1 : Dword := field p 64 64
  let t2 : Dword := field p 128 64
  let t3 : Dword := field p 192 64
  let twice : Int := (t2 - t1).toInt - (s.tide.hub - t3).toInt
  if s.tide.st = .free then stepTide s twice
  else
    let s := { s with tide := { s.tide with offs := (twice :: s.tide.offs).take 64, outst := none, lastReply := s.tide.hub } }
    settleTide { s with tide := { s.tide with slew := averageOffset s } }

/-- A time parcel for this module. -/
def timeParcel (s : State) (k : Nat) (p : Parcel) : State :=
  if timeKind p = 1 then
    if enabled s blkTD && !s.tide.safe then
      sendTo s hubPoint (controlPar tyTime 0 (farMember s k) (timePayload 2 (field p 16 16) (field p 64 64) s.tide.hub) 7)
    else s
  else if timeKind p = 2 then
    match s.tide.outst with
    | some (n, _) => if exchanging s && n == field p 16 16 then timeReply s p else s
    | none => s
  else s

/-- TIME_PARCEL_RECEIVE. -/
def execTimeParcelReceive (l : LinkId) (h : Hdr) (payload : Parcel) (check : Word) (s : State) : Result :=
  match receiveLink s l tyTime h payload check with
  | (t, none) => .next t
  | (t, some p) =>
    if p.dev.toNat ≠ ownDev t then .next (acceptPar t l.key p)
    else .next (timeParcel (freeUnit t l.key p.vc.toNat) l.key p.payload)

/-- TIDE_HOLDOVER: 100 µs without a reply while LOCKED. -/
def execTideHoldover (s : State) : Result :=
  if s.tide.st = .locked ∧ !roleMaster s ∧ s.tide.lastReply.toNat + 100000 ≤ s.tide.hub.toNat then
    .next { s with tide := { s.tide with st := .holdover, holdSince := s.tide.hub } }
  else .next s

/-- HOLDOVER_LONG: 10 s in HOLDOVER. -/
def execHoldoverLong (s : State) : Result :=
  if s.tide.st = .holdover ∧ !s.tide.holdLong ∧ s.tide.holdSince.toNat + 10000000000 ≤ s.tide.hub.toNat then
    .next (tideEvent { s with tide := { s.tide with holdLong := true } } 3 (tdOffset s).toNat)
  else .next s

/-! ## The tide mark (R123, R493) -/

/-- One second in tide ticks, and the mark's high time. -/
def markPeriod : Nat := 1000000000
def markHigh : Nat := 1000

/-- TIDE_MARK_OUTPUT. -/
def execTideMarkOutput (s : State) : Result :=
  if s.tide.hub.toNat % markPeriod < markHigh then .next { s with tide := { s.tide with markOut := true } } else .next s

/-- TIDE_MARK_INPUT: an edge sooner than 100 ns after the previous one is not stamped. -/
def execTideMarkInput (s : State) : Result :=
  let ok := match s.tide.markEdge with
    | some t => decide (t + 100 ≤ s.now)
    | none => true
  let s := { s with tide := { s.tide with markEdge := some s.now } }
  if ok then .next { s with tide := { s.tide with markIn := s.tide.hub } } else .next s

/-! ## Slews by firmware (R384) -/

/-- PL_SLEW_RES. -/
def slewResult (s : State) (code : Nat) : State := logCapture s (blkPL.reg 0x0AC) (BitVec.ofNat 32 code)

/-- PL_TIDE_SLEW. -/
def execPlTideSlew (value : Word) (s : State) : Result :=
  if !hubUp s then .next s
  else softWrite s blkPL fun s =>
    if !value.getLsbD 31 then .next (rset s (blkPL.reg 0x0A8) value)
    else if !roleMaster s then .next (slewResult (rset s (blkPL.reg 0x0A8) 0) 1)
    else
      let s := if s.tide.slewCmd then slewResult s 2 else s
      let amount : Int := (field value 0 24).toInt
      .next { rset s (blkPL.reg 0x0A8) value with tide := { s.tide with slew := amount, slewCmd := true } }

/-- SLEW_COMPLETE: nothing of a requested slew remains. -/
def execSlewComplete (s : State) : Result :=
  if s.tide.slewCmd && s.tide.slew == 0 then
    .next (slewResult (rset { s with tide := { s.tide with slewCmd := false } } (blkPL.reg 0x0A8) 0) 0)
  else .next s

end Sys2Proof.Machine
end

