-- ==== Sys2Proof/Machine/RegOps.lean ====
section
/-! DEFINITION. Enabling and disabling blocks, and what follows for the units behind them (R461–R463, R466, R468). -/

namespace Sys2Proof.Machine

/-! ## Checks at enable (R299, R468) -/

/-- Window `w` of the breakwater: its base, its limit, enabled, and outbound. -/
structure Window where
  base  : Nat
  limit : Nat
  en    : Bool
  out   : Bool
  deriving DecidableEq, Repr

def gfWindow (s : State) (w : Nat) : Window :=
  { base := (rget64 s (blkGF.reg (0x100 + 32 * w))).toNat, limit := (rget64 s (blkGF.reg (0x108 + 32 * w))).toNat
    en := (rget s (blkGF.reg (0x110 + 32 * w))).getLsbD 0, out := (rget s (blkGF.reg (0x110 + 32 * w))).getLsbD 1 }

/-- Every byte from `a` up to `hi` is populated memory, found range by range. -/
def populated (s : State) (hi : Nat) : Nat → Nat → Bool
  | 0, _ => false
  | fuel + 1, a =>
    if hi ≤ a then true
    else match s.home a with
    | none => false
    | some (.reg _) => false
    | some (.guest _) => false
    | some _ => populated s hi fuel (rangeEnd a)

/-- Populated ranges, at most: stacks, base dies, cores and the hub. -/
def rangeFuel : Nat := 9300

/-- A window that lies where R299 does not let it lie. -/
def windowAstray (s : State) (w : Window) : Bool :=
  if w.out then decide (w.base < guestBase ∨ guestBase + guestSize < w.limit + 256) else !populated s (w.limit + 256) rangeFuel w.base

/-- Two windows of one direction overlap. -/
def Window.meets (a b : Window) : Bool := a.out == b.out && decide (a.base < b.limit + 256 ∧ b.base < a.limit + 256)

/-- The first enabled window for which a check holds. -/
def windowThat (s : State) (f : Nat → Window → Bool) : Option Nat :=
  (List.range 16).find? fun w => (gfWindow s w).en && f w (gfWindow s w)

/-- The lowest-numbered window that fails a check of R299 on windows, with the check's code: of two that overlap, the later. -/
def gfBadWindow (s : State) : Option (Nat × Nat) :=
  match windowThat s fun _ w => decide (w.limit < w.base) || w.base % 256 != 0 || w.limit % 256 != 0 with
  | some w => some (2, w)
  | none => match windowThat s fun _ w => windowAstray s w with
    | some w => some (3, w)
    | none => (windowThat s fun i w => (List.range i).any fun j => (gfWindow s j).en && w.meets (gfWindow s j)).map fun w => (4, w)

/-- The first check of R299 that fails, and the window concerned, 0 for a check of none (GF_EN_RES, R304). -/
def gfCheck (s : State) : Nat × Nat :=
  let c := rget s (blkGF.reg 0x010)
  let f := rget s (blkGF.reg 0x014)
  let b := rget s (blkGF.reg 0x028)
  if c.getLsbD 0 != f.getLsbD 0 then (1, 0)
  else match gfBadWindow s with
  | some x => x
  | none =>
    if 16384 < (field b 0 14).toNat + (field b 16 14).toNat then (5, 0)
    else if !c.getLsbD 0 && decide ((field c 16 7).toNat < 32 ∨ 64 < (field c 16 7).toNat) then (6, 0)
    else if !f.getLsbD 1 then (7, 0)
    else (0, 0)

/-- The first check of R468 that a block fails; 0 for none. -/
def enableCode (s : State) (b : Blk) : Nat :=
  let r (off : Nat) : Word := rget s (b.reg off)
  match b.kind with
  | .td =>
    let w := r 0x018
    if w.getLsbD 0 != (field w 8 2 == 0) then 1
    else if !w.getLsbD 0 && (field w 4 4).toNat == ownDev s then 2 else 0
  | .ql =>
    let w := r 0x010
    let lo := (field w 0 9).toNat
    let hi := (field w 16 9).toNat
    if hi < lo then 1
    else if (field w 29 2).toNat ≤ 1 ∧ (lo < 32 ∨ 64 < hi) then 2
    else if (w.getLsbD 28 && field w 26 2 == 0) || field (r 0x038) 0 8 == 0 then 3 else 0
  | .dl => if field (r 0x010) 8 8 = 0 then 1 else 0
  | .oe => if field (r 0x010) 8 8 = 0 then 1 else 0
  | .sc => if r 0x014 = 0 ∨ r 0x018 = 0 then 1 else 0
  | .el => if 4096 < (field (r 0x010) 4 13).toNat then 1 else 0
  | .pl =>
    let w := r 0x010
    let v := (field w 8 12).toNat
    let none6 := (List.range 4).all fun i => r (0x040 + 4 * i) == 0
    if w.getLsbD 7 && (r 0x038 == 0 || (w.getLsbD 5 && none6)) then 1
    else if w.getLsbD 6 && (v == 0 || v == 0xFFF) then 2 else 0
  | .pw => if 100 < (field (r 0x03C) 0 8).toNat then 1 else 0
  | .gf => (gfCheck s).1
  | _ => 0

/-! ## Enabling -/

/-- BLK_CTRL.EN, and EN_CODE of the last enable. -/
def setEn (s : State) (b : Blk) (on : Bool) : State := rset s (b.reg 0x004) (if on then 1 else 0)
def setEnCode (s : State) (b : Blk) (code : Nat) : State :=
  { s with regs := { s.regs with enCode := tset s.regs.enCode b.base code 0 } }

/-- The block's RW registers all hold good parity. -/
def parityGood (s : State) (b : Blk) : Bool := s.regs.badPar.all fun r => decide (r < b.base ∨ b.base + 0x4000 ≤ r)

/-- TD is enabled: a FREE tide takes TD_SET, a master is LOCKED, and the 50 ms of R145 may begin (R118, R121). A safe state whose parity is
still bad goes on (R466). -/
def enableTide (s : State) : State :=
  let t := s.tide
  let keeps := t.safe && !parityGood s blkTD
  let t := if keeps then t else if t.st = .free then { t with hub := rget64 s (blkTD.reg 0x070), dieOfs := [], markAt := [], dieSlew := [] } else t
  let t := if !keeps && roleMaster s then { t with st := .locked, everLocked := true, holdLong := false } else t
  let first := !t.everEnabled
  let s := { s with tide := { t with everEnabled := true, safe := keeps } }
  if first then { s with slack := { s.slack with last := s.tide.hub } } else s

/-- A link in a loop is OFF for traffic: what it holds waits (R269). -/
def loopOff (s : State) (k : Nat) : State :=
  linkMod s k fun x => { x with st := .off, silentAt := none, waitMark := false, helloSent := false, replayReq := none, retraining := false,
                                marks := [], replayAt := none, resend := none, serving := none }

/-- The endpoint of a QL block. -/
def qlKey (b : Blk) : Nat := b.slot * 64 + b.inst

/-- The walks of a scrubber begin when it is first enabled (R196). -/
def startWalks (s : State) (slot : Nat) : State :=
  let x := tget s.sc slot {}
  let start (t : Option Nat) : Option Nat := some (t.getD s.now)
  { s with sc := tset s.sc slot { x with hbmStart := start x.hbmStart, sramStart := start x.sramStart } {} }

/-- What an accepted enable starts. -/
def enableEffect (s : State) (b : Blk) : State :=
  match b.kind with
  | .td => enableTide s
  | .sc => startWalks s b.slot
  | .ql =>
    let k := qlKey b
    if inLoop s k then loopOff s k
    else if (linkGet s k).st == .off && linkExists s k && endAlive s k then trainLink s k else s
  | _ => s

def addrOf (off : Nat) : Nat := regSpace + off

/-- Enable a block: refused by the first check that fails, with EN_CODE, BLK_ERRCNT and kind 0x0A02. -/
def enableBlock (s : State) (b : Blk) : State :=
  match enableCode s b with
  | 0 =>
    let s := setEnCode (setEn s b true) b 0
    let ends := inSafe s b && parityGood s b
    let s := if ends then { s with regs := { s.regs with safe := s.regs.safe.filter fun x => x != b.base } } else s
    let s := if ends && b.kind == .oe && !(oeGet s b.inst).dark then lightPlaces s b.inst else s
    enableEffect s b
  | code =>
    let s := errCount (setEnCode (setEn s b false) b code) b
    let s := if b.kind = .gf then logCapture s (blkGF.reg 0x02C) (fields 32 [(4, code), (4, 0), (4, (gfCheck s).2)]) else s
    logRecord s 0x0A02 b.slot 0 (code + 256 * b.kind.code) (addrOf (b.reg 0x004)) 0

/-- A loop test of a link sends PRBS31 and counts its bit errors (R269). -/
def prbsRuns (s : State) (b : Blk) : Bool :=
  b.kind == .ql && enabled s b && (field (cfg s b 0x010) 26 2 : BitVec 2) != 0 && (cfg s b 0x010).getLsbD 28

/-- Disable a block: WR_IGNORED ends (R458), and a PRBS test leaves its count of bit errors, a free value (R269). -/
def disableBlock (s : State) (b : Blk) : State :=
  let s := if prbsRuns s b then (rset s (b.reg 0x064) (BitVec.ofNat 32 s.free)).takeFree else s
  let s := setEn s b false
  { s with regs := { s.regs with wrIgnored := s.regs.wrIgnored.filter fun x => x != b.base } }

/-- Blocks that only a LOAD configures (R462). -/
def chartClass (k : BlkKind) : Bool := k == .td || k == .qn || k == .ql || k == .dl || k == .oe

/-- When software may clear EN of a chart-class block. -/
def mayDisable (s : State) (b : Blk) : Bool :=
  !chartClass b.kind || s.hm.st == .empty || s.hm.st == .stopped || s.hm.st == .failed

/-! ## Endpoints of the module -/

/-- Endpoints of the neighbour bundles and of the hub bundles. -/
def bundleKeys : List Nat :=
  [linkKey 0 0, linkKey 0 1, linkKey 2 0, linkKey 2 1] ++
  (List.range 6).flatMap fun q => (List.range 32).filterMap fun u =>
    if (neighbour q (u / 8)).isSome then some (linkKey (slotQ q) u) else none

/-- Each bundle link once, by its end with the lower key. -/
def bundlePairs : List Nat := bundleKeys.filter fun k => match farEnd k with
  | some f => decide (k < f)
  | none => false

/-- The DL bundle pairs of a slot that the die has (R302, R473, R475, R477). -/
def dlInst (slot : Nat) : List Nat :=
  match dieType slot with
  | some 0 => [0, 1]
  | some 1 => (List.range 32).filter fun k => hasBundle (slot - 1) k
  | some 3 => [0, 1, 2, 3]
  | _ => []

/-- The value of TD_ROLE changes: before the tide has ever been LOCKED it returns to FREE; afterwards it slews to the new
source. The master has no offset, and so no alarm (R121). -/
def setRole (s : State) (w : Word) : State :=
  if w = rget s (blkTD.reg 0x018) then s
  else
    let s := rset s (blkTD.reg 0x018) w
    { s with tide := { s.tide with
        st := if s.tide.everLocked then s.tide.st else .free, offs := [], outst := none, alarm := s.tide.alarm && !w.getLsbD 0 } }

end Sys2Proof.Machine
end

