-- ==== Sys2Proof/Machine/ChartParse.lean ====
section
/-! DEFINITION. The chart as bytes: its layout, its sections and the checks of R223 (R207–R220, R224). -/

namespace Sys2Proof.Machine

/-! ## Reading fields -/

/-- A reader takes bytes from the front of a list, or finds that the record is malformed. -/
abbrev Reader (α : Type) := List Byte → Option (α × List Byte)

/-- The next `n` bytes. -/
def takeBytes (n : Nat) : Reader (List Byte) := fun l => if l.length < n then none else some (l.take n, l.drop n)

/-- A little-endian field of `n` bytes (R7). -/
def takeNat (n : Nat) : Reader Nat := fun l => (takeBytes n l).map fun r => (bytesToNat r.1, r.2)

/-- `n` reserved bytes, which are zero. -/
def takeZero (n : Nat) : Reader Unit := fun l => match takeNat n l with
  | some (0, r) => some ((), r)
  | _ => none

/-- `n` records in turn. -/
def takeMany {α : Type} (f : Reader α) : Nat → Reader (List α)
  | 0 => fun l => some ([], l)
  | n + 1 => fun l => match f l with
    | none => none
    | some (a, r) => match takeMany f n r with
      | none => none
      | some (as, r) => some (a :: as, r)

/-- The bits of a number from `lo` on, `n` of them. -/
def bits (x lo n : Nat) : Nat := x / 2 ^ lo % 2 ^ n

/-- `some a` where a condition holds. -/
def need {α : Type} (b : Bool) (a : α) : Option α := if b then some a else none

/-! ## Sections (R211–R220) -/

/-- A pier entry of a core-set record, as the cores it takes in increasing order. -/
def readPier : Reader (List CoreId) := fun l => do
  let (w, l) ← takeNat 4 l
  if h : bits w 22 4 < 12 ∧ bits w 16 6 < 48 ∧ w < 2 ^ 26 then
    some (((List.finRange 16).filter fun k => w.testBit k.val).map fun k =>
      ⟨⟨bits w 22 4, h.1⟩, ⟨bits w 16 6, h.2.1⟩, k⟩, l)
  else none

def readCoreSet : Reader CoreSetRec := fun l => do
  let (num, l) ← takeNat 2 l
  let (n, l) ← takeNat 2 l
  let (sram, l) ← takeNat 4 l
  let (ps, l) ← takeMany readPier n l
  need (decide (num < 4096 ∧ 1 ≤ n ∧ n ≤ 576)) (⟨num, sram, ps.flatten⟩, l)

def readRegion : Reader Region := fun l => do
  let (kind, l) ← takeNat 1 l
  let (peer, l) ← takeNat 1 l
  let (_, l) ← takeZero 6 l
  let (base, l) ← takeNat 8 l
  let (size, l) ← takeNat 8 l
  let (_, l) ← takeNat 8 l
  need (decide (kind ≤ 3 ∧ peer ≤ 15 ∧ base % 256 = 0 ∧ size % 256 = 0)) (⟨kind, peer, base, size⟩, l)

/-- ALLOC. -/
def readAlloc (c : Chart) : Reader Chart := fun l => do
  let (n, l) ← takeNat 2 l
  let (m, l) ← takeNat 2 l
  let (sets, l) ← takeMany readCoreSet n l
  let (regions, l) ← takeMany readRegion m l
  need (decide (n ≤ 4096 ∧ m ≤ 4096)) ({ c with sets := sets, regions := regions }, l)

/-- The ordered pairs of base dies in the order of ROUTE. -/
def routePairs : List (Nat × Nat) :=
  (List.range 6).flatMap fun x => ((List.range 6).filter fun y => x != y).map fun y => (x, y)

/-- The PATH bits of the route records, each of which names the pair that its place gives it. -/
def readRoutes : List (Nat × Nat) → Reader (BitVec 36)
  | [] => fun l => some (0, l)
  | (a, b) :: r => fun l => do
    let (w, l) ← takeNat 4 l
    let (m, l) ← readRoutes r l
    need (bits w 0 3 == a && bits w 4 3 == b && decide (w = bits w 0 3 + 16 * bits w 4 3 + 256 * bits w 8 1))
      (setBit m (a * 6 + b) (w.testBit 8), l)

def readPeerRec : Reader (Nat × Bool) := fun l => do
  let (w, l) ← takeNat 2 l
  need (decide (w = bits w 0 4 + 256 * bits w 8 1)) ((bits w 0 4, w.testBit 8), l)

/-- ROUTE. -/
def readRoute (c : Chart) : Reader Chart := fun l => do
  let (p, l) ← readRoutes routePairs l
  let (peers, l) ← takeMany readPeerRec 16 l
  some ({ c with path := p, relay := peers.map Prod.fst, bridge := peers.map Prod.snd }, l)

def readLane : Reader (BitVec 16) := fun l => do
  let (w, l) ← takeNat 2 l
  need (decide (w < 512)) (BitVec.ofNat 16 w, l)

/-- An engine word, in the layout of OE_CFG. -/
def readEngine : Reader Word := fun l => do
  let (w, l) ← takeNat 4 l
  need (decide (bits w 8 8 ≠ 0 ∧ bits w 1 7 = 0)) (BitVec.ofNat 32 w, l)

/-- Lane records by engine·256 + lane. -/
def laneTable : List (BitVec 16) → Nat → Tbl (BitVec 16)
  | [], _ => []
  | w :: r, i => if w = 0 then laneTable r (i + 1) else (i, w) :: laneTable r (i + 1)

/-- OPTIC, and the boot optical map of the installation record (R433). -/
def readOptic (c : Chart) : Reader Chart := fun l => do
  let (ls, l) ← takeMany readLane 2048 l
  let (ws, l) ← takeMany (takeNat 4) 16 l
  let (es, l) ← takeMany readEngine 8 l
  some ({ c with lanes := laneTable ls 0, minLanes := ws.map fun w => w % 65536, maxLanes := ws.map fun w => w / 65536,
                 engines := es }, l)

/-- TIDE, in the layout of TD_ROLE. -/
def readTide (c : Chart) : Reader Chart := fun l => do
  let (w, l) ← takeNat 4 l
  need (decide (w = bits w 0 1 + 16 * bits w 4 4 + 256 * bits w 8 2 ∧ bits w 8 2 ≤ 2)) ({ c with tide := BitVec.ofNat 32 w }, l)

def readRange : Reader BerthRange := fun l => do
  let (first, l) ← takeNat 4 l
  let (count, l) ← takeNat 4 l
  let (m, l) ← takeNat 512 l
  some (⟨first, count, BitVec.ofNat 4096 m⟩, l)

/-- An entry record, held to the rules of a commit (R164, R215). -/
def readEntry : Reader (Nat × BitVec 128) := fun l => do
  let (i, l) ← takeNat 4 l
  let (e, l) ← takeNat 16 l
  let e := BitVec.ofNat 128 e
  need (decide (i < 131072) && berthCode e == 0) ((i, e), l)

/-- BERTH. -/
def readBerth (c : Chart) : Reader Chart := fun l => do
  let (n, l) ← takeNat 2 l
  let (_, l) ← takeZero 2 l
  let (m, l) ← takeNat 4 l
  let (rs, l) ← takeMany readRange n l
  let (es, l) ← takeMany readEntry m l
  need (decide (n ≤ 64 ∧ m ≤ 131072)) ({ c with ranges := rs, entries := es }, l)

/-- A range record and its INIT word. DEDUCED: the fields of the record take one word, and INIT the other of its 8 bytes. -/
def readBoll : Reader BollRange := fun l => do
  let (w, l) ← takeNat 4 l
  let (init, l) ← takeNat 4 l
  need (bits w 14 2 == 0)
    (⟨bits w 0 14, if bits w 16 14 = 0 then 16384 else bits w 16 14, w.testBit 30, if w.testBit 31 then some (BitVec.ofNat 32 init) else none⟩, l)

/-- BOLL. -/
def readBolls (c : Chart) : Reader Chart := fun l => do
  let (n, l) ← takeNat 4 l
  let (rs, l) ← takeMany readBoll n l
  need (decide (n ≤ 64)) ({ c with bolls := rs }, l)

def readSpareRec : Reader SpareRec := fun l => do
  let (w, l) ← takeNat 4 l
  need (decide (bits w 17 6 < 48 ∧ bits w 23 4 < 12 ∧ w < 2 ^ 27)) (⟨bits w 23 4, bits w 17 6, BitVec.ofNat 17 w⟩, l)

/-- SPARE. -/
def readSpare (c : Chart) : Reader Chart := fun l => do
  let (n, l) ← takeNat 4 l
  let (rs, l) ← takeMany readSpareRec n l
  need (decide (n ≤ 576)) ({ c with spares := rs }, l)

def readVoyage : Reader VoyageRec := fun l => do
  let (v, l) ← takeNat 2 l
  let (set, l) ← takeNat 2 l
  let (entry, l) ← takeNat 2 l
  let (image, l) ← takeNat 2 l
  let (flags, l) ← takeNat 4 l
  need (decide (set < 4096 ∧ flags < 2)) (⟨v, set, entry, image, flags == 1⟩, l)

def readImage : Reader ImageRec := fun l => do
  let (num, l) ← takeNat 2 l
  let (_, l) ← takeZero 2 l
  let (off, l) ← takeNat 4 l
  let (len, l) ← takeNat 4 l
  let (b, l) ← takeBytes len l
  need (decide (off % 256 = 0 ∧ len % 256 = 0)) (⟨num, off, b⟩, l)

def readPreload : Reader PreloadRec := fun l => do
  let (a, l) ← takeNat 8 l
  let (len, l) ← takeNat 4 l
  let (_, l) ← takeZero 4 l
  let (b, l) ← takeBytes len l
  need (decide (a % 256 = 0 ∧ len % 256 = 0)) (⟨a, b⟩, l)

/-- CODE. -/
def readCode (c : Chart) : Reader Chart := fun l => do
  let (n, l) ← takeNat 2 l
  let (m, l) ← takeNat 2 l
  let (p, l) ← takeNat 4 l
  let (vs, l) ← takeMany readVoyage n l
  let (is, l) ← takeMany readImage m l
  let (ps, l) ← takeMany readPreload p l
  some ({ c with voyages := vs, images := is, preloads := ps }, l)

def readConst : Reader ConstRec := fun l => do
  let (v, l) ← takeNat 2 l
  let (set, l) ← takeNat 2 l
  let (t, l) ← takeNat 32 l
  let (off, l) ← takeNat 4 l
  let (len, l) ← takeNat 4 l
  let (b, l) ← takeBytes len l
  need (decide (set < 4096)) (⟨v, set, BitVec.ofNat 256 t, off, b⟩, l)

/-- CONST. -/
def readConsts (c : Chart) : Reader Chart := fun l => do
  let (n, l) ← takeNat 4 l
  let (rs, l) ← takeMany readConst n l
  some ({ c with consts := rs }, l)

def readPat : Reader SlackPat := fun l => do
  let (period, l) ← takeNat 8 l
  let (phase, l) ← takeNat 8 l
  let (len, l) ← takeNat 8 l
  let (kinds, l) ← takeNat 4 l
  let (_, l) ← takeZero 4 l
  need (decide (1000 ≤ period ∧ period ≤ 2 ^ 40 ∧ 1000 ≤ len ∧ len ≤ period ∧ phase < period ∧ kinds < 32))
    (⟨period, phase, len, BitVec.ofNat 32 kinds⟩, l)

/-- SLACK. -/
def readSlack (c : Chart) : Reader Chart := fun l => do
  let (n, l) ← takeNat 4 l
  let (ps, l) ← takeMany readPat n l
  need (decide (n ≤ 16)) ({ c with slack := ps }, l)

/-- The body of a section of a type of R209. -/
def readSection (ty : Nat) (c : Chart) : Reader Chart :=
  match ty with
  | 1 => readAlloc c
  | 2 => readRoute c
  | 3 => readOptic c
  | 4 => readTide c
  | 5 => readBerth c
  | 6 => readBolls c
  | 7 => readSpare c
  | 8 => readCode c
  | 9 => readConsts c
  | 10 => readSlack c
  | _ => fun _ => none

/-! ## The whole chart (R207–R210) -/

def maxChart : Nat := 0x3C00000
def lmsLength : Nat := 5716

/-- The bytes of a chart as LOAD reads them: the LENGTH of its header where that lies within R207 and hub SRAM, else the
header alone. -/
def chartSpan (s : State) (off : Nat) : Nat :=
  let n := s.mem.bytes.readNat (hubSramBase + off + 8) 4
  if 64 ≤ n ∧ n ≤ maxChart ∧ off + n ≤ hubSramSize then n else 64

/-- Step 1. -/
def headerOk (s : State) (b : List Byte) (off : Nat) : Bool :=
  let n := le b 8 4
  le b 0 4 == 0x54484351 && le b 4 2 == 2 && le b 6 2 == 0x4816 && decide (64 ≤ n ∧ n ≤ maxChart ∧ off + n ≤ hubSramSize) &&
    b.length == n && (le b 0x18 8 == 0 || le b 0x18 8 == (rget64 s ((blkID 0).reg 0x018)).toNat)

/-- A section: its type, its reserved bytes, its body and its CHECK, and the padding that follows. -/
structure Sect where
  ty : Nat
  reserved : Nat
  body : List Byte
  check : Nat
  pad : List Byte
  deriving DecidableEq, Repr

/-- Up to the next 64-byte boundary. -/
def align64 (n : Nat) : Nat := (n + 63) / 64 * 64

/-- The sections from offset `at_` on, and the offset of the signature block, where all of them lie in the chart. -/
def walkSections (b : List Byte) : Nat → Nat → Option (List Sect × Nat)
  | 0, p => some ([], p)
  | n + 1, p =>
    let len := le b (p + 4) 4
    if b.length < p + 16 + len then none
    else
      let next := align64 (p + 16 + len)
      match walkSections b n next with
      | none => none
      | some (r, q) =>
        some (⟨le b p 2, le b (p + 2) 2 + le b (p + 12) 4, (b.drop (p + 16)).take len, le b (p + 8) 4,
          (b.drop (p + 16 + len)).take (next - (p + 16 + len))⟩ :: r, q)

/-- Step 2: a slot that can verify a chart (R223, R441). -/
def slotVerifies (s : State) (i : Nat) : Option OwnerSlot :=
  let o := tget s.sec.owner i {}
  if i < 4 ∧ o.enrolled ∧ !o.revoked ∧ !o.damaged ∧ o.recordOk ∧ s.sec.lifecycle ≠ 3 then some o else none

/-- A big-endian field of a byte string. -/
def be (b : List Byte) (i n : Nat) : Nat := ((b.drop i).take n).foldl (fun m x => m * 256 + x.toNat) 0

/-- The typecodes of LMS_SHA256_M32_H20 and of LMOTS_SHA256_N32_W4 (PRESUMED: RFC 8554, which R436 names). -/
def lmsCode : Nat := 8
def otsCode : Nat := 3

/-- The typecodes in an HSS signature of two levels are those of R436 (PRESUMED: their places are those of RFC 8554). -/
def hssCodes (g : List Byte) : Bool :=
  be g 0 4 == 1 && [8, 2836, 2892].all (fun i => be g i 4 == otsCode) && [2188, 2832, 5072].all (fun i => be g i 4 == lmsCode)

/-- The typecodes in an HSS public key are those of R436. -/
def hssKeyCodes (p : List Byte) : Bool := be p 0 4 == 2 && be p 4 4 == lmsCode && be p 8 4 == otsCode

/-- The bytes of a signature block (R210, R436). -/
def sigSpan : Nat := 0x68 + lmsLength

/-- The ECDSA signature in the block at offset `q` of a byte string verifies over the bytes before it. -/
def ecdsaGood (key : List Byte) (b : List Byte) (q : Nat) : Bool :=
  le b q 4 == 0x42474953 && Config.ecdsaVerify key (b.take q) ((b.drop (q + 8)).take 96)

/-- The HSS signature in the block at offset `q` verifies over the bytes before it. -/
def hssGood (key : List Byte) (b : List Byte) (q : Nat) : Bool :=
  let g := (b.drop (q + 0x68)).take lmsLength
  le b (q + 4) 4 == lmsLength && hssKeyCodes key && hssCodes g && Config.hssVerify key (b.take q) g

/-- The signature block at offset `q` of a byte string of length `len`, over the bytes before it (R210, R436). -/
def signatureOk (o : OwnerSlot) (b : List Byte) (q len : Nat) : Bool :=
  decide (q + sigSpan = len) && ecdsaGood o.ecdsa b q && hssGood o.hss b q

/-- Step 3 for a list of sections whose types must exceed `last`. -/
def readSections : List Sect → Nat → Chart → Option Chart
  | [], _, c => some c
  | x :: r, last, c =>
    if x.ty ≤ last ∨ x.reserved ≠ 0 ∨ (crc32c x.body).toNat ≠ x.check ∨ x.pad.any (fun y => y != 0) then none
    else match readSection x.ty c x.body with
    | some (c, []) => readSections r x.ty c
    | _ => none

/-- Step 3. -/
def readChart (b : List Byte) (l : List Sect) : Option Chart :=
  let n := le b 0xC 2
  let c : Chart := { device := BitVec.ofNat 4 (le b 0xF 1), group := BitVec.ofNat 16 (le b 0x10 2), chartId := BitVec.ofNat 64 (le b 0x20 8),
                     owner := le b 0xE 1 }
  if n < 5 ∨ 10 < n ∨ 15 < le b 0xF 1 ∨ le b 0x12 6 ≠ 0 ∨ le b 0x28 24 ≠ 0 ∨ [1, 2, 3, 4, 8].any (fun t => l.all fun x => x.ty != t) then none
  else readSections l 0 c

/-! ## Step 4: references -/

/-- Two half-open intervals share something. -/
def meet (a b : Nat × Nat) : Bool := decide (max a.1 b.1 < min (a.1 + a.2) (b.1 + b.2))

/-- No two members of a list are related. -/
def apart {α : Type} (f : α → α → Bool) : List α → Bool
  | [] => true
  | a :: r => r.all (fun b => !f a b) && apart f r

def Chart.hasSet (c : Chart) (n : Nat) : Bool := c.sets.any fun r => r.num == n

/-- Regions overlap where they lie in one address space: this module's, or that of one peer (R211). -/
def regionsMeet (a b : Region) : Bool :=
  (a.kind == 2) == (b.kind == 2) && (a.kind != 2 || a.peer == b.peer) && meet (a.base, a.size) (b.base, b.size)

/-- The piers that a core set touches. -/
def Chart.piers (c : Chart) (set : Nat) : List Nat :=
  match c.sets.find? fun r => r.num == set with
  | some r => (r.cores.map fun i => pierKey i.c i.p).dedup
  | none => []

/-- Constants of two voyages overlap in a pier that they share (R219). -/
def constsMeet (c : Chart) (a b : ConstRec) : Bool :=
  meet (a.offset, a.bytes.length) (b.offset, b.bytes.length) && (c.piers a.set).any fun p => (c.piers b.set).contains p

/-- The image of a voyage is present and fits in SRAM_BYTES of its core set. -/
def voyageRefs (c : Chart) (v : VoyageRec) : Bool :=
  match c.sets.find? (fun r => r.num == v.set), c.images.find? (fun i => i.num == v.image) with
  | some r, some i => decide (i.offset + i.bytes.length ≤ r.sram)
  | _, _ => false

/-- Within each engine no two enabled lanes name one place (R311). -/
def placesApart (c : Chart) (n : Nat) : Bool :=
  let l := (c.lanes.filter fun e => e.1 / 256 == n && laneEn e.2).map fun e => e.2.extractLsb' 0 8
  apart (fun a b => a == b) l

/-- MIN_LANES toward a peer is within the enabled lanes of every link mapped to it (R313). -/
def minFits (c : Chart) (d : Nat) : Bool :=
  (enginesTo c d).all fun n => decide (c.minLanes.getD d 0 ≤ (linkLanes c n d).length)

/-- A preload lies in a KIND 0 region. -/
def preloadInside (c : Chart) (p : PreloadRec) : Bool :=
  c.regions.any fun r => r.kind == 0 && decide (r.base ≤ p.addr ∧ p.addr + p.bytes.length ≤ r.base + r.size)

/-- Step 4. -/
def refsAgree (c : Chart) : Bool :=
  c.voyages.all (voyageRefs c) && c.consts.all (fun r => c.hasSet r.set) &&
  c.ranges.all (fun r => (List.range 4096).all fun n => !r.mask.getLsbD n || c.hasSet n) &&
  apart (fun a b => a.num == b.num) c.sets && apart (fun a b => a.num == b.num) c.images &&
  apart (fun a b => a.voyage == b.voyage && a.set == b.set) c.voyages &&
  apart (fun a b => (a.voyage == b.voyage && a.set == b.set) || constsMeet c a b) c.consts &&
  apart (fun a b => meet (a.first, a.count) (b.first, b.count)) c.ranges &&
  apart (fun a b => meet (a.first, a.count) (b.first, b.count)) c.bolls &&
  apart regionsMeet c.regions &&
  (List.range 16).all (fun d => decide (c.minLanes.getD d 0 ≤ c.maxLanes.getD d 0) && minFits c d) &&
  (List.range 8).all (placesApart c) && c.group.getLsbD c.device.toNat &&
  ((List.range 16).filter fun d => c.bridge.getD d false) != [] &&
  ((List.range 16).filter fun d => c.bridge.getD d false).length == 1 &&
  (List.range 16).all (fun d => !c.bridge.getD d false || c.group.getLsbD d) &&
  c.preloads.all (preloadInside c)

/-! ## Step 5: places -/

/-- Where a region of each kind may lie (R211). -/
def kindPlace (kind : Nat) : Home → Bool
  | .hbm _ _ => true
  | .base _ _ => kind != 3
  | .hub _ => kind == 0 || kind == 2
  | _ => false

/-- From `a` up to `hi`, range by range, an address space is populated with places of a kind. -/
def placed (home : Nat → Option Home) (kind hi : Nat) : Nat → Nat → Bool
  | 0, _ => false
  | fuel + 1, a =>
    if hi ≤ a then true
    else match home a with
    | some h => kindPlace kind h && placed home kind hi fuel (rangeEnd a)
    | none => false

/-- A range of local addresses touches a retired page (R201). -/
def touchesRetired (s : State) (lo n : Nat) : Bool :=
  (List.range 16).any fun m => (tget s.mc m {}).retired.any fun e => meet (lo, n) (hbmBase m + e.2 * 0x400000, 0x400000)

/-- Step 5. A KIND 2 region is held against the common address map, since its home is another member's. -/
def placesAgree (s : State) (c : Chart) : Bool :=
  c.regions.all (fun r =>
    if r.kind = 2 then placed homeOf 2 (r.base + r.size) 32 r.base
    else placed s.home r.kind (r.base + r.size) 32 r.base && !touchesRetired s r.base r.size) &&
  c.preloads.all fun p => placed s.home 0 (p.addr + p.bytes.length) 32 p.addr && !touchesRetired s p.addr p.bytes.length

/-! ## Spare substitution (R68, R69) -/

/-- The failed sites of a pier: the fused map, the start-up self-test and the chart's exclusions. -/
def failedSites (s : State) (c : Chart) (d p : Nat) : BitVec 17 :=
  let ex := (c.spares.filter fun r => r.die == d && r.pier == p).foldl (fun m r => m ||| r.mask) 0
  (rget s ((blkPR d p).reg 0x014)).setWidth 17 ||| (rget s ((blkPR d p).reg 0x018)).setWidth 17 ||| ex

/-- The chart's exclusions of a pier, as PR_EXCLUDE holds them. -/
def excluded (c : Chart) (d p : Nat) : BitVec 17 := (c.spares.filter fun r => r.die == d && r.pier == p).foldl (fun m r => m ||| r.mask) 0

/-- The lowest failed site of 0–15. -/
def firstFailed (f : BitVec 17) : Option Nat := (List.range 16).find? fun k => f.getLsbD k

/-- PR_MAP for a set of failed sites: SUB_LOGICAL, SUB_VALID, ABSENT. -/
def mapWord (f : BitVec 17) : Word :=
  match firstFailed f with
  | none => 0
  | some k =>
    let low := (f.setWidth 16 : BitVec 16)
    if f.getLsbD 16 then fields 32 [(16, 0), (16, low.toNat)]
    else fields 32 [(4, k), (1, 1), (11, 0), (16, (setBit low k false).toNat)]

/-! ## Step 6: resources (R224) -/

structure Shortfall where
  res : Nat
  unit : Nat
  item : Nat
  amount : Nat
  deriving DecidableEq, Repr

/-- A shortfall of what a use exceeds. -/
def short (res unit item use have_ : Nat) : List Shortfall := if have_ < use then [⟨res, unit, item, use - have_⟩] else []

/-- The highest end among ranges. -/
def highest (l : List (Nat × Nat)) : Nat := (l.map fun r => r.1 + r.2).foldl max 0

/-- Bytes of a pier's constant store that a chart needs: its tables and constants together, or the highest end. -/
def constUse (c : Chart) (pk : Nat) : Nat :=
  let l := c.consts.filter fun r => (c.piers r.set).contains pk
  max ((l.map fun r => 32 + r.bytes.length).sum) (highest (l.map fun r => (r.offset, r.bytes.length)))

/-- Bytes of this module's regions that fall into a range. -/
def regionBytes (c : Chart) (lo n : Nat) : Nat :=
  ((c.regions.filter fun r => r.kind != 2).map fun r => min (r.base + r.size) (lo + n) - max r.base lo).sum

/-- Failed banks of a base die that no spare replaces: one whose request finds the spare in use (R202). -/
def unsparedBanks (s : State) (q : Nat) : Nat :=
  let w := rget s ((blkSC (slotQ q)).reg 0x030)
  match (tget s.sc (slotQ q) {}).spare with
  | some b => if w.getLsbD 31 && (field w 0 5).toNat != b then 1 else 0
  | none => 0

/-- Slots of an engine whose modulator has not been given up. -/
def lanesInService (s : State) (n : Nat) : Nat :=
  min 256 ((List.range slotCount).countP fun i => (ringGet (oeGet s n) (4896 + i)).st != .givenUp)

/-- Absent logical cores that a core set names, after substitution (R70). -/
def absentIn (s : State) (c : Chart) (r : CoreSetRec) : Nat :=
  r.cores.countP fun i => (mapWord (failedSites s c i.c i.p)).getLsbD (16 + i.k)

/-- Every instance short, in resource order. -/
def shortfalls (s : State) (c : Chart) : List Shortfall :=
  short 1 0 0 (highest (c.ranges.map fun r => (r.first, r.count))) 131072 ++
  short 2 0 0 (highest (c.bolls.map fun r => (r.first, r.count))) 16384 ++
  c.sets.flatMap (fun r => short 3 0 r.num r.sram coreSramSize) ++
  ((c.consts.flatMap fun r => c.piers r.set).dedup).flatMap (fun pk => short 4 (pk / 48) (pk % 48) (constUse c pk) 65536) ++
  (List.range 6).flatMap (fun q => short 5 q 0 (regionBytes c (baseSramBase q) baseSramSize) (baseSramSize - unsparedBanks s q * 0xC00000)) ++
  (List.range 16).flatMap (fun m => short 6 m 0 (regionBytes c (hbmBase m) hbmSize) (hbmSize - (tget s.mc m {}).retired.length * 0x400000)) ++
  (List.range 8).flatMap (fun n => short 7 n 0 (c.lanes.countP fun e => e.1 / 256 == n && laneEn e.2) (lanesInService s n)) ++
  c.sets.flatMap fun r => short 8 0 r.num (absentIn s c r) 0

/-! ## Verification (R223) -/

/-- What verification finds: the chart, or the first code and the shortfalls. -/
inductive Verdict where
  | loads (c : Chart)
  | fails (code : Nat) (l : List Shortfall) (signature : Bool)
  deriving DecidableEq, Repr

/-- The checks in order. -/
def verifyChart (s : State) (off : Nat) (b : List Byte) : Verdict :=
  if s.sec.lifecycle = 3 then .fails 3 [] false
  else if !headerOk s b off then .fails 1 [] false
  else match walkSections b (le b 0xC 2) 64, slotVerifies s (le b 0xE 1) with
  | some (l, q), some o =>
    if !signatureOk o b q b.length then .fails 3 [] true
    else match readChart b l with
    | none => .fails 2 [] false
    | some c =>
      if !refsAgree c then .fails 5 [] false
      else if !placesAgree s c then .fails 6 [] false
      else match shortfalls s c with
      | [] => .loads { c with digest := sha384 (b.take q) }
      | l => .fails 4 l false
  | _, _ => .fails 3 [] false

end Sys2Proof.Machine
end

