-- ==== Sys2Proof/Machine/Chart.lean ====
section
/-! DEFINITION. Harbourmaster commands: STOP, LOAD and RUN, and the distribution of a chart (R221–R231, R508, R509). -/

namespace Sys2Proof.Machine

/-! ## Results and states -/

def HmState.code : HmState → Nat
  | .empty => 0
  | .stopped => 1
  | .running => 2
  | .stopping => 3
  | .loading => 4
  | .failed => 5

/-- HM_STATE. -/
def hmStateWord (s : State) : Word := fields 32 [(3, s.hm.st.code), (1, 0), (1, (s.hm.st == .stopping && trafficHeld s).toNat)]

/-- HM_CHART_ID. -/
def chartIdOf (s : State) : Dword := match s.hm.chart with
  | some c => c.chartId
  | none => 0

/-- HM_RESULT without VALID. -/
def hmWord (cmd code short detail : Nat) : Word := fields 32 [(2, cmd), (2, 0), (8, code), (4, 0), (5, min short 31), (1, 0), (6, detail)]

/-- The words of the shortfall records that are kept. -/
def shortWords (l : List Shortfall) : List (Nat × Word) :=
  ((List.range 16).zip l).flatMap fun e =>
    let b := blkHM.reg (0x100 + 16 * e.1)
    [(b, fields 32 [(8, e.2.res), (8, e.2.unit)]), (b + 4, BitVec.ofNat 32 e.2.item),
     (b + 8, BitVec.ofNat 32 e.2.amount), (b + 12, BitVec.ofNat 32 (e.2.amount / 2 ^ 32))]

/-- The HARBOURMASTER event (R381). -/
def hmEvent (s : State) (w : Word) : State :=
  sendEvent s 0x0005 (fields 256 [(32, (hmStateWord s).toNat), (32, (w ||| validBit).toNat), (64, (chartIdOf s).toNat)])

/-- A command ends: HM_RESULT and the shortfalls captured with it, and for a nonzero code HM_REFUSED and the event. -/
def hmResult (s : State) (cmd code : Nat) (l : List Shortfall) (detail : Nat) : State :=
  let w := hmWord cmd code l.length detail
  let s := logCapture s (blkHM.reg 0x018) w (shortWords l)
  if code = 0 then s else hmEvent (cntAdd s (blkHM.reg 0x02C) 1) w

def hmSet (s : State) (st : HmState) : State := { s with hm := { s.hm with st := st } }

/-- HM_CMD is cleared once the command has been accepted or refused. -/
def hmTaken (s : State) : State := rset s (blkHM.reg 0x014) 0

/-- A command in a state that does not accept it (R221). -/
def hmWrongState (s : State) (cmd : Nat) : State := hmResult (hmTaken s) cmd 9 [] 0

/-! ## STOP (R132, R222) -/

/-- Every pending, held and armed entry is discarded. -/
def discardEntries (s : State) : State := { s with launch := { s.launch with table := [] } }

def stopCmd (s : State) : State :=
  if s.hm.st != .running then hmWrongState s 1
  else
    let s := discardEntries (hmSet (hmTaken s) .stopping)
    (running s).foldl (fun t set => killVoyage t set 0x20 0) s

/-- No core runs and no started descriptor remains. -/
def quiet (s : State) : Bool :=
  (running s).isEmpty && s.cores.tug.all fun t => t.2.slots.isEmpty && t.2.pend.isEmpty

/-- STOP_DONE. The end of a STOP leaves HM_RESULT as it stands, so that R230's case reads the LOAD refused after it there
(DEDUCED). -/
def execStopDone (s : State) : Result :=
  if s.hm.st == .stopping && quiet s then .next (cntAdd (hmSet s .stopped) (blkHM.reg 0x048) 1)
  else .next s

/-! ## LOAD: verification (R223) -/

/-- LOAD is accepted: BT is held BUSY, the shortfalls are cleared, and the chart is read as it stands. -/
def loadCmd (s : State) (value : Word) : State :=
  if s.hm.st != .empty && s.hm.st != .stopped && s.hm.st != .failed then hmWrongState s 2
  else
    let off := (field value 8 18).toNat * 256
    let s := setBusy (hmTaken s) blkBT true
    let s := (List.range 64).foldl (fun t i => rset t (blkHM.reg (0x100 + 4 * i)) 0) s
    let s := sramFix s (hubSramBase + off) (.user 0) 8
    let n := chartSpan s off
    let s := sramFix s (hubSramBase + off) (.user 0) ((n + 7) / 8)
    { s with hm := { s.hm with
        st := .loading
        loading := some { offset := off, start := s.now, bytes := s.mem.bytes.readBytes (hubSramBase + off) n, prior := s.hm.st } } }

/-- A LOAD ends: BT is released unless an invalidation still holds it, and HM_LOAD_TIME shows its duration. -/
def endLoad (s : State) (st : HmState) : State :=
  let micros := match s.hm.loading with
    | some l => (s.now - l.start) / 1000
    | none => 0
  let s := rset { s with hm := { s.hm with st := st, loading := none } } (blkHM.reg 0x034) (BitVec.ofNat 32 micros)
  if s.berth.op.isSome then s else setBusy s blkBT false

/-- Slots of the dies that are UP; the hub is one of them. -/
def upSlots (s : State) : List Nat := (List.range 41).filter fun i => i == 0 || dieState s i == .up

/-- Every optical endpoint. -/
def opticKeys : List Nat := (List.range 8).flatMap engineKeys

/-- Chart-class blocks of a list of slots, with the QL blocks of the optical endpoints of a list (R462, R463). -/
def chartBlocks (slots optic : List Nat) : List Blk :=
  ([blkTD] ++ (List.range 6).map blkQN ++ (bundleKeys ++ optic).map qlBlk ++
    ((List.range 41).flatMap fun i => (dlInst i).map fun k => blkDL i k) ++ (List.range 8).map blkOE).filter fun b => slots.contains b.slot

/-- A link that the new chart does not configure goes OFF, and what it holds is scuttled (R508). -/
def linkOff (s : State) (k : Nat) : State :=
  let s := interruptNego s k
  let s := rset (loopOff s k) ((qlBlk k).reg 0x010) 0
  if heldCount s k = 0 then s else scuttle s k

/-- Clear the core SRAM of every site of a compute die (R71). -/
def clearCoreSram (s : State) (slot : Nat) : State :=
  if dieType slot = some 2 then
    let lo := coreBase (slot - 8) 0 0
    let s := { s with cores := { s.cores with tug := tmap s.cores.tug {} fun key t => if tugDie key = slot - 8 then { t with part := none } else t } }
    s.setMem (s.mem.clear lo (lo + 0x80000000))
  else s

/-- A LOAD rewrites the RW registers of a chart-class block: those with bad parity start from their reset values, and the chart's follow
(R466; DESIGN CHOICE for what no part of a chart gives). -/
def rewriteBad (s : State) (b : Blk) : State :=
  let mine (r : Nat) : Bool := decide (b.base ≤ r ∧ r < b.base + 0x4000)
  let s := (s.regs.badPar.filter mine).foldl (fun t r => rset t r (regReset r)) s
  { s with regs := { s.regs with badPar := s.regs.badPar.filter fun r => !mine r } }

/-- Step 1 of R225. -/
def startDistribution (s : State) (c : Chart) (slots : List Nat) : State :=
  let s := (chartBlocks slots opticKeys).foldl (fun t b => rewriteBad (disableBlock t b) b) s
  let gone := match effChart s with
    | some o => (mapped o).filter fun k => !(mapped c).contains k
    | none => []
  slots.foldl clearCoreSram (gone.foldl linkOff s)

/-- LOAD_VERIFY_DONE. -/
def execLoadVerifyDone (s : State) : Result :=
  match s.hm.loading with
  | none => .next s
  | some l =>
    if l.chart.isSome then .next s
    else match verifyChart s l.offset l.bytes with
    | .fails code shorts sig =>
      let s := if sig then cntAdd s (blkSB.reg 0x064) 1 else s
      .next (hmResult (endLoad s l.prior) 2 code shorts 0)
    | .loads c =>
      let dies := upSlots s
      let s := startDistribution s c dies
      .next { s with hm := { s.hm with loading := some { l with chart := some c, dies := dies } } }

/-! ## LOAD: distribution (R225), by slot -/

/-- Step 2 on a base die: a pending bank request is carried out (R202). -/
def spareBank (s : State) (q : Nat) : State :=
  let slot := slotQ q
  let w := rget s ((blkSC slot).reg 0x030)
  let b := (field w 0 5).toNat
  let x := tget s.sc slot {}
  if !w.getLsbD 31 || (x.spare.isSome && x.spare != some b) then s
  else
    let lo := baseSramBase q
    let bad := (s.mem.sramErr.filter fun e => decide (lo ≤ e.1 * 8 ∧ e.1 * 8 < lo + baseSramSize) && e.1 / 32 % 32 == b).map fun e => e.1 * 8
    let entries := (s.mem.sideErr.filter fun e => decide (lo ≤ e.1 * 256 ∧ e.1 * 256 < lo + baseSramSize) && e.1 % 32 == b).map fun e => e.1 * 256
    let s := bad.foldl (fun t a => sramFixWord t a (.user 0)) s
    let s := entries.foldl (fun t a => sideFix t a (.user 0)) s
    rset { s with sc := tset s.sc slot { tget s.sc slot {} with spare := some b } {} } ((blkSC slot).reg 0x030) 0

/-- Step 2 for a compute die, whether it is UP or skipped: PR_EXCLUDE and PR_MAP of every pier (R68, R69, R509). -/
def substitute (s : State) (c : Chart) (d : Nat) : State :=
  (List.range 48).foldl (fun t p =>
    let b := blkPR d p
    rset (rset t (b.reg 0x01C) ((excluded c d p).setWidth 32)) (b.reg 0x010) (mapWord (failedSites t c d p))) s

/-- QN_ROUTE and QN_PEERd of a base die. -/
def writeRoutes (s : State) (c : Chart) (q : Nat) : State :=
  let bits : Word := BitVec.ofNat 32 ((List.range 6).map fun d => if c.path.getLsbD (q * 6 + d) then 2 ^ d else 0).sum
  let s := rset s ((blkQN q).reg 0x010) bits
  (List.range 16).foldl (fun t d => rset t ((blkQN q).reg (0x020 + 4 * d))
    (fields 32 [(4, relayOf c d), (4, 0), (1, (c.bridge.getD d false).toNat)])) s

/-- QL_CFG of a bundle endpoint, or of an optical one under the chart (R270, R313). -/
def qlCfgWord (c : Chart) (k : Nat) : Word :=
  match opticOf k with
  | some (n, d) => fields 32 [(9, c.minLanes.getD d 0), (7, 0), (9, min (c.maxLanes.getD d 0) (linkLanes c n d).length), (4, 0), (2, 2)]
  | none => fields 32 [(9, 32), (7, 0), (9, 64), (4, 0), (2, if k / 64 = 0 ∨ (k / 64 = slotQ 1 ∧ k % 64 < 2) then 1 else 0)]

/-- The lane records of a link under a chart. -/
def linkMap (c : Chart) (k : Nat) : List (Nat × BitVec 16) :=
  match opticOf k with
  | some (n, d) => (linkLanes c n d).map fun i => (i, laneRec c n i)
  | none => []

/-- An optical link's lanes have changed under the chart, or some of them are out (R225, R259). -/
def remapped (old : Option Chart) (c : Chart) (s : State) (k : Nat) : Bool :=
  let x := linkGet s k
  let same := match old with
    | some o => linkMap o k == linkMap c k
    | none => false
  !same || x.txOut != wiredOut s k true || x.rxOut != wiredOut s k false

/-- Lanes that are out are tried again at a chart load that maps them, and no message that waits says that they are out (R259). -/
def tryLanes (s : State) (k : Nat) : State :=
  linkMod (interruptNego s k) k fun y => { y with
    txOut := 0, rxOut := 0, waiting := y.waiting.filter fun p => !(p.ty == tyLink && msgOf p.payload == 6) }

/-- A link whose lanes have changed, or that is wider than its new MAX_LANES, trains again; its traffic waits. A MAX_LANES above the width leaves
the width to negotiation (DESIGN CHOICE for the same lanes under a lower MAX_LANES; R225, R313). -/
def retrainMapped (again : List Nat) (s : State) (k : Nat) : State :=
  let x := linkGet s k
  let wide := decide (maxW s k < widthOf x.txActive ∨ maxW s k < widthOf x.rxActive)
  if x.st == .off || !(again.contains k || wide) then s
  else trainLink (linkMod (interruptNego s k) k fun y => { y with silentAt := none, replayReq := none, retraining := false, serving := none, resend := none }) k

/-- OE_CFG and the lane maps of an engine. -/
def writeOptic (c : Chart) (s : State) (n : Nat) : State :=
  placeLanes (rset s ((blkOE n).reg 0x010) (c.engines.getD n 0)) n

/-- Bollards as BOLL sets them (R216). -/
def bollTable (l : List BollRange) : Tbl Word :=
  l.foldl (fun t r => match r.init with
    | some v => (List.range r.count).foldl (fun t i => tset t (r.first + i) v 0) t
    | none => t) []

/-- What the hub takes from a chart: TD_ROLE, bollards, the berth table's listed entries (steps 3 and 4). The quiet time counts anew
under the new chart's patterns (DESIGN CHOICE; R144). -/
def writeHub (s : State) (c : Chart) : State :=
  let s := setRole s c.tide
  let s := { s with boll := { s.boll with val := bollTable c.bolls }, slack := { s.slack with quiet := 0 } }
  c.entries.foldl (fun t e => berthSet t e.1 e.2) s

/-- A compute die's translation caches are invalidated. -/
def clearCaches (s : State) (d : Nat) : State :=
  (List.range 48).foldl (fun t p => pierSet t (pierKey d p) { pierGet t (pierKey d p) with cache := [] }) s

/-- Store bytes parcel by parcel with fresh checks; images are sealed UNVERIFIED (R92, R182). -/
def storeFresh (image : Bool) : Nat → MemSt → Nat → List Byte → MemSt
  | 0, m, _, _ => m
  | n + 1, m, a, b =>
    let p := Parcel.ofBytes (b.take 256)
    let m := { m.setParcel a ⟨p, parcelCheck p, false⟩ with sramErr := tclear m.sramErr (a / 8) (a / 8 + 32), sideErr := terase m.sideErr (a / 256) }
    storeFresh image n (if image then m.setSeal a sealUnverified else m) (a + 256) (b.drop 256)

/-- Images of the voyages of each core set, in every core of it on a compute die. -/
def writeImages (s : State) (c : Chart) (d : Nat) : State :=
  c.voyages.foldl (fun t v =>
    match c.sets.find? (fun r => r.num == v.set), c.images.find? fun i => i.num == v.image with
    | some r, some i => (r.cores.filter fun k => k.c == d).foldl (fun t k =>
        t.setMem (storeFresh true (i.bytes.length / 256) t.mem (coreBase k.c k.p k.k + i.offset) i.bytes)) t
    | _, _ => t) s

/-- Constants of the voyages in the constant stores of a compute die. -/
def writeConstants (s : State) (c : Chart) (d : Nat) : State :=
  let m := tclear s.cores.consts (pierKey d 0 * 65536) (pierKey (d + 1) 0 * 65536)
  let m := c.consts.foldl (fun m r => ((c.piers r.set).filter fun pk => pk / 48 == d).foldl
    (fun m pk => Memory.writeBytes m (pk * 65536 + r.offset) r.bytes) m) m
  { s with cores := { s.cores with consts := m } }

/-- One parcel of a preload. In HBM a region not yet released is dredged first (R172), and a page retired since the verification
discards it; the record names the pilot engine as the source (DESIGN CHOICE; R201). -/
def preloadParcel (s : State) (a : Nat) (p : Parcel) : State :=
  match homeOf a with
  | some (.hbm m off) =>
    if (mcGet s m).retiredPage (off / 0x400000) then retiredHit s m off true .pilot 0 else hbmStore s m off ⟨p, parcelCheck p, false⟩
  | _ => s.setMem (storeFresh false 1 s.mem a (Parcel.bytes p))

/-- The parcels of a preload that lie on the dies of a list of slots. -/
def writePreload (slots : List Nat) : Nat → State → Nat → List Byte → State
  | 0, s, _, _ => s
  | n + 1, s, a, b =>
    let on := match s.home a with
      | some (.hbm m _) => slots.contains (slotQ (stackHome m).1)
      | some (.base q _) => slots.contains (slotQ q)
      | some (.hub _) => slots.contains 0
      | _ => false
    writePreload slots n (if on then preloadParcel s a (Parcel.ofBytes (b.take 256)) else s) (a + 256) (b.drop 256)

/-- What a chart gives one die besides its substitution: steps 2, 3 and 5, and its caches. -/
def writeDie (c : Chart) (s : State) (slot : Nat) : State :=
  match dieType slot with
  | some 1 =>
    let q := slot - 1
    let s := writeRoutes (spareBank s q) c q
    ((bundleKeys ++ mapped c).filter fun k => k / 64 == slot).foldl (fun t k => rset t ((qlBlk k).reg 0x010) (qlCfgWord c k)) s
  | some 0 => (bundleKeys.filter fun k => k / 64 == 0).foldl (fun t k => rset t ((qlBlk k).reg 0x010) (qlCfgWord c k)) s
  | some 2 => writeConstants (writeImages (clearCaches s (slot - 8)) c (slot - 8)) c (slot - 8)
  | some 3 => writeOptic c s (slot - 24)
  | _ => s

/-- Enable blocks in turn, up to the first that refuses: its slot. -/
def enableAll (s : State) : List Blk → State × Option Nat
  | [] => (s, none)
  | b :: r => if enableCode s b = 0 then enableAll (enableBlock s b) r else (enableBlock s b, some b.slot)

/-- Distribution fails: no chart is in force (R226). -/
def loadFail (s : State) (slot : Nat) : State :=
  hmResult (endLoad { s with hm := { s.hm with chart := none } } .failed) 2 8 [] slot

/-- A die leaves UP while a chart is being distributed to it: the load fails (R290, R509). -/
def loadMeets (s : State) (slot : Nat) : State :=
  match s.hm.loading with
  | some l => if l.chart.isSome && l.dies.contains slot then loadFail s slot else s
  | none => s

/-- Steps 2 to 6 on a list of slots. -/
def distribute (s : State) (c : Chart) (slots : List Nat) : State × Option Nat :=
  let old := effChart s
  let s := { s with hm := { s.hm with
    chart := some c, moved := s.hm.moved.filter fun k => match old with
      | some o => o.path.getLsbD k == c.path.getLsbD k
      | none => false } }
  let again := (mapped c).filter (remapped old c s)
  let s := again.foldl tryLanes s
  let s := (List.range 12).foldl (fun t d => substitute t c d) s
  let s := ((List.range 8).filter fun n => !slots.contains (slotOE n)).foldl (fun t n => dropPlaces t c n) s
  let s := slots.foldl (writeDie c) s
  let s := (mapped c).foldl (retrainMapped again) s
  let s := writeHub s c
  let s := c.preloads.foldl (fun t p => writePreload slots (p.bytes.length / 256) t p.addr p.bytes) s
  enableAll s (chartBlocks slots (mapped c))

/-- A preload waits for a disabled MC of a die that takes part, which holds every request to its stack (R462). -/
def preloadHeld (s : State) (c : Chart) (slots : List Nat) : Bool :=
  c.preloads.any fun p => (List.range (p.bytes.length / 256)).any fun i => match s.home (p.addr + 256 * i) with
    | some (.hbm m _) => slots.contains (slotQ (stackHome m).1) && !enabled s (blkMC m)
    | _ => false

/-- LOAD_DISTRIBUTION_DONE. -/
def execLoadDistributionDone (s : State) : Result :=
  match s.hm.loading with
  | none => .next s
  | some l =>
    match l.chart with
    | none => .next s
    | some c =>
      if preloadHeld s c l.dies then .next s
      else match distribute s c l.dies with
      | (s, some slot) => .next (loadFail s slot)
      | (s, none) =>
        let s := cntAdd (endLoad s .stopped) (blkHM.reg 0x028) 1
        .next (hmEvent (hmResult s 2 0 [] 0) (hmWord 2 0 0 0))

/-- LOAD_FAILED: a die that was UP when distribution began fails to answer. -/
def execLoadFailed (slot : Fin 41) (s : State) : Result := .next (loadMeets s slot.val)

/-! ## RUN (R228, R463) -/

def runCmd (s : State) : State :=
  if s.hm.st != .stopped then hmWrongState s 3
  else
    let s := hmTaken s
    let keys := match s.hm.chart with
      | some c => mapped c
      | none => []
    match enableAll s ((chartBlocks (upSlots s) keys).filter fun b => !enabled s b) with
    | (s, some slot) => hmResult s 3 8 [] slot
    | (s, none) => hmResult (hmSet s .running) 3 0 [] 0

/-! ## HM_CMD -/

/-- A write of HM_CMD. -/
def hmCommand (s : State) (value : Word) : State :=
  if !hubUp s then s
  else if !value.getLsbD 31 then rset s (blkHM.reg 0x014) value
  else match (field value 0 2).toNat with
  | 0 => hmResult (hmTaken s) 0 10 [] 0
  | 1 => stopCmd s
  | 2 => loadCmd s value
  | _ => runCmd s

/-- A write of HM_CMD as a command of its own: CMD says which. -/
def hmRow (value : Word) (s : State) : Result :=
  if !hubUp s then .next s else softWrite s blkHM fun s => .next (hmCommand s value)

/-- STOP. -/
def execStop (value : Word) (s : State) : Result := hmRow value s
/-- LOAD. -/
def execLoad (value : Word) (s : State) : Result := hmRow value s
/-- RUN. -/
def execRun (value : Word) (s : State) : Result := hmRow value s
/-- HM_CMD_INVALID. -/
def execHmCmdInvalid (value : Word) (s : State) : Result := hmRow value s

end Sys2Proof.Machine
end

