-- ==== Sys2Proof/Machine/Flags.lean ====
section
/-! DEFINITION. The flags that an instruction leaves: poison (R95) and numerical events (R53), as writes of its bundle. -/

namespace Sys2Proof.Machine

/-- The events of an instruction. -/
def numWrites (e : NumEv) : List CoreWrite := if e.nan || e.ovf || e.sat then [.numeric e.nan e.ovf e.sat] else []

/-- A poisoned register used as an address, a branch condition, a count or a bollard value: the voyage reports it (R95). -/
def useWrites (p : Bool) : List CoreWrite := if p then [.poisonSeen] else []

/-- The poison bit that an instruction gives its destination: the OR over every register it reads (R95). -/
def srcPoison (k : CoreSt) (i : Instr) : Bool := k.anyPoison (reads i)

/-- The poison mark of the parcel at an address. -/
def parcelPoison (s : State) (a : Nat) : Bool := tget s.mem.poison (a / 256) false

/-- Consuming a parcel: counted and reported where it is poisoned (R54, R83, R112). -/
def consumeWrites (p : Bool) : List CoreWrite := if p then [.consumed true] else []

end Sys2Proof.Machine
end

