-- ==== Sys2Proof/Machine/Control.lean ====
section
/-! DEFINITION. Fetch (R93, R96), branches, END, TIDE and CSRR (R97, R98, R108). -/

namespace Sys2Proof.Machine

/-! ## Fetch -/

/-- Bundles in a line and lines in the instruction buffer (R96). -/
def ilines : Nat := 16

/-- Bring the line of a bundle into the buffer, unless it is held: the line, or the fault of its fetch (R93, R110). -/
def fetchLine (s : State) (c : CoreId) (idx : Nat) : State × (BitVec 512 ⊕ CFault) :=
  let k := coreGet s c
  match k.ibuf.find? fun l => l.line == idx / 4 with
  | some l => (coreSet s c { k with ibuf := l :: k.ibuf.erase l }, .inl l.data)
  | none =>
    let a := coreSram c + idx / 4 * 64
    let r := verifyRead s a 8
    if parcelPoison r.1 a then (r.1, .inr ⟨0x04, bankOf a, coreSram c + idx * 16⟩)
    else if r.2 then (r.1, .inr ⟨0x05, bankOf a, coreSram c + idx * 16⟩)
    else
      let d := BitVec.ofNat 512 (r.1.mem.bytes.readNat a 64)
      (coreMod r.1 c fun k => { k with ibuf := (⟨idx / 4, d⟩ :: k.ibuf).take ilines }, .inl d)

/-- A BSIG that names a member that cannot be reached (R99). -/
def badSignal (s : State) : Instr → Bool
  | .bsig _ _ _ i => i.getLsbD 18 && (field i 14 4).toNat != ownDev s && !reachable s (field i 14 4).toNat
  | _ => false

/-- The encoding and format faults of a bundle (R86, R87, R105, R110), or its two instructions. -/
def decodeBundle (s : State) (c : CoreId) (w0 w1 : Dword) : (Instr × Instr) ⊕ CFault :=
  match decodeSlot c 0 w0 with
  | none => .inr ⟨0x01, 0, 0⟩
  | some i0 =>
  if badSignal s i0 then .inr ⟨0x01, 0, 0⟩
  else match decodeSlot c 1 w1 with
  | none => .inr ⟨0x01, 1, 0⟩
  | some i1 =>
  if (destS i0).isSome && destS i0 == destS i1 then .inr ⟨0x01, 1, 0⟩
  else match badFormat i1 with
  | some f => .inr ⟨0x02, f, 0⟩
  | none =>
    match i1 with
    | .mma _ _ _ _ _ fb m _ =>
      if (if m.getLsbD 0 then (coreGet s c).wfmt1 else (coreGet s c).wfmt0) = some fb then .inl (i0, i1)
      else .inr ⟨0x02, fb.toNat, 0⟩
    | _ => .inl (i0, i1)

def isNop : Instr → Bool
  | .nop _ _ => true
  | _ => false

/-- A decoded bundle. A NOP beside another instruction needs no command of its own; of two NOPs slot 0's is the one
that is executed. -/
def newBundle (idx : Nat) (i : Instr × Instr) : Bundle :=
  { idx := idx, op0 := i.1, op1 := i.2, done0 := isNop i.1 && !isNop i.2, done1 := isNop i.2 }

/-- The last bundle index (R84). -/
def maxBundle : Nat := 65535

/-- INSTRUCTION_FETCH. -/
def execInstructionFetch (c : CoreId) (upset : List ParityBit) (s : State) : Result :=
  let k := coreGet s c
  if k.run = .running ∧ k.cur = none then
    let s := coreSet s c { k with badPar := upset ++ k.badPar }
    if maxBundle < k.pc then .next (coreFault s c ⟨0x03, 0, 0⟩ k.pc 0)
    else
      match fetchLine s c k.pc with
      | (t, .inr f) => .next (takeIssueFault t c f k.pc)
      | (t, .inl d) =>
        match decodeBundle t c (field d (128 * (k.pc % 4)) 64) (field d (128 * (k.pc % 4) + 64) 64) with
        | .inr f => .next (coreFault t c f k.pc 0)
        | .inl i => .next (takeTugHit (coreMod t c fun k' => { k' with cur := some (newBundle k.pc i) }) c)
  else .next s

/-! ## Branches and jumps -/

/-- A branch or jump: its target where it is taken (an out-of-range one has faulted at issue), and a poisoned condition
or address reported (R95). -/
def branchOp (c : CoreId) (i : Instr) (more : CoreSt → List CoreWrite) (s : State) : Result :=
  .next (slotPure c 0 i (fun _ k =>
    (match branchTarget k k.idx i with
      | some t => [.branch t.toNat]
      | none => []) ++ more k ++ useWrites (srcPoison k i)) s)

def execBeq (c : CoreId) (a b : Reg) (imm : Word) (s : State) : Result := branchOp c (.beq c a b imm) (fun _ => []) s
def execBne (c : CoreId) (a b : Reg) (imm : Word) (s : State) : Result := branchOp c (.bne c a b imm) (fun _ => []) s
def execBlt (c : CoreId) (a b : Reg) (imm : Word) (s : State) : Result := branchOp c (.blt c a b imm) (fun _ => []) s
def execBltu (c : CoreId) (a b : Reg) (imm : Word) (s : State) : Result := branchOp c (.bltu c a b imm) (fun _ => []) s
def execJmp (c : CoreId) (imm : Word) (s : State) : Result := branchOp c (.jmp c imm) (fun _ => []) s
/-- sD = the index of the next bundle. -/
def execJal (c : CoreId) (d : Reg) (imm : Word) (s : State) : Result :=
  branchOp c (.jal c d imm) (fun k => [.sreg d (BitVec.ofNat 64 (k.idx + 1)) false]) s
def execJr (c : CoreId) (a : Reg) (s : State) : Result := branchOp c (.jr c a) (fun _ => []) s

/-! ## END (R108) -/

def execEndVoyage (c : CoreId) (s : State) : Result := .next (slotPure c 0 (.endVoyage c) (fun _ _ => [.ending]) s)

/-- END_RETIRE: the queues are empty, every WLD and MMA has finished and every accumulator result is complete. -/
def execEndRetire (c : CoreId) (s : State) : Result :=
  let k := coreGet s c
  if k.run = .waitEnd ∧ k.wq = [] ∧ k.aq = [] ∧ k.accPending = 0 then .next (coreSet s c { k with run := .ended })
  else .next s

/-! ## TIDE and CSRR -/

/-- The ages in whole tide ticks that a core's reading may have: up to 2 core cycles and 2 tide ticks (R27). -/
def tideAge (s : State) (die : Nat) : Nat := 2000 / coreMHz s die + 3

/-- What a core reads: a value current at most `tideAge − 1` ticks ago, never below what it read before (R27). -/
def tideReading (s : State) (c : CoreId) : Dword :=
  let now := (dieTide s (slotC c.c)).toNat
  BitVec.ofNat 64 (max (now - s.free % tideAge s c.c) (min (voyGet s c).lastTide.toNat now))

def execTide (c : CoreId) (d : Reg) (s : State) : Result :=
  .next (slotRun c 0 (.tide c d) (fun t _ =>
    let v := tideReading t c
    (voySet t.takeFree c { voyGet t c with lastTide := v }, some [.sreg d v false])) s)

/-- The items of R98. -/
def csrItem (s : State) (c : CoreId) (item : Nat) : Dword :=
  let v := voyGet s c
  match item with
  | 0 => BitVec.ofNat 64 c.k
  | 1 => BitVec.ofNat 64 c.p
  | 2 => BitVec.ofNat 64 c.c
  | 3 => BitVec.ofNat 64 v.rank
  | 4 => BitVec.ofNat 64 v.size
  | 5 => v.voyage.setWidth 64
  | 6 => v.time
  | 7 => BitVec.ofNat 64 (ownDev s)
  | 8 => BitVec.ofNat 64 (siteOf s c.c c.p c.k)
  | _ => v.fire

def execCsrr (c : CoreId) (d : Reg) (imm : Word) (s : State) : Result :=
  .next (slotPure c 0 (.csrr c d imm) (fun t _ => [.sreg d (csrItem t c imm.toNat) false]) s)

end Sys2Proof.Machine
end

