-- ==== Sys2Proof/Machine/CoreEvents.lean ====
section
/-! DEFINITION. The watchdog, the end of a faulted voyage, and the slack-water self-test (R78, R80–R82, R111). -/

namespace Sys2Proof.Machine

/-- Core cycles without a bundle retired (R78), in thousandths. -/
def watchdogTime : Nat := 2 ^ 24 * 1000

/-- CORE_WATCHDOG: cause 0x08; CO_FAULT_LOC names the next bundle to issue (R78, R110). -/
def execCoreWatchdog (c : CoreId) (s : State) : Result :=
  let k := coreGet s c
  if (k.run = .running ∨ k.run = .waitEnd) ∧ watchdogTime ≤ k.idle then .next (coreFault s c ⟨0x08, 0, 0⟩ k.idx 0) else .next s

/-- VOYAGE_FAULT_END: every core of the set has stopped and no started descriptor remains (R111). -/
def execVoyageFaultEnd (set : Fin 4096) (s : State) : Result :=
  match voyageGet s set.val with
  | none => .next s
  | some v =>
    match v.ending with
    | none => .next s
    | some code =>
      if (setCores s set.val).any (fun c => (coreGet s c).run.active) || !setDrained s set.val then .next s
      else .next (finishVoyage s set.val v code)

/-! ## Self-test -/

/-- Sites of a pier (R65), slices of a complete test (R80). -/
def siteCount : Nat := 17
def sliceCount : Nat := 16

/-- The logical core that a site carries, if it carries one. -/
def coreAt (s : State) (c p j : Nat) : Option Nat := (List.range 16).find? fun k => siteOf s c p k == j

/-- A site runs no voyage and no launch is armed for it. -/
def siteFree (s : State) (die : Fin 12) (pier : Fin 48) (j : Nat) : Bool :=
  match coreAt s die.val pier.val j with
  | none => true
  | some k =>
    let holds (set : Nat) : Bool := (setCores s set).any fun c => c.die == die && c.pier == pier && c.k == k
    !((running s).any holds || ((entriesIn s .armed).map fun e => e.2.set).any holds)

/-- The site on which the next slice runs: the one whose turn it is, or the next that is free. -/
def nextSite (s : State) (die : Fin 12) (pier : Fin 48) (t : SelfTest) : Option Nat :=
  ((List.range siteCount).map fun i => (t.site + i) % siteCount).find? fun j => siteFree s die pier j

/-- A slice has ended: its result, and after the sixteenth the result of the complete test (R82). -/
def sliceDone (s : State) (die : Fin 12) (pier : Fin 48) (j : Nat) (passed : Bool) : State :=
  let pk := pierKey die.val pier.val
  let p := pierGet s pk
  let n := tget p.test.slices j 0 + 1
  let failed := setBit p.test.failed j (p.test.failed.getLsbD j || !passed)
  let last := n == sliceCount
  let ok := last && !failed.getLsbD j
  let bad := if !passed then setBit p.test.bad j true else if ok then setBit p.test.bad j false else p.test.bad
  let test := { p.test with
    active := none, bad := bad, slices := tset p.test.slices j (if last then 0 else n) 0
    failed := if last then setBit failed j false else failed, site := if last then (j + 1) % siteCount else j }
  let s := pierSet s pk { p with test := test }
  let b := blkCO die.val pier.val j
  let s := if passed then s else logRecord (cntAdd s (b.reg 0x05C) 1) 0x0204 b.slot pier.val j 0 0
  if ok then cntAdd s (b.reg 0x058) 1 else s

/-- SELF_TEST_SLICE: a slice begins on a free site while a window that admits it has 8 µs left; given again once the 8 µs
have passed, it ends with what the signature registers showed (R80). -/
def execSelfTestSlice (die : Fin 12) (pier : Fin 48) (passed : Bool) (s : State) : Result :=
  let pk := pierKey die.val pier.val
  let p := pierGet s pk
  if dieState s (slotC die.val) != .up then .next s
  else match p.test.active with
  | some (j, t) =>
    if s.tide.hub.toNat < t.toNat + 8000 then .next s else .next (sliceDone s die pier j passed)
  | none =>
    if windowLeft s kindSelfTest < 8000 then .next s
    else match nextSite s die pier p.test with
    | none => .next s
    | some j => .next (pierSet s pk { p with test := { p.test with active := some (j, s.tide.hub) } })

end Sys2Proof.Machine
end

