-- ==== Sys2Proof/Machine/CoreMem.lean ====
section
/-! DEFINITION. Loads, stores, bollard instructions and TUGP (R91–R95, R97, R99, R100). -/

namespace Sys2Proof.Machine

/-- The address of an instruction with an SRAM operand. -/
def memAddr (k : CoreSt) (i : Instr) : Nat := match operandAddr k i with
  | some (a, _) => a
  | none => 0

/-- A load into an s register of `n` bytes, zero-extended. -/
def loadOp (c : CoreId) (i : Instr) (d a : Reg) (n : Nat) (s : State) : Result :=
  .next (slotPure c 0 i (fun t k =>
    let x := memAddr k i
    let p := parcelPoison t x
    .sreg d (BitVec.ofNat 64 (t.mem.bytes.readNat x n)) (p || k.sp a) :: (consumeWrites p ++ useWrites (k.sp a))) s)

def execLd (c : CoreId) (d a : Reg) (imm : Word) (s : State) : Result := loadOp c (.ld c d a imm) d a 8 s
def execLw (c : CoreId) (d a : Reg) (imm : Word) (s : State) : Result := loadOp c (.lw c d a imm) d a 4 s

/-- A store of the low `n` bytes of sB. -/
def storeOp (c : CoreId) (i : Instr) (a b : Reg) (n : Nat) (s : State) : Result :=
  .next (slotPure c 0 i (fun _ k =>
    .store (memAddr k i) n ((k.s b).toNat % 2 ^ (8 * n)) (k.sp a || k.sp b) :: useWrites (k.sp a)) s)

def execSd (c : CoreId) (a b : Reg) (imm : Word) (s : State) : Result := storeOp c (.sd c a b imm) a b 8 s
def execSw (c : CoreId) (a b : Reg) (imm : Word) (s : State) : Result := storeOp c (.sw c a b imm) a b 4 s

def execVld (c : CoreId) (d a : Reg) (imm : Word) (s : State) : Result :=
  .next (slotPure c 1 (.vld c d a imm) (fun t k =>
    let x := memAddr k (.vld c d a imm)
    let p := parcelPoison t x
    .vreg d (Parcel.ofBytes (t.mem.bytes.readBytes x 256)) (p || k.sp a) :: (consumeWrites p ++ useWrites (k.sp a))) s)

def execVst (c : CoreId) (d a : Reg) (imm : Word) (s : State) : Result :=
  .next (slotPure c 1 (.vst c d a imm) (fun _ k =>
    .storeParcel (memAddr k (.vst c d a imm)) (k.v d) (k.vp d || k.sp a) :: useWrites (k.sp a)) s)

/-! ## Bollards (R99) -/

/-- The bollard a core's instruction names. -/
def bollOf (k : CoreSt) (a : Reg) (imm : Word) : Nat := ((field imm 0 14).toNat + (k.s a).toNat) % 16384

/-- The core's die reaches the hub; a signal or a read waits while it does not (R264). -/
def hubReach (s : State) (c : CoreId) : Bool := reachHome s (c.c / 2, false) (.hub 0)

/-- BSIG: retires once the local hub has accepted the signal (R91). -/
def execBsig (c : CoreId) (a b : Reg) (imm : Word) (s : State) : Result :=
  .next (slotRun c 0 (.bsig c a b imm) (fun t k =>
    if hubReach t c then
      let n := bollOf k a imm
      let v := (k.s b).setWidth 32
      let dev := (field imm 14 4).toNat
      (t, some ((if imm.getLsbD 18 && dev != ownDev t then .signalRemote dev n v else .signal n v)
        :: useWrites (k.sp a || k.sp b)))
    else (t, none)) s)

/-- BWAIT: the core waits, takes its watch slot at the hub once a route leads there, and BOLLARD_RELEASE ends the wait (R138). -/
def execBwait (c : CoreId) (a b : Reg) (imm : Word) (s : State) : Result :=
  .next (slotRun c 0 (.bwait c a b imm) (fun t k =>
    if (watchGet t (.core c)).isSome then (t, none)
    else if hubReach t c = false then (coreMod t c fun k => { k with run := .waitBollard }, none)
    else
      let n := bollOf k a imm
      let t := (useWrites (k.sp a || k.sp b)).foldl (applyWrite c k.idx) t
      let t := watchHits (watchSet t (.core c) (some { boll := n, target := (k.s b).setWidth 32 })) n
      (coreMod t c fun k => { k with run := .waitBollard }, none)) s)

def execBread (c : CoreId) (d a : Reg) (imm : Word) (s : State) : Result :=
  .next (slotRun c 0 (.bread c d a imm) (fun t k =>
    if hubReach t c then
      (t, some (.sreg d ((bollGet t (bollOf k a imm)).setWidth 64) (k.sp a) :: useWrites (k.sp a)))
    else (t, none)) s)

/-! ## TUGP (R72, R91) -/

/-- Descriptor slots of a tug. -/
def tugSlots : Nat := 16

/-- Slots in use: posted or started chains, and chains whose last DONE is awaited (R72, R73). -/
def TugSt.used (t : TugSt) : Nat := t.slots.length + (t.pend.filter fun x => x.last).length

/-- Read a descriptor from the posting core's SRAM: its 64 bytes, and whether they are poisoned or uncorrectable. The fetch reads part
of a parcel and carries no check onward, so it leaves an OPEN parcel OPEN (DESIGN CHOICE; R94). -/
def fetchDesc (s : State) (a : Nat) : State × BitVec 512 × Bool :=
  let t := sramFix s a (.user 0) 8
  (t, BitVec.ofNat 512 (t.mem.bytes.readNat a 64), parcelPoison t a)

/-- The core waits while the tug's slots are full; then the tug fetches the descriptor. -/
def execTugp (c : CoreId) (a : Reg) (m : BitVec 3) (s : State) : Result :=
  .next (slotRun c 0 (.tugp c a m) (fun t k =>
    let key := tugKey c.c c.p (m.toNat % 2)
    if tugSlots ≤ (tugGet t key).used then (coreMod t c fun k => { k with run := .waitTug }, none)
    else
      let r := fetchDesc t (k.s a).toNat
      let x := tugGet r.1 key
      let v := voyGet r.1 c
      let slot : TugSlot := { core := c, loc := k.idx, set := v.set, voyage := v.voyage, desc := r.2.1,
                              poisoned := r.2.2, serial := x.serial }
      let u := tugSet r.1 key { x with slots := x.slots ++ [slot], serial := x.serial + 1 }
      (coreMod u c fun k => { k with run := .running }, some (useWrites (k.sp a)))) s)

end Sys2Proof.Machine
end

