-- ==== Sys2Proof/Machine/PilotOps.lean ====
section
/-! DEFINITION. Pilot datagrams as the module sends and reads them: layout, retention and routes (R365–R379). -/

namespace Sys2Proof.Machine

/-! ## Settings -/

def plCfg (s : State) : Word := cfg s blkPL 0x010
def jumbo (s : State) : Bool := (plCfg s).getLsbD 4
/-- The largest pilot datagram (R366). -/
def maxDgram (s : State) : Nat := if jumbo s then 8256 else 1312
/-- The role of a port is PEER (R365). -/
def isPeerPort (s : State) (p : Fin 2) : Bool := (plCfg s).getLsbD (2 + p.val)
def portLink (s : State) (p : Fin 2) : Bool := if p = 0 then s.pl.link0 else s.pl.link1
/-- A port is enabled and its link is up. -/
def portLive (s : State) (p : Fin 2) : Bool := (plCfg s).getLsbD p.val && portLink s p
/-- The pilot engine serves traffic (R462, R466). -/
def pilotOn (s : State) : Bool := hubUp s && enabled s blkPL && !inSafe s blkPL

/-- The bridge of the group, by the chart in force or the installation record (R212, R379). -/
def bridgeOf (s : State) : Option Nat := match effChart s with
  | some c => (List.range 16).find? fun d => c.bridge.getD d false
  | none => none
/-- This module is the bridge. -/
def isBridge (s : State) : Bool := bridgeOf s == some (ownDev s)

/-- The tag of the frames that the module sends: VID and PCP, while VLAN_EN is set (R364, R385). -/
def sentTag (s : State) : Option (BitVec 12 × BitVec 3) :=
  if (plCfg s).getLsbD 6 then some (field (plCfg s) 8 12, field (plCfg s) 20 3) else none

/-- A datagram leaves on a port. -/
def emitDgram (s : State) (p : Fin 2) (d : Dgram) : State := s.emit (.dgram p d (sentTag s))

/-! ## Bytes (R366, R367) -/

def PMsg.length (m : PMsg) : Nat := 16 + m.body.length
def Dgram.length (d : Dgram) : Nat := 16 + (d.msgs.map PMsg.length).sum

def msgBytes (m : PMsg) : List Byte :=
  [m.ty, m.flags] ++ natToBytes 2 m.body.length ++ natToBytes 4 m.tag.toNat ++ natToBytes 8 m.addr.toNat ++ m.body

def dgramBytes (d : Dgram) : List Byte :=
  natToBytes 2 0x5051 ++ [1, BitVec.ofNat 8 (d.dev.toNat + if d.fromDevice then 128 else 0)] ++ natToBytes 2 d.session.toNat ++
  natToBytes 2 d.msgs.length ++ natToBytes 4 d.seq.toNat ++ natToBytes 4 d.ack.toNat ++ d.msgs.flatMap msgBytes

/-- A field of a byte string. -/
def leAt (b : List Byte) (i n : Nat) : Nat := bytesToNat ((b.drop i).take n)

/-- `n` messages that take up a byte string exactly. -/
def readMsgs : Nat → List Byte → Option (List PMsg)
  | 0, b => if b.isEmpty then some [] else none
  | n + 1, b =>
    let len := leAt b 2 2
    if b.length < 16 + len ∨ len % 4 ≠ 0 then none
    else (readMsgs n (b.drop (16 + len))).map fun r =>
      { ty := BitVec.ofNat 8 (leAt b 0 1), flags := BitVec.ofNat 8 (leAt b 1 1), tag := BitVec.ofNat 32 (leAt b 4 4)
        addr := BitVec.ofNat 64 (leAt b 8 8), body := (b.drop 16).take len } :: r

/-- The datagram that a byte string holds. -/
def readDgram (b : List Byte) : Option Dgram :=
  if b.length < 16 ∨ leAt b 0 2 ≠ 0x5051 ∨ leAt b 2 1 ≠ 1 ∨ leAt b 3 1 / 16 % 8 ≠ 0 then none
  else (readMsgs (leAt b 6 2) (b.drop 16)).map fun ms =>
    { dev := BitVec.ofNat 4 (leAt b 3 1), fromDevice := decide (128 ≤ leAt b 3 1), session := BitVec.ofNat 16 (leAt b 4 2)
      seq := BitVec.ofNat 32 (leAt b 8 4), ack := BitVec.ofNat 32 (leAt b 12 4), msgs := ms }

/-! ## Routes (R365, R377–R379) -/

/-- The PILOT parcels that carry a datagram toward a member, `n` of them from segment `i` on (R378). -/
def pilotParcels (src dev len i : Nat) : Nat → List Byte → List QPar
  | 0, _ => []
  | n + 1, b =>
    let seg := b.take 248
    let head := fields 64 [(8, src), (8, (if i = 0 then 1 else 0) + if n = 0 then 2 else 0), (16, i), (16, len)]
    let p : Parcel := head.setWidth 2048 ||| (Parcel.ofBytes seg <<< 64)
    controlPar tyPilot 3 dev p (BitVec.ofNat 6 ((seg.length + 8) / 4 - 1)) :: pilotParcels src dev len (i + 1) n (b.drop 248)

/-- Send a datagram to a member over channel 3. -/
def sendPilot (s : State) (dev : Nat) (d : Dgram) : State :=
  let b := dgramBytes d
  (pilotParcels (ownDev s) dev b.length 0 ((b.length + 247) / 248) b).foldl (fun t p => sendTo t hubPoint p) s

/-- The endpoint of channel 3 toward a member, under the map in force. -/
def pilotKey (s : State) (dev : Nat) : Option Nat := (effChart s).bind fun c => sendKey s c dev 3 0

/-- A member can be reached over Quayline now. -/
def overQuayline (s : State) (dev : Nat) : Bool := match pilotKey s dev with
  | some k => isUp s k
  | none => false

/-- A PEER port in service. -/
def peerPort (s : State) : Option (Fin 2) := [(0 : Fin 2), 1].find? fun p => portLive s p && isPeerPort s p

/-- The port on which a datagram came in. -/
def pathPort : PilotPath → Option (Fin 2)
  | .port p => some p
  | .link _ => none

/-- Toward a member, but not back out on the port it came in on: over Quayline where a link is up, else out on a PEER port, else held
behind the link until it returns (R264, R379); none where nothing leads there. -/
def toMember (s : State) (came : Option (Fin 2)) (dev : Nat) (d : Dgram) : Option State :=
  let held : Option State := (pilotKey s dev).map fun _ => sendPilot s dev d
  if overQuayline s dev then some (sendPilot s dev d)
  else match peerPort s with
  | some p => if came = some p then held else some (emitDgram s p d)
  | none => held

/-- Count a datagram for which there is no route. -/
def noRoute (s : State) : State := cntAdd s (blkPL.reg 0x080) 1

/-- The HOST port that a datagram for the host leaves on: the one the last in-order datagram came in on, or the other
while that port's link is down. -/
def hostPort (s : State) (p : Fin 2) : Option (Fin 2) :=
  [p, if p = 0 then 1 else 0].find? fun q => portLive s q && !isPeerPort s q

/-- Out to the host on its HOST port. What has no way now is sent again later (R374). -/
def toHost (s : State) (p : Fin 2) (d : Dgram) : State := match hostPort s p with
  | some q => emitDgram s q d
  | none => s

/-- Back the way in which a host datagram came. -/
def sendBack (s : State) (back : PilotPath) (d : Dgram) : State := match back with
  | .port p => if portLive s p then emitDgram s p d else s
  | .link src => (toMember s none src d).getD (noRoute s)

/-- Toward the host: by way of the bridge, or, where the map in force names none, back the way in which the host's datagram came
(R377, R379). -/
def upward (s : State) (came : Option (Fin 2)) (back : Option PilotPath) (d : Dgram) : State :=
  match bridgeOf s, back with
  | some b, _ => if b = ownDev s then toHost s 0 d else (toMember s came b d).getD (noRoute s)
  | none, some way => sendBack s way d
  | none, none => noRoute s

/-- Put a datagram of this module on its way to the host. -/
def sendOut (s : State) (d : Dgram) : State :=
  match s.pl.path with
  | .port p => if isPeerPort s p then upward s none (some (.port p)) d else toHost s p d
  | .link src => upward s none (some (.link src)) d

/-- Datagrams kept until they are acknowledged, at most, in number and in bytes (R374). -/
def keepLimit : Nat := 512
def keepBytes : Nat := 4194304

/-- There is room for another datagram. -/
def keepRoom (s : State) : Bool := decide (s.pl.sent.length < keepLimit ∧ (s.pl.sent.map Dgram.length).sum < keepBytes)

/-- The SEQ after another: 0 numbers no datagram of a session (R366, R370). -/
def nextSeq (x : Word) : Word := if x + 1 = 0 then 1 else x + 1

/-- Send messages in a new datagram, which also acknowledges. -/
def pilotSend (s : State) (ms : List PMsg) : State :=
  let d : Dgram := { dev := BitVec.ofNat 4 (ownDev s), fromDevice := true, session := s.pl.session, seq := nextSeq s.pl.txSeq, ack := s.pl.rxAck, msgs := ms }
  let s := { s with pl := { s.pl with
    txSeq := nextSeq s.pl.txSeq, sentAt := if s.pl.sent.isEmpty then s.now else s.pl.sentAt, sent := s.pl.sent ++ [d], owed := 0 } }
  sendOut s d

/-- An acknowledgement alone: SEQ 0 and no messages (R371). -/
def pilotAck (s : State) : State :=
  sendOut { s with pl := { s.pl with owed := 0 } }
    { dev := BitVec.ofNat 4 (ownDev s), fromDevice := true, session := s.pl.session, seq := 0, ack := s.pl.rxAck, msgs := [] }

/-- A reply to a message. -/
def reply (s : State) (ty : Byte) (m : PMsg) (body : List Byte) : State :=
  pilotSend s [{ ty := ty, flags := 0, tag := m.tag, addr := m.addr, body := body }]

/-- The body of STATUS. -/
def statusBody (m : PMsg) (code : Nat) : List Byte := [BitVec.ofNat 8 code, 0, m.ty, 0]

/-- STATUS for a message that fails (R375). -/
def statusMsg (s : State) (m : PMsg) (code : Nat) : State :=
  reply (cntAdd s (blkPL.reg 0x06C) 1) 0x81 m (statusBody m code)

/-- The body of MEM_DATA for parcels: flag byte and data of each (R368). -/
def memBody (l : List (Byte × Parcel)) : List Byte :=
  l.map Prod.fst ++ List.replicate (32 - l.length) 0 ++ l.flatMap fun x => Parcel.bytes x.2

/-- MEM_DATA. -/
def memData (s : State) (m : PMsg) (l : List (Byte × Parcel)) : State := reply s 0x84 m (memBody l)

/-- Send answers, oldest first, as far as there is room to keep them (R374). A STATUS is counted as it is sent. -/
def sendLate (s : State) : List PMsg → State
  | [] => { s with pl := { s.pl with late := [] } }
  | m :: r =>
    if keepRoom s then sendLate (pilotSend (if m.ty = 0x81 then cntAdd s (blkPL.reg 0x06C) 1 else s) [m]) r
    else { s with pl := { s.pl with late := m :: r } }

/-- Send the answers that wait for room. -/
def flushLate (s : State) : State := if s.pl.late.isEmpty then s else sendLate s s.pl.late

/-- An answer that comes when it comes: it is sent once there is room. -/
def answerLate (s : State) (ty : Byte) (m : PMsg) (body : List Byte) : State :=
  flushLate { s with pl := { s.pl with late := s.pl.late ++ [{ ty := ty, flags := 0, tag := m.tag, addr := m.addr, body := body }] } }

/-- A parcel leaves the hub in a reply: its check is verified (R183). -/
def leaveHub (s : State) (a : Nat) (d : PData) : State × Bool :=
  if parcelCheck d.data = d.check then (s, false) else (logRecord s 0x0121 0 0 0 a 0, true)

/-- A change of JUMBO ends the connection state of SPDM on the pilot transport; a request outstanding is still answered (R447). -/
def jumboChange (old s : State) : State :=
  if jumbo old ≠ jumbo s then { s with spdmPilot := { busy := s.spdmPilot.busy, handle := s.spdmPilot.handle } } else s

/-! ## Reads that the guest answers -/

/-- The guest has sent a parcel of a pilot read, the `i`-th. -/
def guestParcelForPilot (s : State) (tag : Word) (i : Nat) (d : Parcel) (poison : Bool) : State :=
  { s with pl := { s.pl with gread := s.pl.gread.map fun r => if r.tag = tag then { r with got := (i, d, poison) :: r.got } else r } }

/-- A pilot read of the guest window ends: with its data, or refused. -/
def guestReadDone (s : State) (tag : Word) (refused : Bool) : State :=
  match s.pl.gread.find? fun r => r.tag == tag with
  | none => s
  | some r =>
    let s := { s with pl := { s.pl with gread := s.pl.gread.filter fun x => x.tag != tag } }
    if refused then answerLate s 0x81 r.msg (statusBody r.msg 5)
    else answerLate s 0x84 r.msg (memBody ((List.range (bytesToNat (r.msg.body.take 4))).map fun i => match r.got.find? fun g => g.1 == i with
      | some g => (if g.2.2 then 1 else 0, g.2.1)
      | none => (0, 0)))

/-! ## Writes into part of a parcel of the guest window (R376) -/

/-- The data of a parcel with the bytes from offset `lo` on replaced. -/
def mergeBytes (p : Parcel) (lo : Nat) (b : List Byte) : Parcel :=
  Parcel.ofBytes ((Parcel.bytes p).take lo ++ b ++ (Parcel.bytes p).drop (lo + b.length))

/-- A parcel of a pilot write goes to the guest, whose acknowledgement ends it. -/
def pilotToGuest (s : State) (a : Nat) (session : BitVec 16) (p : Parcel) (poison : Bool) : State :=
  toGuest s (guestPar s tyWrite 3 a ⟨p, parcelCheck p, poison⟩ (some (.pilotWrite session))) 0

/-- A merge is no longer waited for. -/
def mergeOver (s : State) (tag : Word) : State := { s with pl := { s.pl with gmerge := s.pl.gmerge.filter fun m => m.tag != tag } }

/-- What the guest holds in a parcel that is written in part has come: the merged parcel goes to the guest, with the mark that was
there. -/
def mergeArrived (s : State) (tag : Word) (d : PData) : State :=
  match s.pl.gmerge.find? fun m => m.tag == tag with
  | none => s
  | some m => pilotToGuest (mergeOver s tag) (m.addr / 256 * 256) m.session (mergeBytes d.data (m.addr % 256) m.bytes) d.poison

/-- The guest refuses to give what it holds: the parcel is not written, and its message fails with code 0x05, once (DESIGN CHOICE). -/
def mergeRefused (s : State) (tag : Word) : State :=
  match s.pl.gmerge.find? fun m => m.tag == tag with
  | none => s
  | some m =>
    let s := pilotWriteDone (mergeOver s tag) m.session
    if m.told || m.session != s.pl.session then s
    else answerLate { s with pl := { s.pl with gmerge := s.pl.gmerge.map fun x => if x.msg = m.msg then { x with told := true } else x } }
      0x81 m.msg (statusBody m.msg 5)

end Sys2Proof.Machine
end

