-- ==== Sys2Proof/Machine/Guest.lean ====
section
/-! DEFINITION. The guest berth and the breakwater (R291–R299, R304). -/

namespace Sys2Proof.Machine

/-! ## Credit (R297) -/

/-- Withheld credit is granted once there are tokens. -/
def grantCredit (s : State) : State :=
  if s.guest.withheld.isEmpty || !tokensFor s 1 then s
  else s.guest.withheld.foldl (fun t e => linkMod t guestKey fun x => { x with freed := tmod x.freed e.1 0 (· + e.2) })
    { s with guest := { s.guest with withheld := [] } }

/-- The guest has been told less credit for a channel than a further parcel costs. -/
def beyondCredit (s : State) (v : Nat) : Bool :=
  let told := (s.guest.told.find? fun e => e.1 == v).map fun e => e.2
  let d := (told.getD (BitVec.ofNat 32 (share s guestKey v)) - BitVec.ofNat 32 (5 * tget s.guest.rxCount v 0)).toNat
  !decide (5 ≤ d ∧ d < 2 ^ 31)

/-! ## Accesses of the guest -/

/-- The hub reaches a place now. -/
def guestReaches (s : State) (a : Nat) : Bool := match s.home a with
  | some h => reachHome s hubPoint h
  | none => false

/-- Count a parcel between the hub and a place. -/
def guestCount (s : State) (a vc : Nat) : State := match s.home a with
  | some h => countLocal s (.hub 0) h vc a
  | none => s

/-- Parcels of a guest read, sent to the guest port in order. A record of the read carries the guest's TAG (R197). -/
def guestRead (s : State) (a vc id : Nat) (tag : Word) : Nat → State
  | 0 => s
  | n + 1 =>
    let s := guestRead s a vc id tag n
    let r := readParcel (guestCount s (a + 256 * n) vc) (a + 256 * n) .guest tag.toNat
    toGuest r.1 (guestPar s tyReadData vc (a + 256 * n) r.2 (some (.answer id))) tag.toNat

/-- The outbound read that a READ_DATA of the guest belongs to. -/
def guestReadAt (s : State) (a : Nat) : Option ReadOut :=
  s.trans.reads.find? fun r => r.guest && decide (r.addr ≤ a ∧ a < r.addr + 256 * r.count)

/-- Data of an outbound read arrives: at a tug's destination, in a reply to the host, or on its way to a peer, the last
parcel of a copy asking for a report (R245). -/
def guestData (s : State) (r : ReadOut) (a : Nat) (d : PData) : State :=
  let o := a - r.addr
  match r.owner with
  | .tug key _ => tugWrite (countMoved s key d.poison) key a d 0
  | .pilot _ => guestParcelForPilot s r.tag (o / 256) d.data d.poison
  | .merge => mergeArrived s r.tag d
  | .peer dev vc addr id => sendData s hubPoint id dev (BitVec.ofNat 2 vc) (addr + o) d
  | .copy key serial dev vc addr => placePar s key serial vc r.tag.toNat (.peer dev addr) (o / 256) r.count d
  | .back key serial vc addr => placePar s key serial vc r.tag.toNat (.guest addr) (o / 256) r.count d

/-- An outbound read is answered. A peer's RESP follows its data; a copy that is served waits for the peer's report or the guest's
acknowledgement. -/
def guestReadEnd (s : State) (r : ReadOut) (status : Nat) : State :=
  let s := { s with trans := { s.trans with reads := s.trans.reads.filter fun x => x.tag != r.tag } }
  match r.owner with
  | .tug key serial => endWait s key serial status
  | .copy key serial _ _ _ | .back key serial _ _ => if status = 1 then endWait s key serial 1 else s
  | .pilot _ => guestReadDone s r.tag (status == 1)
  | .merge => if status = 1 then mergeRefused s r.tag else s
  | .peer _ _ _ id =>
    if status = 1 then
      match s.trans.answers.find? fun a => a.id == id with
      | some a => sendResp { s with trans := { s.trans with answers := s.trans.answers.erase a } } a.src a.dev a.tag a.count 1
      | none => s
    else s

/-- Records that a RESP of length LEN carries, and the outbound read of a TAG (R244). -/
def respCount (len : BitVec 6) : Nat := min 16 ((len.toNat + 1) / 2)
def guestReadTag (s : State) (tag : Word) : Option ReadOut := s.trans.reads.find? fun r => r.guest && r.tag == tag

/-- Each record of a RESP ends the read that it answers. -/
def guestRecord (s : State) (payload : Parcel) (i : Nat) : State :=
  match guestReadTag s (field payload (64 * i) 32) with
  | some r => guestReadEnd s r (field payload (64 * i + 48) 8).toNat
  | none => s

/-- Data of the guest that a tug waits for cannot be written at its home now: it waits (R264, R462). -/
def dataWaits (s : State) (a : Nat) : Bool := match guestReadAt s a with
  | some r => match r.owner with
    | .tug _ _ => !guestReaches s a
    | _ => false
  | none => false

/-- Data of the guest waits; the answers behind it wait as well. -/
def dataHeld (s : State) : Bool := s.guest.deferred.any fun p => p.ty == tyReadData

/-- Perform an admitted access, or put it off: a WRITE until its home can be reached, a READ_REQ until there are tokens as
well, data until it can be written, and a RESP until the data before it has been. Its buffer space is freed when it has been performed.
`tag` of a WRITE is its SEQ + 1 where a report was asked for; `count` of a RESP is its number of records. -/
def guestAccess (s : State) (p : GPar) : State :=
  let waits := { s with guest := { s.guest with deferred := s.guest.deferred ++ [p] } }
  if p.ty = tyReadData then
    if dataWaits s p.addr then waits
    else match guestReadAt s p.addr with
      | some r => guestFree (guestData s r p.addr ⟨p.data, p.check, p.poison⟩) p.vc
      | none => guestFree s p.vc
  else if p.ty = tyResp then
    if dataHeld s then waits else guestFree ((List.range p.count).foldl (fun t i => guestRecord t p.data i) s) p.vc
  else if !guestReaches s p.addr || (p.ty == tyReadReq && !tokensFor s p.count) then waits
  else if p.ty = tyWrite then
    let s := writeParcel (guestCount (takeTokens s 1) p.addr p.vc) p.addr .guest ⟨p.data, p.check, p.poison⟩ 0
    guestFree (if p.tag = 0 then s else guestAnswer s (p.tag - 1) 1 0) p.vc
  else
    let r := newAnswer (takeTokens s p.count) hubPoint none p.tag.toNat p.count
    guestFree (guestRead r.1 p.addr p.vc r.2 p.tag p.count) p.vc

/-- Try again what was put off. -/
def retryGuest (s : State) : State :=
  s.guest.deferred.foldl guestAccess { s with guest := { s.guest with deferred := [] } }

/-- Add `i` of a BOLLARD parcel: its bollard, and its amount. -/
def addNum (p : Parcel) (i : Nat) : Nat := (field p (64 * i) 14).toNat
def addAmount (p : Parcel) (i : Nat) : Word := field p (64 * i + 32) 32
/-- Adds that a BOLLARD parcel of length LEN carries. -/
def addCount (len : BitVec 6) : Nat := min 32 ((len.toNat + 1) / 2)

/-- GF_BOLL admits a bollard. -/
def gfBollard (s : State) (b : Nat) : Bool :=
  let w := cfg s blkGF 0x028
  decide ((field w 0 14).toNat ≤ b ∧ b < (field w 0 14).toNat + (field w 16 14).toNat)

/-- The first check of R294 that a parcel fails; 0 where it is admitted. -/
def breakwater (s : State) (h : Hdr) (payload : Parcel) : Nat :=
  let ty := h.ty
  let c := cfg s blkGF 0x010
  let a := h.addr.toNat * 256
  let n := (field payload 0 32).toNat
  if s.guest.quar then 1
  else if ty != tyWrite && ty != tyReadReq && ty != tyReadData && ty != tyResp && ty != tyBollard then 2
  else if ty == tyReadData && (guestReadAt s a).isNone then 2
  else if ty == tyResp && (List.range (respCount h.len)).all (fun i => (guestReadTag s (field payload (64 * i) 32)).isNone) then 2
  else if !c.getLsbD (4 + h.vc.toNat) || (ty == tyBollard && h.vc != 0) then 3
  else if h.dev.toNat != ownDev s then 4
  else if ty == tyWrite && !windowOk s a 256 false true then 5
  else if ty == tyReadReq && (n == 0 || decide (64 < n) || !windowOk s a (256 * n) false false) then 5
  else if ty == tyBollard && (!c.getLsbD 8 || (List.range (addCount h.len)).any fun i => !gfBollard s (addNum payload i)) then 6
  else 0

/-- A refused parcel is dropped, answered where it asks for an answer, counted, captured and logged. -/
def guestRefuse (s : State) (h : Hdr) (payload : Parcel) (reason : Nat) : State :=
  let a := h.addr.toNat * 256
  let first := rget s (blkGF.reg 0x03C) &&& validBit == 0
  let s := if h.ty == tyWrite && h.report then guestAnswer s (h.seq.setWidth 32) 1 1
    else if h.ty == tyReadReq then guestAnswer s (field payload 128 32) (field payload 0 32).toNat 1 else s
  let s := logCapture64 (cntAdd s (blkGF.reg 0x030) 1) (blkGF.reg 0x038) (BitVec.ofNat 32 a) (fields 32 [(20, a / 2 ^ 32), (4, 0), (3, reason)])
  logRecordEv s first 0x0520 0 0 (reason + h.ty.toNat * 256) a 0

/-- An admitted parcel is performed. -/
def guestAdmit (s : State) (h : Hdr) (payload : Parcel) (check : Word) : State :=
  let s := cntAdd64 s (blkGF.reg 0x040) 1
  let a := h.addr.toNat * 256
  let v := h.vc.toNat
  if h.ty = tyWrite then
    guestAccess s { ty := h.ty, addr := a, data := payload, check := check, poison := h.poison, count := 1, vc := v
                    tag := if h.report then h.seq.setWidth 32 + 1 else 0 }
  else if h.ty = tyReadReq then
    guestAccess s { ty := h.ty, addr := a, data := 0, check := 0, poison := false, tag := field payload 128 32,
                    count := (field payload 0 32).toNat, vc := v }
  else if h.ty = tyReadData then
    guestAccess s { ty := h.ty, addr := a, data := payload, check := check, poison := h.poison, count := 1, vc := v, tag := 0 }
  else if h.ty = tyResp then
    guestAccess s { ty := h.ty, addr := 0, data := payload, check := check, poison := false, count := respCount h.len, vc := v, tag := 0 }
  else guestFree ((List.range (addCount h.len)).foldl (fun t i => bollAdd t (addNum payload i) (addAmount payload i)) s) v

/-- A parcel that the port has released meets the breakwater. -/
def guestParcel (s : State) (h : Hdr) (payload : Parcel) (check : Word) : State :=
  let s := { s with guest := { s.guest with rxCount := tmod s.guest.rxCount h.vc.toNat 0 (· + 1) } }
  match breakwater s h payload with
  | 0 => guestAdmit s h payload check
  | reason => guestFree (guestRefuse s h payload reason) h.vc.toNat

/-- GUEST_PARCEL_IN (R294–R297): in quarantine it is refused; in order but beyond credit it is a violation, and dropped; else
the port receives it as any endpoint does. -/
def execGuestParcelIn (h : Hdr) (payload : Parcel) (check : Word) (s : State) : Result :=
  if !hubUp s || !guestPresent s || !enabled s blkGF then .next s
  else if s.guest.quar then .next (guestRefuse s h payload 1)
  else if guestUp s && h.seq == (linkGet s guestKey).rxAck + 1 && beyondCredit s h.vc.toNat then
    .next (logRecord (cntAdd s (blkGF.reg 0x034) 1) 0x0521 0 0 h.vc.toNat 0 0)
  else match receive s ⟨0, 2⟩ h.ty h payload check with
    | (t, none) => .next t
    | (t, some p) => .next (guestParcel t h p.payload p.check)

/-! ## Quarantine and the port (R298) -/

/-- What the port holds is scuttled: its parcels, and reads that the guest has not answered, those of tugs with code 0x0D
(R266). -/
def guestScuttle (s : State) : State :=
  let s := scuttle { s with guest := { s.guest with deferred := [], withheld := [] } } guestKey
  (s.trans.reads.filter fun r => r.guest).foldl (fun t r => match r.owner.descriptor with
    | some (key, serial) => failDescriptor (forget t key serial) key serial 0x0D
    | none => guestReadEnd t r 1) s

/-- The port stands still: its lanes are in reset. -/
def guestOff (s : State) : State :=
  linkMod { s with guest := { s.guest with rate := 0 } } guestKey fun x => { replay := x.replay, waiting := x.waiting }

/-- Set the quarantine switch. -/
def guestQuarantine (s : State) : State :=
  if s.guest.quar then s
  else logRecord (guestScuttle { guestOff s with guest := { (guestOff s).guest with quar := true } }) 0x0524 0 0 0 0 0

/-- Clear the switch; the port retrains fresh. -/
def guestRelease (s : State) : State := { s with guest := { s.guest with quar := false } }

/-- GF_QUAR_SET, whatever EN is. -/
def execGfQuarSet (value : Word) (s : State) : Result :=
  if !hubUp s then .next s
  else softWrite s blkGF fun s => .next (if value.getLsbD 0 then guestQuarantine s else s)

/-- GF_QUAR_CLR. -/
def execGfQuarClr (value : Word) (s : State) : Result :=
  if !hubUp s then .next s
  else softWrite s blkGF fun s => .next (if value.getLsbD 0 && s.guest.quar then guestRelease s else s)

/-- GUEST_PORT_DOWN: the guest die has reset; traffic is held. -/
def execGuestPortDown (s : State) : Result :=
  if !hubUp s || !guestUp s then .next s
  else .next (linkDown { s with guest := { s.guest with rate := 0 } } guestKey)

/-- A width, or a UCIe rate code, that the port may come up with. -/
def guestRateOk (s : State) (r : Nat) : Bool :=
  if guestUcie s then decide (r ≤ min 5 (field (cfg s blkGF 0x010) 12 3).toNat)
  else decide (minW s guestKey ≤ r ∧ r ≤ min (lanesTx s guestKey) (lanesRx s guestKey))

/-- The port has trained: both directions start fresh, and what it holds is replayed (R265). -/
def guestStart (s : State) (rate : Nat) : State :=
  let n := if guestUcie s then ucieLanes else rate
  let round := BitVec.ofNat 24 s.free
  let s := startFresh (linkMod s.takeFree guestKey fun x => { trainLanes s guestKey x with round0 := round, trainAt := s.now, triedAt := s.now }) guestKey
  let s := linkMod s guestKey fun x => { x with
    st := .up, peerId := guestIdentity, txActive := upTo n x.txActive, rxActive := upTo n x.rxActive, silentAt := none }
  replayAll { s with guest := { s.guest with rate := rate, rxCount := [], told := [], withheld := [] } } guestKey

/-- GUEST_PORT_UP. -/
def execGuestPortUp (rate : BitVec 9) (s : State) : Result :=
  if !hubUp s || !guestPresent s || !enabled s blkGF || s.guest.quar || guestUp s || !s.pw.guestOn || !guestRateOk s rate.toNat then .next s
  else .next (logRecord (guestStart s rate.toNat) 0x0523 0 0 rate.toNat 0 0)

end Sys2Proof.Machine
end

