-- ==== Sys2Proof/Machine/Memory.lean ====
section
/-! DEFINITION. HBM controllers, scrubbers, retirement and the error injectors (R153, R170–R173, R189–R191, R195, R196,
R198, R201–R203). -/

namespace Sys2Proof.Machine

/-- The slot of the base die that owns a stack. -/
def mcSlot (m : Nat) : Nat := slotQ (stackHome m).1

/-- The controller of a stack serves requests: its die is UP, the stack is populated and MC is enabled (R431, R462). -/
def mcServes (s : State) (m : Nat) : Bool := dieState s (mcSlot m) == .up && enabled s (blkMC m) && !(mcGet s m).failed

/-- The die of a slot is UP, so that writes to its registers reach it (R456). -/
def slotUp (s : State) (slot : Nat) : Bool := dieState s slot == .up

/-! ## Temperature (R153) -/

/-- Samples that must agree, and samples for which a state is kept at least. -/
def agreeSamples : Nat := 3
def holdSamples : Nat := 10

/-- HBM_TEMP_SAMPLE. -/
def execHbmTempSample (m : Fin 16) (temp : Byte) (s : State) : Result :=
  if !slotUp s (mcSlot m.val) || (mcGet s m.val).failed then .next s
  else
    let x := mcGet s m.val
    let auto := (cfg s (blkMC m.val) 0x014).getLsbD 16
    -- HOT_AUTO cleared while the rate is doubled ends the doubling as three samples below 82 °C do (DESIGN CHOICE).
    let want := if x.hot then decide (temp.toNat < 82) || !auto else decide (85 ≤ temp.toNat) && auto
    let agree := if want then x.agree + 1 else 0
    let x := { x with temp := temp, agree := agree, inState := x.inState + 1 }
    if agreeSamples ≤ agree ∧ holdSamples ≤ x.inState then
      let s := mcSet s m.val { x with hot := !x.hot, agree := 0, inState := 0 }
      .next (if x.hot then s else cntAdd s ((blkMC m.val).reg 0x044) 1)
    else .next (mcSet s m.val x)

/-! ## Reads and writes of a controller -/

/-- Upsets of the burst pairs of the parcel at `a`. -/
def upsetPairs (m : MemSt) (a : Nat) : List (Fin 4 × BitVec 576) → MemSt
  | [] => m
  | (j, e) :: r => upsetPairs { m with hbmErr := tset m.hbmErr (a / 64 + j.val) (tget m.hbmErr (a / 64 + j.val) 0 ^^^ e) 0 } a r

/-- The scrubber passes over regions that are not released and pages that are retired (R195, R201). -/
def scrubSkips (x : McSt) (off : Nat) : Bool := !x.released (regionOf off) || x.retiredPage (off / 0x400000)

/-- HBM_READ. -/
def execHbmRead (m : Fin 16) (parcel : BitVec 29) (source : MemSource) (upset : List (Fin 4 × BitVec 576)) (odeCorrected : Bool)
    (s : State) : Result :=
  if !mcServes s m.val || source == .scrubber && scrubSkips (mcGet s m.val) (parcel.toNat * 256) then .next s
  else
    let off := parcel.toNat * 256
    let s := s.setMem (upsetPairs s.mem (hbmBase m.val + off) upset)
    let s := if odeCorrected then cntAdd s ((blkMC m.val).reg 0x054) 1 else s
    let r := hbmRead s m.val off source 0
    .next (r.1.emit (.hbmData m.val off r.2.data r.2.check r.2.poison))

/-- HBM_WRITE. -/
def execHbmWrite (m : Fin 16) (parcel : BitVec 29) (source : MemSource) (data : Parcel) (check : Word) (poison : Bool)
    (s : State) : Result :=
  if !mcServes s m.val then .next s
  else .next (hbmWrite s m.val (parcel.toNat * 256) source ⟨data, check, poison⟩ 0)

/-- Regions of a stack (R170). -/
def regionCount : Nat := 65536

/-- DREDGE_REGION: the next region of the walk is written and released; one in a retired page is passed over, neither written
nor released (R170, R201). -/
def execDredgeRegion (m : Fin 16) (s : State) : Result :=
  let x := mcGet s m.val
  if mcServes s m.val && x.started && decide (x.dredge < regionCount) then
    if x.retiredPage (x.dredge / 2) then .next (mcSet s m.val { x with skipped := x.dredge :: x.skipped }.pass)
    else .next (dredge s m.val x.dredge)
  else .next s

/-! ## Scrubbing (R195, R196) -/

def scGet (s : State) (slot : Nat) : ScrubSt := tget s.sc slot {}
def scSet (s : State) (slot : Nat) (x : ScrubSt) : State := { s with sc := tset s.sc slot x {} }

/-- Words of the SRAM that a die's scrubber walks. -/
def walkWords (slot : Nat) : Nat :=
  match dieType slot with
  | some 0 => hubSramSize / 8
  | some 1 => baseSramSize / 8
  | some 2 => 768 * (coreSramSize / 8)
  | _ => 0

/-- The address of word `i` of that walk: on a compute die core by core. -/
def sramWordAddr (slot i : Nat) : Nat :=
  match dieType slot with
  | some 0 => hubSramBase + 8 * i
  | some 1 => baseSramBase (slot - 1) + 8 * i
  | _ => let n := coreSramSize / 8
         coreBase (slot - 8) (i / n / 16) (i / n % 16) + 8 * (i % n)

/-- Parcels of a stack. -/
def hbmParcels : Nat := hbmSize / 256

/-- The place a walk would have reached by the linear schedule. A walk begins when its block is first enabled, and each later
one where the one before ended. -/
def schedule (s : State) (total period : Nat) (start : Option Nat) : Nat :=
  match start with
  | none => 0
  | some t => if period = 0 then total else min total (total * (s.now - t) / (period * 1000000000))

def hbmPeriod (s : State) (slot : Nat) : Nat := (cfg s (blkSC slot) 0x014).toNat
def sramPeriod (s : State) (slot : Nat) : Nat := (cfg s (blkSC slot) 0x018).toNat

/-- A walk lags by more than 1 % of itself, or has lagged and not yet caught up (R196). -/
def lags (total pos sched : Nat) (was : Bool) : Bool := decide (total < 100 * (sched - pos)) || (was && decide (pos < sched))

/-- The populated stacks of a base die. -/
def dieStacks (s : State) (q : Nat) : List Nat := ((List.range 3).filterMap fun j => stackOf q j).filter fun m => !(mcGet s m).failed

/-- Where the walk of a base die's stacks should be. -/
def hbmSched (s : State) (slot : Nat) : Nat := schedule s hbmParcels (hbmPeriod s slot) (scGet s slot).hbmStart

/-- Where the walk of a die's SRAM should be. -/
def sramSched (s : State) (slot : Nat) : Nat := schedule s (walkWords slot) (sramPeriod s slot) (scGet s slot).sramStart

/-- A stack's walk is behind (R196). -/
def behindHbm (s : State) (slot m : Nat) : Bool :=
  let x := scGet s slot
  lags hbmParcels (tget x.hbmPos m 0) (hbmSched s slot) (x.behindH.contains m)

/-- The walk of a die's SRAM is behind. -/
def behindSram (s : State) (slot : Nat) : Bool :=
  let x := scGet s slot
  lags (walkWords slot) x.sramPos (sramSched s slot) x.behindS

/-- One parcel of a stack. The walk of a die ends when it has covered each of its populated stacks. -/
def scrubHbm (s : State) (m : Nat) : State :=
  let slot := mcSlot m
  let pos := tget (scGet s slot).hbmPos m 0
  let sched := hbmSched s slot
  if sched ≤ pos then s
  else
    let late := behindHbm s slot m && decide (pos + 1 < sched)
    let s := if scrubSkips (mcGet s m) (pos * 256) then s else (hbmRead s m (pos * 256) .scrubber 0).1
    let x := scGet s slot
    let x := { x with hbmPos := tset x.hbmPos m (pos + 1) 0, behindH := if late then m :: x.behindH.erase m else x.behindH.erase m }
    if (dieStacks s (slot - 1)).all fun n => tget x.hbmPos n 0 == hbmParcels then
      cntAdd (scSet s slot { x with hbmPos := [], hbmStart := some s.now }) ((blkSC slot).reg 0x01C) 1
    else scSet s slot x

/-- Upsets of a word of SRAM and of its parcel's entry of the side array. -/
def upsetSram (s : State) (a : Nat) (word side : BitVec 72) : State :=
  s.setMem { s.mem with
    sramErr := tset s.mem.sramErr (a / 8) (tget s.mem.sramErr (a / 8) 0 ^^^ word) 0
    sideErr := tset s.mem.sideErr (a / 256) (tget s.mem.sideErr (a / 256) 0 ^^^ side) 0 }

/-- One word of a die's SRAM, with its parcel's entry of the side array. -/
def scrubSram (s : State) (slot : Nat) (word side : BitVec 72) : State :=
  let pos := (scGet s slot).sramPos
  let sched := sramSched s slot
  if sched ≤ pos then s
  else
    let late := behindSram s slot && decide (pos + 1 < sched)
    let a := sramWordAddr slot pos
    let s := sramFix (upsetSram s a word side) a .scrubber 1
    let x := { scGet s slot with behindS := late }
    if pos + 1 = walkWords slot then
      cntAdd (scSet s slot { x with sramPos := 0, sramStart := some s.now }) ((blkSC slot).reg 0x01C) 1
    else scSet s slot { x with sramPos := pos + 1 }

/-- The SC block of a slot covers SRAM and can be reached: the hub's with the hub, another with its die (R195). -/
def reachedSram (s : State) (slot : Nat) : Bool := (if slot = 0 then hubUp s else slotUp s slot) && decide (0 < walkWords slot)

/-- SCRUB_READ: in a window that admits scrubbing, while the walk lies behind its schedule. -/
def execScrubRead (t : ScrubTarget) (word side : BitVec 72) (s : State) : Result :=
  if windowLeft s kindScrub = 0 then .next s
  else match t with
  | .hbm m =>
    if mcServes s m.val && enabled s (blkSC (mcSlot m.val)) && (cfg s (blkSC (mcSlot m.val)) 0x010).getLsbD 0 then
      .next (scrubHbm s m.val)
    else .next s
  | .sram slot =>
    if reachedSram s slot.val && enabled s (blkSC slot.val) && (cfg s (blkSC slot.val) 0x010).getLsbD 1 then
      .next (scrubSram s slot.val word side)
    else .next s

/-- CE_SAMPLE_RECORD: a second with corrections has ended (R198). -/
def execCeSampleRecord (t : ScrubTarget) (s : State) : Result :=
  match t with
  | .hbm m => .next (mcSample s m.val)
  | .sram slot => .next (sramSample s slot.val)

/-! ## Retirement (R201) -/

/-- The result of MC_RET_CMD, which the controller clears. -/
def retireResult (s : State) (m : Nat) (code slot : Nat) : State :=
  logCapture (rset s ((blkMC m).reg 0x060) 0) ((blkMC m).reg 0x064) (fields 32 [(2, code), (6, slot)])

/-- A reserved bit of MC_RET_CMD is set. -/
def retireReserved (value : Word) : Bool := (value &&& 0x3FC08000) != 0

/-- A write of MC_RET_CMD: a page is retired, or with CLEAR its slot is freed. -/
def retireWrite (m : Nat) (value : Word) (s : State) : Result :=
  if !slotUp s (mcSlot m) then .next s
  else softWrite s (blkMC m) fun s =>
    let x := mcGet s m
    let slot := (field value 16 6).toNat
    let used := x.retired.any fun e => e.1 == slot
    if !value.getLsbD 31 then .next (rset s ((blkMC m).reg 0x060) value)
    else if retireReserved value then .next (retireResult s m 1 slot)
    else if used != value.getLsbD 30 then .next (retireResult s m 2 slot)
    else
      let l := if value.getLsbD 30 then x.retired.filter fun e => e.1 != slot else x.retired ++ [(slot, (field value 0 15).toNat)]
      .next (retireResult (mcSet s m { x with retired := l }) m 0 slot)

/-- RETIRE_PAGE. -/
def execRetirePage (m : Fin 16) (value : Word) (s : State) : Result := retireWrite m.val value s

/-- RETIRE_CLEAR. -/
def execRetireClear (m : Fin 16) (value : Word) (s : State) : Result := retireWrite m.val value s

/-- SC_SPARE_REQ: the request waits for the next chart load (R202). -/
def execScSpareReq (q : Fin 6) (value : Word) (s : State) : Result :=
  if !slotUp s (slotQ q.val) then .next s
  else softWrite s (blkSC (slotQ q.val)) fun s => .next (rset s ((blkSC (slotQ q.val)).reg 0x030) value)

/-- MC_FLIP (R203). -/
def execMcFlip (m : Fin 16) (value : Word) (s : State) : Result :=
  if !slotUp s (mcSlot m.val) then .next s
  else softWrite s (blkMC m.val) fun s => .next (rset s ((blkMC m.val).reg 0x058) value)

/-- SC_SRAM_FLIP (R203). -/
def execScSramFlip (slot : Fin 41) (value : Word) (s : State) : Result :=
  if !reachedSram s slot.val then .next s
  else softWrite s (blkSC slot.val) fun s => .next (rset s ((blkSC slot.val).reg 0x02C) value)

end Sys2Proof.Machine
end

