-- ==== Sys2Proof/Machine/Reset.lean ====
section
/-! DEFINITION. Module resets: what each kind keeps and where start-up begins (R427, R428). -/

namespace Sys2Proof.Machine

/-- A register word in the always-on domain: PW, TM and the watchdog's count of its own resets (R428, R439). -/
def alwaysOn (off : Nat) : Bool := decide (blkTM.base ≤ off ∧ off < blkSB.base) || off == blkSB.reg 0x060

/-- The fuses and the module NOR (R428). -/
def SecSt.fuses (x : SecSt) : SecSt :=
  { lifecycle := x.lifecycle, svn := x.svn, vRevoked := x.vRevoked, owner := x.owner, copy0 := x.copy0, copy1 := x.copy1 }

/-- What a reset keeps of SB: the fuses, the NOR, SB_BOOT_STAT and SB_BOOT_TIME (R428, R451). -/
def SecSt.kept (x : SecSt) : SecSt :=
  { x.fuses with stage := x.stage, code := x.code, recovery := x.recovery, timeout := x.timeout, slotUsed := x.slotUsed,
                 done := x.done, bootTime := x.bootTime }

/-- Start-up begins: SB_BOOT_STAT speaks of it from here on (R429). -/
def SecSt.begin (x : SecSt) : SecSt :=
  { x with stage := 1, code := 0, recovery := false, timeout := false, slotUsed := false, done := false }

/-- The rails of the dies go down: VGUEST, the droop detectors and the forecasts' boosts with them (R420). -/
def PwSt.down (x : PwSt) : PwSt := { x with guestOn := false, droop := [], boost := [], rails := false }

/-- When the rails of R420 are off, in order, after a trip or a reset at `t`. -/
def offTimes (t : Nat) : List Nat := [21000, 50000, 100000, 150000, 200000, 300000, 400000, 500000].map fun d => t + d

/-- The same at a brown-out, 10 µs apart: what is down already stays down (R407, R423). -/
def brownTimes (t : Nat) (l : List Nat) : List Nat :=
  let gone := l.filter fun x => decide (x ≤ t)
  gone ++ (List.range (8 - gone.length)).map fun i => t + 10000 * i

/-- What a reset keeps of the registers. -/
def RegSt.kept (r : RegSt) : RegSt :=
  { words := tset (r.words.filter fun e => alwaysOn e.1) (blkPW.reg 0x044) 0 0
    badPar := r.badPar.filter alwaysOn
    safe := r.safe.filter alwaysOn
    wrIgnored := r.wrIgnored.filter alwaysOn
    wrDropped := r.wrDropped.filter alwaysOn
    enCode := r.enCode.filter fun e => alwaysOn e.1 }

/-- Everything starts again but the always-on domain, the fuses and the NOR (R428). -/
def keepAlwaysOn (s : State) : State :=
  { State.reset with
    pending := s.pending, out := s.out, freeCtr := s.freeCtr, now := s.now
    regs := s.regs.kept, pw := s.pw.down, tm := s.tm, sec := s.sec.kept, nor := s.nor
    jtag := { s.jtag with stopped := false }, i3c := s.i3c }

/-- PW_RESET_CAUSE latches a cause and, for a trip, its channel (R424). -/
def latchCause (s : State) (cause ch : Nat) : State := logCapture s (blkPW.reg 0x02C) (fields 32 [(4, cause), (4, 0), (7, ch)])

/-- A module reset: the module goes into `mode`; start-up follows at step 1, or at step 3 with V1P8 up. -/
def moduleReset (s : State) (mode : PowerMode) (step3 : Bool) (cause ch : Nat) : State :=
  let s := latchCause (keepAlwaysOn s) cause ch
  { s with
    pw := { s.pw with
      mode := mode, fromStep3 := step3, cause := cause, startAt := s.now
      offAt := if mode = .brownOut then brownTimes s.now [] else offTimes s.now }
    sec := if mode = .starting then s.sec.begin else s.sec }

/-- A reset that keeps V1P8 and VAON and starts again at step 3: causes 4, 5 and 6 (R427). -/
def hubResets (s : State) (cause : Nat) : State := moduleReset s .starting true cause 0

/-- The module has power and its hub may be reset. -/
def hubPowered (s : State) : Bool := hubUp s || s.pw.mode == .recovery || s.pw.mode == .starting || s.pw.mode == .pllWait || s.pw.mode == .scan

end Sys2Proof.Machine
end

