-- ==== Sys2Proof/Machine/Die.lean ====
section
/-! DEFINITION. Dies that drop out alone: loss, rejoin, quarantine and release (R273, R284–R290, R303). -/

namespace Sys2Proof.Machine

def dieGet (s : State) (slot : Nat) : DieRec := tget s.hm.dies slot {}
def dieSet (s : State) (slot : Nat) (d : DieRec) : State := { s with hm := { s.hm with dies := tset s.hm.dies slot d {} } }

/-- Slots of the dies that this chapter's rules govern (R285). -/
def governed (slot : Nat) : Bool := match dieType slot with
  | some 1 | some 2 | some 3 => true
  | _ => false

/-- The compute dies that stand on a base die (R12). -/
def dependants (slot : Nat) : List Nat := if dieType slot = some 1 then [slotC (2 * (slot - 1)), slotC (2 * (slot - 1) + 1)] else []

/-- The slot of the base die below a compute die. -/
def baseBelow (slot : Nat) : Nat := slotQ ((slot - 8) / 2)

/-! ## What a die's own reset clears -/

/-- A register of a die that its reset leaves: the ring stop's CK block (R284), the code of its straps (R273), what the start-up tests found and how PR_MAP
was formed (R68, R69, R277). -/
def keepsOwn (slot off : Nat) : Bool :=
  off == (blkID slot).reg 0x010 || decide ((blkCK slot).base ≤ off ∧ off < (blkCK slot).base + 0x4000) || (match placeOf false off with
    | .block b o => (b.kind == .pr && (o == 0x010 || o == 0x018 || o == 0x01C)) || (b.kind == .dl && decide (0x024 ≤ o ∧ o < 0x048))
    | _ => false)

def inSlot (slot off : Nat) : Bool := off / 0x4000000 == slot

/-- The registers of a die start again. -/
def RegSt.dieReset (r : RegSt) (slot : Nat) : RegSt :=
  { r with
    words := r.words.filter fun e => !inSlot slot e.1 || keepsOwn slot e.1
    badPar := r.badPar.filter fun o => !inSlot slot o
    safe := r.safe.filter fun o => !inSlot slot o
    wrIgnored := r.wrIgnored.filter fun o => !inSlot slot o
    wrDropped := r.wrDropped.filter fun o => !inSlot slot o
    enCode := r.enCode.filter fun e => !inSlot slot e.1
    busy := r.busy.filter fun o => !inSlot slot o
    posted := r.posted.filter fun p => !inSlot slot p.base
    shadow := r.shadow.filter fun e => !inSlot slot (e.1 / 4)
    held := r.held.filter fun e => !inSlot slot (e.1 / 4) }

/-- The die that holds a tug. -/
def ownedBy (c : Nat) : Origin → Bool
  | .tug key _ | .guestRun key _ => tugDie key == c
  | .relay _ _ | .answer _ | .guestReport _ _ | .pilotWrite _ => false

/-- The cores, piers and tugs of a compute die start again. A tug goes on counting its descriptors, so that an answer to an
earlier one finds nobody. -/
def clearCompute (s : State) (c : Nat) : State :=
  let k := s.cores
  let s := { s with
    cores := {
      core := tclear k.core (siteKey c 0 0) (siteKey (c + 1) 0 0), voy := tclear k.voy (siteKey c 0 0) (siteKey (c + 1) 0 0)
      pier := tclear k.pier (pierKey c 0) (pierKey (c + 1) 0)
      tug := tmap k.tug {} fun key t => if tugDie key = c then { serial := t.serial } else t
      consts := tclear k.consts (pierKey c 0 * 65536) (pierKey (c + 1) 0 * 65536) }
    boll := { s.boll with watch := tclear (tclear s.boll.watch (c * 768) ((c + 1) * 768)) (9216 + c * 96) (9216 + (c + 1) * 96) }
    trans := { s.trans with
      reports := s.trans.reports.filter fun r => !ownedBy c r.owner
      reads := s.trans.reads.filter fun r => match r.owner.descriptor with
        | some (key, _) => tugDie key != c
        | none => true } }
  match s.berth.op with
  | none => s
  | some op =>
    let op := { op with piers := op.piers.filter fun p => p / 48 != c }
    if op.piers.isEmpty then berthFinish s op.sweep op.result else { s with berth := { s.berth with op := some op } }

/-- An endpoint of a die that resets: its parcels wait for it (R286), its lanes that are out stay out (R259), and the rest
starts fresh (R265). -/
def resetEnd (x : LinkSt) : LinkSt := { replay := x.replay, waiting := x.waiting, txOut := x.txOut, rxOut := x.rxOut }

/-- A base die's endpoints, controllers and scrubber start again. Its stacks keep their release bits only in self-refresh
(R175); retirement slots and a spare bank stay until a module reset (R201, R202, R428). -/
def clearBase (s : State) (slot : Nat) (planned : Bool) : State :=
  let sc := tget s.sc slot {}
  { s with
    links := tmap s.links {} fun k x => if k / 64 = slot then resetEnd x else x
    mc := tmap s.mc {} fun m x =>
      if mcSlot m = slot then
        if planned then { x with selfRefresh := true, agree := 0, hot := false, inState := 0 }
        else { retired := x.retired, failed := x.failed, retLogged := x.retLogged, unwrittenLogged := x.unwrittenLogged }
      else x
    sc := tset s.sc slot { spare := sc.spare } {} }

/-- An engine's rings start again. Its substitutions last (R325), and what it knows of its fibres and heaters is kept. -/
def OeSt.reset (x : OeSt) : OeSt :=
  { place := tmap x.place {} fun _ p => { p with moving := false }
    fibreBad := x.fibreBad, homeDelay := x.homeDelay, dark := x.dark }

/-- A die's own reset. -/
def dieCleared (s : State) (slot : Nat) (planned : Bool) : State :=
  let s := { s with
    regs := s.regs.dieReset slot
    tide := { s.tide with
      dieOfs := terase s.tide.dieOfs slot, markAt := terase s.tide.markAt slot, dieSlew := terase s.tide.dieSlew slot
      beacon := s.tide.beacon.filter fun b => b.1 != slot } }
  match dieType slot with
  | some 1 => clearBase s slot planned
  | some 2 => clearCompute { s with sc := terase s.sc slot } (slot - 8)
  | some 3 => oeMod s (slot - 24) OeSt.reset
  | _ => s

/-- The endpoints on other dies of the links that end on a die. -/
def surviving (slot : Nat) : List Nat := match dieType slot with
  | some 1 => (bundleKeys.filter fun k => k / 64 == slot).filterMap farEnd
  | some 3 => engineKeys (slot - 24)
  | _ => []

/-- The links that end on a die go DOWN at their surviving ends. -/
def cutLinks (s : State) (slot : Nat) : State := (surviving slot).foldl linkDown s

/-! ## Loss (R286, R290) -/

/-- Put a loss among those of the present control cycle, by slot. -/
def insertLoss (x : Nat × Nat) : List (Nat × Nat) → List (Nat × Nat)
  | [] => [x]
  | y :: r => if x.1 < y.1 then x :: y :: r else y :: insertLoss x r

/-- A die enters LOST. Its record waits for the end of the control cycle, so that two of one cycle come in slot order (R290). -/
def enterLost (s : State) (slot cause : Nat) : State :=
  let s := dieSet s slot { dieGet s slot with st := .lost, cause := cause, planned := false, heldByBase := false, lostAt := s.now }
  cntAdd { s with hm := { s.hm with losses := insertLoss (slot, cause) s.hm.losses } } (blkHM.reg 0x2C8) 1

/-- The control cycle ends: its losses are recorded in increasing slot order (R286, R290). -/
def recordLosses (s : State) : State :=
  s.hm.losses.foldl (fun t x => logRecord t 0x0510 x.1 0 x.2 0 0) { s with hm := { s.hm with losses := [] } }

/-- One die goes LOST. Its links go DOWN as it resets, each change of a neighbour pair being recorded (R282). -/
def loseOne (s : State) (slot cause : Nat) : State :=
  let s := dieCleared (cutLinks (enterLost s slot cause) slot) slot false
  let s := if cause = 1 ∨ cause = 2 then logCapture s ((blkCK slot).reg 0x018) (BitVec.ofNat 32 cause) else s
  loadMeets s slot

def dieRuns (s : State) (slot : Nat) : Bool := dieState s slot == .up || dieState s slot == .rejoining

/-- A die goes LOST, and with a base die its two compute dies (cause 4). -/
def loseDie (s : State) (slot cause : Nat) : State :=
  if !governed slot || !dieRuns s slot then s
  else ((dependants slot).filter fun c => dieRuns s c).foldl (fun t c => loseOne t c 4) (loseOne s slot cause)

/-- DIE_PRESENCE_TIMEOUT: three tokens in a row are missed. -/
def execDiePresenceTimeout (slot : Fin 41) (s : State) : Result := .next (if hubUp s then loseDie s slot.val 3 else s)

/-- DIE_LOST, with the cause the hub learns of. -/
def execDieLost (slot : Fin 41) (cause : BitVec 3) (s : State) : Result :=
  .next (if hubUp s then loseDie s slot.val cause.toNat else s)

/-- CLOCK_MONITOR_RESET (R284). The hub's own reset is a module reset, which clears its count too (R285, R427, R428). A laser
chiplet is held in reset, and no rule of a lost die applies to it: HM_DIE_STATE shows that it is LOST (DESIGN CHOICE; R285). -/
def execClockMonitorReset (slot : Fin 41) (s : State) : Result :=
  if !hubUp s then .next s
  else if slot.val = 0 then .next (hubResets s 6)
  else if dieType slot.val = some 4 then
    if (dieGet s slot.val).st == .lost then .next s
    else
      let s := dieSet { s with regs := s.regs.dieReset slot.val } slot.val { st := .lost, cause := 2, lostAt := s.now }
      let s := chipletReset s (slot.val - 32)
      .next (logCapture (cntAdd s ((blkCK slot.val).reg 0x014) 1) ((blkCK slot.val).reg 0x018) 2)
  else if governed slot.val && dieRuns s slot.val then .next (loseDie (cntAdd s ((blkCK slot.val).reg 0x014) 1) slot.val 2)
  else .next s

/-! ## Rejoin (R289) -/

/-- Running voyages with cores on a die. -/
def voyagesOn (s : State) (slots : List Nat) : List Nat := (running s).filter fun set => (setDies s set).any fun d => slots.contains (slotC d)

/-- End every voyage with cores on dies of a list with status 0x21, and record cause 0x09 with DETAIL 1 on UP dies. -/
def endVoyagesOn (s : State) (slots : List Nat) : State := (voyagesOn s slots).foldl (fun t set => killVoyage t set 0x21 1) s

/-- ID_SITE of a die that read a code from its straps (R273, R301). -/
def siteWord (slot code : Nat) : Word := fields 32 [(6, code), (2, 0), (4, (dieType slot).getD 0), (3, 0), (1, 1)]

/-- A die reads its straps: a code outside its type's range keeps it in reset (R273). -/
def strapsOk (slot code : Nat) : Bool := dieType code == dieType slot

/-- A base die whose stacks were in self-refresh goes LOST before it is back: refresh lapses (R175, R286). -/
def lapse (s : State) (slot : Nat) : State :=
  if dieType slot = some 1 ∧ (dieGet s slot).planned then
    clearBase (dieSet s slot { dieGet s slot with planned := false }) slot false
  else s

/-- The straps are bad: the site shows as LOST with cause 5. -/
def strapsBad (s : State) (slot code : Nat) : State :=
  let s := lapse (if (dieGet s slot).st = .lost then s else cntAdd s (blkHM.reg 0x2C8) 1) slot
  let s := dieSet s slot { dieGet s slot with st := .lost, cause := 5, heldByBase := false }
  logRecord s 0x0501 slot 0 code 0 0

/-- A die's reset ends (R289): it reads its straps (R273). A compute die's SRAM is cleared (R79), and the voyages that ran on
it end; an engine locks its rings. -/
def startRejoin (s : State) (slot code : Nat) : State :=
  let s := rset s ((blkID slot).reg 0x010) (siteWord slot code)
  if !strapsOk slot code then strapsBad s slot code
  else
    let s := dieSet s slot { dieGet s slot with st := .rejoining, cause := 0, heldByBase := false }
    match dieType slot with
    | some 2 => endVoyagesOn (clearCoreSram s slot) [slot]
    | some 3 => startRings s (slot - 24)
    | _ => s

/-- A compute die's base die is in reset, so that it cannot leave its own. -/
def baseCut (s : State) (slot : Nat) : Bool :=
  dieType slot == some 2 && (dieState s (baseBelow slot) == .lost || dieState s (baseBelow slot) == .quarantined)

/-- How long a monitor holds a die after a loss of its clocks, in ns (R284). -/
def monitorHold : Nat := 1000000

/-- A laser chiplet leaves reset and reads its straps; its engine has light again where a side serves. -/
def chipletBack (s : State) (slot code : Nat) : State :=
  let s := rset s ((blkID slot).reg 0x010) (siteWord slot code)
  if !strapsOk slot code then strapsBad s slot code
  else
    let n := slot - 32
    let s := enableBlock (dieSet s slot {}) (blkLS n)
    if (lsGet s n).side (lsGet s n).active = .failed then s else lightPlaces s n

/-- DIE_RESET_RELEASE: a LOST die's monitor lets it out of reset. -/
def execDieResetRelease (slot : Fin 41) (straps : BitVec 6) (s : State) : Result :=
  let d := dieGet s slot.val
  if !hubUp s || dieState s slot.val != .lost || baseCut s slot.val then .next s
  else if d.cause == 2 && decide (s.now < d.lostAt + monitorHold) then .next s
  else if dieType slot.val = some 4 then .next (if d.cause = 2 then chipletBack s slot.val straps.toNat else s)
  else .next (startRejoin s slot.val straps.toNat)

/-- The blocks of a die that firmware enables, whatever the chart says. -/
def freeBlocks (slot : Nat) : List Blk := match dieType slot with
  | some 0 => [blkSC 0, blkEL]
  | some 1 => blkSC slot :: ((List.range 3).filterMap fun j => stackOf (slot - 1) j).map blkMC
  | some 2 => [blkSC slot]
  | some 4 => [blkLS (slot - 32)]
  | _ => []

/-- A die receives its part of the chart in force, or of what the installation record gives in its place, and its blocks are
enabled: steps 2 to 6 of R225 for that die alone. -/
def configDie (s : State) (slot : Nat) : State :=
  let c := (effChart s).getD {}
  (freeBlocks slot ++ chartBlocks [slot] (mapped c)).foldl enableBlock (writeDie c s slot)

/-- The sites that a failed test marks: with its port, all of a pier (R274). -/
def siteMarks : SiteTest → BitVec 17
  | .port => 0x1FFFF
  | .sites bad => bad

/-- The sites of a die that fail its self-test set their bits in PR_BIST_BAD. -/
def noteBist (s : State) (c : Nat) (bist : List (Fin 48 × SiteTest)) : State :=
  bist.foldl (fun t b => rset t ((blkPR c b.1.val).reg 0x018) (rget t ((blkPR c b.1.val).reg 0x018) ||| (siteMarks b.2).setWidth 32)) s

/-- A base die is back: its controllers dredge again after a loss, or go on where they stood. -/
def baseBack (s : State) (slot : Nat) (planned : Bool) : State :=
  (dieStacks s (slot - 1)).foldl (fun t m => mcSet t m { mcGet t m with selfRefresh := false, started := !planned || (mcGet t m).started }) s

/-- Entries held for a core set that is busy no longer are armed (R128, R287). -/
def freeHeld (s : State) : State := (((entriesIn s .held).map fun e => e.2.set).dedup).foldl freeSet s

/-- A chart is being distributed (R225). -/
def distributing (s : State) : Bool := match s.hm.loading with
  | some l => l.chart.isSome
  | none => false

/-- DIE_REJOIN_UP. An engine's rings have locked by then. A rejoin that meets a distribution ends after it, so that the die takes its part of the new chart (DESIGN CHOICE;
R289, R509). -/
def execDieRejoinUp (slot : Fin 41) (bist : List (Fin 48 × SiteTest)) (s : State) : Result :=
  let n := slot.val
  let d := dieGet s n
  if !hubUp s || distributing s || d.st != .rejoining || (dieType n == some 2 && dieState s (baseBelow n) != .up) ||
      (dieType n == some 3 && !ringsSettled s (n - 24)) then .next s
  else
    let lost := dieType n == some 2 || (dieType n == some 1 && !d.planned)
    let s := dieSet s n { st := .up, stateLost := lost }
    let s := match dieType n with
      | some 1 => baseBack s n d.planned
      | some 2 => noteBist s (n - 8) bist
      | _ => s
    let s := if dieType n = some 3 then (engineKeys (n - 24)).foldl (fun t k => linkMod t k fun x => { x with fresh := true }) s else s
    let s := configDie s n
    .next (freeHeld (logRecord s 0x0511 n 0 lost.toNat 0 0))

/-! ## Quarantine and release (R288–R290, R303) -/

/-- HM_DIE_RES. -/
def dieResult (s : State) (code slot : Nat) : State := logCapture s (blkHM.reg 0x2C4) (fields 32 [(3, code), (1, 0), (6, slot)])

/-- The dies that a quarantine of a slot holds. -/
def heldWith (s : State) (slot : Nat) : List Nat := slot :: (dependants slot).filter fun c => dieState s c != .quarantined

/-- Hold one die in reset. -/
def holdDie (slot : Nat) (s : State) (n : Nat) : State :=
  let d := dieGet s n
  let planned := n == slot && dieType n == some 1 && d.st == .up
  let s := dieSet s n { d with st := .quarantined, cause := 0, heldByBase := n != slot, planned := planned }
  loadMeets (dieCleared (cutLinks s n) n planned) n

/-- Discard what the endpoints of a held die still hold; the descriptors concerned end with code 0x0D. -/
def dropOwn (s : State) (slot : Nat) : State :=
  let l := (s.links.filter fun e => e.1 / 64 == slot).flatMap fun e => e.2.replay ++ e.2.waiting
  let s := { s with links := tmap s.links {} fun k x => if k / 64 = slot then { x with replay := [], waiting := [] } else x }
  (tugOwners l).foldl (fun t o => failDescriptor (forget t o.1 o.2) o.1 o.2 0x0D) ((answerOwners l).foldl answerSent s)

/-- A place stands on a held die, or behind one. -/
def onHeld (s : State) (held : List Nat) (a : Nat) : Bool := match s.home a with
  | some (.hbm m _) => held.contains (mcSlot m)
  | some (.base q _) => held.contains (slotQ q)
  | some (.core c _ _ _) => held.contains (slotC c)
  | _ => false

/-- A started descriptor whose present run reads or writes on a held die. -/
def slotHeld (s : State) (held : List Nat) (x : TugSlot) : Bool :=
  x.started && decide (x.issued < dTotal x.desc) && (sides s x.desc).any fun y =>
    let run := if y.dst then x.dst else x.src
    !y.remote && (!y.berth || run.isSome) && onHeld s held (parcelAddr x.desc y run x.issued)

/-- Descriptors that read or write on held dies end with code 0x0D. -/
def failHeld (s : State) (held : List Nat) : State :=
  let l := s.cores.tug.flatMap fun t => (t.2.slots.filter (slotHeld s held)).map fun x => (t.1, x.serial)
  l.foldl (fun t o => failDescriptor (forget t o.1 o.2) o.1 o.2 0x0D) s

/-- A parcel from a peer that waits for a place on a held die is discarded with the links' traffic. -/
def dropHeldPars (s : State) (held : List Nat) : State :=
  { s with trans := { s.trans with held := s.trans.held.filter fun h => !onHeld s held (h.par.addr.toNat * 256) } }

/-- QUARANTINE of a compute, base or engine die. Voyages with cores on a held die end with 0x21 before the links' traffic is
scuttled, so that 0x17 does not reach them (R288). -/
def quarantineDie (s : State) (slot : Nat) : State :=
  let held := heldWith s slot
  let s := endVoyagesOn (held.foldl (holdDie slot) s) held
  let s := held.foldl (fun t n => (surviving n).foldl (fun t k => if (linkGet t k).st == .down then scuttle t k else t) (dropOwn t n)) s
  logRecord (failHeld (dropHeldPars s held) held) 0x0512 slot 0 0 0 0

/-- Let one held die out: to REJOINING, or to LOST while its clocks are bad or its base die is not there (R289, R290). -/
def letOut (clocksBad : List Nat) (s : State) (n : Nat) : State :=
  if clocksBad.contains n ∨ baseCut s n then enterLost (lapse s n) n (if clocksBad.contains n then 2 else 4)
  else startRejoin s n (field (rget s ((blkID n).reg 0x010)) 0 6).toNat

/-- RELEASE of a compute, base or engine die, and of the compute dies that its quarantine held. -/
def releaseDie (s : State) (slot : Nat) (clocksBad : List Nat) : State :=
  let l := slot :: (dependants slot).filter fun c => (dieGet s c).heldByBase
  l.foldl (letOut clocksBad) (logRecord s 0x0513 slot 0 0 0 0)

/-- The state of a site as HM_DIE_STATE shows it; a laser chiplet is LOST while it is held in reset (R273, R284), and the guest's is that of its quarantine switch. -/
def siteState (s : State) (slot : Nat) : DieState :=
  if slot = 40 then if !guestPresent s then .absent else if s.guest.quar then .quarantined else .up
  else if dieType slot = some 0 then .up
  else if dieType slot = some 4 then if (dieGet s slot).st = .lost then .lost else .up
  else dieState s slot

/-- A site that commands may name. -/
def commandable (s : State) (slot : Nat) : Bool := governed slot || (slot == 40 && guestPresent s)

/-- A write of HM_DIE_CMD. -/
def dieCommand (s : State) (value : Word) (clocksBad : List Nat) : State :=
  if !value.getLsbD 31 then rset s (blkHM.reg 0x2C0) value
  else
    let slot := (field value 0 6).toNat
    let cmd := (field value 8 2).toNat
    let s := rset s (blkHM.reg 0x2C0) 0
    if cmd = 0 ∨ cmd = 3 then dieResult s 4 slot
    else if !commandable s slot then dieResult s 1 slot
    else if s.hm.st == .loading then dieResult s 3 slot
    else if (siteState s slot == .quarantined) == (cmd == 1) then dieResult s 2 slot
    else
      let s := if slot = 40 then (if cmd = 1 then guestQuarantine s else guestRelease s)
        else if cmd = 1 then quarantineDie s slot else releaseDie s slot clocksBad
      dieResult s 0 slot

/-- A write of HM_DIE_CMD as a command of its own: CMD says which. -/
def dieRow (value : Word) (clocksBad : List (Fin 41)) (s : State) : Result :=
  if !hubUp s then .next s else softWrite s blkHM fun s => .next (dieCommand s value (clocksBad.map Fin.val))

/-- QUARANTINE. -/
def execQuarantine (value : Word) (s : State) : Result := dieRow value [] s
/-- RELEASE. -/
def execRelease (value : Word) (clocksBad : List (Fin 41)) (s : State) : Result := dieRow value clocksBad s
/-- HM_DIE_CMD_INVALID. -/
def execHmDieCmdInvalid (value : Word) (s : State) : Result := dieRow value [] s

end Sys2Proof.Machine
end

