-- ==== Sys2Proof/Machine/ErrLog.lean ====
section
/-! DEFINITION. Consuming error-log records (R200). -/

namespace Sys2Proof.Machine

/-- Free the `n` oldest records. -/
def elogFree (s : State) (n : Nat) : State :=
  { s with elog := { s.elog with tail := (s.elog.tail + n) % elogSlots, count := s.elog.count - n } }

/-- EL_CONSUME: a COUNT above EL_COUNT frees nothing and counts in BLK_ERRCNT. -/
def execElConsume (value : Word) (s : State) : Result :=
  if !hubUp s then .next s
  else softWrite s blkEL fun s =>
    if !value.getLsbD 31 then .next (rset s (blkEL.reg 0x020) value)
    else
      let n := (field value 0 13).toNat
      let s := rset s (blkEL.reg 0x020) 0
      .next (if s.elog.count < n then errCount s blkEL else elogFree s n)

end Sys2Proof.Machine
end

