-- ==== Sys2Proof/Machine/Vector.lean ====
section
/-! DEFINITION. Vector and move instructions (R48–R53, R100–R102). -/

namespace Sys2Proof.Machine

/-! ## Lanes -/

/-- Element `i` of `w` bytes of a register. -/
def laneAt (w : Nat) (v : Parcel) (i : Nat) : Nat := v.toNat / 2 ^ (8 * w * i) % 2 ^ (8 * w)

/-- The lanes of a format. -/
def lanesOf (f : Fmt) (v : Parcel) : List Nat := (List.range (fmtLanes f)).map (laneAt (fmtBytes f) v)

/-- Elements of `w` bytes side by side, the first lowest. -/
def joinLanes (w : Nat) : List Nat → Nat
  | [] => 0
  | x :: r => x % 2 ^ (8 * w) + 2 ^ (8 * w) * joinLanes w r

def ofLanes (f : Fmt) (l : List Nat) : Parcel := BitVec.ofNat 2048 (joinLanes (fmtBytes f) l)

/-- Results with their events. -/
def gather (f : Fmt) (l : List (Nat × NumEv)) : Parcel × NumEv := (ofLanes f (l.map Prod.fst), NumEv.all (l.map Prod.snd))

/-- A slot-1 instruction that writes vD. -/
def vecOp (c : CoreId) (i : Instr) (d : Reg) (f : CoreSt → Parcel × NumEv) (s : State) : Result :=
  .next (slotPure c 1 i (fun _ k =>
    let r := f k
    .vreg d r.1 (srcPoison k i) :: numWrites r.2) s)

/-- A slot-1 instruction that writes an s register. -/
def redOp (c : CoreId) (i : Instr) (d : Reg) (f : CoreSt → Nat × NumEv) (s : State) : Result :=
  .next (slotPure c 1 i (fun _ k =>
    let r := f k
    .sreg d (BitVec.ofNat 64 r.1) (srcPoison k i) :: numWrites r.2) s)

/-- A lane operation of two values. -/
def lane2 (f : Fmt) (op : FV → FV → FV) (x y : Nat) : Nat × NumEv :=
  elemCode f ((elemVal f x).isFinite && (elemVal f y).isFinite) (op (elemVal f x) (elemVal f y))

def zip2 (f : Fmt) (op : FV → FV → FV) (a b : Parcel) : Parcel × NumEv :=
  gather f (List.zipWith (lane2 f op) (lanesOf f a) (lanesOf f b))

/-- A NaN that a move of format `f` writes into an element (R53). -/
def nanWritten (f : Fmt) (l : List Nat) : NumEv := { nan := l.any fun x => (elemVal f x).isNan }

/-! ## Moves -/

/-- Every lane is the low bits of sA. -/
def execVbcast (c : CoreId) (d a : Reg) (fa : Fmt) (s : State) : Result :=
  vecOp c (.vbcast c d a fa) d (fun k =>
    let x := (k.s a).toNat % 2 ^ (8 * fmtBytes fa)
    (ofLanes fa (List.replicate (fmtLanes fa) x), nanWritten fa [x])) s

/-- The raw bits of one lane, zero-extended. -/
def execVmovs (c : CoreId) (d a : Reg) (fa : Fmt) (imm : Word) (s : State) : Result :=
  redOp c (.vmovs c d a fa imm) d (fun k => (laneAt (fmtBytes fa) (k.v a) (field imm 0 8).toNat, {})) s

def execVmov (c : CoreId) (d a : Reg) (s : State) : Result := vecOp c (.vmov c d a) d (fun k => (k.v a, {})) s

def execVshuf (c : CoreId) (d a b : Reg) (fa : Fmt) (s : State) : Result :=
  vecOp c (.vshuf c d a b fa) d (fun k =>
    let l := (lanesOf fmtFP32 (k.v b)).map fun i => laneAt 4 (k.v a) (i % 64)
    (ofLanes fmtFP32 l, nanWritten fmtFP32 l)) s

/-! ## Arithmetic -/

def execVadd (c : CoreId) (d a b : Reg) (fa : Fmt) (s : State) : Result :=
  vecOp c (.vadd c d a b fa) d (fun k => zip2 fa FV.add (k.v a) (k.v b)) s
def execVsub (c : CoreId) (d a b : Reg) (fa : Fmt) (s : State) : Result :=
  vecOp c (.vsub c d a b fa) d (fun k => zip2 fa (fun x y => x.add y.neg) (k.v a) (k.v b)) s
def execVmul (c : CoreId) (d a b : Reg) (fa : Fmt) (s : State) : Result :=
  vecOp c (.vmul c d a b fa) d (fun k => zip2 fa FV.mul (k.v a) (k.v b)) s
def execVmin (c : CoreId) (d a b : Reg) (fa : Fmt) (s : State) : Result :=
  vecOp c (.vmin c d a b fa) d (fun k => zip2 fa FV.min (k.v a) (k.v b)) s
def execVmax (c : CoreId) (d a b : Reg) (fa : Fmt) (s : State) : Result :=
  vecOp c (.vmax c d a b fa) d (fun k => zip2 fa FV.max (k.v a) (k.v b)) s

/-- One lane of vA × vB + vD, rounded once. -/
def lane3 (f : Fmt) (x y z : Nat) : Nat × NumEv :=
  elemCode f ((elemVal f x).isFinite && (elemVal f y).isFinite && (elemVal f z).isFinite)
    ((elemVal f x).fma (elemVal f y) (elemVal f z))

def execVfma (c : CoreId) (d a b : Reg) (fa : Fmt) (s : State) : Result :=
  vecOp c (.vfma c d a b fa) d (fun k =>
    gather fa (List.zipWith (fun xy z => lane3 fa xy.1 xy.2 z) (List.zip (lanesOf fa (k.v a)) (lanesOf fa (k.v b)))
      (lanesOf fa (k.v d)))) s

/-- The FP32 in an s register. -/
def CoreSt.f32Of (k : CoreSt) (r : Reg) : FV := f32 ((k.s r).setWidth 32)

/-- vA × the FP32 in sB. -/
def execVscl (c : CoreId) (d a b : Reg) (fa : Fmt) (s : State) : Result :=
  vecOp c (.vscl c d a b fa) d (fun k =>
    gather fa ((lanesOf fa (k.v a)).map fun x =>
      elemCode fa ((elemVal fa x).isFinite && (k.f32Of b).isFinite) ((elemVal fa x).mul (k.f32Of b)))) s

/-! ## Approximate functions (R49) -/

/-- One lane of an approximate function with its events. -/
def approxLane (f : Word → Word) (x : Nat) : Nat × NumEv :=
  let r := f (BitVec.ofNat 32 x)
  let v := f32 r
  (r.toNat, { nan := v.isNan, ovf := !v.isNan && !v.isFinite && (f32 (BitVec.ofNat 32 x)).isFinite })

def approxOp (c : CoreId) (i : Instr) (d a : Reg) (f : Word → Word) (s : State) : Result :=
  vecOp c i d (fun k => gather fmtFP32 ((lanesOf fmtFP32 (k.v a)).map (approxLane f))) s

def execVrcp (c : CoreId) (d a : Reg) (fa : Fmt) (s : State) : Result := approxOp c (.vrcp c d a fa) d a vrcp s
def execVrsq (c : CoreId) (d a : Reg) (fa : Fmt) (s : State) : Result := approxOp c (.vrsq c d a fa) d a vrsq s
def execVexp2 (c : CoreId) (d a : Reg) (fa : Fmt) (s : State) : Result := approxOp c (.vexp2 c d a fa) d a vexp2 s
def execVlog2 (c : CoreId) (d a : Reg) (fa : Fmt) (s : State) : Result := approxOp c (.vlog2 c d a fa) d a vlog2 s
def execVtanh (c : CoreId) (d a : Reg) (fa : Fmt) (s : State) : Result := approxOp c (.vtanh c d a fa) d a vtanh s

/-! ## Reductions (R100, R101) -/

/-- One level of the tree: neighbours added and rounded. -/
def sumLevel : List Nat → List Nat
  | x :: y :: r => (fp32.encode ((fp32.decode x).add (fp32.decode y))).1 :: sumLevel r
  | l => l

/-- The tree of six levels. -/
def treeSum (l : List Nat) : Nat :=
  ((sumLevel (sumLevel (sumLevel (sumLevel (sumLevel (sumLevel l)))))).head?).getD 0

def allFinite (l : List Nat) : Bool := l.all fun x => (fp32.decode x).isFinite

def execVrsum (c : CoreId) (d a : Reg) (fa : Fmt) (s : State) : Result :=
  redOp c (.vrsum c d a fa) d (fun k =>
    let l := lanesOf fmtFP32 (k.v a)
    elemCode fmtFP32 (allFinite l) (fp32.decode (treeSum l))) s

/-- The largest lane, NaN where any lane is NaN. -/
def lanesMax (l : List Nat) : FV := (l.map fp32.decode).foldl FV.max (.inf true)

def execVrmax (c : CoreId) (d a : Reg) (fa : Fmt) (s : State) : Result :=
  redOp c (.vrmax c d a fa) d (fun k =>
    let l := lanesOf fmtFP32 (k.v a)
    elemCode fmtFP32 (allFinite l) (lanesMax l)) s

/-- The order of VARGMAX: NaN above every number, −0 equal to +0. -/
def argBelow (x y : FV) : Bool := (!x.isNan && y.isNan) || x.lt y

/-- The lowest index of the largest lane: `best` so far at index `bi`, the rest from index `i` on. -/
def argMax (best : FV) (bi i : Nat) : List FV → Nat
  | [] => bi
  | x :: r => if argBelow best x then argMax x i (i + 1) r else argMax best bi (i + 1) r

def execVargmax (c : CoreId) (d a : Reg) (fa : Fmt) (s : State) : Result :=
  redOp c (.vargmax c d a fa) d (fun k =>
    match (lanesOf fmtFP32 (k.v a)).map fp32.decode with
    | [] => (0, {})
    | x :: r => (argMax x 0 1 r, {})) s

/-! ## Conversion and packing (R50, R51, R102) -/

/-- One element from format FA to FB. -/
def convert (fa fb : Fmt) (x : Nat) : Nat × NumEv := elemCode fb (elemVal fa x).isFinite (elemVal fa x)

/-- Replace part `m` of `n` bytes of a register. -/
def putPart (old : Parcel) (n m part : Nat) : Parcel :=
  let lo := 8 * n * m
  BitVec.ofNat 2048 (old.toNat - old.toNat / 2 ^ lo % 2 ^ (8 * n) * 2 ^ lo + part % 2 ^ (8 * n) * 2 ^ lo)

/-- VCVT by parts. -/
def vcvt (fa fb : Fmt) (m : Nat) (a d : Parcel) : Parcel × NumEv :=
  if fmtBytes fb < fmtBytes fa then
    let l := (lanesOf fa a).map (convert fa fb)
    (putPart d (fmtBytes fb * fmtLanes fa) m (joinLanes (fmtBytes fb) (l.map Prod.fst)), NumEv.all (l.map Prod.snd))
  else
    let l := (List.range (fmtLanes fb)).map fun i => convert fa fb (laneAt (fmtBytes fa) a (m * fmtLanes fb + i))
    (BitVec.ofNat 2048 (joinLanes (fmtBytes fb) (l.map Prod.fst)), NumEv.all (l.map Prod.snd))

def execVcvt (c : CoreId) (d a : Reg) (fa fb : Fmt) (m : BitVec 3) (s : State) : Result :=
  vecOp c (.vcvt c d a fa fb m) d (fun k => vcvt fa fb m.toNat (k.v a) (k.v d)) s

/-- Nibbles, the first lowest (R36). -/
def joinNibbles : List Nat → Nat
  | [] => 0
  | x :: r => x % 16 + 16 * joinNibbles r

def nibble (x i : Nat) : Nat := x / 16 ^ i % 16

/-- VPK4 writes data into vD and scales into vB; where the two are one register both land in it. -/
def execVpk4 (c : CoreId) (d a b : Reg) (m : BitVec 3) (s : State) : Result :=
  .next (slotPure c 1 (.vpk4 c d a b m) (fun _ k =>
    let l := (lanesOf fmtFP32 (k.v a)).map fp32.decode
    let x := packF4 (l.take 32)
    let y := packF4 (l.drop 32)
    let p := srcPoison k (.vpk4 c d a b m)
    let vd := putPart (k.v d) 32 m.toNat (joinNibbles (x.1 ++ y.1))
    let vb := putPart (if b = d then vd else k.v b) 2 m.toNat (x.2.1 + 256 * y.2.1)
    .vreg d vd p :: .vreg b vb p :: numWrites (x.2.2.or y.2.2)) s)

/-- VUP4: 64 elements with their two scales. -/
def unpack (a b : Parcel) (m : Nat) : List (Nat × NumEv) :=
  (List.range 64).map fun i =>
    elemCode fmtFP32 true (f4Val (nibble (laneAt 32 a m) i) (laneAt 1 b (2 * m + i / 32)))

def execVup4 (c : CoreId) (d a b : Reg) (m : BitVec 3) (s : State) : Result :=
  vecOp c (.vup4 c d a b m) d (fun k => gather fmtFP32 (unpack (k.v a) (k.v b) m.toNat)) s

end Sys2Proof.Machine
end

