-- ==== Sys2Proof/Machine/Matrix.lean ====
section
/-! DEFINITION. The matrix array (R35–R47, R62–R64, R90, R103–R106). -/

namespace Sys2Proof.Machine

/-! ## Tiles -/

/-- Elements of a row or column of 32, from its bytes as one little-endian number (R36, R103). -/
def elems (f : Fmt) (x : Nat) : List Nat :=
  let bits := if f == fmtF4 || f == fmtQ2 then 4 else if f == fmtBF16 then 16 else 8
  (List.range 32).map fun k => x / 2 ^ (bits * k) % 2 ^ bits

/-- Bytes of one column of a tile (R35, R40, R103). -/
def colBytes (f : Fmt) : Nat := tileParcels f * 8

/-- A level-table entry of a voyage's sixteen tables (R39). -/
def levelOf (levels : BitVec 256) (table idx : Nat) : Nat := levels.toNat / 16 ^ (4 * table + idx) % 16

/-- A Q2 column decoded into F4 codes (R38, R40, R41): indices and the selector byte. -/
def decodeQ2 (levels : BitVec 256) (idx sel : Nat) : List Nat :=
  (List.range 32).map fun k =>
    levelOf levels (if k < 16 then sel % 16 else sel / 16 % 16) (idx / 4 ^ k % 4)

/-- The element codes of column `n` of a tile. -/
def columnCodes (f : Fmt) (levels : BitVec 256) (data scale n : Nat) : List Nat :=
  let x := data / 256 ^ (colBytes f * n) % 256 ^ colBytes f
  if f == fmtQ2 then decodeQ2 levels x (scale / 256 ^ (2 * n + 1) % 256) else elems f x

/-- The scale code of column `n`: 0x7F where the tile carries none (R35, R37, R40). -/
def columnScale (f : Fmt) (scale : Option Nat) (n : Nat) : Nat :=
  match scale with
  | none => 127
  | some x => x / 256 ^ (if f == fmtQ2 then 2 * n else n) % 256

/-- The format in which a loaded tile is decoded: a Q2 tile becomes F4 blocks (R41). -/
def heldFmt (f : Fmt) : Fmt := if f == fmtQ2 then fmtF4 else f

/-- Format a tile into a weight buffer. -/
def formatTile (f : Fmt) (levels : BitVec 256) (data : Nat) (scale : Option Nat) (poison : Bool) : WBuf :=
  { fmt := some f
    data := BitVec.ofNat 16384 (joinLanes 2 ((List.range 32).flatMap fun n => columnCodes f levels data (scale.getD 0) n))
    scales := BitVec.ofNat 256 (joinLanes 1 ((List.range 32).map (columnScale f scale)))
    poison := poison }

/-- Element codes of column `n` of a buffer. -/
def WBuf.column (w : WBuf) (n : Nat) : List Nat := (List.range 32).map fun k => w.data.toNat / 2 ^ (16 * (32 * n + k)) % 65536

/-! ## One step of the array (R44, R45, R47) -/

/-- A product kept to 48 bits below the leading bit of the largest (R45). -/
def truncAt (q : Int) : FV → FV
  | .fin s m e => if q ≤ e then .fin s m e else .fin s (m / 2 ^ (q - e).toNat) q
  | x => x

/-- The largest finite magnitude of a list. -/
def largest (l : List FV) : Nat × Int :=
  l.foldl (fun acc v => match v with
    | .fin _ m e => magMax acc (m, e)
    | _ => acc) (0, 0)

/-- The products of BF16 aligned to the largest. -/
def alignProducts (l : List FV) : List FV :=
  let b := largest l
  if b.1 = 0 then l else l.map (truncAt (floorLog2 b.1 b.2 - 48))

/-- Exact sum; a zero sum is −0 only where every product is −0 (R46). -/
def sumProducts (l : List FV) : FV := l.foldl FV.add (.fin true 0 0)

/-- The step result of an activation row and a weight column. -/
def dotStep (fa fb : Fmt) (acts wts : List Nat) (ea ew : Nat) : FV :=
  let xa := acts.map (elemVal fa)
  let xw := wts.map (elemVal (heldFmt fb))
  let ps := List.zipWith FV.mul xa xw
  if ea == 255 || ew == 255 || xa.any FV.isNan || xw.any FV.isNan || ps.any FV.isNan then .nan
  else if ps.contains (.inf false) && ps.contains (.inf true) then .nan
  else if ps.contains (.inf false) then .inf false
  else if ps.contains (.inf true) then .inf true
  else (sumProducts (if fa == fmtBF16 then alignProducts ps else ps)).scale ((ea : Int) + ew - 254)

/-- Accumulate one step into an element (R46). An infinity from finite operands counts as overflow. -/
def accumulate (acc : Word) (v : FV) : Nat × NumEv :=
  elemCode fmtFP32 ((f32 acc).isFinite && v.isFinite) ((f32 acc).add v)

/-! ## Operand reads when an operation starts (R90, R93) -/

/-- Read a span of core SRAM on the instruction side, parcel by parcel: verify it, and gather which parcels were
poisoned. The fault of a parcel whose check does not match ends the reading. -/
def feedSpan (s : State) (a : Nat) : Nat → List (Nat × Bool) → State × List (Nat × Bool) × Option CFault
  | 0, seen => (s, seen, none)
  | n + 1, seen =>
    match feedSpan s a n seen with
    | (t, sn, some f) => (t, sn, some f)
    | (t, sn, none) =>
      let w := a / 8 * 8 + 8 * n
      let r := verifyRead t w 1
      if r.2 then (r.1, sn, some ⟨0x05, bankOf w, w⟩)
      else
        let pa := w / 256
        (r.1, if sn.any fun e => e.1 == pa then sn else (pa, parcelPoison r.1 w) :: sn, none)

/-- The words that `n` bytes at `a` touch. -/
def wordsOf (a n : Nat) : Nat := (a % 8 + n + 7) / 8

/-- Read a list of spans. -/
def feed (s : State) : List (Nat × Nat) → List (Nat × Bool) → State × List (Nat × Bool) × Option CFault
  | [], seen => (s, seen, none)
  | (a, n) :: r, seen =>
    match feedSpan s a (wordsOf a n) seen with
    | (t, sn, some f) => (t, sn, some f)
    | (t, sn, none) => feed t r sn

/-- Count each poisoned parcel of an operation once (R54, R83). -/
def countFed (s : State) (c : CoreId) (seen : List (Nat × Bool)) : State :=
  seen.foldl (fun t e => countConsumed t c e.2) s

/-- An imprecise fault of a matrix operation (R110): CO_FAULT_LOC names the WLD or MMA. -/
def matrixFault (s : State) (c : CoreId) (f : CFault) (loc : Nat) : State := takeIssueFault s c f loc

/-! ## WLD (R90, R104) -/

/-- Entries of the weight-load queue and the array queue. -/
def wqDepth : Nat := 4
def aqDepth : Nat := 8

def execWld (c : CoreId) (a b : Reg) (fb : Fmt) (m : BitVec 3) (s : State) : Result :=
  let i := Instr.wld c a b fb m
  .next (slotRun c 1 i (fun t k =>
    if wqDepth ≤ k.wq.length then (t, none)
    else (t, some (.wld { seq := 0, loc := k.idx, buf := if m.getLsbD 0 then 1 else 0, fmt := fb, data := (k.s a).toNat,
                          scale := if usesScale fb b then some (k.s b).toNat else none, poison := srcPoison k i }
                   :: useWrites (srcPoison k i)))) s)

/-- Bytes at sB of a weight load. -/
def scaleBytes (f : Fmt) : Nat := if f == fmtQ2 then 64 else 32

/-- WEIGHT_LOAD_START: the head of the weight-load queue leaves it when every earlier MMA naming its buffer has finished. -/
def execWeightLoadStart (c : CoreId) (s : State) : Result :=
  let k := coreGet s c
  match k.wq with
  | [] => .next s
  | e :: rest =>
    if k.aq.any fun x => x.buf == e.buf && decide (x.seq < e.seq) then .next s
    else
      let s := coreSet s c { k with wq := rest }
      let spans := (e.data, 256 * tileParcels e.fmt) :: (match e.scale with
        | some x => [(x, scaleBytes e.fmt)]
        | none => [])
      match feed s spans [] with
      | (t, _, some f) => .next (matrixFault t c f e.loc)
      | (t, seen, none) =>
        let data := t.mem.bytes.readNat e.data (256 * tileParcels e.fmt)
        let scale := e.scale.map fun x => t.mem.bytes.readNat x (scaleBytes e.fmt)
        let w := formatTile e.fmt (voyGet t c).levels data scale (e.poison || seen.any fun x => x.2)
        .next (countFed (coreMod t c fun k =>
          let k := { k with badPar := clearPar k.badPar fun b => b.reg == RegRef.weight e.buf }
          if e.buf = 0 then { k with w0 := w } else { k with w1 := w }) c seen)

/-! ## MMA (R63, R90, R105) -/

def execMma (c : CoreId) (d a b : Reg) (fa fb : Fmt) (m : BitVec 3) (imm : Word) (s : State) : Result :=
  let i := Instr.mma c d a b fa fb m imm
  .next (slotRun c 1 i (fun t k =>
    if aqDepth ≤ k.aq.length then (t, none)
    else (t, some (.mma { seq := 0, loc := k.idx, buf := if m.getLsbD 0 then 1 else 0, acc := (field d 0 2).toFin,
                          fa := fa, fb := fb, firstRow := (field imm 0 5).toNat, rows := (field imm 5 5).toNat + 1,
                          fresh := imm.getLsbD 10, stride := (field imm 11 16).toNat, data := (k.s a).toNat,
                          scale := if usesScale fa b then some (k.s b).toNat else none, poison := srcPoison k i }
                   :: useWrites (srcPoison k i)))) s)

/-- Core cycles per activation row (R43). -/
def rowCycles (f : Fmt) : Nat := if f == fmtF4 || f == fmtQ2 then 1 else if f == fmtBF16 then 4 else 2

/-- The scale code of activation row `r` (R37, R105). -/
def rowScale (m : Memory) (e : MmaEntry) (r : Nat) : Nat :=
  match e.scale with
  | some x => (m.read (x + r)).toNat
  | none => 127

/-- One activation row against every column: the accumulator elements and the events. -/
def passRow (mem : Memory) (w : WBuf) (e : MmaEntry) (acc : Tbl Word) (r : Nat) : Tbl Word × NumEv :=
  let acts := elems e.fa (mem.readNat (e.data + r * e.stride) (rowBytes e.fa))
  (List.range 32).foldl (fun st n =>
    let key := e.acc.val * 1024 + (e.firstRow + r) * 32 + n
    let old := if e.fresh then 0 else tget st.1 key 0
    let x := accumulate old (dotStep e.fa e.fb acts (w.column n) (rowScale mem e r) (w.scales.toNat / 256 ^ n % 256))
    (tset st.1 key (BitVec.ofNat 32 x.1) 0, st.2.or x.2)) (acc, {})

/-- All rows of an MMA. -/
def passRows (mem : Memory) (w : WBuf) (e : MmaEntry) (acc : Tbl Word) : Nat → Tbl Word × NumEv
  | 0 => (acc, {})
  | r + 1 =>
    let st := passRows mem w e acc r
    let x := passRow mem w e st.1 r
    (x.1, st.2.or x.2)

/-- The SRAM that an MMA reads: its rows, then its scales. -/
def mmaSpans (e : MmaEntry) : List (Nat × Nat) :=
  (List.range e.rows).map (fun r => (e.data + r * e.stride, rowBytes e.fa)) ++ (match e.scale with
    | some x => [(x, e.rows)]
    | none => [])

/-- A parity fault of a matrix operation: the weight buffer, or an accumulator whose old elements it reads (R78). -/
def mmaParity (k : CoreSt) (e : MmaEntry) : Option RegRef :=
  if k.badPar.any fun b => b.reg == .weight e.buf then some (.weight e.buf)
  else if !e.fresh && k.badPar.any (accBit e.acc (e.firstRow * 32) (e.rows * 32)) then some (.accum e.acc)
  else none

/-- ARRAY_PASS_START: the head of the array queue leaves it when every earlier WLD into its buffer has completed, and
makes its passes. -/
def execArrayPassStart (c : CoreId) (waited : Word) (upset : List ParityBit) (s : State) : Result :=
  let k := coreGet s c
  match k.aq with
  | [] => .next s
  | e :: rest =>
    if k.wq.any fun x => x.buf == e.buf && decide (x.seq < e.seq) then .next s
    else
      let k := { k with aq := rest, badPar := upset ++ k.badPar }
      let s := cntAdd (coreSet s c k) ((coBlk s c).reg 0x054) waited.toNat
      match mmaParity k e with
      | some r => .next (matrixFault s c ⟨0x06, parityDetail r, 0⟩ e.loc)
      | none =>
        match feed s (mmaSpans e) [] with
        | (t, _, some f) => .next (matrixFault t c f e.loc)
        | (t, seen, none) =>
          let w := k.wbuf e.buf
          let r := passRows t.mem.bytes w e k.acc e.rows
          let p := (!e.fresh && k.ap e.acc) || w.poison || e.poison || seen.any fun x => x.2
          let t := coreMod t c fun k => { k with
            acc := r.1, apois := setBit k.apois e.acc.val p, accPending := setBit k.accPending e.acc.val true,
            badPar := clearPar k.badPar (accBit e.acc (e.firstRow * 32) (e.rows * 32)) }
          let t := cntAdd t ((coBlk t c).reg 0x050) (e.rows * rowCycles e.fb)
          .next (countFed (countNumeric t c e.loc r.2) c seen)

/-- ACCUMULATOR_COMPLETE: 10 core cycles after the last pass (R90). -/
def execAccumulatorComplete (c : CoreId) (acc : Fin 4) (s : State) : Result :=
  .next (coreMod s c fun k => { k with accPending := setBit k.accPending acc.val false })

/-! ## AMOV and VAMOV (R89, R106): they wait for every earlier MMA naming the accumulator -/

def accBusy (k : CoreSt) (a : Fin 4) : Bool := k.accPending.getLsbD a.val || k.aq.any fun e => e.acc == a

/-- Two accumulator rows as 64 lanes. -/
def accRows (k : CoreSt) (a : Fin 4) (j : Nat) : Parcel :=
  BitVec.ofNat 2048 (joinLanes 4 ((List.range 64).map fun i => (tget k.acc (a.val * 1024 + j * 64 + i) 0).toNat))

/-- The numerical event of copying FP32 lanes: a NaN among them is written (R53). -/
def nanLanes (v : Parcel) : NumEv := nanWritten fmtFP32 (lanesOf fmtFP32 v)

def execAmov (c : CoreId) (d a : Reg) (imm : Word) (s : State) : Result :=
  .next (slotRun c 1 (.amov c d a imm) (fun t k =>
    let x := (field a 0 2).toFin
    let v := accRows k x (field imm 0 4).toNat
    if accBusy k x then (t, none) else (t, some (.vreg d v (k.ap x) :: numWrites (nanLanes v)))) s)

def execVamov (c : CoreId) (d a : Reg) (imm : Word) (s : State) : Result :=
  .next (slotRun c 1 (.vamov c d a imm) (fun t k =>
    let x := (field d 0 2).toFin
    if accBusy k x then (t, none)
    else (t, some (.accRows x (field imm 0 4).toNat (k.v a) (k.vp a) :: numWrites (nanLanes (k.v a))))) s)

end Sys2Proof.Machine
end

