-- ==== Sys2Proof/Machine/Power.lean ====
section
/-! DEFINITION. Feeds, rails, the guest's supply, temperature, throttle, trips, and the resets that end in a start-up
(R404–R428, R490–R495). -/

namespace Sys2Proof.Machine

def pwSet (s : State) (x : PwSt) : State := { s with pw := x }
def pwMod (s : State) (f : PwSt → PwSt) : State := pwSet s (f s.pw)

/-- A record of power supervision, which firmware writes: nothing while the hub is not up (R426). -/
def pwLog (s : State) (kind unit detail : Nat) : State := if hubUp s then logRecord s kind 0 unit detail 0 0 else s

/-- The always-on domain is fed. -/
def fed (s : State) : Bool := s.pw.mode != .off

/-! ## Feeds, in 0.1 V (R404–R408) -/

/-- A feed within its operating range of 40 to 60 V. -/
def feedOk (v : BitVec 10) : Bool := decide (400 ≤ v.toNat ∧ v.toNat ≤ 600)

def PwSt.feeds (x : PwSt) (va vb : BitVec 10) : PwSt := { x with va := va, vb := vb, aOk := feedOk va, bOk := feedOk vb }

/-- Kind 0x0703 is written once for a time in which B is out of range and A carries the load (R406). -/
def noteB (s : State) : State :=
  let x := s.pw
  if x.bOk then if x.bTold then pwSet s { x with bTold := false } else s
  else if !hubUp s || x.feedB || x.bTold then s
  else pwLog (pwSet s { x with bTold := true }) 0x0703 0 x.vb.toNat

/-- FEED_TRANSFER: A below 42.0 V for 1 µs; B takes the load where it is the higher feed (R405, R406, R423). -/
def execFeedTransfer (va vb : BitVec 10) (s : State) : Result :=
  let x := s.pw
  if !fed s || (x.feedB && x.sharing.isNone) || decide (420 ≤ va.toNat) || decide (vb.toNat ≤ va.toNat) then .next s
  else
    let s := pwSet s { x.feeds va vb with feedB := true, sharing := none, xferAt := s.now }
    .next (pwLog (cntAdd s (blkPW.reg 0x020) 1) 0x0701 0 va.toNat)

/-- FEED_RETURN: A has read 44.0 V or more for 1 s, and the return ramp begins, which takes at most 40 µs (R406). Until it ends
both feeds deliver. -/
def execFeedReturn (va vb : BitVec 10) (micros : Fin 41) (s : State) : Result :=
  let x := s.pw
  if !fed s || !x.feedB || x.sharing.isSome || decide (va.toNat < 440 ∨ s.now < x.xferAt + 10 ^ 9) then .next s
  else .next (pwSet s { x.feeds va vb with sharing := some (s.now + 1000 * micros.val, micros) })

/-- The return ramp ends: B's stage opens. B is then supervised (R406). -/
def tickFeeds (s : State) : State :=
  noteB <| match s.pw.sharing with
  | none => s
  | some (t, micros) =>
    if s.now < t then s
    else pwLog (cntAdd (pwMod s fun x => { x with feedB := false, sharing := none }) (blkPW.reg 0x024) 1) 0x0702 0 micros

/-- FEED_B_FAULT: B out of range while A carries the load (R406). -/
def execFeedBFault (vb : BitVec 10) (s : State) : Result :=
  let x := s.pw
  if !fed s || x.feedB || !x.bOk || feedOk vb then .next s
  else .next (noteB (pwSet s { x with vb := vb, bOk := false, bTold := false }))

/-- FEED_B_RESTORED. -/
def execFeedBRestored (vb : BitVec 10) (s : State) : Result :=
  let x := s.pw
  if !fed s || x.feedB || !feedOk vb then .next s else .next (pwSet s { x with vb := vb, bOk := true })

/-- V1P8 still stands in a trip sequence (R420). -/
def tripping (s : State) : Bool := s.pw.mode == .tripped && s.pw.offAt.any fun t => decide (s.now < t)

/-- BROWN_OUT: the rails go down, and the module stays off until a feed qualifies (R407); within a trip sequence the rest of it runs faster, and
the cause stays (R423). -/
def execBrownOut (s : State) : Result :=
  .next (if hubPowered s then moduleReset s .brownOut false 1 0
    else if tripping s then pwMod s fun x => { x with offAt := brownTimes s.now x.offAt } else s)

/-- CONVERTER_FAULT. -/
def execConverterFault (k : Fin 16) (s : State) : Result :=
  let x := s.pw
  if !fed s || x.convBad.getLsbD k.val then .next s
  else .next (pwLog (pwSet s { x with convBad := setBit x.convBad k.val true }) 0x070C 0 k.val)

/-! ## Rails (R408, R410, R420) -/

/-- The place of a rail in the order of R420; VAON has none. -/
def railStep (r : Nat) : Option Nat :=
  if r = 0 then some 7 else if r ≤ 12 then some 0 else if r ≤ 18 then some 5 else if r ≤ 34 then some 4 else if r ≤ 42 then some 3
  else if r ≤ 50 then some 2 else if r = 51 then some 6 else if r = 52 then some 1 else none

/-- V1P8 and VHUB stand from start-up's first steps on. -/
def mainUp (s : State) : Bool := hubPowered s && (s.pw.mode != .starting || s.pw.fromStep3 || decide (2 ≤ s.sec.stage))

/-- A rail has been brought up. -/
def railUp (s : State) (r : Nat) : Bool :=
  if r = 53 then fed s else if r = 0 ∨ r = 51 then mainUp s else if r = 52 then s.pw.guestOn else s.pw.rails

/-- The shift of a rail by PW_TRIMr, in mV. -/
def railTrim (s : State) (r : Nat) : Int := (field (cfg s blkPW (0x104 + 8 * r)) 0 8).toInt

/-- A forecast has raised the setpoint of a compute die's VCORE (R410). -/
def boosted (s : State) (die : Nat) : Bool := s.pw.boost.any fun b => b.1 == die

/-- The voltage that a rail is set to, in mV, where R408 gives one. -/
def railSet (s : State) (r : Nat) : Option Nat :=
  if r = 0 then some 1800
  else if r ≤ 12 then some (vcoreNow s + if boosted s (r - 1) then 15 else 0)
  else if r ≤ 18 ∨ r = 51 then some 750
  else if r = 52 then some (600 + 5 * min 100 (field (cfg s blkPW 0x03C) 0 8).toNat)
  else if r = 53 then some 800
  else none

/-- How far a rail may stand from its setpoint within the bounds that R408 and R410 give: below, and the whole span. -/
def railSpan (r : Nat) : Nat × Nat := if r = 0 then (54, 109) else if r ≤ 12 then (60, 61) else (0, 1)

/-- The voltage of a rail: off, going down, or at its setpoint with its trim, within its bounds. Where R408 gives a rail no one voltage, it is
free. -/
def railMv (s : State) (r : Nat) : Nat :=
  let v : Nat := match railSet s r with
    | some v => ((v : Int) + railTrim s r - (railSpan r).1 + (s.free / 4096 % (railSpan r).2 : Nat)).toNat
    | none => s.free / 4096
  if railUp s r then v
  else match railStep r with
    | none => 0
    | some i =>
      let t := s.pw.offAt.getD i 0
      if t ≤ s.now then 0 else if i = 0 then v * min 20000 (t - s.now) / 20000 else v

/-- PW_RAILr: the voltage, and the current, which nothing fixes while the rail is up. -/
def railWord (s : State) (r : Nat) : Word :=
  fields 32 [(12, railMv s r), (4, 0), (12, if railUp s r then s.free else 0)]

/-- VCORE_DROOP: the detector of a compute die stretches core cycles. -/
def execVcoreDroop (die : Fin 12) (s : State) : Result :=
  let x := s.pw
  if !x.rails || x.droop.contains die.val then .next s
  else .next (cntAdd (pwSet s { x with droop := die.val :: x.droop }) (blkPW.reg 0x028) 1)

/-- DROOP_RECOVERED: the rail is back to 20 mV below its setpoint. -/
def execDroopRecovered (die : Fin 12) (s : State) : Result := .next (pwMod s fun x => { x with droop := x.droop.erase die.val })

/-- RAIL_OUT_OF_TOLERANCE. -/
def execRailOutOfTolerance (rail : Fin 54) (millivolts : BitVec 12) (s : State) : Result :=
  .next (pwLog s 0x0704 rail.val (rail.val + 65536 * millivolts.toNat))

/-- A boost lasts from 10 µs before F to 1 ms after it (R410). -/
def boostLead : Nat := 10000

/-- REGULATOR_FORECAST_BOOST: the regulators of a compute die that a forecast names enable all phases and raise the setpoint by
15 mV. -/
def execRegulatorForecastBoost (die : Fin 12) (fire : Dword) (s : State) : Result :=
  match s.launch.forecasts.find? fun f => f.fire == fire && f.dies.contains die.val with
  | none => .next s
  | some f =>
  let x := s.pw
  let t := s.tide.hub.toNat
  if !hubUp s || !x.rails || x.boost.contains (die.val, fire) || decide (t + boostLead < fire.toNat) || decide (fire.toNat + boostHold ≤ t) then .next s
  else .next (takeForecast (pwSet s { x with boost := (die.val, fire) :: x.boost }) f { f with dies := f.dies.erase die.val })

/-- REGULATOR_FORECAST_END: the boosts of a die whose time has passed end. -/
def execRegulatorForecastEnd (die : Fin 12) (s : State) : Result :=
  .next (pwMod s fun x => { x with boost := x.boost.filter fun b => b.1 != die.val || decide (s.tide.hub.toNat < b.2.toNat + boostHold) })

/-! ## The guest's supply (R411, R419) -/

/-- VGUEST goes off, and the breakwater's quarantine switch sets. -/
def guestCut (s : State) (reason : Nat) : State :=
  let s := rset (pwMod s fun x => { x with guestOn := false, guestOver := 0 }) (blkPW.reg 0x044) 0
  pwLog (if hubUp s then guestQuarantine s else s) 0x0709 (if reason = 2 then 47 else 52) reason

/-- GUEST_POWER_CUT. -/
def execGuestPowerCut (reason : Fin 3) (s : State) : Result :=
  .next (if s.pw.guestOn then guestCut s reason.val else s)

/-- PW_GUEST_ON: VGUEST follows EN while the die rails are up. -/
def execPwGuestOn (value : Word) (s : State) : Result :=
  if !fed s then .next s
  else softWrite s blkPW fun s =>
    .next (rset (pwMod s fun x => { x with guestOn := value.getLsbD 0 && x.rails }) (blkPW.reg 0x044) (value &&& 1))

/-! ## Throttle (R412, R415–R417) -/

/-- TM_IGNORE of a channel (R484). -/
def ignored (s : State) (ch : Nat) : Bool :=
  if ch < 32 then (cfg s blkTM 0x024).getLsbD ch
  else if ch < 64 then (cfg s blkTM 0x028).getLsbD (ch - 32)
  else (cfg s blkTM 0x030).getLsbD (ch - 64)

def channels : List Nat := List.range 68

def chanGet (s : State) (ch : Nat) : ChanSt := tget s.tm.ch ch {}
def chanSet (s : State) (ch : Nat) (x : ChanSt) : State := { s with tm := { s.tm with ch := tset s.tm.ch ch x {} } }

/-- The highest level among the channels not ignored. -/
def topLevel (s : State) : Nat := channels.foldl (fun m c => if ignored s c then m else max m (chanGet s c).level) 0

/-- The channel that decides it: the lowest-numbered at that level. -/
def topChannel (s : State) : Nat := (channels.find? fun c => !ignored s c && (chanGet s c).level == topLevel s).getD 0

/-- The module throttle level: at least 1 under the power cap (R412, R416). -/
def levelNow (s : State) : Nat := if s.pw.capOn then max 1 (topLevel s) else topLevel s

/-- The module throttle follows while TM is enabled (R416, R462). On a rise the clocks fall before VCORE, on a fall they rise after it
(R418). -/
def settleLevel (s : State) : State :=
  let new := levelNow s
  let old := s.tm.level
  let ch := topChannel s
  if !enabled s blkTM then s
  else if new == old then { s with tm := { s.tm with decide := ch } }
  else
    let s := { s with tm := { s.tm with level := new, decide := ch, vFrom := vcoreNow s, vAt := s.now, clock := clockLevel s } }
    pwLog (cntAdd s (blkTM.reg 0x014) 1) 0x0705 ch (old + 16 * new + 256 * ch)

/-- PW_CAP. -/
def capWatts (s : State) : Nat := (field (cfg s blkPW 0x01C) 0 13).toNat

/-- The power cap engages after three samples above it, and releases after three below 95 % of it and 10 ms (R412). -/
def sampleCap (s : State) (watts : Nat) : State :=
  let x := s.pw
  let above := if capWatts s < watts then x.capOver + 1 else 0
  let below := if 100 * watts < 95 * capWatts s then x.capUnder + 1 else 0
  let s := pwSet s { x with capOver := min 3 above, capUnder := min 3 below }
  if !x.capOn && decide (3 ≤ above) then pwLog (pwMod s fun x => { x with capOn := true, capAt := s.now }) 0x070A 0 watts
  else if x.capOn && decide (3 ≤ below ∧ x.capAt + 10000000 ≤ s.now) then pwMod s fun x => { x with capOn := false }
  else s

/-- The guest's power limit, in 0.1 W (R411). -/
def guestLimit : Nat := 750

/-- POWER_SAMPLE: every 1 ms. Cap and guest limit act while PW is enabled (R462). -/
def execPowerSample (watts : BitVec 13) (guest : BitVec 11) (s : State) : Result :=
  if !fed s then .next s
  else
    let s := pwMod s fun x => { x with input := watts, guestPwr := guest }
    if !enabled s blkPW then .next s
    else
      let above := if guestLimit < guest.toNat then s.pw.guestOver + 1 else 0
      let s := pwMod s fun x => { x with guestOver := min 3 above }
      let s := if s.pw.guestOn && decide (3 ≤ above) then guestCut s 0 else s
      .next (settleLevel (sampleCap s watts.toNat))

/-! ## Temperature (R413–R416), in 0.25 °C -/

/-- Thresholds of a channel's levels 1–3 and its trip point, in °C (R415). -/
def thresholds (ch : Nat) : Nat × Nat × Nat × Option Nat :=
  if ch < 24 then (100, 105, 109, some 112)
  else if ch < 30 ∨ ch = 46 ∨ ch = 47 then (95, 100, 104, some 108)
  else if ch < 46 then (92, 96, 100, some 105)
  else if ch < 56 then (88, 92, 96, some 100)
  else if ch < 64 then (85, 88, 91, some 95)
  else if ch = 64 then (45, 50, 55, none)
  else if ch = 65 then (62, 68, 72, none)
  else (85, 90, 95, none)

/-- A faulty channel reads as the maximum (R414). -/
def faultTemp : Int := 0x7FF

/-- What a reading shows: its temperature, or the way in which the channel is faulty (R414). -/
def readingOf (ch : Nat) : Reading → Int ⊕ Nat
  | .open => .inr 0
  | .short => .inr 1
  | .missed => .inr 3
  | .value q => if -80 ≤ q.toInt ∧ q.toInt ≤ (if 64 ≤ ch then 480 else 600) then .inl q.toInt else .inr 2

/-- The level that one sample supports: the highest whose threshold, lowered by `less`, it reaches. -/
def supports (ch : Nat) (t less : Int) : Nat :=
  let h := thresholds ch
  ([h.1, h.2.1, h.2.2.1].filter fun (x : Nat) => decide (4 * (x : Int) - less ≤ t)).length

/-- The level that three samples agree on: a rise to the lowest that they support, or a fall below the release points,
3 °C under the thresholds (R415, R416). -/
def agreedLevel (ch level : Nat) (l : List Int) : Nat :=
  if l.length < 3 then level
  else
    let up := l.foldl (fun m t => min m (supports ch t 0)) 3
    let down := l.foldl (fun m t => max m (supports ch t 12)) 0
    if level < up then up else if down < level then down else level

/-- A channel takes its sample; its level follows while TM is enabled. -/
def sampleChannel (s : State) (ch : Nat) (r : Reading) : State :=
  let x := chanGet s ch
  let f := readingOf ch r
  let s := match f with
    | .inr 3 => s
    | .inr why => if x.fault then s else pwLog (cntAdd s (blkTM.reg 0x018) 1) 0x0706 ch (ch + 256 * why)
    | .inl _ => s
  let t : Int := match f with
    | .inl t => t
    | .inr _ => faultTemp
  let x := { x with temp := BitVec.ofInt 11 t, fault := if r = .missed then x.fault else f.isRight, missed := r == .missed, last := (t :: x.last).take 3 }
  let new := if enabled s blkTM && decide (x.since + 10000000 ≤ s.now) then agreedLevel ch x.level x.last else x.level
  chanSet s ch (if new = x.level then x else { x with level := new, since := s.now })

/-- Every channel not ignored reads below 85 °C. -/
def allCool (s : State) : Bool := channels.all fun c => ignored s c || (match (chanGet s c).last with
  | t :: _ => decide (t < 340)
  | [] => true)

/-- THERMAL_SAMPLE: every 1 ms, one reading of each channel. A channel with none counts as one at its maximum (R28). -/
def execThermalSample (readings : List Reading) (s : State) : Result :=
  if !fed s then .next s
  else
    let s := channels.foldl (fun t c => sampleChannel t c (readings.getD c .missed)) s
    let s := { s with tm := { s.tm with coolAt := if allCool s then s.tm.coolAt.orElse fun _ => some s.now else none } }
    .next (settleLevel s)

/-! ## Trips (R419–R421) -/

/-- The trip point of a die channel with TM_TRIP_OFS, clamped to TM_TRIP_FUSE. -/
def tripPoint (s : State) (ch : Nat) : Option Int :=
  let f := rget s (blkTM.reg 0x020)
  let lo := (field f 0 5).toInt
  let hi := (field f 8 5).toInt
  let ofs := (field (cfg s blkTM 0x01C) 0 5).toInt
  (thresholds ch).2.2.2.map fun (t : Nat) => 4 * ((t : Int) + min (max ofs lo) hi)

/-- Two samples in a row are at or above the trip point. -/
def overTrip (s : State) (ch : Nat) : Bool :=
  match tripPoint s ch, (chanGet s ch).last with
  | some p, a :: b :: _ => !ignored s ch && decide (p ≤ a ∧ p ≤ b)
  | _, _ => false

/-- Trips within the last 3,600 s. -/
def tripsInHour (s : State) : List Nat := s.pw.trips.filter fun t => decide (s.now < t + 3600 * 10 ^ 9)

/-- THERMAL_TRIP: the rails go down; the third trip within an hour latches the module off. The guest's channel cuts the
guest's supply. -/
def execThermalTrip (ch : Fin 68) (s : State) : Result :=
  if !hubPowered s || !overTrip s ch.val then .next s
  else if ch.val = 47 then .next (if s.pw.guestOn || !s.guest.quar then guestCut s 2 else s)
  else
    let l := s.now :: tripsInHour s
    let s := cntAdd (moduleReset s .tripped false 2 ch.val) (blkPW.reg 0x030) 1
    let s := pwMod s fun x => { x with trips := l, tripCh := ch.val, latched := decide (3 ≤ l.length) }
    .next { s with tm := { s.tm with coolAt := none } }

/-- How long the module must have been cool (R421). -/
def coolTime : Nat := 30 * 10 ^ 9

/-- Start-up begins at step 1. -/
def startAgain (s : State) (cause : Nat) : State :=
  { pwMod s fun x => { x with mode := .starting, fromStep3 := false, cause := cause, startAt := s.now } with sec := s.sec.begin }

/-- THERMAL_RESTART. -/
def execThermalRestart (s : State) : Result :=
  match s.tm.coolAt with
  | none => .next s
  | some t =>
    if s.pw.mode != .tripped || s.pw.latched || decide (s.now < t + coolTime) then .next s
    else .next (startAgain (if s.pw.cause = 3 then latchCause s 3 0 else s) s.pw.cause)

/-- PW_LATCH_CLR: the 30 s rule applies from the clear. -/
def execPwLatchClr (value : Word) (s : State) : Result :=
  if !fed s then .next s
  else softWrite s blkPW fun s =>
    if !value.getLsbD 0 || !s.pw.latched then .next s
    else
      let s := pwMod s fun x => { x with latched := false, cause := 3 }
      .next { s with tm := { s.tm with coolAt := if allCool s then some s.now else none } }

/-! ## Resets (R427, R491, R492, R495) -/

/-- POWER_ON: a feed has read 44.0 V or more for 1 s: after both were `absent`, with everything but the fuses and the NOR
lost, or after a brown-out. The load is on A where A qualifies (R491). -/
def execPowerOn (absent : Bool) (va vb : BitVec 10) (s : State) : Result :=
  let onB := decide (va.toNat < 440)
  if onB && decide (vb.toNat < 440) then .next s
  else if absent || s.pw.mode == .off then
    let t := latchCause { State.reset with
      pending := s.pending, out := s.out, freeCtr := s.freeCtr, now := s.now, sec := s.sec.fuses, nor := s.nor } 0 0
    .next (startAgain (pwSet t { t.pw.feeds va vb with feedB := onB, xferAt := s.now }) 0)
  else if s.pw.mode == .brownOut then
    .next (startAgain (pwSet s { s.pw.feeds va vb with feedB := onB, sharing := none, xferAt := s.now }) s.pw.cause)
  else .next s

/-- HUB_RESET: firmware asks for it, or no half is left (R398, R427). -/
def execHubReset (s : State) : Result := .next (if hubUp s then hubResets s 4 else s)

/-- RESET_N low for 10 µs or more, while V1P8 is up. The command covers the time until the pin rises. -/
def execResetN (lowNanos : Word) (s : State) : Result := .next (if 10000 ≤ lowNanos.toNat ∧ hubPowered s then hubResets s 5 else s)

/-- REFERENCE_LOST: a gap of 64 ns or more, and the reference present again for 1 ms. -/
def execReferenceLost (gapNanos : Word) (s : State) : Result := .next (if 64 ≤ gapNanos.toNat ∧ hubPowered s then hubResets s 6 else s)

end Sys2Proof.Machine
end

