-- ==== Sys2Proof/Machine/Redundancy.lean ====
section
/-! DEFINITION. The duplicated halves of the harbourmaster complex and of the tide beacon (R387–R403). -/

namespace Sys2Proof.Machine

/-- Half A is `false`, half B `true`. -/
def RedSt.half (r : RedSt) (h : Bool) : HalfState := if h then r.stB else r.stA
def RedSt.setHalf (r : RedSt) (h : Bool) (v : HalfState) : RedSt := if h then { r with stB := v } else { r with stA := v }

def redSet (s : State) (r : RedSt) : State := { s with red := r }

/-- A record of the harbourmaster complex (R403). -/
def redLog (s : State) (kind detail : Nat) : State := logRecord s kind 0 0 detail 0 0

/-- Paths of the heartbeat of a half, or of a beacon driver, that are lost. -/
def RedSt.lostOf (r : RedSt) (beacon half : Bool) : List PathLoss := r.lost.filter fun p => p.beacon == beacon && p.half == half

/-- HEARTBEAT_PATH_LOST: one path of a half's heartbeat, or of a beacon driver's, misses three periods and the other delivers (R390). -/
def execHeartbeatPathLost (beacon half wire : Bool) (s : State) : Result :=
  if !hubUp s || !(s.red.lostOf beacon half).isEmpty then .next s
  else
    let s := redSet s { s.red with lost := s.red.lost ++ [⟨beacon, half, wire, s.now⟩] }
    .next (logRecord (cntAdd s (blkHM.reg 0x30C) 1) 0x0801 0 beacon.toNat (wire.toNat + 256 * half.toNat) 0 0)

/-- HEARTBEAT_PATH_RESTORED: the path has delivered again for 1 ms (R390). -/
def execHeartbeatPathRestored (beacon half wire : Bool) (s : State) : Result :=
  let back (p : PathLoss) : Bool := p.beacon == beacon && p.half == half && p.wire == wire && decide (p.at_ + 1000000 ≤ s.now)
  if !hubUp s then .next s else .next (redSet s { s.red with lost := s.red.lost.filter fun p => !back p })

/-- One hour (R391). -/
def hour : Nat := 3600 * 10 ^ 9

/-- A half fails: it is reset, and the third failure within an hour keeps it out until the module is reset (R391). -/
def halfFails (s : State) (half : Bool) : State :=
  let r := s.red
  let l := (half, s.now) :: r.fails.filter fun f => decide (s.now < f.2 + hour)
  let s := redSet s { r.setHalf half .failed with fails := l }
  if 3 ≤ l.countP (fun f => f.1 == half) ∧ !r.out.contains half then redLog (redSet s { s.red with out := half :: r.out }) 0x0806 half.toNat else s

/-- The standby takes over with a claim one above the active's (R393, R394). -/
def takeOver (s : State) (gap cause : Nat) : State :=
  let r := s.red
  let new := !r.active
  let s := redSet s { r.setHalf new .active with active := new, claim := r.claim + 1, gapEnd := s.now + gap }
  let s := logCapture64 (cntAdd s (blkHM.reg 0x308) 1) (blkHM.reg 0x318) (fields 32 [(7, gap), (1, 0), (2, cause)]) 0
  redLog s 0x0802 (new.toNat + 256 * cause + 65536 * gap)

/-- A declaration of failure, with what decides where both halves declare each other failed (R398). -/
def declare_ (s : State) (half : Bool) : State :=
  let other := !s.red.active
  redSet s { s.red with declared := some (half, s.now, if s.red.half other = .ready then some other else none) }

/-- The half that stood by READY when the other half was declared failed, in this control cycle. -/
def bothDeclared (s : State) (half : Bool) : Option Bool := match s.red.declared with
  | some (other, at_, ready) => if other = !half ∧ at_ = s.now then ready else none
  | none => none

/-- Both halves declare each other failed: the one that was standby takes over, where it has not done so already, and the other, which sees
the higher claim, is resynchronised (R398). Neither counts as failed. -/
def bothFail (s : State) (gap : Nat) (standby : Bool) : State :=
  let r := { s.red with fails := s.red.fails.filter fun f => f.2 != s.now, declared := none }
  let r := r.setHalf (!standby) .resync
  if standby = r.active then redSet s r else takeOver (redSet s r) gap 0

/-- The standby beacon driver fails, or the active one, whose standby takes over (R390, R396). -/
def driverFails (s : State) (driver : Bool) : State :=
  let r := s.red
  if driver = r.beaconActive then
    if !r.beaconStbyOk then s
    else logRecord (cntAdd (redSet s { r with beaconActive := !driver, beaconStbyOk := false }) (blkHM.reg 0x320) 1) 0x0807 0 1 (!driver).toNat 0 0
  else if r.beaconStbyOk then logRecord (redSet s { r with beaconStbyOk := false }) 0x0804 0 1 driver.toNat 0 0
  else s

/-- PARTNER_FAILED: both paths miss three periods, and `half`, or the beacon driver, is declared failed. The gap is at most 64 control
cycles (R390, R391, R394, R398). -/
def execPartnerFailed (beacon half : Bool) (gap : Fin 65) (s : State) : Result :=
  if !hubUp s then .next s
  else if beacon then .next (driverFails s half)
  else match bothDeclared s half with
  | some standby => .next (bothFail s gap.val standby)
  | none =>
    if s.red.half half == .failed then .next s
    else
      let s := declare_ s half
      if half ≠ s.red.active then .next (redLog (halfFails s half) 0x0804 half.toNat)
      else if s.red.half (!half) == .ready then .next (takeOver (halfFails s half) gap.val 0)
      else .next (hubResets s 4)

/-- HALF_DIVERGENCE: the halves' outputs differ, and the standby is resynchronised (R392). -/
def execHalfDivergence (group : Byte) (s : State) : Result :=
  let r := s.red
  if !hubUp s || r.half (!r.active) != .ready then .next s
  else .next (redLog (cntAdd (redSet s { r.setHalf (!r.active) .resync with diverge := true }) (blkHM.reg 0x310) 1) 0x0803 group.toNat)

/-- FAILED_HALF_RESTART: a failed half comes out of reset healthy, and its resynchronisation begins (R391). -/
def execFailedHalfRestart (half : Bool) (s : State) : Result :=
  let r := s.red
  if !hubUp s || half == r.active || r.half half != .failed || r.out.contains half then .next s
  else .next (cntAdd (redSet s (r.setHalf half .resync)) (blkHM.reg 0x32C) 1)

/-- RESYNC_DONE: the half runs in step again (R392). -/
def execResyncDone (half : Bool) (s : State) : Result :=
  let r := s.red
  if !hubUp s || half == r.active || r.half half != .resync then .next s
  else .next (redLog (cntAdd (redSet s { r.setHalf half .ready with diverge := false }) (blkHM.reg 0x314) 1) 0x0805 half.toNat)

/-- HM_SW_RES. -/
def swRes (s : State) (code : Nat) : State := logCapture s (blkHM.reg 0x328) (BitVec.ofNat 32 code)

/-- HM_SW_CMD: a commanded switchover; the half that yields is resynchronised (R393, R395). -/
def execHmSwCmd (value : Word) (gap : Fin 65) (s : State) : Result :=
  let r := s.red
  if !hubUp s then .next s
  else softWrite s blkHM fun s =>
    if !value.getLsbD 31 then .next (rset s (blkHM.reg 0x324) value)
    else
      let s := rset s (blkHM.reg 0x324) 0
      if r.half (!r.active) != .ready then .next (swRes s 1)
      else .next (swRes (takeOver (redSet s (r.setHalf r.active .resync)) gap.val 1) 0)

/-- BEACON_SWITCHOVER: the standby driver takes over both nets (R396). -/
def execBeaconSwitchover (s : State) : Result := .next (if hubUp s then driverFails s s.red.beaconActive else s)

end Sys2Proof.Machine
end

