-- ==== Sys2Proof/Machine/Startup.lean ====
section
/-! DEFINITION. The start-up sequence and the boot ROM (R429–R437). -/

namespace Sys2Proof.Machine

def secSet (s : State) (x : SecSt) : State := { s with sec := x }
def secMod (s : State) (f : SecSt → SecSt) : State := secSet s (f s.sec)

/-- A record of this chapter (R452). -/
def secLog (s : State) (kind detail : Nat) : State := logRecord s kind 0 0 detail 0 0

/-! ## The module NOR (R432) -/

/-- A region's first bytes: what it does not list is erased. -/
def erased (l : List Byte) (n : Nat) : List Byte := l ++ List.replicate (n - l.length) 0xFF

/-- Bytes of an owner key record, and of a vendor's (R441). -/
def keyRecord : Nat := 156

/-! ## Firmware images (R434–R437) -/

def imageLength (b : List Byte) : Nat := le b 0x08 4
def imageSvn (b : List Byte) : Nat := le b 0x0C 1
def imageVendor (b : List Byte) : Nat := le b 0x0D 1
def imageVersion (b : List Byte) : Nat := le b 0x10 8
/-- Where its signature block begins, to which the signed message runs. -/
def imageSigned (b : List Byte) : Nat := imageLength b - sigSpan

/-- The longest image. -/
def maxImage : Nat := 0x800000

/-- Step 1: MAGIC, FORMAT and TARGET, LENGTH, and what is reserved. SVN and VENDOR_SLOT keep to their ranges (DEDUCED: the other values are
reserved). -/
def imageHeader (b : List Byte) : Bool :=
  le b 0 4 == 0x49574651 && le b 4 2 == 1 && le b 6 2 == 0x4816 && decide (64 + sigSpan ≤ imageLength b ∧ imageLength b ≤ maxImage) &&
    decide (imageLength b ≤ b.length) && imageSigned b % 64 == 0 && le b 0x0F 1 == 0 && le b 0x1C 36 == 0 &&
    decide (imageSvn b ≤ 64 ∧ imageVendor b ≤ 3)

/-- The key record of the image's vendor slot: the four records follow the signature block (DESIGN CHOICE: in order, each as R441 lays one
out). -/
def vendorRecord (b : List Byte) : List Byte := (b.drop (imageLength b + keyRecord * imageVendor b)).take keyRecord

/-- The record is the one whose digest the ROM holds (R435). -/
def vendorKnown (b : List Byte) : Bool := Config.sha384Bits (vendorRecord b) == Config.vendorDigest (imageVendor b)

/-- The first step of R435 that an image fails; 0 for none. A key record that the ROM does not know fails step 3 (DESIGN CHOICE: R435 names no
step for it). -/
def imageStep (x : SecSt) (b : List Byte) : Nat :=
  if !imageHeader b then 1
  else if x.vRevoked.getLsbD (imageVendor b) then 2
  else if !(vendorKnown b && ecdsaGood ((vendorRecord b).take 96) b (imageSigned b)) then 3
  else if !hssGood ((vendorRecord b).drop 96) b (imageSigned b) then 4
  else if imageSvn b < x.svn then 5 else 0

/-- The two slots in the order in which the ROM tries them: the higher VERSION first. -/
def tryOrder (n : NorSt) : List (Nat × List Byte) :=
  if imageVersion (erased n.fw0 64) < imageVersion (erased n.fw1 64) then [(1, n.fw1), (0, n.fw0)] else [(0, n.fw0), (1, n.fw1)]

/-- Try slots in turn: the one that starts, and those rejected before it with the step that each failed. -/
def trySlots (x : SecSt) : List (Nat × List Byte) → Option (Nat × List Byte) × List (Nat × Nat)
  | [] => (none, [])
  | (i, g) :: r => match imageStep x g with
    | 0 => (some (i, g), [])
    | n => let t := trySlots x r; (t.1, (i, n) :: t.2)

/-- Firmware of an image runs. -/
def runImage (s : State) (b : List Byte) : State :=
  secMod s fun x => { x with
    fwSvn := imageSvn b, fwVendor := imageVendor b, fwVersion := BitVec.ofNat 64 (imageVersion b), fwRevoke := BitVec.ofNat 4 (le b 0x0E 1)
    fwDigest := sha384 (b.take (imageSigned b)), kickAt := s.now }

/-! ## Failures (R431) -/

/-- A failure in a stage: SB_BOOT_STAT.CODE holds the first, and firmware writes a record of each, once the log is up. -/
def bootFails (s : State) (code stage : Nat) : State :=
  let s := secMod s fun x => if x.code = 0 then { x with code := code } else x
  if hubUp s then secLog s 0x0906 (code + 256 * stage)
  else secMod s fun x => if x.failures.contains (code, stage) then x else { x with failures := x.failures ++ [(code, stage)] }

/-! ## The installation record (R433) -/

/-- The copy in use, as R354 chooses. -/
def instInUse (x : SecSt) : Option InstCopy :=
  (newerCopy x.copy0.valid x.copy1.valid (BitVec.ofNat 32 x.copy0.gen) (BitVec.ofNat 32 x.copy1.gen)).map fun c =>
    if c = 1 then x.copy1 else x.copy0

/-- What a record gives in place of a chart: device index, group, bridge, time source and the boot optical map. -/
def bootChart (b : List Byte) : Chart :=
  let dev := le b 0 1 % 16
  let f := le b 1 1
  let t := le b 0x37 1
  let c : Chart := {
    device := BitVec.ofNat 4 dev, group := BitVec.ofNat 16 (le b 2 2), relay := List.replicate 16 15
    bridge := (List.range 16).map fun d => d == dev && f.testBit 0
    tide := fields 32 [(1, (f.testBit 1).toNat), (3, 0), (4, t % 16), (2, t / 16 % 4)] }
  match readOptic c (b.drop 0x50) with
  | some (c, _) => c
  | none => c

/-- Firmware writes PL from the record and enables it. -/
def configPilot (s : State) (b : List Byte) : State :=
  let w (at_ : Nat) : Word := BitVec.ofNat 32 (le b at_ 4)
  let old := s
  let s := setEn s blkPL false
  let s := jumboChange old <| [(0x010, 0x04), (0x014, 0x08), (0x018, 0x0C), (0x020, 0x10), (0x024, 0x14), (0x028, 0x18), (0x02C, 0x1C), (0x038, 0x20),
    (0x040, 0x24), (0x044, 0x28), (0x048, 0x2C), (0x04C, 0x30)].foldl (fun t e => rset t (blkPL.reg e.1) (w e.2)) s
  enableBlock s blkPL

/-- A copy of the installation record from its bytes. -/
def instOf (s : State) (copy : Nat) (b : List Byte) : InstCopy :=
  { gen := recordGen b, valid := recordValid instMagic copy (deviceId s) b, body := recordBody b }

/-- Entries of 16 bytes of the reservation log (R445). -/
def entries16 : Nat → List Byte → List (List Byte)
  | 0, _ => []
  | n + 1, b => b.take 16 :: entries16 n (b.drop 16)

/-- The NOR is found to hold bytes in a place. -/
def norFound (s : State) (e : NorPlace × List Byte) : State :=
  let nor (f : NorSt → NorSt) : State := { s with nor := f s.nor }
  match e.1 with
  | .directory => nor fun n => { n with dir := e.2 }
  | .firmware i => nor fun n => if i = 0 then { n with fw0 := e.2 } else { n with fw1 := e.2 }
  | .inst c => secMod s fun x => if c = 0 then { x with copy0 := instOf s 0 e.2 } else { x with copy1 := instOf s 1 e.2 }
  | .ownerKey i => nor fun n => { n with keys := tset n.keys i.val e.2 [] }
  | .certificates => nor fun n => { n with certs := some e.2 }
  | .manufacturing => nor fun n => { n with made := some e.2 }
  | .lmsSector i => nor fun n => { n with lms := tset n.lms i.val (entries16 (e.2.length / 16) e.2) [] }
  | .calibration ty slot c => calSet s ty.val slot.val c.val { bytes := some e.2 }

/-- What is said of a pair of copies of which not both are valid (R354). -/
def copiesLog (s : State) (ty slot : Nat) (a b : Bool) : State :=
  let unit := if dieType slot = some 3 then slot - 24 else if dieType slot = some 4 then slot - 32 else 0
  if a && b then s
  else if a || b then logRecord s 0x0609 slot unit (ty + 256 * a.toNat) 0 0
  else logRecord s 0x060A slot unit ty 0 0

/-- The clock that the record sets: its domain, its profile, and the profile's parameters (R433). -/
def ptpOf (b : List Byte) : PtpSt :=
  let own := le b 0x35 1 == 1
  let p (i : Nat) : Byte := if own then BitVec.ofNat 8 (le b (0x38 + i) 1) else 0
  { domain := BitVec.ofNat 8 (le b 0x34 1), profile := BitVec.ofNat 8 (le b 0x35 1), sync := p 0, delay := p 1, announce := p 2 }

/-- A record comes into use: the boot map, PL, and the IEEE 1588 exchanges (R379, R429, R433). -/
def useInst (s : State) (r : InstCopy) : State :=
  let s := configPilot { secMod s fun x => { x with inst := some r } with hm := { s.hm with boot := some (bootChart r.body) } } r.body
  { s with pl := { s.pl with ptp := some (ptpOf r.body) } }

/-- The record is loaded, or there is none. -/
def loadInst (s : State) : State :=
  let ok := !s.sec.norBad
  let s := copiesLog s 0x10 0 (ok && s.sec.copy0.valid) (ok && s.sec.copy1.valid)
  match (if ok then instInUse s.sec else none) with
  | some r => useInst s r
  | none => bootFails { s with hm := { s.hm with boot := some (bootChart []) } } 0x05 3

/-! ## Steps 6 to 12 -/

/-- Every calibration value is loaded whole, before the unit that uses it starts (R354, R356). -/
def loadCalibration (s : State) : State :=
  (List.range 10).foldl (fun t ty => ((List.range 41).filter (calDies ty)).foldl (fun t slot =>
    let good (c : Nat) : Bool := !t.sec.norBad && (calGet t ty slot c).valid (deviceId t) c
    copiesLog (calLoad t (!t.sec.norBad) ty slot) ty slot (good 0) (good 1)) t) s

/-- The indices of the device's HSS tree, and those of one block (R445). -/
def lmsTree : Nat := 2 ^ 40
def lmsBlock : Nat := 1024

/-- An entry of the reservation log: the end of a block, and its CRC-32. -/
def lmsEntry (end_ : Nat) : List Byte :=
  let l := natToBytes 8 end_ ++ natToBytes 4 0
  l ++ natToBytes 4 (crc32 l).toNat

def lmsEntryOk (b : List Byte) : Bool := b.length == 16 && le b 12 4 == (crc32 (b.take 12)).toNat

/-- Sectors of the log, and the entries of one. -/
def lmsSectors : Nat := 16
def lmsSectorSize : Nat := 4096

/-- The valid entry with the highest value. -/
def lmsHighest (n : NorSt) : Nat :=
  ((List.range lmsSectors).flatMap fun i => tget n.lms i []).foldl (fun m b => if lmsEntryOk b then max m (le b 0 8) else m) 0

/-- Append an entry; a full sector gives way to the next, which is erased first. -/
def lmsAppend (n : NorSt) (end_ : Nat) : NorSt :=
  let l := tget n.lms n.lmsAt []
  if l.length < lmsSectorSize then { n with lms := tset n.lms n.lmsAt (l ++ [lmsEntry end_]) [] }
  else
    let i := (n.lmsAt + 1) % lmsSectors
    { n with lms := tset n.lms i [lmsEntry end_] [], lmsAt := i }

/-- The tree is taken up at an index, with indices reserved up to another. -/
def lmsStart (s : State) (next end_ : Nat) : State :=
  secMod s fun x => { x with lmsReady := true, lmsNext := next, lmsReserved := end_, lmsTree := next / 2 ^ 20 }

/-- The first reservation (R445, R450). -/
def lmsBegin (s : State) : State :=
  let top := lmsHighest s.nor
  if s.sec.norBad then secLog (secMod (lmsStart s 0 0) fun x => { x with logFailed := true }) 0x0907 1
  else if lmsTree < top + lmsBlock then secLog (lmsStart s top top) 0x0907 0
  else lmsStart { s with nor := lmsAppend s.nor (top + lmsBlock) } top (top + lmsBlock)

/-- Firmware checks the key record of an owner slot against its digest (R441). -/
def loadOwner (s : State) (i : Nat) : State :=
  let o := tget s.sec.owner i {}
  let r := (erased (tget s.nor.keys i []) keyRecord).take keyRecord
  let ok := o.enrolled && !s.sec.norBad && Config.sha384Bits r == o.digest
  let o := { o with recordOk := ok, ecdsa := if ok then r.take 96 else [], hss := if ok then r.drop 96 else [] }
  let s := secMod s fun x => { x with owner := tset x.owner i o {} }
  if o.enrolled && !ok then secLog s 0x0903 (256 * i + 4096) else s

/-- Identity keys, the nonce and the first reservation (R443–R446). -/
def loadIdentity (s : State) : State :=
  let s := secMod s.takeFree fun x => { x with nonce := BitVec.ofNat 64 s.free }
  let s := (List.range 4).foldl loadOwner s
  if s.sec.lifecycle = 3 then bootFails s 0x0A 3 else lmsBegin s

/-- What firmware writes about the reset, the failures and the images before (R407, R421, R431, R435, R439). -/
def reportReset (s : State) : State :=
  let s := s.sec.failures.foldl (fun t f => secLog t 0x0906 (f.1 + 256 * f.2)) s
  let s := s.sec.rejects.foldl (fun t r => secLog t 0x0901 (r.1 + 16 * r.2)) s
  let s := if s.pw.cause = 1 then pwLog s 0x070B 0 s.pw.feedB.toNat else s
  let s := if s.pw.cause = 2 ∨ s.pw.cause = 3 then pwLog s 0x0707 s.pw.tripCh (s.pw.tripCh + 256 * min 3 (tripsInHour s).length) else s
  let s := if s.sec.watchdog then secLog s 0x0904 0 else s
  secMod s fun x => { x with rejects := [], failures := [], watchdog := false }

/-- PW_GUEST.VSET of the record, and VGUEST where its GUEST_EN asks for it. -/
def guestSetting (s : State) (b : List Byte) : State :=
  let on := (le b 1 1).testBit 2
  let s := rset s (blkPW.reg 0x03C) (BitVec.ofNat 32 (le b 0x36 1))
  if on then rset (pwMod s fun x => { x with guestOn := true }) (blkPW.reg 0x044) 1 else s

/-- Step 7: the rails come up, and each die leaves reset and reads its straps (R273). -/
def startDies (s : State) (b : Boot) : State :=
  let s := pwMod s fun x => { x with rails := true }
  let s := match s.sec.inst with
    | some r => guestSetting s r.body
    | none => s
  let l := (List.range 41).filter fun n => governed n || dieType n == some 4
  let s := (l.filter governed).foldl (fun t n => dieSet t n { st := .up }) s
  l.foldl (fun t n =>
    match b.badStraps.find? fun x => x.1.val == n with
    | some (_, code) =>
      let t := rset t ((blkID n).reg 0x010) (siteWord n code.toNat)
      if strapsOk n code.toNat then t
      else
        let t := strapsBad t n code.toNat
        bootFails (((dependants n).filter (dieRuns t)).foldl (fun t c => loseOne t c 4) t) 0x06 4
    | none => if b.deadDies.any (fun x => x.val == n) && dieState t n == .up then bootFails (loseDie t n 3) 0x06 4 else t) s

/-- A lane mask of a DL block with one lane set. -/
def setLane (s : State) (b : Blk) (off p : Nat) : State :=
  let r := b.reg (off + 4 * (p / 32))
  rset s r (setBit (rget s r) (p % 32) true)

/-- A lane that fails the start-up test is bad for this power cycle, at both ends of its bundle (R276, R277). -/
def laneFailed (slot k : Nat) (s : State) (p : Nat) : State :=
  let s := setLane s (blkDL slot k) 0x024 p
  let s := match dlFar slot k with
    | some (f, j) => setLane s (blkDL f j) 0x03C p
    | none => s
  if (rget s ((blkDL slot k).reg (0x018 + 4 * (p / 32)))).getLsbD (p % 32) then s else logRecord s 0x0502 slot 0 (k + 256 * p) 0 0

/-- Bundle pairs that have a DL block, the native guest port's among them (R302). -/
def hasDl (s : State) (slot k : Nat) : Bool := (dlInst slot).contains k || (slot == 0 && k == guestKey && guestPresent s && !guestUcie s)

/-- Step 8: the start-up test of the bundles; its errors are counted where they are received (R277, R302). -/
def startLanes (s : State) (tests : List LaneTest) : State :=
  tests.foldl (fun t x =>
    if !hasDl s x.slot.val x.pair.val then t
    else ((List.range 68).filter fun p => x.bad.getLsbD p).foldl (laneFailed x.slot.val x.pair.val)
      (cntAdd t ((blkDL x.slot.val x.pair.val).reg 0x04C) x.errors.toNat)) s

/-- Step 9: stacks that fail training are unpopulated, and the others begin to dredge (R431, R170). -/
def startStacks (s : State) (bad : List (Fin 16)) : State :=
  (List.finRange 16).foldl (fun t m =>
    if dieState t (mcSlot m.val) != .up then t
    else if bad.contains m then bootFails (secLog (mcSet t m.val { mcGet t m.val with failed := true }) 0x0905 m.val) 0x07 5
    else mcSet t m.val { mcGet t m.val with started := true }) s

/-- Step 9: the core self-test (R79). -/
def startSites (s : State) (bist : List (Fin 12 × Fin 48 × SiteTest)) : State :=
  bist.foldl (fun t b => if dieState t (slotC b.1.val) == .up then noteBist t b.1.val [(b.2.1, b.2.2)] else t) s

/-- Step 11: laser sides that do not reach power are FAILED, as are those of a chiplet still in reset; with neither, the engine
is dark (R273, R350, R351). -/
def startLasers (s : State) (bad : List (Fin 8 × Bool)) : State :=
  (List.finRange 8).foldl (fun t n =>
    let l := if siteState t (32 + n.val) == .lost then [(n, false), (n, true)] else bad.filter fun b => b.1 == n
    if l.isEmpty then t
    else
      let x := l.foldl (fun x b => x.setSide b.2 .failed) (lsGet t n.val)
      let x := if x.side x.active == .failed && x.side (!x.active) != .failed then x.claim (!x.active) else x
      let t := bootFails (lsSet t n.val x) 0x08 5
      if x.side x.active == .failed then noSide t n.val else t) s

/-- Step 11: an engine takes its word of the boot map, its places are taken, and their rings leave PARKED. -/
def startEngine (s : State) (n : Fin 8) : State :=
  if dieState s (slotOE n.val) != .up then s
  else
    let c := (effChart s).getD {}
    let s := rset s ((blkOE n.val).reg 0x010) (c.engines.getD n.val (regReset ((blkOE n.val).reg 0x010)))
    enableBlock (placeLanes s n.val) (blkOE n.val)

/-- Step 12: the home-line test of an engine; lanes leave the fibres that it finds bad (R319). -/
def testEngine (b : Boot) (s : State) (n : Fin 8) : State :=
  if dieState s (slotOE n.val) != .up then s
  else
    let bad := (b.homeBad.find? fun x => x.1 == n).map fun x => x.2
    placeLanes (homeTest s n.val (bad.getD 0) ((b.homeDelay.filter fun x => x.1 == n).map fun x => x.2)) n.val

/-- Step 8: every die that runs receives its configuration, the hub last; the bundles come up. -/
def startBlocks (s : State) : State :=
  let c := (effChart s).getD {}
  let up := (List.range 41).filter fun n => n != 0 && siteState s n == .up && n != 40 && dieType n != some 3
  let s := up.foldl (fun t n => (freeBlocks n ++ chartBlocks [n] []).foldl enableBlock (writeDie c t n)) s
  let s := ([blkSC 0] ++ (chartBlocks [0] []).filter fun b => b.kind != .td).foldl enableBlock (writeDie c s 0)
  (bundlePairs.filter fun k => (linkGet s k).st == .train && match farEnd k with
    | some f => (linkGet s f).st == .train
    | none => false).foldl (fun t k => bundleUpBoth t k true) s

/-- Step 12: the optical links begin to train on the boot map, and the bundles of the engines with them. -/
def startOptics (s : State) : State :=
  let l := (mapped ((effChart s).getD {})).map qlBlk ++ (List.range 8).flatMap fun n => (dlInst (slotOE n)).map fun k => blkDL (slotOE n) k
  (l.filter fun b => siteState s b.slot == .up).foldl enableBlock s

/-- Step 13: the harbourmaster is EMPTY, and the tide starts (R118, R119). -/
def finishStart (s : State) (b : Boot) (millis : Nat) : State :=
  let c := (effChart s).getD {}
  let s := match b.tdSet with
    | some t => if c.tide.getLsbD 0 then rset64 s (blkTD.reg 0x070) t else s
    | none => s
  let s := enableBlock (setRole s c.tide) blkTD
  let s := pwMod s fun x => { x with mode := .running }
  secMod s fun x => { x with stage := 8, done := true, bootTime := millis, resume := none }

/-- The limit of a start-up in ms (R430). -/
def startLimit : Nat := 90000

/-! ## The commands -/

/-- The halves' and the beacon drivers' self-tests (R389). -/
def startHalves (s : State) (b : Boot) : State :=
  let r := s.red
  let r := match b.halfBad with
    | some h => ({ r with active := !h }.setHalf h .failed).setHalf (!h) .active
    | none => r
  let r := match b.driverBad with
    | some h => { r with beaconActive := !h, beaconStbyOk := false }
    | none => r
  { s with red := r }

/-- SB_BOOT_STAT.STAGE. -/
def atStage (s : State) (n : Nat) : State := secMod s fun x => { x with stage := n }

/-- The ROM waits for an image (R437). -/
def enterRecovery (s : State) (b : Boot) (code : Nat) : State :=
  let s := pwMod (bootFails s code 2) fun x => { x with mode := .recovery }
  secMod s fun x => { x with recovery := true, resume := some b }

/-- Firmware starts: stage 3. -/
def startFirmware (s : State) (image : List Byte) : State := atStage (pwMod (runImage s image) fun x => { x with mode := .stage7 }) 3

/-- Stage 1 ends: V1P8 stands and the hub leaves reset, or the failure of either (R431). -/
def endRails (b : Boot) (s : State) : State :=
  if !s.pw.fromStep3 && s.pw.mode == .starting && !b.v1p8Ok then
    pwMod (bootFails s 0x01 1) fun x => { x with mode := .retry, retryAt := s.now + 10 ^ 10 }
  else if !b.pllOk then pwMod (bootFails s 0x02 1) fun x => { x with mode := .pllWait }
  else atStage (pwMod (b.norFound.foldl norFound (startHalves s b)) fun x => { x with mode := .starting }) 2

/-- Stage 2 ends: an image starts, or the ROM enters recovery. -/
def endRom (b : Boot) (s : State) : State :=
  let s := secMod s fun x => { x with norBad := !b.norOk }
  if !b.norOk then enterRecovery s b 0x03
  else
    let t := trySlots s.sec (tryOrder s.nor)
    let s := cntAdd (secMod s fun x => { x with rejects := t.2 }) (blkSB.reg 0x064) t.2.length
    match t.1 with
    | none => enterRecovery s b 0x04
    | some (i, g) => startFirmware (secMod s fun x => { x with slotUsed := i == 1 }) g

/-- A stage of R430 ends. The records of stage 3 need the error log, which firmware enables first. -/
def endStage (b : Boot) (s : State) : State :=
  match s.sec.stage with
  | 1 => endRails b s
  | 2 => if s.pw.mode == .recovery then s else endRom b s
  | 3 => atStage (loadIdentity (loadCalibration (loadInst (reportReset (enableBlock s blkEL))))) 4
  | 4 => atStage (startBlocks (startLanes (startDies s b) b.laneBad)) 5
  | 5 => atStage ((List.finRange 8).foldl startEngine (startLasers (startSites (startStacks s b.stackBad) b.bist) b.sideBad)) 6
  | 6 => atStage (startOptics ((List.finRange 8).foldl (testEngine b) s)) 7
  | 7 => if b.millis.toNat ≤ startLimit then finishStart s b b.millis.toNat else secMod s fun x => { x with resume := some b }
  | _ => s

/-- The stages end in turn, as far as the sequence has come, or until one does not end. -/
def runStages (b : Boot) : Nat → State → State
  | 0, s => s
  | n + 1, s =>
    if b.upTo.val ≤ s.sec.stage then s
    else
      let t := endStage b s
      if t.sec.stage = s.sec.stage then t else runStages b n t

/-- A start-up is under way. -/
def startsUp (s : State) : Bool := s.pw.mode == .starting || s.pw.mode == .pllWait || s.pw.mode == .stage7

/-- START_UP: from the trigger of R427, or from the stage that it has reached, the sequence goes on. -/
def execStartUp (b : Boot) (s : State) : Result :=
  if !startsUp s then .next s
  else .next (runStages b 8 (pwMod s fun x => x.feeds b.va b.vb))

/-- The recovered firmware writes its image into a slot (R437): slot 0 (DESIGN CHOICE: R437 does not say which), where the NOR can be written. -/
def saveImage (s : State) (image : List Byte) : State :=
  if s.sec.norBad then s else { s with nor := { s.nor with fw0 := image } }

/-- RECOVERY_IMAGE: an image over the management port; start-up goes on with it if it verifies. A rejected one is recorded as of slot 0
(DESIGN CHOICE: it comes from no slot). -/
def execRecoveryImage (image : List Byte) (s : State) : Result :=
  match s.sec.resume with
  | none => .next s
  | some b =>
    if s.pw.mode != .recovery then .next s
    else match imageStep s.sec image with
    | 0 => .next (runStages b 8 (saveImage (startFirmware s image) image))
    | n => .next (cntAdd (secMod s fun x => { x with rejects := x.rejects ++ [(0, n)] }) (blkSB.reg 0x064) 1)

/-- STARTUP_TIMEOUT: the module completes with what is up (R431). -/
def execStartupTimeout (s : State) : Result :=
  match s.sec.resume with
  | none => .next s
  | some b =>
    if s.pw.mode != .stage7 || decide (s.now < s.pw.startAt + 1000000 * startLimit) then .next s
    else .next (finishStart (bootFails (secMod s fun x => { x with timeout := true }) 0x09 7) b startLimit)

/-- V1P8_RETRY: 10 s after V1P8 failed, the module tries again. The first failure stays in CODE (R431). -/
def execV1p8Retry (s : State) : Result :=
  if s.pw.mode != .retry || decide (s.now < s.pw.retryAt) then .next s
  else .next (secMod (startAgain s s.pw.cause) fun x => { x with code := s.sec.code, failures := s.sec.failures })

end Sys2Proof.Machine
end

