-- ==== Sys2Proof/Machine/Security.lean ====
section
/-! DEFINITION. SVN commits, the watchdog, owner commands, the installation record and the LMS indices (R433, R438–R446,
R450). -/

namespace Sys2Proof.Machine

/-! ## SVN commit (R438) -/

/-- Vendor slots that a commit revokes: those of the running image's VREVOKE but its own. -/
def toRevoke (x : SecSt) : BitVec 4 := setBit x.fwRevoke x.fwVendor false &&& ~~~x.vRevoked

/-- A commit: its code and the fuses after it. A fuse fault leaves the SVN somewhere below the running image's. -/
def commitSvn (s : State) (fuseFault : Bool) : State × Nat :=
  let x := s.sec
  if x.fwSvn ≤ x.svn ∧ toRevoke x = 0 then (s, 1)
  else if fuseFault then
    (secMod s.takeFree fun x => { x with svn := x.svn + s.free % max 1 (x.fwSvn - x.svn) }, 2)
  else (secMod s fun x => { x with svn := max x.svn x.fwSvn, vRevoked := x.vRevoked ||| toRevoke x }, 0)

/-- The lowest `n` of the bits of a mask. -/
def lowBits (n : Nat) (m : BitVec 4) : BitVec 4 :=
  (((List.range 4).filter fun i => m.getLsbD i).take n).foldl (fun x i => setBit x i true) 0

/-- A reset cuts a commit short after `n` bits, which stay blown: those of the SVN come first, and the vendor slots follow from the lowest
(DESIGN CHOICE of the order; R438, R450). -/
def svnCut (s : State) (n : Nat) : State :=
  secMod s fun x =>
    let k := min n (x.fwSvn - x.svn)
    { x with svn := x.svn + k, vRevoked := x.vRevoked ||| lowBits (n - k) (toRevoke x) }

/-- SB_SVN_COMMIT with GO. -/
def svnCommit (s : State) (fuseFault : Bool) : State :=
  let r := commitSvn (rset s (blkSB.reg 0x028) 0) fuseFault
  let s := logCapture r.1 (blkSB.reg 0x02C) (fields 32 [(2, r.2), (2, 0), (7, r.1.sec.svn)])
  if r.2 = 0 then secLog s 0x0902 (s.sec.svn + 256 * s.sec.vRevoked.toNat) else s

/-- SB_SVN_COMMIT. Where a reset cuts it short, GO stands until that reset. -/
def execSbSvnCommit (value : Word) (fuseFault : Bool) (cut : Option (Fin 68)) (s : State) : Result :=
  if !hubUp s then .next s
  else softWrite s blkSB fun s => .next (
    if !value.getLsbD 31 then rset s (blkSB.reg 0x028) value
    else match cut with
      | some n => svnCut (rset s (blkSB.reg 0x028) value) n.val
      | none => svnCommit s fuseFault)

/-! ## The watchdog (R439) -/

/-- The watchdog's limit in ns. -/
def watchdogLimit : Nat := 1000000000

/-- SB_WDOG. -/
def execSbWdog (value : Word) (s : State) : Result :=
  if !hubUp s then .next s
  else softWrite s blkSB fun s => .next (if value.getLsbD 0 then secMod s fun x => { x with kickAt := s.now } else s)

/-- WATCHDOG_EXPIRY. -/
def execWatchdogExpiry (s : State) : Result :=
  if !hubUp s || decide (s.now < s.sec.kickAt + watchdogLimit) then .next s
  else .next (secMod (cntAdd (hubResets s 4) (blkSB.reg 0x060) 1) fun x => { x with watchdog := true })

/-! ## Owner commands (R442, R443) -/

/-- Bytes of a command: its signed message, and with its signature block. -/
def ownerMessage : Nat := 0xC0
def ownerSpan : Nat := ownerMessage + 0x68 + lmsLength

structure OwnerCmd where
  op     : Nat
  target : Nat
  signer : Nat
  ecdsa  : List Byte
  hss    : List Byte
  deriving DecidableEq, Repr

/-- The fields of a staged command. -/
def readOwner (b : List Byte) : OwnerCmd :=
  { op := le b 4 1, target := le b 5 1, signer := le b 6 1, ecdsa := (b.drop 0x18).take 96, hss := (b.drop 0x78).take 60 }

/-- The layout of R442 is broken. -/
def ownerMalformed (b : List Byte) : Bool :=
  let c := readOwner b
  le b 0 4 != 0x4E574F51 || decide (c.op < 1 ∨ 3 < c.op ∨ 3 < c.target) || (decide (3 < c.signer) && c.signer != 0xFF) ||
    le b 7 1 != 0 || le b 0xB4 12 != 0 || (c.op != 1 && (c.ecdsa ++ c.hss).any fun x => x != 0)

def ownerSlot (s : State) (i : Nat) : OwnerSlot := tget s.sec.owner i {}
def ownerSet (s : State) (i : Nat) (o : OwnerSlot) : State := secMod s fun x => { x with owner := tset x.owner i o {} }

/-- A slot never enrolled and not damaged. -/
def OwnerSlot.blank (o : OwnerSlot) : Bool := !o.enrolled && !o.damaged
/-- Enrolled and not revoked. -/
def OwnerSlot.live (o : OwnerSlot) : Bool := o.enrolled && !o.revoked

/-- An ENROL of the kind that needs no signature. -/
def OwnerCmd.unsigned (c : OwnerCmd) : Bool := c.op == 1 && c.signer == 0xFF

/-- The codes of the rules that a command breaks (R443); a malformed command has no other. -/
def ownerBroken (s : State) (b : List Byte) : List Nat :=
  let c := readOwner b
  let t := ownerSlot s c.target
  let g := ownerSlot s c.signer
  let signed := !c.unsigned
  if ownerMalformed b then [1]
  else
    (if le b 8 8 ≠ (rget64 s ((blkID 0).reg 0x018)).toNat ∨ le b 0x10 8 ≠ s.sec.nonce.toNat then [2] else []) ++
    (if signed && g.live && !(g.recordOk && signatureOk g b ownerMessage ownerSpan) then [3] else []) ++
    (if signed && !g.live then [4] else []) ++
    (if (c.op == 1 && !t.blank) || (c.unsigned && c.target != 0) || (c.op == 2 && !t.enrolled) then [5] else []) ++
    (if c.op == 2 && (List.range 4).all (fun i => i == c.target || !(ownerSlot s i).live) then [6] else []) ++
    (if s.sec.lifecycle ≠ (if c.unsigned then 1 else 2) then [7] else [])

/-- ENROL: the record goes to the NOR, its digest is blown, and ENROLLED last. With the NOR out of reach the record is not there, and firmware finds
that it does not match (DESIGN CHOICE: R443 states no outcome). -/
def enrolSlot (s : State) (c : OwnerCmd) : State :=
  let r := c.ecdsa ++ c.hss
  let s := if s.sec.norBad then s else { s with nor := { s.nor with keys := tset s.nor.keys c.target r [] } }
  let o : OwnerSlot := { enrolled := true, digest := Config.sha384Bits r }
  secMod (ownerSet s c.target (if s.sec.norBad then o else { o with recordOk := true, ecdsa := c.ecdsa, hss := c.hss }))
    fun x => { x with lifecycle := 2 }

/-- What a permitted command does. An ENROL that is interrupted after some of its digest fuses leaves the slot DAMAGED. -/
def ownerEffect (s : State) (c : OwnerCmd) (interrupted : Bool) : State :=
  match c.op with
  | 1 =>
    if interrupted then ownerSet s.takeFree c.target { damaged := true, digest := Config.sha384Bits (c.ecdsa ++ c.hss) &&& BitVec.ofNat 384 s.free }
    else enrolSlot s c
  | 2 => ownerSet s c.target { ownerSlot s c.target with revoked := true }
  | _ => secMod s fun x => { x with lifecycle := 3 }

/-- The nonce after a command. -/
def newNonce (s : State) : State := secMod s.takeFree fun x => { x with nonce := BitVec.ofNat 64 s.free }

/-- A command ends. Where it breaks several rules, the manual does not say which code it shows: one of them. -/
def ownerEnd (s : State) (c : OwnerCmd) (code : Nat) : State :=
  let s := if code = 3 then cntAdd s (blkSB.reg 0x064) 1 else s
  let s := logCapture (newNonce s) (blkSB.reg 0x038) (BitVec.ofNat 32 code)
  secLog s 0x0903 (c.op % 4 + 16 * code + 256 * (c.target % 4))

/-- The bytes staged at the offset that SB_OWNER_CMD names, as firmware reads them. -/
def stagedBytes (s : State) (value : Word) (n : Nat) : State × List Byte :=
  let a := hubSramBase + (field value 0 18).toNat * 256
  let s := sramFix s a (.user 0) ((n + 7) / 8)
  (s, s.mem.bytes.readBytes a n)

/-- Run the command that SB_OWNER_CMD names. -/
def ownerRun (s : State) (value : Word) (interrupted : Bool) : State :=
  let r := stagedBytes (rset s (blkSB.reg 0x034) 0) value ownerSpan
  let s := r.1
  let c := readOwner r.2
  match ownerBroken s r.2 with
  | [] =>
    let s := ownerEffect s c interrupted
    if interrupted && c.op == 1 then s else ownerEnd s c 0
  | [code] => ownerEnd s c code
  | l => ownerEnd s.takeFree c (l.getD (s.free % l.length) 1)

/-- A write of SB_OWNER_CMD: while the harbourmaster is LOADING the command waits (R450). -/
def ownerCommand (s : State) (value : Word) (interrupted : Bool) : State :=
  if !value.getLsbD 31 then rset s (blkSB.reg 0x034) value
  else if s.hm.st == .loading then setBusy (rset s (blkSB.reg 0x034) value) blkSB true
  else ownerRun s value interrupted

/-- A write of SB_OWNER_CMD as a command of its own: OP of the staged bytes says which. -/
def ownerRow (s : State) (value : Word) (interrupted : Bool) : Result :=
  if !hubUp s then .next s else softWrite s blkSB fun s => .next (ownerCommand s value interrupted)

/-- ENROL. -/
def execEnrol (value : Word) (interrupted : Bool) (s : State) : Result := ownerRow s value interrupted
/-- REVOKE. -/
def execRevoke (value : Word) (s : State) : Result := ownerRow s value false
/-- DECOMMISSION. -/
def execDecommission (value : Word) (s : State) : Result := ownerRow s value false

/-! ## The installation record (R433, R355) -/

/-- Bytes of a staged record at most: one copy's place in the NOR. -/
def instSpan : Nat := 65536

/-- A staged record is valid: its MAGIC, TYPE, SLOT, DEVICE_ID and CHECK. -/
def instValid (s : State) (b : List Byte) : Bool :=
  let n := le b 0xC 4
  le b 0 4 == 0x534E4951 && le b 4 2 == 0x10 && le b 6 1 == 0 && n % 4 == 0 && decide (n + 28 ≤ instSpan) &&
    le b 0x10 8 == (rget64 s ((blkID 0).reg 0x018)).toNat && le b (24 + n) 4 == (crc32 (b.take (24 + n))).toNat

/-- The copy that is written next, which is not the one in use, and its GEN. -/
def nextCopy (x : SecSt) : Nat × Nat :=
  match x.inst with
  | some r => (if x.copy0.valid && r == x.copy0 then 1 else 0, (r.gen + 1) % 2 ^ 32)
  | none => (0, (x.copy0.gen + 1) % 2 ^ 32)

/-- Firmware writes a record, unless the NOR is out of reach. Where none is in use, it comes into use at once (R431). -/
def instWrite (s : State) (body : List Byte) : State :=
  let w := nextCopy s.sec
  let v : InstCopy := { gen := w.2, valid := true, body := body }
  let fresh := s.sec.inst.isNone
  let s := if s.sec.norBad then s
    else secMod { s with nor := { s.nor with last := tset s.nor.last (0x10 * 41) (some s.now) none } }
      fun x => if w.1 = 0 then { x with copy0 := v } else { x with copy1 := v }
  if fresh then useInst s v else s

/-- The 10 minutes of R355 since the last record have not passed. -/
def instWaits (s : State) : Bool :=
  match tget s.nor.last (0x10 * 41) none with
  | some t => decide (s.now < t + 600000000000)
  | none => false

/-- Carry out the command that SB_INST_CMD names. A staged record that is not valid is not written. -/
def instRun (s : State) (value : Word) : State :=
  let r := stagedBytes (rset s (blkSB.reg 0x03C) 0) value instSpan
  if instValid r.1 r.2 then instWrite r.1 ((r.2.drop 24).take (le r.2 0xC 4)) else r.1

/-- A write of SB_INST_CMD; within 10 minutes of the last record it waits. -/
def instCommand (s : State) (value : Word) : State :=
  if !value.getLsbD 31 then rset s (blkSB.reg 0x03C) value
  else if instWaits s then setBusy (rset s (blkSB.reg 0x03C) value) blkSB true
  else instRun s value

/-- SB_INST_CMD. -/
def execSbInstCmd (value : Word) (s : State) : Result := if !hubUp s then .next s else softWrite s blkSB fun s => .next (instCommand s value)

/-- Commands of SB that wait are carried out once nothing holds them. -/
def securityPump (s : State) : State :=
  let o := rget s (blkSB.reg 0x034)
  let i := rget s (blkSB.reg 0x03C)
  if !cmdBusy s blkSB then s
  else if o.getLsbD 31 then if s.hm.st == .loading then s else ownerRun (setBusy s blkSB false) o false
  else if i.getLsbD 31 then if instWaits s then s else instRun (setBusy s blkSB false) i
  else s

/-! ## LMS indices (R445, R446) -/

/-- Indices of one bottom tree. -/
def bottomTree : Nat := 2 ^ 20

/-- Indices left in the bottom tree in use (SB_LMS_LEFT); there is none before step 6, or in a device that derives no keys (R440). -/
def lmsLeft (x : SecSt) : Nat := if x.lmsReady then (x.lmsTree + 1) * bottomTree - x.lmsNext else 0

/-- LMS_TREE_BUILD_DONE. -/
def execLmsTreeBuildDone (s : State) : Result :=
  if hubUp s && s.sec.lmsReady && decide (lmsLeft s.sec < 2 ^ 18) && decide ((s.sec.lmsTree + 2) * bottomTree ≤ lmsTree) then
    .next (secMod s fun x => { x with nextReady := true })
  else .next s

/-- What an attempt to sign gives. -/
inductive LmsOutcome where
  | signed (index : Nat)
  | waits
  | refused
  deriving DecidableEq, Repr

/-- Take the next index: move on to the next bottom tree where the present one is used up, and reserve the next block where
the present one is. `logOk` says that a write of the reservation log succeeds. -/
def lmsTake (s : State) (logOk : Bool) : State × LmsOutcome :=
  let x := s.sec
  if !x.lmsReady then (s, .refused)
  else if lmsTree - x.lmsNext < lmsBlock then (secLog s 0x0907 0, .refused)
  else if lmsLeft x = 0 ∧ !x.nextReady then (secLog s 0x0907 2, .waits)
  else
    let s := if lmsLeft x = 0 then secMod s fun x => { x with lmsTree := x.lmsTree + 1, nextReady := false } else s
    if x.lmsNext < x.lmsReserved ∧ !x.logFailed then
      (secMod s fun x => { x with lmsNext := x.lmsNext + 1 }, .signed x.lmsNext)
    else if !logOk || s.sec.norBad then (secLog (secMod s fun x => { x with logFailed := true }) 0x0907 1, .refused)
    else
      let end_ := if x.lmsNext < x.lmsReserved then x.lmsReserved else x.lmsReserved + lmsBlock
      (secMod { s with nor := lmsAppend s.nor end_ } fun x => { x with lmsReserved := end_, lmsNext := x.lmsNext + 1, logFailed := false }, .signed x.lmsNext)

end Sys2Proof.Machine
end

