-- ==== Sys2Proof/Machine/Spdm.lean ====
section
/-! DEFINITION. The SPDM responder (R447–R449). -/

namespace Sys2Proof.Machine

def conn (s : State) : Transport → SpdmSt
  | .mctp => s.spdmMctp
  | .pilot => s.spdmPilot

def connSet (s : State) (t : Transport) (x : SpdmSt) : State := match t with
  | .mctp => { s with spdmMctp := x }
  | .pilot => { s with spdmPilot := x }

/-- DataTransferSize. -/
def dataSize (s : State) : Transport → Nat
  | .mctp => 4096
  | .pilot => if jumbo s then 4096 else 1024

/-! Error codes of SPDM 1.3. -/
def errInvalid : Nat := 0x01
def errBusy : Nat := 0x03
def errUnexpected : Nat := 0x04
def errUnspecified : Nat := 0x05
def errUnsupported : Nat := 0x07

/-! ## Messages as bytes (R447: SPDM 1.3; PRESUMED, the layouts of DSP0274) -/

/-- The first four bytes of a message. -/
def spdmHeader (code p1 p2 : Nat) : List Byte := [0x13, BitVec.ofNat 8 code, BitVec.ofNat 8 p1, BitVec.ofNat 8 p2]

/-- A vendor message: StandardID, a vendor number of 4 bytes, and a payload. -/
def vendorBytes (code standard vendor : Nat) (payload : List Byte) : List Byte :=
  spdmHeader code 0 0 ++ natToBytes 2 standard ++ [4] ++ natToBytes 4 vendor ++ natToBytes 2 payload.length ++ payload

/-- The bytes of a request. -/
def reqBytes : SpdmReq → List Byte
  | .version => [0x10, 0x84, 0, 0]
  | .capabilities rest => [0x13, 0xE1] ++ rest
  | .algorithms rest => [0x13, 0xE3] ++ rest
  | .digests => spdmHeader 0x81 0 0
  | .certificate slot offset length => spdmHeader 0x82 slot.val 0 ++ natToBytes 2 offset.toNat ++ natToBytes 2 length.toNat
  | .challenge slot summary nonce context =>
    spdmHeader 0x83 slot.val summary.toNat ++ natToBytes 32 nonce.toNat ++ natToBytes 8 context.toNat
  | .measurements index signed nonce context =>
    spdmHeader 0xE0 signed.toNat index.toNat ++ (if signed then natToBytes 32 nonce.toNat ++ [0] else []) ++ natToBytes 8 context.toNat
  | .chunk handle chunk => spdmHeader 0x86 0 handle.toNat ++ natToBytes 2 chunk.toNat ++ [0, 0]
  | .lmsSig standard vendor => vendorBytes 0xFE standard.toNat vendor.toNat [1]
  | .lmsChain standard vendor => vendorBytes 0xFE standard.toNat vendor.toNat [2]

/-- The request that bytes seem to spell, by their code. -/
def reqShape (b : List Byte) : Option SpdmReq :=
  let slot := Fin.ofNat 8 (leAt b 2 1)
  let signed := leAt b 2 1 == 1
  match leAt b 1 1 with
  | 0x84 => some .version
  | 0xE1 => some (.capabilities (b.drop 2))
  | 0xE3 => some (.algorithms (b.drop 2))
  | 0x81 => some .digests
  | 0x82 => some (.certificate slot (BitVec.ofNat 16 (leAt b 4 2)) (BitVec.ofNat 16 (leAt b 6 2)))
  | 0x83 => some (.challenge slot (BitVec.ofNat 8 (leAt b 3 1)) (BitVec.ofNat 256 (leAt b 4 32)) (BitVec.ofNat 64 (leAt b 36 8)))
  | 0xE0 =>
    some (.measurements (BitVec.ofNat 8 (leAt b 3 1)) signed (if signed then BitVec.ofNat 256 (leAt b 4 32) else 0)
      (BitVec.ofNat 64 (leAt b (if signed then 37 else 4) 8)))
  | 0x86 => some (.chunk (BitVec.ofNat 8 (leAt b 3 1)) (BitVec.ofNat 16 (leAt b 4 2)))
  | 0xFE =>
    let standard := BitVec.ofNat 16 (leAt b 4 2)
    let vendor := BitVec.ofNat 32 (leAt b 7 4)
    some (if leAt b 13 1 = 2 then .lmsChain standard vendor else .lmsSig standard vendor)
  | _ => none

/-- The error with which bytes are answered that spell no request: an unknown code, or a message that is not as its code says. -/
def reqError (b : List Byte) : Option Nat := match reqShape b with
  | none => some errUnsupported
  | some i => if reqBytes i = b then none else some errInvalid

/-- A measurement block: its value's type, as DMTF numbers them, and its value. -/
def blockBytes (e : Nat × List Byte) : List Byte :=
  [BitVec.ofNat 8 e.1, 1] ++ natToBytes 2 (e.2.length + 3) ++ [[0x00, 0x01, 0x82, 0x02, 0x03, 0x03].getD (e.1 - 1) 0] ++ natToBytes 2 e.2.length ++ e.2

/-- The bytes of a response, but for its signature. -/
def respBytes (s : State) : SpdmResp → List Byte
  | .version => [0x10, 0x04, 0, 0, 0, 1, 0x00, 0x13]
  | .capabilities flags ct size =>
    spdmHeader 0x61 0 0 ++ [0, BitVec.ofNat 8 ct, 0, 0] ++ natToBytes 4 flags ++ natToBytes 4 size ++ natToBytes 4 Config.maxSpdmMessage.toNat
  | .algorithms spec measHash sign hash =>
    spdmHeader 0x63 0 0 ++ natToBytes 2 36 ++ [BitVec.ofNat 8 spec, 0] ++ natToBytes 4 measHash ++ natToBytes 4 sign ++ natToBytes 4 hash ++
      List.replicate 16 0
  | .digests chain => spdmHeader 0x01 1 1 ++ chain
  | .certificate portion remainder => spdmHeader 0x02 0 0 ++ natToBytes 2 portion.length ++ natToBytes 2 remainder ++ portion
  | .challengeAuth chain nonce summary context _ =>
    spdmHeader 0x03 0 1 ++ chain ++ natToBytes 32 nonce.toNat ++ summary ++ [0, 0] ++ natToBytes 8 context.toNat
  | .measurements blocks nonce context _ =>
    let l := blocks.flatMap blockBytes
    spdmHeader 0x60 (if blocks.isEmpty then 6 else 0) 0 ++ [BitVec.ofNat 8 blocks.length] ++ natToBytes 3 l.length ++ l ++ natToBytes 32 nonce.toNat ++
      [0, 0] ++ natToBytes 8 context.toNat
  | .chunk handle number last total data =>
    spdmHeader 0x06 last.toNat handle ++ natToBytes 2 number ++ [0, 0] ++ natToBytes 4 data.length ++ (if number = 0 then natToBytes 4 total else []) ++
      data
  | .large handle => spdmHeader 0x7F 0x0F 0 ++ [BitVec.ofNat 8 handle]
  | .lmsSig signature => vendorBytes 0x7E 4 (rget s (blkSB.reg 0x070)).toNat signature
  | .lmsChain chain => vendorBytes 0x7E 4 (rget s (blkSB.reg 0x070)).toNat chain
  | .error code => spdmHeader 0x7F code 0

/-- The signature that ends a response. -/
def respSignature : SpdmResp → List Byte
  | .challengeAuth _ _ _ _ g => g
  | .measurements _ _ _ g => g
  | _ => []

/-! ## Answers -/

/-- The body of an SPDM message of the pilot protocol: SIZE, the message, and zeros up to a multiple of 4 (R368). -/
def spdmBody (b : List Byte) : List Byte := natToBytes 4 b.length ++ b ++ List.replicate ((4 - b.length % 4) % 4) 0

/-- An answer leaves; on the pilot transport it is a message of the session. -/
def spdmAnswer (s : State) (t : Transport) (r : SpdmResp) : State :=
  let s := (cntAdd s (blkSB.reg 0x068) 1).emit (.spdm t r)
  match t, s.spdmPilot.busy with
  | .pilot, some (tag, _) =>
    pilotSend { s with spdmPilot := { s.spdmPilot with busy := none } }
      [{ ty := 0x06, flags := 0, tag := tag, addr := 0, body := spdmBody (respBytes s r ++ respSignature r) }]
  | _, _ => s

/-- The responder has this request of this transport, and can answer it now. -/
def spdmReady (s : State) (t : Transport) (i : SpdmReq) : Bool := match t with
  | .mctp => hubUp s
  | .pilot => pilotOn s && keepRoom s && s.spdmPilot.busy.any fun x => x.2 == reqBytes i

/-- What a CHUNK_RESPONSE holds beside its chunk, at most. -/
def chunkHead : Nat := 16

/-- An answer: whole, or through CHUNK_GET where it is too long (R447). -/
def answerLong (s : State) (t : Transport) (r : SpdmResp) : State :=
  let b := respBytes s r ++ respSignature r
  if b.length ≤ dataSize s t then spdmAnswer s t r
  else
    let x := conn s t
    let h := (x.handle + 1) % 256
    spdmAnswer (connSet s t { x with handle := h, chunk := some (h, 0, b) }) t (.large h)

/-- A request that comes before its connection state allows it is answered with an error. -/
def spdmServe (s : State) (t : Transport) (i : SpdmReq) (ok : SpdmSt → Bool) (f : State → State) : Result :=
  if !spdmReady s t i then .next s
  else if !ok (conn s t) then .next (spdmAnswer s t (.error errUnexpected))
  else .next (f s)

/-- After the algorithms have been agreed. -/
def negotiated (x : SpdmSt) : Bool := x.algsDone

/-- With the identity keys, which a DECOMMISSIONED device does not derive (R440). -/
def withKeys (t : Transport) (f : State → State) (s : State) : State :=
  if s.sec.lifecycle = 3 then spdmAnswer s t (.error errUnspecified) else f s

/-! ## Identity (R444) -/

/-- `n` bytes of a number, the most significant first. -/
def beBytes (n v : Nat) : List Byte := (natToBytes n v).reverse

/-- The KDF in counter mode of SP 800-108 with HMAC-SHA-384: one block of 384 bits (DESIGN CHOICE: R444 gives no labels). -/
def kdf (key : BitVec 384) (label : Nat) (context : List Byte) : BitVec 384 :=
  Config.hmac384 key (beBytes 4 1 ++ Config.kdfLabel label ++ [0] ++ context ++ beBytes 4 384)

/-- The DeviceID key, the same at every start. -/
def deviceIdKey : BitVec 384 := kdf Config.uniqueSecret 0 []
/-- The Alias key, from the DeviceID secret and the digest of the running image. -/
def aliasKey (s : State) : BitVec 384 := kdf deviceIdKey 1 s.sec.fwDigest
/-- The seed of the device HSS tree. -/
def hssSeed : BitVec 384 := kdf Config.uniqueSecret 2 []

/-- Certificates of slot 0, from the root to Alias. -/
def certsOf (s : State) : List Byte := s.nor.certs.getD Config.deviceCerts ++ Config.aliasCert deviceIdKey (Config.p384Public (aliasKey s))

/-- The first certificate: a DER sequence whose length stands in two bytes (PRESUMED). -/
def rootCert (b : List Byte) : List Byte := b.take (4 + be b 2 2)

/-- The certificate chain of slot 0 as SPDM frames it: its length, the digest of the root, the certificates (PRESUMED). -/
def chainOf (s : State) : List Byte :=
  let c := certsOf s
  natToBytes 2 (4 + 48 + c.length) ++ [0, 0] ++ sha384 (rootCert c) ++ c

/-- The device HSS public key, of 60 bytes, and the manufacturing HSS signature of 5,716 bytes over DEVICE_ID and that key (R449). -/
def lmsChainOf (s : State) : List Byte :=
  let key := Config.hssPublic hssSeed
  natToBytes 60 key.toNat ++ natToBytes 5716 (match s.nor.made with
    | some b => bytesToNat (b.take 5716)
    | none => (Config.makerSign (deviceId s) key).toNat)

/-- What a signature covers: the SPDM 1.3 prefix, its context, and the digest of the transcript (PRESUMED, DSP0274). -/
def signingInput (context : String) (transcript : List Byte) : List Byte :=
  let bytes (t : String) : List Byte := t.toList.map fun c => BitVec.ofNat 8 c.toNat
  let p := bytes "dmtf-spdm-v1.3.*"
  p ++ p ++ p ++ p ++ List.replicate (36 - context.length) 0 ++ bytes context ++ sha384 transcript

/-- The ECDSA signature by the Alias key. -/
def aliasSign (s : State) (input : List Byte) : List Byte := natToBytes 96 (Config.p384Sign (aliasKey s) input).toNat

/-! ## Setting the connection up (R447) -/

/-- A request and its answer join the messages that set the connection up. -/
def setupAnswer (s : State) (t : Transport) (i : SpdmReq) (r : SpdmResp) (f : SpdmSt → SpdmSt) : State :=
  let x := conn s t
  spdmAnswer (connSet s t (f { x with setup := x.setup ++ reqBytes i ++ respBytes s r })) t r

/-- GET_VERSION starts the connection. -/
def execGetVersion (t : Transport) (s : State) : Result :=
  spdmServe s t .version (fun _ => true) fun s =>
    setupAnswer (connSet s t { handle := (conn s t).handle, busy := (conn s t).busy }) t .version .version fun x => { x with versionDone := true }

/-- CERT_CAP, CHAL_CAP, MEAS_CAP with signature, and CHUNK_CAP (PRESUMED: their places in DSP0274). -/
def capFlags : Nat := 0x20016

/-- GET_CAPABILITIES: the flags, CTExponent 18 and the DataTransferSize. -/
def execGetCapabilities (t : Transport) (rest : List Byte) (s : State) : Result :=
  spdmServe s t (.capabilities rest) (fun x => x.versionDone) fun s =>
    if rest.length ≠ 18 then spdmAnswer s t (.error errInvalid)
    else setupAnswer s t (.capabilities rest) (.capabilities capFlags 18 (dataSize s t)) fun x => { x with capsDone := true }

/-- NEGOTIATE_ALGORITHMS: ECDSA P-384, SHA-384 and measurement hash SHA-384, where the requester offers them. -/
def execNegotiateAlgorithms (t : Transport) (rest : List Byte) (s : State) : Result :=
  spdmServe s t (.algorithms rest) (fun x => x.capsDone) fun s =>
    if rest.length < 30 ∨ leAt rest 2 2 ≠ rest.length + 2 ∨ !(leAt rest 6 4).testBit 7 ∨ !(leAt rest 10 4).testBit 1 then
      spdmAnswer s t (.error errInvalid)
    else
      let spec := leAt rest 4 1 % 2
      setupAnswer s t (.algorithms rest) (.algorithms spec (4 * spec) 0x80 2) fun x => { x with algsDone := true }

/-! ## Certificates -/

/-- A request about certificates and its answer join the messages about them. -/
def certsAnswer (s : State) (t : Transport) (i : SpdmReq) (r : SpdmResp) : State :=
  let x := conn s t
  answerLong (connSet s t { x with certs := x.certs ++ reqBytes i ++ respBytes s r }) t r

/-- GET_DIGESTS of slot 0. -/
def execGetDigests (t : Transport) (s : State) : Result :=
  spdmServe s t .digests negotiated (withKeys t fun s => certsAnswer s t .digests (.digests (sha384 (chainOf s))))

/-- GET_CERTIFICATE: a portion of slot 0's chain. -/
def execGetCertificate (t : Transport) (slot : Fin 8) (offset length : BitVec 16) (s : State) : Result :=
  spdmServe s t (.certificate slot offset length) negotiated (withKeys t fun s =>
    let c := chainOf s
    if slot ≠ 0 ∨ c.length ≤ offset.toNat then spdmAnswer s t (.error errInvalid)
    else
      let p := (c.drop offset.toNat).take length.toNat
      certsAnswer s t (.certificate slot offset length) (.certificate p (c.length - offset.toNat - p.length)))

/-! ## Measurements (R448) -/

/-- The bits of SB_OWNER_STATE. -/
def ownerStateWord (x : SecSt) : Word :=
  fields 32 ((List.range 4).map fun i =>
    let o := tget x.owner i {}
    (4, o.enrolled.toNat + 2 * o.revoked.toNat + 4 * o.damaged.toNat + 8 * o.recordOk.toNat))

/-- The fuses of an owner slot, with its key record's digest. -/
def ownerFuses (o : OwnerSlot) : List Byte :=
  [BitVec.ofNat 8 (o.enrolled.toNat + 2 * o.revoked.toNat + 4 * o.damaged.toNat)] ++ natToBytes 48 o.digest.toNat

/-- What a measurement block holds. Where no installation record is in use, the manual gives block 5 no value. -/
def measurement (s : State) (i : Nat) : List Byte :=
  let x := s.sec
  match i with
  | 1 => natToBytes 48 Config.romDigest.toNat
  | 2 => x.fwDigest
  | 3 => [BitVec.ofNat 8 x.svn, BitVec.ofNat 8 x.fwSvn, x.vRevoked.setWidth 8]
  | 4 => sha384 (natToBytes 1 x.lifecycle ++ (List.range 4).flatMap fun j => ownerFuses (tget x.owner j {}))
  | 5 => match x.inst with
    | some r => sha384 r.body
    | none => natToBytes 48 s.free
  | _ => match s.hm.chart with
    | some c => c.digest ++ natToBytes 8 c.chartId.toNat
    | none => List.replicate 56 0

/-- Blocks that a GET_MEASUREMENTS asks for: none with index 0, which asks for their number, all with 0xFF. -/
def blocksAsked (index : Nat) : List Nat := if index = 0 then [] else if index = 0xFF then [1, 2, 3, 4, 5, 6] else [index]

/-- Set what the last signature covered. -/
def signedOver (s : State) (t : Transport) (input : List Byte) : State :=
  connSet s t { conn s t with signed := some input, meas := [] }

/-- GET_MEASUREMENTS. -/
def execGetMeasurements (t : Transport) (index : Byte) (signed : Bool) (nonce : BitVec 256) (context : Dword) (s : State) : Result :=
  let i : SpdmReq := .measurements index signed nonce context
  spdmServe s t i negotiated fun s =>
    if 6 < index.toNat ∧ index.toNat ≠ 0xFF then spdmAnswer s t (.error errInvalid)
    else
      let l := (blocksAsked index.toNat).map fun i => (i, measurement s i)
      let s := s.takeFree
      let mine : BitVec 256 := BitVec.ofNat 256 s.free
      let x := conn s t
      let covered := x.meas ++ reqBytes i ++ respBytes s (.measurements l mine context [])
      if !signed then answerLong (connSet s.takeFree t { x with meas := covered }) t (.measurements l mine context [])
      else withKeys t (fun s =>
        let input := signingInput "responder-measurements signing" (x.setup ++ covered)
        answerLong (signedOver s t input) t (.measurements l mine context (aliasSign s input))) s.takeFree

/-- The summary of all measurements, where a CHALLENGE asks for one; the manual names none as those of a TCB alone (DESIGN CHOICE). -/
def summaryOf (s : State) (summary : Byte) : List Byte :=
  if summary = 0 then [] else sha384 ((List.range 6).flatMap fun i => blockBytes (i + 1, measurement s (i + 1)))

/-- CHALLENGE: the digest of the chain, the summary of measurements, and a fresh nonce, signed with everything that led up to it. -/
def execChallenge (t : Transport) (slot : Fin 8) (summary : Byte) (nonce : BitVec 256) (context : Dword) (s : State) : Result :=
  let i : SpdmReq := .challenge slot summary nonce context
  spdmServe s t i negotiated (withKeys t fun s =>
    if slot ≠ 0 ∨ (summary ≠ 0 ∧ summary ≠ 1 ∧ summary ≠ 0xFF) then spdmAnswer s t (.error errInvalid)
    else
      let m := summaryOf s summary
      let s := s.takeFree
      let mine : BitVec 256 := BitVec.ofNat 256 s.free
      let x := conn s t
      let r (g : List Byte) : SpdmResp := .challengeAuth (sha384 (chainOf s)) mine m context g
      let input := signingInput "responder-challenge_auth signing" (x.setup ++ x.certs ++ reqBytes i ++ respBytes s (r []))
      let s := signedOver s.takeFree t input
      answerLong (connSet s t { conn s t with certs := [] }) t (r (aliasSign s input)))

/-- CHUNK_GET: the next chunk of the response that is waiting. -/
def execChunkGet (t : Transport) (handle : Byte) (chunk : BitVec 16) (s : State) : Result :=
  spdmServe s t (.chunk handle chunk) (fun x => x.capsDone) fun s =>
    match (conn s t).chunk with
    | some (h, n, left) =>
      if handle.toNat ≠ h ∨ chunk.toNat ≠ n then spdmAnswer s t (.error errInvalid)
      else
        let size := dataSize s t - chunkHead
        let last := decide (left.length ≤ size)
        spdmAnswer (connSet s t { conn s t with chunk := if last then none else some (h, n + 1, left.drop size) }) t
          (.chunk h n last left.length (left.take size))
    | none => spdmAnswer s t (.error errInvalid)

/-! ## Vendor requests (R449) -/

/-- A vendor request of StandardID 4 with Quigor's number. -/
def ourVendor (s : State) (standard : BitVec 16) (vendor : Word) : Bool := standard == 4 && vendor == rget s (blkSB.reg 0x070)

/-- GET_LMS_SIG: the HSS signature over the input of the last signed response. -/
def execGetLmsSig (t : Transport) (standard : BitVec 16) (vendor : Word) (logOk : Bool) (s : State) : Result :=
  spdmServe s t (.lmsSig standard vendor) negotiated (withKeys t fun s =>
    match (if ourVendor s standard vendor then (conn s t).signed else none) with
    | none => spdmAnswer s t (.error errInvalid)
    | some input =>
      match lmsTake s logOk with
      | (s, .signed i) => answerLong s t (.lmsSig (natToBytes 5716 (Config.hssSign hssSeed i input).toNat))
      | (s, .waits) => spdmAnswer s t (.error errBusy)
      | (s, .refused) => spdmAnswer s t (.error errUnspecified))

/-- GET_LMS_CHAIN. -/
def execGetLmsChain (t : Transport) (standard : BitVec 16) (vendor : Word) (s : State) : Result :=
  spdmServe s t (.lmsChain standard vendor) negotiated fun s =>
    if ourVendor s standard vendor then answerLong s t (.lmsChain (lmsChainOf s)) else spdmAnswer s t (.error errInvalid)

end Sys2Proof.Machine
end

