-- ==== Sys2Proof/Machine/RegRead.lean ====
section
/-! DEFINITION. Reading register space: present status, array windows and shadows (R453–R458, R467, R479, R480). -/

namespace Sys2Proof.Machine

def b2n (b : Bool) : Nat := b.toNat

/-! ## Present status, by block -/

def hmLive (s : State) (o : Nat) : Option Dword :=
  if o = 0x010 then some ((hmStateWord s).setWidth 64)
  else if o = 0x020 then some (chartIdOf s)
  else if 0x200 ≤ o ∧ o < 0x200 + 4 * 41 then
    let n := (o - 0x200) / 4
    let d := dieGet s n
    let st := match siteState s n with
      | .absent => 0 | .up => 1 | .lost => 2 | .quarantined => 3 | .rejoining => 4
    some (fields 64 [(3, st), (1, 0), (3, if d.st = .lost then d.cause else 0), (1, 0), (1, b2n d.stateLost)])
  else if o = 0x300 then
    let r := s.red
    let c : HalfState → Nat
      | .ready => 0 | .active => 1 | .resync => 2 | .failed => 3
    some (fields 64 [(1, b2n r.active), (1, 0), (2, c r.stA), (2, c r.stB), (1, b2n r.diverge), (1, 0), (1, b2n (pathOk r false)), (1, b2n (pathOk r true)),
      (2, 0), (1, b2n r.beaconActive), (1, b2n r.beaconStbyOk)])
  else if o = 0x304 then some (s.red.claim.setWidth 64)
  else none

def tdLive (s : State) (o : Nat) : Option Dword :=
  let t := s.tide
  let used := (s.launch.table.filter fun e => e.2.st != .free).length
  match o with
  | 0x010 => some t.hub
  | 0x01C =>
    let st := match t.st with
      | .free => 0 | .acquire => 1 | .locked => 2 | .holdover => 3
    some (fields 64 [(2, st), (2, 0), (1, b2n t.alarm), (1, b2n t.holdLong), (1, b2n !t.beacon.isEmpty)])
  | 0x020 => some ((tdOffset s).setWidth 64)
  | 0x024 => some (fields 64 [(13, used), (3, 0), (13, (entriesIn s .held).length), (2, 0), (1, b2n (used == launchSlots))])
  | 0x050 => some (BitVec.ofNat 64 (stretchGap s))
  | 0x058 => some s.slack.last
  | 0x060 => some t.markIn
  | _ => none

def plLive (s : State) (o : Nat) : Option Dword :=
  let p := s.pl
  match o with
  | 0x054 => some (fields 64 [(1, b2n p.link0), (1, b2n p.link1), (1, b2n p.opened), (1, b2n p.ptpSlave), (12, 0), (16, p.session.toNat)])
  | 0x078 => some (BitVec.ofNat 64 s.events.length)
  | _ => none

/-- What a channel reads, in 0.25 °C; a faulty one reads the maximum, and one whose sample was missed counts as at it (R28, R414). -/
def chanTemp (x : ChanSt) : Int := if x.fault || x.missed then faultTemp else x.temp.toInt

/-- The hottest channel: the lowest-numbered of those that read highest. -/
def hottest (s : State) : Nat :=
  channels.foldl (fun m c => if chanTemp (chanGet s m) < chanTemp (chanGet s c) then c else m) 0

def tmLive (s : State) (o : Nat) : Option Dword :=
  if o = 0x010 then some (fields 64 [(2, s.tm.level), (6, 0), (7, s.tm.decide), (1, b2n s.pw.capOn)])
  else if o = 0x02C then some (fields 64 [(11, (chanGet s (hottest s)).temp.toNat), (5, 0), (7, hottest s)])
  else if 0x100 ≤ o ∧ o < 0x100 + 4 * 68 then
    let c := (o - 0x100) / 4
    let x := chanGet s c
    some (fields 64 [(11, x.temp.toNat), (1, 0), (1, b2n x.fault), (3, 0), (2, x.level), (1, b2n (ignored s c))])
  else none

/-- PWR_GOOD: the die rails are up (R494). -/
def pwrGood (s : State) : Bool := s.pw.rails

/-- THERM_ALERT_N is driven low (R494). -/
def thermAlert (s : State) : Bool := decide (2 ≤ s.tm.level) || s.pw.mode == .tripped || s.pw.latched

def pwLive (s : State) (o : Nat) : Option Dword :=
  let p := s.pw
  match o with
  | 0x010 => some (fields 64 [(10, p.va.toNat), (6, 0), (10, p.vb.toNat)])
  | 0x014 => some (fields 64 [(1, b2n (pwrGood s)), (1, b2n p.feedB), (1, b2n p.aOk), (1, b2n p.bOk), (1, b2n p.sharing.isSome),
      (1, b2n p.latched), (1, b2n p.guestOn), (9, 0), (16, if railUp s 0 then (~~~p.convBad).toNat else 0)])
  | 0x018 => some (p.input.setWidth 64)
  | 0x034 => some (BitVec.ofNat 64 (min 3 (tripsInHour s).length))
  | 0x040 => some (p.guestPwr.setWidth 64)
  | _ => none

def sbLive (s : State) (o : Nat) : Option Dword :=
  let x := s.sec
  match o with
  | 0x010 => some (fields 64 [(4, x.stage), (4, 0), (8, x.code), (1, b2n x.recovery), (1, b2n x.timeout), (1, b2n x.slotUsed), (12, 0), (1, b2n x.done)])
  | 0x014 => some (BitVec.ofNat 64 x.lifecycle)
  | 0x018 => some (fields 64 [(7, x.svn), (1, 0), (4, x.vRevoked.toNat)])
  | 0x01C => some (fields 64 [(7, x.fwSvn), (1, 0), (2, x.fwVendor)])
  | 0x020 => some x.fwVersion
  | 0x030 => some ((ownerStateWord x).setWidth 64)
  | 0x040 => some x.nonce
  | 0x048 => some (BitVec.ofNat 64 x.lmsNext)
  | 0x050 => some (BitVec.ofNat 64 x.lmsReserved)
  | 0x058 => some (fields 64 [(21, lmsLeft x), (10, 0), (1, b2n x.nextReady)])
  | 0x06C => some (BitVec.ofNat 64 x.bootTime)
  | _ => none

def gfLive (s : State) (o : Nat) : Option Dword :=
  let g := s.guest
  let short_ := !tokensFor s 1 || g.deferred.any fun p => p.ty == tyReadReq && !tokensFor s p.count
  if o = 0x018 then
    some (fields 64 [(1, b2n (guestUp s)), (1, b2n g.quar), (1, b2n short_), (1, 0), (3, if guestUcie s then g.rate else 0), (9, 0),
      (7, if guestUcie s then 0 else widthOf (linkGet s guestKey).txActive)])
  else none

def mcLive (s : State) (m o : Nat) : Option Dword :=
  let x := mcGet s m
  match o with
  | 0x018 => some (fields 64 [(8, x.temp.toNat), (1, b2n x.hot)])
  | 0x01C => some (fields 64 [(2, if !x.started then 0 else if regionCount ≤ x.dredge then 2 else 1), (2, 0), (17, x.releasedCount)])
  | 0x068 => some (BitVec.ofNat 64 x.retired.length)
  | _ => none

def scLive (s : State) (slot o : Nat) : Option Dword :=
  let x := scGet s slot
  match o with
  | 0x028 => some (fields 64 [(1, b2n (dieType slot == some 1 && (dieStacks s (slot - 1)).any (behindHbm s slot))), (1, b2n (behindSram s slot))])
  | 0x034 => some (fields 64 [(5, x.spare.getD 0), (1, b2n x.spare.isSome)])
  | _ => none

/-- Good lanes of the bundle received at a bundle pair's end, and of the one transmitted there. -/
def dlGood (s : State) (slot k : Nat) : List Nat := goodLanes s (linkKey slot k)
def dlGoodTx (s : State) (slot k : Nat) : List Nat := goodTx s (linkKey slot k)

/-- Free spares of a received bundle, by its good lanes and the lanes that have carried something. -/
def dlSpares (good : List Nat) (m : Tbl Nat) : Nat := ((good.drop 64).filter fun p => m.all fun e => decide (e.2 ≤ p)).length

/-- The physical lane of a logical lane. -/
def dlMap (good : List Nat) (m : Tbl Nat) (l : Nat) : Dword :=
  let p := tget m l 0
  if p ≠ 0 then fields 64 [(7, p - 1), (24, 0), (1, 1)]
  else match (good.take 64)[l]? with
    | some q => fields 64 [(7, q), (24, 0), (1, 1)]
    | none => 0

def dlLive (s : State) (slot k o : Nat) : Option Dword :=
  let x := tget s.dl (slot * 32 + k) {}
  let rx := dlGood s slot k
  let tx := dlGoodTx s slot k
  if o = 0x014 then some (fields 64 [(3, dlSpares rx x.rx), (1, 0), (3, dlSpares tx x.tx), (9, 0), (7, rx.length)])
  else if 0x030 ≤ o ∧ o < 0x03C then some ((txFuse s (linkKey slot k) ((o - 0x030) / 4)).setWidth 64)
  else if 0x100 ≤ o ∧ o < 0x200 then some (dlMap rx x.rx ((o - 0x100) / 4))
  else if 0x200 ≤ o ∧ o < 0x300 then some (dlMap tx x.tx ((o - 0x200) / 4))
  else none

def qlLive (s : State) (k o : Nat) : Option Dword :=
  let x := linkGet s k
  let held := heldCount s k
  let bits (m : BitVec 256) (i : Nat) : Dword := (field m (32 * i) 32).setWidth 64
  if o = 0x014 then
    let st := match x.st with
      | .off => 0 | .train => 1 | .up => 2 | .down => 3
    some (fields 64 [(2, st), (2, 0), (1, b2n x.belowMin), (1, b2n (x.stalled && !replayRoom s k)), (1, b2n (x.stalled && !windowRoom x)),
      (1, b2n (x.st != .up && held != 0)), (1, b2n x.nego.isSome), (1, b2n x.resend.isSome)])
  else if o = 0x018 then some (fields 64 [(9, widthOf x.txActive), (7, 0), (9, widthOf (inService x))])
  else if o = 0x01C then some (x.epoch.setWidth 64)
  else if o = 0x020 then some x.peerId
  else if o = 0x03C then some (BitVec.ofNat 64 (min 32767 x.replay.length))
  else if o = 0x088 then some (BitVec.ofNat 64 (if x.st = .up then 0 else min 32767 held))
  else if 0x0A0 ≤ o ∧ o < 0x0C0 then some (bits x.txActive ((o - 0x0A0) / 4))
  else if 0x0C0 ≤ o ∧ o < 0x0E0 then some (bits (x.txOut ||| x.rxOut) ((o - 0x0C0) / 4))
  else none

/-- Parcels that wait at a base die for a path. -/
def qnHeld (s : State) (q : Nat) : Nat :=
  (s.trans.held.filter fun h => h.link / 64 == slotQ q && match s.home (h.par.addr.toNat * 256) with
    | some p => !routeUp s q (baseOf p)
    | none => false).length + (s.trans.outbound.filter fun o => o.hold.isNone && o.src == (q, false)).length

def qnLive (s : State) (q o : Nat) : Option Dword :=
  if o = 0x014 then
    let moved := (List.range 6).map fun r => (1, b2n (s.hm.moved.contains (q * 6 + r)))
    let none_ := (List.range 6).map fun r => (1, b2n (r != q && !pathUp s (pathOf q r false) && !pathUp s (pathOf q r true)))
    some (fields 64 (moved ++ [(2, 0)] ++ none_))
  else if o = 0x018 then
    some (fields 64 ((List.range 4).map fun e => (4, match neighbour q e with
      | some r => (pairLinks s q r).length
      | none => if q = 1 ∧ e = 0 then (hubLinks s).length else 0)))
  else if 0x060 ≤ o ∧ o < 0x0A0 then
    some (fields 64 ((List.range 8).map fun n => (1, b2n (isUp s (opticKey n ((o - 0x060) / 4))))))
  else if o = 0x0AC then some (BitVec.ofNat 64 (qnHeld s q))
  else none

/-- OE_POWER: 12 W and 93.75 mW for every enabled lane (R308), in 0.01 W, rounded down (DESIGN CHOICE). -/
def enginePower (x : OeSt) : Nat := 1200 + (enPlaces x).length * 9375 / 1000

def oeLive (s : State) (n o : Nat) : Option Dword :=
  let x := oeGet s n
  let l := enPlaces x
  let uses (f k : Nat) : Nat := b2n !(placeFree x f k)
  if o = 0x014 then
    some (fields 64 [(9, l.length), (3, 0), (9, (List.range slotCount).countP fun i => (slotLane x i).isNone), (1, 0), (9, l.countP fun e => e.2.subst)])
  else if o = 0x018 then some (x.fibreBad.setWidth 64)
  else if o = 0x01C then some (fields 64 ((List.range 17).map fun f => (1, uses f 16)))
  else if o = 0x020 then some (fields 64 ((List.range 17).map fun f => (1, uses f 17)))
  else if o = 0x024 then some (fields 64 ((List.range 18).map fun k => (1, uses 16 k)))
  else if 0x040 ≤ o ∧ o < 0x040 + 4 * 17 then
    some (match tget x.homeDelay ((o - 0x040) / 4) none with
      | some d => fields 64 [(16, d.toNat), (15, 0), (1, 1)]
      | none => 0)
  else if o = 0x12C then
    some (BitVec.ofNat 64 (min 0xFFFF (s.cal.use.countP (calMoving (slotOE n)))))
  else if o = 0x038 then some (BitVec.ofNat 64 (enginePower x))
  else if o = 0x138 then some (x.wbSum.setWidth 64)
  else none

def lsLive (s : State) (n o : Nat) : Option Dword :=
  let x := lsGet s n
  let c : SideState → Nat
    | .ready => 0 | .warn => 1 | .eol => 2 | .failed => 3
  match o with
  | 0x014 => some (fields 64 [(1, b2n x.active), (1, 0), (2, c x.stA), (2, c x.stB), (2, 0), (1, b2n x.req.isSome), (1, b2n x.blank), (1, b2n x.diverge)])
  | 0x018 => some ((biasOf s n x false x.biasA).setWidth 64)
  | 0x01C => some ((biasOf s n x true x.biasB).setWidth 64)
  | 0x040 => some (x.dark.setWidth 64)
  | _ => none

/-- BLK_STAT (R457, R458). -/
def blkStat (s : State) (b : Blk) : Word :=
  fields 32 [(1, b2n (isBusy s b)), (1, b2n (inSafe s b)), (1, b2n (s.regs.wrIgnored.contains b.base)), (1, b2n (s.regs.wrDropped.contains b.base)),
    (4, 0), (4, tget s.regs.enCode b.base 0)]

/-- The stack of an MC block, and the compute die and pier of a PR, CO or TG block. -/
def mcOf (b : Blk) : Nat := b.inst
def pierOf (b : Blk) : Nat × Nat := (b.slot - 8, (b.base % 0x4000000) / 0x50000)

/-- The value of a register that the module's state gives, by its block and the offset of its first word. TG_STAT.RUNNING, whose
meaning R83 does not give, reads 1 while a descriptor that has started still holds its slot, so not while only its DONE is awaited
(DESIGN CHOICE). -/
def liveReg (s : State) (b : Blk) (o : Nat) : Option Dword :=
  if o = 0x008 then some ((blkStat s b).setWidth 64)
  else match b.kind with
  | .hm => hmLive s o
  | .td => tdLive s o
  | .bl => if o = 0x024 then some (BitVec.ofNat 64 (s.boll.watch.countP fun e => e.2.isSome)) else none
  | .bt => if o = 0x03C then some (BitVec.ofNat 64 (berthValid s)) else none
  | .el => match o with
    | 0x014 => some (BitVec.ofNat 64 s.elog.head)
    | 0x018 => some (BitVec.ofNat 64 s.elog.tail)
    | 0x01C => some (BitVec.ofNat 64 s.elog.count)
    | _ => none
  | .pl => plLive s o
  | .tm => tmLive s o
  | .pw => pwLive s o
  | .sb => sbLive s o
  | .gf => gfLive s o
  | .ck => if o = 0x010 then some 0x1FF else if o = 0x01C then some 0xFF else none
  | .qn => qnLive s (b.slot - 1) o
  | .mc => mcLive s (mcOf b) o
  | .sc => scLive s b.slot o
  | .dl => dlLive s b.slot b.inst o
  | .ql => qlLive s (qlKey b) o
  | .pr => if o = 0x020 then some ((pierGet s (pierKey (pierOf b).1 (pierOf b).2)).test.bad.setWidth 64) else none
  | .tg =>
    if o = 0x010 then
      let t := tugGet s (tugKey (pierOf b).1 (pierOf b).2 b.inst)
      some (fields 64 [(5, t.used), (3, 0), (1, b2n (t.slots.any fun x => x.started)), (1, b2n !t.halted.isEmpty)])
    else none
  | .oe => oeLive s b.inst o
  | .ls => lsLive s b.inst o
  | .id | .co => none

/-- A register that shows a measurement which nothing in the module's state fixes wholly: a rail reading, or a line of a laser chiplet; and what
it reads now. A chiplet without power shows its lines at 0. -/
def measuredBits (s : State) (b : Blk) (o : Nat) : Option Word :=
  match b.kind with
  | .pw => if 0x100 ≤ o ∧ o < 0x100 + 8 * 54 ∧ o % 8 = 0 then some (railWord s ((o - 0x100) / 8)) else none
  | .ls => if 0x080 ≤ o ∧ o < 0x080 + 4 * 18 then some (if s.pw.rails then BitVec.ofNat 32 s.free else 0) else none
  | _ => none

/-- What a reading shows that is free in part: a measurement, or the bit errors of a PRBS test that runs (R269). -/
def freeBits (s : State) (b : Blk) (o : Nat) : Option Word :=
  if prbsRuns s b && o == 0x064 then some (BitVec.ofNat 32 s.free) else measuredBits s b o

/-- The words of a register. A reserved bit reads as zero (R9). -/
def regWords (s : State) (b : Blk) (r : RegRow) (first : Nat) : List Word :=
  match liveReg s b first with
  | some v => (List.range r.words).map fun i => (v >>> (32 * i)).setWidth 32
  | none => match freeBits s b first with
    | some v => [v]
    | none => (List.range r.words).map fun i => rget s (b.reg (first + 4 * i)) &&& regMask b r first i

/-! ## Shadows (R467) -/

def reqIndex : Requester → Nat
  | .firmware => 0 | .pilot => 1 | .management => 2 | .telemetry => 3

def shadowKey (b : Blk) (who : Requester) : Nat := b.base * 4 + reqIndex who

/-- Word `i` of a value: the first latches the others in the requester's shadow, and they are read from there. The telemetry
sweep has no shadow. -/
def readWords (s : State) (b : Blk) (who : Requester) (l : List Word) (i : Nat) : State × Word :=
  if l.length ≤ 1 ∨ who = .telemetry then (s, l.getD i 0)
  else if i = 0 then
    ({ s with regs := { s.regs with shadow := tset s.regs.shadow (shadowKey b who) l.tail [] } }, l.getD 0 0)
  else (s, (tget s.regs.shadow (shadowKey b who) []).getD (i - 1) 0)

/-! ## Array windows (R479, R480) -/

/-- A launch entry (R124). -/
def entryWords (e : LEntry) : BitVec 256 :=
  let st := match e.st with
    | .free => 0 | .pending => 1 | .held => 2 | .armed => 3
  fields 256 [(64, e.time.toNat), (16, e.voyage.toNat), (16, e.coreset.toNat), (32, (setField e.ctrl 4 (BitVec.ofNat 2 st)).toNat),
    (64, e.arg.toNat), (32, e.done.toNat), (32, e.doneAdd.toNat)]

/-- Word 0 or 1 of the place window. -/
def placeWord (x : OeSt) (lane w : Nat) : Word :=
  if w = 0 then
    let p := placeGet x lane
    fields 32 [(5, p.fibre), (3, 0), (5, p.line), (3, 0), (9, p.slot), (5, 0), (1, b2n p.en), (1, b2n p.subst)]
  else match tget x.steer lane 0 with
    | 0 => 0
    | p + 1 => fields 32 [(5, p / 18), (3, 0), (5, p % 18), (18, 0), (1, 1)]

/-- A ring's word in the ring window; a weight-bank reading detunes the line-select rings of its slot, and a profile adds to the heater of a ring
of an enabled place and of that slot (R340, R342, R359). -/
def ringWord (s : State) (n r : Nat) : Word :=
  let x := oeGet s n
  let v := ringGet x r
  let read := x.wb.filter fun w => r / 18 == w.slot && ringClass r == 0
  let code := match read with
    | some w => wbHeater s n r w v.heater.toNat
    | none => v.heater.toNat
  let heater := if (ringLane x r).isSome || read.isSome then min 0xFFFF (code + feedForward s n r) else code
  let m := match v.st with
    | .unused => 0 | .parked => 1 | .sweep => 2 | .acquire => 3 | .check => 4 | .locked => 5 | .givenUp => 6
  fields 32 [(16, heater), (3, m), (1, 0), (8, v.err.toNat), (2, v.fails)]

/-- What an array window holds at an offset: the value that the offset's word belongs to, and which word of it. -/
def arrayWords (s : State) (a : ArrKind) (o : Nat) : List Word × Nat :=
  let pair (e : BitVec 256) : List Word × Nat :=
    let w := o / 4 % 8
    if w = 0 ∨ w = 4 then ([field e (32 * w) 32, field e (32 * w + 32) 32], 0)
    else if w = 1 ∨ w = 5 then ([field e (32 * w - 32) 32, field e (32 * w) 32], 1)
    else ([field e (32 * w) 32], 0)
  match a with
  | .bollards => ([bollGet s (o / 4)], 0)
  | .launches => pair (entryWords (entryGet s (o / 32)))
  | .errors => pair (tget s.elog.ring (o / 32) 0)
  | .berths => ([field (berthGet s (o / 16)) (32 * (o / 4 % 4)) 32], 0)
  | .release m => ([fields 32 ((List.range 32).map fun i => (1, b2n ((mcGet s m).released (o / 4 * 32 + i))))], 0)
  | .retire m => ([match (mcGet s m).retired.find? fun e => e.1 == o / 4 with
      | some e => fields 32 [(15, e.2), (16, 0), (1, 1)]
      | none => 0], 0)
  | .places n => ([placeWord (oeGet s n) (o / 8) (o / 4 % 2)], 0)
  | .powers n => ([if o / 4 < 306 then
        let p := rxGet (oeGet s n) (o / 4)
        fields 32 [(16, p.power.toNat), (15, 0), (1, b2n p.lit)]
      else 0], 0)
  | .rings n => ([if o / 4 < 10999 then ringWord s n (o / 4) else 0], 0)

/-! ## Accesses -/

/-- The guest port's DL block is there in native mode only (R473). -/
def regPlace (s : State) (off : Nat) : Place := placeOf (!guestUcie s) off

/-- The die of a slot answers (R456); slot 40 is answered by the hub. -/
def slotAnswers (s : State) (slot : Nat) : Bool := slot == 40 || siteState s slot == .up

/-- Blocks and registers that the always-on domain answers for while the hub does not run (R497). -/
def alwaysOnReg (b : Blk) (o : Nat) : Bool := b.kind == .pw || b.kind == .tm || (b.kind == .sb && (o == 0x010 || o == 0x06C))

/-- A requester reaches a block now. -/
def reaches (s : State) (who : Requester) (b : Blk) (o : Nat) : Bool :=
  if hubUp s then slotAnswers s b.slot else who == .management && fed s && alwaysOnReg b o

/-- The row of a block's table at an offset of its window, through the decode mask (R465). -/
def decoded (b : Blk) (w : Nat) : Option (RegRow × Nat × Nat) :=
  let o := w &&& b.kind.mask
  (rowAt b.kind o).map fun r => (r.1, r.2, o)

/-- Read one register word, as the block holds it now. An offset that decodes to no register of its block reads 0 (DESIGN CHOICE: R465 gives
no result there). -/
def regNow (s : State) (who : Requester) (off : Nat) : State × Word :=
  match regPlace s off with
  | .block b w => match decoded b w with
    | some (r, first, o) =>
      if !reaches s who b o then (s, 0)
      else
        let x := readWords s b who (regWords s b r first) ((o - first) / 4)
        (if (freeBits s b first).isSome then x.1.takeFree else x.1, x.2)
    | none => (s, 0)
  | .array a b o =>
    if !reaches s who b 0 then (s, 0)
    else
      let l := arrayWords s a o
      readWords s b who l.1 l.2
  | .empty => (s, 0)
  | .unmapped => (s, 0)

end Sys2Proof.Machine
end

