-- ==== Sys2Proof/Machine/Register.lean ====
section
/-! DEFINITION. Writing register space, enabling and disabling blocks, and configuration parity (R455–R470). -/

namespace Sys2Proof.Machine

/-- The state that a command leaves, for a command whose operands are well formed. -/
def after (s : State) (r : Result) : State := match r with
  | .next t => t
  | _ => s

/-! ## Words of RW registers -/

/-- Registers of a block whose parity is bad. -/
def badIn (s : State) (b : Blk) : List Nat := s.regs.badPar.filter fun r => decide (b.base ≤ r ∧ r < b.base + 0x4000)

/-- A register is written with good parity. A fault in an unguarded register alone ends there (R466). -/
def goodParity (s : State) (b : Blk) (r : RegRow) (first : Nat) : State :=
  let s := { s with regs := { s.regs with badPar := s.regs.badPar.filter fun x => x != b.reg first } }
  if r.unguarded && (badIn s b).isEmpty then { s with regs := { s.regs with safe := s.regs.safe.filter fun x => x != b.base } } else s

/-- Rings that hold a code beyond a new OE_HEATER_LIMIT give up (R338). The manual gives their record no failure code. -/
def limitRings (s : State) (n : Nat) : State :=
  let l := ((oeGet s n).ring.filter fun e => (e.2.st == .acquire || e.2.st == .check || e.2.st == .locked) &&
    decide (heaterLimit s n < e.2.heater.toNat)).map fun e => e.1
  l.foldl (fun t r => giveUp (ringFatal t.takeFree n r) n r (t.free % 3)) s

/-- What a new value of an RW register brings about. -/
def rwEffect (old s : State) (b : Blk) (o : Nat) : State :=
  match b.kind with
  | .ql =>
    let k := qlKey b
    if o = 0x010 ∧ inLoop s k then loopOff s k else s
  | .pl => if o = 0x010 then jumboChange old s else s
  | .oe => if o = 0x104 then limitRings s b.inst else s
  | _ => s

/-- A configuration write that a running block ignores (R461). -/
def ignoreWrite (s : State) (b : Blk) : State :=
  let s := errCount s b
  { s with regs := { s.regs with wrIgnored := if s.regs.wrIgnored.contains b.base then s.regs.wrIgnored else b.base :: s.regs.wrIgnored } }

/-- Words `l` land in an RW register, without its reserved bits (R9). -/
def applyRw (s : State) (b : Blk) (r : RegRow) (first : Nat) (l : List Word) : State :=
  let l := (List.range l.length).zip l |>.map fun e => e.2 &&& regMask b r first e.1
  let t := if b.kind = .td ∧ first = 0x018 then setRole s (l.getD 0 0)
    else ((List.range l.length).zip l).foldl (fun t e => rset t (b.reg (first + 4 * e.1)) e.2) s
  rwEffect s (goodParity t b r first) b first

/-! ## Triggers and shared registers -/

/-- BLK_CTRL: an enable is checked; a chart-class block is disabled only while no chart runs (R461–R463, R468). -/
def writeCtrl (s : State) (b : Blk) (v : Word) : State :=
  if v.getLsbD 0 == enabled s b then s
  else if v.getLsbD 0 then enableBlock s b
  else if mayDisable s b then disableBlock s b
  else errCount s b

/-- Delays that a home-line test measures, which nothing in the state fixes. -/
def freeDelays (s : State) : List (Fin 17 × BitVec 16) :=
  (List.finRange 17).map fun f => (f, BitVec.ofNat 16 (Config.freeValue (s.freeCtr + 1 + f.val)))

/-- A home-line test asked for by a register write finds what it finds. -/
def homeTestFree (s : State) (n : Nat) (v : Word) : State :=
  let t := { s with freeCtr := s.freeCtr + 18 }
  after t (execOeHomeTest (Fin.ofNat 8 n) v (BitVec.ofNat 17 s.free) (freeDelays s) t)

/-- Triggers of W1T registers. -/
def triggerWrite (s : State) (b : Blk) (o : Nat) (v : Word) : State :=
  match b.kind, o with
  | .gf, 0x01C => after s (execGfQuarSet v s)
  | .gf, 0x020 => after s (execGfQuarClr v s)
  | .oe, 0x03C => homeTestFree s b.inst v
  | .pw, 0x038 => after s (execPwLatchClr v s)
  | .sb, 0x05C => after s (execSbWdog v s)
  | _, _ => s

/-- An endpoint's identifier, from its QL block. -/
def linkOf (b : Blk) : LinkId := ⟨Fin.ofNat 7 b.slot, Fin.ofNat 64 b.inst⟩

/-- A software write of an SH register: a command, or a plain store. -/
def shWrite (s : State) (b : Blk) (o : Nat) (v : Word) : State :=
  match b.kind, o with
  | _, 0x004 => writeCtrl s b v
  | .hm, 0x014 => hmCommand s v
  | .hm, 0x2C0 => dieCommand s v []
  | .hm, 0x324 => after s (execHmSwCmd v (Fin.ofNat 65 s.free) s.takeFree)
  | .td, 0x048 => after s (execTdCancel v s)
  | .bl, 0x010 => after s (execBlHostAdd v s)
  | .bt, 0x020 => after s (execBtCommit v s)
  | .bt, 0x02C => after s (execBtSweep v s)
  | .el, 0x020 => after s (execElConsume v s)
  | .pl, 0x0A8 => after s (execPlTideSlew v s)
  | .pw, 0x044 => after s (execPwGuestOn v s)
  | .sb, 0x028 => after s (execSbSvnCommit v false none s)
  | .sb, 0x034 => ownerCommand s v false
  | .sb, 0x03C => instCommand s v
  | .mc, 0x060 =>
    let m := Fin.ofNat 16 (mcOf b)
    after s (if v.getLsbD 30 then execRetireClear m v s else execRetirePage m v s)
  | .sc, 0x030 => if dieType b.slot = some 1 then rset s (b.reg o) v else s
  | .ql, 0x028 => after s (execQlWidthReq (linkOf b) v s)
  | .ql, 0x030 => after s (execQlScuttle (linkOf b) v false s)
  | .oe, 0x130 => after s (execOeWbCmd (Fin.ofNat 8 b.inst) v s)
  | .ls, 0x02C => after s (execLsSwCmd (Fin.ofNat 8 b.inst) v s)
  | _, _ => rset s (b.reg o) v

/-! ## LOG registers -/

/-- Registers of a block that a LOG register leads. -/
def companions (b : Blk) (first : Nat) : List RegRow := (blkRows b.kind).filter fun r => r.lead == some first

/-- A LOG register and its companions are cleared. -/
def clearLog (s : State) (b : Blk) (first n : Nat) : State :=
  let zero (t : State) (o n : Nat) : State := (List.range n).foldl (fun t i => rset t (b.reg (o + 4 * i)) 0) t
  (companions b first).foldl (fun t r => (List.range r.count).foldl (fun t i => zero t (r.off + i * r.stride) r.words) t) (zero s first n)

/-- A write of the word that holds VALID; `hit` is what the hardware captures in the same cycle (R469). -/
def writeLog (s : State) (b : Blk) (first n : Nat) (v : Word) (hit : Option Word) : State :=
  let top := b.reg (first + 4 * (n - 1))
  let clears := v.getLsbD 31
  match hit with
  | none => if clears then clearLog s b first n else s
  | some w =>
    if rget s top &&& validBit = 0 then rset s top (w ||| validBit)
    else if clears then errCount (rset s top (w ||| validBit)) b
    else s

/-! ## One write -/

/-- The low word of a two-word value is held for the requester (R467). -/
def holdLow (s : State) (b : Blk) (who : Requester) (first : Nat) (v : Word) : State :=
  { s with regs := { s.regs with held := tset s.regs.held (shadowKey b who) (some (first, v)) none } }

/-- The low word that belongs to a high word written now: the one held, or the present one. -/
def lowFor (s : State) (b : Blk) (who : Requester) (first : Nat) : State × Word :=
  match tget s.regs.held (shadowKey b who) none with
  | some (f, v) =>
    if f = first then ({ s with regs := { s.regs with held := tset s.regs.held (shadowKey b who) none none } }, v)
    else (s, rget s (b.reg first))
  | none => (s, rget s (b.reg first))

/-- What the hardware does to the register in the cycle in which a write is applied (R469). -/
def hitOf : WriteTiming → Option Word
  | .collides w => some w
  | .alone => none

/-- A write that a block applies, by access type (R459–R461, R467, R469). -/
def landWrite (s : State) (b : Blk) (who : Requester) (r : RegRow) (first o : Nat) (v : Word) (t : WriteTiming) : State :=
  let low := decide (r.words = 2 ∧ o = first)
  match r.acc with
  | .ro | .live => s
  | .rw =>
    if enabled s b && !r.unguarded then ignoreWrite s b
    else if low then holdLow s b who first v
    else if r.words = 2 then
      let x := lowFor s b who first
      applyRw x.1 b r first [x.2, v]
    else applyRw s b r o [v]
  | .cnt =>
    if low then holdLow s b who first v
    else if r.words = 2 then
      let x := lowFor s b who first
      let s := rset (rset x.1 (b.reg first) x.2) (b.reg o) v
      if (hitOf t).isSome then cntAdd64 s (b.reg first) 1 else s
    else if (hitOf t).isSome then cntAdd (rset s (b.reg o) v) (b.reg o) 1
    else rset s (b.reg o) v
  | .w1t => triggerWrite s b o v
  | .log => if r.lead.isSome then s else if low then holdLow s b who first v else writeLog s b first r.words v (hitOf t)
  | .sh => match (hitOf t) with
    | some w => rset s (b.reg o) w
    | none => shWrite s b o v

/-! ## Posted writes (R464) -/

/-- The block that answers for an offset, and the offset within it that decides whether it can be reached; none where the offset decodes to
no register of its block, so that a write there is discarded (DESIGN CHOICE: R465 gives no effect). -/
def regBlock (s : State) (off : Nat) : Option (Blk × Nat) :=
  match regPlace s off with
  | .block b w => (decoded b w).map fun r => (b, r.2.2)
  | .array .bollards b _ => some (b, 0)
  | _ => none

/-- Nanoseconds within which a block applies a posted write (R481). A core clock that droops takes the figure of the slower
row. -/
def postBound (s : State) (b : Blk) : Nat :=
  match b.kind with
  | .pw | .tm => 200
  | .qn | .mc | .ql => 60
  | .oe => 100
  | .ls => 120
  | .dl => if dieType b.slot = some 3 then 100 else 60
  | .pr | .co | .tg => coreBound
  | .id | .ck | .sc => match dieType b.slot with
    | some 1 => 60
    | some 2 => coreBound
    | some 3 => 100
    | some 4 => 120
    | _ => 20
  | _ => 20
where
  coreBound : Nat := [100, 105, 115, 180].getD (clockLevel s + if s.pw.droop.contains (b.slot - 8) then 1 else 0) 180

/-- A write lands in the place it names. An addition to a bollard in the same cycle wins (R141). -/
def landPosted (s : State) (p : Posted) : State :=
  match regPlace s p.off with
  | .block b w => match decoded b w with
    | some (r, first, o) => landWrite s b p.who r first o p.value p.timing
    | none => s
  | .array .bollards _ o => if p.timing = .alone then bollSet s (o / 4) p.value else s
  | _ => s

/-- A posted write that is still in its queue leaves it and is applied. -/
def applyPosted (s : State) (p : Posted) : State :=
  if s.regs.posted.contains p then landPosted { s with regs := { s.regs with posted := s.regs.posted.erase p } } p else s

/-- Apply the posted write of a block, if it has one. -/
def settle (s : State) (b : Blk) : State := match postedOf s b with
  | some p => applyPosted s p
  | none => s

/-- Apply the posted writes that have been due at a time; during a switchover gap they wait (R394). -/
def applyDue (s : State) (t : Nat) : State :=
  if inGap s then s else (s.regs.posted.filter fun p => decide (p.due ≤ t)).foldl applyPosted s

/-- A block that can be reached accepts a write, or drops it while BUSY reads 1. The time at which it is applied, within the
bound of R481, is left open. -/
def postWrite (s : State) (b : Blk) (who : Requester) (off : Nat) (v : Word) (t : WriteTiming) : State :=
  if isBusy s b then dropWrite s b
  else
    let s' := (acceptWrite s b).takeFree
    { s' with regs := { s'.regs with
      posted := s'.regs.posted ++ [⟨b.base, who, off, v, t, s.now + 1 + s.free % postBound s b⟩] } }

/-- Write one register word: posted at the block that answers for it, discarded where none does (R454, R456, R464). -/
def regWrite (s : State) (who : Requester) (off : Nat) (v : Word) (t : WriteTiming) : State :=
  match regBlock s off with
  | some (b, o) => if reaches s who b o then postWrite s b who off v t else s
  | none => s

/-- Read one register word. BLK_STAT is served at once; any other read waits until the block's posted write has been
applied (R464). -/
def regRead (s : State) (who : Requester) (off : Nat) : State × Word :=
  match regPlace s off with
  | .block b w => regNow (if (decoded b w).any fun r => r.2.2 == 0x008 then s else settle s b) who off
  | .array _ b _ => regNow (settle s b) who off
  | _ => regNow s who off

/-- An offset that an access may name: a word, by a requester that writes. -/
def writable (who : Requester) (reg : BitVec 32) : Bool := who != .telemetry && reg.toNat % 4 == 0 && decide (reg.toNat < 41 * 0x4000000)

/-- REGISTER_WRITE. Every access is an aligned word (R455), and the telemetry sweep only reads. -/
def execRegisterWrite (writer : Requester) (reg : BitVec 32) (value : Word) (timing : WriteTiming) (s : State) : Result :=
  .next (if writable writer reg then regWrite s writer reg.toNat value timing else s)

/-- An offset that decodes to BLK_CTRL. The guest port's DL block counts as a block in either mode of the port; in UCIe mode
a write finds nothing there. -/
def isCtrl (reg : BitVec 32) : Bool :=
  match placeOf true reg.toNat with
  | .block b w => w &&& b.kind.mask == 0x004
  | _ => false

/-- A write of BLK_CTRL as a command of its own: the moment at which it is applied. -/
def ctrlWrite (writer : Requester) (reg : BitVec 32) (en : Bool) (s : State) : Result :=
  match regPlace s reg.toNat with
  | .block b w =>
    if writable writer reg && (w &&& b.kind.mask == 0x004) && reaches s writer b 0x004 then
      softWrite s b fun t => .next (writeCtrl t b (if en then 1 else 0))
    else .next s
  | _ => .next s

/-- BLOCK_ENABLE: EN is set. -/
def execBlockEnable (writer : Requester) (reg : BitVec 32) (s : State) : Result := ctrlWrite writer reg true s

/-- BLOCK_DISABLE: EN is cleared. -/
def execBlockDisable (writer : Requester) (reg : BitVec 32) (s : State) : Result := ctrlWrite writer reg false s

/-! ## Configuration parity (R466) -/

/-- A pair of bundle ends goes DOWN. -/
def bundleDown (s : State) (k : Nat) : State := match farEnd k with
  | some f => linkDown (linkDown s k) f
  | none => linkDown s k

/-- The links that a DL block's lanes carry. -/
def dlLinks (s : State) (b : Blk) : List Nat :=
  match dieType b.slot with
  | some 3 => ((List.range 16).filter fun d => (linkBundles s (b.slot - 24) d).contains b.inst).map fun d => opticKey (b.slot - 24) d
  | _ => match farEnd (linkKey b.slot b.inst) with
    | some _ => [linkKey b.slot b.inst]
    | none => match enginesOf (b.slot - 1) with
      | some (n0, e) =>
        let n := n0 + b.inst % 8 / 4
        if dieType b.slot = some 1 ∧ b.inst / 8 = e then
          ((List.range 16).filter fun d => (linkBundles s n d).contains (b.inst % 4)).map fun d => opticKey n d
        else []
      | none => []

/-- Firmware rewrites PL from the record in use and enables it again. -/
def restorePilot (s : State) : State :=
  match s.sec.inst with
  | some r => configPilot { s with regs := { s.regs with badPar := s.regs.badPar.filter fun x => !((badIn s blkPL).contains x) } } r.body
  | none => s

/-- The safe state of a block, where it is more than its reset values. -/
def safeEffect (s : State) (b : Blk) : State :=
  match b.kind with
  | .td =>
    let t := s.tide
    let t := if t.everLocked then { t with st := .holdover, holdSince := if t.st = .holdover then t.holdSince else t.hub } else { t with st := .free }
    { s with tide := { t with safe := true } }
  | .ql => bundleDown s (qlKey b)
  | .dl => (dlLinks s b).foldl bundleDown s
  | .oe => (engineKeys b.inst).foldl linkDown (darkTx s b.inst)
  | .gf => guestQuarantine s
  | .pl => restorePilot s
  | .pw => guestCut s 0
  | _ => s

/-- A mismatch: one bit of the register, or its parity bit, has changed. -/
def parityFault (s : State) (b : Blk) (first : Nat) : State :=
  let a := b.reg first
  let bad := if s.regs.badPar.contains a then s.regs.badPar else a :: s.regs.badPar
  let s := rset s.takeFree a (rget s a ^^^ ((1 : Word) <<< (s.free % 33)))
  let was := inSafe s b
  let s := errCount { s with regs := { s.regs with badPar := bad, safe := if was then s.regs.safe else b.base :: s.regs.safe } } b
  let l := badIn s b
  let s := if hubUp s then logRecord s 0x0A01 b.slot 0 (min l.length 255 + 256 * b.kind.code) (addrOf (l.foldl min a)) 0 else s
  if was then s else safeEffect s b

/-- The RW register that an offset decodes to: its block and the offset of its first word. -/
def rwReg (reg : BitVec 32) : Option (Blk × Nat) :=
  match placeOf true reg.toNat with
  | .block b w => match decoded b w with
    | some (r, first, _) => if r.acc = .rw then some (b, first) else none
    | none => none
  | _ => none

/-- A block's registers hold values now: its die runs, or the block is always on. -/
def holdsValues (s : State) (b : Blk) (first : Nat) : Bool :=
  (if hubUp s then slotAnswers s b.slot else fed s && alwaysOnReg b first) && !(b == blkDL 0 2 && guestUcie s)

/-- CONFIG_PARITY_FAULT, in a block of a die that runs. -/
def execConfigParityFault (reg : BitVec 32) (s : State) : Result :=
  match rwReg reg with
  | some (b, first) => if holdsValues s b first then .next (parityFault s b first) else .next s
  | none => .next s

end Sys2Proof.Machine
end

