-- ==== Sys2Proof/Machine/PilotMsg.lean ====
section
/-! DEFINITION. What each message of the pilot protocol does (R368, R369, R372–R376). -/

namespace Sys2Proof.Machine

/-- What a message brings about: it has been dealt with, or it waits at the front of those to be executed. -/
abbrev MsgStep := State × Bool

def msgDone (s : State) : MsgStep := (s, true)
def msgWaits (s : State) : MsgStep := (s, false)

/-- An answer is sent where there is room for it; without room the message waits (R374). -/
def answering (s : State) (f : State → State) : MsgStep := if keepRoom s then msgDone (f s) else msgWaits s

/-- A message fails: STATUS with a code of R375. -/
def failMsg (s : State) (m : PMsg) (code : Nat) : MsgStep := answering s fun t => statusMsg t m code

/-- The address of a message. -/
def msgAddr (m : PMsg) : Nat := m.addr.toNat
/-- Bits [63:52] of ADDR are reserved (R367). -/
def addrReserved (m : PMsg) : Bool := field m.addr 52 12 != 0

/-! ## Registers (R373) -/

/-- Words of a body. -/
def bodyWords : List Byte → List Word
  | a :: b :: c :: d :: r => BitVec.ofNat 32 (bytesToNat [a, b, c, d]) :: bodyWords r
  | _ => []

/-- `n` words at an address do not all lie in one slot of register space, or are misaligned (R375 code 0x01). -/
def regAstray (a n : Nat) : Bool := a % 4 != 0 || match homeOf a with
  | some (.reg _) => decide (rangeEnd a < a + 4 * n)
  | _ => true

/-- The offset in register space of word `i` of a message. -/
def regOff (m : PMsg) (i : Nat) : Nat := msgAddr m - regSpace + 4 * i

/-- An offset lies in an array window that can only be read (R479). -/
def readOnly (s : State) (off : Nat) : Bool := match regPlace s off with
  | .array .bollards _ _ => false
  | .array _ _ _ => true
  | _ => false

/-- BUSY of the block that holds an offset. -/
def busyAt (s : State) (off : Nat) : Bool := match regPlace s off with
  | .block b _ => isBusy s b
  | .array _ b _ => isBusy s b
  | _ => false

def setPoll (s : State) (p : Option (Nat × Nat)) : State := { s with pl := { s.pl with poll := p } }

/-- How long a polling write waits for a block, in nanoseconds. -/
def pollLimit : Nat := 100000

/-- Write words one by one, each when its block is not BUSY; `since` is when the present wait began. -/
def pollWords (s : State) (m : PMsg) (i since : Nat) : List Word → MsgStep
  | [] => msgDone (setPoll s none)
  | w :: r =>
    if !busyAt s (regOff m i) then pollWords (regWrite s .pilot (regOff m i) w .alone) m (i + 1) s.now r
    else if s.now < since + pollLimit ∨ !keepRoom s then msgWaits (setPoll s (some (i, since)))
    else msgDone (statusMsg (setPoll s none) m 3)

/-- Write words as they come, one in each control cycle (R455): a block may have applied the word before, or it drops the next
(R464, R373). -/
def putWords (s : State) (m : PMsg) (i : Nat) : List Word → State
  | [] => s
  | w :: r => putWords (regWrite (applyDue s (s.now + i)) .pilot (regOff m i) w .alone) m (i + 1) r

/-- REG_WRITE. -/
def msgRegWrite (s : State) (m : PMsg) : MsgStep :=
  let l := bodyWords m.body
  if m.body.length % 4 ≠ 0 ∨ l.length = 0 ∨ 64 < l.length ∨ 1 < m.flags.toNat ∨ addrReserved m then failMsg s m 2
  else if regAstray (msgAddr m) l.length then failMsg s m 1
  else if (List.range l.length).any fun i => readOnly s (regOff m i) then failMsg s m 6
  else if m.flags.getLsbD 0 then
    let p := s.pl.poll.getD (0, s.now)
    pollWords s m p.1 p.2 (l.drop p.1)
  else msgDone (putWords s m 0 l)

/-- Read `n` words from word `i` on. -/
def getWords (s : State) (m : PMsg) (i : Nat) : Nat → State × List Word
  | 0 => (s, [])
  | n + 1 =>
    let r := regRead s .pilot (regOff m i)
    let t := getWords r.1 m (i + 1) n
    (t.1, r.2 :: t.2)

/-- COUNT of a request; none where the body is not one word. -/
def countOf (m : PMsg) : Option Nat := if m.body.length = 4 then some (bytesToNat m.body) else none

/-- REG_READ. -/
def msgRegRead (s : State) (m : PMsg) : MsgStep :=
  match countOf m with
  | none => failMsg s m 2
  | some n =>
    if n = 0 ∨ 64 < n ∨ m.flags ≠ 0 ∨ addrReserved m then failMsg s m 2
    else if regAstray (msgAddr m) n then failMsg s m 1
    else answering s fun t =>
      let r := getWords t m 0 n
      reply r.1 0x82 m (r.2.flatMap fun w => natToBytes 4 w.toNat)

/-! ## Memory (R155, R156, R172, R173, R376) -/

/-- A write covers some parcel in part. -/
def coversPart (a n : Nat) : Bool := a % 256 != 0 || (a + n) % 256 != 0

/-- The code with which an access to `n` bytes at `a` is refused; 0 where it is served. A write into an array window that can only be
read has code 0x06 (R479). One that covers part of a parcel of the guest window also reads it, so its window must permit both (DESIGN
CHOICE). -/
def memCode (s : State) (a n : Nat) (write : Bool) : Nat :=
  match s.home a with
  | none => 1
  | some (.reg off) => if write && (List.range ((n + 3) / 4)).any (fun i => readOnly s (off + 4 * i)) then 6 else 1
  | some (.core _ _ _ _) => 8
  | some (.guest _) =>
    if rangeEnd a < a + n then 1
    else if s.guest.quar || !windowOk s a n true write || (write && coversPart a n && !windowOk s a n true false) then 5 else 0
  | some _ => if rangeEnd a < a + n then 1 else 0

/-- Bytes that belong to the chart being loaded. -/
def hitsChart (s : State) (a n : Nat) : Bool := match s.hm.loading with
  | some l => decide (a < hubSramBase + l.offset + l.bytes.length ∧ hubSramBase + l.offset < a + n)
  | none => false

/-- The hub reaches a place now. -/
def pilotReaches (s : State) (a : Nat) : Bool := match s.home a with
  | some h => reachHome s hubPoint h
  | none => false

/-- Count a parcel between the hub and a place on the pilot's channel. -/
def countPilot (s : State) (a : Nat) : State := match s.home a with
  | some h => countLocal s (.hub 0) h 3 a
  | none => s

/-- A page of HBM that an address lies in is retired. -/
def inRetired (s : State) (a : Nat) : Bool := match homeOf a with
  | some (.hbm m off) => (mcGet s m).retiredPage (off / 0x400000)
  | _ => false

/-- An address lies in a region of HBM that is not released, in a page that is not retired. -/
def unreleased (s : State) (a : Nat) : Bool := match homeOf a with
  | some (.hbm m off) => !inRetired s a && !(mcGet s m).released (regionOf off)
  | _ => false

/-- Dredge the region of an address ahead of a partial write (R172). -/
def dredgeFor (s : State) (a : Nat) : State := match homeOf a with
  | some (.hbm m off) => if unreleased s a then cntAdd (dredge s m (regionOf off)) ((blkMC m).reg 0x020) 1 else s
  | _ => s

/-- Write `b` at `a` of the guest window, all within one parcel: a whole parcel at once, or merged into what the guest sends of it. -/
def guestWrite (s : State) (m : PMsg) (a : Nat) (b : List Byte) : State :=
  let s := { s with pl := { s.pl with gwrite := s.pl.gwrite + 1 } }
  if b.length = 256 then pilotToGuest s a s.pl.session (Parcel.ofBytes b) false
  else
    let x : PilotMerge := { tag := BitVec.ofNat 32 (0x10000 + s.trans.nextTag), msg := m, session := s.pl.session, addr := a, bytes := b }
    guestRelay { s with pl := { s.pl with gmerge := s.pl.gmerge ++ [x] } } 3 (a / 256 * 256) 1 .merge

/-- Write `b` at `a`, all within one parcel: a whole parcel with a clear mark, or merged into what is there, which keeps
its mark. A write of part of a parcel in a retired page is discarded with one hit, as a write (DESIGN CHOICE: R201 states no count for
the read that it would need). -/
def pilotWrite (s : State) (m : PMsg) (a : Nat) (b : List Byte) : State :=
  let base := a / 256 * 256
  let s := countPilot s a
  let put (s : State) (p : Parcel) (poison : Bool) : State := writeParcel s base .pilot ⟨p, parcelCheck p, poison⟩ 0
  if isGuest s a then guestWrite s m a b
  else if b.length = 256 then put s (Parcel.ofBytes b) false
  else if inRetired s a then writeParcel s base .pilot (zeroParcel false) 0
  else
    let r := readParcel (dredgeFor s a) base .pilot 0
    put r.1 (mergeBytes r.2.data (a % 256) b) r.2.poison

/-- Write a body parcel by parcel. -/
def pilotWrites (s : State) (m : PMsg) (a : Nat) (b : List Byte) : Nat → State
  | 0 => s
  | n + 1 =>
    if b.isEmpty then s
    else
      let k := min b.length (256 - a % 256)
      pilotWrites (pilotWrite s m a (b.take k)) m (a + k) (b.drop k) n

/-- The most bytes that a MEM_WRITE carries, and the most parcels that a MEM_READ asks for. -/
def maxWrite (s : State) : Nat := if jumbo s then 8192 else 1024
def maxRead (s : State) : Nat := if jumbo s then 32 else 4

/-- MEM_WRITE. -/
def msgMemWrite (s : State) (m : PMsg) : MsgStep :=
  let a := msgAddr m
  let n := m.body.length
  if n % 4 ≠ 0 ∨ n = 0 ∨ maxWrite s < n ∨ m.flags ≠ 0 ∨ addrReserved m then failMsg s m 2
  else if a % 4 ≠ 0 then failMsg s m 1
  else match memCode s a n true with
  | 0 =>
    if hitsChart s a n then answering s fun t => statusMsg (cntAdd t (blkHM.reg 0x030) 1) m 4
    else if !pilotReaches s a then msgWaits s
    else msgDone (pilotWrites s m a m.body 34)
  | code => failMsg s m code

/-- Read `n` parcels, with the flags of each. -/
def pilotReads (s : State) (a : Nat) : Nat → State × List (Byte × Parcel)
  | 0 => (s, [])
  | n + 1 =>
    let unwritten := unreleased s a
    let r := readParcel (countPilot s a) a .pilot 0
    let c := leaveHub r.1 a r.2
    let rest := pilotReads c.1 (a + 256) n
    (rest.1, (fields 8 [(1, r.2.poison.toNat), (1, c.2.toNat), (1, unwritten.toNat)], r.2.data) :: rest.2)

/-- Ask the guest for the parcels of a MEM_READ of its window; its answer makes the reply. -/
def askGuest (s : State) (m : PMsg) (n : Nat) : State :=
  let a := msgAddr m
  let r := newRead s a n (.pilot m.tag) none true
  toGuest { r.1 with pl := { r.1.pl with gread := r.1.pl.gread ++ [⟨r.2, m, []⟩] } } (readReq s (ownDev s) 3 a n a r.2 none) 0

/-- MEM_READ. -/
def msgMemRead (s : State) (m : PMsg) : MsgStep :=
  let a := msgAddr m
  match countOf m with
  | none => failMsg s m 2
  | some n =>
    if n = 0 ∨ maxRead s < n ∨ m.flags ≠ 0 ∨ addrReserved m then failMsg s m 2
    else if a % 256 ≠ 0 then failMsg s m 1
    else match memCode s a (256 * n) false with
    | 0 =>
      if !pilotReaches s a then msgWaits s
      else if isGuest s a then answering s fun t => askGuest t m n
      else answering s fun t =>
        let r := pilotReads t a n
        memData r.1 m r.2
    | code => failMsg s m code

/-! ## Launches, SPDM and sessions -/

/-- TIDE_WRITE (R125). -/
def msgTideWrite (s : State) (m : PMsg) : MsgStep :=
  if m.body.length ≠ 32 ∨ m.flags ≠ 0 ∨ m.addr ≠ 0 then failMsg s m 2
  else answering s fun t =>
    let r := submit t (BitVec.ofNat 256 (bytesToNat m.body))
    reply r.1 0x85 m ([BitVec.ofNat 8 r.2.1, 0] ++ natToBytes 2 r.2.2)

/-- The longest SPDM message on the pilot transport. -/
def maxSpdm (s : State) : Nat := if jumbo s then 4096 else 1024

/-- SIZE of an SPDM message and its padding are in order. -/
def spdmShape (s : State) (b : List Byte) : Bool :=
  let n := leAt b 0 4
  decide (4 ≤ b.length ∧ 4 ≤ n ∧ n ≤ maxSpdm s ∧ b.length = 4 + (n + 3) / 4 * 4) && (b.drop (4 + n)).all (· == 0)

/-- SPDM: the request is handed to the responder; a session holds one at a time (R372). What spells no request is answered at once with
an error. -/
def msgSpdm (s : State) (m : PMsg) : MsgStep :=
  if m.flags ≠ 0 ∨ m.addr ≠ 0 ∨ !spdmShape s m.body then failMsg s m 2
  else if s.spdmPilot.busy.isSome then failMsg s m 9
  else
    let b := (m.body.drop 4).take (leAt m.body 0 4)
    let s' : State := { s with spdmPilot := { s.spdmPilot with busy := some (m.tag, b) } }
    match reqError b with
    | some e => if keepRoom s then msgDone (spdmAnswer s' .pilot (.error e)) else msgWaits s
    | none => msgDone s'

/-- The body of OPEN_REPLY. -/
def openBody (s : State) : List Byte :=
  natToBytes 8 (rget64 s ((blkID 0).reg 0x018)).toNat ++
  [fields 8 [(1, (isBridge s).toNat), (1, s.hm.chart.isSome.toNat)], BitVec.ofNat 8 s.hm.st.code] ++
  natToBytes 2 s.pl.session.toNat ++ natToBytes 2 (maxDgram s) ++ [0, 0]

/-- OPEN: the session has been opened by its datagram; the answer names it. -/
def msgOpen (s : State) (m : PMsg) : MsgStep :=
  if m.body ≠ [] ∨ m.flags ≠ 0 ∨ m.addr ≠ 0 then failMsg s m 2
  else answering s fun t => reply t 0x88 m (openBody t)

/-! ## Messages in order (R372) -/

/-- Execute one message. -/
def runMsg (s : State) (m : PMsg) : MsgStep :=
  match m.ty.toNat with
  | 0x01 => msgRegWrite s m
  | 0x02 => msgRegRead s m
  | 0x03 => msgMemWrite s m
  | 0x04 => msgMemRead s m
  | 0x05 => msgTideWrite s m
  | 0x06 => msgSpdm s m
  | 0x08 => msgOpen s m
  | _ => failMsg s m 2

def setTodo (s : State) (l : List PMsg) : State := { s with pl := { s.pl with todo := l } }

/-- SPDM runs apart from the other messages (R372). -/
def runsApart (m : PMsg) : Bool := m.ty == 0x06

/-- A message may start: no MEM_READ of the guest window is under way, every MEM_WRITE into it has been performed unless this is one
more, and no register is accessed during a switchover gap (R372, R394). -/
def mayStart (s : State) (m : PMsg) : Bool :=
  s.pl.gread.isEmpty && (m.ty == 0x03 || s.pl.gwrite == 0) && !(inGap s && (m.ty == 0x01 || m.ty == 0x02))

/-- Execute messages in order, as far as they can be executed now; `kept` are those before that wait. -/
def runMsgs (s : State) (kept : List PMsg) : List PMsg → State
  | [] => setTodo s kept
  | m :: r =>
    if !pilotOn s then setTodo s (kept ++ m :: r)
    else if !runsApart m && (!kept.all runsApart || !mayStart s m) then runMsgs s (kept ++ [m]) r
    else match runMsg s m with
    | (t, true) => runMsgs t kept r
    | (t, false) => runMsgs t (kept ++ [m]) r

/-- Go on with the answers and the messages that wait. -/
def pump (s : State) : State :=
  let s := if pilotOn s then flushLate s else s
  runMsgs s [] s.pl.todo

/-- A message of the open session that has been accepted. -/
def takeMsg (s : State) (m : PMsg) : State :=
  if pilotOn s && s.pl.opened then pump (setTodo s (s.pl.todo ++ [m])) else s

/-- REG_WRITE. -/
def execRegWrite (tag : Word) (addr : Dword) (poll : Bool) (words : List Word) (s : State) : Result :=
  .next (takeMsg s { ty := 1, flags := if poll then 1 else 0, tag := tag, addr := addr, body := words.flatMap fun w => natToBytes 4 w.toNat })

/-- REG_READ. -/
def execRegRead (tag : Word) (addr : Dword) (count : Word) (s : State) : Result :=
  .next (takeMsg s { ty := 2, flags := 0, tag := tag, addr := addr, body := natToBytes 4 count.toNat })

/-- MEM_WRITE. -/
def execMemWrite (tag : Word) (addr : Dword) (data : List Byte) (s : State) : Result :=
  .next (takeMsg s { ty := 3, flags := 0, tag := tag, addr := addr, body := data })

/-- MEM_READ. -/
def execMemRead (tag : Word) (addr : Dword) (count : Word) (s : State) : Result :=
  .next (takeMsg s { ty := 4, flags := 0, tag := tag, addr := addr, body := natToBytes 4 count.toNat })

/-- TIDE_WRITE. -/
def execTideWrite (tag : Word) (entry : BitVec 256) (s : State) : Result :=
  .next (takeMsg s { ty := 5, flags := 0, tag := tag, addr := 0, body := natToBytes 32 entry.toNat })

end Sys2Proof.Machine
end

