-- ==== Sys2Proof/Machine/Pilot.lean ====
section
/-! DEFINITION. The pilot engine: sessions, sequence and acknowledgement, relays, events, and the frames that the Ethernet
ports answer (R364, R365, R369–R371, R374, R377–R383). -/

namespace Sys2Proof.Machine

/-! ## Sequence (R369–R371) -/

/-- `a` is after `b` (R370). -/
def seq32After (a b : Word) : Bool := decide (1 ≤ (a - b).toNat ∧ (a - b).toNat ≤ 2 ^ 31 - 1)

/-- Count a frame or datagram that is dropped (R364, R369, R378). -/
def rxBadCount (s : State) : State := cntAdd s (blkPL.reg 0x064) 1

/-- A new session: replies are discarded, and events that are not acknowledged are sent again. -/
def newSession (s : State) : State :=
  let n := s.pl.session + 1
  { s with
    events := s.events.map fun e => { e with sent := false }
    spdmPilot := { s.spdmPilot with busy := none }
    pl := { s.pl with
      opened := true, session := if n = 0 then 1 else n, txSeq := 0, sent := [], owed := 0, gread := [], gwrite := 0, late := [] } }

/-- Events that a datagram carries. -/
def eventsIn (d : Dgram) : Nat := d.msgs.countP fun m => m.ty == 0x90

/-- An acknowledgement frees what it covers: datagrams, and the events in them. -/
def takePilotAck (s : State) (ack : Word) : State :=
  if seq32After ack s.pl.txSeq then s
  else
    let gone := s.pl.sent.filter fun d => !seq32After d.seq ack
    if gone.isEmpty then s
    else { s with
      events := s.events.drop (gone.map eventsIn).sum
      pl := { s.pl with sent := s.pl.sent.filter fun d => seq32After d.seq ack, sentAt := s.now } }

/-- Accepted datagrams after which an acknowledgement is sent at once. -/
def ackEvery : Nat := 16

/-- The next expected datagram is accepted, and its messages are executed. -/
def acceptDgram (s : State) (path : PilotPath) (d : Dgram) : State :=
  let s := cntAdd s (blkPL.reg 0x058) 1
  let s := { s with pl := { s.pl with
    rxAck := d.seq, path := path, owed := s.pl.owed + 1, owedAt := if s.pl.owed = 0 then s.now else s.pl.owedAt
    todo := s.pl.todo ++ d.msgs } }
  let s := pump s
  if ackEvery ≤ s.pl.owed then pilotAck s else s

/-- A datagram opens a session. -/
def opens (d : Dgram) : Bool := d.session == 0 && d.seq != 0 && d.msgs.any fun m => m.ty == 0x08

/-- A host datagram for this member. -/
def deliver (s : State) (path : PilotPath) (d : Dgram) : State :=
  if opens d then acceptDgram (newSession s) path d
  else if !s.pl.opened || d.session != s.pl.session then rxBadCount s
  else
    let s := takePilotAck s d.ack
    if d.seq = 0 then pump (d.msgs.foldl (fun t m => answerLate t 0x81 m (statusBody m 2)) s)
    else if d.seq = nextSeq s.pl.rxAck then acceptDgram s path d
    else if seq32After d.seq s.pl.rxAck then pilotAck (cntAdd (pump s) (blkPL.reg 0x060) 1)
    else pilotAck (cntAdd (pump s) (blkPL.reg 0x05C) 1)

/-! ## Passing on (R377–R379) -/

/-- A member of GROUP. -/
def inGroup (s : State) (dev : Nat) : Bool := match effChart s with
  | some c => c.group.getLsbD dev
  | none => false

/-- The HOST port on which the last in-order host datagram came in. -/
def lastHostPort (s : State) : Fin 2 := (pathPort s.pl.path).getD 0

/-- A host datagram for another member: the bridge relays it, and so does a module that a PEER port has brought it to. -/
def relayDown (s : State) (came : PilotPath) (d : Dgram) : State :=
  let here := isBridge s || match pathPort came with
    | some p => isPeerPort s p
    | none => true
  if here && inGroup s d.dev.toNat then
    match toMember { s with pl := { s.pl with down := some came } } (pathPort came) d.dev.toNat d with
    | some t => cntAdd t (blkPL.reg 0x07C) 1
    | none => noRoute s
  else noRoute s

/-- A member's datagram for the host: out on the bridge's HOST port, or on toward the bridge. A module that knows no bridge sends it the
way in which the last host datagram for another member came. -/
def relayUp (s : State) (came : PilotPath) (d : Dgram) : State :=
  if isBridge s then toHost s (lastHostPort s) d else upward s (pathPort came) s.pl.down d

/-- A datagram that is whole and in its place. -/
def dispatch (s : State) (came : PilotPath) (d : Dgram) : State :=
  if d.dev.toNat ≠ ownDev s then if d.fromDevice then relayUp s came d else relayDown s came d
  else if d.fromDevice then rxBadCount s
  else deliver s came d

/-! ## Frames (R364, R366) -/

/-- A message's LENGTH is a multiple of 4. -/
def wholeWords (m : PMsg) : Bool := m.body.length % 4 == 0

/-- PL_IP6, and PL_HOST_IP6 (R385). -/
def ip6At (s : State) (o : Nat) : BitVec 128 := cfg s blkPL (o + 12) ++ cfg s blkPL (o + 8) ++ cfg s blkPL (o + 4) ++ cfg s blkPL o
def plIp6 (s : State) : BitVec 128 := ip6At s 0x020

/-- The address of a port: port 1 uses PL_MAC + 1 (R385). -/
def portMac (s : State) (port : Fin 2) : BitVec 48 := (rget64 s (blkPL.reg 0x030)).setWidth 48 + BitVec.ofNat 48 port.val

/-- A tag is the one that PL_CFG names, while VLAN_EN is set (R364, R385). -/
def tagGood (s : State) (t : BitVec 12 × BitVec 3) : Bool :=
  (plCfg s).getLsbD 6 && t.1 == field (plCfg s) 8 12 && t.2 == field (plCfg s) 20 3

/-- A frame's longest length (R364). -/
def maxFrame (s : State) : Nat := if jumbo s then 9216 else 1518

/-- The destination address and checksum of a datagram (R364). -/
def dstGood (s : State) (f : EthFrame) : Bool := match f.dst with
  | .v4 a => a == cfg s blkPL 0x018 && f.sum != .bad
  | .v6 a => (plCfg s).getLsbD 5 && a == plIp6 s && f.sum == .good

/-- With HOST_LOCK only the host's own address is served (R364). -/
def srcGood (s : State) (f : EthFrame) : Bool := !(plCfg s).getLsbD 7 || match f.src with
  | .v4 a => a == cfg s blkPL 0x038
  | .v6 a => a == ip6At s 0x040

/-- A frame that a port accepts as one of a pilot datagram (R364, R366). -/
def frameTaken (s : State) (port : Fin 2) (f : EthFrame) : Bool :=
  f.mac == portMac s port && decide (f.tags.length ≤ 1) && f.tags.all (tagGood s) && decide (f.bytes ≤ maxFrame s) && f.plain
    && dstGood s f && srcGood s f && f.port == field (cfg s blkPL 0x014) 0 16 && f.magic == 0x015051 && f.resv == 0

/-- A datagram is as R366 says. -/
def dgramFits (s : State) (d : Dgram) : Bool := decide (Dgram.length d ≤ maxDgram s ∧ d.msgs.length ≤ 255) && d.msgs.all wholeWords

/-- A datagram that a port takes. A HOST port takes only what the host sends. -/
def dgramGood (s : State) (port : Fin 2) (d : Dgram) : Bool := (isPeerPort s port || !d.fromDevice) && dgramFits s d

/-- The frame and the datagram in it are as R364 and R366 say. -/
def frameGood (s : State) (port : Fin 2) (f : EthFrame) (d : Dgram) : Bool := frameTaken s port f && dgramGood s port d

/-- PILOT_DATAGRAM. -/
def execPilotDatagram (port : Fin 2) (frame : EthFrame) (d : Dgram) (s : State) : Result :=
  if !pilotOn s || !portLive s port then .next s
  else if !frameGood s port frame d then .next (rxBadCount s)
  else .next (dispatch s (.port port) d)

/-- PILOT_RELAY: a good datagram for another member arrives. -/
def execPilotRelay (port : Fin 2) (frame : EthFrame) (d : Dgram) (s : State) : Result :=
  if d.dev.toNat == ownDev s then .next s else execPilotDatagram port frame d s

/-- OPEN: a datagram with an OPEN message arrives on a port. -/
def execOpenSession (port : Fin 2) (frame : EthFrame) (seq tag : Word) (s : State) : Result :=
  if seq == 0 then .next s
  else execPilotDatagram port frame {
    dev := BitVec.ofNat 4 (ownDev s), fromDevice := false, session := 0, seq := seq, ack := 0
    msgs := [{ ty := 8, flags := 0, tag := tag, addr := 0, body := [] }] } s

/-- ARP_REQUEST: one for PL_IP4 is answered. -/
def execArpRequest (port : Fin 2) (ip : Word) (s : State) : Result :=
  if !pilotOn s || !portLive s port then .next s
  else if ip = cfg s blkPL 0x018 then .next (s.emit (.arpReply port (sentTag s)))
  else .next (rxBadCount s)

/-- NEIGHBOR_SOLICITATION: one for PL_IP6 is answered while IPv6 is enabled. -/
def execNeighborSolicitation (port : Fin 2) (ip : BitVec 128) (s : State) : Result :=
  if !pilotOn s || !portLive s port then .next s
  else if (plCfg s).getLsbD 5 && ip == plIp6 s then .next (s.emit (.neighborAdvert port (sentTag s)))
  else .next (rxBadCount s)

/-- A stamp lies within 4 ns of the moment that the corrected tide gives (R383). -/
def stampOf (s : State) (transmitted : Bool) : Dword :=
  let adj := cfg s blkPL 0x0A4
  let mid : Int := if transmitted then s.tide.hub.toNat + (field adj 16 16).toNat / 10 else s.tide.hub.toNat - (field adj 0 16).toNat / 10
  BitVec.ofInt 64 (mid + (s.free % 9 : Nat) - 4)

/-- PTP_EVENT_MESSAGE. The clock that firmware runs is a slave from the first message of its domain received on; before it runs it
transmits none (R383, R429, R433). -/
def execPtpEventMessage (port : Fin 2) (transmitted : Bool) (domain : Byte) (sequenceId : BitVec 16) (s : State) : Result :=
  if !pilotOn s || !portLive s port || (transmitted && s.pl.ptp.isNone) then .next s
  else
    let v := stampOf s transmitted
    let o := if transmitted then 0x098 else 0x088
    let t := logCapture s.takeFree (blkPL.reg (o + 8)) (fields 32 [(16, sequenceId.toNat), (1, port.val)])
      [(blkPL.reg o, v.setWidth 32), (blkPL.reg (o + 4), (v >>> 32).setWidth 32)]
    let ours := s.pl.ptp.any fun p => p.domain == domain
    .next { t with pl := { t.pl with ptpSlave := t.pl.ptpSlave || (!transmitted && ours) } }

/-! ## PILOT parcels (R378) -/

/-- What is being put together from a member's segments. -/
def asmGet (s : State) (src : Nat) : Option PilotAsm := tget s.pl.asm src none
def asmSet (s : State) (src : Nat) (x : Option PilotAsm) : State := { s with pl := { s.pl with asm := tset s.pl.asm src x none } }

/-- A partial datagram is discarded and counted. -/
def asmDrop (s : State) (src : Nat) : State := if (asmGet s src).isSome then rxBadCount (asmSet s src none) else s

/-- The bytes of the datagram in a segment. -/
def segBytes (p : QPar) : List Byte := ((Parcel.bytes p.payload).take (4 * (p.len.toNat + 1))).drop 8

/-- A datagram is complete. -/
def asmDone (s : State) (src total : Nat) (b : List Byte) : State :=
  if b.length ≠ total then rxBadCount s
  else match readDgram b with
    | some d => if dgramFits s d then dispatch s (.link src) d else rxBadCount s
    | none => rxBadCount s

/-- One segment, in its place. -/
def segment (s : State) (src : Nat) (x : PilotAsm) (last : Bool) (b : List Byte) : State :=
  if last then asmDone (asmSet s src none) src x.total (x.bytes ++ b)
  else asmSet s src (some { x with next := x.next + 1, bytes := x.bytes ++ b })

/-- A PILOT parcel for this member. -/
def takeSegment (s : State) (p : QPar) : State :=
  let src := (field p.payload 0 4).toNat
  let first := (field p.payload 8 1) == 1
  let last := (field p.payload 9 1) == 1
  let no := (field p.payload 16 16).toNat
  let total := (field p.payload 32 16).toNat
  if first then
    let s := asmDrop s src
    if no ≠ 0 then rxBadCount s else segment s src { next := 0, total := total, bytes := [] } last (segBytes p)
  else match asmGet s src with
    | none => s
    | some x => if no = x.next then segment s src x last (segBytes p) else asmDrop s src

/-- PILOT: a parcel arrives, for this member or on its way to another. -/
def execPilot (l : LinkId) (h : Hdr) (payload : Parcel) (check : Word) (s : State) : Result :=
  match receiveLink s l tyPilot h payload check with
  | (t, none) => .next t
  | (t, some p) =>
    if p.dev.toNat ≠ ownDev t then .next (acceptPar t l.key p)
    else
      let t := freeUnit t l.key p.vc.toNat
      .next (if pilotOn t then takeSegment t p else t)

/-! ## Sending in time (R371, R374, R380–R382) -/

/-- PILOT_ACK_SEND: an accepted datagram has not been acknowledged yet. -/
def execPilotAckSend (s : State) : Result :=
  .next (if pilotOn s && decide (0 < s.pl.owed) then pilotAck s else s)

/-- PL_RTO in nanoseconds. -/
def pilotRto (s : State) : Nat := (field (cfg s blkPL 0x050) 0 16).toNat * 1000

/-- PILOT_RETRANSMIT: everything that is not acknowledged goes out again, from the oldest on, with the present ACK. -/
def execPilotRetransmit (s : State) : Result :=
  if !pilotOn s || s.pl.sent.isEmpty || decide (s.now < s.pl.sentAt + pilotRto s) then .next s
  else
    let l := s.pl.sent
    let s := cntAdd { s with pl := { s.pl with sentAt := s.now, owed := 0 } } (blkPL.reg 0x068) l.length
    .next (l.foldl (fun t d => sendOut t { d with ack := t.pl.rxAck }) s)

/-- The body of an EVENT message. -/
def eventBody (e : Event) : List Byte :=
  natToBytes 2 e.cls ++ natToBytes 2 e.lost.toNat ++ natToBytes 4 0 ++ natToBytes 8 e.time.toNat ++ natToBytes 32 e.data.toNat

/-- Mark the first event that has not been sent in this session. -/
def markFirstSent : List Event → List Event
  | [] => []
  | e :: r => if e.sent then e :: markFirstSent r else { e with sent := true, told := true } :: r

/-- EVENT_SEND: the next queued event goes to the host of the open session. -/
def execEventSend (s : State) : Result :=
  if !pilotOn s || !s.pl.opened || !keepRoom s then .next s
  else match s.events.find? fun e => !e.sent with
    | none => .next s
    | some e =>
      let s := if e.told then s else cntAdd s (blkPL.reg 0x070) 1
      .next (pilotSend { s with events := markFirstSent s.events } [{ ty := 0x90, flags := 0, tag := 0, addr := 0, body := eventBody e }])

/-! ## Ports (R363, R365) -/

def setPort (s : State) (p : Fin 2) (up : Bool) : State :=
  { s with pl := if p = 0 then { s.pl with link0 := up } else { s.pl with link1 := up } }

/-- ETHERNET_LINK_DOWN. -/
def execEthernetLinkDown (port : Fin 2) (s : State) : Result := .next (setPort s port false)

/-- ETHERNET_LINK_UP. -/
def execEthernetLinkUp (port : Fin 2) (s : State) : Result := .next (if hubUp s then setPort s port true else s)

end Sys2Proof.Machine
end

