-- ==== Sys2Proof/Machine/Scalar.lean ====
section
/-! DEFINITION. The integer and FP32 instructions of slot 0 (R97). -/

namespace Sys2Proof.Machine

/-- A slot-0 instruction that writes sD with a value of the registers (R87, R95). -/
def intOp (c : CoreId) (i : Instr) (d : Reg) (f : CoreSt → Dword) (s : State) : Result :=
  .next (slotPure c 0 i (fun _ k => [.sreg d (f k) (srcPoison k i)]) s)

/-- 1 or 0. -/
def flag (b : Bool) : Dword := if b then 1 else 0

/-- zext(IMM). -/
def zextImm (i : Word) : Dword := i.setWidth 64

/-- The shift count of a register: its bits [5:0]. -/
def shiftCount (x : Dword) : Nat := (field x 0 6).toNat

def execNop (c : CoreId) (slot : Fin 2) (s : State) : Result := .next (slotPure c slot.val (.nop c slot) (fun _ _ => []) s)

def execAdd (c : CoreId) (d a b : Reg) (s : State) : Result := intOp c (.add c d a b) d (fun k => k.s a + k.s b) s
def execSub (c : CoreId) (d a b : Reg) (s : State) : Result := intOp c (.sub c d a b) d (fun k => k.s a - k.s b) s
def execAnd (c : CoreId) (d a b : Reg) (s : State) : Result := intOp c (.and c d a b) d (fun k => k.s a &&& k.s b) s
def execOr (c : CoreId) (d a b : Reg) (s : State) : Result := intOp c (.or c d a b) d (fun k => k.s a ||| k.s b) s
def execXor (c : CoreId) (d a b : Reg) (s : State) : Result := intOp c (.xor c d a b) d (fun k => k.s a ^^^ k.s b) s
def execShl (c : CoreId) (d a b : Reg) (s : State) : Result :=
  intOp c (.shl c d a b) d (fun k => k.s a <<< shiftCount (k.s b)) s
def execShr (c : CoreId) (d a b : Reg) (s : State) : Result :=
  intOp c (.shr c d a b) d (fun k => k.s a >>> shiftCount (k.s b)) s
def execSar (c : CoreId) (d a b : Reg) (s : State) : Result :=
  intOp c (.sar c d a b) d (fun k => (k.s a).sshiftRight (shiftCount (k.s b))) s
/-- The low 64 bits of the product. -/
def execMul (c : CoreId) (d a b : Reg) (s : State) : Result := intOp c (.mul c d a b) d (fun k => k.s a * k.s b) s
def execCmpeq (c : CoreId) (d a b : Reg) (s : State) : Result :=
  intOp c (.cmpeq c d a b) d (fun k => flag (k.s a == k.s b)) s
def execCmplt (c : CoreId) (d a b : Reg) (s : State) : Result :=
  intOp c (.cmplt c d a b) d (fun k => flag ((k.s a).slt (k.s b))) s
def execCmpltu (c : CoreId) (d a b : Reg) (s : State) : Result :=
  intOp c (.cmpltu c d a b) d (fun k => flag ((k.s a).ult (k.s b))) s

def execAddi (c : CoreId) (d a : Reg) (imm : Word) (s : State) : Result :=
  intOp c (.addi c d a imm) d (fun k => k.s a + sextImm imm) s
def execAndi (c : CoreId) (d a : Reg) (imm : Word) (s : State) : Result :=
  intOp c (.andi c d a imm) d (fun k => k.s a &&& zextImm imm) s
def execOri (c : CoreId) (d a : Reg) (imm : Word) (s : State) : Result :=
  intOp c (.ori c d a imm) d (fun k => k.s a ||| zextImm imm) s
def execXori (c : CoreId) (d a : Reg) (imm : Word) (s : State) : Result :=
  intOp c (.xori c d a imm) d (fun k => k.s a ^^^ zextImm imm) s
def execShli (c : CoreId) (d a : Reg) (imm : Word) (s : State) : Result :=
  intOp c (.shli c d a imm) d (fun k => k.s a <<< (field imm 0 6).toNat) s
def execShri (c : CoreId) (d a : Reg) (imm : Word) (s : State) : Result :=
  intOp c (.shri c d a imm) d (fun k => k.s a >>> (field imm 0 6).toNat) s
def execSari (c : CoreId) (d a : Reg) (imm : Word) (s : State) : Result :=
  intOp c (.sari c d a imm) d (fun k => (k.s a).sshiftRight (field imm 0 6).toNat) s
/-- The low half of sA below the immediate. -/
def execInsh (c : CoreId) (d a : Reg) (imm : Word) (s : State) : Result :=
  intOp c (.insh c d a imm) d (fun k => imm ++ (k.s a).setWidth 32) s
def execCmpeqi (c : CoreId) (d a : Reg) (imm : Word) (s : State) : Result :=
  intOp c (.cmpeqi c d a imm) d (fun k => flag (k.s a == sextImm imm)) s
def execCmplti (c : CoreId) (d a : Reg) (imm : Word) (s : State) : Result :=
  intOp c (.cmplti c d a imm) d (fun k => flag ((k.s a).slt (sextImm imm))) s

/-! ## Scalar FP32: bits [31:0] of the sources; bits [63:32] of the destination are cleared -/

/-- The FP32 value of an s register. -/
def CoreSt.f (k : CoreSt) (r : Reg) : FV := f32 ((k.s r).setWidth 32)

/-- A slot-0 FP32 instruction: an exact value of the registers, rounded once. `fin` says that every operand is finite. -/
def fpOp (c : CoreId) (i : Instr) (d : Reg) (f : CoreSt → FV) (fin : CoreSt → Bool) (s : State) : Result :=
  .next (slotPure c 0 i (fun _ k =>
    let r := elemCode fmtFP32 (fin k) (f k)
    .sreg d (BitVec.ofNat 64 r.1) (srcPoison k i) :: numWrites r.2) s)

def finite2 (a b : Reg) (k : CoreSt) : Bool := (k.f a).isFinite && (k.f b).isFinite

def execFadd (c : CoreId) (d a b : Reg) (s : State) : Result :=
  fpOp c (.fadd c d a b) d (fun k => (k.f a).add (k.f b)) (finite2 a b) s
def execFsub (c : CoreId) (d a b : Reg) (s : State) : Result :=
  fpOp c (.fsub c d a b) d (fun k => (k.f a).add (k.f b).neg) (finite2 a b) s
def execFmul (c : CoreId) (d a b : Reg) (s : State) : Result :=
  fpOp c (.fmul c d a b) d (fun k => (k.f a).mul (k.f b)) (finite2 a b) s
def execFma (c : CoreId) (d a b : Reg) (s : State) : Result :=
  fpOp c (.fma c d a b) d (fun k => (k.f a).fma (k.f b) (k.f d)) (fun k => finite2 a b k && (k.f d).isFinite) s
def execFmin (c : CoreId) (d a b : Reg) (s : State) : Result :=
  fpOp c (.fmin c d a b) d (fun k => (k.f a).min (k.f b)) (finite2 a b) s
def execFmax (c : CoreId) (d a b : Reg) (s : State) : Result :=
  fpOp c (.fmax c d a b) d (fun k => (k.f a).max (k.f b)) (finite2 a b) s
def execFcmplt (c : CoreId) (d a b : Reg) (s : State) : Result :=
  intOp c (.fcmplt c d a b) d (fun k => flag ((k.f a).lt (k.f b))) s
def execIcvtf (c : CoreId) (d a : Reg) (s : State) : Result :=
  fpOp c (.icvtf c d a) d (fun k => FV.ofInt (k.s a).toInt) (fun _ => true) s
/-- Saturation and a NaN's 0 are counted (R52, R53). -/
def execFcvti (c : CoreId) (d a : Reg) (s : State) : Result :=
  .next (slotPure c 0 (.fcvti c d a) (fun _ k =>
    let r := toSInt 64 (k.f a)
    .sreg d r.1 (srcPoison k (.fcvti c d a)) :: numWrites r.2) s)

end Sys2Proof.Machine
end

