-- ==== Sys2Proof/Machine/Scan.lean ====
section
/-! DEFINITION. The boundary-scan chain and the management port's address (R497, R500–R502). -/

namespace Sys2Proof.Machine

/-! ## The chain -/

/-- The type of a die of the chain, from TDI: H, Q0–Q5, C0–C11, OE0–OE7, LS0–LS7 (R500). -/
def chainType (die : Nat) : Nat :=
  if die = 0 then 0 else if die < 7 then 1 else if die < 19 then 2 else if die < 27 then 3 else 4

/-- The code of BYPASS. -/
def irBypass : Nat := 0xFF

/-- An instruction register holds a code, and has captured a word. -/
def loadIr (s : State) (die code capture : Nat) : State :=
  { s with jtag := { s.jtag with ir := tset s.jtag.ir die code 1, capture := tset s.jtag.capture die capture 1 } }

/-- What a die shifts out. -/
def shiftOut (s : State) (die : Nat) (v : BitVec 68) : State := s.emit (.jtag die v)

/-- A non-intrusive instruction, which never disturbs service. -/
def scanQuiet (s : State) (die code : Nat) (f : State → State) : Result :=
  if s.pw.rails then .next (f (loadIr s die code 1)) else .next s

/-- HM_STATE admits an intrusive instruction (R502). -/
def scanAdmits (s : State) : Bool := s.hm.st == .empty || s.hm.st == .stopped || s.hm.st == .failed

/-- An intrusive instruction: accepted, it stops every functional clock; otherwise it acts as BYPASS. -/
def intrusive (s : State) (die code : Nat) (f : State → State) : Result :=
  if !s.pw.rails || !(hubUp s || s.pw.mode == .scan) then .next s
  else if !scanAdmits s then .next (loadIr s die irBypass 5)
  else
    let s := { s with pw := { s.pw with mode := .scan } }
    .next (f (loadIr { s with jtag := { s.jtag with stopped := true } } die code 1))

/-- The word of IDCODE. -/
def idcodeWord (die : Nat) : BitVec 68 := fields 68 [(1, 1), (11, Config.maker.toNat), (16, 0x4810 + chainType die), (4, 1)]

/-- IDCODE. -/
def execIdcode (die : Fin 35) (s : State) : Result := scanQuiet s die.val 0x01 fun t => shiftOut t die.val (idcodeWord die.val)

/-- SAMPLE/PRELOAD: what the pins show is shifted out, and the boundary cells take their values. -/
def execSamplePreload (die : Fin 35) (cells : Dword) (s : State) : Result :=
  scanQuiet s die.val 0x02 fun t =>
    let u := shiftOut t.takeFree die.val (BitVec.ofNat 68 t.free)
    { u with jtag := { u.jtag with cells := tset u.jtag.cells die.val cells 0 } }

/-- EXTEST: the boundary cells drive the pins. -/
def execExtest (die : Fin 35) (s : State) : Result := intrusive s die.val 0x03 id

/-- CLAMP. -/
def execClamp (die : Fin 35) (s : State) : Result := intrusive s die.val 0x04 id

/-- HIGHZ. -/
def execHighz (die : Fin 35) (s : State) : Result := intrusive s die.val 0x05 id

/-- D2D_TEST: the wires that fail are kept for D2D_RESULT. -/
def execD2dTest (die : Fin 35) (failing : BitVec 68) (s : State) : Result :=
  intrusive s die.val 0x10 fun t => { t with jtag := { t.jtag with results := tset t.jtag.results die.val failing 0 } }

/-- D2D_RESULT. -/
def execD2dResult (die : Fin 35) (s : State) : Result :=
  scanQuiet s die.val 0x11 fun t => shiftOut t die.val (tget t.jtag.results die.val 0)

/-- BYPASS. -/
def execBypass (die : Fin 35) (s : State) : Result := scanQuiet s die.val irBypass id

/-- TEST_LOGIC_RESET: every TAP is reset; after an intrusive instruction the module makes a hub reset with cause 5. -/
def execTestLogicReset (s : State) : Result :=
  let t := { s with jtag := { s.jtag with ir := [] } }
  .next (if s.jtag.stopped then hubResets t 5 else t)

/-! ## The management port (R497) -/

/-- The static address that SETDASA names. -/
def staticAddress : BitVec 7 := 0x3A

/-- SETDASA: the port takes a dynamic address while it has none. -/
def execSetdasa (static dynamic : BitVec 7) (s : State) : Result :=
  .next (if fed s && static == staticAddress && s.i3c.isNone then { s with i3c := some dynamic } else s)

/-- ENTDAA. -/
def execEntdaa (dynamic : BitVec 7) (s : State) : Result :=
  .next (if fed s && s.i3c.isNone then { s with i3c := some dynamic } else s)

end Sys2Proof.Machine
end

