-- ==== Sys2Proof/Machine/Tug.lean ====
section
/-! DEFINITION. The commands of a tug (R66, R67, R72–R76, R163). -/

namespace Sys2Proof.Machine

/-- A tug's key. -/
def TugId.key (t : TugId) : Nat := tugKey t.die.val t.pier.val t.tug.val

/-- The tug's die runs, so that it acts at all. -/
def tugAlive (s : State) (t : TugId) : Bool := dieState s (slotC t.die.val) == .up

/-- Cores whose TUGP waits for a slot of a tug go on: they execute the TUGP again (R91). -/
def wakePosters (s : State) (t : TugId) : State :=
  let wake (key : Nat) (k : CoreSt) : CoreSt :=
    if key / 17 = pierKey t.die.val t.pier.val ∧ k.run = .waitTug then { k with run := .running } else k
  { s with cores := { s.cores with core := tmap s.cores.core {} wake } }

/-- The set's voyage is ending, so no further descriptor of it is started (R111). -/
def setEnding (s : State) (set : Nat) : Bool := match voyageGet s set with
  | some v => v.ending.isSome
  | none => true

/-- TUG_CHAIN_FETCH: the descriptor has issued its last read, and its NEXT is fetched into the same slot (R72). -/
def execTugChainFetch (t : TugId) (s : State) : Result :=
  match headSlot s (TugId.key t) with
  | none => .next s
  | some x =>
    if tugAlive s t && x.started && decide (dTotal x.desc ≤ x.issued ∧ dNext x.desc ≠ 0) then
      if setEnding s x.set then .next (toPend s (TugId.key t) x true)
      else
        let s := toPend s (TugId.key t) x false
        let r := fetchDesc s (dNext x.desc)
        let y : TugSlot := { core := x.core, loc := x.loc, set := x.set, voyage := x.voyage, desc := r.2.1, poisoned := r.2.2,
                             serial := (tugGet r.1 (TugId.key t)).serial }
        .next (tugMod r.1 (TugId.key t) fun u => { u with slots := y :: u.slots, serial := u.serial + 1 })
    else .next s

/-- The WAIT of a descriptor is satisfied now or has been (R74, R138). -/
def waitMet (s : State) (x : TugSlot) : Bool :=
  x.waited || dget x.desc 0x24 14 1 == 0 || atLeast (bollGet s (dget x.desc 0x24 0 14)) (field x.desc (8 * 0x28) 32)

/-- TUG_DESCRIPTOR_START: the head descriptor is checked, waits for its bollard in the tug's watch slot, and starts;
sides with plain addresses then move all their runs (R73, R76). -/
def execTugDescriptorStart (t : TugId) (s : State) : Result :=
  match headSlot s (TugId.key t) with
  | none => .next s
  | some x =>
    if x.started || !tugAlive s t then .next s
    else
      let c := if x.waited then 0 else descCode s x.core x.desc x.poisoned
      if c != 0 then
        .next (tugFault (tugMod s (TugId.key t) fun u => { u with slots := u.slots.tail }) (TugId.key t) x.core x.loc x.set x.desc c 0)
      else if !waitMet s x then
        .next (if (watchGet s (.tug t)).isSome || !reachHome s (t.die.val / 2, false) (.hub 0) then s
          else watchSet s (.tug t) (some { boll := dget x.desc 0x24 0 14, target := field x.desc (8 * 0x28) 32 }))
      else
        let s := watchSet s (.tug t) none
        let s := readsDone s (TugId.key t) { x with started := true }
        .next (pumpRuns s (TugId.key t) (dTotal x.desc))

/-- A side of the head slot takes its translation. -/
def setSide (x : TugSlot) (dst : Bool) (r : TugRun) : TugSlot := if dst then { x with dst := some r } else { x with src := some r }

/-- Look up each berth side that has no translation yet; a miss stops at its entry. -/
def lookSides (s : State) (key : Nat) (x : TugSlot) : List Side → State × TugSlot
  | [] => (s, x)
  | y :: r =>
    if !y.berth || (if y.dst then x.dst else x.src).isSome then lookSides s key x r
    else
      match lookup s key x.set y with
      | (t, some run) => lookSides t key (setSide x y.dst run) r
      | (t, none) => (t, { x with miss := some y.index })

/-- Parcels of a run that a tug has translated are still to be written through a berth entry. -/
def runOut (s : State) (key : Nat) : Bool := s.trans.reads.any fun r => r.berth.isSome && (match r.owner with
  | .tug k _ => k == key
  | _ => false)

/-- TUG_RUN_TRANSLATE: one run of the head descriptor is translated, once the run before it has been performed, so that an
invalidation waits for one run of each tug (R67); it moves when every side is translated. -/
def execTugRunTranslate (t : TugId) (s : State) : Result :=
  match headSlot s (TugId.key t) with
  | none => .next s
  | some x =>
    if tugAlive s t && x.started && decide (x.issued < dTotal x.desc) && x.miss.isNone && !runOut s (TugId.key t) then
      let r := lookSides s (TugId.key t) x (sides s x.desc)
      if r.2.miss.isSome then .next (setHead r.1 (TugId.key t) r.2) else .next (runGo r.1 (TugId.key t) r.2)
    else .next s

/-- TRANSLATION_MISS_FETCH: the entry comes from the hub's table into the pier's cache, and the run takes it (R66). -/
def execTranslationMissFetch (t : TugId) (s : State) : Result :=
  match headSlot s (TugId.key t) with
  | none => .next s
  | some x =>
    match x.miss with
    | none => .next s
    | some i =>
      if tugAlive s t && reachHome s (t.die.val / 2, false) (.hub 0) then
        let e := berthGet s i
        let s := cntAdd s (blkBT.reg 0x038) 1
        let pk := TugId.key t / 2
        let s := pierSet s pk { pierGet s pk with cache := ((i, e) :: (pierGet s pk).cache.filter fun y => y.1 != i).take cacheSize }
        let y := (sides s x.desc).find? fun y => y.berth && y.index == i && (if y.dst then x.dst else x.src).isNone
        let x := { x with miss := none }
        let x := match y with
          | some y => setSide x y.dst (translate e y.gen s.berth.epoch)
          | none => x
        .next (if translated s x then runGo s (TugId.key t) x else setHead s (TugId.key t) x)
      else .next s

/-- TUG_DONE: the first descriptor whose DONE is awaited signals it once its last parcel is written or reported (R73). -/
def execTugDone (t : TugId) (s : State) : Result :=
  let u := tugGet s (TugId.key t)
  match u.pend with
  | [] => .next s
  | p :: rest =>
    if tget u.waits p.serial 0 != 0 || !reachHome s (t.die.val / 2, false) (.hub 0) then .next s
    else
      let s := finishPart (tugMod s (TugId.key t) fun u => { u with pend := rest }) (TugId.key t)
      let s := cntAdd s ((tgBlk (TugId.key t)).reg 0x028) 1
      let done := dDone p.desc
      let s := if done / 2 ^ 19 % 2 = 1 then
          bollSignal s (done / 2 ^ 18 % 2 == 1) (done / 2 ^ 14 % 16) (done % 2 ^ 14) (dDoneAdd p.desc)
        else s
      .next (if p.last then wakePosters s t else s)

end Sys2Proof.Machine
end

