-- ==== Sys2Proof/Machine/Dispatch.lean ====
section
/-! DEFINITION. One arm per command of the opcode table. -/

namespace Sys2Proof.Machine

/-- The effect of a command on everything but the queue. -/
def exec (i : Instr) (s : State) : Host.Outcome State Fault Refusal :=
  match i with
  | .instructionFetch c upset => Sys2Proof.Machine.execInstructionFetch c upset s
  | .nop c slot => Sys2Proof.Machine.execNop c slot s
  | .add c d a b => Sys2Proof.Machine.execAdd c d a b s
  | .sub c d a b => Sys2Proof.Machine.execSub c d a b s
  | .and c d a b => Sys2Proof.Machine.execAnd c d a b s
  | .or c d a b => Sys2Proof.Machine.execOr c d a b s
  | .xor c d a b => Sys2Proof.Machine.execXor c d a b s
  | .shl c d a b => Sys2Proof.Machine.execShl c d a b s
  | .shr c d a b => Sys2Proof.Machine.execShr c d a b s
  | .sar c d a b => Sys2Proof.Machine.execSar c d a b s
  | .mul c d a b => Sys2Proof.Machine.execMul c d a b s
  | .cmpeq c d a b => Sys2Proof.Machine.execCmpeq c d a b s
  | .cmplt c d a b => Sys2Proof.Machine.execCmplt c d a b s
  | .cmpltu c d a b => Sys2Proof.Machine.execCmpltu c d a b s
  | .addi c d a imm => Sys2Proof.Machine.execAddi c d a imm s
  | .andi c d a imm => Sys2Proof.Machine.execAndi c d a imm s
  | .ori c d a imm => Sys2Proof.Machine.execOri c d a imm s
  | .xori c d a imm => Sys2Proof.Machine.execXori c d a imm s
  | .shli c d a imm => Sys2Proof.Machine.execShli c d a imm s
  | .shri c d a imm => Sys2Proof.Machine.execShri c d a imm s
  | .sari c d a imm => Sys2Proof.Machine.execSari c d a imm s
  | .insh c d a imm => Sys2Proof.Machine.execInsh c d a imm s
  | .cmpeqi c d a imm => Sys2Proof.Machine.execCmpeqi c d a imm s
  | .cmplti c d a imm => Sys2Proof.Machine.execCmplti c d a imm s
  | .fadd c d a b => Sys2Proof.Machine.execFadd c d a b s
  | .fsub c d a b => Sys2Proof.Machine.execFsub c d a b s
  | .fmul c d a b => Sys2Proof.Machine.execFmul c d a b s
  | .fma c d a b => Sys2Proof.Machine.execFma c d a b s
  | .fmin c d a b => Sys2Proof.Machine.execFmin c d a b s
  | .fmax c d a b => Sys2Proof.Machine.execFmax c d a b s
  | .fcmplt c d a b => Sys2Proof.Machine.execFcmplt c d a b s
  | .icvtf c d a => Sys2Proof.Machine.execIcvtf c d a s
  | .fcvti c d a => Sys2Proof.Machine.execFcvti c d a s
  | .beq c a b imm => Sys2Proof.Machine.execBeq c a b imm s
  | .bne c a b imm => Sys2Proof.Machine.execBne c a b imm s
  | .blt c a b imm => Sys2Proof.Machine.execBlt c a b imm s
  | .bltu c a b imm => Sys2Proof.Machine.execBltu c a b imm s
  | .jmp c imm => Sys2Proof.Machine.execJmp c imm s
  | .jal c d imm => Sys2Proof.Machine.execJal c d imm s
  | .jr c a => Sys2Proof.Machine.execJr c a s
  | .endVoyage c => Sys2Proof.Machine.execEndVoyage c s
  | .endRetire c => Sys2Proof.Machine.execEndRetire c s
  | .tide c d => Sys2Proof.Machine.execTide c d s
  | .csrr c d imm => Sys2Proof.Machine.execCsrr c d imm s
  | .ld c d a imm => Sys2Proof.Machine.execLd c d a imm s
  | .lw c d a imm => Sys2Proof.Machine.execLw c d a imm s
  | .sd c a b imm => Sys2Proof.Machine.execSd c a b imm s
  | .sw c a b imm => Sys2Proof.Machine.execSw c a b imm s
  | .bsig c a b imm => Sys2Proof.Machine.execBsig c a b imm s
  | .bwait c a b imm => Sys2Proof.Machine.execBwait c a b imm s
  | .bread c d a imm => Sys2Proof.Machine.execBread c d a imm s
  | .tugp c a m => Sys2Proof.Machine.execTugp c a m s
  | .vld c d a imm => Sys2Proof.Machine.execVld c d a imm s
  | .vst c d a imm => Sys2Proof.Machine.execVst c d a imm s
  | .vbcast c d a fa => Sys2Proof.Machine.execVbcast c d a fa s
  | .vmovs c d a fa imm => Sys2Proof.Machine.execVmovs c d a fa imm s
  | .vmov c d a => Sys2Proof.Machine.execVmov c d a s
  | .vshuf c d a b fa => Sys2Proof.Machine.execVshuf c d a b fa s
  | .vadd c d a b fa => Sys2Proof.Machine.execVadd c d a b fa s
  | .vsub c d a b fa => Sys2Proof.Machine.execVsub c d a b fa s
  | .vmul c d a b fa => Sys2Proof.Machine.execVmul c d a b fa s
  | .vfma c d a b fa => Sys2Proof.Machine.execVfma c d a b fa s
  | .vmin c d a b fa => Sys2Proof.Machine.execVmin c d a b fa s
  | .vmax c d a b fa => Sys2Proof.Machine.execVmax c d a b fa s
  | .vscl c d a b fa => Sys2Proof.Machine.execVscl c d a b fa s
  | .vrcp c d a fa => Sys2Proof.Machine.execVrcp c d a fa s
  | .vrsq c d a fa => Sys2Proof.Machine.execVrsq c d a fa s
  | .vexp2 c d a fa => Sys2Proof.Machine.execVexp2 c d a fa s
  | .vlog2 c d a fa => Sys2Proof.Machine.execVlog2 c d a fa s
  | .vtanh c d a fa => Sys2Proof.Machine.execVtanh c d a fa s
  | .vrsum c d a fa => Sys2Proof.Machine.execVrsum c d a fa s
  | .vrmax c d a fa => Sys2Proof.Machine.execVrmax c d a fa s
  | .vargmax c d a fa => Sys2Proof.Machine.execVargmax c d a fa s
  | .vcvt c d a fa fb m => Sys2Proof.Machine.execVcvt c d a fa fb m s
  | .vpk4 c d a b m => Sys2Proof.Machine.execVpk4 c d a b m s
  | .vup4 c d a b m => Sys2Proof.Machine.execVup4 c d a b m s
  | .wld c a b fb m => Sys2Proof.Machine.execWld c a b fb m s
  | .weightLoadStart c => Sys2Proof.Machine.execWeightLoadStart c s
  | .mma c d a b fa fb m imm => Sys2Proof.Machine.execMma c d a b fa fb m imm s
  | .arrayPassStart c waited upset => Sys2Proof.Machine.execArrayPassStart c waited upset s
  | .accumulatorComplete c acc => Sys2Proof.Machine.execAccumulatorComplete c acc s
  | .amov c d a imm => Sys2Proof.Machine.execAmov c d a imm s
  | .vamov c d a imm => Sys2Proof.Machine.execVamov c d a imm s
  | .coreWatchdog c => Sys2Proof.Machine.execCoreWatchdog c s
  | .voyageFaultEnd set => Sys2Proof.Machine.execVoyageFaultEnd set s
  | .selfTestSlice die pier passed => Sys2Proof.Machine.execSelfTestSlice die pier passed s
  | .tugChainFetch t => Sys2Proof.Machine.execTugChainFetch t s
  | .tugDescriptorStart t => Sys2Proof.Machine.execTugDescriptorStart t s
  | .tugRunTranslate t => Sys2Proof.Machine.execTugRunTranslate t s
  | .translationMissFetch t => Sys2Proof.Machine.execTranslationMissFetch t s
  | .tugDone t => Sys2Proof.Machine.execTugDone t s
  | .armLaunch => Sys2Proof.Machine.execArmLaunch s
  | .launchFire index => Sys2Proof.Machine.execLaunchFire index s
  | .loadStepForecast index => Sys2Proof.Machine.execLoadStepForecast index s
  | .voyageComplete set => Sys2Proof.Machine.execVoyageComplete set s
  | .tdCancel value => Sys2Proof.Machine.execTdCancel value s
  | .beaconCheckMark slot => Sys2Proof.Machine.execBeaconCheckMark slot s
  | .tideBeaconLost slot net => Sys2Proof.Machine.execTideBeaconLost slot net s
  | .timeExchangeRequest => Sys2Proof.Machine.execTimeExchangeRequest s
  | .timeParcelReceive l h payload check => Sys2Proof.Machine.execTimeParcelReceive l h payload check s
  | .tideHoldover => Sys2Proof.Machine.execTideHoldover s
  | .holdoverLong => Sys2Proof.Machine.execHoldoverLong s
  | .tideMarkOutput => Sys2Proof.Machine.execTideMarkOutput s
  | .tideMarkInput => Sys2Proof.Machine.execTideMarkInput s
  | .bollardRelease w => Sys2Proof.Machine.execBollardRelease w s
  | .blHostAdd value => Sys2Proof.Machine.execBlHostAdd value s
  | .blValue b value collides => Sys2Proof.Machine.execBlValue b value collides s
  | .slackWindow => Sys2Proof.Machine.execSlackWindow s
  | .forcedSlack => Sys2Proof.Machine.execForcedSlack s
  | .forcedSlackEnd => Sys2Proof.Machine.execForcedSlackEnd s
  | .hbmTempSample m temp => Sys2Proof.Machine.execHbmTempSample m temp s
  | .hbmRead m parcel source upset odeCorrected => Sys2Proof.Machine.execHbmRead m parcel source upset odeCorrected s
  | .hbmWrite m parcel source data check poison => Sys2Proof.Machine.execHbmWrite m parcel source data check poison s
  | .dredgeRegion m => Sys2Proof.Machine.execDredgeRegion m s
  | .scrubRead t word side => Sys2Proof.Machine.execScrubRead t word side s
  | .ceSampleRecord t => Sys2Proof.Machine.execCeSampleRecord t s
  | .btCommit value => Sys2Proof.Machine.execBtCommit value s
  | .btSweep value => Sys2Proof.Machine.execBtSweep value s
  | .berthInvalidate die pier => Sys2Proof.Machine.execBerthInvalidate die pier s
  | .elConsume value => Sys2Proof.Machine.execElConsume value s
  | .retirePage m value => Sys2Proof.Machine.execRetirePage m value s
  | .retireClear m value => Sys2Proof.Machine.execRetireClear m value s
  | .scSpareReq q value => Sys2Proof.Machine.execScSpareReq q value s
  | .mcFlip m value => Sys2Proof.Machine.execMcFlip m value s
  | .scSramFlip slot value => Sys2Proof.Machine.execScSramFlip slot value s
  | .stop value => Sys2Proof.Machine.execStop value s
  | .stopDone => Sys2Proof.Machine.execStopDone s
  | .load value => Sys2Proof.Machine.execLoad value s
  | .loadVerifyDone => Sys2Proof.Machine.execLoadVerifyDone s
  | .loadDistributionDone => Sys2Proof.Machine.execLoadDistributionDone s
  | .loadFailed slot => Sys2Proof.Machine.execLoadFailed slot s
  | .run value => Sys2Proof.Machine.execRun value s
  | .hmCmdInvalid value => Sys2Proof.Machine.execHmCmdInvalid value s
  | .laneFatal l found => Sys2Proof.Machine.execLaneFatal l found s
  | .laneReberthed l lane train => Sys2Proof.Machine.execLaneReberthed l lane train s
  | .reberthTimeout l lane => Sys2Proof.Machine.execReberthTimeout l lane s
  | .notice l lane reason expect round => Sys2Proof.Machine.execNotice l lane reason expect round s
  | .mark l action lane epoch round width => Sys2Proof.Machine.execMark l action lane epoch round width s
  | .retireNoticeRepeat l lane => Sys2Proof.Machine.execRetireNoticeRepeat l lane s
  | .replayRequestResend l => Sys2Proof.Machine.execReplayRequestResend l s
  | .ca l vc ack credit => Sys2Proof.Machine.execCa l vc ack credit s
  | .parcelSend l => Sys2Proof.Machine.execParcelSend l s
  | .write l h payload check => Sys2Proof.Machine.execWrite l h payload check s
  | .readReq l h payload check => Sys2Proof.Machine.execReadReq l h payload check s
  | .readData l h payload check => Sys2Proof.Machine.execReadData l h payload check s
  | .resp l h payload check => Sys2Proof.Machine.execResp l h payload check s
  | .bollard l h payload check => Sys2Proof.Machine.execBollard l h payload check s
  | .ackTimeout l => Sys2Proof.Machine.execAckTimeout l s
  | .hello l h payload check strays => Sys2Proof.Machine.execHello l h payload check strays s
  | .widthReq l h payload check => Sys2Proof.Machine.execWidthReq l h payload check s
  | .retrainReq l h payload check => Sys2Proof.Machine.execRetrainReq l h payload check s
  | .accept l h payload check => Sys2Proof.Machine.execAccept l h payload check s
  | .refuse l h payload check => Sys2Proof.Machine.execRefuse l h payload check s
  | .laneOut l e => Sys2Proof.Machine.execLaneOut l e s
  | .qlWidthReq l value => Sys2Proof.Machine.execQlWidthReq l value s
  | .qlRetrain l value => Sys2Proof.Machine.execQlRetrain l value s
  | .retrainDone l expect => Sys2Proof.Machine.execRetrainDone l expect s
  | .qlScuttle l value reachesUp => Sys2Proof.Machine.execQlScuttle l value reachesUp s
  | .linkSilentTimeout l => Sys2Proof.Machine.execLinkSilentTimeout l s
  | .linkTrainRetry l => Sys2Proof.Machine.execLinkTrainRetry l s
  | .pairReroute a b => Sys2Proof.Machine.execPairReroute a b s
  | .pairReturn a b => Sys2Proof.Machine.execPairReturn a b s
  | .clockMonitorReset slot => Sys2Proof.Machine.execClockMonitorReset slot s
  | .diePresenceTimeout slot => Sys2Proof.Machine.execDiePresenceTimeout slot s
  | .dieLost slot cause => Sys2Proof.Machine.execDieLost slot cause s
  | .dieResetRelease slot straps => Sys2Proof.Machine.execDieResetRelease slot straps s
  | .dieRejoinUp slot bist => Sys2Proof.Machine.execDieRejoinUp slot bist s
  | .quarantine value => Sys2Proof.Machine.execQuarantine value s
  | .release value clocksBad => Sys2Proof.Machine.execRelease value clocksBad s
  | .hmDieCmdInvalid value => Sys2Proof.Machine.execHmDieCmdInvalid value s
  | .guestParcelIn h payload check => Sys2Proof.Machine.execGuestParcelIn h payload check s
  | .gfQuarSet value => Sys2Proof.Machine.execGfQuarSet value s
  | .gfQuarClr value => Sys2Proof.Machine.execGfQuarClr value s
  | .guestPortDown => Sys2Proof.Machine.execGuestPortDown s
  | .guestPortUp rate => Sys2Proof.Machine.execGuestPortUp rate s
  | .receivePlaceSteer n place dev engine lane => Sys2Proof.Machine.execReceivePlaceSteer n place dev engine lane s
  | .placeMove n lane ring => Sys2Proof.Machine.execPlaceMove n lane ring s
  | .placeMoveDone n lane => Sys2Proof.Machine.execPlaceMoveDone n lane s
  | .oeHomeTest n value bad delays => Sys2Proof.Machine.execOeHomeTest n value bad delays s
  | .ringSweepDone n ring found => Sys2Proof.Machine.execRingSweepDone n ring found s
  | .ringSweepRetry n ring => Sys2Proof.Machine.execRingSweepRetry n ring s
  | .ringAcquired n ring code err => Sys2Proof.Machine.execRingAcquired n ring code err s
  | .ringIdentityCheck n ring tones => Sys2Proof.Machine.execRingIdentityCheck n ring tones s
  | .ringPeriodicCheck n ring tones => Sys2Proof.Machine.execRingPeriodicCheck n ring tones s
  | .ringUnlock n ring err code => Sys2Proof.Machine.execRingUnlock n ring err code s
  | .ringLightLoss n place => Sys2Proof.Machine.execRingLightLoss n place s
  | .ringLightReturn n place power => Sys2Proof.Machine.execRingLightReturn n place power s
  | .ringDarkTimeout n place => Sys2Proof.Machine.execRingDarkTimeout n place s
  | .forecastReceive n fire => Sys2Proof.Machine.execForecastReceive n fire s
  | .oeWbCmd n value => Sys2Proof.Machine.execOeWbCmd n value s
  | .weightBankReadingDone n sum abandoned => Sys2Proof.Machine.execWeightBankReadingDone n sum abandoned s
  | .oeLockerrMax n value collides => Sys2Proof.Machine.execOeLockerrMax n value collides s
  | .standbyDiverge n line ferr power => Sys2Proof.Machine.execStandbyDiverge n line ferr power s
  | .laserBiasThreshold n side bias => Sys2Proof.Machine.execLaserBiasThreshold n side bias s
  | .lsSwCmd n value => Sys2Proof.Machine.execLsSwCmd n value s
  | .scheduledSwitchover n dark => Sys2Proof.Machine.execScheduledSwitchover n dark s
  | .switchoverForced n dark stall => Sys2Proof.Machine.execSwitchoverForced n dark stall s
  | .unscheduledSwitchover n dark => Sys2Proof.Machine.execUnscheduledSwitchover n dark s
  | .calibrationStep => Sys2Proof.Machine.execCalibrationStep s
  | .rxPowerLow n place power => Sys2Proof.Machine.execRxPowerLow n place power s
  | .calRecordWrite ty slot written values => Sys2Proof.Machine.execCalRecordWrite ty slot written values s
  | .arpRequest port ip => Sys2Proof.Machine.execArpRequest port ip s
  | .neighborSolicitation port ip => Sys2Proof.Machine.execNeighborSolicitation port ip s
  | .ptpEventMessage port transmitted domain sequenceId => Sys2Proof.Machine.execPtpEventMessage port transmitted domain sequenceId s
  | .pilotDatagram port frame d => Sys2Proof.Machine.execPilotDatagram port frame d s
  | .pilotRelay port frame d => Sys2Proof.Machine.execPilotRelay port frame d s
  | .pilot l h payload check => Sys2Proof.Machine.execPilot l h payload check s
  | .openSession port frame seq tag => Sys2Proof.Machine.execOpenSession port frame seq tag s
  | .regWrite tag addr poll words => Sys2Proof.Machine.execRegWrite tag addr poll words s
  | .regRead tag addr count => Sys2Proof.Machine.execRegRead tag addr count s
  | .memWrite tag addr data => Sys2Proof.Machine.execMemWrite tag addr data s
  | .memRead tag addr count => Sys2Proof.Machine.execMemRead tag addr count s
  | .tideWrite tag entry => Sys2Proof.Machine.execTideWrite tag entry s
  | .pilotAckSend => Sys2Proof.Machine.execPilotAckSend s
  | .pilotRetransmit => Sys2Proof.Machine.execPilotRetransmit s
  | .eventSend => Sys2Proof.Machine.execEventSend s
  | .plTideSlew value => Sys2Proof.Machine.execPlTideSlew value s
  | .slewComplete => Sys2Proof.Machine.execSlewComplete s
  | .heartbeatPathLost beacon half wire => Sys2Proof.Machine.execHeartbeatPathLost beacon half wire s
  | .heartbeatPathRestored beacon half wire => Sys2Proof.Machine.execHeartbeatPathRestored beacon half wire s
  | .partnerFailed beacon half gap => Sys2Proof.Machine.execPartnerFailed beacon half gap s
  | .halfDivergence group => Sys2Proof.Machine.execHalfDivergence group s
  | .resyncDone half => Sys2Proof.Machine.execResyncDone half s
  | .hmSwCmd value gap => Sys2Proof.Machine.execHmSwCmd value gap s
  | .beaconSwitchover => Sys2Proof.Machine.execBeaconSwitchover s
  | .feedTransfer va vb => Sys2Proof.Machine.execFeedTransfer va vb s
  | .feedReturn va vb micros => Sys2Proof.Machine.execFeedReturn va vb micros s
  | .feedBFault vb => Sys2Proof.Machine.execFeedBFault vb s
  | .brownOut => Sys2Proof.Machine.execBrownOut s
  | .vcoreDroop die => Sys2Proof.Machine.execVcoreDroop die s
  | .railOutOfTolerance rail millivolts => Sys2Proof.Machine.execRailOutOfTolerance rail millivolts s
  | .converterFault k => Sys2Proof.Machine.execConverterFault k s
  | .regulatorForecastBoost die fire => Sys2Proof.Machine.execRegulatorForecastBoost die fire s
  | .regulatorForecastEnd die => Sys2Proof.Machine.execRegulatorForecastEnd die s
  | .guestPowerCut reason => Sys2Proof.Machine.execGuestPowerCut reason s
  | .pwGuestOn value => Sys2Proof.Machine.execPwGuestOn value s
  | .powerSample watts guest => Sys2Proof.Machine.execPowerSample watts guest s
  | .thermalSample readings => Sys2Proof.Machine.execThermalSample readings s
  | .thermalTrip ch => Sys2Proof.Machine.execThermalTrip ch s
  | .thermalRestart => Sys2Proof.Machine.execThermalRestart s
  | .pwLatchClr value => Sys2Proof.Machine.execPwLatchClr value s
  | .powerOn absent va vb => Sys2Proof.Machine.execPowerOn absent va vb s
  | .hubReset => Sys2Proof.Machine.execHubReset s
  | .resetN lowNanos => Sys2Proof.Machine.execResetN lowNanos s
  | .referenceLost gapNanos => Sys2Proof.Machine.execReferenceLost gapNanos s
  | .startUp b => Sys2Proof.Machine.execStartUp b s
  | .startupTimeout => Sys2Proof.Machine.execStartupTimeout s
  | .v1p8Retry => Sys2Proof.Machine.execV1p8Retry s
  | .recoveryImage image => Sys2Proof.Machine.execRecoveryImage image s
  | .sbSvnCommit value fuseFault cut => Sys2Proof.Machine.execSbSvnCommit value fuseFault cut s
  | .sbWdog value => Sys2Proof.Machine.execSbWdog value s
  | .watchdogExpiry => Sys2Proof.Machine.execWatchdogExpiry s
  | .enrol value interrupted => Sys2Proof.Machine.execEnrol value interrupted s
  | .revoke value => Sys2Proof.Machine.execRevoke value s
  | .decommission value => Sys2Proof.Machine.execDecommission value s
  | .sbInstCmd value => Sys2Proof.Machine.execSbInstCmd value s
  | .lmsTreeBuildDone => Sys2Proof.Machine.execLmsTreeBuildDone s
  | .getVersion t => Sys2Proof.Machine.execGetVersion t s
  | .getCapabilities t rest => Sys2Proof.Machine.execGetCapabilities t rest s
  | .negotiateAlgorithms t rest => Sys2Proof.Machine.execNegotiateAlgorithms t rest s
  | .getDigests t => Sys2Proof.Machine.execGetDigests t s
  | .getCertificate t slot offset length => Sys2Proof.Machine.execGetCertificate t slot offset length s
  | .challenge t slot summary nonce context => Sys2Proof.Machine.execChallenge t slot summary nonce context s
  | .getMeasurements t index signed nonce context => Sys2Proof.Machine.execGetMeasurements t index signed nonce context s
  | .chunkGet t handle chunk => Sys2Proof.Machine.execChunkGet t handle chunk s
  | .getLmsSig t standard vendor logOk => Sys2Proof.Machine.execGetLmsSig t standard vendor logOk s
  | .getLmsChain t standard vendor => Sys2Proof.Machine.execGetLmsChain t standard vendor s
  | .setdasa static dynamic => Sys2Proof.Machine.execSetdasa static dynamic s
  | .entdaa dynamic => Sys2Proof.Machine.execEntdaa dynamic s
  | .blockEnable writer reg => Sys2Proof.Machine.execBlockEnable writer reg s
  | .blockDisable writer reg => Sys2Proof.Machine.execBlockDisable writer reg s
  | .registerWrite writer reg value timing => Sys2Proof.Machine.execRegisterWrite writer reg value timing s
  | .configParityFault reg => Sys2Proof.Machine.execConfigParityFault reg s
  | .idcode die => Sys2Proof.Machine.execIdcode die s
  | .samplePreload die cells => Sys2Proof.Machine.execSamplePreload die cells s
  | .extest die => Sys2Proof.Machine.execExtest die s
  | .clamp die => Sys2Proof.Machine.execClamp die s
  | .highz die => Sys2Proof.Machine.execHighz die s
  | .d2dTest die failing => Sys2Proof.Machine.execD2dTest die failing s
  | .d2dResult die => Sys2Proof.Machine.execD2dResult die s
  | .bypass die => Sys2Proof.Machine.execBypass die s
  | .testLogicReset => Sys2Proof.Machine.execTestLogicReset s
  | .ethernetLinkDown port => Sys2Proof.Machine.execEthernetLinkDown port s
  | .ethernetLinkUp port => Sys2Proof.Machine.execEthernetLinkUp port s
  | .droopRecovered die => Sys2Proof.Machine.execDroopRecovered die s
  | .feedBRestored vb => Sys2Proof.Machine.execFeedBRestored vb s
  | .failedHalfRestart half => Sys2Proof.Machine.execFailedHalfRestart half s

end Sys2Proof.Machine
end

