-- ==== Sys2Proof/Machine/Tick.lean ====
section
/-! DEFINITION. What the module's clocks do while no command waits: one nanosecond. -/

namespace Sys2Proof.Machine

/-- Slews are this far apart, in tide ticks (R116). -/
def slewGap : Nat := 1024

/-- What the hub's tide advances by in this nanosecond: 1, or 2 or 0 where a slew omits a tick or repeats a value. -/
def slewStep (t : TideSt) : Int :=
  if t.slew = 0 ∨ t.hub.toNat < t.lastSlew.toNat + slewGap then 0 else if 0 < t.slew then 1 else -1

/-- A die's correction under way takes one tick (R115, R116). -/
def slewDie (t : TideSt) (d : Nat × Int) : TideSt :=
  let step : Int := if 0 < d.2 then 1 else -1
  { t with
    dieOfs := tset t.dieOfs d.1 (tget t.dieOfs d.1 0 + step) 0
    dieSlew := tset t.dieSlew d.1 (d.2 - step) 0 }

/-- The hub slews by `d`: each running die, which counts by itself, now stands the other way by as much (R115). -/
def shiftDies (s : State) (d : Int) : Tbl Int :=
  if d = 0 then s.tide.dieOfs
  else (List.range 41).foldl (fun m k => if dieState s k == .up then tset m k (tget m k 0 - d) 0 else m) s.tide.dieOfs

/-- The tide counters advance. -/
def tickTide (s : State) : TideSt :=
  let t := s.tide
  let d := slewStep t
  let hub := t.hub + 1 + BitVec.ofInt 64 d
  let t := { t with
    hub := hub, slew := t.slew - d, lastSlew := if d = 0 then t.lastSlew else hub, dieOfs := shiftDies s d
    markOut := t.markOut && decide (hub.toNat % markPeriod < markHigh) }
  let due := match t.dieSlewAt with
    | none => true
    | some x => decide (x + slewGap < s.now)
  if due && !t.dieSlew.isEmpty then t.dieSlew.foldl slewDie { t with dieSlewAt := some s.now } else t

/-- Quiet time within the open span (R144). -/
def tickSlack (s : State) : SlackSt :=
  if !spanOpen s then { s.slack with quiet := 0 }
  else if noVoyage s then { s.slack with quiet := s.slack.quiet + 1 }
  else s.slack

/-- What waits for something that may have come meanwhile: held entries, when a switchover gap ends (R394); parcels whose home or engine
was out of reach, the guest's accesses, messages of the pilot, commands of SB. -/
def retryWaiting (s : State) : State :=
  let s := if s.now = s.red.gapEnd then freeHeld s else s
  let s := if s.trans.held.isEmpty then s else deliverHeld s
  let s := if s.trans.outbound.isEmpty then s else flushOutbound s
  let s := grantCredit (if s.guest.deferred.isEmpty then s else retryGuest s)
  let s := if s.pl.todo.isEmpty && s.pl.late.isEmpty then s else pump s
  securityPump s

/-- One nanosecond with no command. -/
def tick (s : State) : State :=
  let s := stopEnding (endHalts (takeTugHits (tickIdle (finishParts (tickFeeds { recordLosses s with now := s.now + 1 })))))
  let s := applyDue s s.now
  if !hubUp s then s
  else
    let s := fireDies { tickLinks s with tide := tickTide s, slack := tickSlack s }
    retryWaiting (tickReadings (if s.slack.forced.isSome then noteLate s else s))

end Sys2Proof.Machine
end

