-- ==== Sys2Proof/WellFormed.lean ====
section
/-! DEFINITION. Which commands are ones that the module and its surroundings can give. The types of the operands rule out
most others; the checks here are what remains. No meaning rests on them: a command that fails its check still has the
effect that its meaning gives it. -/

namespace Sys2Proof

/-- The operands are those of a unit, a field or an outcome that the manual knows. -/
def Instr.wellFormed : Instr → Bool
  -- CAUSE of a lost die is 1 to 3 (R285)
  | .dieLost _ cause => decide (1 ≤ cause.toNat ∧ cause.toNat ≤ 3)
  -- a switchover is dark for as long as R349 and R350 let it be
  | .scheduledSwitchover _ dark => decide (dark.toNat ≤ 500)
  | .switchoverForced _ dark stall => decide (dark.toNat ≤ 500 ∧ stall.toNat ≤ 3000)
  -- the MSG byte of a link message names the row (R260)
  | .hello _ _ payload _ _ => Machine.msgOf payload == 1
  | .widthReq _ _ payload _ => Machine.msgOf payload == 2
  | .retrainReq _ _ payload _ => Machine.msgOf payload == 3
  | .accept _ _ payload _ => Machine.msgOf payload == 4
  | .refuse _ _ payload _ => Machine.msgOf payload == 5
  | .laneOut _ (.message _ payload _) => Machine.msgOf payload == 6
  -- RETRAIN of QL_WIDTH_REQ tells the two rows apart (R269)
  | .qlWidthReq _ value => !value.getLsbD 30
  | .qlRetrain _ value => value.getLsbD 30
  -- the two base dies are neighbours (R279)
  | .pairReroute a b => (Machine.edgeTo a.val b.val).isSome
  | .pairReturn a b => (Machine.edgeTo a.val b.val).isSome
  -- a check correlates with all 18 tones (R336)
  | .ringIdentityCheck _ _ tones => tones.length == 18
  | .ringPeriodicCheck _ _ tones => tones.length == 18
  -- calibration types and the dies that have them (R352)
  | .calRecordWrite ty slot _ _ => Machine.calDies ty.val slot.val
  -- a sample reads every channel (R413)
  | .thermalSample readings => readings.length == 68
  -- a word of register space, by a requester that writes (R455)
  | .registerWrite writer reg _ _ => Machine.writable writer reg
  | .blockEnable writer reg => Machine.writable writer reg && Machine.isCtrl reg
  | .blockDisable writer reg => Machine.writable writer reg && Machine.isCtrl reg
  -- an RW register carries parity (R466)
  | .configParityFault reg => (Machine.rwReg reg).isSome
  | _ => true

end Sys2Proof
end

