-- ==== Sys2Proof/Safety.lean ====
section
/-! DEFINITION. What counts as a safe run, and the invariant of the state that a claim may rest on. -/

namespace Sys2Proof.Machine

/-- Every command that waits is well formed. -/
def State.queueOk (s : State) : Bool := s.pending.all Instr.wellFormed

/-- A run is safe that neither faults nor refuses within `n` steps. -/
def Safe (n : Nat) (s : State) : Prop := ∃ t : State, Host.Core.run Sys2Proof.core n s = .next t

/-- The tables of a link's endpoint have rising keys. -/
def LinkSt.canonical (x : LinkSt) : Bool := tsorted x.lane && tsorted x.sent

/-- The register tables of a core have rising keys. -/
def CoreSt.canonical (k : CoreSt) : Bool := tsorted k.sreg && tsorted k.vreg && tsorted k.acc

/-- The tables of cores, piers and tugs. -/
def CoresSt.canonical (x : CoresSt) : Bool :=
  tsorted x.core && tsorted x.voy && tsorted x.pier && tsorted x.tug && x.core.all fun e => e.2.canonical

/-- The tables of memory beside its bytes. -/
def MemSt.canonical (m : MemSt) : Bool :=
  tsorted m.check && tsorted m.poison && tsorted m.sealSt && tsorted m.sramErr && tsorted m.hbmErr && tsorted m.hbmPois &&
    tsorted m.sideErr && tsorted m.hbmFlip

/-- The tables that the state holds are in their canonical form: keys rise, and no berth entry is listed that reads as an
unlisted one. -/
def State.canonical (s : State) : Bool :=
  tsorted s.regs.words && s.cores.canonical && s.mem.canonical && tsorted s.elog.ring && twf s.berth.table (fun _ => 0) &&
  tsorted s.launch.table && tsorted s.launch.run && tsorted s.boll.val && tsorted s.oe && tsorted s.nor.copy &&
  tsorted s.jtag.ir && tsorted s.jtag.cells && tsorted s.jtag.results && s.links.all fun e => e.2.canonical

/-- What a state holds at most, and in which form: memory, the constant stores and the tables in their canonical form, no more events
and error-log records than their queues hold (R382, R197), and the log's pointers within it. -/
structure Inv (s : State) : Prop where
  memory : s.mem.bytes.wf = true
  consts : s.cores.consts.wf = true
  tables : s.canonical = true
  events : s.events.length ≤ maxEvents
  log    : s.elog.count ≤ elogSlots
  head   : s.elog.head < elogSlots
  tail   : s.elog.tail < elogSlots

end Sys2Proof.Machine
end

