-- ==== Sys2Proof/Certificates/Slice0/Obligations.lean ====
section
/-! DEFINITION. Statements about the model for the provers. -/

namespace Sys2Proof.Claims

open Sys2Proof Sys2Proof.Machine

/-! ## Slots of a core's bundle -/

/-- Core `c` executes bundle `b`, whose slot `slot` holds `i` and has not been executed; the other slot has; and the checks of
R110 pass now, leaving `s1`, or were made before, a load's parcel then being verified again. -/
structure Ready (s : State) (c : CoreId) (slot : Nat) (i : Instr) (b : Bundle) (s1 : State) : Prop where
  holds  : slotBundle s c slot i = some b
  checks : (if b.issued then verifySlot s (coreGet s c) i else issueCheck s c (coreGet s c) b) = (s1, none)
  other  : (if slot = 0 then b.done1 else b.done0) = true

/-- The state that a slot's instruction sees: the bundle is issued, nothing of it is written yet. -/
def seen (s1 : State) (c : CoreId) (b : Bundle) : State := coreMod s1 c fun k => { k with cur := some { b with issued := true } }

/-- The bundle completes with the writes `ws` of the slot that was still to be executed. -/
def retired (s1 : State) (c : CoreId) (b : Bundle) (slot : Nat) (ws : List CoreWrite) : State :=
  commitBundle (seen s1 c b) c
    (if slot = 0 then { b with issued := true, done0 := true, writes0 := ws } else { b with issued := true, done1 := true, writes1 := ws })

/-! ## What the instructions of slot 0 compute (R97, R98) -/

/-- An integer instruction or FCMPLT: its core, its destination, and what the registers give it, with the poison of its sources. -/
def intOf : Instr → Option (CoreId × Reg × (CoreSt → Dword × Bool))
  | .add c d a b => some (c, d, fun k => (k.s a + k.s b, k.sp a || k.sp b))
  | .sub c d a b => some (c, d, fun k => (k.s a - k.s b, k.sp a || k.sp b))
  | .and c d a b => some (c, d, fun k => (k.s a &&& k.s b, k.sp a || k.sp b))
  | .or c d a b => some (c, d, fun k => (k.s a ||| k.s b, k.sp a || k.sp b))
  | .xor c d a b => some (c, d, fun k => (k.s a ^^^ k.s b, k.sp a || k.sp b))
  | .shl c d a b => some (c, d, fun k => (k.s a <<< ((k.s b).toNat % 64), k.sp a || k.sp b))
  | .shr c d a b => some (c, d, fun k => (k.s a >>> ((k.s b).toNat % 64), k.sp a || k.sp b))
  | .sar c d a b => some (c, d, fun k => ((k.s a).sshiftRight ((k.s b).toNat % 64), k.sp a || k.sp b))
  | .mul c d a b => some (c, d, fun k => (k.s a * k.s b, k.sp a || k.sp b))
  | .cmpeq c d a b => some (c, d, fun k => (if k.s a = k.s b then 1 else 0, k.sp a || k.sp b))
  | .cmplt c d a b => some (c, d, fun k => (if (k.s a).toInt < (k.s b).toInt then 1 else 0, k.sp a || k.sp b))
  | .cmpltu c d a b => some (c, d, fun k => (if (k.s a).toNat < (k.s b).toNat then 1 else 0, k.sp a || k.sp b))
  | .addi c d a i => some (c, d, fun k => (k.s a + i.signExtend 64, k.sp a))
  | .andi c d a i => some (c, d, fun k => (k.s a &&& i.setWidth 64, k.sp a))
  | .ori c d a i => some (c, d, fun k => (k.s a ||| i.setWidth 64, k.sp a))
  | .xori c d a i => some (c, d, fun k => (k.s a ^^^ i.setWidth 64, k.sp a))
  | .shli c d a i => some (c, d, fun k => (k.s a <<< (i.toNat % 64), k.sp a))
  | .shri c d a i => some (c, d, fun k => (k.s a >>> (i.toNat % 64), k.sp a))
  | .sari c d a i => some (c, d, fun k => ((k.s a).sshiftRight (i.toNat % 64), k.sp a))
  | .insh c d a i => some (c, d, fun k => (BitVec.ofNat 64 (i.toNat * 2 ^ 32 + (k.s a).toNat % 2 ^ 32), k.sp a))
  | .cmpeqi c d a i => some (c, d, fun k => (if k.s a = i.signExtend 64 then 1 else 0, k.sp a))
  | .cmplti c d a i => some (c, d, fun k => (if (k.s a).toInt < i.toInt then 1 else 0, k.sp a))
  | .fcmplt c d a b => some (c, d, fun k => (if (k.f a).lt (k.f b) then 1 else 0, k.sp a || k.sp b))
  | _ => none

/-- An FP32 instruction: its core, its destination, the exact result of the FP32 values in the low halves of its sources,
whether every source is finite, and the poison of its sources. -/
def fpOf : Instr → Option (CoreId × Reg × (CoreSt → FV × Bool × Bool))
  | .fadd c d a b => some (c, d, fun k => ((k.f a).add (k.f b), (k.f a).isFinite && (k.f b).isFinite, k.sp a || k.sp b))
  | .fsub c d a b => some (c, d, fun k => ((k.f a).add (k.f b).neg, (k.f a).isFinite && (k.f b).isFinite, k.sp a || k.sp b))
  | .fmul c d a b => some (c, d, fun k => ((k.f a).mul (k.f b), (k.f a).isFinite && (k.f b).isFinite, k.sp a || k.sp b))
  | .fma c d a b => some (c, d, fun k => (((k.f a).mul (k.f b)).add (k.f d),
      (k.f a).isFinite && (k.f b).isFinite && (k.f d).isFinite, k.sp a || k.sp b || k.sp d))
  | .fmin c d a b => some (c, d, fun k => ((k.f a).min (k.f b), (k.f a).isFinite && (k.f b).isFinite, k.sp a || k.sp b))
  | .fmax c d a b => some (c, d, fun k => ((k.f a).max (k.f b), (k.f a).isFinite && (k.f b).isFinite, k.sp a || k.sp b))
  | .icvtf c d a => some (c, d, fun k => (FV.ofInt (k.s a).toInt, true, k.sp a))
  | _ => none

/-- A branch or jump: its core, whether it is taken, its target as a bundle index, and the poison of what it reads. -/
def branchSpec : Instr → Option (CoreId × (CoreSt → Nat → Bool × Int × Bool))
  | .beq c a b i => some (c, fun k x => (k.s a == k.s b, x + i.toInt, k.sp a || k.sp b))
  | .bne c a b i => some (c, fun k x => (k.s a != k.s b, x + i.toInt, k.sp a || k.sp b))
  | .blt c a b i => some (c, fun k x => (decide ((k.s a).toInt < (k.s b).toInt), x + i.toInt, k.sp a || k.sp b))
  | .bltu c a b i => some (c, fun k x => (decide ((k.s a).toNat < (k.s b).toNat), x + i.toInt, k.sp a || k.sp b))
  | .jmp c i => some (c, fun _ x => (true, x + i.toInt, false))
  | .jr c a => some (c, fun k _ => (true, (k.s a).toNat, k.sp a))
  | _ => none

/-- The address that a load or store forms: sA plus the sign-extended immediate. -/
def eaOf (k : CoreSt) (a : Reg) (imm : Word) : Nat := (k.s a + imm.signExtend 64).toNat

/-- The items of CSRR (R98). -/
def itemOf (s : State) (c : CoreId) (n : Nat) : Dword :=
  let v := voyGet s c
  if n = 0 then BitVec.ofNat 64 c.core.val
  else if n = 1 then BitVec.ofNat 64 c.pier.val
  else if n = 2 then BitVec.ofNat 64 c.die.val
  else if n = 3 then BitVec.ofNat 64 v.rank
  else if n = 4 then BitVec.ofNat 64 v.size
  else if n = 5 then BitVec.ofNat 64 v.voyage.toNat
  else if n = 6 then v.time
  else if n = 7 then BitVec.ofNat 64 (ownDev s)
  else if n = 8 then BitVec.ofNat 64 (siteOf s c.die.val c.pier.val c.core.val)
  else v.fire

/-- The bollard that a core's instruction names (R99). -/
def bollardOf (k : CoreSt) (a : Reg) (imm : Word) : Nat := (imm.toNat % 16384 + (k.s a).toNat) % 16384

/-! ## What the instructions of slot 1 compute (R48–R51, R100–R102) -/

/-- Lane by lane: an exact operation on two elements, rounded once. -/
def lanes2 (f : Fmt) (op : FV → FV → FV) (a b : Parcel) : Parcel × NumEv :=
  gather f (List.zipWith (fun x y => elemCode f ((elemVal f x).isFinite && (elemVal f y).isFinite) (op (elemVal f x) (elemVal f y)))
    (lanesOf f a) (lanesOf f b))

/-- Vector arithmetic: core, destination, result with its events, poison of the sources. -/
def vecOf : Instr → Option (CoreId × Reg × (CoreSt → (Parcel × NumEv) × Bool))
  | .vadd c d a b f => some (c, d, fun k => (lanes2 f FV.add (k.v a) (k.v b), k.vp a || k.vp b))
  | .vsub c d a b f => some (c, d, fun k => (lanes2 f (fun x y => x.add y.neg) (k.v a) (k.v b), k.vp a || k.vp b))
  | .vmul c d a b f => some (c, d, fun k => (lanes2 f FV.mul (k.v a) (k.v b), k.vp a || k.vp b))
  | .vmin c d a b f => some (c, d, fun k => (lanes2 f FV.min (k.v a) (k.v b), k.vp a || k.vp b))
  | .vmax c d a b f => some (c, d, fun k => (lanes2 f FV.max (k.v a) (k.v b), k.vp a || k.vp b))
  | .vfma c d a b f => some (c, d, fun k => (gather f (List.zipWith (fun xy z =>
        elemCode f ((elemVal f xy.1).isFinite && (elemVal f xy.2).isFinite && (elemVal f z).isFinite)
          (((elemVal f xy.1).mul (elemVal f xy.2)).add (elemVal f z)))
        (List.zip (lanesOf f (k.v a)) (lanesOf f (k.v b))) (lanesOf f (k.v d))), k.vp a || k.vp b || k.vp d))
  | .vscl c d a b f => some (c, d, fun k => (gather f ((lanesOf f (k.v a)).map fun x =>
        elemCode f ((elemVal f x).isFinite && (k.f b).isFinite) ((elemVal f x).mul (k.f b))), k.vp a || k.sp b))
  | .vrcp c d a _ => some (c, d, fun k => (gather fmtFP32 ((lanesOf fmtFP32 (k.v a)).map (approxLane vrcp)), k.vp a))
  | .vrsq c d a _ => some (c, d, fun k => (gather fmtFP32 ((lanesOf fmtFP32 (k.v a)).map (approxLane vrsq)), k.vp a))
  | .vexp2 c d a _ => some (c, d, fun k => (gather fmtFP32 ((lanesOf fmtFP32 (k.v a)).map (approxLane vexp2)), k.vp a))
  | .vlog2 c d a _ => some (c, d, fun k => (gather fmtFP32 ((lanesOf fmtFP32 (k.v a)).map (approxLane vlog2)), k.vp a))
  | .vtanh c d a _ => some (c, d, fun k => (gather fmtFP32 ((lanesOf fmtFP32 (k.v a)).map (approxLane vtanh)), k.vp a))
  | .vmov c d a => some (c, d, fun k => ((k.v a, {}), k.vp a))
  | .vbcast c d a f => some (c, d, fun k =>
      let x := (k.s a).toNat % 2 ^ (8 * fmtBytes f)
      ((ofLanes f (List.replicate (fmtLanes f) x), { nan := (elemVal f x).isNan }), k.sp a))
  | .vshuf c d a b _ => some (c, d, fun k =>
      let l := (lanesOf fmtFP32 (k.v b)).map fun i => laneAt 4 (k.v a) (i % 64)
      ((ofLanes fmtFP32 l, { nan := l.any fun x => (fp32.decode x).isNan }), k.vp a || k.vp b))
  | .vcvt c d a fa fb m => some (c, d, fun k => (vcvt fa fb m.toNat (k.v a) (k.v d),
      if fmtBytes fb < fmtBytes fa then k.vp a || k.vp d else k.vp a))
  | .vup4 c d a b m => some (c, d, fun k => (gather fmtFP32 (unpack (k.v a) (k.v b) m.toNat), k.vp a || k.vp b))
  | _ => none

/-- Instructions that reduce a vector to an s register, or move one lane there. -/
def redOf : Instr → Option (CoreId × Reg × (CoreSt → (Nat × NumEv) × Bool))
  | .vrsum c d a _ => some (c, d, fun k => (elemCode fmtFP32 (allFinite (lanesOf fmtFP32 (k.v a)))
      (fp32.decode (treeSum (lanesOf fmtFP32 (k.v a)))), k.vp a))
  | .vrmax c d a _ => some (c, d, fun k => (elemCode fmtFP32 (allFinite (lanesOf fmtFP32 (k.v a)))
      (((lanesOf fmtFP32 (k.v a)).map fp32.decode).foldl FV.max (.inf true)), k.vp a))
  | .vmovs c d a f i => some (c, d, fun k => ((laneAt (fmtBytes f) (k.v a) (i.toNat % 256), {}), k.vp a))
  | _ => none

/-! ## Parcels that arrive (R246, R249, R251) -/

/-- A parcel of type `ty` that arrives is released: the link is UP and waits for no MARK, the endpoint's die runs, the SEQ is the next
one, and the check of a control parcel, or of any parcel of the guest's, is right. -/
structure Released (s : State) (l : LinkId) (ty : BitVec 4) (h : Hdr) (payload : Parcel) (check : Word) : Prop where
  up    : (linkGet s l.key).st = .up
  marks : (linkGet s l.key).waitMark = false
  alive : endAlive s l.key = true
  type  : h.ty = ty ∧ ty.toNat < 9
  seq   : h.seq = (linkGet s l.key).rxAck + 1
  check : (ty.toNat < 4 ∧ l.key ≠ guestKey) ∨ parcelCheck payload = recoverCheck h check

/-- The parcel with the check that it carries. -/
def parOf (h : Hdr) (payload : Parcel) (check : Word) : QPar :=
  { ty := h.ty, vc := h.vc, len := h.len, poison := h.poison, report := h.report, dev := h.dev, addr := h.addr, payload := payload
    check := recoverCheck h check, seq := h.seq }

/-- Its acknowledgement and credit are taken. -/
def acked (s : State) (l : LinkId) (h : Hdr) : State :=
  takeAck (linkSet s l.key (takeCredit (linkGet s l.key) h.cvc.toNat h.credit)) l.key h.ack

/-- It is released: the SEQ moves on, an outstanding request for a replay ends, and the parcel is counted. -/
def taken (s : State) (l : LinkId) (h : Hdr) : State :=
  cntAdd64 (linkMod (acked s l h) l.key fun x => { x with rxAck := h.seq, replayReq := none }) ((qlBlk l.key).reg 0x080) 1

/-- Its receive buffer is free again. -/
def freed (s : State) (l : LinkId) (h : Hdr) : State := freeUnit (taken s l h) l.key h.vc.toNat

end Sys2Proof.Claims

open Sys2Proof Sys2Proof.Machine Sys2Proof.Claims

/-! ## The machine as a whole -/

/-- The command at the front of the queue runs on the state with the queue's rest. -/
def Obligations.StepRunsTheFrontCommand : Prop :=
  ∀ (c : Instr) (rest : List Instr) (s : State), step { s with pending := c :: rest } = exec c { s with pending := rest }

/-- Every command runs: none is refused, none faults. A command that its conditions do not allow answers a next state as well.
What is the model's choice in it: log entries 4 and 5. -/
def Obligations.EveryCommandRuns : Prop := ∀ (c : Instr) (s : State), ∃ t, exec c s = .next t

/-- A command acts on everything but the queue. -/
def Obligations.CommandsLeaveTheQueue : Prop :=
  ∀ (c : Instr) (s t : State), exec c s = .next t → t.pending = s.pending

/-- Reset satisfies the invariant.
What is the model's choice in it: log entries 6, 7 and 8. -/
def Obligations.ResetIsInvariant : Prop := Inv State.reset

/-- Every step keeps the invariant. -/
def Obligations.StepKeepsInvariant : Prop :=
  ∀ s t : State, Inv s → step s = .next t → Inv t

/-! ## Cores -/

/-- A bundle's writes are held until both its slots have been executed (R87). With one s-register write, and no fault of a
tug waiting for the core, the register then takes the value and the poison bit, s0 discards both, the next bundle follows, and nothing else changes.
What is the model's choice in it: log entry 13. -/
def Obligations.BundlesRetireWhole : Prop :=
  (∀ (i : Instr) (c : CoreId) (d : Reg) (f : CoreSt → Dword × Bool) (s s1 : State) (b : Bundle),
    intOf i = some (c, d, f) → slotBundle s c 0 i = some b → b.done1 = false →
    (if b.issued then verifySlot s (coreGet s c) i else issueCheck s c (coreGet s c) b) = (s1, none) →
    exec i s = .next (coreMod (seen s1 c b) c fun k => { k with
      cur := some { b with issued := true, done0 := true, writes0 := [.sreg d (f (coreGet s1 c)).1 (f (coreGet s1 c)).2] } })) ∧
  (∀ (s : State) (c : CoreId) (b : Bundle) (d : Reg) (v : Dword) (p : Bool),
    Inv s → (coreGet s c).run ≠ .idle → (∀ h ∈ s.cores.tugHits, h.core ≠ c) → b.done1 = true → b.writes1 = [] →
    let t := retired s c b 0 [.sreg d v p]
    let k := coreGet s c
    let k' := coreGet t c
    (∀ r : Reg, k'.s r = if r = d ∧ d ≠ 0 then v else k.s r) ∧
    (∀ r : Reg, r ≠ 0 → k'.sp r = if r = d then p else k.sp r) ∧
    (∀ r : Reg, k'.v r = k.v r ∧ k'.vp r = k.vp r) ∧
    (∀ a row col, k'.accAt a row col = k.accAt a row col) ∧
    k'.pc = b.idx + 1 ∧ k'.cur = none ∧ k'.run = k.run ∧ k'.wq = k.wq ∧ k'.aq = k.aq ∧ k'.w0 = k.w0 ∧ k'.w1 = k.w1 ∧
    (∀ x : CoreId, x ≠ c → coreGet t x = coreGet s x) ∧
    t.mem = s.mem ∧ t.regs = s.regs ∧ t.boll = s.boll ∧ t.launch = s.launch ∧ t.links = s.links ∧ t.elog = s.elog ∧
    t.events = s.events ∧ t.tide = s.tide ∧ t.hm = s.hm)

/-- Integer instructions and FCMPLT give the value of R97 and the OR of the sources' poison bits; FP32 instructions of slot 0 the
exact value, rounded once to nearest even, with the events counted; FCVTI the nearest integer, saturated, and 0 for a NaN.
What is the model's choice in it: log entry 13. -/
def Obligations.ScalarResults : Prop :=
  (∀ (i : Instr) (c : CoreId) (d : Reg) (f : CoreSt → Dword × Bool) (s s1 : State) (b : Bundle),
    intOf i = some (c, d, f) → Ready s c 0 i b s1 →
    exec i s = .next (retired s1 c b 0 [.sreg d (f (coreGet s1 c)).1 (f (coreGet s1 c)).2])) ∧
  (∀ (i : Instr) (c : CoreId) (d : Reg) (f : CoreSt → FV × Bool × Bool) (s s1 : State) (b : Bundle),
    fpOf i = some (c, d, f) → Ready s c 0 i b s1 →
    let x := f (coreGet s1 c)
    let r := elemCode fmtFP32 x.2.1 x.1
    exec i s = .next (retired s1 c b 0 (.sreg d (BitVec.ofNat 64 r.1) x.2.2 :: numWrites r.2))) ∧
  (∀ (c : CoreId) (d a : Reg) (s s1 : State) (b : Bundle), Ready s c 0 (.fcvti c d a) b s1 →
    let r := toSInt 64 ((coreGet s1 c).f a)
    exec (.fcvti c d a) s = .next (retired s1 c b 0 (.sreg d r.1 ((coreGet s1 c).sp a) :: numWrites r.2)))

/-- Branches and jumps: the target where taken, else the next bundle; a poisoned source is reported. JAL also writes the index of
the next bundle. A completed bundle goes on at the target of a branch in it, or at the next bundle.
What is the model's choice in it: log entry 13. -/
def Obligations.BranchesGoWhereTheySay : Prop :=
  (∀ (i : Instr) (c : CoreId) (f : CoreSt → Nat → Bool × Int × Bool) (s s1 : State) (b : Bundle),
    branchSpec i = some (c, f) → Ready s c 0 i b s1 →
    let x := f (coreGet s1 c) b.idx
    exec i s = .next (retired s1 c b 0 ((if x.1 then [.branch x.2.1.toNat] else []) ++ useWrites x.2.2))) ∧
  (∀ (c : CoreId) (d : Reg) (i : Word) (s s1 : State) (b : Bundle), Ready s c 0 (.jal c d i) b s1 →
    exec (.jal c d i) s = .next (retired s1 c b 0 [.branch ((b.idx : Int) + i.toInt).toNat, .sreg d (BitVec.ofNat 64 (b.idx + 1)) false])) ∧
  (∀ (s : State) (c : CoreId) (b : Bundle) (n : Nat) (p : Bool),
    (coreGet s c).run ≠ .idle → (∀ h ∈ s.cores.tugHits, h.core ≠ c) → b.done1 = true → b.writes1 = [] →
    (coreGet (retired s c b 0 (.branch n :: useWrites p)) c).pc = n ∧
    (coreGet (retired s c b 0 (useWrites p)) c).pc = b.idx + 1 ∧
    (retired s c b 0 (.branch n :: useWrites p)).mem = s.mem)

/-- Loads and stores of slot 0 and VLD, VST: the address, the bytes moved, and the poison that goes with them.
What is the model's choice in it: log entries 13 and 135. -/
def Obligations.LoadsAndStores : Prop :=
  ∀ (c : CoreId) (d a r : Reg) (imm : Word) (s s1 : State) (b : Bundle),
    let k := coreGet s1 c
    let ea := eaOf k a imm
    let mark := parcelPoison s1 ea
    (Ready s c 0 (.ld c d a imm) b s1 → exec (.ld c d a imm) s = .next (retired s1 c b 0
      (.sreg d (BitVec.ofNat 64 (s1.mem.bytes.readNat ea 8)) (mark || k.sp a) :: (consumeWrites mark ++ useWrites (k.sp a))))) ∧
    (Ready s c 0 (.lw c d a imm) b s1 → exec (.lw c d a imm) s = .next (retired s1 c b 0
      (.sreg d (BitVec.ofNat 64 (s1.mem.bytes.readNat ea 4)) (mark || k.sp a) :: (consumeWrites mark ++ useWrites (k.sp a))))) ∧
    (Ready s c 0 (.sd c a r imm) b s1 → exec (.sd c a r imm) s = .next (retired s1 c b 0
      (.store ea 8 (k.s r).toNat (k.sp a || k.sp r) :: useWrites (k.sp a)))) ∧
    (Ready s c 0 (.sw c a r imm) b s1 → exec (.sw c a r imm) s = .next (retired s1 c b 0
      (.store ea 4 ((k.s r).toNat % 2 ^ 32) (k.sp a || k.sp r) :: useWrites (k.sp a)))) ∧
    (Ready s c 1 (.vld c d a imm) b s1 → exec (.vld c d a imm) s = .next (retired s1 c b 1
      (.vreg d (Parcel.ofBytes (s1.mem.bytes.readBytes ea 256)) (mark || k.sp a) :: (consumeWrites mark ++ useWrites (k.sp a))))) ∧
    (Ready s c 1 (.vst c d a imm) b s1 → exec (.vst c d a imm) s = .next (retired s1 c b 1
      (.storeParcel ea (k.v d) (k.vp d || k.sp a) :: useWrites (k.sp a))))

/-- A store that retires where no error is held: the stored bytes are read back, every other byte of memory reads as before, the
parcel is OPEN and takes the poison, and no register, bollard, link or record changes.
What is the model's choice in it: log entries 8 and 13. -/
def Obligations.StoreRetires : Prop :=
  ∀ (s : State) (c : CoreId) (b : Bundle) (a n x : Nat) (p : Bool),
    (coreGet s c).run ≠ .idle → (∀ h ∈ s.cores.tugHits, h.core ≠ c) → b.done1 = true → b.writes1 = [] → Inv s →
    (n = 8 ∨ n = 4) → a % n = 0 → x < 2 ^ (8 * n) →
    tget s.mem.sramErr (a / 8) 0 = 0 → tget s.mem.sideErr (a / 256) 0 = 0 → sideBad s.mem a = false →
    (rget s ((blkSC (sramUnit s a).1).reg 0x02C)).getLsbD 31 = false →
    let t := retired s c b 0 [.store a n x p]
    Memory.readNat t.mem.bytes a n = x ∧
    (∀ j, (j < a ∨ a + n ≤ j) → Memory.read t.mem.bytes j = Memory.read s.mem.bytes j) ∧
    t.mem.sealAt a = sealOpen ∧ (p = true → parcelPoison t a = true) ∧
    (∀ r : Reg, (coreGet t c).s r = (coreGet s c).s r ∧ (coreGet t c).v r = (coreGet s c).v r) ∧
    t.boll = s.boll ∧ t.regs = s.regs ∧ t.links = s.links ∧ t.elog = s.elog

/-- A core that is running and holds no bundle fetches the bundle at its pc; where the line is held or read well and decodes,
the core holds the two instructions, unless a tug's fault waits for it.
What is the model's choice in it: log entry 13. -/
def Obligations.FetchBringsTheBundle : Prop :=
  ∀ (c : CoreId) (upset : List ParityBit) (s u : State) (d : BitVec 512) (i0 i1 : Instr),
    let k := coreGet s c
    k.run = .running → k.cur = none → k.pc ≤ 65535 →
    fetchLine (coreSet s c { k with badPar := upset ++ k.badPar }) c k.pc = (u, .inl d) → (∀ h ∈ u.cores.tugHits, h.core ≠ c) →
    decodeBundle u c (d.extractLsb' (128 * (k.pc % 4)) 64) (d.extractLsb' (128 * (k.pc % 4) + 64) 64) = .inl (i0, i1) →
    exec (.instructionFetch c upset) s = .next (coreMod u c fun x => { x with cur := some {
      idx := k.pc, op0 := i0, op1 := i1, done0 := isNop i0 && !isNop i1, done1 := isNop i1 } })

/-- NOP writes nothing; END makes the core wait, and END_RETIRE ends its voyage once its queues are empty and its accumulators
complete. TIDE reads a value current within 2 core cycles and 2 tide ticks that never runs backwards; CSRR reads the items of R98. The
lag of TIDE within its limit is a free value.
What is the model's choice in it: log entries 13 and 18. -/
def Obligations.ScalarControl : Prop :=
  (∀ (c : CoreId) (s s1 : State) (b : Bundle) (slot : Fin 2), Ready s c slot.val (.nop c slot) b s1 →
    exec (.nop c slot) s = .next (retired s1 c b slot.val [])) ∧
  (∀ (c : CoreId) (s s1 : State) (b : Bundle), Ready s c 0 (.endVoyage c) b s1 →
    exec (.endVoyage c) s = .next (retired s1 c b 0 [.ending])) ∧
  (∀ (c : CoreId) (s : State), (coreGet s c).run = .waitEnd → (coreGet s c).wq = [] → (coreGet s c).aq = [] →
    (coreGet s c).accPending = 0 → exec (.endRetire c) s = .next (coreSet s c { coreGet s c with run := .ended })) ∧
  (∀ (c : CoreId) (d : Reg) (s s1 : State) (b : Bundle), Ready s c 0 (.tide c d) b s1 →
    let now := (dieTide s1 (slotC c.die.val)).toNat
    ∃ v : Dword, v.toNat ≤ now ∧ now < v.toNat + (2000 / coreMHz s1 c.die.val + 3) ∧ ((voyGet s1 c).lastTide.toNat ≤ now → (voyGet s1 c).lastTide.toNat ≤ v.toNat) ∧
      exec (.tide c d) s = .next (finishSlot (voySet (seen s1 c b).takeFree c { voyGet s1 c with lastTide := v }) c 0 [.sreg d v false])) ∧
  (∀ (c : CoreId) (d : Reg) (imm : Word) (s s1 : State) (b : Bundle), Ready s c 0 (.csrr c d imm) b s1 →
    exec (.csrr c d imm) s = .next (retired s1 c b 0 [.sreg d (itemOf s1 c imm.toNat) false]))

/-- Bollard instructions while the die reaches the hub: a signal, a read, and the taking of the core's watch slot.
What is the model's choice in it: log entries 13 and 19. -/
def Obligations.BollardInstructions : Prop :=
  ∀ (c : CoreId) (d a r : Reg) (imm : Word) (s s1 : State) (b : Bundle), reachHome s1 (c.die.val / 2, false) (.hub 0) = true →
    let k := coreGet s1 c
    let n := bollardOf k a imm
    (Ready s c 0 (.bsig c a r imm) b s1 → exec (.bsig c a r imm) s = .next (retired s1 c b 0
      ((if imm.getLsbD 18 && (imm.toNat / 16384 % 16) != ownDev s1 then .signalRemote (imm.toNat / 16384 % 16) n ((k.s r).setWidth 32)
        else .signal n ((k.s r).setWidth 32)) :: useWrites (k.sp a || k.sp r)))) ∧
    (Ready s c 0 (.bread c d a imm) b s1 → exec (.bread c d a imm) s = .next (retired s1 c b 0
      (.sreg d ((bollGet s1 n).setWidth 64) (k.sp a) :: useWrites (k.sp a)))) ∧
    (Ready s c 0 (.bwait c a r imm) b s1 → watchGet s1 (.core c) = none → k.sp a = false → k.sp r = false →
      exec (.bwait c a r imm) s = .next (coreMod
        (watchHits (watchSet (seen s1 c b) (.core c) (some { boll := n, target := (k.s r).setWidth 32 })) n) c
        fun x => { x with run := .waitBollard }))

/-- Slot-1 arithmetic, moves and conversions: every lane is the exact value rounded once, with the events counted. Reductions and
VMOVS write an s register; VARGMAX gives the lowest index of the largest lane; VPK4 writes data and scales. VRCP, VRSQ, VEXP2, VLOG2
and VTANH give each lane the machine's approximation.
What is the model's choice in it: log entries 12, 13, 20, 21 and 22. -/
def Obligations.VectorInstructions : Prop :=
  (∀ (i : Instr) (c : CoreId) (d : Reg) (f : CoreSt → (Parcel × NumEv) × Bool) (s s1 : State) (b : Bundle),
    vecOf i = some (c, d, f) → Ready s c 1 i b s1 →
    let x := f (coreGet s1 c)
    exec i s = .next (retired s1 c b 1 (.vreg d x.1.1 x.2 :: numWrites x.1.2))) ∧
  (∀ (i : Instr) (c : CoreId) (d : Reg) (f : CoreSt → (Nat × NumEv) × Bool) (s s1 : State) (b : Bundle),
    redOf i = some (c, d, f) → Ready s c 1 i b s1 →
    let x := f (coreGet s1 c)
    exec i s = .next (retired s1 c b 1 (.sreg d (BitVec.ofNat 64 x.1.1) x.2 :: numWrites x.1.2))) ∧
  (∀ (c : CoreId) (d a : Reg) (fa : Fmt) (s s1 : State) (b : Bundle), Ready s c 1 (.vargmax c d a fa) b s1 →
    let l := (lanesOf fmtFP32 ((coreGet s1 c).v a)).map fp32.decode
    ∃ j, j < 64 ∧ exec (.vargmax c d a fa) s = .next (retired s1 c b 1 [.sreg d (BitVec.ofNat 64 j) ((coreGet s1 c).vp a)]) ∧
      (∀ i, i < 64 → argBelow (l.getD j .nan) (l.getD i .nan) = false) ∧
      (∀ i, i < j → argBelow (l.getD i .nan) (l.getD j .nan) = true)) ∧
  (∀ (c : CoreId) (d a r : Reg) (m : BitVec 3) (s s1 : State) (b : Bundle), Ready s c 1 (.vpk4 c d a r m) b s1 →
    let k := coreGet s1 c
    let l := (lanesOf fmtFP32 (k.v a)).map fp32.decode
    let x := packF4 (l.take 32)
    let y := packF4 (l.drop 32)
    let p := k.vp a || k.vp d || k.vp r
    let q := putPart (k.v d) 32 m.toNat (joinNibbles (x.1 ++ y.1))
    exec (.vpk4 c d a r m) s = .next (retired s1 c b 1 (.vreg d q p ::
      .vreg r (putPart (if r = d then q else k.v r) 2 m.toNat (x.2.1 + 256 * y.2.1)) p :: numWrites (x.2.2.or y.2.2))))

/-! ## The matrix array -/

/-- AMOV and VAMOV, whose accumulator is free of earlier work, move accumulator rows 2j and 2j + 1; WLD and MMA enter their queues,
which have room. VAMOV's rows take the 64 lanes, nothing else of any accumulator changes, and a poisoned vector marks the whole
accumulator. A NaN that a move writes is a numerical event.
What is the model's choice in it: log entry 13. -/
def Obligations.MatrixInstructions : Prop :=
  (∀ (c : CoreId) (d a : Reg) (imm : Word) (s s1 : State) (b : Bundle), Ready s c 1 (.amov c d a imm) b s1 →
    let k := coreGet s1 c
    let x : Fin 4 := (field a 0 2).toFin
    let j := (field imm 0 4).toNat
    k.accPending.getLsbD x.val = false → (∀ e ∈ k.aq, e.acc ≠ x) →
    ∃ v : Parcel, (∀ i, i < 64 → laneAt 4 v i = (k.accAt x.val (2 * j + i / 32) (i % 32)).toNat) ∧
      exec (.amov c d a imm) s = .next (retired s1 c b 1 (.vreg d v (k.ap x) :: numWrites (nanLanes v)))) ∧
  (∀ (c : CoreId) (d a : Reg) (imm : Word) (s s1 : State) (b : Bundle), Ready s c 1 (.vamov c d a imm) b s1 →
    let k := coreGet s1 c
    let x : Fin 4 := (field d 0 2).toFin
    k.accPending.getLsbD x.val = false → (∀ e ∈ k.aq, e.acc ≠ x) →
    exec (.vamov c d a imm) s =
      .next (retired s1 c b 1 (.accRows x (field imm 0 4).toNat (k.v a) (k.vp a) :: numWrites (nanLanes (k.v a))))) ∧
  (∀ (c : CoreId) (a r : Reg) (f : Fmt) (m : BitVec 3) (s s1 : State) (b : Bundle), Ready s c 1 (.wld c a r f m) b s1 →
    let k := coreGet s1 c
    k.wq.length < 4 →
    let p := k.sp a || (usesScale f r && k.sp r)
    exec (.wld c a r f m) s = .next (retired s1 c b 1 (.wld
      { seq := 0, loc := b.idx, buf := if m.getLsbD 0 then 1 else 0, fmt := f, data := (k.s a).toNat
        scale := if usesScale f r then some (k.s r).toNat else none, poison := p } :: useWrites p))) ∧
  (∀ (c : CoreId) (d a r : Reg) (fa fb : Fmt) (m : BitVec 3) (imm : Word) (s s1 : State) (b : Bundle),
    Ready s c 1 (.mma c d a r fa fb m imm) b s1 →
    let k := coreGet s1 c
    k.aq.length < 8 →
    let p := k.sp a || (usesScale fa r && k.sp r)
    exec (.mma c d a r fa fb m imm) s = .next (retired s1 c b 1 (.mma
      { seq := 0, loc := b.idx, buf := if m.getLsbD 0 then 1 else 0
        acc := (field d 0 2).toFin, fa := fa, fb := fb, firstRow := (field imm 0 5).toNat, rows := (field imm 5 5).toNat + 1
        fresh := imm.getLsbD 10, stride := (field imm 11 16).toNat, data := (k.s a).toNat
        scale := if usesScale fa r then some (k.s r).toNat else none, poison := p } :: useWrites p))) ∧
  (∀ (k : CoreSt) (a x : Fin 4) (j : Fin 16) (v : Parcel) (p : Bool) (row col : Fin 32), tsorted k.acc = true →
    (k.setAccRows a j.val v p).accAt x.val row.val col.val =
      (if x = a ∧ row.val / 2 = j.val then field v (32 * (32 * (row.val % 2) + col.val)) 32 else k.accAt x.val row.val col.val) ∧
    (k.setAccRows a j.val v p).ap x = (if x = a then p || k.ap a else k.ap x) ∧
    (∀ r : Reg, (k.setAccRows a j.val v p).s r = k.s r ∧ (k.setAccRows a j.val v p).v r = k.v r))

/-- WEIGHT_LOAD_START: the head of the queue, whose buffer no earlier MMA still needs, leaves the queue; where every parcel
verifies, the buffer holds the tile, element by element and with its scales (127 where it carries none), and it is poisoned by the
entry or by any parcel it came from. ARRAY_PASS_START: the head of the array queue, behind no earlier load of its buffer, leaves the
queue; where the words it reads have sound parity and every parcel verifies, it makes its passes, counts its cycles, and its accumulator
is not complete until ACCUMULATOR_COMPLETE, which changes nothing else of the core's accumulators, memory or registers.
What is the model's choice in it: log entry 13. -/
def Obligations.MatrixQueues : Prop :=
  (∀ (c : CoreId) (s t : State) (e : WldEntry) (rest : List WldEntry) (seen : List (Nat × Bool)),
    let k := coreGet s c
    let data := 256 * tileParcels e.fmt
    let scales := if e.fmt = fmtQ2 then 64 else 32
    k.wq = e :: rest → (∀ x ∈ k.aq, x.buf = e.buf → e.seq ≤ x.seq) →
    feed (coreSet s c { k with wq := rest }) ((e.data, data) :: (match e.scale with
      | some x => [(x, scales)]
      | none => [])) [] = (t, seen, none) →
    let w := formatTile e.fmt (voyGet t c).levels (t.mem.bytes.readNat e.data data)
      (e.scale.map fun x => t.mem.bytes.readNat x scales) (e.poison || seen.any fun x => x.2)
    exec (.weightLoadStart c) s = .next (countFed (coreMod t c fun k =>
      let k := { k with badPar := k.badPar.filter fun b => b.reg != RegRef.weight e.buf }
      if e.buf = 0 then { k with w0 := w } else { k with w1 := w }) c seen)) ∧
  (∀ (f : Fmt) (levels : BitVec 256) (data : Nat) (scale : Option Nat) (p : Bool) (n k : Nat), n < 32 → k < 32 →
    let w := formatTile f levels data scale p
    let bits := if f = fmtF4 then 4 else if f = fmtBF16 then 16 else 8
    let sc := scale.getD 0
    w.fmt = some f ∧ w.poison = p ∧
    (w.column n).getD k 0 = (if f = fmtQ2
      then levels.toNat / 16 ^ (4 * (sc / 16 ^ (2 * (2 * n + 1) + k / 16) % 16) + data / 4 ^ (32 * n + k) % 4) % 16
      else data / 2 ^ (bits * (32 * n + k)) % 2 ^ bits) ∧
    w.scales.toNat / 256 ^ n % 256 = (match scale with
      | none => 127
      | some x => x / 256 ^ (if f = fmtQ2 then 2 * n else n) % 256)) ∧
  (∀ (c : CoreId) (waited : Word) (upset : List ParityBit) (s t : State) (e : MmaEntry) (rest : List MmaEntry)
    (seen : List (Nat × Bool)),
    let k := { coreGet s c with aq := rest, badPar := upset ++ (coreGet s c).badPar }
    let read (b : ParityBit) : Bool := accBit e.acc (e.firstRow * 32) (e.rows * 32) b
    (coreGet s c).aq = e :: rest → (∀ x ∈ k.wq, x.buf = e.buf → e.seq ≤ x.seq) →
    (∀ b ∈ k.badPar, b.reg ≠ .weight e.buf ∧ (e.fresh = true ∨ read b = false)) →
    feed (cntAdd (coreSet s c k) ((coBlk s c).reg 0x054) waited.toNat) (mmaSpans e) [] = (t, seen, none) →
    let r := passRows t.mem.bytes (k.wbuf e.buf) e k.acc e.rows
    let p := (!e.fresh && k.ap e.acc) || (k.wbuf e.buf).poison || e.poison || seen.any fun x => x.2
    let u := coreMod t c fun k => { k with
      acc := r.1, apois := setBit k.apois e.acc.val p, accPending := setBit k.accPending e.acc.val true
      badPar := k.badPar.filter fun b => !read b }
    exec (.arrayPassStart c waited upset) s = .next (countFed (countNumeric
      (cntAdd u ((coBlk u c).reg 0x050) (e.rows * rowCycles e.fb)) c e.loc r.2) c seen)) ∧
  (∀ (c : CoreId) (acc : Fin 4) (s : State), Inv s → ∃ t, exec (.accumulatorComplete c acc) s = .next t ∧
    (∀ x : Fin 4, (coreGet t c).accPending.getLsbD x.val = ((coreGet s c).accPending.getLsbD x.val && x != acc)) ∧
    coreGet t c = { coreGet s c with accPending := (coreGet t c).accPending } ∧ t.mem = s.mem ∧ t.regs = s.regs)

/-- The elements of an MMA of `rows` rows from `firstRow` on: each takes one step result, added to its old value or to +0,
and every other element of every accumulator stays. -/
def Obligations.ArrayPassElements : Prop :=
  ∀ (mem : Memory) (w : WBuf) (e : MmaEntry) (acc : Tbl Word) (a : Fin 4) (row col : Fin 32), tsorted acc = true →
    e.firstRow + e.rows ≤ 32 →
    let old := tget acc (a.val * 1024 + row.val * 32 + col.val) 0
    tget (passRows mem w e acc e.rows).1 (a.val * 1024 + row.val * 32 + col.val) 0 =
      if a = e.acc ∧ e.firstRow ≤ row.val ∧ row.val < e.firstRow + e.rows then
        let i := row.val - e.firstRow
        BitVec.ofNat 32 (accumulate (if e.fresh then 0 else old) (dotStep e.fa e.fb
          (elems e.fa (mem.readNat (e.data + i * e.stride) (rowBytes e.fa))) (w.column col.val)
          (match e.scale with | some x => (Memory.read mem (x + i)).toNat | none => 127)
          (w.scales.toNat / 256 ^ col.val % 256))).1
      else old

/-! ## Faults of cores and the end of voyages -/

/-- A core fault: the core stops issuing, the set's unstarted descriptors go, and the voyage ends with the status of the first
fault; of faults in one nanosecond, with that of the lowest compute die, then pier, then core. In the next nanosecond with no command
the harbourmaster stops every other core of the set that was working. Memory, bollard values, links and the tide stay.
What is the model's choice in it: log entries 35 and 123. -/
def Obligations.CoreFaultStopsTheSet : Prop :=
  (∀ (s : State) (c : CoreId) (f : CFault) (loc tag : Nat), Inv s → (coreGet s c).run.active = true →
    let set := (voyGet s c).set
    let t := coreFault s c f loc tag
    let st : Word := fields 32 [(8, 0x10 + f.cause), (8, 0), (4, c.core.val), (6, c.pier.val), (4, c.die.val)]
    (coreGet t c).run = .faulted ∧ (∀ x, x ≠ c → coreGet t x = coreGet s x) ∧
    (∀ key, ∀ y ∈ (tugGet t key).slots, y.set = set → y.started = true) ∧
    voyageGet t set = (voyageGet s set).map (fun v => match v.ending with
      | none => { v with ending := some st, endAt := s.now }
      | some x => if v.endAt = s.now ∧ (st >>> 16).toNat < (x >>> 16).toNat then { v with ending := some st } else v) ∧
    t.mem = s.mem ∧ t.boll.val = s.boll.val ∧ t.links = s.links ∧ t.tide = s.tide ∧ t.hm = s.hm) ∧
  (∀ (s : State) (set : Nat) (v : Voyage), Inv s → voyageGet s set = some v → v.ending.isSome = true →
    let t := stopEnding s
    (∀ x ∈ setCores s set, (coreGet t x).run.active = false) ∧ voyageGet t set = some { v with waiting := [] } ∧
    (∀ key, ∀ y ∈ (tugGet t key).slots, y.set = set → y.started = true) ∧
    t.mem = s.mem ∧ t.regs = s.regs ∧ t.boll.val = s.boll.val ∧ t.links = s.links ∧ t.tide = s.tide ∧ t.hm = s.hm)

/-- CORE_WATCHDOG faults a core that has retired no bundle for 2^24 core cycles with cause 0x08; VOYAGE_FAULT_END ends a voyage whose cores have stopped and whose started
descriptors are done; a slice of a self-test begins on the next free site in a window with 8 µs left, and ends when it is given again
8 µs later.
What is the model's choice in it: log entries 17, 34 and 35. -/
def Obligations.CoreEvents : Prop :=
  (∀ (c : CoreId) (s : State), (coreGet s c).run = .running ∨ (coreGet s c).run = .waitEnd → 2 ^ 24 * 1000 ≤ (coreGet s c).idle →
    exec (.coreWatchdog c) s = .next (coreFault s c ⟨0x08, 0, 0⟩ (coreGet s c).idx 0)) ∧
  (∀ (set : Fin 4096) (s : State) (v : Voyage) (code : Word), voyageGet s set.val = some v → v.ending = some code →
    (∀ c ∈ setCores s set.val, (coreGet s c).run.active = false) → setDrained s set.val = true →
    exec (.voyageFaultEnd set) s = .next (finishVoyage s set.val v code)) ∧
  (∀ (die : Fin 12) (pier : Fin 48) (passed : Bool) (s : State) (j : Nat),
    let p := pierGet s (pierKey die.val pier.val)
    dieState s (slotC die.val) = .up → p.test.active = none → 8000 ≤ windowLeft s kindSelfTest →
    nextSite s die pier p.test = some j →
    exec (.selfTestSlice die pier passed) s =
      .next (pierSet s (pierKey die.val pier.val) { p with test := { p.test with active := some (j, s.tide.hub) } })) ∧
  (∀ (die : Fin 12) (pier : Fin 48) (passed : Bool) (s : State) (j : Nat) (since : Dword),
    dieState s (slotC die.val) = .up → (pierGet s (pierKey die.val pier.val)).test.active = some (j, since) →
    since.toNat + 8000 ≤ s.tide.hub.toNat →
    exec (.selfTestSlice die pier passed) s = .next (sliceDone s die pier j passed))

/-! ## Tugs and the berth table -/

/-- TUGP posts the chain at sA in a tug that has a free slot, and the core goes on. A tug starts its head descriptor: a check that
fails is the fault of the lowest code; an unmet WAIT takes the tug's watch slot; else the descriptor starts. The next descriptor of a
chain enters the slot, unless the set's voyage is ending. A run is translated once the run before it has been performed, and moves; a
missed entry enters the pier's cache, and the run takes it. DONE is signalled in order, once every part of the descriptor is written or
reported, and counted; the last of a chain frees the slot.
What is the model's choice in it: log entries 23, 25, 134 and 136. -/
def Obligations.TugCommands : Prop :=
  (∀ (c : CoreId) (a : Reg) (m : BitVec 3) (s s1 : State) (b : Bundle), Ready s c 0 (.tugp c a m) b s1 →
    let key := tugKey c.die.val c.pier.val (m.toNat % 2)
    let k := coreGet s1 c
    (tugGet s1 key).used < 16 →
    let r := fetchDesc (seen s1 c b) (k.s a).toNat
    let x := tugGet r.1 key
    exec (.tugp c a m) s = .next (finishSlot (coreMod (tugSet r.1 key { x with
      slots := x.slots ++ [{
        core := c, loc := b.idx, set := (voyGet r.1 c).set, voyage := (voyGet r.1 c).voyage
        desc := r.2.1, poisoned := r.2.2, serial := x.serial }]
      serial := x.serial + 1 }) c
      fun k => { k with run := .running }) c 0 (useWrites (k.sp a)))) ∧
  (∀ (t : TugId) (s : State) (x : TugSlot), headSlot s (TugId.key t) = some x → x.started = false → tugAlive s t = true →
    (x.waited = false → descCode s x.core x.desc x.poisoned ≠ 0 →
      exec (.tugDescriptorStart t) s = .next (tugFault (tugMod s (TugId.key t) fun u => { u with slots := u.slots.tail })
        (TugId.key t) x.core x.loc x.set x.desc (descCode s x.core x.desc x.poisoned) 0)) ∧
    ((x.waited = true ∨ descCode s x.core x.desc x.poisoned = 0) →
      (waitMet s x = false → watchGet s (.tug t) = none → reachHome s (t.die.val / 2, false) (.hub 0) = true →
        exec (.tugDescriptorStart t) s = .next (watchSet s (.tug t)
          (some { boll := dget x.desc 0x24 0 14, target := field x.desc (8 * 0x28) 32 }))) ∧
      (waitMet s x = true →
        exec (.tugDescriptorStart t) s = .next (pumpRuns (readsDone (watchSet s (.tug t) none) (TugId.key t) { x with started := true })
          (TugId.key t) (dTotal x.desc))))) ∧
  (∀ (t : TugId) (s : State) (x : TugSlot), headSlot s (TugId.key t) = some x → x.started = true → tugAlive s t = true →
    dTotal x.desc ≤ x.issued → Machine.dNext x.desc ≠ 0 →
    (setEnding s x.set = true → exec (.tugChainFetch t) s = .next (toPend s (TugId.key t) x true)) ∧
    (setEnding s x.set = false →
      let r := fetchDesc (toPend s (TugId.key t) x false) (Machine.dNext x.desc)
      exec (.tugChainFetch t) s = .next (tugMod r.1 (TugId.key t) fun u => { u with
        slots := {
          core := x.core, loc := x.loc, set := x.set, voyage := x.voyage, desc := r.2.1, poisoned := r.2.2
          serial := (tugGet r.1 (TugId.key t)).serial } :: u.slots
        serial := u.serial + 1 }))) ∧
  (∀ (t : TugId) (s u : State) (x y : TugSlot), headSlot s (TugId.key t) = some x → x.started = true → tugAlive s t = true →
    x.issued < dTotal x.desc → x.miss = none → runOut s (TugId.key t) = false →
    lookSides s (TugId.key t) x (sides s x.desc) = (u, y) →
    exec (.tugRunTranslate t) s = .next (if y.miss = none then runGo u (TugId.key t) y else setHead u (TugId.key t) y)) ∧
  (∀ (t : TugId) (s : State) (x : TugSlot) (i : Nat), headSlot s (TugId.key t) = some x → x.miss = some i →
    tugAlive s t = true → reachHome s (t.die.val / 2, false) (.hub 0) = true →
    let p := pierGet s (TugId.key t / 2)
    let u := pierSet (cntAdd s (blkBT.reg 0x038) 1) (TugId.key t / 2)
      { p with cache := ((i, berthGet s i) :: p.cache.filter fun e => e.1 != i).take 64 }
    let y := match (sides s x.desc).find? fun y => y.berth && y.index == i && (if y.dst then x.dst else x.src).isNone with
      | some y => setSide { x with miss := none } y.dst (translate (berthGet s i) y.gen s.berth.epoch)
      | none => { x with miss := none }
    exec (.translationMissFetch t) s = .next (if translated s y = true then runGo u (TugId.key t) y else setHead u (TugId.key t) y)) ∧
  (∀ (t : TugId) (s : State) (p : TugPend) (rest : List TugPend), (tugGet s (TugId.key t)).pend = p :: rest →
    tget (tugGet s (TugId.key t)).waits p.serial 0 = 0 → reachHome s (t.die.val / 2, false) (.hub 0) = true →
    let u := cntAdd (finishPart (tugMod s (TugId.key t) fun u => { u with pend := rest }) (TugId.key t))
      ((tgBlk (TugId.key t)).reg 0x028) 1
    let v := if dDone p.desc / 2 ^ 19 % 2 = 1 then
      bollSignal u (dDone p.desc / 2 ^ 18 % 2 == 1) (dDone p.desc / 2 ^ 14 % 16) (dDone p.desc % 2 ^ 14) (dDoneAdd p.desc) else u
    exec (.tugDone t) s = .next (if p.last = true then wakePosters v t else v))

/-- A parcel moved within base-die SRAM arrives whole, with its check and its poison mark; every other byte stays. A tug's write into
core SRAM makes the parcel UNVERIFIED at its first access, which stores 64 bytes of it, and ends with the others, the check and the
mark. -/
def Obligations.TugMovesAParcel : Prop :=
  (∀ (s : State) (key serial vc qa qb oa ob : Nat) (tags : Nat × Nat), qa < 6 → qb < 6 → oa < baseSramSize → ob < baseSramSize →
    oa % 256 = 0 → ob % 256 = 0 → Inv s → (tugGet s key).part = none → s.mem.sramErr = [] → s.mem.sideErr = [] →
    (rget s ((blkSC (slotQ qb)).reg 0x02C)).getLsbD 31 = false →
    let a := baseSramBase qa + oa
    let b := baseSramBase qb + ob
    let t := moveRun s key serial vc tags none (.mem a) (.mem b) 1
    t.mem.parcel b = s.mem.parcel a ∧
    (∀ j, (j < b ∨ b + 256 ≤ j) → Memory.read t.mem.bytes j = Memory.read s.mem.bytes j) ∧
    t.boll = s.boll ∧ t.launch = s.launch ∧ t.links = s.links) ∧
  (∀ (s : State) (key a tag : Nat) (d : PData), inCore a = true → a % 256 = 0 → Inv s → (tugGet s key).part = none →
    s.mem.sramErr = [] → s.mem.sideErr = [] → sideBad s.mem a = false →
    (rget s ((blkSC (sramUnit s a).1).reg 0x02C)).getLsbD 31 = false →
    let t := tugWrite s key a d tag
    let u := finishPart t key
    t.mem.sealAt a = sealUnverified ∧
    (∀ j, Memory.read t.mem.bytes j = if a ≤ j ∧ j < a + 64 then field d.data (8 * (j - a)) 8 else Memory.read s.mem.bytes j) ∧
    u.mem.parcel a = d ∧ u.mem.sealAt a = sealUnverified ∧
    (∀ j, (j < a ∨ a + 256 ≤ j) → Memory.read u.mem.bytes j = Memory.read s.mem.bytes j) ∧ u.boll = s.boll ∧ u.regs = s.regs)

/-- A staged entry: a reserved field or a HOME above 21 gives code 1, a PAGE beyond a base die's SRAM code 2, and neither
changes the table; a good entry replaces the one it names, and BT_COMMIT is answered once no pier uses it. BUSY drops the write. A sweep
takes VALID from every valid entry that matches, and moves its GEN on; every other entry stays. A pier that is asked drops its copies,
and the last answer ends BUSY with the result.
What is the model's choice in it: log entry 30. -/
def Obligations.BerthTable : Prop :=
  (∀ (s : State) (value : Word), hubUp s = true → value.getLsbD 31 = true →
    let i := (field value 0 17).toNat
    let e := staged s
    let u := rset (acceptWrite s blkBT) (blkBT.reg 0x020) value
    (isBusy s blkBT = true → exec (.btCommit value) s = .next (dropWrite s blkBT)) ∧
    (isBusy s blkBT = false → berthCode e ≠ 0 → exec (.btCommit value) s =
      .next (berthFinish u false (fields 32 [(2, berthCode e), (17, i)]))) ∧
    (isBusy s blkBT = false → berthCode e = 0 → exec (.btCommit value) s =
      .next (invalidate (berthSet u i e) [i] false (fields 32 [(2, 0), (17, i)]))) ∧
    (isBusy s blkBT = false → berthCode e = 0 → Inv s → s.cores.tug = [] → s.trans.reads = [] → s.hm.st ≠ .loading →
      ∃ t, exec (.btCommit value) s = .next t ∧
      (∀ j, j ≠ i → berthGet t j = berthGet s j) ∧ berthGet t i = e ∧
      (∀ pk, ∀ x ∈ (pierGet t pk).cache, x ∈ (pierGet s pk).cache ∧ x.1 ≠ i) ∧ t.mem = s.mem ∧ isBusy t blkBT = false)) ∧
  (∀ e : BitVec 128, berthCode e =
    if (field e 6 2 : BitVec 2) ≠ 0 ∨ (field e 24 8 : BitVec 8) ≠ 0 ∨ (field e 47 17 : BitVec 17) ≠ 0 ∨ (field e 96 32 : BitVec 32) ≠ 0 ∨
      21 < (field e 1 5 : BitVec 5).toNat then 1
    else if 16 ≤ (field e 1 5 : BitVec 5).toNat ∧ 95 < (field e 32 15 : BitVec 15).toNat then 2 else 0) ∧
  (∀ (s : State) (value : Word), hubUp s = true → value.getLsbD 31 = true → isBusy s blkBT = false →
    Inv s → s.cores.tug = [] → s.trans.reads = [] →
    let tag := rget s (blkBT.reg 0x028)
    ∃ t, exec (.btSweep value) s = .next t ∧
      (∀ i, let e := berthGet s i
        berthGet t i = if e.getLsbD 0 && (!value.getLsbD 8 || field e 64 32 == tag) && (!value.getLsbD 9 || field e 8 8 == field value 0 8)
          then setField (setBit e 0 false) 16 (field e 16 8 + 1) else e) ∧
      t.mem = s.mem ∧ t.boll = s.boll ∧ t.launch = s.launch) ∧
  (∀ (die : Fin 12) (pier : Fin 48) (s : State) (op : BerthOp), s.berth.op = some op →
    pierKey die.val pier.val ∈ op.piers → (∀ i ∈ op.entries, entryInUse s (pierKey die.val pier.val) i = false) →
    let u := dropCopies s (pierKey die.val pier.val) op.entries
    let l := op.piers.erase (pierKey die.val pier.val)
    exec (.berthInvalidate die pier) s = .next (if l = [] then berthFinish u op.sweep op.result
      else { u with berth := { u.berth with op := some { op with piers := l } } }))

/-! ## Launches, bollards, slack water -/

/-- A launch fires at a time that is not before its TIME, not less than 256 tide ticks from now, and not less than 8 ticks
after the last one.
What is the model's choice in it: log entry 31. -/
def Obligations.FireTimes : Prop :=
  ∀ (s : State) (e : LEntry) (f cause : Nat), reach s e = some (f, cause) →
    e.time.toNat ≤ f ∧ s.tide.hub.toNat + 256 ≤ f ∧ (∀ x, s.launch.lastF = some x → x.toNat + 8 ≤ f) ∧
    (cause = 0 → f = e.time.toNat) ∧
    (∀ w, s.slack.forced = some w → ¬ (w.toNat - 20000 ≤ e.time.toNat ∧ e.time.toNat < w.toNat ∧ f < w.toNat))

/-- The first pending entry, once reached, is armed for its fire time, or held where its set is busy and it may be held; nothing is
issued during a switchover gap. An entry that a forced window defers because it is late moves only the spacing that the window
reckons with. A forecast goes out once per entry, to every engine and to the regulators of the set's compute dies, and
is counted. A completed voyage adds to its bollard, then sends its event. TD_CANCEL answers 0, 1 or 2 and frees only an entry that is
pending or held.
What is the model's choice in it: log entries 33, 129, 138 and 143. -/
def Obligations.LaunchCommands : Prop :=
  (∀ (s : State) (i : Nat) (e : LEntry) (f cause : Nat), s.hm.st = .running → inGap s = false →
    let u := noteLate s
    firstEntry (entriesIn s .pending) = some (i, e) → reach u e = some (f, cause) →
    let busy := (e.ctrl.getLsbD 2 || s.tm.level != 0) && (coreSetBusy s e.set || setHeld s e.set != [])
    (busy = true → exec .armLaunch s = .next (cntAdd (entrySet u i { e with st := .held }) (blkTD.reg 0x02C) 1)) ∧
    (busy = false → armedFull s e.set = false → exec .armLaunch s = .next (armEntry u i f cause))) ∧
  (∀ s : State, s.launch.plain ≤ (noteLate s).launch.plain ∧
    noteLate s = { s with launch := { s.launch with plain := (noteLate s).launch.plain } }) ∧
  (∀ s : State, inGap s = true → exec .armLaunch s = .next s) ∧
  (∀ (index : Fin 4096) (s : State),
    let e := entryGet s index.val
    let f := if e.st = .armed then e.fire.toNat else max e.time.toNat (afterLast s)
    e.st = .pending ∨ e.st = .armed → stepLarge s e = true → e.forecast = false → f ≤ s.tide.hub.toNat + 100000 → Inv s →
    ∃ t, exec (.loadStepForecast index) s = .next t ∧ entryGet t index.val = { e with forecast := true } ∧
      (∃ steps, t.launch.forecasts.head? =
        some { fire := BitVec.ofNat 64 f, steps := steps, engines := List.range 8, dies := setDies s e.set }) ∧
      rget t (blkHM.reg 0x040) = BitVec.ofNat 32 (min ((rget s (blkHM.reg 0x040)).toNat + 1) (2 ^ 32 - 1)) ∧
      rget t (blkHM.reg 0x044) = (if f < s.tide.hub.toNat + 100000
        then BitVec.ofNat 32 (min ((rget s (blkHM.reg 0x044)).toNat + 1) (2 ^ 32 - 1)) else rget s (blkHM.reg 0x044)) ∧
      t.mem = s.mem ∧ t.boll = s.boll ∧ t.cores = s.cores) ∧
  (∀ (set : Fin 4096) (s : State) (v : Voyage), voyageGet s set.val = some v → v.ending = none → v.halt = none → v.waiting = [] →
    (∀ c ∈ setCores s set.val, (coreGet s c).run = .ended) → setDrained s set.val = true →
    exec (.voyageComplete set) s = .next (freeSet (
      let t := completionAdd (voyageSet s set.val none) v.entry
      if v.entry.ctrl.getLsbD 1 then voyageEvent t v.entry v.index (v.status 0) v.entry.slip else t) set.val)) ∧
  (∀ (value : Word) (s : State), hubUp s = true → value.getLsbD 31 = true → isBusy s blkTD = false →
    let i := (field value 0 12).toNat
    let e := entryGet s i
    let u := acceptWrite s blkTD
    let code := if e.st = .free then 1 else if e.st = .armed then 2 else 0
    exec (.tdCancel value) s = .next (logCapture (rset (if e.st = .pending ∨ e.st = .held then entrySet u i {} else u)
      (blkTD.reg 0x048) 0) (blkTD.reg 0x04C) (fields 32 [(2, code), (12, i)])))

/-- LAUNCH_FIRE: once the hub's counter or a compute die's has reached its fire time an armed entry leaves the table, a late one is
counted, and every core of its set whose die's own counter has reached it starts with the poison clear, s1 = ARG, all other registers 0,
at its voyage's entry; the other dies start when theirs do.
What is the model's choice in it: log entries 123 and 127. -/
def Obligations.LaunchFires : Prop :=
  ∀ (index : Fin 4096) (s : State) (r : VoyageRec),
    let e := entryGet s index.val
    let reached (d : Nat) : Prop := e.fire.toNat ≤ (dieTide s (slotC d)).toNat
    e.st = .armed → (e.fire.toNat ≤ s.tide.hub.toNat ∨ ∃ d ∈ setDies s e.set, reached d) → noStart s e.set = 0 →
    voyRec s e.voyage.toNat e.set = some r → Inv s →
    ∃ t, exec (.launchFire index) s = .next t ∧ (entryGet t index.val).st = .free ∧
      (let late := (setDies s e.set).filter fun d => decide ((dieTide s (slotC d)).toNat < e.fire.toNat)
       voyageGet t e.set = some { voyage := e.voyage, index := index.val, entry := e, waiting := late }) ∧
      (∀ c ∈ setCores s e.set, (reached c.die.val →
          coreGet t c = { sreg := tset [] 1 e.arg 0, pc := r.entry, run := .running } ∧
          (voyGet t c).fire = e.fire ∧ (voyGet t c).time = e.time ∧ (voyGet t c).set = e.set) ∧
        (¬ reached c.die.val → coreGet t c = coreGet s c)) ∧
      t.mem = s.mem ∧ t.boll = s.boll ∧ t.tide = s.tide ∧
      (e.fire.toNat ≤ e.time.toNat → t.regs = s.regs)

/-- Bollards: an addition wraps at 2^32; a waiter is released exactly when the value has reached its target in the sense of
R136; outside a switchover gap the release lets the core go on; BL_HOST_ADD and BL_VALUE act at once.
What is the model's choice in it: log entry 129. -/
def Obligations.BollardCommands : Prop :=
  (∀ (s : State) (b : Nat) (n : Word), Inv s →
    bollGet (bollAdd s b n) b = bollGet s b + n ∧ ∀ x, x ≠ b → bollGet (bollAdd s b n) x = bollGet s x) ∧
  (∀ (s : State) (b : Nat) (v : Word) (w : Waiter) (x : Watch), watchGet s w = some x → Inv s →
    watchGet (bollSet s b v) w = some (if x.boll = b ∧ x.hit = none ∧ (v - x.target).toNat < 2 ^ 31 then
      { x with hit := some (BitVec.ofNat 64 s.now) } else x)) ∧
  (∀ (w : Waiter) (s : State) (x : Watch) (since : Dword), watchGet s w = some x → x.hit = some since → inGap s = false →
    let u := if since.toNat + 100 < s.now then
      logRecord (cntAdd (watchSet s w none) (blkBL.reg 0x020) 1) 0x0301 0 0 x.boll 0 0 else watchSet s w none
    exec (.bollardRelease w) s = .next (match w with
      | .core c => releaseCore u c
      | .tug t => match headSlot u (TugId.key t) with
        | some y => setHead u (TugId.key t) { y with waited := true }
        | none => u)) ∧
  (∀ (value : Word) (s : State), hubUp s = true → isBusy s blkBL = false →
    let u := rset (acceptWrite s blkBL) (blkBL.reg 0x010) 0
    exec (.blHostAdd value) s = .next (if value >>> 14 = 0 then cntAdd u (blkBL.reg 0x00C) 1
      else cntAdd (bollAdd u (value.toNat % 16384) (value >>> 14)) (blkBL.reg 0x014) 1)) ∧
  (∀ (b : Fin 16384) (value : Word) (collides : Bool) (s : State), hubUp s = true → isBusy s blkBL = false →
    exec (.blValue b value collides) s = .next (if collides then acceptWrite s blkBL else bollSet (acceptWrite s blkBL) b.val value))

/-- Slack water: 20 µs of quiet within an open span make a window; after 50 ms without one a forced window is announced,
which starts 256 tide ticks later and lasts 20 µs; its end counts as a window. -/
def Obligations.SlackWater : Prop :=
  (∀ s : State, spanOpen s = true → 20000 ≤ s.slack.quiet → exec .slackWindow s =
    .next { s with slack := { s.slack with quiet := s.slack.quiet - 20000, last := s.tide.hub } }) ∧
  (∀ s : State, s.tide.everEnabled = true → s.slack.forced = none → s.slack.last.toNat + 50000000 ≤ s.tide.hub.toNat →
    ∃ t, exec .forcedSlack s = .next t ∧ t.slack = { s.slack with forced := some (s.tide.hub + 20256) } ∧
      rget t (blkTD.reg 0x054) = BitVec.ofNat 32 (min ((rget s (blkTD.reg 0x054)).toNat + 1) (2 ^ 32 - 1)) ∧
      (s.events.length < 1024 → ∃ x, t.events = s.events ++ [x] ∧ x.cls = 4 ∧ (field x.data 0 32).toNat = 1) ∧
      t.mem = s.mem ∧ t.launch = { s.launch with plain := afterLast s } ∧ t.boll = s.boll) ∧
  (∀ (s : State) (e : Dword), s.slack.forced = some e → e.toNat ≤ s.tide.hub.toNat → ∃ t, exec .forcedSlackEnd s = .next t ∧
    t.slack = { quiet := 0, last := e, forced := none } ∧ t.mem = s.mem ∧ t.boll = s.boll ∧ t.tide = s.tide ∧
    (s.hm.st ≠ .running → t = { markDeferred s e.toNat with slack := t.slack }))

/-! ## The tide -/

/-- A check mark that is due finds a die more than a tick away: it corrects the whole difference by slewing and is counted; a die
within a tick is left alone. A lost net is recorded once. Holdover, its alarm after 10 s, and the tide-mark pins. PL_TIDE_SLEW asks the
master for a slew, is refused with code 1 elsewhere, and ends with code 0 once nothing of it remains. In a nanosecond with no command the
hub's tide advances by one tick, or by two or none where a slew takes its tick, which no two do within 1,024 ticks; it never runs
backwards.
What is the model's choice in it: log entries 1, 51 and 130. -/
def Obligations.TideCommands : Prop :=
  (∀ (slot : Fin 41) (s : State), dieState s slot.val = .up →
    ¬ ((slot.val, 0) ∈ s.tide.beacon ∧ (slot.val, 1) ∈ s.tide.beacon) →
    (∀ x, tget s.tide.markAt slot.val none = some x → x.toNat + 65536 ≤ s.tide.hub.toNat) →
    let t := { s.tide with markAt := tset s.tide.markAt slot.val (some s.tide.hub) none }
    exec (.beaconCheckMark slot) s = .next (if 1 < (tget s.tide.dieOfs slot.val 0).natAbs then
      cntAdd { s with tide := { t with dieSlew := tset s.tide.dieSlew slot.val (-tget s.tide.dieOfs slot.val 0) 0 } } (blkTD.reg 0x068) 1
      else { s with tide := t })) ∧
  (∀ (slot : Fin 41) (net : Fin 2) (s : State), dieState s slot.val = .up → (slot.val, net.val) ∉ s.tide.beacon →
    exec (.tideBeaconLost slot net) s = .next (logRecord
      { s with tide := { s.tide with beacon := (slot.val, net.val) :: s.tide.beacon } } 0x0303 slot.val 0 net.val 0 0)) ∧
  (∀ s : State, s.tide.st = .locked → roleMaster s = false → s.tide.lastReply.toNat + 100000 ≤ s.tide.hub.toNat →
    exec .tideHoldover s = .next { s with tide := { s.tide with st := .holdover, holdSince := s.tide.hub } }) ∧
  (∀ s : State, s.tide.st = .holdover → s.tide.holdLong = false → s.tide.holdSince.toNat + 10000000000 ≤ s.tide.hub.toNat →
    exec .holdoverLong s = .next (tideEvent { s with tide := { s.tide with holdLong := true } } 3 (tdOffset s).toNat)) ∧
  (∀ s : State, s.tide.hub.toNat % 1000000000 < 1000 →
    exec .tideMarkOutput s = .next { s with tide := { s.tide with markOut := true } }) ∧
  (∀ s : State, (∀ x, s.tide.markEdge = some x → x + 100 ≤ s.now) →
    exec .tideMarkInput s = .next { s with tide := { s.tide with markEdge := some s.now, markIn := s.tide.hub } }) ∧
  (∀ (s : State) (x : Nat), s.tide.markEdge = some x → s.now < x + 100 →
    exec .tideMarkInput s = .next { s with tide := { s.tide with markEdge := some s.now } }) ∧
  (∀ (value : Word) (s : State), hubUp s = true → isBusy s blkPL = false → value.getLsbD 31 = true → roleMaster s = true →
    let u := acceptWrite s blkPL
    exec (.plTideSlew value) s = .next { rset (if s.tide.slewCmd then logCapture u (blkPL.reg 0x0AC) 2 else u) (blkPL.reg 0x0A8) value with
      tide := { s.tide with slew := (field value 0 24 : BitVec 24).toInt, slewCmd := true } }) ∧
  (∀ (value : Word) (s : State), hubUp s = true → isBusy s blkPL = false → value.getLsbD 31 = true → roleMaster s = false →
    exec (.plTideSlew value) s = .next (logCapture (rset (acceptWrite s blkPL) (blkPL.reg 0x0A8) 0) (blkPL.reg 0x0AC) 1)) ∧
  (∀ s : State, s.tide.slewCmd = true → s.tide.slew = 0 → exec .slewComplete s =
    .next (logCapture (rset { s with tide := { s.tide with slewCmd := false } } (blkPL.reg 0x0A8) 0) (blkPL.reg 0x0AC) 0)) ∧
  (∀ s : State, s.pending = [] → step s = .next (tick s)) ∧
  (∀ s : State, let t := tickTide s
    let idle := s.tide.slew = 0 ∨ s.tide.hub.toNat < s.tide.lastSlew.toNat + 1024
    (idle → t.hub = s.tide.hub + 1 ∧ t.slew = s.tide.slew ∧ t.lastSlew = s.tide.lastSlew) ∧
    (¬ idle → 0 < s.tide.slew → t.hub = s.tide.hub + 2 ∧ t.slew = s.tide.slew - 1 ∧ t.lastSlew = t.hub) ∧
    (¬ idle → s.tide.slew < 0 → t.hub = s.tide.hub ∧ t.slew = s.tide.slew + 1 ∧ t.lastSlew = t.hub))

/-- Group alignment (R120, R121): 10 µs after the last, a request goes to the source, and one that has had no reply is counted. A
request that comes in is answered with its own T1 and the time of its arrival as T2; a parcel for another member goes on. A reply in FREE
steps the tide once by the offset ((T2 − T1) − (T4 − T3)) ÷ 2, which takes the state to ACQUIRE; a later one joins the last 64 offsets,
and the tide slews by their average, LOCKED once the average is within 4 tide ticks.
What is the model's choice in it: log entry 52. -/
def Obligations.TimeExchange : Prop :=
  (∀ s : State, enabled s blkTD = true → s.tide.safe = false → roleMaster s = false →
    (∀ x, s.tide.askedAt = some x → x + 10000 ≤ s.now) →
    let u := if s.tide.outst.isSome then cntAdd s (blkTD.reg 0x06C) 1 else s
    exec .timeExchangeRequest s =
      .next (sendTo { u with tide := { s.tide with seq := s.tide.seq + 1, outst := some (s.tide.seq + 1, s.tide.hub), askedAt := some s.now } } hubPoint
        (controlPar tyTime 0 (roleSource s) (timePayload 1 (s.tide.seq + 1) 0 0) 7))) ∧
  (∀ (l : LinkId) (h : Hdr) (payload : Parcel) (check : Word) (s : State), l.key ≠ guestKey → Released s l tyTime h payload check →
    let u := freed s l h
    let kind := (field payload 0 8 : BitVec 8).toNat
    (h.dev.toNat ≠ ownDev s →
      exec (.timeParcelReceive l h payload check) s = .next (freeUnit (relayPar (taken s l h) l.key (parOf h payload check)) l.key h.vc.toNat)) ∧
    (h.dev.toNat = ownDev s →
      (kind = 1 → enabled s blkTD = true → s.tide.safe = false → exec (.timeParcelReceive l h payload check) s =
        .next (sendTo u hubPoint
          (controlPar tyTime 0 (farMember u l.key) (timePayload 2 (field payload 16 16) (field payload 64 64) s.tide.hub) 7))) ∧
      (∀ x, kind = 2 → enabled s blkTD = true → s.tide.safe = false → roleMaster s = false →
        s.tide.outst = some (field payload 16 16, x) →
        exec (.timeParcelReceive l h payload check) s = .next (timeReply u payload)) ∧
      (kind = 0 ∨ 2 < kind → exec (.timeParcelReceive l h payload check) s = .next u))) ∧
  (∀ (s : State) (p : Parcel),
    let t := timeReply s p
    let twice : Int := ((field p 128 64 : Dword) - field p 64 64).toInt - (s.tide.hub - field p 192 64).toInt
    (s.tide.st = .free → t.tide.hub = s.tide.hub + BitVec.ofInt 64 (twice.tdiv 2) ∧ t.tide.st = .acquire ∧ t.tide.dieOfs = [] ∧
      t.tide.offs = [] ∧ t.tide.lastReply = t.tide.hub) ∧
    (s.tide.st ≠ .free →
      let l := (twice :: s.tide.offs).take 64
      let sum := l.foldl (· + ·) 0
      t.tide.hub = s.tide.hub ∧ t.tide.offs = l ∧ t.tide.slew = sum.tdiv (2 * l.length) ∧ t.tide.outst = none ∧
      t.tide.lastReply = s.tide.hub ∧
      t.tide.st = (if s.tide.st = .acquire ∧ 8 * l.length < sum.natAbs then .acquire else .locked)) ∧
    t.mem = s.mem ∧ t.launch = s.launch ∧ t.boll = s.boll)

/-! ## Memory and the log -/

/-- A controller serves its stack: a whole parcel written to a released region that is not retired is read back with its
check and poison mark, and no other byte of memory changes. A write to a region that is not released dredges it first: its other
bytes read as zeros, and it is released. A write to a retired page changes no memory and is counted.
What is the model's choice in it: log entry 8. -/
def Obligations.HbmReadsBackWhatWasWritten : Prop :=
  ∀ (m : Fin 16) (parcel : BitVec 29) (source : MemSource) (data : Parcel) (check : Word) (poison : Bool) (s : State),
    mcServes s m.val = true → Inv s → (rget s ((blkMC m.val).reg 0x058)).getLsbD 31 = false →
    let x := mcGet s m.val
    let r := regionOf (parcel.toNat * 256)
    let a := hbmBase m.val + parcel.toNat * 256
    let lo := hbmBase m.val + r * 0x200000
    let retired := x.retiredPage (parcel.toNat * 256 / 0x400000)
    (x.released r = true → retired = false →
      ∃ t, exec (.hbmWrite m parcel source data check poison) s = .next t ∧ t.mem.parcel a = ⟨data, check, poison⟩ ∧
        (∀ j, (j < a ∨ a + 256 ≤ j) → Memory.read t.mem.bytes j = Memory.read s.mem.bytes j) ∧ t.cores = s.cores ∧ t.boll = s.boll ∧
        ∃ u, exec (.hbmRead m parcel source [] false) t = .next u ∧
          u.out = t.out ++ [.hbmData m.val (parcel.toNat * 256) data check poison] ∧ u.mem = t.mem) ∧
    (x.released r = false → r ∉ x.skipped → retired = false →
      ∃ t, exec (.hbmWrite m parcel source data check poison) s = .next t ∧ t.mem.parcel a = ⟨data, check, poison⟩ ∧
        (mcGet t m.val).released r = true ∧
        (∀ j, (j < a ∨ a + 256 ≤ j) →
          Memory.read t.mem.bytes j = if lo ≤ j ∧ j < lo + 0x200000 then 0 else Memory.read s.mem.bytes j) ∧
        t.cores = s.cores ∧ t.boll = s.boll) ∧
    (retired = true → ∃ t, exec (.hbmWrite m parcel source data check poison) s = .next t ∧ t.mem = s.mem ∧
      rget t ((blkMC m.val).reg 0x06C) = BitVec.ofNat 32 (min ((rget s ((blkMC m.val).reg 0x06C)).toNat + 1) (2 ^ 32 - 1)) ∧
      t.cores = s.cores ∧ t.boll = s.boll)

/-- A read of a region that is not released, or of a retired page, gives poisoned zeros; the scrubber passes over both. Dredging: the
next region of the walk reads as zeros with valid codes and no poison, and is released; one in a retired page is passed over, neither
written nor released.
What is the model's choice in it: log entry 39. -/
def Obligations.HbmRegions : Prop :=
  (∀ (m : Fin 16) (parcel : BitVec 29) (source : MemSource) (s : State), mcServes s m.val = true →
    (mcGet s m.val).released (regionOf (parcel.toNat * 256)) = false ∨ (mcGet s m.val).retiredPage (parcel.toNat * 256 / 0x400000) = true →
    (source = .scrubber → exec (.hbmRead m parcel source [] false) s = .next s) ∧
    (source ≠ .scrubber → ∃ u, exec (.hbmRead m parcel source [] false) s = .next u ∧
      u.out = s.out ++ [.hbmData m.val (parcel.toNat * 256) 0 zeroCheck true] ∧ u.mem = s.mem ∧
      u.cores = s.cores ∧ u.boll = s.boll)) ∧
  (∀ (m : Fin 16) (s : State),
    let x := mcGet s m.val
    let lo := hbmBase m.val + x.dredge * 0x200000
    mcServes s m.val = true → x.started = true → x.dredge < 65536 → x.ahead = [] → Inv s →
    (x.retiredPage (x.dredge / 2) = false → x.dredge ∉ x.skipped →
      ∃ t, exec (.dredgeRegion m) s = .next t ∧ (mcGet t m.val).released x.dredge = true ∧ (mcGet t m.val).dredge = x.dredge + 1 ∧
        (∀ a, Memory.read t.mem.bytes a = if lo ≤ a ∧ a < lo + 0x200000 then 0 else Memory.read s.mem.bytes a) ∧
        (∀ p, lo ≤ 256 * p → 256 * p < lo + 0x200000 → t.mem.parcel (256 * p) = ⟨0, zeroCheck, false⟩) ∧
        t.regs = s.regs ∧ t.cores = s.cores ∧ t.boll = s.boll) ∧
    (x.retiredPage (x.dredge / 2) = true →
      ∃ t, exec (.dredgeRegion m) s = .next t ∧ (mcGet t m.val).released x.dredge = false ∧ (mcGet t m.val).dredge = x.dredge + 1 ∧
        t.mem = s.mem ∧ t.regs = s.regs ∧ t.cores = s.cores ∧ t.boll = s.boll))

/-- The refresh rate follows three samples that agree, ten after the last change. The scrubber reads in a window that admits it while
its walk lies behind its schedule, the hub's too. The sample of corrected errors is written once its second has ended. Retirement: a free
slot takes the page with code 0, a slot in use gives code 2; clearing is the reverse. The spare request and the error injectors hold the
word written. EL_CONSUME frees that many of the oldest records, or none and counts an error where there are fewer.
What is the model's choice in it: log entries 102, 125, 140 and 141. -/
def Obligations.MemoryCommands : Prop :=
  (∀ (m : Fin 16) (temp : Byte) (s : State), slotUp s (mcSlot m.val) = true → (mcGet s m.val).failed = false →
    let x := mcGet s m.val
    let auto := (cfg s (blkMC m.val) 0x014).getLsbD 16
    let turn := if x.hot then decide (temp.toNat < 82) || !auto else decide (85 ≤ temp.toNat) && auto
    let n := if turn then x.agree + 1 else 0
    exec (.hbmTempSample m temp) s = .next (if 3 ≤ n ∧ 10 ≤ x.inState + 1 then
        let u := mcSet s m.val { x with temp := temp, hot := !x.hot, agree := 0, inState := 0 }
        if x.hot then u else cntAdd u ((blkMC m.val).reg 0x044) 1
      else mcSet s m.val { x with temp := temp, agree := n, inState := x.inState + 1 })) ∧
  (∀ (m : Fin 16) (word side : BitVec 72) (s : State), windowLeft s kindScrub ≠ 0 → mcServes s m.val = true →
    enabled s (blkSC (mcSlot m.val)) = true → (cfg s (blkSC (mcSlot m.val)) 0x010).getLsbD 0 = true →
    exec (.scrubRead (.hbm m) word side) s = .next (scrubHbm s m.val)) ∧
  (∀ (s : State) (m : Nat), hbmSched s (mcSlot m) ≤ tget (scGet s (mcSlot m)).hbmPos m 0 → scrubHbm s m = s) ∧
  (∀ (slot : Fin 41) (word side : BitVec 72) (s : State), windowLeft s kindScrub ≠ 0 →
    (if slot = 0 then hubUp s = true else slotUp s slot.val = true) → 0 < walkWords slot.val →
    enabled s (blkSC slot.val) = true → (cfg s (blkSC slot.val) 0x010).getLsbD 1 = true →
    exec (.scrubRead (.sram slot) word side) s = .next (scrubSram s slot.val word side)) ∧
  (∀ (s : State) (slot : Nat) (word side : BitVec 72),
    let pos := (scGet s slot).sramPos
    (sramSched s slot ≤ pos → scrubSram s slot word side = s) ∧
    (pos < sramSched s slot → pos + 1 < walkWords slot → (scGet (scrubSram s slot word side) slot).sramPos = pos + 1)) ∧
  (∀ (m : Fin 16) (s : State), (mcGet s m.val).ceCount ≠ 0 → (mcGet s m.val).ceSec < s.tide.hub.toNat / 1000000000 →
    exec (.ceSampleRecord (.hbm m)) s =
    .next (logRecord (mcSet s m.val { mcGet s m.val with ceCount := 0, ceAddr := 0 }) 0x0101 (mcSlot m.val) m.val
      (mcGet s m.val).ceCount (mcGet s m.val).ceAddr 0)) ∧
  (∀ (slot : Fin 41) (s : State), (scGet s slot.val).ceCount ≠ 0 → (scGet s slot.val).ceSec < s.tide.hub.toNat / 1000000000 →
    exec (.ceSampleRecord (.sram slot)) s =
    .next (logRecord (scSet s slot.val { scGet s slot.val with ceCount := 0, ceAddr := 0, ceUnit := 0 }) 0x0111 slot.val
      (scGet s slot.val).ceUnit (scGet s slot.val).ceCount (scGet s slot.val).ceAddr 0)) ∧
  (∀ (m : Fin 16) (value : Word) (s : State), slotUp s (mcSlot m.val) = true → isBusy s (blkMC m.val) = false →
    value.getLsbD 31 = true → value &&& 0x3FC08000 = 0 →
    let n := (field value 16 6 : BitVec 6).toNat
    let x := mcGet s m.val
    let u := acceptWrite s (blkMC m.val)
    (value.getLsbD 30 = false →
      ((∀ e ∈ x.retired, e.1 ≠ n) → exec (.retirePage m value) s =
        .next (retireResult (mcSet u m.val { x with retired := x.retired ++ [(n, (field value 0 15 : BitVec 15).toNat)] }) m.val 0 n)) ∧
      ((∃ e ∈ x.retired, e.1 = n) → exec (.retirePage m value) s = .next (retireResult u m.val 2 n))) ∧
    (value.getLsbD 30 = true →
      ((∃ e ∈ x.retired, e.1 = n) → exec (.retireClear m value) s =
        .next (retireResult (mcSet u m.val { x with retired := x.retired.filter fun e => e.1 != n }) m.val 0 n)) ∧
      ((∀ e ∈ x.retired, e.1 ≠ n) → exec (.retireClear m value) s = .next (retireResult u m.val 2 n)))) ∧
  (∀ (q : Fin 6) (value : Word) (s : State), slotUp s (slotQ q.val) = true → isBusy s (blkSC (slotQ q.val)) = false →
    exec (.scSpareReq q value) s = .next (rset (acceptWrite s (blkSC (slotQ q.val))) ((blkSC (slotQ q.val)).reg 0x030) value)) ∧
  (∀ (m : Fin 16) (value : Word) (s : State), slotUp s (mcSlot m.val) = true → isBusy s (blkMC m.val) = false →
    exec (.mcFlip m value) s = .next (rset (acceptWrite s (blkMC m.val)) ((blkMC m.val).reg 0x058) value)) ∧
  (∀ (slot : Fin 41) (value : Word) (s : State), (if slot = 0 then hubUp s = true else slotUp s slot.val = true) →
    0 < walkWords slot.val → isBusy s (blkSC slot.val) = false →
    exec (.scSramFlip slot value) s = .next (rset (acceptWrite s (blkSC slot.val)) ((blkSC slot.val).reg 0x02C) value)) ∧
  (∀ (value : Word) (s : State), hubUp s = true → isBusy s blkEL = false → value.getLsbD 31 = true →
    let n := (field value 0 13 : BitVec 13).toNat
    (n ≤ s.elog.count → ∃ t, exec (.elConsume value) s = .next t ∧ t.elog.count = s.elog.count - n ∧
      t.elog.tail = (s.elog.tail + n) % 4096 ∧ t.elog.ring = s.elog.ring ∧ t.elog.head = s.elog.head ∧ t.mem = s.mem ∧ t.events = s.events) ∧
    (s.elog.count < n → ∃ t, exec (.elConsume value) s = .next t ∧ t.elog = s.elog ∧
      rget t (blkEL.reg 0x00C) = BitVec.ofNat 32 (min ((rget s (blkEL.reg 0x00C)).toNat + 1) (2 ^ 32 - 1))))

/-! ## Quayline links -/

/-- What a receiving endpoint does with an arriving parcel (R246, R251, R254): the expected SEQ is released, a duplicate is
counted, a gap, a reserved TYPE or a control parcel with a bad check asks for a replay, and an endpoint that is not UP or waits for a
MARK discards it.
What is the model's choice in it: log entry 41. -/
def Obligations.ParcelsAreReleasedInOrder : Prop :=
  (∀ (s : State) (l : LinkId) (ty : BitVec 4) (h : Hdr) (payload : Parcel) (check : Word), l.key ≠ guestKey →
    let x := linkGet s l.key
    let good := h.ty.toNat < 4 ∨ (h.ty.toNat < 9 ∧ parcelCheck payload = recoverCheck h check)
    (x.st ≠ .up ∨ x.waitMark = true → receive s l ty h payload check = (s, none)) ∧
    (x.st = .up → x.waitMark = false → endAlive s l.key = true →
      (¬ good → receive s l ty h payload check = (requestReplay s l.key, none)) ∧
      (good → h.ty = ty →
        (h.seq = x.rxAck + 1 → receive s l ty h payload check = (taken s l h, some (parOf h payload check))) ∧
        (2 ≤ (h.seq - x.rxAck).toNat → (h.seq - x.rxAck).toNat ≤ 32767 →
          receive s l ty h payload check = (requestReplay (acked s l h) l.key, none)) ∧
        (h.seq = x.rxAck ∨ 32767 < (h.seq - x.rxAck).toNat →
          receive s l ty h payload check = (cntAdd (acked s l h) ((qlBlk l.key).reg 0x054) 1, none))))) ∧
  (∀ (s : State) (l : LinkId) (h : Hdr), (linkGet s l.key).st = .up → l.key ≠ guestKey →
    let x := linkGet (taken s l h) l.key
    x.rxAck = h.seq ∧ x.replayReq = none ∧ x.st = .up ∧ (taken s l h).mem = s.mem ∧ (taken s l h).boll = s.boll ∧
    (seqAfter h.ack (linkGet s l.key).txSeq = false → x.replay = (linkGet s l.key).replay.filter fun p => seqAfter p.seq h.ack)) ∧
  (∀ (s : State) (l : LinkId), (linkGet s l.key).replayReq = none → (linkGet s l.key).st = .up →
    let k := l.key
    let t := requestReplay s k
    (linkGet t k).replayReq = some s.now ∧ (linkGet t k).rxAck = (linkGet s k).rxAck ∧
    rget t ((qlBlk k).reg 0x04C) = BitVec.ofNat 32 (min ((rget s ((qlBlk k).reg 0x04C)).toNat + 1) (2 ^ 32 - 1)) ∧
    ((linkGet s k).txActive ≠ 0 → ∃ round, Output.notice k 0 4 ((linkGet s k).rxAck + 1) round ∈ t.out))

/-- A data or control parcel that arrives and is released (R245, R247, R249): one for another member is passed on; one for this module
is performed where its home can be reached and nothing of its link and channel waits before it, and else waits; either frees its receive
buffer. One that is not released has no other effect, and the guest's parcels do not come by these commands.
What is the model's choice in it: log entry 38. -/
def Obligations.DataAndControlParcels : Prop :=
  (∀ (i : Instr) (ty : BitVec 4) (l : LinkId) (h : Hdr) (payload : Parcel) (check : Word) (s : State),
    (i, ty) ∈ [(Instr.write l h payload check, (1 : BitVec 4)), (.readReq l h payload check, 2), (.readData l h payload check, 3),
      (.resp l h payload check, 4), (.bollard l h payload check, 5)] →
    let t := taken s l h
    let p := parOf h payload check
    (l.key = guestKey → exec i s = .next s) ∧
    (l.key ≠ guestKey → ∀ u, receive s l ty h payload check = (u, none) → exec i s = .next u) ∧
    (l.key ≠ guestKey → Released s l ty h payload check →
      (h.dev.toNat ≠ ownDev s → exec i s = .next (freeUnit (relayPar t l.key p) l.key h.vc.toNat)) ∧
      (∀ u, h.dev.toNat = ownDev s → heldBefore s l.key p = false → perform t l.key p = some u →
        exec i s = .next (freeUnit u l.key h.vc.toNat)) ∧
      (h.dev.toNat = ownDev s → heldBefore s l.key p = true ∨ perform t l.key p = none →
        exec i s = .next { t with trans := { t.trans with held := t.trans.held ++ [⟨l.key, p⟩] } }))) ∧
  (∀ (s : State) (k : Nat) (p : QPar), p.ty = tyWrite → perform s k p = performWrite s k p) ∧
  (∀ (s : State) (k : Nat) (p : QPar), p.ty = tyReadReq → perform s k p = performRead s k p) ∧
  (∀ (s : State) (k : Nat) (p : QPar), p.ty = tyReadData → perform s k p = performData s k p) ∧
  (∀ (s : State) (k : Nat) (p : QPar), p.ty = tyResp → perform s k p = performResp s k p) ∧
  (∀ (s : State) (k : Nat) (p : QPar), p.ty = tyBollard → perform s k p = performBollard s k p) ∧
  (∀ (s : State) (k : Nat) (p : QPar), (performResp s k p).isSome = true ∧
    (reachHome s (diePoint k) (.hub 0) = true → (performBollard s k p).isSome = true) ∧
    (reachFrom s k (p.addr.toNat * 256) = true →
      (performWrite s k p).isSome = true ∧ (performRead s k p).isSome = true ∧ (performData s k p).isSome = true))

/-- A peer's WRITE into base-die SRAM that arrives at that die stores its parcel, check and poison mark and nothing else; one
to a place that does not exist or to register space stores nothing; remote adds reach only bollards that are open to them,
and a load closes them all. -/
def Obligations.PeersWriteAndSignal : Prop :=
  (∀ (s : State) (q off : Nat) (u : Nat) (p : QPar), q < 6 → off < baseSramSize → off % 256 = 0 → u < 64 →
    p.addr.toNat * 256 = baseSramBase q + off → dieState s (slotQ q) = .up → p.report = false →
    Inv s → s.mem.sramErr = [] → s.mem.sideErr = [] →
    (rget s ((blkSC (slotQ q)).reg 0x02C)).getLsbD 31 = false →
    ∃ t, performWrite s (linkKey (slotQ q) u) p = some t ∧
      t.mem.parcel (baseSramBase q + off) = ⟨p.payload, p.check, p.poison⟩ ∧
      (∀ j, (j < baseSramBase q + off ∨ baseSramBase q + off + 256 ≤ j) → Memory.read t.mem.bytes j = Memory.read s.mem.bytes j) ∧
      t.boll = s.boll ∧ t.cores = s.cores) ∧
  (∀ (s : State) (k : Nat) (p : QPar), p.report = false →
    (s.home (p.addr.toNat * 256) = none ∨ ∃ o, s.home (p.addr.toNat * 256) = some (.reg o)) → performWrite s k p = some s) ∧
  (∀ (s : State) (p : QPar) (i : Nat),
    let b := (field p.payload (64 * i) 14).toNat
    (remoteOpen s b = true → remoteAdd s p i = bollAdd s b (field p.payload (64 * i + 32) 32)) ∧
    (remoteOpen s b = false → (remoteAdd s p i).boll = s.boll ∧ (remoteAdd s p i).mem = s.mem)) ∧
  (∀ (s : State) (b : Nat), s.hm.st = .loading → remoteOpen s b = false)

/-- PARCEL_SEND: a replay in progress resends its next parcel, charged once; else the first waiting parcel of the channel whose turn it
is takes the next SEQ, charges five credits, and is kept until it is acknowledged; without room the sender stalls, which is counted once;
with nothing to send a CA block goes out; nothing does while the block is disabled or the engine's transmitters have stopped. An ACK frees what it covers, one after the last SEQ sent frees nothing and is counted. A timeout
of the oldest unacknowledged parcel or a NOTICE of reason 4 replays every parcel that remains; a replay request repeats after 2 µs.
What is the model's choice in it: log entry 126. -/
def Obligations.SendingAndReplay : Prop :=
  (∀ (l : LinkId) (s : State) (v : Nat) (p : QPar) (rest : List QPar),
    let x := linkGet s l.key
    linkLive s l.key = true → endRuns s l.key = true → blanked s l.key = false →
    x.resend = none → replayRoom s l.key = true → windowRoom x = true → nextChannel x = some v →
    takeWaiting x.waiting v = (some p, rest) → p.ty ≠ tyTime → p.owner = none → x.serving = none →
    Inv s →
    ∃ t, exec (.parcelSend l) s = .next t ∧
      (let y := linkGet t l.key
       y.txSeq = x.txSeq + 1 ∧ y.replay = x.replay ++ [{ p with seq := x.txSeq + 1, since := s.now, charged := true }] ∧
       y.waiting = rest ∧ tget y.sent p.vc.toNat 0 = tget x.sent p.vc.toNat 0 + 5 ∧ y.rxAck = x.rxAck ∧ y.st = x.st) ∧
      t.mem = s.mem ∧ t.boll = s.boll ∧ t.hm = s.hm) ∧
  (∀ (l : LinkId) (s : State), linkLive s l.key = true → endRuns s l.key = true → blanked s l.key = false →
    resendNext (linkGet s l.key) = none →
    ((linkGet s l.key).waiting = [] → exec (.parcelSend l) s = .next (sendCa s l.key)) ∧
    ((linkGet s l.key).waiting ≠ [] → replayRoom s l.key = false ∨ windowRoom (linkGet s l.key) = false →
      exec (.parcelSend l) s = .next (sendCa (if (linkGet s l.key).stalled then s
        else cntAdd (linkSet s l.key { linkGet s l.key with stalled := true }) ((qlBlk l.key).reg 0x058) 1) l.key))) ∧
  (∀ (l : LinkId) (s : State), linkLive s l.key = false ∨ endRuns s l.key = false ∨ blanked s l.key = true →
    exec (.parcelSend l) s = .next s) ∧
  (∀ (l : LinkId) (s : State) (p : QPar), linkLive s l.key = true → endRuns s l.key = true → blanked s l.key = false →
    resendNext (linkGet s l.key) = some p → exec (.parcelSend l) s = .next (if p.charged || hasCredit (linkGet s l.key) p.vc.toNat then resendPar s l.key p else sendCa s l.key)) ∧
  (∀ (s : State) (k : Nat) (a : BitVec 16),
    (seqAfter a (linkGet s k).txSeq = true → takeAck s k a = cntAdd s ((qlBlk k).reg 0x06C) 1) ∧
    ((linkGet s k).st ≠ .off → k ≠ guestKey → seqAfter a (linkGet s k).txSeq = false →
      (linkGet (takeAck s k a) k).replay = (linkGet s k).replay.filter fun p => seqAfter p.seq a)) ∧
  (∀ (l : LinkId) (vc : BitVec 2) (ack : BitVec 16) (credit : Word) (s : State), linkLive s l.key = true →
    (linkGet s l.key).waitMark = false → exec (.ca l vc ack credit) s =
    .next (takeAck (linkSet s l.key (takeCredit (linkGet s l.key) vc.toNat credit)) l.key ack)) ∧
  (∀ (l : LinkId) (s : State) (p : QPar) (rest : List QPar), (linkGet s l.key).replay = p :: rest → linkLive s l.key = true →
    p.since + 1000 * (if l.key = guestKey then 20 else (field (cfg s (qlBlk l.key) 0x038) 0 8 : BitVec 8).toNat) ≤ s.now →
    exec (.ackTimeout l) s = .next (replayAll (linkLog (cntAdd s ((qlBlk l.key).reg 0x050) 1) l.key 0x0407 p.seq.toNat) l.key)) ∧
  (∀ (l : LinkId) (lane : Byte) (expect : BitVec 16) (round : BitVec 24) (s : State), linkLive s l.key = true →
    exec (.notice l lane 4 expect round) s = .next (replayAll (takeAck s l.key (expect - 1)) l.key)) ∧
  (∀ (s : State) (k : Nat), (linkGet s k).st ≠ .off →
    let x := linkGet (replayAll s k) k
    x.resend = (linkGet s k).replay.head?.map QPar.seq ∧ x.replay.map QPar.seq = (linkGet s k).replay.map QPar.seq ∧
    x.waiting = (linkGet s k).waiting ∧ x.txSeq = (linkGet s k).txSeq) ∧
  (∀ (l : LinkId) (s : State) (since : Nat), (linkGet s l.key).replayReq = some since → linkLive s l.key = true → since + 2000 ≤ s.now →
    exec (.replayRequestResend l) s =
      .next (sendPlainNotice (linkMod s l.key fun x => { x with replayReq := some s.now }) l.key 0 4))

/-- Lanes (R238, R239, R254–R258). A round is bad by loss of signal (reason 3), a missing tally, sync header, block type or ROUND
(2), or its parity (1). A lane in service that finds one goes fatal, and the endpoint discards stream data until the MARK that removes
it. A lane that re-berths with the right identity and at most 512 blocks of skew is ready; an attempt of 800 ns is counted and begins
again. MARKs remove and add lanes and set the width. The sender answers a NOTICE of a fatal lane with a removal at its next round
boundary, and one of a retired lane is repeated every 2 µs.
What is the model's choice in it: log entry 47. -/
def Obligations.LaneCommands : Prop :=
  (∀ r : LaneRound,
    (r.signal = false → laneReason r = 3) ∧
    (r.signal = true → r.tally = none → laneReason r = 2) ∧
    (∀ p n, r.signal = true → r.tally = some (p, n) →
      let bad := (∃ h ∈ r.headers, h = 0 ∨ h = 3) ∨ (∃ t ∈ r.types, t ∉ ([0x1E, 0x2D, 0x33, 0x4B, 0x55] : List Byte)) ∨ n ≠ r.prev + 1
      (bad → laneReason r = 2) ∧ (¬ bad → laneReason r = if p = r.parity then 0 else 1))) ∧
  (∀ (l : LinkId) (found rest : List LaneRound) (r : LaneRound) (s : State),
    (found.filter fun r => laneReason r != 0) = r :: rest → linkLive s l.key = true →
    (l.key = guestKey → guestUcie s = false) →
    exec (.laneFatal l found) s =
      .next (fatalLanes s l.key ((r :: rest).map fun r => (r.lane.toNat, laneReason r)) (r.prev + 1))) ∧
  (∀ (l : LinkId) (r : LaneRound) (s : State), laneReason r ≠ 0 → linkLive s l.key = true → (l.key = guestKey → guestUcie s = false) →
    (linkGet s l.key).rxActive.getLsbD r.lane.toNat = true → (laneGet (linkGet s l.key) r.lane.toNat).fatal = false →
    ∃ t, exec (.laneFatal l [r]) s = .next t ∧ (laneGet (linkGet t l.key) r.lane.toNat).fatal = true ∧
      (linkGet t l.key).waitMark = true ∧ (linkGet t l.key).rxAck = (linkGet s l.key).rxAck ∧ t.mem = s.mem ∧ t.boll = s.boll) ∧
  (∀ (l : LinkId) (lane : Byte) (train : TrainRx) (s : State), linkLive s l.key = true →
    (laneGet (linkGet s l.key) lane.toNat).fatal = true → (laneGet (linkGet s l.key) lane.toNat).ready = false →
    (laneGet (linkGet s l.key) lane.toNat).retiring = false →
    let passes := train.skew.toNat ≤ 512 ∧ endMatches l.key train.ident train.dev train.engine = true ∧ train.lane = lane
    (passes → exec (.laneReberthed l lane train) s = .next (checkReady
      (linkMod (laneMod s l.key lane.toNat fun z => { z with ready := true }) l.key
        fun x => { x with silentAt := none, wideLoss := x.wideLoss.map fun _ => s.now }) l.key lane.toNat)) ∧
    (¬ passes → exec (.laneReberthed l lane train) s = .next (notJoined s l.key lane.toNat train))) ∧
  (∀ (l : LinkId) (lane : Byte) (s : State),
    let z := laneGet (linkGet s l.key) lane.toNat
    linkLive s l.key = true → z.fatal = true → z.ready = false → z.retiring = false → z.since + 800 ≤ s.now →
    let u := cntAdd (laneMod s l.key lane.toNat fun y => { y with since := s.now }) ((qlBlk l.key).reg 0x044) 1
    exec (.reberthTimeout l lane) s = .next (if wideLossOpen u l.key then u else laneFails u l.key lane.toNat 0 0)) ∧
  (∀ (l : LinkId) (lane : Byte) (s : State), linkLive s l.key = true → (laneGet (linkGet s l.key) lane.toNat).retiring = true →
    (laneGet (linkGet s l.key) lane.toNat).noticeAt + 2000 ≤ s.now → exec (.retireNoticeRepeat l lane) s =
      .next (sendPlainNotice (laneMod s l.key lane.toNat fun y => { y with noticeAt := s.now }) l.key lane.toNat 5)) ∧
  (∀ (l : LinkId) (lane epoch width : Byte) (round : BitVec 24) (s : State), linkLive s l.key = true →
    lane.toNat < (linkGet s l.key).rxLanes →
    ∃ t, exec (.mark l .remove lane epoch round width) s = .next t ∧ (linkGet t l.key).rxActive.getLsbD lane.toNat = false ∧
      (∀ j, j < 256 → j ≠ lane.toNat → (linkGet t l.key).rxActive.getLsbD j = (linkGet s l.key).rxActive.getLsbD j) ∧
      (linkGet t l.key).rxEpoch = epoch ∧ (linkGet t l.key).replay = (linkGet s l.key).replay ∧ t.mem = s.mem) ∧
  (∀ (l : LinkId) (lane epoch width : Byte) (round : BitVec 24) (s : State), linkLive s l.key = true →
    lane.toNat < (linkGet s l.key).rxLanes → Inv s →
    ∃ t, exec (.mark l .add lane epoch round width) s = .next t ∧ (linkGet t l.key).rxActive.getLsbD lane.toNat = true ∧
      (laneGet (linkGet t l.key) lane.toNat).fatal = false ∧ (linkGet t l.key).rxEpoch = epoch ∧ t.mem = s.mem ∧ t.regs = s.regs) ∧
  (∀ (l : LinkId) (lane epoch width : Byte) (round : BitVec 24) (s : State), linkLive s l.key = true →
    ∃ t, exec (.mark l .setWidth lane epoch round width) s = .next t ∧
      (linkGet t l.key).rxActive = upTo (width.toNat + 1) (rxService (linkGet s l.key)) ∧ (linkGet t l.key).serving = none ∧
      t.mem = s.mem ∧ t.regs = s.regs) ∧
  (∀ (l : LinkId) (lane : Byte) (reason : BitVec 4) (expect : BitVec 16) (round : BitVec 24) (s : State), linkLive s l.key = true →
    lane.toNat < (linkGet s l.key).lanes → reason = 1 ∨ reason = 2 ∨ reason = 3 → (linkGet s l.key).txActive.getLsbD lane.toNat = true →
    markQueued (linkGet s l.key) .remove lane.toNat = false →
    exec (.notice l lane reason expect round) s = .next (queueRemoval s l.key lane.toNat expect) ∧
    ((linkGet s l.key).nego = none →
      (linkGet (queueRemoval s l.key lane.toNat expect) l.key).marks = (linkGet s l.key).marks ++ [(.remove, lane.toNat, 0)])) ∧
  (∀ (s : State) (k i : Nat) (expect : BitVec 16), (linkGet s k).st = .up → i < 256 → (linkGet s k).marks = [(.remove, i, 0)] →
    (linkGet s k).replayAt = some expect →
    let v := linkMod (sendMark (linkMod s k fun x => { x with marks := [] }) k .remove i 0) k fun x => { x with
      txActive := setBit x.txActive i false, txGone := if x.txOut.getLsbD i then x.txGone else setBit x.txGone i true }
    let w := if (linkGet s k).txDue.getLsbD i = true ∨ laneMoving s k i = true then v
      else v.emit (.train k (setBit 0 i true) (identity v k) (ownDev v) (engineOf k))
    nextMark s k = checkNarrow (replayFrom (linkMod w k fun x => { x with replayAt := none }) k expect) k)

/-- Width changes and retrains, as messages that arrive in order and as requests of software (R261, R262). HELLO from the right far end
brings a training link UP, lanes that do not belong to it apart; silence takes it DOWN, it trains again after 100 µs, and a scuttle
discards what a link that is not UP holds; a neighbour pair's traffic moves to its other path and returns.
What is the model's choice in it: log entries 44, 46 and 48. -/
def Obligations.LinkStates : Prop :=
  (∀ (l : LinkId) (h : Hdr) (payload : Parcel) (check : Word) (s : State), Released s l tyLink h payload check →
    let u := freed s l h
    let k := l.key
    (msgOf payload = 2 → exec (.widthReq l h payload check) s =
      .next (meetRequest u k ⟨false, (field payload 16 16 : BitVec 16).toNat, msgNonce payload⟩)) ∧
    (msgOf payload = 3 → exec (.retrainReq l h payload check) s = .next (meetRequest u k ⟨true, 0, msgNonce payload⟩)) ∧
    (∀ n, msgOf payload = 4 → (linkGet u k).nego = some n → n.nonce = msgNonce payload →
      exec (.accept l h payload check) s = .next (accepted u k n)) ∧
    (∀ n, msgOf payload = 5 → (linkGet u k).nego = some n → n.nonce = msgNonce payload →
      exec (.refuse l h payload check) s = .next (endNego u k 2)) ∧
    (msgOf payload = 6 → ∃ w, exec (.laneOut l (.message h payload check)) s = .next w ∧
      (linkGet w k).rxOut.getLsbD (field payload 8 8 : BitVec 8).toNat = true ∧
      (linkGet w k).rxActive.getLsbD (field payload 8 8 : BitVec 8).toNat = false ∧ w.mem = s.mem)) ∧
  (∀ (s : State) (k : Nat) (n : Nego),
    ((linkGet s k).nego = none → meetRequest s k n = serveRequest s k n) ∧
    ((linkGet s k).nego.isSome = true → (linkGet s k).peerId.toNat < (identity s k).toNat → meetRequest s k n = s) ∧
    ((linkGet s k).nego.isSome = true → (identity s k).toNat ≤ (linkGet s k).peerId.toNat →
      meetRequest s k n = serveRequest (endNego (cntAdd s ((qlBlk k).reg 0x060) 1) k 3) k n) ∧
    ((linkGet s k).st = .up → n.retrain = true → (linkGet (accepted s k n) k).st = .train ∧
      (linkGet (accepted s k n) k).retraining = true) ∧
    ((linkGet s k).st = .up → n.retrain = false →
      (linkGet (accepted s k n) k).marks = (linkGet s k).marks ++ [(.setWidth, 0, n.target - 1)])) ∧
  (∀ (l : LinkId) (lane : Byte) (s : State), linkLive s l.key = true → (linkGet s l.key).txDue.getLsbD lane.toNat = true →
    noSpare s l.key lane.toNat = true → exec (.laneOut l (.here lane)) s = .next (leftOut s l.key lane.toNat)) ∧
  (∀ (l : LinkId) (value : Word) (s : State), endAlive s l.key = true → isBusy s (qlBlk l.key) = false → value.getLsbD 31 = true →
    let u := acceptWrite s (qlBlk l.key)
    ((linkGet s l.key).nego = none →
      (value.getLsbD 30 = false → exec (.qlWidthReq l value) s = .next (startNego u l.key value)) ∧
      (value.getLsbD 30 = true → exec (.qlRetrain l value) s = .next (startNego u l.key value))) ∧
    ((linkGet s l.key).nego.isSome = true →
      exec (.qlWidthReq l value) s = .next (rset u ((qlBlk l.key).reg 0x028) value) ∧
      exec (.qlRetrain l value) s = .next (rset u ((qlBlk l.key).reg 0x028) value))) ∧
  (∀ (l : LinkId) (expect : BitVec 16) (s : State), (linkGet s l.key).st = .train → (linkGet s l.key).retraining = true →
    endAlive s l.key = true → (linkGet s l.key).nego = none → ∃ t, exec (.retrainDone l expect) s = .next t ∧
      (linkGet t l.key).st = .up ∧ (linkGet t l.key).retraining = false ∧ t.mem = s.mem) ∧
  (∀ (l : LinkId) (h : Hdr) (payload : Parcel) (check : Word) (strays : List (Byte × TrainRx)) (s : State),
    let x := linkGet s l.key
    msgOf payload = 1 → x.st = .train → x.retraining = false → endAlive s l.key = true → trainable s l.key = true →
    h.ty = tyLink → parcelCheck payload = recoverCheck h check →
    exec (.hello l h payload check strays) s = .next (helloUp s l.key payload strays) ∧
    (endMatches l.key (field payload 64 64) (field payload 128 8) (field payload 136 8) = false →
      helloUp s l.key payload strays = noneJoined s l.key payload) ∧
    (endMatches l.key (field payload 64 64) (field payload 128 8) (field payload 136 8) = true → strays = [] →
      (isOptical l.key = false ∨ x.lanes ≤ (field payload 144 16 : BitVec 16).toNat) →
      upWidth s l.key ≤ widthOf x.txActive → upWidth s l.key ≤ widthOf x.rxActive →
      helloUp s l.key payload strays = linkUp s l.key (payload.getLsbD 8) (field payload 16 16) (field payload 64 64))) ∧
  (∀ (s : State) (k : Nat) (far : Bool) (expect : BitVec 16) (id : Dword), (linkGet (linkUp s k far expect id) k).st = .up ∧
    (linkGet (linkUp s k far expect id) k).peerId = id) ∧
  (∀ (l : LinkId) (s : State) (since : Nat), (linkGet s l.key).silentAt = some since → linkLive s l.key = true → since + 100000 ≤ s.now →
    exec (.linkSilentTimeout l) s = .next (linkDown s l.key)) ∧
  (∀ (s : State) (k : Nat), (linkGet s k).st = .up → (linkGet (linkDown s k) k).st = .down ∧
    (linkGet (linkDown s k) k).replay = (linkGet s k).replay ∧ (linkGet (linkDown s k) k).waiting = (linkGet s k).waiting) ∧
  (∀ (l : LinkId) (s : State), (linkGet s l.key).st = .down → trainable s l.key = true → linkExists s l.key = true →
    endAlive s l.key = true → (linkGet s l.key).triedAt + 100000 ≤ s.now → exec (.linkTrainRetry l) s = .next (trainLink s l.key)) ∧
  (∀ (l : LinkId) (value : Word) (s : State), endAlive s l.key = true → isBusy s (qlBlk l.key) = false → value.getLsbD 31 = true →
    let u := rset (acceptWrite s (qlBlk l.key)) ((qlBlk l.key).reg 0x030) 0
    ((linkGet s l.key).st = .train ∨ (linkGet s l.key).st = .down →
      exec (.qlScuttle l value false) s = .next (logCapture (scuttle u l.key) ((qlBlk l.key).reg 0x034) 0)) ∧
    ((linkGet s l.key).st = .up ∨ (linkGet s l.key).st = .off →
      exec (.qlScuttle l value false) s = .next (logCapture u ((qlBlk l.key).reg 0x034) 1))) ∧
  (∀ (a b : Fin 6) (s : State), (edgeTo a.val b.val).isSome = true → pairIsUp s a.val b.val = false →
    exec (.pairReroute a b) s = .next (orderedPairs.foldl (movePair a.val b.val) s)) ∧
  (∀ (a b : Fin 6) (s : State), (edgeTo a.val b.val).isSome = true → pairIsUp s a.val b.val = true →
    tget s.hm.pairUp (min a.val b.val * 6 + max a.val b.val) 0 + 1000000 ≤ s.now →
    exec (.pairReturn a b) s = .next (orderedPairs.foldl (returnPair a.val b.val) s))

/-! ## The chart -/

/-- STOP, LOAD and RUN: a command is refused with code 9 in a state that does not accept it and with code 10 where it is
reserved; STOP ends every voyage and discards every entry; LOAD takes the chart's bytes as they stand and holds BT busy; a load that fails
verification leaves the chart and the state as they were; one that completes leaves the harbourmaster STOPPED under the new chart, and
one that meets a die that does not answer FAILED without one; RUN enables the chart's blocks.
What is the model's choice in it: log entries 59 and 62. -/
def Obligations.ChartCommands : Prop :=
  (∀ (value : Word) (s : State), hubUp s = true → isBusy s blkHM = false → value.getLsbD 31 = true →
    let n := (field value 0 2 : BitVec 2).toNat
    let w := hmTaken (acceptWrite s blkHM)
    (n = 0 → exec (.hmCmdInvalid value) s = .next (hmResult w 0 10 [] 0)) ∧
    (n = 1 → exec (.stop value) s = .next (if s.hm.st = .running then
        let u := discardEntries (hmSet w .stopping)
        (running u).foldl (fun t set => killVoyage t set 0x20 0) u
      else hmResult w 1 9 [] 0)) ∧
    (n = 2 → s.hm.st = .running ∨ s.hm.st = .stopping ∨ s.hm.st = .loading → exec (.load value) s = .next (hmResult w 2 9 [] 0)) ∧
    (n = 2 → s.hm.st = .empty ∨ s.hm.st = .stopped ∨ s.hm.st = .failed → ∃ t bytes, exec (.load value) s = .next t ∧
      t.hm = { s.hm with st := .loading, loading := some {
        offset := (field value 8 18 : BitVec 18).toNat * 256, start := s.now, bytes := bytes, prior := s.hm.st } } ∧
      isBusy t blkBT = true ∧ t.boll = s.boll ∧ t.berth = s.berth ∧ t.launch = s.launch) ∧
    (n = 3 → s.hm.st ≠ .stopped → exec (.run value) s = .next (hmResult w 3 9 [] 0)) ∧
    (n = 3 → s.hm.st = .stopped →
      let l := (chartBlocks (upSlots w) (match s.hm.chart with
        | some c => mapped c
        | none => [])).filter fun b => !enabled w b
      (∀ u, enableAll w l = (u, none) → exec (.run value) s = .next (hmResult (hmSet u .running) 3 0 [] 0)) ∧
      (∀ u slot, enableAll w l = (u, some slot) → exec (.run value) s = .next (hmResult u 3 8 [] slot)))) ∧
  (∀ s : State, s.hm.st = .stopping → running s = [] → (∀ t ∈ s.cores.tug, t.2.slots = [] ∧ t.2.pend = []) →
    exec .stopDone s = .next (cntAdd (hmSet s .stopped) (blkHM.reg 0x048) 1)) ∧
  (∀ (s : State) (l : Loading), s.hm.loading = some l → l.chart = none →
    (∀ code shorts sig, verifyChart s l.offset l.bytes = .fails code shorts sig → ∃ t, exec .loadVerifyDone s = .next t ∧
      t.hm = { s.hm with st := l.prior, loading := none } ∧ t.mem = s.mem ∧ t.boll = s.boll ∧ t.berth = s.berth ∧ t.launch = s.launch) ∧
    (∀ c, verifyChart s l.offset l.bytes = .loads c → ∃ t, exec .loadVerifyDone s = .next t ∧
      t.hm.loading = some { l with chart := some c, dies := upSlots s })) ∧
  (∀ (s : State) (l : Loading) (c : Chart), s.hm.loading = some l → l.chart = some c → preloadHeld s c l.dies = true →
    exec .loadDistributionDone s = .next s) ∧
  (∀ (s u : State) (l : Loading) (c : Chart), s.hm.loading = some l → l.chart = some c → preloadHeld s c l.dies = false →
    (distribute s c l.dies = (u, none) → exec .loadDistributionDone s =
      .next (hmEvent (hmResult (cntAdd (endLoad u .stopped) (blkHM.reg 0x028) 1) 2 0 [] 0) (hmWord 2 0 0 0))) ∧
    (∀ slot, distribute s c l.dies = (u, some slot) → exec .loadDistributionDone s = .next (loadFail u slot)) ∧
    ∃ t, exec .loadDistributionDone s = .next t ∧ t.hm.loading = none ∧ (t.hm.st = .stopped ∨ t.hm.st = .failed ∧ t.hm.chart = none)) ∧
  (∀ (slot : Fin 41) (s : State) (l : Loading), s.hm.loading = some l → l.chart.isSome = true → slot.val ∈ l.dies →
    ∃ t, exec (.loadFailed slot) s = .next t ∧ t.hm.st = .failed ∧ t.hm.chart = none ∧ t.hm.loading = none ∧ t.mem = s.mem)

/-! ## Dies and the guest -/

/-- Dies that drop out alone: a governed die that runs goes LOST with its cause and takes the compute dies on it along
(cause 4); a clock loss is counted, and takes the hub with its module; a LOST die is let out of reset, 1 ms after a loss of its clocks,
stays LOST where its straps are bad, and is UP again once it is configured, an engine once its transmit rings have settled; a quarantine holds it until a release. Commands on dies give
the codes of HM_DIE_RES.
What is the model's choice in it: log entries 64, 65 and 66. -/
def Obligations.DieCommands : Prop :=
  (∀ (slot : Fin 41) (s : State), hubUp s = true → governed slot.val = true → dieRuns s slot.val = true →
    let lose (u : State) (cause : Nat) : State :=
      ((dependants slot.val).filter fun c => dieRuns u c).foldl (fun t c => loseOne t c 4) (loseOne u slot.val cause)
    (∀ cause : BitVec 3, exec (.dieLost slot cause) s = .next (lose s cause.toNat)) ∧
    exec (.diePresenceTimeout slot) s = .next (lose s 3) ∧
    exec (.clockMonitorReset slot) s = .next (lose (cntAdd s ((blkCK slot.val).reg 0x014) 1) 2)) ∧
  (∀ s : State, hubUp s = true → exec (.clockMonitorReset 0) s = .next (hubResets s 6)) ∧
  (∀ (s : State) (slot cause : Nat), s.hm.loading = none →
    dieState (loseOne s slot cause) slot = .lost ∧ (dieGet (loseOne s slot cause) slot).cause = cause ∧
    (slot, cause) ∈ (loseOne s slot cause).hm.losses) ∧
  (∀ (slot : Fin 41) (straps : BitVec 6) (s : State), hubUp s = true → governed slot.val = true → dieState s slot.val = .lost →
    (dieType slot.val = some 2 → dieState s (baseBelow slot.val) ≠ .lost ∧ dieState s (baseBelow slot.val) ≠ .quarantined) →
    ((dieGet s slot.val).cause = 2 → (dieGet s slot.val).lostAt + 1000000 ≤ s.now) →
    exec (.dieResetRelease slot straps) s = .next (startRejoin s slot.val straps.toNat) ∧
    (dieType straps.toNat ≠ dieType slot.val → startRejoin s slot.val straps.toNat =
      strapsBad (rset s ((blkID slot.val).reg 0x010) (siteWord slot.val straps.toNat)) slot.val straps.toNat) ∧
    (dieType straps.toNat = dieType slot.val → dieState (startRejoin s slot.val straps.toNat) slot.val = .rejoining)) ∧
  (∀ (slot : Fin 41) (bist : List (Fin 48 × SiteTest)) (s : State),
    let n := slot.val
    let lost := dieType n == some 2 || (dieType n == some 1 && !(dieGet s n).planned)
    hubUp s = true → dieState s n = .rejoining → (dieType n = some 2 → dieState s (baseBelow n) = .up) → distributing s = false →
    (dieType n = some 3 → ringsSettled s (n - 24) = true) →
    exec (.dieRejoinUp slot bist) s = .next (
      let t := dieSet s n { st := .up, stateLost := lost }
      let t := match dieType n with
        | some 1 => baseBack t n (dieGet s n).planned
        | some 2 => noteBist t (n - 8) bist
        | _ => t
      let t := if dieType n = some 3 then (engineKeys (n - 24)).foldl (fun t k => linkMod t k fun x => { x with fresh := true }) t else t
      let t := configDie t n
      freeHeld (logRecord t 0x0511 n 0 lost.toNat 0 0)) ∧
    (dieType n = some 3 → ∀ r ∈ (enPlaces (oeGet s (n - 24))).flatMap fun p => placeRings p.2,
      (oeGet s (n - 24)).dark = true ∨ (ringGet (oeGet s (n - 24)) r).st = .locked ∨ (ringGet (oeGet s (n - 24)) r).st = .givenUp)) ∧
  (∀ (value : Word) (bad : List (Fin 41)) (s : State), hubUp s = true → isBusy s blkHM = false → value.getLsbD 31 = true →
    let slot := (field value 0 6 : BitVec 6).toNat
    let cmd := (field value 8 2 : BitVec 2).toNat
    let u := rset (acceptWrite s blkHM) (blkHM.reg 0x2C0) 0
    (cmd = 0 ∨ cmd = 3 → exec (.hmDieCmdInvalid value) s = .next (dieResult u 4 slot)) ∧
    (cmd = 1 → governed slot = true → s.hm.st ≠ .loading → siteState u slot ≠ .quarantined →
      exec (.quarantine value) s = .next (dieResult (quarantineDie u slot) 0 slot)) ∧
    (cmd = 1 → slot = 40 → guestPresent s = true → s.hm.st ≠ .loading → s.guest.quar = false →
      exec (.quarantine value) s = .next (dieResult (guestQuarantine u) 0 slot)) ∧
    (cmd = 2 → governed slot = true → s.hm.st ≠ .loading → siteState u slot = .quarantined →
      exec (.release value bad) s = .next (dieResult (releaseDie u slot (bad.map Fin.val)) 0 slot)) ∧
    (∀ i, (i, cmd) ∈ [(Instr.quarantine value, 1), (.release value bad, 2)] →
      (commandable u slot = false → exec i s = .next (dieResult u 1 slot)) ∧
      (commandable u slot = true → s.hm.st = .loading → exec i s = .next (dieResult u 3 slot)) ∧
      (commandable u slot = true → s.hm.st ≠ .loading → (siteState u slot = .quarantined ↔ cmd = 1) →
        exec i s = .next (dieResult u 2 slot))))

/-- The guest berth: a parcel in order, whole and within credit is released and admitted, or refused by the first check of R294
that it fails, and a refused one changes no memory, no bollard and no core; one beyond credit is a violation and is dropped; the
switch quarantines the port whatever EN is; the port goes down and comes up fresh.
What is the model's choice in it: log entry 103. -/
def Obligations.GuestCommands : Prop :=
  (∀ (h : Hdr) (payload : Parcel) (check : Word) (s : State), hubUp s = true → guestPresent s = true → enabled s blkGF = true →
    s.guest.quar = false → guestUp s = true → h.seq = (linkGet s guestKey).rxAck + 1 →
    let l : LinkId := ⟨0, 2⟩
    let t := taken s l h
    let u : State := { t with guest := { t.guest with rxCount := tmod t.guest.rxCount h.vc.toNat 0 (· + 1) } }
    (beyondCredit s h.vc.toNat = true → exec (.guestParcelIn h payload check) s =
      .next (logRecord (cntAdd s (blkGF.reg 0x034) 1) 0x0521 0 0 h.vc.toNat 0 0)) ∧
    (beyondCredit s h.vc.toNat = false → Released s l h.ty h payload check →
      (breakwater u h payload = 0 →
        exec (.guestParcelIn h payload check) s = .next (guestAdmit u h payload (recoverCheck h check))) ∧
      (breakwater u h payload ≠ 0 → ∃ r, exec (.guestParcelIn h payload check) s = .next r ∧ r.mem = s.mem ∧ r.boll = s.boll ∧
        r.cores = t.cores ∧
        rget r (blkGF.reg 0x030) = BitVec.ofNat 32 (min ((rget s (blkGF.reg 0x030)).toNat + 1) (2 ^ 32 - 1))))) ∧
  (∀ (h : Hdr) (payload : Parcel) (check : Word) (s : State), hubUp s = true → guestPresent s = true → enabled s blkGF = true →
    s.guest.quar = true → exec (.guestParcelIn h payload check) s = .next (guestRefuse s h payload 1)) ∧
  (∀ (s : State) (h : Hdr) (payload : Parcel), h.ty = tyWrite → breakwater s h payload = 0 →
    s.guest.quar = false ∧ windowOk s (h.addr.toNat * 256) 256 false true = true ∧ h.dev.toNat = ownDev s) ∧
  (∀ (value : Word) (s : State), hubUp s = true → isBusy s blkGF = false → value.getLsbD 0 = true → s.guest.quar = false →
    ∃ t, exec (.gfQuarSet value) s = .next t ∧ t.guest.quar = true ∧ guestUp t = false ∧ t.guest.deferred = []) ∧
  (∀ (value : Word) (s : State), hubUp s = true → isBusy s blkGF = false → value.getLsbD 0 = true → s.guest.quar = true →
    ∃ t, exec (.gfQuarClr value) s = .next t ∧ t.guest = { s.guest with quar := false }) ∧
  (∀ s : State, hubUp s = true → guestUp s = true → ∃ t, exec .guestPortDown s = .next t ∧ guestUp t = false ∧ t.guest.rate = 0 ∧
    t.mem = s.mem) ∧
  (∀ (rate : BitVec 9) (s : State), hubUp s = true → guestPresent s = true → enabled s blkGF = true → s.guest.quar = false →
    guestUp s = false → s.pw.guestOn = true → guestRateOk s rate.toNat = true → ∃ t, exec (.guestPortUp rate) s = .next t ∧
      guestUp t = true ∧ (linkGet t guestKey).rxAck = 0 ∧ t.guest.rate = rate.toNat ∧ t.mem = s.mem)

/-! ## Optical engines and laser chiplets -/

/-- Rings: a sweep that finds a line within the heater's reach acquires it, an acquired ring is checked, a passed check locks it; failures
count, the third gives the ring up, and a lock to the wrong line sweeps the other way. A locked ring is checked again when its period has passed.
A lit receive place is steered to the lane its identity names, of two with one identity the one lit later; lost light is timed, returned light
starts the place's rings and repeats the checks of the locked ones, and 10 µs of darkness park its rings; a lane moves to a spare place that no
due lane of a lower index takes, and the home-line test finds bad fibres.
What is the model's choice in it: log entries 53, 55, 156, 157 and 158. -/
def Obligations.RingsAndPlaces : Prop :=
  (∀ (n : Fin 8) (ring : Fin 10999) (code : BitVec 16) (s : State), ringIn s n.val ring.val .sweep = true →
    (code.toNat ≤ heaterLimit s n.val → exec (.ringSweepDone n ring (some code)) s =
      .next (ringEnter s n.val ring.val .acquire fun v => { v with heater := code })) ∧
    (∀ found, found = none ∨ (found = some code ∧ heaterLimit s n.val < code.toNat) → exec (.ringSweepDone n ring found) s =
      .next (if ringClass ring.val = 3 then parkRing s n.val ring.val else ringFails s n.val ring.val 1))) ∧
  (∀ (n : Fin 8) (ring : Fin 10999) (s : State),
    let v := ringGet (oeGet s n.val) ring.val
    ringIn s n.val ring.val .parked = true →
    (ringClass ring.val = 3 → v.since + 1000000 ≤ s.now → exec (.ringSweepRetry n ring) s = .next (startRing s n.val ring.val)) ∧
    (ringClass ring.val = 3 → s.now < v.since + 1000000 → exec (.ringSweepRetry n ring) s = .next s) ∧
    (ringClass ring.val ≠ 3 → v.fails ≠ 0 → exec (.ringSweepRetry n ring) s = .next (sweepRing s n.val ring.val false))) ∧
  (∀ (n : Fin 8) (ring : Fin 10999) (code : BitVec 16) (err : Byte) (s : State), ringIn s n.val ring.val .acquire = true →
    (code.toNat ≤ heaterLimit s n.val → exec (.ringAcquired n ring code err) s =
      .next (ringEnter (loopAt s n.val ring.val code err) n.val ring.val .check id)) ∧
    (heaterLimit s n.val < code.toNat → exec (.ringAcquired n ring code err) s = .next (ringFails s n.val ring.val 1))) ∧
  (∀ (n : Fin 8) (ring : Fin 10999) (tones : List (BitVec 16)) (s : State), ringIn s n.val ring.val .check = true →
    let x := oeGet s n.val
    let v := ringVerdict x n.val ring.val tones
    (s.now < (ringGet x ring.val).since + 100000 → exec (.ringIdentityCheck n ring tones) s = .next s) ∧
    ((ringGet x ring.val).since + 100000 ≤ s.now →
      (v = .passed → ∃ t, exec (.ringIdentityCheck n ring tones) s = .next t ∧ (ringGet (oeGet t n.val) ring.val).st = .locked ∧
        (∀ r, r ≠ ring.val → ringGet (oeGet t n.val) r = ringGet x r) ∧ t.mem = s.mem ∧ t.links = s.links) ∧
      (v = .failed → exec (.ringIdentityCheck n ring tones) s = .next (ringFails s n.val ring.val 0)) ∧
      (∀ found, v = .wrongLine found → exec (.ringIdentityCheck n ring tones) s = .next (wrongLine s n.val ring.val found)))) ∧
  (∀ (x : OeSt) (n r own : Nat) (l : List (BitVec 16)), ringLine x r = some own → own < 18 →
    let near (limit : Nat) : Prop := (toneAt l own - (Config.toneLevel n r).toInt).natAbs ≤ limit
    (ringClass r = 1 → (ringVerdict x n r l = .passed ↔ near 100)) ∧
    (ringClass r = 2 → (ringVerdict x n r l = .passed ↔ near 300)) ∧
    (ringClass r ≠ 1 → ringClass r ≠ 2 → (ringVerdict x n r l = .passed ↔
      (∀ k, k < 18 → k ≠ own → toneAt l k + 1000 ≤ toneAt l own) ∧ near 600))) ∧
  (∀ (n : Fin 8) (ring : Fin 10999) (tones : List (BitVec 16)) (s : State), ringIn s n.val ring.val .locked = true →
    let x := oeGet s n.val
    let v := ringVerdict x n.val ring.val tones
    let u := ringMod s n.val ring.val fun v => { v with checkedAt := s.now, recheck := none }
    (checkDue s n.val (ringGet x ring.val) = false → exec (.ringPeriodicCheck n ring tones) s = .next s) ∧
    (checkDue s n.val (ringGet x ring.val) = true → ringDark x ring.val = false →
      (v = .passed → exec (.ringPeriodicCheck n ring tones) s = .next u) ∧
      (v = .failed → exec (.ringPeriodicCheck n ring tones) s = .next (ringFails (ringFatal u n.val ring.val) n.val ring.val 0)) ∧
      (∀ found, v = .wrongLine found →
        exec (.ringPeriodicCheck n ring tones) s = .next (wrongLine (ringFatal u n.val ring.val) n.val ring.val found)))) ∧
  (∀ (n : Fin 8) (ring : Fin 10999) (err : Byte) (code : BitVec 16) (s : State), ringIn s n.val ring.val .locked = true →
    ringDark (oeGet s n.val) ring.val = false →
    let limit := (field (cfg s (blkOE n.val) 0x100) 16 8).toNat
    (limit < err.toInt.natAbs → exec (.ringUnlock n ring err code) s =
      .next (ringFails (ringFatal (loopAt s n.val ring.val code err) n.val ring.val) n.val ring.val 2)) ∧
    (err.toInt.natAbs ≤ limit → code.toNat < heaterLimit s n.val →
      exec (.ringUnlock n ring err code) s = .next (loopAt s n.val ring.val code err))) ∧
  (∀ (s : State) (n r kind : Nat),
    let v := ringGet (oeGet s n) r
    let u := oeMod s n fun x => ringSet x r { v with fails := min 3 (v.fails + 1) }
    (2 ≤ v.fails → ringFails s n r kind = giveUp u n r kind) ∧
    (v.fails < 2 → ringFails s n r kind = if kind = 1 then toPark u n r else sweepRing u n r false)) ∧
  (∀ (n : Fin 8) (place : Fin 306) (dev : BitVec 4) (engine : Fin 8) (lane : Byte) (s : State), oeUp s n.val = true →
    (rxGet (oeGet s n.val) place.val).lit = true → badIdentity s n.val dev.toNat engine.val lane.toNat = false →
    (laneGet (linkGet s (opticKey n.val dev.toNat)) lane.toNat).retiring = false →
    exec (.receivePlaceSteer n place dev engine lane) s = .next (oeMod s n.val fun x => steerFrom s n.val { x with
      ident := insertIdent x (place.val, dev.toNat, lane.toNat) (x.ident.filter fun i => i.1 != place.val) })) ∧
  (∀ (x : OeSt) (i j : Nat × Nat × Nat), i.1 ≠ j.1 → (rxGet x i.1).litAt < (rxGet x j.1).litAt →
    insertIdent x i [j] = [j, i] ∧ insertIdent x j [i] = [j, i]) ∧
  (∀ (n : Fin 8) (lane : Byte) (ring : Bool) (s : State), oeUp s n.val = true → moveDue s n.val lane.toNat ring = true →
    exec (.placeMove n lane ring) s = .next (moveLane s n.val lane.toNat ring.toNat (takenBelow s n.val lane.toNat))) ∧
  (∀ (n : Fin 8) (lane : Byte) (s : State),
    let p := placeGet (oeGet s n.val) lane.toNat
    oeUp s n.val = true → p.en = true → p.moving = true → (∀ r ∈ placeRings p, (ringGet (oeGet s n.val) r).st = .locked) →
    exec (.placeMoveDone n lane) s =
      .next (trainMoved (oeSet s n.val (placeSet (oeGet s n.val) lane.toNat { p with moving := false })) n.val lane.toNat)) ∧
  (∀ (n : Fin 8) (value : Word) (bad : BitVec 17) (delays : List (Fin 17 × BitVec 16)) (s : State), oeUp s n.val = true →
    isBusy s (blkOE n.val) = false → value.getLsbD 0 = true → field (cfg s (blkOE n.val) 0x010) 16 16 ≠ 0 →
    exec (.oeHomeTest n value bad delays) s = .next (oeMod (acceptWrite s (blkOE n.val)) n.val fun x => { x with
      fibreBad := bad, homeDelay := delays.foldl (fun m d => tput m d.1.val (some d.2)) x.homeDelay })) ∧
  (∀ (n : Fin 8) (place : Fin 306) (s : State),
    let p := rxGet (oeGet s n.val) place.val
    oeRuns s n.val = true → p.lit = true → p.darkAt = none → exec (.ringLightLoss n (.rx place)) s =
    .next (dimRings (oeMod s n.val fun x => { x with rx := tset x.rx place.val { p with darkAt := some s.now } {} }) n.val (rxRings place.val))) ∧
  (∀ (n : Fin 8) (lane : Byte) (s : State),
    let p := placeGet (oeGet s n.val) lane.toNat
    let u := oeMod s n.val fun x => placeSet x lane.toNat { p with darkAt := some s.now }
    oeRuns s n.val = true → p.en = true → p.darkAt = none → exec (.ringLightLoss n (.tx lane)) s =
      .next (dimRings u n.val ((placeRings p).filter fun r => ringDark (oeGet u n.val) r))) ∧
  (∀ (n : Fin 8) (place : Fin 306) (power : BitVec 16) (s : State), oeRuns s n.val = true → exec (.ringLightReturn n (.rx place) power) s =
    .next (lightBack (oeMod s n.val fun x =>
      { x with rx := tset x.rx place.val { rxGet x place.val with
          lit := true, litAt := if (rxGet x place.val).lit then (rxGet x place.val).litAt else s.now, power := power, darkAt := none } {} })
      n.val (rxRings place.val))) ∧
  (∀ (n : Fin 8) (lane : Byte) (power : BitVec 16) (s : State),
    let p := placeGet (oeGet s n.val) lane.toNat
    oeRuns s n.val = true → (oeGet s n.val).dark = false → inSafe s (blkOE n.val) = false → p.darkAt.isSome = true →
    exec (.ringLightReturn n (.tx lane) power) s =
      .next (lightBack (oeSet s n.val (placeSet (oeGet s n.val) lane.toNat { p with darkAt := none })) n.val (placeRings p))) ∧
  (∀ (s : State) (n r : Nat), (ringGet (oeGet s n) r).st = .locked →
    (ringGet (oeGet (lightBack s n []) n) r).st = .locked ∧ (ringGet (oeGet (lightBack s n []) n) r).recheck = some s.now) ∧
  (∀ (n : Fin 8) (place : Fin 306) (s : State) (since : Nat), (rxGet (oeGet s n.val) place.val).darkAt = some since →
    oeRuns s n.val = true → since + 10000 ≤ s.now → exec (.ringDarkTimeout n (.rx place)) s = .next (
      let t := (rxRings place.val).foldl (fun t r => parkRing t n.val r) s
      oeMod t n.val fun x => steerFrom t n.val { x with
        rx := tset x.rx place.val { rxGet (oeGet s n.val) place.val with lit := false, darkAt := none } {}
        ident := x.ident.filter fun i => i.1 != place.val })) ∧
  (∀ (n : Fin 8) (lane : Byte) (s : State) (since : Nat),
    let p := placeGet (oeGet s n.val) lane.toNat
    p.en = true → p.darkAt = some since → oeRuns s n.val = true → since + 10000 ≤ s.now → exec (.ringDarkTimeout n (.tx lane)) s =
      .next (((placeRings p).filter (ringDark (oeGet s n.val))).foldl (fun t r => parkRing t n.val r) s))

/-- Forecasts, weight-bank readings, calibration and received power. A calibration record is written over the copy that was not loaded, with GEN
one higher and a CHECK that is right; one that power loss breaks before its header is whole is not valid and moves no value.
What is the model's choice in it: log entries 56, 159, 160 and 161. -/
def Obligations.EngineCommands : Prop :=
  (∀ (n : Fin 8) (f : Forecast) (s : State), s.launch.forecasts = [f] → f.engines.contains n.val = true → oeUp s n.val = true →
    enabled s (blkOE n.val) = true → ∃ t, exec (.forecastReceive n f.fire) s = .next t ∧
    rget t ((blkOE n.val).reg 0x11C) = BitVec.ofNat 32 (min ((rget s ((blkOE n.val).reg 0x11C)).toNat + 1) (2 ^ 32 - 1)) ∧
    rget t ((blkOE n.val).reg 0x120) = (if f.fire.toNat < s.tide.hub.toNat + 40000
      then BitVec.ofNat 32 (min ((rget s ((blkOE n.val).reg 0x120)).toNat + 1) (2 ^ 32 - 1)) else rget s ((blkOE n.val).reg 0x120)) ∧
    (⟨f.fire, s.now, f.steps⟩ : FfProfile) ∈ (oeGet t n.val).profiles ∧
    t.launch.forecasts = [{ f with engines := f.engines.erase n.val }]) ∧
  (∀ (n : Fin 8) (value : Word) (s : State),
    let slot := (field value 0 9).toNat
    let time := (field value 9 10).toNat
    let u := acceptWrite s (blkOE n.val)
    oeRuns s n.val = true → isBusy s (blkOE n.val) = false → value.getLsbD 31 = true → (oeGet s n.val).wb = none → slot < 272 →
    1 ≤ time → time ≤ 1000 → exec (.oeWbCmd n value) s = .next (if slotBusy u n.val slot
      then logCapture (rset u ((blkOE n.val).reg 0x130) 0) ((blkOE n.val).reg 0x134) 1
      else rset (oeMod u n.val fun x => { x with wb := some { slot := slot, tint := time, start := if wbOpen u n.val then some s.now else none } })
        ((blkOE n.val).reg 0x130) value)) ∧
  (∀ (n : Fin 8) (sum : Word) (s : State) (w : WbRead) (since : Nat), (oeGet s n.val).wb = some w → w.start = some since →
    oeRuns s n.val = true →
    (since + 1000 * w.tint ≤ s.now → Inv s → ∃ t, exec (.weightBankReadingDone n sum false) s = .next t ∧ (oeGet t n.val).wbSum = sum ∧
      (oeGet t n.val).wb = none ∧ t.mem = s.mem ∧ t.links = s.links) ∧
    (s.now < since + 1000 * w.tint → exec (.weightBankReadingDone n sum false) s = .next s)) ∧
  (∀ (n : Fin 8) (sum : Word) (s : State) (w : WbRead), (oeGet s n.val).wb = some w → oeRuns s n.val = true →
    exec (.weightBankReadingDone n sum true) s = .next (dropReading s n.val)) ∧
  (∀ (n : Fin 8) (value : Word) (collides : Option Word) (s : State), oeUp s n.val = true → isBusy s (blkOE n.val) = false →
    exec (.oeLockerrMax n value collides) s =
      .next (rset (acceptWrite s (blkOE n.val)) ((blkOE n.val).reg 0x124) (collides.getD value))) ∧
  (∀ s : State,
    let ms := s.tide.hub.toNat / 1000000
    (windowLeft s kindCalib ≠ 0 → s.cal.stepMs ≠ some ms → exec .calibrationStep s =
      .next { s with cal := { s.cal with use := tmap s.cal.use none fun _ v => v.map CalVal.stepped, stepMs := some ms } }) ∧
    (windowLeft s kindCalib = 0 ∨ s.cal.stepMs = some ms → exec .calibrationStep s = .next s)) ∧
  (∀ v : CalVal, (v.stepped.target - v.stepped.now).natAbs ≤ (v.target - v.now).natAbs ∧
    (v.now ≠ v.target → (v.target - v.stepped.now).natAbs < (v.target - v.now).natAbs)) ∧
  (∀ (s : State) (n g c : Nat), kappaOf s n g c ≤ 60000 ∧ (ownDie n c = false → kappaOf s n g c ≤ 20000)) ∧
  (∀ (n : Fin 8) (place : Fin 306) (power : BitVec 16) (s : State),
    let p := rxGet (oeGet s n.val) place.val
    let short := (rxReference s n.val place.val - power.toInt).toNat
    oeUp s n.val = true → p.lit = true →
    (140 ≤ short → p.lowAt = none → exec (.rxPowerLow n place power) s = .next (oeLog (cntAdd (oeMod s n.val fun x =>
      { x with rx := tset x.rx place.val { p with power := power, lowAt := some s.now } {} }) ((blkOE n.val).reg 0x128) 1) n.val 0x0608
      (place.val / 18 + 256 * (place.val % 18) + 65536 * min 0xFFFF short) (9792 + place.val))) ∧
    (short < 140 → exec (.rxPowerLow n place power) s = .next s)) ∧
  (∀ (ty : Fin 10) (slot : Fin 41) (values : List (Word × Word)) (s : State), calDies ty.val slot.val = true →
    hubUp s = true → tget s.nor.last (calKey ty.val slot.val) none = none →
    let u := tget s.cal.inUse (calKey ty.val slot.val) 0
    (s.cal.use.length + values.length < 2 ^ 29 → ∃ t, exec (.calRecordWrite ty slot none values) s = .next t ∧
      (calGet t ty.val slot.val (1 - u)).gen = (calGet s ty.val slot.val u).gen + 1 ∧
      (calGet t ty.val slot.val (1 - u)).valid (deviceId s) (1 - u) = true ∧
      calGet t ty.val slot.val u = calGet s ty.val slot.val u ∧ t.oe = s.oe ∧ t.mem = s.mem) ∧
    (∀ n : BitVec 16, n.toNat < 28 → ∃ t, exec (.calRecordWrite ty slot (some n) values) s = .next t ∧
      (calGet t ty.val slot.val (1 - u)).valid (deviceId s) (1 - u) = false ∧
      calGet t ty.val slot.val u = calGet s ty.val slot.val u ∧ t.cal = s.cal ∧ t.mem = s.mem))

/-- Laser chiplets: thresholds, requests, and switchovers of each kind. A scheduled one stops the transmitters first, and the next changes sides.
What is the model's choice in it: log entries 57 and 164. -/
def Obligations.LaserCommands : Prop :=
  (∀ (n : Fin 8) (line : Fin 18) (ferr power : BitVec 16) (s : State), lsRuns s n.val = true →
    (lsGet s n.val).side (!(lsGet s n.val).active) ≠ .failed →
    (50 < ferr.toInt.natAbs ∨ 50 < power.toInt.natAbs → exec (.standbyDiverge n line ferr power) s =
      .next (lsLog (cntAdd (lsSet s n.val { lsGet s n.val with diverge := true }) ((blkLS n.val).reg 0x044) 1) n.val 0x0606 line.val)) ∧
    (ferr.toInt.natAbs ≤ 50 → power.toInt.natAbs ≤ 50 → exec (.standbyDiverge n line ferr power) s =
      .next (lsSet s n.val { lsGet s n.val with diverge := false }))) ∧
  (∀ (n : Fin 8) (side : Bool) (bias : BitVec 12) (s : State),
    let x := lsGet s n.val
    let v := cfg s (blkLS n.val) 0x028
    lsRuns s n.val = true →
    (v.getLsbD 31 = false ∨ side ≠ x.active →
      (x.side side = .ready → (cfg s (blkLS n.val) 0x020).toNat < bias.toNat → bias.toNat ≤ (cfg s (blkLS n.val) 0x024).toNat →
        ∃ t, exec (.laserBiasThreshold n side bias) s = .next t ∧ (lsGet t n.val).side side = .warn ∧
          (lsGet t n.val).side (!side) = x.side (!side) ∧ (lsGet t n.val).active = x.active ∧ (lsGet t n.val).req = x.req ∧ t.mem = s.mem) ∧
      (x.side side = .ready ∨ x.side side = .warn → (cfg s (blkLS n.val) 0x024).toNat < bias.toNat →
        ∃ t, exec (.laserBiasThreshold n side bias) s = .next t ∧ (lsGet t n.val).side side = .eol ∧
          (lsGet t n.val).side (!side) = x.side (!side) ∧ (lsGet t n.val).active = x.active ∧ t.mem = s.mem ∧
          (lsGet t n.val).req = if side = x.active ∧ (cfg s (blkLS n.val) 0x010).getLsbD 0 = true ∧
              (x.side (!side) = .ready ∨ x.side (!side) = .warn) then some (x.req.getD s.now) else x.req)) ∧
    (v.getLsbD 31 = true → side = x.active →
      exec (.laserBiasThreshold n side bias) s = exec (.laserBiasThreshold n side (field v 0 12)) s)) ∧
  (∀ (n : Fin 8) (value : Word) (s : State), lsRuns s n.val = true → isBusy s (blkLS n.val) = false → value.getLsbD 31 = true →
    let x := lsGet s n.val
    let u := acceptWrite s (blkLS n.val)
    exec (.lsSwCmd n value) s = .next (if x.side (!x.active) = .ready ∨ x.side (!x.active) = .warn
      then lsSet (rset u ((blkLS n.val).reg 0x02C) 0) n.val { x with req := x.req.orElse fun _ => some s.now }
      else logCapture (rset u ((blkLS n.val).reg 0x02C) 0) ((blkLS n.val).reg 0x030) 1)) ∧
  (∀ (n : Fin 8) (dark : BitVec 16) (s : State) (since : Nat),
    let x := lsGet s n.val
    lsRuns s n.val = true → x.req = some since → x.side (!x.active) ≠ .failed →
    (x.blank = false → enabled s (blkLS n.val) = true → windowLeft s kindCalib ≠ 0 → linksIdle s n.val = true →
      exec (.scheduledSwitchover n dark) s = .next (lsSet s n.val { x with blank := true })) ∧
    (x.blank = true → exec (.scheduledSwitchover n dark) s =
      .next (logCapture (cntAdd (changeSide s n.val dark false) ((blkLS n.val).reg 0x034) 1) ((blkLS n.val).reg 0x030) 0))) ∧
  (∀ (n : Fin 8) (dark stall : BitVec 16) (s : State) (since : Nat), lsRuns s n.val = true → enabled s (blkLS n.val) = true →
    (lsGet s n.val).req = some since → since + 60000000000 ≤ s.now → (lsGet s n.val).side (!(lsGet s n.val).active) ≠ .failed →
    windowLeft s kindCalib ≠ 0 → exec (.switchoverForced n dark stall) s = .next (logCapture (lsLog
      (cntAdd (cntAdd (changeSide s n.val dark false) ((blkLS n.val).reg 0x034) 1) ((blkLS n.val).reg 0x03C) 1) n.val 0x060C stall.toNat)
      ((blkLS n.val).reg 0x030) 3)) ∧
  (∀ (n : Fin 8) (dark : BitVec 16) (s : State),
    let x := lsGet s n.val
    lsRuns s n.val = true → x.side x.active ≠ .failed →
    let v := lsSet s n.val { x.setSide x.active .failed with req := none, blank := false }
    let u := if x.req.isSome then logCapture v ((blkLS n.val).reg 0x030) 2 else v
    exec (.unscheduledSwitchover n dark) s = .next (if x.side (!x.active) = .failed then engineDark (lsLog u n.val 0x0605 0) n.val
      else cntAdd (changeSide u n.val dark true) ((blkLS n.val).reg 0x038) 1)) ∧
  (∀ (s : State) (n : Nat) (dark : BitVec 16) (un : Bool),
    ((lsGet s n).active = false → (lsGet s n).claimA ≠ 0xFFFFFFFF → (lsGet (changeSide s n dark un) n).active = true) ∧
    ((lsGet s n).active = true → (lsGet (changeSide s n dark un) n).active = false) ∧
    (changeSide s n dark un).mem = s.mem ∧ (lsGet (changeSide s n dark un) n).blank = false)

/-! ## The pilot -/

/-- Pilot datagrams (R364–R374): OPEN starts a session, a frame that is not whole is counted, a datagram of the session is accepted
in order alone, and what is not acknowledged goes out again. ARP, neighbour solicitation and PTP frames are answered or stamped; the
stamp's place within 4 ns is a free value. Two ports come up and go down.
What is the model's choice in it: log entries 105, 108, 109, 112, 118, 174 and 176. -/
def Obligations.PilotDatagrams : Prop :=
  (∀ (port : Fin 2) (f : EthFrame) (seq tag : Word) (s : State), pilotOn s = true → portLive s port = true → seq ≠ 0 →
    (frameTaken s port f = false → exec (.openSession port f seq tag) s = .next (rxBadCount s)) ∧
    (frameTaken s port f = true → isPeerPort s port = false → s.pl.todo = [] →
      ∃ t d, exec (.openSession port f seq tag) s = .next t ∧ t.pl.opened = true ∧
        t.pl.session = (if s.pl.session + 1 = 0 then 1 else s.pl.session + 1) ∧ t.pl.rxAck = seq ∧ t.pl.txSeq = 1 ∧ t.pl.sent = [d] ∧
        d.session = t.pl.session ∧ d.seq = 1 ∧ d.ack = seq ∧ d.fromDevice = true ∧
        (∃ body, d.msgs = [{ ty := 0x88, flags := 0, tag := tag, addr := 0, body := body }]) ∧
        t.mem = s.mem ∧ t.boll = s.boll ∧ t.launch = s.launch)) ∧
  (∀ (port : Fin 2) (f : EthFrame) (d : Dgram) (s : State), pilotOn s = true → portLive s port = true →
    (frameGood s port f d = false → exec (.pilotDatagram port f d) s = .next (rxBadCount s)) ∧
    (frameGood s port f d = true → d.dev.toNat = ownDev s → d.fromDevice = false → opens d = false →
      let u := takePilotAck s d.ack
      (s.pl.opened = false ∨ d.session ≠ s.pl.session → exec (.pilotDatagram port f d) s = .next (rxBadCount s)) ∧
      (s.pl.opened = true → d.session = s.pl.session → d.seq ≠ 0 →
        (d.seq = nextSeq s.pl.rxAck → exec (.pilotDatagram port f d) s = .next (acceptDgram u (.port port) d)) ∧
        (d.seq ≠ nextSeq s.pl.rxAck → exec (.pilotDatagram port f d) s = .next (pilotAck (cntAdd (pump u)
          (blkPL.reg (if seq32After d.seq s.pl.rxAck then 0x060 else 0x05C)) 1)))) ∧
      (s.pl.opened = true → d.session = s.pl.session → d.seq = 0 → exec (.pilotDatagram port f d) s =
        .next (pump (d.msgs.foldl (fun t m => answerLate t 0x81 m (statusBody m 2)) u))))) ∧
  (∀ (s : State) (port : Fin 2) (f : EthFrame), frameTaken s port f = true →
    f.mac = portMac s port ∧ f.tags.length ≤ 1 ∧
    (∀ t ∈ f.tags, (plCfg s).getLsbD 6 = true ∧ t.1 = field (plCfg s) 8 12 ∧ t.2 = field (plCfg s) 20 3) ∧
    f.bytes ≤ maxFrame s ∧ f.plain = true ∧ f.sum ≠ .bad ∧
    (∀ a, f.dst = .v4 a → a = cfg s blkPL 0x018) ∧
    (∀ a, f.dst = .v6 a → (plCfg s).getLsbD 5 = true ∧ a = plIp6 s ∧ f.sum = .good) ∧
    ((plCfg s).getLsbD 7 = true → f.src = .v4 (cfg s blkPL 0x038) ∨ f.src = .v6 (ip6At s 0x040)) ∧
    f.port = field (cfg s blkPL 0x014) 0 16 ∧ f.magic = 0x015051 ∧ f.resv = 0) ∧
  (∀ (s : State) (port : Fin 2) (f : EthFrame) (d : Dgram), frameGood s port f d = true →
    frameTaken s port f = true ∧ Dgram.length d ≤ maxDgram s ∧ d.msgs.length ≤ 255 ∧ (∀ m ∈ d.msgs, m.body.length % 4 = 0) ∧
    (isPeerPort s port = false → d.fromDevice = false)) ∧
  (∀ (port : Fin 2) (f : EthFrame) (d : Dgram) (s : State), pilotOn s = true → portLive s port = true → d.dev.toNat ≠ ownDev s →
    (frameGood s port f d = false → exec (.pilotRelay port f d) s = .next (rxBadCount s)) ∧
    (frameGood s port f d = true → d.fromDevice = false → isBridge s = true → inGroup s d.dev.toNat = true →
      exec (.pilotRelay port f d) s =
        .next (match toMember { s with pl := { s.pl with down := some (.port port) } } (some port) d.dev.toNat d with
          | some t => cntAdd t (blkPL.reg 0x07C) 1
          | none => cntAdd s (blkPL.reg 0x080) 1))) ∧
  (∀ (l : LinkId) (h : Hdr) (payload : Parcel) (check : Word) (s : State),
    let p := parOf h payload check
    l.key ≠ guestKey → Released s l tyPilot h payload check →
    (h.dev.toNat ≠ ownDev s → exec (.pilot l h payload check) s = .next (acceptPar (taken s l h) l.key p)) ∧
    (h.dev.toNat = ownDev s → pilotOn s = true → exec (.pilot l h payload check) s = .next (takeSegment (freed s l h) p))) ∧
  (∀ s : State, pilotOn s = true → 0 < s.pl.owed → ∃ t, exec .pilotAckSend s = .next t ∧ t.pl = { s.pl with owed := 0 } ∧
    t.mem = s.mem ∧ t.events = s.events) ∧
  (∀ s : State, pilotOn s = true → s.pl.sent ≠ [] → s.pl.sentAt + pilotRto s ≤ s.now → ∃ t, exec .pilotRetransmit s = .next t ∧
    t.pl = { s.pl with sentAt := s.now, owed := 0 } ∧ t.mem = s.mem ∧ t.events = s.events ∧
    rget t (blkPL.reg 0x068) = BitVec.ofNat 32 (min ((rget s (blkPL.reg 0x068)).toNat + s.pl.sent.length) (2 ^ 32 - 1))) ∧
  (∀ (s : State) (pre post : List Event) (e : Event), pilotOn s = true → s.pl.opened = true → keepRoom s = true →
    s.events = pre ++ e :: post → (∀ x ∈ pre, x.sent = true) → e.sent = false → ∃ t, exec .eventSend s = .next t ∧
      t.events = pre ++ { e with sent := true, told := true } :: post ∧ t.pl.txSeq = nextSeq s.pl.txSeq ∧
      (∃ d, t.pl.sent = s.pl.sent ++ [d] ∧ d.msgs = [{ ty := 0x90, flags := 0, tag := 0, addr := 0, body := eventBody e }]) ∧
      t.mem = s.mem) ∧
  (∀ (port : Fin 2) (s : State),
    (pilotOn s = true → portLive s port = true →
      (∀ ip, exec (.arpRequest port ip) s = .next (if ip = cfg s blkPL 0x018 then s.emit (.arpReply port (sentTag s)) else rxBadCount s)) ∧
      (∀ ip, (plCfg s).getLsbD 5 = true →
        exec (.neighborSolicitation port ip) s = .next (if ip = plIp6 s then s.emit (.neighborAdvert port (sentTag s)) else rxBadCount s)) ∧
      (∀ (domain : Byte) (id : BitVec 16), s.pl.ptp = none → exec (.ptpEventMessage port true domain id) s = .next s) ∧
      (∀ (tx : Bool) (domain : Byte) (id : BitVec 16), (tx = true → s.pl.ptp.isSome = true) →
        let o := if tx then 0x098 else 0x088
        ∃ t, exec (.ptpEventMessage port tx domain id) s = .next t ∧
          t.pl = { s.pl with ptpSlave := s.pl.ptpSlave || (!tx && s.pl.ptp.any fun p => p.domain == domain) } ∧ t.mem = s.mem ∧ t.tide = s.tide ∧
          (rget s (blkPL.reg (o + 8)) &&& validBit ≠ 0 → t.regs = s.regs) ∧
          (Inv s → rget s (blkPL.reg (o + 8)) &&& validBit = 0 → ∃ v : Dword,
            (v - if tx then s.tide.hub + BitVec.ofNat 64 ((field (cfg s blkPL 0x0A4) 16 16).toNat / 10)
              else s.tide.hub - BitVec.ofNat 64 ((field (cfg s blkPL 0x0A4) 0 16).toNat / 10)).toInt.natAbs ≤ 4 ∧
            rget t (blkPL.reg o) = v.setWidth 32 ∧ rget t (blkPL.reg (o + 4)) = (v >>> 32).setWidth 32 ∧
            (field (rget t (blkPL.reg (o + 8))) 0 16 : BitVec 16) = id))) ∧
    exec (.ethernetLinkDown port) s = .next (setPort s port false) ∧
    (hubUp s = true → exec (.ethernetLinkUp port) s = .next (setPort s port true)) ∧
    (∀ up, portLink (setPort s port up) port = up ∧ portLink (setPort s port up) (1 - port) = portLink s (1 - port)))

/-- Messages of the open session, none waiting before them and nothing asked of the guest: register and memory accesses and launch
submissions. During a switchover gap a register access waits. A whole parcel that
the pilot writes to base-die SRAM is stored with a fresh check and a clear mark, and no other byte of memory changes.
What is the model's choice in it: log entries 106, 107 and 179. -/
def Obligations.PilotMessages : Prop :=
  (∀ (tag : Word) (addr : Dword) (s : State), pilotOn s = true → s.pl.opened = true → s.pl.todo = [] → s.pl.late = [] →
    s.pl.gread = [] → s.pl.gwrite = 0 → addr.toNat < 2 ^ 52 → keepRoom s = true →
    (∀ words : List Word, inGap s = true →
      exec (.regWrite tag addr false words) s =
        .next (setTodo s [{ ty := 1, flags := 0, tag := tag, addr := addr, body := words.flatMap fun w => natToBytes 4 w.toNat }])) ∧
    (∀ words : List Word, inGap s = false → words ≠ [] → words.length ≤ 64 → regAstray addr.toNat words.length = false →
      let m : PMsg := { ty := 1, flags := 0, tag := tag, addr := addr, body := words.flatMap fun w => natToBytes 4 w.toNat }
      (∀ i < words.length, readOnly (setTodo s [m]) (regOff m i) = false) →
      exec (.regWrite tag addr false words) s = .next (setTodo (putWords (setTodo s [m]) m 0 words) [])) ∧
    (∀ count : Word, inGap s = false → 1 ≤ count.toNat → count.toNat ≤ 64 → regAstray addr.toNat count.toNat = false →
      let m : PMsg := { ty := 2, flags := 0, tag := tag, addr := addr, body := natToBytes 4 count.toNat }
      let r := getWords (setTodo s [m]) m 0 count.toNat
      exec (.regRead tag addr count) s = .next (setTodo (reply r.1 0x82 m (r.2.flatMap fun w => natToBytes 4 w.toNat)) [])) ∧
    (∀ data : List Byte, data ≠ [] → data.length % 4 = 0 → data.length ≤ maxWrite s → addr.toNat % 4 = 0 →
      memCode s addr.toNat data.length true = 0 → hitsChart s addr.toNat data.length = false → pilotReaches s addr.toNat = true →
      let m : PMsg := { ty := 3, flags := 0, tag := tag, addr := addr, body := data }
      exec (.memWrite tag addr data) s = .next (setTodo (pilotWrites (setTodo s [m]) m addr.toNat data 34) [])) ∧
    (∀ count : Word, 1 ≤ count.toNat → count.toNat ≤ maxRead s → addr.toNat % 256 = 0 → memCode s addr.toNat (256 * count.toNat) false = 0 →
      pilotReaches s addr.toNat = true → isGuest s addr.toNat = false →
      let m : PMsg := { ty := 4, flags := 0, tag := tag, addr := addr, body := natToBytes 4 count.toNat }
      let r := pilotReads (setTodo s [m]) addr.toNat count.toNat
      exec (.memRead tag addr count) s = .next (setTodo (memData r.1 m r.2) [])) ∧
    (∀ entry : BitVec 256,
      let m : PMsg := { ty := 5, flags := 0, tag := tag, addr := 0, body := natToBytes 32 entry.toNat }
      let r := submit (setTodo s [m]) entry
      exec (.tideWrite tag entry) s = .next (setTodo (reply r.1 0x85 m ([BitVec.ofNat 8 r.2.1, 0] ++ natToBytes 2 r.2.2)) []) ∧
      (submitCode s (entryOf entry) = 0 → r.2.1 = 0 ∧ r.2.2 = lowestFree s.launch.table 0 ∧
        r.1.launch = (entrySet s (lowestFree s.launch.table 0) (entryOf entry)).launch) ∧
      (submitCode s (entryOf entry) ≠ 0 → r.2.1 = submitCode s (entryOf entry) ∧ r.1.launch = s.launch))) ∧
  (∀ (s : State) (m : PMsg) (q off : Nat) (data : List Byte), q < 6 → off < baseSramSize → off % 256 = 0 → data.length = 256 →
    Inv s → s.mem.sramErr = [] → s.mem.sideErr = [] → (rget s ((blkSC (slotQ q)).reg 0x02C)).getLsbD 31 = false →
    let a := baseSramBase q + off
    let t := pilotWrite s m a data
    t.mem.parcel a = ⟨Parcel.ofBytes data, parcelCheck (Parcel.ofBytes data), false⟩ ∧
    (∀ j, (j < a ∨ a + 256 ≤ j) → Memory.read t.mem.bytes j = Memory.read s.mem.bytes j) ∧
    t.boll = s.boll ∧ t.launch = s.launch ∧ t.cores = s.cores)

/-! ## Redundancy -/

/-- The duplicated halves and the beacon drivers: paths, failures, divergence, resynchronisation and switchovers. Halves that declare
each other failed in one control cycle, in either order: the one that stood by READY takes over and the other is resynchronised.
What is the model's choice in it: log entries 70, 71 and 178. -/
def Obligations.Redundancy : Prop :=
  (∀ (beacon half wire : Bool) (s : State), hubUp s = true → s.red.lostOf beacon half = [] →
    ∃ t, exec (.heartbeatPathLost beacon half wire) s = .next t ∧ t.red = { s.red with lost := s.red.lost ++ [⟨beacon, half, wire, s.now⟩] } ∧
      t.mem = s.mem ∧ t.hm = s.hm ∧
      rget t (blkHM.reg 0x30C) = BitVec.ofNat 32 (min ((rget s (blkHM.reg 0x30C)).toNat + 1) (2 ^ 32 - 1))) ∧
  (∀ (beacon half wire : Bool) (s : State), hubUp s = true → ∃ t, exec (.heartbeatPathRestored beacon half wire) s = .next t ∧
    t = { s with red := { s.red with lost := t.red.lost } } ∧
    ∀ p, p ∈ t.red.lost ↔ p ∈ s.red.lost ∧ ¬ (p.beacon = beacon ∧ p.half = half ∧ p.wire = wire ∧ p.at_ + 1000000 ≤ s.now)) ∧
  (∀ (first : Bool) (gap : Fin 65) (s : State), hubUp s = true → s.red.half s.red.active ≠ .failed → s.red.half (!s.red.active) = .ready →
    s.red.declared = none → ∃ t u, exec (.partnerFailed false first gap) s = .next t ∧ exec (.partnerFailed false (!first) gap) t = .next u ∧
      u.red.active = !s.red.active ∧ u.red.half (!s.red.active) = .active ∧ u.red.half s.red.active = .resync ∧
      u.red.claim = s.red.claim + 1 ∧ u.hm = s.hm ∧ u.mem = s.mem) ∧
  (∀ (driver : Bool) (gap : Fin 65) (s : State), hubUp s = true →
    (s.red.beaconStbyOk = false → exec (.partnerFailed true driver gap) s = .next s ∧ exec .beaconSwitchover s = .next s) ∧
    (s.red.beaconStbyOk = true → ∃ t, exec (.partnerFailed true driver gap) s = .next t ∧ t.tide = s.tide ∧ t.mem = s.mem ∧ t.hm = s.hm ∧
      t.red = if driver = s.red.beaconActive then { s.red with beaconActive := !driver, beaconStbyOk := false }
        else { s.red with beaconStbyOk := false })) ∧
  (∀ (half : Bool) (gap : Fin 65) (s : State), hubUp s = true → s.red.half half ≠ .failed → bothDeclared s half = none →
    (half ≠ s.red.active → ∃ t, exec (.partnerFailed false half gap) s = .next t ∧ t.red.half half = .failed ∧ t.red.active = s.red.active ∧
      t.red.claim = s.red.claim ∧ (half, s.now) ∈ t.red.fails ∧ t.mem = s.mem ∧ t.hm = s.hm) ∧
    (half = s.red.active → s.red.half (!half) = .ready → ∃ t, exec (.partnerFailed false half gap) s = .next t ∧ t.red.half half = .failed ∧
      t.red.half (!half) = .active ∧ t.red.active = !half ∧ t.red.claim = s.red.claim + 1 ∧
      t.red.gapEnd = s.now + gap.val ∧ t.mem = s.mem ∧ t.hm = s.hm ∧
      (Inv s → rget s (blkHM.reg 0x31C) &&& validBit = 0 → rget t (blkHM.reg 0x318) = fields 32 [(7, gap.val), (1, 0), (2, 0)])) ∧
    (half = s.red.active → s.red.half (!half) ≠ .ready → exec (.partnerFailed false half gap) s = .next (hubResets s 4))) ∧
  (∀ (group : Byte) (s : State), hubUp s = true → s.red.half (!s.red.active) = .ready → ∃ t, exec (.halfDivergence group) s = .next t ∧
    t.red = { s.red.setHalf (!s.red.active) .resync with diverge := true } ∧ t.mem = s.mem ∧ t.hm = s.hm) ∧
  (∀ (half : Bool) (s : State), hubUp s = true → half ≠ s.red.active → s.red.half half = .failed → half ∉ s.red.out →
    exec (.failedHalfRestart half) s = .next (cntAdd { s with red := s.red.setHalf half .resync } (blkHM.reg 0x32C) 1)) ∧
  (∀ (half : Bool) (s : State), hubUp s = true → half ≠ s.red.active → s.red.half half = .resync → ∃ t,
    exec (.resyncDone half) s = .next t ∧ t.red = { s.red.setHalf half .ready with diverge := false } ∧ t.mem = s.mem) ∧
  (∀ (value : Word) (gap : Fin 65) (s : State), hubUp s = true → isBusy s blkHM = false → value.getLsbD 31 = true →
    (s.red.half (!s.red.active) ≠ .ready → exec (.hmSwCmd value gap) s =
      .next (logCapture (rset (acceptWrite s blkHM) (blkHM.reg 0x324) 0) (blkHM.reg 0x328) 1)) ∧
    (s.red.half (!s.red.active) = .ready → ∃ t, exec (.hmSwCmd value gap) s = .next t ∧ t.red.active = !s.red.active ∧
      t.red.half t.red.active = .active ∧ t.red.half s.red.active = .resync ∧ t.red.claim = s.red.claim + 1 ∧ t.mem = s.mem ∧
      rget t (blkHM.reg 0x308) = BitVec.ofNat 32 (min ((rget s (blkHM.reg 0x308)).toNat + 1) (2 ^ 32 - 1)) ∧
      (Inv s → rget s (blkHM.reg 0x31C) &&& validBit = 0 → rget t (blkHM.reg 0x318) = fields 32 [(7, gap.val), (1, 0), (2, 1)]))) ∧
  (∀ s : State, hubUp s = true → s.red.beaconStbyOk = true → ∃ t, exec .beaconSwitchover s = .next t ∧
    t.red = { s.red with beaconActive := !s.red.beaconActive, beaconStbyOk := false } ∧ t.tide = s.tide ∧ t.mem = s.mem)

/-! ## Power, temperature and resets -/

/-- Feeds, converters and rails. Records are written only while firmware runs.
What is the model's choice in it: log entries 73, 75 and 76. -/
def Obligations.PowerCommands : Prop :=
  (∀ (va vb : BitVec 10) (s : State), fed s = true → (s.pw.feedB = false ∨ s.pw.sharing ≠ none) → va.toNat < 420 → va.toNat < vb.toNat →
    ∃ t, exec (.feedTransfer va vb) s = .next t ∧ t.pw = { s.pw.feeds va vb with feedB := true, sharing := none, xferAt := s.now } ∧ t.mem = s.mem ∧
      rget t (blkPW.reg 0x020) = BitVec.ofNat 32 (min ((rget s (blkPW.reg 0x020)).toNat + 1) (2 ^ 32 - 1))) ∧
  (∀ (va vb : BitVec 10) (micros : Fin 41) (s : State), fed s = true → s.pw.feedB = true → s.pw.sharing = none →
    440 ≤ va.toNat → s.pw.xferAt + 10 ^ 9 ≤ s.now → exec (.feedReturn va vb micros) s =
      .next { s with pw := { s.pw.feeds va vb with sharing := some (s.now + 1000 * micros.val, micros) } }) ∧
  (∀ (vb : BitVec 10) (s : State), fed s = true → s.pw.feedB = false → s.pw.bOk = true → (vb.toNat < 400 ∨ 600 < vb.toNat) →
    ∃ t, exec (.feedBFault vb) s = .next t ∧
      t.pw = { s.pw with vb := vb, bOk := false, bTold := hubUp s } ∧ t.mem = s.mem) ∧
  (∀ (vb : BitVec 10) (s : State), fed s = true → s.pw.feedB = false → 400 ≤ vb.toNat → vb.toNat ≤ 600 →
    exec (.feedBRestored vb) s = .next { s with pw := { s.pw with vb := vb, bOk := true } }) ∧
  (∀ (k : Fin 16) (s : State), fed s = true → s.pw.convBad.getLsbD k.val = false → ∃ t, exec (.converterFault k) s = .next t ∧
    (∀ j : Fin 16, t.pw.convBad.getLsbD j.val = (s.pw.convBad.getLsbD j.val || j == k)) ∧ t.mem = s.mem) ∧
  (∀ (die : Fin 12) (s : State), s.pw.rails = true → die.val ∉ s.pw.droop → exec (.vcoreDroop die) s =
    .next (cntAdd { s with pw := { s.pw with droop := die.val :: s.pw.droop } } (blkPW.reg 0x028) 1)) ∧
  (∀ (die : Fin 12) (s : State), exec (.droopRecovered die) s = .next { s with pw := { s.pw with droop := s.pw.droop.erase die.val } }) ∧
  (∀ (rail : Fin 54) (mv : BitVec 12) (s : State), hubUp s = true → exec (.railOutOfTolerance rail mv) s =
    .next (logRecord s 0x0704 0 rail.val (rail.val + 65536 * mv.toNat) 0 0)) ∧
  (∀ (die : Fin 12) (f : Forecast) (s : State), s.launch.forecasts = [f] → f.dies.contains die.val = true → hubUp s = true →
    s.pw.rails = true → (die.val, f.fire) ∉ s.pw.boost → f.fire.toNat ≤ s.tide.hub.toNat + 10000 →
    s.tide.hub.toNat < f.fire.toNat + 1000000 → exec (.regulatorForecastBoost die f.fire) s = .next { s with
      pw := { s.pw with boost := (die.val, f.fire) :: s.pw.boost }
      launch := { s.launch with forecasts := [{ f with dies := f.dies.erase die.val }] } }) ∧
  (∀ (die : Fin 12) (s : State), ∃ t, exec (.regulatorForecastEnd die) s = .next t ∧ t = { s with pw := { s.pw with boost := t.pw.boost } } ∧
    ∀ b, b ∈ t.pw.boost ↔ b ∈ s.pw.boost ∧ (b.1 ≠ die.val ∨ s.tide.hub.toNat < b.2.toNat + 1000000)) ∧
  (∀ (reason : Fin 3) (s : State), s.pw.guestOn = true → ∃ t, exec (.guestPowerCut reason) s = .next t ∧
    t.pw.guestOn = false ∧ (Inv s → rget t (blkPW.reg 0x044) = 0) ∧ (hubUp s = true → t.guest.quar = true)) ∧
  (∀ (value : Word) (s : State), fed s = true → isBusy s blkPW = false → ∃ t, exec (.pwGuestOn value) s = .next t ∧
    t.pw.guestOn = (value.getLsbD 0 && s.pw.rails) ∧ (Inv s → rget t (blkPW.reg 0x044) = value &&& 1) ∧ t.guest = s.guest ∧ t.mem = s.mem) ∧
  (∀ (watts : BitVec 13) (guest : BitVec 11) (s : State), fed s = true → ∃ t, exec (.powerSample watts guest) s = .next t ∧
    t.pw.input = watts ∧ t.pw.guestPwr = guest ∧
    (enabled s blkPW = true → (guest.toNat ≤ 750 → t.pw.guestOver = 0 ∧ t.pw.guestOn = s.pw.guestOn) ∧
      (750 < guest.toNat → s.pw.guestOver = 2 → t.pw.guestOn = false) ∧
      (guest.toNat ≤ 750 ∨ s.pw.guestOn = false →
        (capWatts s < watts.toNat → s.pw.capOver = 2 → t.pw.capOn = true) ∧
        (s.pw.capOn = false → watts.toNat ≤ capWatts s → t.pw.capOn = false))))

/-- Temperature samples move a channel's level when three agree; an open or short channel reads the maximum, and so does one whose
sample is missed, without a fault of its own; two samples at the trip point take the rails down.
What is the model's choice in it: log entries 77 and 78. -/
def Obligations.ThermalCommands : Prop :=
  (∀ (readings : List Reading) (s : State), readings.length = 68 → fed s = true → ∃ t, exec (.thermalSample readings) s = .next t ∧
    (∀ ch : Fin 68, (chanGet t ch.val).last = ((match readingOf ch.val (readings.getD ch.val .open) with
      | .inl v => v
      | .inr _ => 0x7FF) :: (chanGet s ch.val).last).take 3) ∧
    (∀ ch : Fin 68, (chanGet t ch.val).fault = (if readings.getD ch.val .open = .missed then (chanGet s ch.val).fault
      else (readingOf ch.val (readings.getD ch.val .open)).isRight)) ∧
    (∀ ch : Fin 68, (chanGet t ch.val).missed = (readings.getD ch.val .open == .missed)) ∧ t.mem = s.mem ∧ t.pw.mode = s.pw.mode) ∧
  (∀ (ch level : Nat) (a b c : Int), level ≤ 3 →
    let h := thresholds ch
    let lv (t : Int) : Nat := if 4 * (h.2.2.1 : Int) ≤ t then 3 else if 4 * (h.2.1 : Int) ≤ t then 2 else if 4 * (h.1 : Int) ≤ t then 1 else 0
    (level < min (lv a) (min (lv b) (lv c)) → agreedLevel ch level [a, b, c] = min (lv a) (min (lv b) (lv c))) ∧
    (min (lv a) (min (lv b) (lv c)) ≤ level → max (lv (a + 12)) (max (lv (b + 12)) (lv (c + 12))) < level →
      agreedLevel ch level [a, b, c] = max (lv (a + 12)) (max (lv (b + 12)) (lv (c + 12))))) ∧
  (∀ (ch : Fin 68) (s : State), ch.val ≠ 47 → hubPowered s = true → overTrip s ch.val = true → ∃ t, exec (.thermalTrip ch) s = .next t ∧
    t.pw.mode = .tripped ∧ t.pw.rails = false ∧ t.pw.guestOn = false ∧ t.pw.tripCh = ch.val ∧ t.pw.trips = s.now :: tripsInHour s ∧
    t.pw.latched = decide (2 ≤ (tripsInHour s).length) ∧ t.mem = {} ∧ t.hm.chart = none ∧ t.sec.lifecycle = s.sec.lifecycle) ∧
  (∀ s : State, hubPowered s = true → overTrip s 47 = true → s.pw.guestOn = true ∨ s.guest.quar = false →
    exec (.thermalTrip 47) s = .next (guestCut s 2)) ∧
  (∀ (s : State) (t : Nat), s.tm.coolAt = some t → s.pw.mode = .tripped → s.pw.latched = false → t + 30000000000 ≤ s.now →
    ∃ u, exec .thermalRestart s = .next u ∧ u.pw.mode = .starting ∧ u.pw.fromStep3 = false ∧ u.sec.stage = 1) ∧
  (∀ (value : Word) (s : State), fed s = true → isBusy s blkPW = false → value.getLsbD 0 = true → s.pw.latched = true →
    exec (.pwLatchClr value) s = .next { acceptWrite s blkPW with
    pw := { s.pw with latched := false, cause := 3 }, tm := { s.tm with coolAt := if allCool s then some s.now else none } })

/-- Resets: each trigger, where it leads, and what it keeps: power supervision, temperatures, fuses and the NOR. Everything
else starts again. With both feeds absent the temperatures are lost too.
What is the model's choice in it: log entries 72, 76 and 177. -/
def Obligations.Resets : Prop :=
  (∀ (s : State) (mode : PowerMode) (step3 : Bool) (cause ch : Nat), let t := moduleReset s mode step3 cause ch
    t.cores = {} ∧ t.mem = {} ∧ t.mc = [] ∧ t.berth = {} ∧ t.boll = {} ∧ t.launch = {} ∧ t.elog = {} ∧ t.events = [] ∧ t.links = [] ∧
    t.tide = {} ∧ t.hm.chart = none ∧ t.hm.st = .empty ∧ t.pl = {} ∧ t.guest = {} ∧ t.red = {} ∧ t.tm = s.tm ∧ t.nor = s.nor ∧
    t.pw.mode = mode ∧ t.pw.cause = cause ∧ t.pw.startAt = s.now ∧ t.pw.rails = false ∧ t.pw.trips = s.pw.trips ∧ t.pw.va = s.pw.va ∧ t.pw.vb = s.pw.vb ∧
    t.sec.lifecycle = s.sec.lifecycle ∧ t.sec.svn = s.sec.svn ∧ t.sec.owner = s.sec.owner ∧ t.sec.copy0 = s.sec.copy0 ∧
    t.sec.copy1 = s.sec.copy1 ∧ t.pending = s.pending ∧ t.now = s.now ∧
    (rget s (blkPW.reg 0x02C) &&& validBit = 0 → rget t (blkPW.reg 0x02C) = fields 32 [(4, cause), (4, 0), (7, ch)] ||| validBit) ∧
    (rget s (blkPW.reg 0x02C) &&& validBit ≠ 0 → rget t (blkPW.reg 0x02C) = rget s (blkPW.reg 0x02C))) ∧
  (∀ s : State, hubPowered s = true → exec .brownOut s = .next (moduleReset s .brownOut false 1 0)) ∧
  (∀ s : State, hubPowered s = false → tripping s = true →
    exec .brownOut s = .next { s with pw := { s.pw with offAt := brownTimes s.now s.pw.offAt } }) ∧
  (∀ s : State, hubUp s = true → exec .hubReset s = .next (moduleReset s .starting true 4 0)) ∧
  (∀ (low : Word) (s : State), 10000 ≤ low.toNat → hubPowered s = true → exec (.resetN low) s = .next (moduleReset s .starting true 5 0)) ∧
  (∀ (low : Word) (s : State), low.toNat < 10000 → exec (.resetN low) s = .next s) ∧
  (∀ (gap : Word) (s : State), 64 ≤ gap.toNat → hubPowered s = true →
    exec (.referenceLost gap) s = .next (moduleReset s .starting true 6 0)) ∧
  (∀ (absent : Bool) (va vb : BitVec 10) (s : State), 440 ≤ va.toNat ∨ 440 ≤ vb.toNat → absent = true ∨ s.pw.mode = .off →
    ∃ t, exec (.powerOn absent va vb) s = .next t ∧ t.pw.mode = .starting ∧ t.pw.fromStep3 = false ∧ t.pw.cause = 0 ∧ t.pw.startAt = s.now ∧ t.pw.feedB = decide (va.toNat < 440) ∧ t.pw.va = va ∧ t.pw.vb = vb ∧ t.mem = {} ∧
    t.nor = s.nor ∧ t.sec.owner = s.sec.owner ∧ t.sec.stage = 1) ∧
  (∀ (va vb : BitVec 10) (s : State), 440 ≤ va.toNat ∨ 440 ≤ vb.toNat → s.pw.mode = .brownOut →
    ∃ t, exec (.powerOn false va vb) s = .next t ∧
    t.pw.mode = .starting ∧ t.pw.cause = s.pw.cause ∧ t.pw.feedB = decide (va.toNat < 440) ∧ t.regs = s.regs ∧ t.tm = s.tm) ∧
  (∀ s : State, s.pw.mode = .retry → s.pw.retryAt ≤ s.now → exec .v1p8Retry s =
    .next (secMod (startAgain s s.pw.cause) fun x => { x with code := s.sec.code, failures := s.sec.failures }))

/-! ## Start-up, security, SPDM -/

/-- Start-up, stage by stage: it waits where a rail or a PLL fails, the ROM waits for an image where no slot verifies, and else firmware of the
slot that verifies runs, the higher VERSION first; a start-up that arrives in time ends RUNNING, and one that does not completes at its limit.
What is the model's choice in it: log entries 79, 80, 165, 166 and 167. -/
def Obligations.StartUp : Prop :=
  (∀ (b : Boot) (s : State), s.pw.mode = .starting → s.sec.stage = 1 → 1 < b.upTo.val →
    (s.pw.fromStep3 = false → b.v1p8Ok = false → ∃ t, exec (.startUp b) s = .next t ∧
      t.pw.mode = .retry ∧ t.pw.retryAt = s.now + 10 ^ 10 ∧ (s.sec.code = 0 → t.sec.code = 1)) ∧
    (s.pw.fromStep3 = true ∨ b.v1p8Ok = true → b.pllOk = false → ∃ t, exec (.startUp b) s = .next t ∧
      t.pw.mode = .pllWait ∧ (s.sec.code = 0 → t.sec.code = 2)) ∧
    (s.pw.fromStep3 = true ∨ b.v1p8Ok = true → b.pllOk = true → b.norFound = [] → b.upTo = 8 →
      (b.norOk = false ∨ imageStep s.sec s.nor.fw0 ≠ 0 ∧ imageStep s.sec s.nor.fw1 ≠ 0 → ∃ t, exec (.startUp b) s = .next t ∧
        t.pw.mode = .recovery ∧ t.sec.recovery = true ∧ t.sec.resume = some b ∧ t.sec.stage = 2 ∧ t.mem = s.mem ∧
        (s.sec.code = 0 → t.sec.code = if b.norOk then 4 else 3)) ∧
      (b.norOk = true → imageStep s.sec s.nor.fw0 = 0 ∨ imageStep s.sec s.nor.fw1 = 0 → b.millis.toNat ≤ 90000 →
        ∃ t, exec (.startUp b) s = .next t ∧ t.pw.mode = .running ∧ t.sec.stage = 8 ∧ t.sec.done = true ∧ t.sec.resume = none))) ∧
  (∀ (b : Boot) (s : State) (i : Nat) (g : List Byte), s.sec.stage = 2 → s.pw.mode ≠ .recovery → b.norOk = true → imageStep s.sec g = 0 →
    let v0 := imageVersion (erased s.nor.fw0 64)
    let v1 := imageVersion (erased s.nor.fw1 64)
    (i = 1 ∧ g = s.nor.fw1 ∧ (v0 < v1 ∨ imageStep s.sec s.nor.fw0 ≠ 0) ∨
      i = 0 ∧ g = s.nor.fw0 ∧ (v1 ≤ v0 ∨ imageStep s.sec s.nor.fw1 ≠ 0)) →
    let t := endStage b s
    let x := t.sec
    x.slotUsed = (i == 1) ∧ x.fwVersion = BitVec.ofNat 64 (imageVersion g) ∧ x.fwSvn = imageSvn g ∧ x.fwVendor = imageVendor g ∧
    x.fwDigest = sha384 (g.take (imageSigned g)) ∧ x.kickAt = s.now ∧ x.stage = 3 ∧ t.pw.mode = .stage7 ∧ t.mem = s.mem ∧ t.nor = s.nor ∧
    x.owner = s.sec.owner ∧ x.svn = s.sec.svn) ∧
  (∀ (b : Boot) (s : State),
    (3 ≤ s.sec.stage → s.sec.stage ≤ 6 → (endStage b s).sec.stage = s.sec.stage + 1) ∧
    (s.sec.stage = 7 → b.millis.toNat ≤ 90000 → (endStage b s).pw.mode = .running ∧ (endStage b s).sec.done = true ∧
      (endStage b s).sec.stage = 8 ∧ (endStage b s).sec.bootTime = b.millis.toNat) ∧
    (s.sec.stage = 7 → 90000 < b.millis.toNat → (endStage b s).sec.stage = 7 ∧ (endStage b s).sec.resume = some b)) ∧
  (∀ (x : SecSt) (b : List Byte), imageStep x b = 0 ↔
    imageHeader b = true ∧ x.vRevoked.getLsbD (imageVendor b) = false ∧ vendorKnown b = true ∧
    ecdsaGood ((vendorRecord b).take 96) b (imageSigned b) = true ∧ hssGood ((vendorRecord b).drop 96) b (imageSigned b) = true ∧
    x.svn ≤ imageSvn b) ∧
  (∀ b : List Byte, imageHeader b = true → le b 0 4 = 0x49574651 ∧ le b 4 2 = 1 ∧ le b 6 2 = 0x4816 ∧
    64 + sigSpan ≤ imageLength b ∧ imageLength b ≤ 0x800000 ∧ imageLength b ≤ b.length ∧ imageSigned b % 64 = 0 ∧
    le b 0x0F 1 = 0 ∧ le b 0x1C 36 = 0) ∧
  (∀ (s : State) (r : InstCopy), s.sec.norBad = false → instInUse s.sec = some r →
    (loadInst s).sec.inst = some r ∧ (loadInst s).pl.ptp = some (ptpOf r.body) ∧ (loadInst s).hm.boot = some (bootChart r.body)) ∧
  (∀ (s : State) (b : Boot), s.sec.resume = some b → s.pw.mode = .stage7 → s.pw.startAt + 90 * 10 ^ 9 ≤ s.now →
    ∃ t, exec .startupTimeout s = .next t ∧
    t.pw.mode = .running ∧ t.sec.timeout = true ∧ t.sec.done = true ∧ t.sec.resume = none ∧ (s.sec.code = 0 → t.sec.code = 9)) ∧
  (∀ (s : State) (b : Boot) (image : List Byte), s.sec.resume = some b → s.pw.mode = .recovery →
    (imageStep s.sec image ≠ 0 → exec (.recoveryImage image) s = .next (cntAdd
      (secMod s fun x => { x with rejects := x.rejects ++ [(0, imageStep s.sec image)] }) (blkSB.reg 0x064) 1)) ∧
    (imageStep s.sec image = 0 → exec (.recoveryImage image) s =
      .next (runStages b 8 (saveImage (startFirmware s image) image))))

/-- Security: an SVN never falls, the watchdog resets the hub, owner commands change the fuses only where no rule is broken, and
an installation record is kept in the copy that is not in use. A reset that cuts a commit short leaves what was blown. Code 1 for a command that is
malformed and breaks other rules, and the choice among several broken rules, are the model's.
What is the model's choice in it: log entries 83, 84, 86 and 173. -/
def Obligations.SecurityCommands : Prop :=
  (∀ (value : Word) (bad : Bool) (s : State), hubUp s = true → isBusy s blkSB = false → value.getLsbD 31 = true →
    (∃ t, exec (.sbSvnCommit value bad none) s = .next t ∧ s.sec.svn ≤ t.sec.svn ∧ t.mem = s.mem ∧ t.hm = s.hm ∧
      (bad = false → t.sec.svn = max s.sec.svn s.sec.fwSvn ∧ t.sec.vRevoked = s.sec.vRevoked ||| toRevoke s.sec)) ∧
    (∀ n : Fin 68, ∃ t, exec (.sbSvnCommit value bad (some n)) s = .next t ∧ t.mem = s.mem ∧
      t.sec.svn = s.sec.svn + min n.val (s.sec.fwSvn - s.sec.svn) ∧
      (n.val ≤ s.sec.fwSvn - s.sec.svn → t.sec.vRevoked = s.sec.vRevoked))) ∧
  (∀ (value : Word) (s : State), hubUp s = true → isBusy s blkSB = false → value.getLsbD 0 = true →
    exec (.sbWdog value) s = .next { acceptWrite s blkSB with sec := { s.sec with kickAt := s.now } }) ∧
  (∀ s : State, hubUp s = true → s.sec.kickAt + 1000000000 ≤ s.now → ∃ t, exec .watchdogExpiry s = .next t ∧ t.pw.mode = .starting ∧
    t.pw.fromStep3 = true ∧ t.pw.cause = 4 ∧ t.sec.watchdog = true ∧ t.mem = {} ∧
    rget t (blkSB.reg 0x060) = BitVec.ofNat 32 (min ((rget s (blkSB.reg 0x060)).toNat + 1) (2 ^ 32 - 1))) ∧
  (∀ (i : Instr) (value : Word) (s : State), i ∈ [Instr.enrol value false, .revoke value, .decommission value] → hubUp s = true →
    isBusy s blkSB = false → value.getLsbD 31 = true →
    (s.hm.st = .loading → exec i s = .next (setBusy (rset (acceptWrite s blkSB) (blkSB.reg 0x034) value) blkSB true)) ∧
    (s.hm.st ≠ .loading →
      let r := stagedBytes (rset (acceptWrite s blkSB) (blkSB.reg 0x034) 0) value ownerSpan
      let c := readOwner r.2
      let d := Config.sha384Bits (c.ecdsa ++ c.hss)
      (ownerBroken r.1 r.2 = [] → c.op = 1 → ∃ t, exec i s = .next t ∧ t.sec.lifecycle = 2 ∧
        tget t.sec.owner c.target {} = (if s.sec.norBad then { enrolled := true, digest := d }
          else { enrolled := true, digest := d, recordOk := true, ecdsa := c.ecdsa, hss := c.hss }) ∧
        (∀ j, j ≠ c.target → tget t.sec.owner j {} = tget s.sec.owner j {}) ∧ t.sec.svn = s.sec.svn) ∧
      (ownerBroken r.1 r.2 = [] → c.op = 2 → ∃ t, exec i s = .next t ∧ (tget t.sec.owner c.target {}).revoked = true ∧
        (tget t.sec.owner c.target {}).enrolled = (tget s.sec.owner c.target {}).enrolled ∧
        (∀ j, j ≠ c.target → tget t.sec.owner j {} = tget s.sec.owner j {}) ∧ t.sec.lifecycle = s.sec.lifecycle) ∧
      (ownerBroken r.1 r.2 = [] → c.op = 3 → ∃ t, exec i s = .next t ∧ t.sec.lifecycle = 3 ∧ t.sec.owner = s.sec.owner) ∧
      (ownerBroken r.1 r.2 ≠ [] → ∃ t, exec i s = .next t ∧ t.sec.owner = s.sec.owner ∧ t.sec.lifecycle = s.sec.lifecycle))) ∧
  (∀ (value : Word) (s : State), hubUp s = true → isBusy s blkSB = false → value.getLsbD 31 = true → s.hm.st ≠ .loading →
    let r := stagedBytes (rset (acceptWrite s blkSB) (blkSB.reg 0x034) 0) value ownerSpan
    let c := readOwner r.2
    ownerBroken r.1 r.2 = [] → c.op = 1 → ∃ t, exec (.enrol value true) s = .next t ∧ (tget t.sec.owner c.target {}).damaged = true ∧
      (tget t.sec.owner c.target {}).enrolled = false ∧ t.sec.lifecycle = s.sec.lifecycle) ∧
  (∀ (value : Word) (s : State), hubUp s = true → isBusy s blkSB = false → value.getLsbD 31 = true → instWaits s = false →
    let r := stagedBytes (rset (acceptWrite s blkSB) (blkSB.reg 0x03C) 0) value instSpan
    exec (.sbInstCmd value) s = .next (if instValid r.1 r.2 then instWrite r.1 ((r.2.drop 24).take (le r.2 0xC 4)) else r.1)) ∧
  (∀ (s : State) (body : List Byte),
    let t := instWrite s body
    (s.sec.norBad = true → t.sec.copy0 = s.sec.copy0 ∧ t.sec.copy1 = s.sec.copy1) ∧
    (∀ r, s.sec.norBad = false → s.sec.inst = some r → r.valid = true → r = s.sec.copy0 ∨ r = s.sec.copy1 →
      let v : InstCopy := { gen := (r.gen + 1) % 2 ^ 32, valid := true, body := body }
      t.sec.inst = some r ∧ (t.sec.copy0 = r ∧ t.sec.copy1 = v ∨ t.sec.copy1 = r ∧ t.sec.copy0 = v)) ∧
    (s.sec.inst = none → ∃ v, t.sec.inst = some v ∧ v.body = body ∧ (s.sec.norBad = false → t.sec.copy0 = v))) ∧
  (∀ s : State, hubUp s = true → s.sec.lmsReady = true → lmsLeft s.sec < 2 ^ 18 → (s.sec.lmsTree + 2) * 2 ^ 20 ≤ 2 ^ 40 →
    exec .lmsTreeBuildDone s = .next { s with sec := { s.sec with nextReady := true } })

/-- An LMS index is used once: signing takes the next one, which the reservation log in the NOR then covers, and a start-up goes on behind
all that the log covers.
What is the model's choice in it: log entries 91 and 172. -/
def Obligations.LmsIndicesAreUsedOnce : Prop :=
  (∀ (s t : State) (ok : Bool) (i : Nat), s.sec.lmsReserved = lmsHighest s.nor → s.sec.lmsNext ≤ s.sec.lmsReserved → s.nor.lmsAt < 16 →
    lmsTake s ok = (t, .signed i) →
    i = s.sec.lmsNext ∧ t.sec.lmsNext = i + 1 ∧ t.sec.lmsNext ≤ t.sec.lmsReserved ∧ t.sec.lmsReserved = lmsHighest t.nor ∧
    t.nor.lmsAt < 16 ∧ lmsHighest s.nor ≤ lmsHighest t.nor ∧ i < lmsHighest t.nor ∧ i < 2 ^ 40 ∧
    (s.sec.lmsNext < s.sec.lmsReserved → s.sec.logFailed = false → t.nor = s.nor)) ∧
  (∀ s : State, s.sec.lifecycle ≠ 3 → s.sec.norBad = false → s.nor.lmsAt < 16 →
    let t := loadIdentity s
    t.sec.lmsReady = true ∧ t.sec.lmsNext = lmsHighest s.nor ∧ t.sec.lmsReserved = lmsHighest t.nor ∧
    lmsHighest s.nor ≤ lmsHighest t.nor ∧ lmsHighest t.nor ≤ lmsHighest s.nor + 1024) ∧
  (∀ (s : State) (ok : Bool), s.sec.lmsReady = false ∨ 2 ^ 40 < s.sec.lmsNext + 1024 → (lmsTake s ok).2 = .refused)

/-- SPDM: each request answers with its response in the state of the connection that allows it, and with UnexpectedRequest
before. A signature covers the messages that led up to it, and GET_LMS_SIG signs the same input.
What is the model's choice in it: log entries 88, 89, 90, 128, 169, 170 and 171. -/
def Obligations.SpdmAnswers : Prop :=
  ∀ (t : Transport) (s : State),
    let x := conn s t
    (spdmReady s t .version = true → exec (.getVersion t) s =
      .next (setupAnswer (connSet s t { handle := x.handle, busy := x.busy }) t .version .version fun y => { y with versionDone := true })) ∧
    (∀ rest : List Byte, spdmReady s t (.capabilities rest) = true →
      (x.versionDone = false → exec (.getCapabilities t rest) s = .next (spdmAnswer s t (.error 4))) ∧
      (x.versionDone = true → rest.length = 18 → exec (.getCapabilities t rest) s = .next (setupAnswer s t (.capabilities rest)
        (.capabilities (2 ^ 1 + 2 ^ 2 + 2 * 2 ^ 3 + 2 ^ 17) 18 (dataSize s t)) fun y => { y with capsDone := true }))) ∧
    (∀ rest : List Byte, spdmReady s t (.algorithms rest) = true →
      (x.capsDone = false → exec (.negotiateAlgorithms t rest) s = .next (spdmAnswer s t (.error 4))) ∧
      (x.capsDone = true → 30 ≤ rest.length → leAt rest 2 2 = rest.length + 2 → (leAt rest 6 4).testBit 7 = true →
        (leAt rest 10 4).testBit 1 = true → exec (.negotiateAlgorithms t rest) s = .next (setupAnswer s t (.algorithms rest)
          (.algorithms (leAt rest 4 1 % 2) (4 * (leAt rest 4 1 % 2)) 0x80 2) fun y => { y with algsDone := true }))) ∧
    (spdmReady s t .digests = true →
      (x.algsDone = false → exec (.getDigests t) s = .next (spdmAnswer s t (.error 4))) ∧
      (x.algsDone = true → s.sec.lifecycle = 3 → exec (.getDigests t) s = .next (spdmAnswer s t (.error 5))) ∧
      (x.algsDone = true → s.sec.lifecycle ≠ 3 →
        exec (.getDigests t) s = .next (certsAnswer s t .digests (.digests (sha384 (chainOf s)))))) ∧
    (∀ offset length : BitVec 16, spdmReady s t (.certificate 0 offset length) = true → x.algsDone = true → s.sec.lifecycle ≠ 3 →
      offset.toNat < (chainOf s).length →
      let p := ((chainOf s).drop offset.toNat).take length.toNat
      exec (.getCertificate t 0 offset length) s = .next (certsAnswer s t (.certificate 0 offset length)
        (.certificate p ((chainOf s).length - offset.toNat - p.length)))) ∧
    (∀ (summary : Byte) (nonce : BitVec 256) (context : Dword), spdmReady s t (.challenge 0 summary nonce context) = true →
      x.algsDone = true → s.sec.lifecycle ≠ 3 → summary = 0 ∨ summary = 1 ∨ summary = 0xFF → ∃ (u : State) (v : BitVec 256),
        let r (g : List Byte) : SpdmResp := .challengeAuth (sha384 (chainOf s)) v (summaryOf s summary) context g
        let input := signingInput "responder-challenge_auth signing"
          (x.setup ++ x.certs ++ reqBytes (.challenge 0 summary nonce context) ++ respBytes s (r []))
        exec (.challenge t 0 summary nonce context) s = .next (answerLong u t (r (aliasSign s input))) ∧
          (conn u t).signed = some input ∧ u.mem = s.mem ∧ u.sec = s.sec) ∧
    (∀ (index : Byte) (signed : Bool) (nonce : BitVec 256) (context : Dword),
      spdmReady s t (.measurements index signed nonce context) = true → x.algsDone = true → index.toNat ≤ 6 ∨ index.toNat = 0xFF →
      signed = false ∨ s.sec.lifecycle ≠ 3 → ∃ (u : State) (v : BitVec 256),
        let l := (blocksAsked index.toNat).map fun i => (i, measurement s i)
        let covered := x.meas ++ reqBytes (.measurements index signed nonce context) ++ respBytes s (.measurements l v context [])
        let input := signingInput "responder-measurements signing" (x.setup ++ covered)
        exec (.getMeasurements t index signed nonce context) s =
          .next (answerLong u t (.measurements l v context (if signed then aliasSign s input else []))) ∧
          (conn u t).meas = (if signed then [] else covered) ∧
          (conn u t).signed = (if signed then some input else x.signed) ∧ u.mem = s.mem ∧ u.sec = s.sec) ∧
    (∀ (vendor : Word) (ok : Bool), spdmReady s t (.lmsSig 4 vendor) = true → x.algsDone = true → s.sec.lifecycle ≠ 3 →
      vendor = rget s (blkSB.reg 0x070) →
      (x.signed = none → exec (.getLmsSig t 4 vendor ok) s = .next (spdmAnswer s t (.error 1))) ∧
      (∀ (input : List Byte) (u : State), x.signed = some input →
        (∀ i, lmsTake s ok = (u, .signed i) → exec (.getLmsSig t 4 vendor ok) s =
          .next (answerLong u t (.lmsSig (natToBytes 5716 (Config.hssSign hssSeed i input).toNat)))) ∧
        (lmsTake s ok = (u, .waits) → exec (.getLmsSig t 4 vendor ok) s = .next (spdmAnswer u t (.error 3))) ∧
        (lmsTake s ok = (u, .refused) → exec (.getLmsSig t 4 vendor ok) s = .next (spdmAnswer u t (.error 5))))) ∧
    (∀ vendor : Word, spdmReady s t (.lmsChain 4 vendor) = true → x.algsDone = true →
      (vendor = rget s (blkSB.reg 0x070) → exec (.getLmsChain t 4 vendor) s = .next (answerLong s t (.lmsChain (lmsChainOf s)))) ∧
      (vendor ≠ rget s (blkSB.reg 0x070) → exec (.getLmsChain t 4 vendor) s = .next (spdmAnswer s t (.error 1)))) ∧
    (lmsChainOf s).length = 60 + 5716 ∧
    (∀ (h n : Nat) (left : List Byte) (handle : Byte) (chunk : BitVec 16), spdmReady s t (.chunk handle chunk) = true → x.capsDone = true →
      x.chunk = some (h, n, left) → handle.toNat = h → chunk.toNat = n →
      let size := dataSize s t - 16
      exec (.chunkGet t handle chunk) s = .next (spdmAnswer (connSet s t { x with
        chunk := if left.length ≤ size then none else some (h, n + 1, left.drop size) }) t
        (.chunk h n (decide (left.length ≤ size)) left.length (left.take size))))

/-! ## Registers and scan -/

/-- R461: an RW register is not written while its block is enabled, unless it is unguarded: the write is accepted, and when it is
applied WR_IGNORED sets, BLK_ERRCNT advances, and nothing else changes. Otherwise the register takes the value without its reserved
bits, of two words with the low word held for it. -/
def Obligations.EnabledBlocksKeepTheirConfiguration : Prop :=
  ∀ (who : Requester) (reg : BitVec 32) (v : Word) (s : State) (b : Blk) (w o first : Nat) (r : RegRow),
    Inv s → writable who reg = true → regPlace s reg.toNat = .block b w → decoded b w = some (r, first, o) → r.acc = .rw →
    (reaches s who b o = true → isBusy s b = false → ∃ t p, exec (.registerWrite who reg v .alone) s = .next t ∧
      t.regs.posted = s.regs.posted ++ [p] ∧ p.base = b.base ∧ p.due ≤ s.now + postBound s b ∧ (∀ x, rget t x = rget s x) ∧
      ∀ u : State, u.regs.posted.contains p = true → regPlace u reg.toNat = regPlace s reg.toNat →
        applyPosted u p = landWrite { u with regs := { u.regs with posted := u.regs.posted.erase p } } b who r first o v .alone) ∧
    (enabled s b = true → r.unguarded = false → let t := landWrite s b who r first o v .alone
      (∀ x, x ≠ b.reg 0x00C → rget t x = rget s x) ∧ b.base ∈ t.regs.wrIgnored ∧
      rget t (b.reg 0x00C) = BitVec.ofNat 32 (min ((rget s (b.reg 0x00C)).toNat + 1) (2 ^ 32 - 1)) ∧
      t = { s with regs := t.regs } ∧ t.regs.held = s.regs.held ∧ t.regs.safe = s.regs.safe ∧ t.regs.badPar = s.regs.badPar) ∧
    (enabled s b = false ∨ r.unguarded = true →
      (r.words = 1 → ∃ u, landWrite s b who r first o v .alone = rwEffect s u b o ∧ rget u (b.reg o) = v &&& regMask b r o 0 ∧
        u.regs.wrIgnored = s.regs.wrIgnored) ∧
      (r.words = 2 → o = first → landWrite s b who r first o v .alone = holdLow s b who first v) ∧
      (r.words = 2 → o ≠ first → ∃ u, landWrite s b who r first o v .alone = rwEffect (lowFor s b who first).1 u b first ∧
        rget u (b.reg (first + 4)) = v &&& regMask b r first 1 ∧
        rget u (b.reg first) = (lowFor s b who first).2 &&& regMask b r first 0))

/-- Registers of the other types, the enable commands and a parity fault. A write is posted at a block that is not BUSY, and dropped at
one that is; what it does when it is applied goes by the register's type. The bit that a fault flips, and when within its bound a write
is applied, are left free.
What is the model's choice in it: log entries 94, 96, 100 and 179. -/
def Obligations.RegisterCommands : Prop :=
  (∀ (who : Requester) (reg : BitVec 32) (v : Word) (timing : WriteTiming) (s : State) (b : Blk) (w o first : Nat) (r : RegRow),
    writable who reg = true → regPlace s reg.toNat = .block b w → decoded b w = some (r, first, o) → reaches s who b o = true →
    (isBusy s b = true → exec (.registerWrite who reg v timing) s = .next (dropWrite s b)) ∧
    (isBusy s b = false → exec (.registerWrite who reg v timing) s = .next (postWrite s b who reg.toNat v timing))) ∧
  (∀ (who : Requester) (v x : Word) (s : State) (b : Blk) (o first : Nat) (r : RegRow),
    let land := landWrite s b who r first o v
    (r.acc = .ro ∨ r.acc = .live → land .alone = s ∧ land (.collides x) = s) ∧
    (r.acc = .cnt → r.words = 1 → land .alone = rset s (b.reg o) v ∧
      land (.collides x) = cntAdd (rset s (b.reg o) v) (b.reg o) 1) ∧
    (r.acc = .sh → land (.collides x) = rset s (b.reg o) x) ∧
    (r.acc = .log → r.lead = none → r.words = 1 → v.getLsbD 31 = true → Inv s → rget (land .alone) (b.reg first) = 0)) ∧
  (∀ (s : State) (t : Nat), inGap s = true → applyDue s t = s) ∧
  (∀ (s : State) (p : Posted) (t : Nat), s.regs.posted = [p] → inGap s = false → applyDue s t =
    if p.due ≤ t then landPosted { s with regs := { s.regs with posted := [] } } p else s) ∧
  (∀ (who : Requester) (reg : BitVec 32) (s : State) (b : Blk) (w : Nat),
    writable who reg = true → regPlace s reg.toNat = .block b w → w &&& b.kind.mask = 4 → reaches s who b 4 = true → isBusy s b = false →
    (enabled s b = false → exec (.blockEnable who reg) s = .next (enableBlock (acceptWrite s b) b)) ∧
    (enabled s b = true → mayDisable s b = true → exec (.blockDisable who reg) s = .next (disableBlock (acceptWrite s b) b)) ∧
    (enabled s b = true → mayDisable s b = false → exec (.blockDisable who reg) s = .next (errCount (acceptWrite s b) b))) ∧
  (∀ (s : State) (b : Blk), Inv s → b.base % 0x4000 = 0 → (enabled (disableBlock s b) b = false) ∧
    (enableCode s b ≠ 0 → enabled (enableBlock s b) b = false ∧ tget (enableBlock s b).regs.enCode b.base 0 = enableCode s b)) ∧
  (∀ (reg : BitVec 32) (s : State) (b : Blk) (first : Nat), rwReg reg = some (b, first) → holdsValues s b first = true →
    exec (.configParityFault reg) s = .next (parityFault s b first)) ∧
  (∀ (who : Requester) (s u : State) (i : Nat) (v : Word), i < 16384 → Inv u → hubUp s = true → siteState s 0 = .up →
    isBusy s blkBL = false → ∃ p, (regWrite s who (0x100000 + 4 * i) v .alone).regs.posted = s.regs.posted ++ [p] ∧
      bollGet (landPosted u p) i = v)

/-- The boundary-scan chain and the management port's address: what each instruction loads and shifts out; the intrusive ones
stop the module, or act as BYPASS where a chart is in use.
What is the model's choice in it: log entries 113, 114 and 115. -/
def Obligations.ScanAndManagement : Prop :=
  (∀ (die : Fin 35) (s : State), Inv s → s.pw.rails = true →
    (∀ k : Fin 5, chainType die.val = k.val → ∃ t w, exec (.idcode die) s = .next t ∧ t.out = s.out ++ [.jtag die.val w] ∧
      tget t.jtag.ir die.val 1 = 1 ∧ w.getLsbD 0 = true ∧ (field w 12 16 : BitVec 16).toNat = 0x4810 + k.val ∧ t.pw = s.pw ∧ t.mem = s.mem) ∧
    (∀ cells : Dword, ∃ t w, exec (.samplePreload die cells) s = .next t ∧ t.out = s.out ++ [.jtag die.val w] ∧
      tget t.jtag.cells die.val 0 = cells ∧ t.pw = s.pw ∧ t.mem = s.mem) ∧
    (∃ t, exec (.d2dResult die) s = .next t ∧ t.out = s.out ++ [.jtag die.val (tget s.jtag.results die.val 0)] ∧ t.pw = s.pw) ∧
    (∃ t, exec (.bypass die) s = .next t ∧ tget t.jtag.ir die.val 1 = 0xFF ∧ t.out = s.out ∧ t.pw = s.pw) ∧
    (∀ (i : Instr) (code : Nat), (i, code) ∈ [(.extest die, 3), (.clamp die, 4), (.highz die, 5)] → hubUp s = true →
      ∃ t, exec i s = .next t ∧ t.mem = s.mem ∧ t.hm = s.hm ∧
        (scanAdmits s = true → tget t.jtag.ir die.val 1 = code ∧ t.jtag.stopped = true ∧ t.pw.mode = .scan) ∧
        (scanAdmits s = false → tget t.jtag.ir die.val 1 = 0xFF ∧ t.jtag.stopped = s.jtag.stopped ∧ t.pw.mode = s.pw.mode)) ∧
    (∀ failing : BitVec 68, hubUp s = true → scanAdmits s = true →
      ∃ t, exec (.d2dTest die failing) s = .next t ∧ tget t.jtag.results die.val 0 = failing ∧ t.jtag.stopped = true ∧ t.pw.mode = .scan)) ∧
  (∀ s : State, s.jtag.stopped = false → exec .testLogicReset s = .next { s with jtag := { s.jtag with ir := [] } }) ∧
  (∀ s : State, s.jtag.stopped = true → ∃ t, exec .testLogicReset s = .next t ∧ t.pw.mode = .starting ∧ t.pw.fromStep3 = true ∧
    t.pw.cause = 5 ∧ t.jtag.stopped = false ∧ t.jtag.ir = [] ∧ t.mem = {}) ∧
  (∀ (d : BitVec 7) (s : State), fed s = true → s.i3c = none → exec (.setdasa 0x3A d) s = .next { s with i3c := some d } ∧
    exec (.entdaa d) s = .next { s with i3c := some d })

/-! ## Rules of the manual, whole -/

/-- R136: v is at least t when (v − t) mod 2^32 is less than 2^31; a waiter d ahead of the value, d below 2^31, waits until d
has been added, across a wrap too. -/
def Obligations.AtLeastAcrossWrap : Prop :=
  (∀ v t : Word, atLeast v t = true ↔ ((v.toNat : Int) - t.toNat) % 2 ^ 32 < 2 ^ 31) ∧
  atLeast 0xFFFFFFF0 0x00000008 = false ∧ atLeast (0xFFFFFFF0 + 0x20) 0x00000008 = true ∧
  (∀ (v : Word) (d n : Nat), d < 2 ^ 31 → n < 2 ^ 31 →
    (atLeast (v + BitVec.ofNat 32 n) (v + BitVec.ofNat 32 d) = true ↔ d ≤ n)) ∧
  (∀ (s : State) (b : Nat) (w : Waiter) (x : Watch) (n : Word), Inv s → watchGet s w = some x → x.boll = b → x.hit = none →
    (watchGet (bollAdd s b n) w = some { x with hit := some (BitVec.ofNat 64 s.now) } ↔ atLeast (bollGet s b + n) x.target = true))

/-- R199, with the log enabled: a record that matches the most recent one held within 1 ms advances its REPEAT and nothing else; any other takes the
next slot; with every slot in use it is dropped, counted, and the first dropped is captured. -/
def Obligations.RecordsMergeOrTakeSlots : Prop :=
  ∀ (s : State) (event : Bool) (kind slot unit detail addr tag : Nat), Inv s → enabled s blkEL = true →
    let t := logRecordEv s event kind slot unit detail addr tag
    let last := (s.elog.head + 4095) % 4096
    let r := tget s.elog.ring last 0
    let merges := s.elog.count ≠ 0 ∧ (field r 64 16).toNat = kind ∧ (field r 80 8).toNat = slot ∧ (field r 88 8).toNat = unit ∧
      (field r 128 64).toNat = addr ∧ s.tide.hub.toNat ≤ (field r 0 64).toNat + 1000000 ∧
      (field r 0 64).toNat ≤ s.tide.hub.toNat + 1000000
    (merges → t.elog.head = s.elog.head ∧ t.elog.count = s.elog.count ∧ t.elog.seq = s.elog.seq ∧ t.regs = s.regs ∧ t.events = s.events ∧
      (∀ i, i ≠ last → tget t.elog.ring i 0 = tget s.elog.ring i 0) ∧
      tget t.elog.ring last 0 = setField r 240 (BitVec.ofNat 16 (min ((field r 240 16).toNat + 1) 65535))) ∧
    (¬ merges → s.elog.count < 4096 → t.elog.head = (s.elog.head + 1) % 4096 ∧ t.elog.count = s.elog.count + 1 ∧
      t.elog.seq = s.elog.seq + 1 ∧ (∀ i, i ≠ s.elog.head → tget t.elog.ring i 0 = tget s.elog.ring i 0) ∧
      tget t.elog.ring s.elog.head 0 =
        mkRecord s.tide.hub kind slot unit detail addr tag s.elog.seq 0 ∧
      rget t (blkEL.reg 0x024) = BitVec.ofNat 32 (min ((rget s (blkEL.reg 0x024)).toNat + 1) (2 ^ 32 - 1))) ∧
    (¬ merges → s.elog.count = 4096 → t.elog = s.elog ∧ t.events = s.events ∧
      rget t (blkEL.reg 0x028) = BitVec.ofNat 32 (min ((rget s (blkEL.reg 0x028)).toNat + 1) (2 ^ 32 - 1)) ∧
      rget t (blkEL.reg 0x02C) = (if rget s (blkEL.reg 0x02C) &&& validBit = 0 then fields 32 [(16, kind), (6, slot)] ||| validBit
        else rget s (blkEL.reg 0x02C)))

/-- R382: 1,024 events wait at most; one more is dropped and counted, and the next that is queued carries LOST; nothing else
changes. -/
def Obligations.EventsQueueOrAreLost : Prop :=
  ∀ (s : State) (cls : Nat) (data : BitVec 256),
    (s.events.length < 1024 → sendEvent s cls data = { s with
      events := s.events ++ [{ cls := cls, lost := s.eventLost, time := s.tide.hub, data := data }], eventLost := false }) ∧
    (1024 ≤ s.events.length → let t := sendEvent s cls data
      t.events = s.events ∧ t.eventLost = true ∧ t.elog = s.elog ∧ t.boll = s.boll ∧
      (∀ x, x ≠ blkPL.reg 0x074 → rget t x = rget s x) ∧
      rget t (blkPL.reg 0x074) = BitVec.ofNat 32 (min ((rget s (blkPL.reg 0x074)).toNat + 1) (2 ^ 32 - 1)))
end

