-- ==== Sys2Proof/Laws/Maps.lean ====
section
/-! SUPPORT. Sparse maps and memory: reading after writing, and the canonical form that every operation keeps. -/

namespace Sys2Proof.Machine

section
variable {β : Type}

/-! ## Reading after writing -/

theorem tget_tput_self (m : Tbl β) (k : Nat) (v d : β) : tget (tput m k v) k d = v := by
  induction m with
  | nil => simp [tput, tget]
  | cons e r ih =>
    obtain ⟨a, w⟩ := e
    simp only [tput]
    split
    · simp [tget]
    · split
      · simp [tget]
      · rename_i h; simp [tget, Ne.symm h, ih]

theorem tget_tput_ne (m : Tbl β) {k j : Nat} (v d : β) (h : j ≠ k) : tget (tput m k v) j d = tget m j d := by
  induction m with
  | nil => simp [tput, tget, Ne.symm h]
  | cons e r ih =>
    obtain ⟨a, w⟩ := e
    simp only [tput]
    split
    · simp [tget, Ne.symm h]
    · split
      · rename_i h'; subst h'; simp [tget, Ne.symm h]
      · simp [tget, ih]

theorem tget_terase_ne (m : Tbl β) {k j : Nat} (d : β) (h : j ≠ k) : tget (terase m k) j d = tget m j d := by
  induction m with
  | nil => rfl
  | cons e r ih =>
    obtain ⟨a, w⟩ := e
    simp only [terase]
    split
    · rename_i h'; subst h'; simp [tget, Ne.symm h]
    · simp [tget, ih]

variable [DecidableEq β]

/-- A write leaves every other key alone. -/
theorem tget_tset_ne (m : Tbl β) {k j : Nat} (v d : β) (h : j ≠ k) : tget (tset m k v d) j d = tget m j d := by
  unfold tset; split
  · exact tget_terase_ne m d h
  · exact tget_tput_ne m v d h

/-- What is written is read back, in any map, where it is not what an unlisted key reads as. -/
theorem tget_tset_of_ne (m : Tbl β) (k : Nat) {v d : β} (h : v ≠ d) : tget (tset m k v d) k d = v := by
  simp [tset, h, tget_tput_self]

/-! ## Rising keys -/

omit [DecidableEq β] in
theorem tsorted_tail {e : Nat × β} {r : Tbl β} (h : tsorted (e :: r) = true) : tsorted r = true := by
  cases r with
  | nil => rfl
  | cons f r => simp only [tsorted, Bool.and_eq_true] at h; exact h.2

omit [DecidableEq β] in
/-- Every later key lies above the first. -/
theorem tsorted_head_lt {a : Nat} {v : β} {r : Tbl β} (h : tsorted ((a, v) :: r) = true) {e : Nat × β} (he : e ∈ r) : a < e.1 := by
  induction r generalizing a v with
  | nil => cases he
  | cons f r ih =>
    obtain ⟨b, w⟩ := f
    simp only [tsorted, Bool.and_eq_true, decide_eq_true_eq] at h
    rcases List.mem_cons.1 he with rfl | he
    · exact h.1
    · exact Nat.lt_trans h.1 (ih h.2 he)

omit [DecidableEq β] in
theorem tsorted_cons {a : Nat} {v : β} {r : Tbl β} (hr : tsorted r = true) (h : ∀ e ∈ r, a < e.1) : tsorted ((a, v) :: r) = true := by
  cases r with
  | nil => rfl
  | cons f r =>
    simp only [tsorted, Bool.and_eq_true, decide_eq_true_eq]
    exact ⟨h f (List.mem_cons_self ..), hr⟩

omit [DecidableEq β] in
theorem mem_tput {m : Tbl β} {k : Nat} {v : β} {e : Nat × β} (h : e ∈ tput m k v) : e = (k, v) ∨ e ∈ m := by
  induction m with
  | nil => simpa [tput] using h
  | cons f r ih =>
    obtain ⟨a, w⟩ := f
    simp only [tput] at h
    split at h
    · simpa using h
    · split at h
      · rcases List.mem_cons.1 h with rfl | h
        · exact .inl rfl
        · exact .inr (List.mem_cons_of_mem _ h)
      · rcases List.mem_cons.1 h with rfl | h
        · exact .inr (List.mem_cons_self ..)
        · rcases ih h with h | h
          · exact .inl h
          · exact .inr (List.mem_cons_of_mem _ h)

omit [DecidableEq β] in
theorem mem_terase {m : Tbl β} {k : Nat} {e : Nat × β} (h : e ∈ terase m k) : e ∈ m := by
  induction m with
  | nil => simp [terase] at h
  | cons f r ih =>
    obtain ⟨a, w⟩ := f
    simp only [terase] at h
    split at h
    · exact List.mem_cons_of_mem _ h
    · rcases List.mem_cons.1 h with rfl | h
      · exact List.mem_cons_self ..
      · exact List.mem_cons_of_mem _ (ih h)

omit [DecidableEq β] in
theorem tsorted_tput {m : Tbl β} (k : Nat) (v : β) (h : tsorted m = true) : tsorted (tput m k v) = true := by
  induction m with
  | nil => rfl
  | cons f r ih =>
    obtain ⟨a, w⟩ := f
    simp only [tput]
    split
    · rename_i hk
      refine tsorted_cons h fun e he => ?_
      rcases List.mem_cons.1 he with rfl | he
      · exact hk
      · exact Nat.lt_trans hk (tsorted_head_lt h he)
    · split
      · rename_i hk; subst hk
        exact tsorted_cons (tsorted_tail h) fun e he => tsorted_head_lt h he
      · rename_i h1 h2
        refine tsorted_cons (ih (tsorted_tail h)) fun e he => ?_
        rcases mem_tput he with rfl | he
        · exact Nat.lt_of_le_of_ne (Nat.le_of_not_lt h1) (Ne.symm h2)
        · exact tsorted_head_lt h he

omit [DecidableEq β] in
theorem tsorted_terase {m : Tbl β} (k : Nat) (h : tsorted m = true) : tsorted (terase m k) = true := by
  induction m with
  | nil => rfl
  | cons f r ih =>
    obtain ⟨a, w⟩ := f
    simp only [terase]
    split
    · exact tsorted_tail h
    · exact tsorted_cons (ih (tsorted_tail h)) fun e he => tsorted_head_lt h (mem_terase he)

theorem tsorted_tset {m : Tbl β} (k : Nat) (v d : β) (h : tsorted m = true) : tsorted (tset m k v d) = true := by
  unfold tset; split
  · exact tsorted_terase k h
  · exact tsorted_tput k v h

omit [DecidableEq β] in
theorem tget_of_lt {m : Tbl β} {k : Nat} (d : β) (h : ∀ e ∈ m, k < e.1) : tget m k d = d := by
  induction m with
  | nil => rfl
  | cons f r ih =>
    obtain ⟨a, w⟩ := f
    have := h (a, w) (List.mem_cons_self ..)
    simp only [tget]
    rw [if_neg (Nat.ne_of_gt this)]
    exact ih fun e he => h e (List.mem_cons_of_mem _ he)

omit [DecidableEq β] in
theorem tget_terase_self {m : Tbl β} (k : Nat) (d : β) (h : tsorted m = true) : tget (terase m k) k d = d := by
  induction m with
  | nil => rfl
  | cons f r ih =>
    obtain ⟨a, w⟩ := f
    simp only [terase]
    split
    · rename_i hk; subst hk
      exact tget_of_lt d fun e he => tsorted_head_lt h he
    · rename_i hk
      simp [tget, hk, ih (tsorted_tail h)]

/-- What is written is read back, whatever it is, in a map whose keys rise. -/
theorem tget_tset_self {m : Tbl β} (k : Nat) (v d : β) (h : tsorted m = true) : tget (tset m k v d) k d = v := by
  unfold tset; split
  · rename_i hv; subst hv; exact tget_terase_self k _ h
  · exact tget_tput_self m k v d

/-! ## The canonical form -/

theorem twf_iff {m : Tbl β} {d : Nat → β} : twf m d = true ↔ tsorted m = true ∧ ∀ e ∈ m, e.2 ≠ d e.1 := by
  simp [twf, List.all_eq_true]

theorem twf_tset {m : Tbl β} {d : β} (k : Nat) (v : β) (h : twf m (fun _ => d) = true) : twf (tset m k v d) (fun _ => d) = true := by
  rw [twf_iff] at *
  refine ⟨tsorted_tset k v d h.1, fun e he => ?_⟩
  unfold tset at he
  split at he
  · exact h.2 e (mem_terase he)
  · rename_i hv
    rcases mem_tput he with rfl | he
    · exact hv
    · exact h.2 e he

omit [DecidableEq β] in
theorem tsorted_filter {m : Tbl β} (p : Nat × β → Bool) (h : tsorted m = true) : tsorted (m.filter p) = true := by
  induction m with
  | nil => rfl
  | cons f r ih =>
    obtain ⟨a, w⟩ := f
    simp only [List.filter]
    split
    · exact tsorted_cons (ih (tsorted_tail h)) fun e he => tsorted_head_lt h (List.mem_of_mem_filter he)
    · exact ih (tsorted_tail h)

/-- Removing entries keeps the canonical form. -/
theorem twf_filter {m : Tbl β} {d : Nat → β} (p : Nat × β → Bool) (h : twf m d = true) : twf (m.filter p) d = true := by
  rw [twf_iff] at *
  exact ⟨tsorted_filter p h.1, fun e he => h.2 e (List.mem_of_mem_filter he)⟩

theorem twf_tclear {m : Tbl β} {d : Nat → β} (lo hi : Nat) (h : twf m d = true) : twf (tclear m lo hi) d = true := twf_filter _ h

theorem twf_nil {d : Nat → β} : twf ([] : Tbl β) d = true := rfl

end

/-! ## Memory -/

/-- A byte that is written is read back. -/
theorem Memory.read_write_self {m : Memory} (a : Nat) (b : Byte) (h : Memory.wf m = true) : Memory.read (Memory.write m a b) a = b :=
  tget_tset_self a b Memory.unlisted (twf_iff.1 h).1

/-- A write leaves every other byte alone. -/
theorem Memory.read_write_ne (m : Memory) {a j : Nat} (b : Byte) (h : j ≠ a) : Memory.read (Memory.write m a b) j = Memory.read m j :=
  tget_tset_ne m b Memory.unlisted h

theorem Memory.write_wf {m : Memory} (a : Nat) (b : Byte) (h : Memory.wf m = true) : Memory.wf (Memory.write m a b) = true := twf_tset a b h

theorem Memory.writeBytes_wf {m : Memory} (a : Nat) (l : List Byte) (h : Memory.wf m = true) : Memory.wf (Memory.writeBytes m a l) = true := by
  induction l generalizing m a with
  | nil => exact h
  | cons b r ih => exact ih (a + 1) (Memory.write_wf a b h)

theorem Memory.writeNat_wf {m : Memory} (a n x : Nat) (h : Memory.wf m = true) : Memory.wf (Memory.writeNat m a n x) = true :=
  Memory.writeBytes_wf a _ h

/-- Bytes outside a written range read as before. -/
theorem Memory.read_writeBytes_ne (m : Memory) (a : Nat) (l : List Byte) {j : Nat} (h : j < a ∨ a + l.length ≤ j) :
    Memory.read (Memory.writeBytes m a l) j = Memory.read m j := by
  induction l generalizing m a with
  | nil => rfl
  | cons b r ih =>
    have hj : j < a + 1 ∨ a + 1 + r.length ≤ j := by simp only [List.length_cons] at h; omega
    have hne : j ≠ a := by simp only [List.length_cons] at h; omega
    rw [show Memory.writeBytes m a (b :: r) = Memory.writeBytes (Memory.write m a b) (a + 1) r from rfl, ih _ _ hj,
      Memory.read_write_ne m b hne]

/-- The bytes of a written range are read back. -/
theorem Memory.readBytes_writeBytes {m : Memory} (a : Nat) (l : List Byte) (h : Memory.wf m = true) :
    Memory.readBytes (Memory.writeBytes m a l) a l.length = l := by
  have key : ∀ (l : List Byte) (m : Memory) (a : Nat), Memory.wf m = true →
      Memory.readBytes (Memory.writeBytes m a l) a l.length = l := by
    intro l
    induction l with
    | nil => intros; rfl
    | cons b r ih =>
      intro m a h
      have hw := Memory.write_wf a b h
      have h1 : Memory.read (Memory.writeBytes (Memory.write m a b) (a + 1) r) a = b := by
        rw [Memory.read_writeBytes_ne _ _ _ (.inl (Nat.lt_succ_self a)), Memory.read_write_self a b h]
      show Memory.read (Memory.writeBytes (Memory.write m a b) (a + 1) r) a
        :: Memory.readBytes (Memory.writeBytes (Memory.write m a b) (a + 1) r) (a + 1) r.length = b :: r
      rw [h1, ih _ _ hw]
  exact key l m a h

theorem Memory.clear_wf {m : Memory} (lo hi : Nat) (h : Memory.wf m = true) : Memory.wf (tclear m lo hi) = true := twf_tclear lo hi h

end Sys2Proof.Machine
end

