-- ==== Sys2Proof/Laws/State.lean ====
section
/-! SUPPORT. What each named update of the state leaves as it was, field by field, so that no proof unfolds a record update. -/

namespace Sys2Proof.Machine

section
variable (s : State)

@[simp] theorem State.takeFree_pending : (State.takeFree s).pending = s.pending := rfl
@[simp] theorem State.takeFree_out : (State.takeFree s).out = s.out := rfl
@[simp] theorem State.takeFree_freeCtr : (State.takeFree s).freeCtr = s.freeCtr + 1 := rfl
@[simp] theorem State.takeFree_now : (State.takeFree s).now = s.now := rfl
@[simp] theorem State.takeFree_regs : (State.takeFree s).regs = s.regs := rfl
@[simp] theorem State.takeFree_cores : (State.takeFree s).cores = s.cores := rfl
@[simp] theorem State.takeFree_mem : (State.takeFree s).mem = s.mem := rfl
@[simp] theorem State.takeFree_mc : (State.takeFree s).mc = s.mc := rfl
@[simp] theorem State.takeFree_sc : (State.takeFree s).sc = s.sc := rfl
@[simp] theorem State.takeFree_berth : (State.takeFree s).berth = s.berth := rfl
@[simp] theorem State.takeFree_elog : (State.takeFree s).elog = s.elog := rfl
@[simp] theorem State.takeFree_events : (State.takeFree s).events = s.events := rfl
@[simp] theorem State.takeFree_eventLost : (State.takeFree s).eventLost = s.eventLost := rfl
@[simp] theorem State.takeFree_tide : (State.takeFree s).tide = s.tide := rfl
@[simp] theorem State.takeFree_launch : (State.takeFree s).launch = s.launch := rfl
@[simp] theorem State.takeFree_boll : (State.takeFree s).boll = s.boll := rfl
@[simp] theorem State.takeFree_slack : (State.takeFree s).slack = s.slack := rfl
@[simp] theorem State.takeFree_hm : (State.takeFree s).hm = s.hm := rfl
@[simp] theorem State.takeFree_links : (State.takeFree s).links = s.links := rfl
@[simp] theorem State.takeFree_trans : (State.takeFree s).trans = s.trans := rfl
@[simp] theorem State.takeFree_guest : (State.takeFree s).guest = s.guest := rfl
@[simp] theorem State.takeFree_pw : (State.takeFree s).pw = s.pw := rfl
@[simp] theorem State.takeFree_tm : (State.takeFree s).tm = s.tm := rfl
@[simp] theorem State.takeFree_red : (State.takeFree s).red = s.red := rfl
@[simp] theorem State.takeFree_sec : (State.takeFree s).sec = s.sec := rfl
@[simp] theorem State.takeFree_oe : (State.takeFree s).oe = s.oe := rfl
@[simp] theorem State.takeFree_ls : (State.takeFree s).ls = s.ls := rfl
@[simp] theorem State.takeFree_nor : (State.takeFree s).nor = s.nor := rfl
@[simp] theorem State.takeFree_cal : (State.takeFree s).cal = s.cal := rfl
@[simp] theorem State.takeFree_pl : (State.takeFree s).pl = s.pl := rfl
@[simp] theorem State.takeFree_spdmMctp : (State.takeFree s).spdmMctp = s.spdmMctp := rfl
@[simp] theorem State.takeFree_spdmPilot : (State.takeFree s).spdmPilot = s.spdmPilot := rfl
@[simp] theorem State.takeFree_dl : (State.takeFree s).dl = s.dl := rfl
@[simp] theorem State.takeFree_jtag : (State.takeFree s).jtag = s.jtag := rfl
@[simp] theorem State.takeFree_i3c : (State.takeFree s).i3c = s.i3c := rfl

end

section
variable (s : State) (o : Output)

@[simp] theorem State.emit_pending : (State.emit s o).pending = s.pending := rfl
@[simp] theorem State.emit_out : (State.emit s o).out = s.out ++ [o] := rfl
@[simp] theorem State.emit_freeCtr : (State.emit s o).freeCtr = s.freeCtr := rfl
@[simp] theorem State.emit_now : (State.emit s o).now = s.now := rfl
@[simp] theorem State.emit_regs : (State.emit s o).regs = s.regs := rfl
@[simp] theorem State.emit_cores : (State.emit s o).cores = s.cores := rfl
@[simp] theorem State.emit_mem : (State.emit s o).mem = s.mem := rfl
@[simp] theorem State.emit_mc : (State.emit s o).mc = s.mc := rfl
@[simp] theorem State.emit_sc : (State.emit s o).sc = s.sc := rfl
@[simp] theorem State.emit_berth : (State.emit s o).berth = s.berth := rfl
@[simp] theorem State.emit_elog : (State.emit s o).elog = s.elog := rfl
@[simp] theorem State.emit_events : (State.emit s o).events = s.events := rfl
@[simp] theorem State.emit_eventLost : (State.emit s o).eventLost = s.eventLost := rfl
@[simp] theorem State.emit_tide : (State.emit s o).tide = s.tide := rfl
@[simp] theorem State.emit_launch : (State.emit s o).launch = s.launch := rfl
@[simp] theorem State.emit_boll : (State.emit s o).boll = s.boll := rfl
@[simp] theorem State.emit_slack : (State.emit s o).slack = s.slack := rfl
@[simp] theorem State.emit_hm : (State.emit s o).hm = s.hm := rfl
@[simp] theorem State.emit_links : (State.emit s o).links = s.links := rfl
@[simp] theorem State.emit_trans : (State.emit s o).trans = s.trans := rfl
@[simp] theorem State.emit_guest : (State.emit s o).guest = s.guest := rfl
@[simp] theorem State.emit_pw : (State.emit s o).pw = s.pw := rfl
@[simp] theorem State.emit_tm : (State.emit s o).tm = s.tm := rfl
@[simp] theorem State.emit_red : (State.emit s o).red = s.red := rfl
@[simp] theorem State.emit_sec : (State.emit s o).sec = s.sec := rfl
@[simp] theorem State.emit_oe : (State.emit s o).oe = s.oe := rfl
@[simp] theorem State.emit_ls : (State.emit s o).ls = s.ls := rfl
@[simp] theorem State.emit_nor : (State.emit s o).nor = s.nor := rfl
@[simp] theorem State.emit_cal : (State.emit s o).cal = s.cal := rfl
@[simp] theorem State.emit_pl : (State.emit s o).pl = s.pl := rfl
@[simp] theorem State.emit_spdmMctp : (State.emit s o).spdmMctp = s.spdmMctp := rfl
@[simp] theorem State.emit_spdmPilot : (State.emit s o).spdmPilot = s.spdmPilot := rfl
@[simp] theorem State.emit_dl : (State.emit s o).dl = s.dl := rfl
@[simp] theorem State.emit_jtag : (State.emit s o).jtag = s.jtag := rfl
@[simp] theorem State.emit_i3c : (State.emit s o).i3c = s.i3c := rfl

end

section
variable (s : State) (m : MemSt)

@[simp] theorem State.setMem_pending : (State.setMem s m).pending = s.pending := rfl
@[simp] theorem State.setMem_out : (State.setMem s m).out = s.out := rfl
@[simp] theorem State.setMem_freeCtr : (State.setMem s m).freeCtr = s.freeCtr := rfl
@[simp] theorem State.setMem_now : (State.setMem s m).now = s.now := rfl
@[simp] theorem State.setMem_regs : (State.setMem s m).regs = s.regs := rfl
@[simp] theorem State.setMem_cores : (State.setMem s m).cores = s.cores := rfl
@[simp] theorem State.setMem_mem : (State.setMem s m).mem = m := rfl
@[simp] theorem State.setMem_mc : (State.setMem s m).mc = s.mc := rfl
@[simp] theorem State.setMem_sc : (State.setMem s m).sc = s.sc := rfl
@[simp] theorem State.setMem_berth : (State.setMem s m).berth = s.berth := rfl
@[simp] theorem State.setMem_elog : (State.setMem s m).elog = s.elog := rfl
@[simp] theorem State.setMem_events : (State.setMem s m).events = s.events := rfl
@[simp] theorem State.setMem_eventLost : (State.setMem s m).eventLost = s.eventLost := rfl
@[simp] theorem State.setMem_tide : (State.setMem s m).tide = s.tide := rfl
@[simp] theorem State.setMem_launch : (State.setMem s m).launch = s.launch := rfl
@[simp] theorem State.setMem_boll : (State.setMem s m).boll = s.boll := rfl
@[simp] theorem State.setMem_slack : (State.setMem s m).slack = s.slack := rfl
@[simp] theorem State.setMem_hm : (State.setMem s m).hm = s.hm := rfl
@[simp] theorem State.setMem_links : (State.setMem s m).links = s.links := rfl
@[simp] theorem State.setMem_trans : (State.setMem s m).trans = s.trans := rfl
@[simp] theorem State.setMem_guest : (State.setMem s m).guest = s.guest := rfl
@[simp] theorem State.setMem_pw : (State.setMem s m).pw = s.pw := rfl
@[simp] theorem State.setMem_tm : (State.setMem s m).tm = s.tm := rfl
@[simp] theorem State.setMem_red : (State.setMem s m).red = s.red := rfl
@[simp] theorem State.setMem_sec : (State.setMem s m).sec = s.sec := rfl
@[simp] theorem State.setMem_oe : (State.setMem s m).oe = s.oe := rfl
@[simp] theorem State.setMem_ls : (State.setMem s m).ls = s.ls := rfl
@[simp] theorem State.setMem_nor : (State.setMem s m).nor = s.nor := rfl
@[simp] theorem State.setMem_cal : (State.setMem s m).cal = s.cal := rfl
@[simp] theorem State.setMem_pl : (State.setMem s m).pl = s.pl := rfl
@[simp] theorem State.setMem_spdmMctp : (State.setMem s m).spdmMctp = s.spdmMctp := rfl
@[simp] theorem State.setMem_spdmPilot : (State.setMem s m).spdmPilot = s.spdmPilot := rfl
@[simp] theorem State.setMem_dl : (State.setMem s m).dl = s.dl := rfl
@[simp] theorem State.setMem_jtag : (State.setMem s m).jtag = s.jtag := rfl
@[simp] theorem State.setMem_i3c : (State.setMem s m).i3c = s.i3c := rfl

end

section
variable (s : State) (off : Nat) (v : Word)

@[simp] theorem rset_pending : (rset s off v).pending = s.pending := rfl
@[simp] theorem rset_out : (rset s off v).out = s.out := rfl
@[simp] theorem rset_freeCtr : (rset s off v).freeCtr = s.freeCtr := rfl
@[simp] theorem rset_now : (rset s off v).now = s.now := rfl
@[simp] theorem rset_regs : (rset s off v).regs = { s.regs with words := tset s.regs.words off v (regReset off) } := rfl
@[simp] theorem rset_cores : (rset s off v).cores = s.cores := rfl
@[simp] theorem rset_mem : (rset s off v).mem = s.mem := rfl
@[simp] theorem rset_mc : (rset s off v).mc = s.mc := rfl
@[simp] theorem rset_sc : (rset s off v).sc = s.sc := rfl
@[simp] theorem rset_berth : (rset s off v).berth = s.berth := rfl
@[simp] theorem rset_elog : (rset s off v).elog = s.elog := rfl
@[simp] theorem rset_events : (rset s off v).events = s.events := rfl
@[simp] theorem rset_eventLost : (rset s off v).eventLost = s.eventLost := rfl
@[simp] theorem rset_tide : (rset s off v).tide = s.tide := rfl
@[simp] theorem rset_launch : (rset s off v).launch = s.launch := rfl
@[simp] theorem rset_boll : (rset s off v).boll = s.boll := rfl
@[simp] theorem rset_slack : (rset s off v).slack = s.slack := rfl
@[simp] theorem rset_hm : (rset s off v).hm = s.hm := rfl
@[simp] theorem rset_links : (rset s off v).links = s.links := rfl
@[simp] theorem rset_trans : (rset s off v).trans = s.trans := rfl
@[simp] theorem rset_guest : (rset s off v).guest = s.guest := rfl
@[simp] theorem rset_pw : (rset s off v).pw = s.pw := rfl
@[simp] theorem rset_tm : (rset s off v).tm = s.tm := rfl
@[simp] theorem rset_red : (rset s off v).red = s.red := rfl
@[simp] theorem rset_sec : (rset s off v).sec = s.sec := rfl
@[simp] theorem rset_oe : (rset s off v).oe = s.oe := rfl
@[simp] theorem rset_ls : (rset s off v).ls = s.ls := rfl
@[simp] theorem rset_nor : (rset s off v).nor = s.nor := rfl
@[simp] theorem rset_cal : (rset s off v).cal = s.cal := rfl
@[simp] theorem rset_pl : (rset s off v).pl = s.pl := rfl
@[simp] theorem rset_spdmMctp : (rset s off v).spdmMctp = s.spdmMctp := rfl
@[simp] theorem rset_spdmPilot : (rset s off v).spdmPilot = s.spdmPilot := rfl
@[simp] theorem rset_dl : (rset s off v).dl = s.dl := rfl
@[simp] theorem rset_jtag : (rset s off v).jtag = s.jtag := rfl
@[simp] theorem rset_i3c : (rset s off v).i3c = s.i3c := rfl

end

section
variable (s : State) (off : Nat) (v : Dword)

@[simp] theorem rset64_pending : (rset64 s off v).pending = s.pending := rfl
@[simp] theorem rset64_out : (rset64 s off v).out = s.out := rfl
@[simp] theorem rset64_freeCtr : (rset64 s off v).freeCtr = s.freeCtr := rfl
@[simp] theorem rset64_now : (rset64 s off v).now = s.now := rfl
@[simp] theorem rset64_cores : (rset64 s off v).cores = s.cores := rfl
@[simp] theorem rset64_mem : (rset64 s off v).mem = s.mem := rfl
@[simp] theorem rset64_mc : (rset64 s off v).mc = s.mc := rfl
@[simp] theorem rset64_sc : (rset64 s off v).sc = s.sc := rfl
@[simp] theorem rset64_berth : (rset64 s off v).berth = s.berth := rfl
@[simp] theorem rset64_elog : (rset64 s off v).elog = s.elog := rfl
@[simp] theorem rset64_events : (rset64 s off v).events = s.events := rfl
@[simp] theorem rset64_eventLost : (rset64 s off v).eventLost = s.eventLost := rfl
@[simp] theorem rset64_tide : (rset64 s off v).tide = s.tide := rfl
@[simp] theorem rset64_launch : (rset64 s off v).launch = s.launch := rfl
@[simp] theorem rset64_boll : (rset64 s off v).boll = s.boll := rfl
@[simp] theorem rset64_slack : (rset64 s off v).slack = s.slack := rfl
@[simp] theorem rset64_hm : (rset64 s off v).hm = s.hm := rfl
@[simp] theorem rset64_links : (rset64 s off v).links = s.links := rfl
@[simp] theorem rset64_trans : (rset64 s off v).trans = s.trans := rfl
@[simp] theorem rset64_guest : (rset64 s off v).guest = s.guest := rfl
@[simp] theorem rset64_pw : (rset64 s off v).pw = s.pw := rfl
@[simp] theorem rset64_tm : (rset64 s off v).tm = s.tm := rfl
@[simp] theorem rset64_red : (rset64 s off v).red = s.red := rfl
@[simp] theorem rset64_sec : (rset64 s off v).sec = s.sec := rfl
@[simp] theorem rset64_oe : (rset64 s off v).oe = s.oe := rfl
@[simp] theorem rset64_ls : (rset64 s off v).ls = s.ls := rfl
@[simp] theorem rset64_nor : (rset64 s off v).nor = s.nor := rfl
@[simp] theorem rset64_cal : (rset64 s off v).cal = s.cal := rfl
@[simp] theorem rset64_pl : (rset64 s off v).pl = s.pl := rfl
@[simp] theorem rset64_spdmMctp : (rset64 s off v).spdmMctp = s.spdmMctp := rfl
@[simp] theorem rset64_spdmPilot : (rset64 s off v).spdmPilot = s.spdmPilot := rfl
@[simp] theorem rset64_dl : (rset64 s off v).dl = s.dl := rfl
@[simp] theorem rset64_jtag : (rset64 s off v).jtag = s.jtag := rfl
@[simp] theorem rset64_i3c : (rset64 s off v).i3c = s.i3c := rfl

end

section
variable (s : State) (off n : Nat)

@[simp] theorem cntAdd_pending : (cntAdd s off n).pending = s.pending := rfl
@[simp] theorem cntAdd_out : (cntAdd s off n).out = s.out := rfl
@[simp] theorem cntAdd_freeCtr : (cntAdd s off n).freeCtr = s.freeCtr := rfl
@[simp] theorem cntAdd_now : (cntAdd s off n).now = s.now := rfl
@[simp] theorem cntAdd_cores : (cntAdd s off n).cores = s.cores := rfl
@[simp] theorem cntAdd_mem : (cntAdd s off n).mem = s.mem := rfl
@[simp] theorem cntAdd_mc : (cntAdd s off n).mc = s.mc := rfl
@[simp] theorem cntAdd_sc : (cntAdd s off n).sc = s.sc := rfl
@[simp] theorem cntAdd_berth : (cntAdd s off n).berth = s.berth := rfl
@[simp] theorem cntAdd_elog : (cntAdd s off n).elog = s.elog := rfl
@[simp] theorem cntAdd_events : (cntAdd s off n).events = s.events := rfl
@[simp] theorem cntAdd_eventLost : (cntAdd s off n).eventLost = s.eventLost := rfl
@[simp] theorem cntAdd_tide : (cntAdd s off n).tide = s.tide := rfl
@[simp] theorem cntAdd_launch : (cntAdd s off n).launch = s.launch := rfl
@[simp] theorem cntAdd_boll : (cntAdd s off n).boll = s.boll := rfl
@[simp] theorem cntAdd_slack : (cntAdd s off n).slack = s.slack := rfl
@[simp] theorem cntAdd_hm : (cntAdd s off n).hm = s.hm := rfl
@[simp] theorem cntAdd_links : (cntAdd s off n).links = s.links := rfl
@[simp] theorem cntAdd_trans : (cntAdd s off n).trans = s.trans := rfl
@[simp] theorem cntAdd_guest : (cntAdd s off n).guest = s.guest := rfl
@[simp] theorem cntAdd_pw : (cntAdd s off n).pw = s.pw := rfl
@[simp] theorem cntAdd_tm : (cntAdd s off n).tm = s.tm := rfl
@[simp] theorem cntAdd_red : (cntAdd s off n).red = s.red := rfl
@[simp] theorem cntAdd_sec : (cntAdd s off n).sec = s.sec := rfl
@[simp] theorem cntAdd_oe : (cntAdd s off n).oe = s.oe := rfl
@[simp] theorem cntAdd_ls : (cntAdd s off n).ls = s.ls := rfl
@[simp] theorem cntAdd_nor : (cntAdd s off n).nor = s.nor := rfl
@[simp] theorem cntAdd_cal : (cntAdd s off n).cal = s.cal := rfl
@[simp] theorem cntAdd_pl : (cntAdd s off n).pl = s.pl := rfl
@[simp] theorem cntAdd_spdmMctp : (cntAdd s off n).spdmMctp = s.spdmMctp := rfl
@[simp] theorem cntAdd_spdmPilot : (cntAdd s off n).spdmPilot = s.spdmPilot := rfl
@[simp] theorem cntAdd_dl : (cntAdd s off n).dl = s.dl := rfl
@[simp] theorem cntAdd_jtag : (cntAdd s off n).jtag = s.jtag := rfl
@[simp] theorem cntAdd_i3c : (cntAdd s off n).i3c = s.i3c := rfl

end

section
variable (s : State) (off n : Nat)

@[simp] theorem cntAdd64_pending : (cntAdd64 s off n).pending = s.pending := rfl
@[simp] theorem cntAdd64_out : (cntAdd64 s off n).out = s.out := rfl
@[simp] theorem cntAdd64_freeCtr : (cntAdd64 s off n).freeCtr = s.freeCtr := rfl
@[simp] theorem cntAdd64_now : (cntAdd64 s off n).now = s.now := rfl
@[simp] theorem cntAdd64_cores : (cntAdd64 s off n).cores = s.cores := rfl
@[simp] theorem cntAdd64_mem : (cntAdd64 s off n).mem = s.mem := rfl
@[simp] theorem cntAdd64_mc : (cntAdd64 s off n).mc = s.mc := rfl
@[simp] theorem cntAdd64_sc : (cntAdd64 s off n).sc = s.sc := rfl
@[simp] theorem cntAdd64_berth : (cntAdd64 s off n).berth = s.berth := rfl
@[simp] theorem cntAdd64_elog : (cntAdd64 s off n).elog = s.elog := rfl
@[simp] theorem cntAdd64_events : (cntAdd64 s off n).events = s.events := rfl
@[simp] theorem cntAdd64_eventLost : (cntAdd64 s off n).eventLost = s.eventLost := rfl
@[simp] theorem cntAdd64_tide : (cntAdd64 s off n).tide = s.tide := rfl
@[simp] theorem cntAdd64_launch : (cntAdd64 s off n).launch = s.launch := rfl
@[simp] theorem cntAdd64_boll : (cntAdd64 s off n).boll = s.boll := rfl
@[simp] theorem cntAdd64_slack : (cntAdd64 s off n).slack = s.slack := rfl
@[simp] theorem cntAdd64_hm : (cntAdd64 s off n).hm = s.hm := rfl
@[simp] theorem cntAdd64_links : (cntAdd64 s off n).links = s.links := rfl
@[simp] theorem cntAdd64_trans : (cntAdd64 s off n).trans = s.trans := rfl
@[simp] theorem cntAdd64_guest : (cntAdd64 s off n).guest = s.guest := rfl
@[simp] theorem cntAdd64_pw : (cntAdd64 s off n).pw = s.pw := rfl
@[simp] theorem cntAdd64_tm : (cntAdd64 s off n).tm = s.tm := rfl
@[simp] theorem cntAdd64_red : (cntAdd64 s off n).red = s.red := rfl
@[simp] theorem cntAdd64_sec : (cntAdd64 s off n).sec = s.sec := rfl
@[simp] theorem cntAdd64_oe : (cntAdd64 s off n).oe = s.oe := rfl
@[simp] theorem cntAdd64_ls : (cntAdd64 s off n).ls = s.ls := rfl
@[simp] theorem cntAdd64_nor : (cntAdd64 s off n).nor = s.nor := rfl
@[simp] theorem cntAdd64_cal : (cntAdd64 s off n).cal = s.cal := rfl
@[simp] theorem cntAdd64_pl : (cntAdd64 s off n).pl = s.pl := rfl
@[simp] theorem cntAdd64_spdmMctp : (cntAdd64 s off n).spdmMctp = s.spdmMctp := rfl
@[simp] theorem cntAdd64_spdmPilot : (cntAdd64 s off n).spdmPilot = s.spdmPilot := rfl
@[simp] theorem cntAdd64_dl : (cntAdd64 s off n).dl = s.dl := rfl
@[simp] theorem cntAdd64_jtag : (cntAdd64 s off n).jtag = s.jtag := rfl
@[simp] theorem cntAdd64_i3c : (cntAdd64 s off n).i3c = s.i3c := rfl

end

section
variable (s : State) (b : Blk)

@[simp] theorem errCount_pending : (errCount s b).pending = s.pending := rfl
@[simp] theorem errCount_out : (errCount s b).out = s.out := rfl
@[simp] theorem errCount_freeCtr : (errCount s b).freeCtr = s.freeCtr := rfl
@[simp] theorem errCount_now : (errCount s b).now = s.now := rfl
@[simp] theorem errCount_cores : (errCount s b).cores = s.cores := rfl
@[simp] theorem errCount_mem : (errCount s b).mem = s.mem := rfl
@[simp] theorem errCount_mc : (errCount s b).mc = s.mc := rfl
@[simp] theorem errCount_sc : (errCount s b).sc = s.sc := rfl
@[simp] theorem errCount_berth : (errCount s b).berth = s.berth := rfl
@[simp] theorem errCount_elog : (errCount s b).elog = s.elog := rfl
@[simp] theorem errCount_events : (errCount s b).events = s.events := rfl
@[simp] theorem errCount_eventLost : (errCount s b).eventLost = s.eventLost := rfl
@[simp] theorem errCount_tide : (errCount s b).tide = s.tide := rfl
@[simp] theorem errCount_launch : (errCount s b).launch = s.launch := rfl
@[simp] theorem errCount_boll : (errCount s b).boll = s.boll := rfl
@[simp] theorem errCount_slack : (errCount s b).slack = s.slack := rfl
@[simp] theorem errCount_hm : (errCount s b).hm = s.hm := rfl
@[simp] theorem errCount_links : (errCount s b).links = s.links := rfl
@[simp] theorem errCount_trans : (errCount s b).trans = s.trans := rfl
@[simp] theorem errCount_guest : (errCount s b).guest = s.guest := rfl
@[simp] theorem errCount_pw : (errCount s b).pw = s.pw := rfl
@[simp] theorem errCount_tm : (errCount s b).tm = s.tm := rfl
@[simp] theorem errCount_red : (errCount s b).red = s.red := rfl
@[simp] theorem errCount_sec : (errCount s b).sec = s.sec := rfl
@[simp] theorem errCount_oe : (errCount s b).oe = s.oe := rfl
@[simp] theorem errCount_ls : (errCount s b).ls = s.ls := rfl
@[simp] theorem errCount_nor : (errCount s b).nor = s.nor := rfl
@[simp] theorem errCount_cal : (errCount s b).cal = s.cal := rfl
@[simp] theorem errCount_pl : (errCount s b).pl = s.pl := rfl
@[simp] theorem errCount_spdmMctp : (errCount s b).spdmMctp = s.spdmMctp := rfl
@[simp] theorem errCount_spdmPilot : (errCount s b).spdmPilot = s.spdmPilot := rfl
@[simp] theorem errCount_dl : (errCount s b).dl = s.dl := rfl
@[simp] theorem errCount_jtag : (errCount s b).jtag = s.jtag := rfl
@[simp] theorem errCount_i3c : (errCount s b).i3c = s.i3c := rfl

end

section
variable (s : State) (b : Blk) (on : Bool)

@[simp] theorem setBusy_pending : (setBusy s b on).pending = s.pending := rfl
@[simp] theorem setBusy_out : (setBusy s b on).out = s.out := rfl
@[simp] theorem setBusy_freeCtr : (setBusy s b on).freeCtr = s.freeCtr := rfl
@[simp] theorem setBusy_now : (setBusy s b on).now = s.now := rfl
@[simp] theorem setBusy_cores : (setBusy s b on).cores = s.cores := rfl
@[simp] theorem setBusy_mem : (setBusy s b on).mem = s.mem := rfl
@[simp] theorem setBusy_mc : (setBusy s b on).mc = s.mc := rfl
@[simp] theorem setBusy_sc : (setBusy s b on).sc = s.sc := rfl
@[simp] theorem setBusy_berth : (setBusy s b on).berth = s.berth := rfl
@[simp] theorem setBusy_elog : (setBusy s b on).elog = s.elog := rfl
@[simp] theorem setBusy_events : (setBusy s b on).events = s.events := rfl
@[simp] theorem setBusy_eventLost : (setBusy s b on).eventLost = s.eventLost := rfl
@[simp] theorem setBusy_tide : (setBusy s b on).tide = s.tide := rfl
@[simp] theorem setBusy_launch : (setBusy s b on).launch = s.launch := rfl
@[simp] theorem setBusy_boll : (setBusy s b on).boll = s.boll := rfl
@[simp] theorem setBusy_slack : (setBusy s b on).slack = s.slack := rfl
@[simp] theorem setBusy_hm : (setBusy s b on).hm = s.hm := rfl
@[simp] theorem setBusy_links : (setBusy s b on).links = s.links := rfl
@[simp] theorem setBusy_trans : (setBusy s b on).trans = s.trans := rfl
@[simp] theorem setBusy_guest : (setBusy s b on).guest = s.guest := rfl
@[simp] theorem setBusy_pw : (setBusy s b on).pw = s.pw := rfl
@[simp] theorem setBusy_tm : (setBusy s b on).tm = s.tm := rfl
@[simp] theorem setBusy_red : (setBusy s b on).red = s.red := rfl
@[simp] theorem setBusy_sec : (setBusy s b on).sec = s.sec := rfl
@[simp] theorem setBusy_oe : (setBusy s b on).oe = s.oe := rfl
@[simp] theorem setBusy_ls : (setBusy s b on).ls = s.ls := rfl
@[simp] theorem setBusy_nor : (setBusy s b on).nor = s.nor := rfl
@[simp] theorem setBusy_cal : (setBusy s b on).cal = s.cal := rfl
@[simp] theorem setBusy_pl : (setBusy s b on).pl = s.pl := rfl
@[simp] theorem setBusy_spdmMctp : (setBusy s b on).spdmMctp = s.spdmMctp := rfl
@[simp] theorem setBusy_spdmPilot : (setBusy s b on).spdmPilot = s.spdmPilot := rfl
@[simp] theorem setBusy_dl : (setBusy s b on).dl = s.dl := rfl
@[simp] theorem setBusy_jtag : (setBusy s b on).jtag = s.jtag := rfl
@[simp] theorem setBusy_i3c : (setBusy s b on).i3c = s.i3c := rfl

end

section
variable (s : State) (b : Blk) (on : Bool)

@[simp] theorem setEn_pending : (setEn s b on).pending = s.pending := rfl
@[simp] theorem setEn_out : (setEn s b on).out = s.out := rfl
@[simp] theorem setEn_freeCtr : (setEn s b on).freeCtr = s.freeCtr := rfl
@[simp] theorem setEn_now : (setEn s b on).now = s.now := rfl
@[simp] theorem setEn_cores : (setEn s b on).cores = s.cores := rfl
@[simp] theorem setEn_mem : (setEn s b on).mem = s.mem := rfl
@[simp] theorem setEn_mc : (setEn s b on).mc = s.mc := rfl
@[simp] theorem setEn_sc : (setEn s b on).sc = s.sc := rfl
@[simp] theorem setEn_berth : (setEn s b on).berth = s.berth := rfl
@[simp] theorem setEn_elog : (setEn s b on).elog = s.elog := rfl
@[simp] theorem setEn_events : (setEn s b on).events = s.events := rfl
@[simp] theorem setEn_eventLost : (setEn s b on).eventLost = s.eventLost := rfl
@[simp] theorem setEn_tide : (setEn s b on).tide = s.tide := rfl
@[simp] theorem setEn_launch : (setEn s b on).launch = s.launch := rfl
@[simp] theorem setEn_boll : (setEn s b on).boll = s.boll := rfl
@[simp] theorem setEn_slack : (setEn s b on).slack = s.slack := rfl
@[simp] theorem setEn_hm : (setEn s b on).hm = s.hm := rfl
@[simp] theorem setEn_links : (setEn s b on).links = s.links := rfl
@[simp] theorem setEn_trans : (setEn s b on).trans = s.trans := rfl
@[simp] theorem setEn_guest : (setEn s b on).guest = s.guest := rfl
@[simp] theorem setEn_pw : (setEn s b on).pw = s.pw := rfl
@[simp] theorem setEn_tm : (setEn s b on).tm = s.tm := rfl
@[simp] theorem setEn_red : (setEn s b on).red = s.red := rfl
@[simp] theorem setEn_sec : (setEn s b on).sec = s.sec := rfl
@[simp] theorem setEn_oe : (setEn s b on).oe = s.oe := rfl
@[simp] theorem setEn_ls : (setEn s b on).ls = s.ls := rfl
@[simp] theorem setEn_nor : (setEn s b on).nor = s.nor := rfl
@[simp] theorem setEn_cal : (setEn s b on).cal = s.cal := rfl
@[simp] theorem setEn_pl : (setEn s b on).pl = s.pl := rfl
@[simp] theorem setEn_spdmMctp : (setEn s b on).spdmMctp = s.spdmMctp := rfl
@[simp] theorem setEn_spdmPilot : (setEn s b on).spdmPilot = s.spdmPilot := rfl
@[simp] theorem setEn_dl : (setEn s b on).dl = s.dl := rfl
@[simp] theorem setEn_jtag : (setEn s b on).jtag = s.jtag := rfl
@[simp] theorem setEn_i3c : (setEn s b on).i3c = s.i3c := rfl

end

section
variable (s : State) (b : Blk) (code : Nat)

@[simp] theorem setEnCode_pending : (setEnCode s b code).pending = s.pending := rfl
@[simp] theorem setEnCode_out : (setEnCode s b code).out = s.out := rfl
@[simp] theorem setEnCode_freeCtr : (setEnCode s b code).freeCtr = s.freeCtr := rfl
@[simp] theorem setEnCode_now : (setEnCode s b code).now = s.now := rfl
@[simp] theorem setEnCode_cores : (setEnCode s b code).cores = s.cores := rfl
@[simp] theorem setEnCode_mem : (setEnCode s b code).mem = s.mem := rfl
@[simp] theorem setEnCode_mc : (setEnCode s b code).mc = s.mc := rfl
@[simp] theorem setEnCode_sc : (setEnCode s b code).sc = s.sc := rfl
@[simp] theorem setEnCode_berth : (setEnCode s b code).berth = s.berth := rfl
@[simp] theorem setEnCode_elog : (setEnCode s b code).elog = s.elog := rfl
@[simp] theorem setEnCode_events : (setEnCode s b code).events = s.events := rfl
@[simp] theorem setEnCode_eventLost : (setEnCode s b code).eventLost = s.eventLost := rfl
@[simp] theorem setEnCode_tide : (setEnCode s b code).tide = s.tide := rfl
@[simp] theorem setEnCode_launch : (setEnCode s b code).launch = s.launch := rfl
@[simp] theorem setEnCode_boll : (setEnCode s b code).boll = s.boll := rfl
@[simp] theorem setEnCode_slack : (setEnCode s b code).slack = s.slack := rfl
@[simp] theorem setEnCode_hm : (setEnCode s b code).hm = s.hm := rfl
@[simp] theorem setEnCode_links : (setEnCode s b code).links = s.links := rfl
@[simp] theorem setEnCode_trans : (setEnCode s b code).trans = s.trans := rfl
@[simp] theorem setEnCode_guest : (setEnCode s b code).guest = s.guest := rfl
@[simp] theorem setEnCode_pw : (setEnCode s b code).pw = s.pw := rfl
@[simp] theorem setEnCode_tm : (setEnCode s b code).tm = s.tm := rfl
@[simp] theorem setEnCode_red : (setEnCode s b code).red = s.red := rfl
@[simp] theorem setEnCode_sec : (setEnCode s b code).sec = s.sec := rfl
@[simp] theorem setEnCode_oe : (setEnCode s b code).oe = s.oe := rfl
@[simp] theorem setEnCode_ls : (setEnCode s b code).ls = s.ls := rfl
@[simp] theorem setEnCode_nor : (setEnCode s b code).nor = s.nor := rfl
@[simp] theorem setEnCode_cal : (setEnCode s b code).cal = s.cal := rfl
@[simp] theorem setEnCode_pl : (setEnCode s b code).pl = s.pl := rfl
@[simp] theorem setEnCode_spdmMctp : (setEnCode s b code).spdmMctp = s.spdmMctp := rfl
@[simp] theorem setEnCode_spdmPilot : (setEnCode s b code).spdmPilot = s.spdmPilot := rfl
@[simp] theorem setEnCode_dl : (setEnCode s b code).dl = s.dl := rfl
@[simp] theorem setEnCode_jtag : (setEnCode s b code).jtag = s.jtag := rfl
@[simp] theorem setEnCode_i3c : (setEnCode s b code).i3c = s.i3c := rfl

end

section
variable (s : State) (b : Blk)

@[simp] theorem acceptWrite_pending : (acceptWrite s b).pending = s.pending := rfl
@[simp] theorem acceptWrite_out : (acceptWrite s b).out = s.out := rfl
@[simp] theorem acceptWrite_freeCtr : (acceptWrite s b).freeCtr = s.freeCtr := rfl
@[simp] theorem acceptWrite_now : (acceptWrite s b).now = s.now := rfl
@[simp] theorem acceptWrite_cores : (acceptWrite s b).cores = s.cores := rfl
@[simp] theorem acceptWrite_mem : (acceptWrite s b).mem = s.mem := rfl
@[simp] theorem acceptWrite_mc : (acceptWrite s b).mc = s.mc := rfl
@[simp] theorem acceptWrite_sc : (acceptWrite s b).sc = s.sc := rfl
@[simp] theorem acceptWrite_berth : (acceptWrite s b).berth = s.berth := rfl
@[simp] theorem acceptWrite_elog : (acceptWrite s b).elog = s.elog := rfl
@[simp] theorem acceptWrite_events : (acceptWrite s b).events = s.events := rfl
@[simp] theorem acceptWrite_eventLost : (acceptWrite s b).eventLost = s.eventLost := rfl
@[simp] theorem acceptWrite_tide : (acceptWrite s b).tide = s.tide := rfl
@[simp] theorem acceptWrite_launch : (acceptWrite s b).launch = s.launch := rfl
@[simp] theorem acceptWrite_boll : (acceptWrite s b).boll = s.boll := rfl
@[simp] theorem acceptWrite_slack : (acceptWrite s b).slack = s.slack := rfl
@[simp] theorem acceptWrite_hm : (acceptWrite s b).hm = s.hm := rfl
@[simp] theorem acceptWrite_links : (acceptWrite s b).links = s.links := rfl
@[simp] theorem acceptWrite_trans : (acceptWrite s b).trans = s.trans := rfl
@[simp] theorem acceptWrite_guest : (acceptWrite s b).guest = s.guest := rfl
@[simp] theorem acceptWrite_pw : (acceptWrite s b).pw = s.pw := rfl
@[simp] theorem acceptWrite_tm : (acceptWrite s b).tm = s.tm := rfl
@[simp] theorem acceptWrite_red : (acceptWrite s b).red = s.red := rfl
@[simp] theorem acceptWrite_sec : (acceptWrite s b).sec = s.sec := rfl
@[simp] theorem acceptWrite_oe : (acceptWrite s b).oe = s.oe := rfl
@[simp] theorem acceptWrite_ls : (acceptWrite s b).ls = s.ls := rfl
@[simp] theorem acceptWrite_nor : (acceptWrite s b).nor = s.nor := rfl
@[simp] theorem acceptWrite_cal : (acceptWrite s b).cal = s.cal := rfl
@[simp] theorem acceptWrite_pl : (acceptWrite s b).pl = s.pl := rfl
@[simp] theorem acceptWrite_spdmMctp : (acceptWrite s b).spdmMctp = s.spdmMctp := rfl
@[simp] theorem acceptWrite_spdmPilot : (acceptWrite s b).spdmPilot = s.spdmPilot := rfl
@[simp] theorem acceptWrite_dl : (acceptWrite s b).dl = s.dl := rfl
@[simp] theorem acceptWrite_jtag : (acceptWrite s b).jtag = s.jtag := rfl
@[simp] theorem acceptWrite_i3c : (acceptWrite s b).i3c = s.i3c := rfl

end

section
variable (s : State) (b : Blk)

@[simp] theorem dropWrite_pending : (dropWrite s b).pending = s.pending := rfl
@[simp] theorem dropWrite_out : (dropWrite s b).out = s.out := rfl
@[simp] theorem dropWrite_freeCtr : (dropWrite s b).freeCtr = s.freeCtr := rfl
@[simp] theorem dropWrite_now : (dropWrite s b).now = s.now := rfl
@[simp] theorem dropWrite_cores : (dropWrite s b).cores = s.cores := rfl
@[simp] theorem dropWrite_mem : (dropWrite s b).mem = s.mem := rfl
@[simp] theorem dropWrite_mc : (dropWrite s b).mc = s.mc := rfl
@[simp] theorem dropWrite_sc : (dropWrite s b).sc = s.sc := rfl
@[simp] theorem dropWrite_berth : (dropWrite s b).berth = s.berth := rfl
@[simp] theorem dropWrite_elog : (dropWrite s b).elog = s.elog := rfl
@[simp] theorem dropWrite_events : (dropWrite s b).events = s.events := rfl
@[simp] theorem dropWrite_eventLost : (dropWrite s b).eventLost = s.eventLost := rfl
@[simp] theorem dropWrite_tide : (dropWrite s b).tide = s.tide := rfl
@[simp] theorem dropWrite_launch : (dropWrite s b).launch = s.launch := rfl
@[simp] theorem dropWrite_boll : (dropWrite s b).boll = s.boll := rfl
@[simp] theorem dropWrite_slack : (dropWrite s b).slack = s.slack := rfl
@[simp] theorem dropWrite_hm : (dropWrite s b).hm = s.hm := rfl
@[simp] theorem dropWrite_links : (dropWrite s b).links = s.links := rfl
@[simp] theorem dropWrite_trans : (dropWrite s b).trans = s.trans := rfl
@[simp] theorem dropWrite_guest : (dropWrite s b).guest = s.guest := rfl
@[simp] theorem dropWrite_pw : (dropWrite s b).pw = s.pw := rfl
@[simp] theorem dropWrite_tm : (dropWrite s b).tm = s.tm := rfl
@[simp] theorem dropWrite_red : (dropWrite s b).red = s.red := rfl
@[simp] theorem dropWrite_sec : (dropWrite s b).sec = s.sec := rfl
@[simp] theorem dropWrite_oe : (dropWrite s b).oe = s.oe := rfl
@[simp] theorem dropWrite_ls : (dropWrite s b).ls = s.ls := rfl
@[simp] theorem dropWrite_nor : (dropWrite s b).nor = s.nor := rfl
@[simp] theorem dropWrite_cal : (dropWrite s b).cal = s.cal := rfl
@[simp] theorem dropWrite_pl : (dropWrite s b).pl = s.pl := rfl
@[simp] theorem dropWrite_spdmMctp : (dropWrite s b).spdmMctp = s.spdmMctp := rfl
@[simp] theorem dropWrite_spdmPilot : (dropWrite s b).spdmPilot = s.spdmPilot := rfl
@[simp] theorem dropWrite_dl : (dropWrite s b).dl = s.dl := rfl
@[simp] theorem dropWrite_jtag : (dropWrite s b).jtag = s.jtag := rfl
@[simp] theorem dropWrite_i3c : (dropWrite s b).i3c = s.i3c := rfl

end

section
variable (s : State) (b : Blk) (who : Requester) (first : Nat) (v : Word)

@[simp] theorem holdLow_pending : (holdLow s b who first v).pending = s.pending := rfl
@[simp] theorem holdLow_out : (holdLow s b who first v).out = s.out := rfl
@[simp] theorem holdLow_freeCtr : (holdLow s b who first v).freeCtr = s.freeCtr := rfl
@[simp] theorem holdLow_now : (holdLow s b who first v).now = s.now := rfl
@[simp] theorem holdLow_cores : (holdLow s b who first v).cores = s.cores := rfl
@[simp] theorem holdLow_mem : (holdLow s b who first v).mem = s.mem := rfl
@[simp] theorem holdLow_mc : (holdLow s b who first v).mc = s.mc := rfl
@[simp] theorem holdLow_sc : (holdLow s b who first v).sc = s.sc := rfl
@[simp] theorem holdLow_berth : (holdLow s b who first v).berth = s.berth := rfl
@[simp] theorem holdLow_elog : (holdLow s b who first v).elog = s.elog := rfl
@[simp] theorem holdLow_events : (holdLow s b who first v).events = s.events := rfl
@[simp] theorem holdLow_eventLost : (holdLow s b who first v).eventLost = s.eventLost := rfl
@[simp] theorem holdLow_tide : (holdLow s b who first v).tide = s.tide := rfl
@[simp] theorem holdLow_launch : (holdLow s b who first v).launch = s.launch := rfl
@[simp] theorem holdLow_boll : (holdLow s b who first v).boll = s.boll := rfl
@[simp] theorem holdLow_slack : (holdLow s b who first v).slack = s.slack := rfl
@[simp] theorem holdLow_hm : (holdLow s b who first v).hm = s.hm := rfl
@[simp] theorem holdLow_links : (holdLow s b who first v).links = s.links := rfl
@[simp] theorem holdLow_trans : (holdLow s b who first v).trans = s.trans := rfl
@[simp] theorem holdLow_guest : (holdLow s b who first v).guest = s.guest := rfl
@[simp] theorem holdLow_pw : (holdLow s b who first v).pw = s.pw := rfl
@[simp] theorem holdLow_tm : (holdLow s b who first v).tm = s.tm := rfl
@[simp] theorem holdLow_red : (holdLow s b who first v).red = s.red := rfl
@[simp] theorem holdLow_sec : (holdLow s b who first v).sec = s.sec := rfl
@[simp] theorem holdLow_oe : (holdLow s b who first v).oe = s.oe := rfl
@[simp] theorem holdLow_ls : (holdLow s b who first v).ls = s.ls := rfl
@[simp] theorem holdLow_nor : (holdLow s b who first v).nor = s.nor := rfl
@[simp] theorem holdLow_cal : (holdLow s b who first v).cal = s.cal := rfl
@[simp] theorem holdLow_pl : (holdLow s b who first v).pl = s.pl := rfl
@[simp] theorem holdLow_spdmMctp : (holdLow s b who first v).spdmMctp = s.spdmMctp := rfl
@[simp] theorem holdLow_spdmPilot : (holdLow s b who first v).spdmPilot = s.spdmPilot := rfl
@[simp] theorem holdLow_dl : (holdLow s b who first v).dl = s.dl := rfl
@[simp] theorem holdLow_jtag : (holdLow s b who first v).jtag = s.jtag := rfl
@[simp] theorem holdLow_i3c : (holdLow s b who first v).i3c = s.i3c := rfl

end

section
variable (s : State) (b : Nat) (v : Word)

@[simp] theorem bollSet_pending : (bollSet s b v).pending = s.pending := rfl
@[simp] theorem bollSet_out : (bollSet s b v).out = s.out := rfl
@[simp] theorem bollSet_freeCtr : (bollSet s b v).freeCtr = s.freeCtr := rfl
@[simp] theorem bollSet_now : (bollSet s b v).now = s.now := rfl
@[simp] theorem bollSet_regs : (bollSet s b v).regs = s.regs := rfl
@[simp] theorem bollSet_cores : (bollSet s b v).cores = s.cores := rfl
@[simp] theorem bollSet_mem : (bollSet s b v).mem = s.mem := rfl
@[simp] theorem bollSet_mc : (bollSet s b v).mc = s.mc := rfl
@[simp] theorem bollSet_sc : (bollSet s b v).sc = s.sc := rfl
@[simp] theorem bollSet_berth : (bollSet s b v).berth = s.berth := rfl
@[simp] theorem bollSet_elog : (bollSet s b v).elog = s.elog := rfl
@[simp] theorem bollSet_events : (bollSet s b v).events = s.events := rfl
@[simp] theorem bollSet_eventLost : (bollSet s b v).eventLost = s.eventLost := rfl
@[simp] theorem bollSet_tide : (bollSet s b v).tide = s.tide := rfl
@[simp] theorem bollSet_launch : (bollSet s b v).launch = s.launch := rfl
@[simp] theorem bollSet_slack : (bollSet s b v).slack = s.slack := rfl
@[simp] theorem bollSet_hm : (bollSet s b v).hm = s.hm := rfl
@[simp] theorem bollSet_links : (bollSet s b v).links = s.links := rfl
@[simp] theorem bollSet_trans : (bollSet s b v).trans = s.trans := rfl
@[simp] theorem bollSet_guest : (bollSet s b v).guest = s.guest := rfl
@[simp] theorem bollSet_pw : (bollSet s b v).pw = s.pw := rfl
@[simp] theorem bollSet_tm : (bollSet s b v).tm = s.tm := rfl
@[simp] theorem bollSet_red : (bollSet s b v).red = s.red := rfl
@[simp] theorem bollSet_sec : (bollSet s b v).sec = s.sec := rfl
@[simp] theorem bollSet_oe : (bollSet s b v).oe = s.oe := rfl
@[simp] theorem bollSet_ls : (bollSet s b v).ls = s.ls := rfl
@[simp] theorem bollSet_nor : (bollSet s b v).nor = s.nor := rfl
@[simp] theorem bollSet_cal : (bollSet s b v).cal = s.cal := rfl
@[simp] theorem bollSet_pl : (bollSet s b v).pl = s.pl := rfl
@[simp] theorem bollSet_spdmMctp : (bollSet s b v).spdmMctp = s.spdmMctp := rfl
@[simp] theorem bollSet_spdmPilot : (bollSet s b v).spdmPilot = s.spdmPilot := rfl
@[simp] theorem bollSet_dl : (bollSet s b v).dl = s.dl := rfl
@[simp] theorem bollSet_jtag : (bollSet s b v).jtag = s.jtag := rfl
@[simp] theorem bollSet_i3c : (bollSet s b v).i3c = s.i3c := rfl

end

section
variable (s : State) (b : Nat) (v : Word)

@[simp] theorem bollAdd_pending : (bollAdd s b v).pending = s.pending := rfl
@[simp] theorem bollAdd_out : (bollAdd s b v).out = s.out := rfl
@[simp] theorem bollAdd_freeCtr : (bollAdd s b v).freeCtr = s.freeCtr := rfl
@[simp] theorem bollAdd_now : (bollAdd s b v).now = s.now := rfl
@[simp] theorem bollAdd_cores : (bollAdd s b v).cores = s.cores := rfl
@[simp] theorem bollAdd_mem : (bollAdd s b v).mem = s.mem := rfl
@[simp] theorem bollAdd_mc : (bollAdd s b v).mc = s.mc := rfl
@[simp] theorem bollAdd_sc : (bollAdd s b v).sc = s.sc := rfl
@[simp] theorem bollAdd_berth : (bollAdd s b v).berth = s.berth := rfl
@[simp] theorem bollAdd_elog : (bollAdd s b v).elog = s.elog := rfl
@[simp] theorem bollAdd_events : (bollAdd s b v).events = s.events := rfl
@[simp] theorem bollAdd_eventLost : (bollAdd s b v).eventLost = s.eventLost := rfl
@[simp] theorem bollAdd_tide : (bollAdd s b v).tide = s.tide := rfl
@[simp] theorem bollAdd_launch : (bollAdd s b v).launch = s.launch := rfl
@[simp] theorem bollAdd_slack : (bollAdd s b v).slack = s.slack := rfl
@[simp] theorem bollAdd_hm : (bollAdd s b v).hm = s.hm := rfl
@[simp] theorem bollAdd_links : (bollAdd s b v).links = s.links := rfl
@[simp] theorem bollAdd_trans : (bollAdd s b v).trans = s.trans := rfl
@[simp] theorem bollAdd_guest : (bollAdd s b v).guest = s.guest := rfl
@[simp] theorem bollAdd_pw : (bollAdd s b v).pw = s.pw := rfl
@[simp] theorem bollAdd_tm : (bollAdd s b v).tm = s.tm := rfl
@[simp] theorem bollAdd_red : (bollAdd s b v).red = s.red := rfl
@[simp] theorem bollAdd_sec : (bollAdd s b v).sec = s.sec := rfl
@[simp] theorem bollAdd_oe : (bollAdd s b v).oe = s.oe := rfl
@[simp] theorem bollAdd_ls : (bollAdd s b v).ls = s.ls := rfl
@[simp] theorem bollAdd_nor : (bollAdd s b v).nor = s.nor := rfl
@[simp] theorem bollAdd_cal : (bollAdd s b v).cal = s.cal := rfl
@[simp] theorem bollAdd_pl : (bollAdd s b v).pl = s.pl := rfl
@[simp] theorem bollAdd_spdmMctp : (bollAdd s b v).spdmMctp = s.spdmMctp := rfl
@[simp] theorem bollAdd_spdmPilot : (bollAdd s b v).spdmPilot = s.spdmPilot := rfl
@[simp] theorem bollAdd_dl : (bollAdd s b v).dl = s.dl := rfl
@[simp] theorem bollAdd_jtag : (bollAdd s b v).jtag = s.jtag := rfl
@[simp] theorem bollAdd_i3c : (bollAdd s b v).i3c = s.i3c := rfl

end

section
variable (s : State) (b : Nat)

@[simp] theorem watchHits_pending : (watchHits s b).pending = s.pending := rfl
@[simp] theorem watchHits_out : (watchHits s b).out = s.out := rfl
@[simp] theorem watchHits_freeCtr : (watchHits s b).freeCtr = s.freeCtr := rfl
@[simp] theorem watchHits_now : (watchHits s b).now = s.now := rfl
@[simp] theorem watchHits_regs : (watchHits s b).regs = s.regs := rfl
@[simp] theorem watchHits_cores : (watchHits s b).cores = s.cores := rfl
@[simp] theorem watchHits_mem : (watchHits s b).mem = s.mem := rfl
@[simp] theorem watchHits_mc : (watchHits s b).mc = s.mc := rfl
@[simp] theorem watchHits_sc : (watchHits s b).sc = s.sc := rfl
@[simp] theorem watchHits_berth : (watchHits s b).berth = s.berth := rfl
@[simp] theorem watchHits_elog : (watchHits s b).elog = s.elog := rfl
@[simp] theorem watchHits_events : (watchHits s b).events = s.events := rfl
@[simp] theorem watchHits_eventLost : (watchHits s b).eventLost = s.eventLost := rfl
@[simp] theorem watchHits_tide : (watchHits s b).tide = s.tide := rfl
@[simp] theorem watchHits_launch : (watchHits s b).launch = s.launch := rfl
@[simp] theorem watchHits_slack : (watchHits s b).slack = s.slack := rfl
@[simp] theorem watchHits_hm : (watchHits s b).hm = s.hm := rfl
@[simp] theorem watchHits_links : (watchHits s b).links = s.links := rfl
@[simp] theorem watchHits_trans : (watchHits s b).trans = s.trans := rfl
@[simp] theorem watchHits_guest : (watchHits s b).guest = s.guest := rfl
@[simp] theorem watchHits_pw : (watchHits s b).pw = s.pw := rfl
@[simp] theorem watchHits_tm : (watchHits s b).tm = s.tm := rfl
@[simp] theorem watchHits_red : (watchHits s b).red = s.red := rfl
@[simp] theorem watchHits_sec : (watchHits s b).sec = s.sec := rfl
@[simp] theorem watchHits_oe : (watchHits s b).oe = s.oe := rfl
@[simp] theorem watchHits_ls : (watchHits s b).ls = s.ls := rfl
@[simp] theorem watchHits_nor : (watchHits s b).nor = s.nor := rfl
@[simp] theorem watchHits_cal : (watchHits s b).cal = s.cal := rfl
@[simp] theorem watchHits_pl : (watchHits s b).pl = s.pl := rfl
@[simp] theorem watchHits_spdmMctp : (watchHits s b).spdmMctp = s.spdmMctp := rfl
@[simp] theorem watchHits_spdmPilot : (watchHits s b).spdmPilot = s.spdmPilot := rfl
@[simp] theorem watchHits_dl : (watchHits s b).dl = s.dl := rfl
@[simp] theorem watchHits_jtag : (watchHits s b).jtag = s.jtag := rfl
@[simp] theorem watchHits_i3c : (watchHits s b).i3c = s.i3c := rfl

end

section
variable (s : State) (w : Waiter) (x : Option Watch)

@[simp] theorem watchSet_pending : (watchSet s w x).pending = s.pending := rfl
@[simp] theorem watchSet_out : (watchSet s w x).out = s.out := rfl
@[simp] theorem watchSet_freeCtr : (watchSet s w x).freeCtr = s.freeCtr := rfl
@[simp] theorem watchSet_now : (watchSet s w x).now = s.now := rfl
@[simp] theorem watchSet_regs : (watchSet s w x).regs = s.regs := rfl
@[simp] theorem watchSet_cores : (watchSet s w x).cores = s.cores := rfl
@[simp] theorem watchSet_mem : (watchSet s w x).mem = s.mem := rfl
@[simp] theorem watchSet_mc : (watchSet s w x).mc = s.mc := rfl
@[simp] theorem watchSet_sc : (watchSet s w x).sc = s.sc := rfl
@[simp] theorem watchSet_berth : (watchSet s w x).berth = s.berth := rfl
@[simp] theorem watchSet_elog : (watchSet s w x).elog = s.elog := rfl
@[simp] theorem watchSet_events : (watchSet s w x).events = s.events := rfl
@[simp] theorem watchSet_eventLost : (watchSet s w x).eventLost = s.eventLost := rfl
@[simp] theorem watchSet_tide : (watchSet s w x).tide = s.tide := rfl
@[simp] theorem watchSet_launch : (watchSet s w x).launch = s.launch := rfl
@[simp] theorem watchSet_boll : (watchSet s w x).boll = { s.boll with watch := tset s.boll.watch (watchKey w) x none } := rfl
@[simp] theorem watchSet_slack : (watchSet s w x).slack = s.slack := rfl
@[simp] theorem watchSet_hm : (watchSet s w x).hm = s.hm := rfl
@[simp] theorem watchSet_links : (watchSet s w x).links = s.links := rfl
@[simp] theorem watchSet_trans : (watchSet s w x).trans = s.trans := rfl
@[simp] theorem watchSet_guest : (watchSet s w x).guest = s.guest := rfl
@[simp] theorem watchSet_pw : (watchSet s w x).pw = s.pw := rfl
@[simp] theorem watchSet_tm : (watchSet s w x).tm = s.tm := rfl
@[simp] theorem watchSet_red : (watchSet s w x).red = s.red := rfl
@[simp] theorem watchSet_sec : (watchSet s w x).sec = s.sec := rfl
@[simp] theorem watchSet_oe : (watchSet s w x).oe = s.oe := rfl
@[simp] theorem watchSet_ls : (watchSet s w x).ls = s.ls := rfl
@[simp] theorem watchSet_nor : (watchSet s w x).nor = s.nor := rfl
@[simp] theorem watchSet_cal : (watchSet s w x).cal = s.cal := rfl
@[simp] theorem watchSet_pl : (watchSet s w x).pl = s.pl := rfl
@[simp] theorem watchSet_spdmMctp : (watchSet s w x).spdmMctp = s.spdmMctp := rfl
@[simp] theorem watchSet_spdmPilot : (watchSet s w x).spdmPilot = s.spdmPilot := rfl
@[simp] theorem watchSet_dl : (watchSet s w x).dl = s.dl := rfl
@[simp] theorem watchSet_jtag : (watchSet s w x).jtag = s.jtag := rfl
@[simp] theorem watchSet_i3c : (watchSet s w x).i3c = s.i3c := rfl

end

section
variable (s : State) (c : CoreId) (k : CoreSt)

@[simp] theorem coreSet_pending : (coreSet s c k).pending = s.pending := rfl
@[simp] theorem coreSet_out : (coreSet s c k).out = s.out := rfl
@[simp] theorem coreSet_freeCtr : (coreSet s c k).freeCtr = s.freeCtr := rfl
@[simp] theorem coreSet_now : (coreSet s c k).now = s.now := rfl
@[simp] theorem coreSet_regs : (coreSet s c k).regs = s.regs := rfl
@[simp] theorem coreSet_cores : (coreSet s c k).cores = { s.cores with core := tset s.cores.core (coreKey s c) k {} } := rfl
@[simp] theorem coreSet_mem : (coreSet s c k).mem = s.mem := rfl
@[simp] theorem coreSet_mc : (coreSet s c k).mc = s.mc := rfl
@[simp] theorem coreSet_sc : (coreSet s c k).sc = s.sc := rfl
@[simp] theorem coreSet_berth : (coreSet s c k).berth = s.berth := rfl
@[simp] theorem coreSet_elog : (coreSet s c k).elog = s.elog := rfl
@[simp] theorem coreSet_events : (coreSet s c k).events = s.events := rfl
@[simp] theorem coreSet_eventLost : (coreSet s c k).eventLost = s.eventLost := rfl
@[simp] theorem coreSet_tide : (coreSet s c k).tide = s.tide := rfl
@[simp] theorem coreSet_launch : (coreSet s c k).launch = s.launch := rfl
@[simp] theorem coreSet_boll : (coreSet s c k).boll = s.boll := rfl
@[simp] theorem coreSet_slack : (coreSet s c k).slack = s.slack := rfl
@[simp] theorem coreSet_hm : (coreSet s c k).hm = s.hm := rfl
@[simp] theorem coreSet_links : (coreSet s c k).links = s.links := rfl
@[simp] theorem coreSet_trans : (coreSet s c k).trans = s.trans := rfl
@[simp] theorem coreSet_guest : (coreSet s c k).guest = s.guest := rfl
@[simp] theorem coreSet_pw : (coreSet s c k).pw = s.pw := rfl
@[simp] theorem coreSet_tm : (coreSet s c k).tm = s.tm := rfl
@[simp] theorem coreSet_red : (coreSet s c k).red = s.red := rfl
@[simp] theorem coreSet_sec : (coreSet s c k).sec = s.sec := rfl
@[simp] theorem coreSet_oe : (coreSet s c k).oe = s.oe := rfl
@[simp] theorem coreSet_ls : (coreSet s c k).ls = s.ls := rfl
@[simp] theorem coreSet_nor : (coreSet s c k).nor = s.nor := rfl
@[simp] theorem coreSet_cal : (coreSet s c k).cal = s.cal := rfl
@[simp] theorem coreSet_pl : (coreSet s c k).pl = s.pl := rfl
@[simp] theorem coreSet_spdmMctp : (coreSet s c k).spdmMctp = s.spdmMctp := rfl
@[simp] theorem coreSet_spdmPilot : (coreSet s c k).spdmPilot = s.spdmPilot := rfl
@[simp] theorem coreSet_dl : (coreSet s c k).dl = s.dl := rfl
@[simp] theorem coreSet_jtag : (coreSet s c k).jtag = s.jtag := rfl
@[simp] theorem coreSet_i3c : (coreSet s c k).i3c = s.i3c := rfl

end

section
variable (s : State) (c : CoreId) (f : CoreSt → CoreSt)

@[simp] theorem coreMod_pending : (coreMod s c f).pending = s.pending := rfl
@[simp] theorem coreMod_out : (coreMod s c f).out = s.out := rfl
@[simp] theorem coreMod_freeCtr : (coreMod s c f).freeCtr = s.freeCtr := rfl
@[simp] theorem coreMod_now : (coreMod s c f).now = s.now := rfl
@[simp] theorem coreMod_regs : (coreMod s c f).regs = s.regs := rfl
@[simp] theorem coreMod_mem : (coreMod s c f).mem = s.mem := rfl
@[simp] theorem coreMod_mc : (coreMod s c f).mc = s.mc := rfl
@[simp] theorem coreMod_sc : (coreMod s c f).sc = s.sc := rfl
@[simp] theorem coreMod_berth : (coreMod s c f).berth = s.berth := rfl
@[simp] theorem coreMod_elog : (coreMod s c f).elog = s.elog := rfl
@[simp] theorem coreMod_events : (coreMod s c f).events = s.events := rfl
@[simp] theorem coreMod_eventLost : (coreMod s c f).eventLost = s.eventLost := rfl
@[simp] theorem coreMod_tide : (coreMod s c f).tide = s.tide := rfl
@[simp] theorem coreMod_launch : (coreMod s c f).launch = s.launch := rfl
@[simp] theorem coreMod_boll : (coreMod s c f).boll = s.boll := rfl
@[simp] theorem coreMod_slack : (coreMod s c f).slack = s.slack := rfl
@[simp] theorem coreMod_hm : (coreMod s c f).hm = s.hm := rfl
@[simp] theorem coreMod_links : (coreMod s c f).links = s.links := rfl
@[simp] theorem coreMod_trans : (coreMod s c f).trans = s.trans := rfl
@[simp] theorem coreMod_guest : (coreMod s c f).guest = s.guest := rfl
@[simp] theorem coreMod_pw : (coreMod s c f).pw = s.pw := rfl
@[simp] theorem coreMod_tm : (coreMod s c f).tm = s.tm := rfl
@[simp] theorem coreMod_red : (coreMod s c f).red = s.red := rfl
@[simp] theorem coreMod_sec : (coreMod s c f).sec = s.sec := rfl
@[simp] theorem coreMod_oe : (coreMod s c f).oe = s.oe := rfl
@[simp] theorem coreMod_ls : (coreMod s c f).ls = s.ls := rfl
@[simp] theorem coreMod_nor : (coreMod s c f).nor = s.nor := rfl
@[simp] theorem coreMod_cal : (coreMod s c f).cal = s.cal := rfl
@[simp] theorem coreMod_pl : (coreMod s c f).pl = s.pl := rfl
@[simp] theorem coreMod_spdmMctp : (coreMod s c f).spdmMctp = s.spdmMctp := rfl
@[simp] theorem coreMod_spdmPilot : (coreMod s c f).spdmPilot = s.spdmPilot := rfl
@[simp] theorem coreMod_dl : (coreMod s c f).dl = s.dl := rfl
@[simp] theorem coreMod_jtag : (coreMod s c f).jtag = s.jtag := rfl
@[simp] theorem coreMod_i3c : (coreMod s c f).i3c = s.i3c := rfl

end

section
variable (s : State) (c : CoreId) (v : CoreVoyage)

@[simp] theorem voySet_pending : (voySet s c v).pending = s.pending := rfl
@[simp] theorem voySet_out : (voySet s c v).out = s.out := rfl
@[simp] theorem voySet_freeCtr : (voySet s c v).freeCtr = s.freeCtr := rfl
@[simp] theorem voySet_now : (voySet s c v).now = s.now := rfl
@[simp] theorem voySet_regs : (voySet s c v).regs = s.regs := rfl
@[simp] theorem voySet_cores : (voySet s c v).cores = { s.cores with voy := tset s.cores.voy (coreKey s c) v {} } := rfl
@[simp] theorem voySet_mem : (voySet s c v).mem = s.mem := rfl
@[simp] theorem voySet_mc : (voySet s c v).mc = s.mc := rfl
@[simp] theorem voySet_sc : (voySet s c v).sc = s.sc := rfl
@[simp] theorem voySet_berth : (voySet s c v).berth = s.berth := rfl
@[simp] theorem voySet_elog : (voySet s c v).elog = s.elog := rfl
@[simp] theorem voySet_events : (voySet s c v).events = s.events := rfl
@[simp] theorem voySet_eventLost : (voySet s c v).eventLost = s.eventLost := rfl
@[simp] theorem voySet_tide : (voySet s c v).tide = s.tide := rfl
@[simp] theorem voySet_launch : (voySet s c v).launch = s.launch := rfl
@[simp] theorem voySet_boll : (voySet s c v).boll = s.boll := rfl
@[simp] theorem voySet_slack : (voySet s c v).slack = s.slack := rfl
@[simp] theorem voySet_hm : (voySet s c v).hm = s.hm := rfl
@[simp] theorem voySet_links : (voySet s c v).links = s.links := rfl
@[simp] theorem voySet_trans : (voySet s c v).trans = s.trans := rfl
@[simp] theorem voySet_guest : (voySet s c v).guest = s.guest := rfl
@[simp] theorem voySet_pw : (voySet s c v).pw = s.pw := rfl
@[simp] theorem voySet_tm : (voySet s c v).tm = s.tm := rfl
@[simp] theorem voySet_red : (voySet s c v).red = s.red := rfl
@[simp] theorem voySet_sec : (voySet s c v).sec = s.sec := rfl
@[simp] theorem voySet_oe : (voySet s c v).oe = s.oe := rfl
@[simp] theorem voySet_ls : (voySet s c v).ls = s.ls := rfl
@[simp] theorem voySet_nor : (voySet s c v).nor = s.nor := rfl
@[simp] theorem voySet_cal : (voySet s c v).cal = s.cal := rfl
@[simp] theorem voySet_pl : (voySet s c v).pl = s.pl := rfl
@[simp] theorem voySet_spdmMctp : (voySet s c v).spdmMctp = s.spdmMctp := rfl
@[simp] theorem voySet_spdmPilot : (voySet s c v).spdmPilot = s.spdmPilot := rfl
@[simp] theorem voySet_dl : (voySet s c v).dl = s.dl := rfl
@[simp] theorem voySet_jtag : (voySet s c v).jtag = s.jtag := rfl
@[simp] theorem voySet_i3c : (voySet s c v).i3c = s.i3c := rfl

end

section
variable (s : State) (key : Nat) (p : PierSt)

@[simp] theorem pierSet_pending : (pierSet s key p).pending = s.pending := rfl
@[simp] theorem pierSet_out : (pierSet s key p).out = s.out := rfl
@[simp] theorem pierSet_freeCtr : (pierSet s key p).freeCtr = s.freeCtr := rfl
@[simp] theorem pierSet_now : (pierSet s key p).now = s.now := rfl
@[simp] theorem pierSet_regs : (pierSet s key p).regs = s.regs := rfl
@[simp] theorem pierSet_cores : (pierSet s key p).cores = { s.cores with pier := tset s.cores.pier key p {} } := rfl
@[simp] theorem pierSet_mem : (pierSet s key p).mem = s.mem := rfl
@[simp] theorem pierSet_mc : (pierSet s key p).mc = s.mc := rfl
@[simp] theorem pierSet_sc : (pierSet s key p).sc = s.sc := rfl
@[simp] theorem pierSet_berth : (pierSet s key p).berth = s.berth := rfl
@[simp] theorem pierSet_elog : (pierSet s key p).elog = s.elog := rfl
@[simp] theorem pierSet_events : (pierSet s key p).events = s.events := rfl
@[simp] theorem pierSet_eventLost : (pierSet s key p).eventLost = s.eventLost := rfl
@[simp] theorem pierSet_tide : (pierSet s key p).tide = s.tide := rfl
@[simp] theorem pierSet_launch : (pierSet s key p).launch = s.launch := rfl
@[simp] theorem pierSet_boll : (pierSet s key p).boll = s.boll := rfl
@[simp] theorem pierSet_slack : (pierSet s key p).slack = s.slack := rfl
@[simp] theorem pierSet_hm : (pierSet s key p).hm = s.hm := rfl
@[simp] theorem pierSet_links : (pierSet s key p).links = s.links := rfl
@[simp] theorem pierSet_trans : (pierSet s key p).trans = s.trans := rfl
@[simp] theorem pierSet_guest : (pierSet s key p).guest = s.guest := rfl
@[simp] theorem pierSet_pw : (pierSet s key p).pw = s.pw := rfl
@[simp] theorem pierSet_tm : (pierSet s key p).tm = s.tm := rfl
@[simp] theorem pierSet_red : (pierSet s key p).red = s.red := rfl
@[simp] theorem pierSet_sec : (pierSet s key p).sec = s.sec := rfl
@[simp] theorem pierSet_oe : (pierSet s key p).oe = s.oe := rfl
@[simp] theorem pierSet_ls : (pierSet s key p).ls = s.ls := rfl
@[simp] theorem pierSet_nor : (pierSet s key p).nor = s.nor := rfl
@[simp] theorem pierSet_cal : (pierSet s key p).cal = s.cal := rfl
@[simp] theorem pierSet_pl : (pierSet s key p).pl = s.pl := rfl
@[simp] theorem pierSet_spdmMctp : (pierSet s key p).spdmMctp = s.spdmMctp := rfl
@[simp] theorem pierSet_spdmPilot : (pierSet s key p).spdmPilot = s.spdmPilot := rfl
@[simp] theorem pierSet_dl : (pierSet s key p).dl = s.dl := rfl
@[simp] theorem pierSet_jtag : (pierSet s key p).jtag = s.jtag := rfl
@[simp] theorem pierSet_i3c : (pierSet s key p).i3c = s.i3c := rfl

end

section
variable (s : State) (key : Nat) (t : TugSt)

@[simp] theorem tugSet_pending : (tugSet s key t).pending = s.pending := rfl
@[simp] theorem tugSet_out : (tugSet s key t).out = s.out := rfl
@[simp] theorem tugSet_freeCtr : (tugSet s key t).freeCtr = s.freeCtr := rfl
@[simp] theorem tugSet_now : (tugSet s key t).now = s.now := rfl
@[simp] theorem tugSet_regs : (tugSet s key t).regs = s.regs := rfl
@[simp] theorem tugSet_cores : (tugSet s key t).cores = { s.cores with tug := tset s.cores.tug key t {} } := rfl
@[simp] theorem tugSet_mem : (tugSet s key t).mem = s.mem := rfl
@[simp] theorem tugSet_mc : (tugSet s key t).mc = s.mc := rfl
@[simp] theorem tugSet_sc : (tugSet s key t).sc = s.sc := rfl
@[simp] theorem tugSet_berth : (tugSet s key t).berth = s.berth := rfl
@[simp] theorem tugSet_elog : (tugSet s key t).elog = s.elog := rfl
@[simp] theorem tugSet_events : (tugSet s key t).events = s.events := rfl
@[simp] theorem tugSet_eventLost : (tugSet s key t).eventLost = s.eventLost := rfl
@[simp] theorem tugSet_tide : (tugSet s key t).tide = s.tide := rfl
@[simp] theorem tugSet_launch : (tugSet s key t).launch = s.launch := rfl
@[simp] theorem tugSet_boll : (tugSet s key t).boll = s.boll := rfl
@[simp] theorem tugSet_slack : (tugSet s key t).slack = s.slack := rfl
@[simp] theorem tugSet_hm : (tugSet s key t).hm = s.hm := rfl
@[simp] theorem tugSet_links : (tugSet s key t).links = s.links := rfl
@[simp] theorem tugSet_trans : (tugSet s key t).trans = s.trans := rfl
@[simp] theorem tugSet_guest : (tugSet s key t).guest = s.guest := rfl
@[simp] theorem tugSet_pw : (tugSet s key t).pw = s.pw := rfl
@[simp] theorem tugSet_tm : (tugSet s key t).tm = s.tm := rfl
@[simp] theorem tugSet_red : (tugSet s key t).red = s.red := rfl
@[simp] theorem tugSet_sec : (tugSet s key t).sec = s.sec := rfl
@[simp] theorem tugSet_oe : (tugSet s key t).oe = s.oe := rfl
@[simp] theorem tugSet_ls : (tugSet s key t).ls = s.ls := rfl
@[simp] theorem tugSet_nor : (tugSet s key t).nor = s.nor := rfl
@[simp] theorem tugSet_cal : (tugSet s key t).cal = s.cal := rfl
@[simp] theorem tugSet_pl : (tugSet s key t).pl = s.pl := rfl
@[simp] theorem tugSet_spdmMctp : (tugSet s key t).spdmMctp = s.spdmMctp := rfl
@[simp] theorem tugSet_spdmPilot : (tugSet s key t).spdmPilot = s.spdmPilot := rfl
@[simp] theorem tugSet_dl : (tugSet s key t).dl = s.dl := rfl
@[simp] theorem tugSet_jtag : (tugSet s key t).jtag = s.jtag := rfl
@[simp] theorem tugSet_i3c : (tugSet s key t).i3c = s.i3c := rfl

end

section
variable (s : State) (set : Nat)

@[simp] theorem discardUnstarted_pending : (discardUnstarted s set).pending = s.pending := rfl
@[simp] theorem discardUnstarted_out : (discardUnstarted s set).out = s.out := rfl
@[simp] theorem discardUnstarted_freeCtr : (discardUnstarted s set).freeCtr = s.freeCtr := rfl
@[simp] theorem discardUnstarted_now : (discardUnstarted s set).now = s.now := rfl
@[simp] theorem discardUnstarted_regs : (discardUnstarted s set).regs = s.regs := rfl
@[simp] theorem discardUnstarted_mem : (discardUnstarted s set).mem = s.mem := rfl
@[simp] theorem discardUnstarted_mc : (discardUnstarted s set).mc = s.mc := rfl
@[simp] theorem discardUnstarted_sc : (discardUnstarted s set).sc = s.sc := rfl
@[simp] theorem discardUnstarted_berth : (discardUnstarted s set).berth = s.berth := rfl
@[simp] theorem discardUnstarted_elog : (discardUnstarted s set).elog = s.elog := rfl
@[simp] theorem discardUnstarted_events : (discardUnstarted s set).events = s.events := rfl
@[simp] theorem discardUnstarted_eventLost : (discardUnstarted s set).eventLost = s.eventLost := rfl
@[simp] theorem discardUnstarted_tide : (discardUnstarted s set).tide = s.tide := rfl
@[simp] theorem discardUnstarted_launch : (discardUnstarted s set).launch = s.launch := rfl
@[simp] theorem discardUnstarted_boll : (discardUnstarted s set).boll = s.boll := rfl
@[simp] theorem discardUnstarted_slack : (discardUnstarted s set).slack = s.slack := rfl
@[simp] theorem discardUnstarted_hm : (discardUnstarted s set).hm = s.hm := rfl
@[simp] theorem discardUnstarted_links : (discardUnstarted s set).links = s.links := rfl
@[simp] theorem discardUnstarted_trans : (discardUnstarted s set).trans = s.trans := rfl
@[simp] theorem discardUnstarted_guest : (discardUnstarted s set).guest = s.guest := rfl
@[simp] theorem discardUnstarted_pw : (discardUnstarted s set).pw = s.pw := rfl
@[simp] theorem discardUnstarted_tm : (discardUnstarted s set).tm = s.tm := rfl
@[simp] theorem discardUnstarted_red : (discardUnstarted s set).red = s.red := rfl
@[simp] theorem discardUnstarted_sec : (discardUnstarted s set).sec = s.sec := rfl
@[simp] theorem discardUnstarted_oe : (discardUnstarted s set).oe = s.oe := rfl
@[simp] theorem discardUnstarted_ls : (discardUnstarted s set).ls = s.ls := rfl
@[simp] theorem discardUnstarted_nor : (discardUnstarted s set).nor = s.nor := rfl
@[simp] theorem discardUnstarted_cal : (discardUnstarted s set).cal = s.cal := rfl
@[simp] theorem discardUnstarted_pl : (discardUnstarted s set).pl = s.pl := rfl
@[simp] theorem discardUnstarted_spdmMctp : (discardUnstarted s set).spdmMctp = s.spdmMctp := rfl
@[simp] theorem discardUnstarted_spdmPilot : (discardUnstarted s set).spdmPilot = s.spdmPilot := rfl
@[simp] theorem discardUnstarted_dl : (discardUnstarted s set).dl = s.dl := rfl
@[simp] theorem discardUnstarted_jtag : (discardUnstarted s set).jtag = s.jtag := rfl
@[simp] theorem discardUnstarted_i3c : (discardUnstarted s set).i3c = s.i3c := rfl

end

section
variable (s : State) (set : Nat)

@[simp] theorem clearHalted_pending : (clearHalted s set).pending = s.pending := rfl
@[simp] theorem clearHalted_out : (clearHalted s set).out = s.out := rfl
@[simp] theorem clearHalted_freeCtr : (clearHalted s set).freeCtr = s.freeCtr := rfl
@[simp] theorem clearHalted_now : (clearHalted s set).now = s.now := rfl
@[simp] theorem clearHalted_regs : (clearHalted s set).regs = s.regs := rfl
@[simp] theorem clearHalted_mem : (clearHalted s set).mem = s.mem := rfl
@[simp] theorem clearHalted_mc : (clearHalted s set).mc = s.mc := rfl
@[simp] theorem clearHalted_sc : (clearHalted s set).sc = s.sc := rfl
@[simp] theorem clearHalted_berth : (clearHalted s set).berth = s.berth := rfl
@[simp] theorem clearHalted_elog : (clearHalted s set).elog = s.elog := rfl
@[simp] theorem clearHalted_events : (clearHalted s set).events = s.events := rfl
@[simp] theorem clearHalted_eventLost : (clearHalted s set).eventLost = s.eventLost := rfl
@[simp] theorem clearHalted_tide : (clearHalted s set).tide = s.tide := rfl
@[simp] theorem clearHalted_launch : (clearHalted s set).launch = s.launch := rfl
@[simp] theorem clearHalted_boll : (clearHalted s set).boll = s.boll := rfl
@[simp] theorem clearHalted_slack : (clearHalted s set).slack = s.slack := rfl
@[simp] theorem clearHalted_hm : (clearHalted s set).hm = s.hm := rfl
@[simp] theorem clearHalted_links : (clearHalted s set).links = s.links := rfl
@[simp] theorem clearHalted_trans : (clearHalted s set).trans = s.trans := rfl
@[simp] theorem clearHalted_guest : (clearHalted s set).guest = s.guest := rfl
@[simp] theorem clearHalted_pw : (clearHalted s set).pw = s.pw := rfl
@[simp] theorem clearHalted_tm : (clearHalted s set).tm = s.tm := rfl
@[simp] theorem clearHalted_red : (clearHalted s set).red = s.red := rfl
@[simp] theorem clearHalted_sec : (clearHalted s set).sec = s.sec := rfl
@[simp] theorem clearHalted_oe : (clearHalted s set).oe = s.oe := rfl
@[simp] theorem clearHalted_ls : (clearHalted s set).ls = s.ls := rfl
@[simp] theorem clearHalted_nor : (clearHalted s set).nor = s.nor := rfl
@[simp] theorem clearHalted_cal : (clearHalted s set).cal = s.cal := rfl
@[simp] theorem clearHalted_pl : (clearHalted s set).pl = s.pl := rfl
@[simp] theorem clearHalted_spdmMctp : (clearHalted s set).spdmMctp = s.spdmMctp := rfl
@[simp] theorem clearHalted_spdmPilot : (clearHalted s set).spdmPilot = s.spdmPilot := rfl
@[simp] theorem clearHalted_dl : (clearHalted s set).dl = s.dl := rfl
@[simp] theorem clearHalted_jtag : (clearHalted s set).jtag = s.jtag := rfl
@[simp] theorem clearHalted_i3c : (clearHalted s set).i3c = s.i3c := rfl

end

section
variable (s : State) (set : Nat) (v : Option Voyage)

@[simp] theorem voyageSet_pending : (voyageSet s set v).pending = s.pending := rfl
@[simp] theorem voyageSet_out : (voyageSet s set v).out = s.out := rfl
@[simp] theorem voyageSet_freeCtr : (voyageSet s set v).freeCtr = s.freeCtr := rfl
@[simp] theorem voyageSet_now : (voyageSet s set v).now = s.now := rfl
@[simp] theorem voyageSet_regs : (voyageSet s set v).regs = s.regs := rfl
@[simp] theorem voyageSet_cores : (voyageSet s set v).cores = s.cores := rfl
@[simp] theorem voyageSet_mem : (voyageSet s set v).mem = s.mem := rfl
@[simp] theorem voyageSet_mc : (voyageSet s set v).mc = s.mc := rfl
@[simp] theorem voyageSet_sc : (voyageSet s set v).sc = s.sc := rfl
@[simp] theorem voyageSet_berth : (voyageSet s set v).berth = s.berth := rfl
@[simp] theorem voyageSet_elog : (voyageSet s set v).elog = s.elog := rfl
@[simp] theorem voyageSet_events : (voyageSet s set v).events = s.events := rfl
@[simp] theorem voyageSet_eventLost : (voyageSet s set v).eventLost = s.eventLost := rfl
@[simp] theorem voyageSet_tide : (voyageSet s set v).tide = s.tide := rfl
@[simp] theorem voyageSet_launch : (voyageSet s set v).launch = { s.launch with run := tset s.launch.run set v none } := rfl
@[simp] theorem voyageSet_boll : (voyageSet s set v).boll = s.boll := rfl
@[simp] theorem voyageSet_slack : (voyageSet s set v).slack = s.slack := rfl
@[simp] theorem voyageSet_hm : (voyageSet s set v).hm = s.hm := rfl
@[simp] theorem voyageSet_links : (voyageSet s set v).links = s.links := rfl
@[simp] theorem voyageSet_trans : (voyageSet s set v).trans = s.trans := rfl
@[simp] theorem voyageSet_guest : (voyageSet s set v).guest = s.guest := rfl
@[simp] theorem voyageSet_pw : (voyageSet s set v).pw = s.pw := rfl
@[simp] theorem voyageSet_tm : (voyageSet s set v).tm = s.tm := rfl
@[simp] theorem voyageSet_red : (voyageSet s set v).red = s.red := rfl
@[simp] theorem voyageSet_sec : (voyageSet s set v).sec = s.sec := rfl
@[simp] theorem voyageSet_oe : (voyageSet s set v).oe = s.oe := rfl
@[simp] theorem voyageSet_ls : (voyageSet s set v).ls = s.ls := rfl
@[simp] theorem voyageSet_nor : (voyageSet s set v).nor = s.nor := rfl
@[simp] theorem voyageSet_cal : (voyageSet s set v).cal = s.cal := rfl
@[simp] theorem voyageSet_pl : (voyageSet s set v).pl = s.pl := rfl
@[simp] theorem voyageSet_spdmMctp : (voyageSet s set v).spdmMctp = s.spdmMctp := rfl
@[simp] theorem voyageSet_spdmPilot : (voyageSet s set v).spdmPilot = s.spdmPilot := rfl
@[simp] theorem voyageSet_dl : (voyageSet s set v).dl = s.dl := rfl
@[simp] theorem voyageSet_jtag : (voyageSet s set v).jtag = s.jtag := rfl
@[simp] theorem voyageSet_i3c : (voyageSet s set v).i3c = s.i3c := rfl

end

section
variable (s : State) (set : Nat) (f : Voyage → Voyage)

@[simp] theorem voyageMod_pending : (voyageMod s set f).pending = s.pending := rfl
@[simp] theorem voyageMod_out : (voyageMod s set f).out = s.out := rfl
@[simp] theorem voyageMod_freeCtr : (voyageMod s set f).freeCtr = s.freeCtr := rfl
@[simp] theorem voyageMod_now : (voyageMod s set f).now = s.now := rfl
@[simp] theorem voyageMod_regs : (voyageMod s set f).regs = s.regs := rfl
@[simp] theorem voyageMod_cores : (voyageMod s set f).cores = s.cores := rfl
@[simp] theorem voyageMod_mem : (voyageMod s set f).mem = s.mem := rfl
@[simp] theorem voyageMod_mc : (voyageMod s set f).mc = s.mc := rfl
@[simp] theorem voyageMod_sc : (voyageMod s set f).sc = s.sc := rfl
@[simp] theorem voyageMod_berth : (voyageMod s set f).berth = s.berth := rfl
@[simp] theorem voyageMod_elog : (voyageMod s set f).elog = s.elog := rfl
@[simp] theorem voyageMod_events : (voyageMod s set f).events = s.events := rfl
@[simp] theorem voyageMod_eventLost : (voyageMod s set f).eventLost = s.eventLost := rfl
@[simp] theorem voyageMod_tide : (voyageMod s set f).tide = s.tide := rfl
@[simp] theorem voyageMod_boll : (voyageMod s set f).boll = s.boll := rfl
@[simp] theorem voyageMod_slack : (voyageMod s set f).slack = s.slack := rfl
@[simp] theorem voyageMod_hm : (voyageMod s set f).hm = s.hm := rfl
@[simp] theorem voyageMod_links : (voyageMod s set f).links = s.links := rfl
@[simp] theorem voyageMod_trans : (voyageMod s set f).trans = s.trans := rfl
@[simp] theorem voyageMod_guest : (voyageMod s set f).guest = s.guest := rfl
@[simp] theorem voyageMod_pw : (voyageMod s set f).pw = s.pw := rfl
@[simp] theorem voyageMod_tm : (voyageMod s set f).tm = s.tm := rfl
@[simp] theorem voyageMod_red : (voyageMod s set f).red = s.red := rfl
@[simp] theorem voyageMod_sec : (voyageMod s set f).sec = s.sec := rfl
@[simp] theorem voyageMod_oe : (voyageMod s set f).oe = s.oe := rfl
@[simp] theorem voyageMod_ls : (voyageMod s set f).ls = s.ls := rfl
@[simp] theorem voyageMod_nor : (voyageMod s set f).nor = s.nor := rfl
@[simp] theorem voyageMod_cal : (voyageMod s set f).cal = s.cal := rfl
@[simp] theorem voyageMod_pl : (voyageMod s set f).pl = s.pl := rfl
@[simp] theorem voyageMod_spdmMctp : (voyageMod s set f).spdmMctp = s.spdmMctp := rfl
@[simp] theorem voyageMod_spdmPilot : (voyageMod s set f).spdmPilot = s.spdmPilot := rfl
@[simp] theorem voyageMod_dl : (voyageMod s set f).dl = s.dl := rfl
@[simp] theorem voyageMod_jtag : (voyageMod s set f).jtag = s.jtag := rfl
@[simp] theorem voyageMod_i3c : (voyageMod s set f).i3c = s.i3c := rfl

end

section
variable (s : State) (i : Nat) (e : LEntry)

@[simp] theorem entrySet_pending : (entrySet s i e).pending = s.pending := rfl
@[simp] theorem entrySet_out : (entrySet s i e).out = s.out := rfl
@[simp] theorem entrySet_freeCtr : (entrySet s i e).freeCtr = s.freeCtr := rfl
@[simp] theorem entrySet_now : (entrySet s i e).now = s.now := rfl
@[simp] theorem entrySet_regs : (entrySet s i e).regs = s.regs := rfl
@[simp] theorem entrySet_cores : (entrySet s i e).cores = s.cores := rfl
@[simp] theorem entrySet_mem : (entrySet s i e).mem = s.mem := rfl
@[simp] theorem entrySet_mc : (entrySet s i e).mc = s.mc := rfl
@[simp] theorem entrySet_sc : (entrySet s i e).sc = s.sc := rfl
@[simp] theorem entrySet_berth : (entrySet s i e).berth = s.berth := rfl
@[simp] theorem entrySet_elog : (entrySet s i e).elog = s.elog := rfl
@[simp] theorem entrySet_events : (entrySet s i e).events = s.events := rfl
@[simp] theorem entrySet_eventLost : (entrySet s i e).eventLost = s.eventLost := rfl
@[simp] theorem entrySet_tide : (entrySet s i e).tide = s.tide := rfl
@[simp] theorem entrySet_launch : (entrySet s i e).launch = { s.launch with table := tset s.launch.table i e {} } := rfl
@[simp] theorem entrySet_boll : (entrySet s i e).boll = s.boll := rfl
@[simp] theorem entrySet_slack : (entrySet s i e).slack = s.slack := rfl
@[simp] theorem entrySet_hm : (entrySet s i e).hm = s.hm := rfl
@[simp] theorem entrySet_links : (entrySet s i e).links = s.links := rfl
@[simp] theorem entrySet_trans : (entrySet s i e).trans = s.trans := rfl
@[simp] theorem entrySet_guest : (entrySet s i e).guest = s.guest := rfl
@[simp] theorem entrySet_pw : (entrySet s i e).pw = s.pw := rfl
@[simp] theorem entrySet_tm : (entrySet s i e).tm = s.tm := rfl
@[simp] theorem entrySet_red : (entrySet s i e).red = s.red := rfl
@[simp] theorem entrySet_sec : (entrySet s i e).sec = s.sec := rfl
@[simp] theorem entrySet_oe : (entrySet s i e).oe = s.oe := rfl
@[simp] theorem entrySet_ls : (entrySet s i e).ls = s.ls := rfl
@[simp] theorem entrySet_nor : (entrySet s i e).nor = s.nor := rfl
@[simp] theorem entrySet_cal : (entrySet s i e).cal = s.cal := rfl
@[simp] theorem entrySet_pl : (entrySet s i e).pl = s.pl := rfl
@[simp] theorem entrySet_spdmMctp : (entrySet s i e).spdmMctp = s.spdmMctp := rfl
@[simp] theorem entrySet_spdmPilot : (entrySet s i e).spdmPilot = s.spdmPilot := rfl
@[simp] theorem entrySet_dl : (entrySet s i e).dl = s.dl := rfl
@[simp] theorem entrySet_jtag : (entrySet s i e).jtag = s.jtag := rfl
@[simp] theorem entrySet_i3c : (entrySet s i e).i3c = s.i3c := rfl

end

section
variable (s : State) (i : Nat) (e : BitVec 128)

@[simp] theorem berthSet_pending : (berthSet s i e).pending = s.pending := rfl
@[simp] theorem berthSet_out : (berthSet s i e).out = s.out := rfl
@[simp] theorem berthSet_freeCtr : (berthSet s i e).freeCtr = s.freeCtr := rfl
@[simp] theorem berthSet_now : (berthSet s i e).now = s.now := rfl
@[simp] theorem berthSet_regs : (berthSet s i e).regs = s.regs := rfl
@[simp] theorem berthSet_cores : (berthSet s i e).cores = s.cores := rfl
@[simp] theorem berthSet_mem : (berthSet s i e).mem = s.mem := rfl
@[simp] theorem berthSet_mc : (berthSet s i e).mc = s.mc := rfl
@[simp] theorem berthSet_sc : (berthSet s i e).sc = s.sc := rfl
@[simp] theorem berthSet_berth : (berthSet s i e).berth = { s.berth with table := tset s.berth.table i e 0 } := rfl
@[simp] theorem berthSet_elog : (berthSet s i e).elog = s.elog := rfl
@[simp] theorem berthSet_events : (berthSet s i e).events = s.events := rfl
@[simp] theorem berthSet_eventLost : (berthSet s i e).eventLost = s.eventLost := rfl
@[simp] theorem berthSet_tide : (berthSet s i e).tide = s.tide := rfl
@[simp] theorem berthSet_launch : (berthSet s i e).launch = s.launch := rfl
@[simp] theorem berthSet_boll : (berthSet s i e).boll = s.boll := rfl
@[simp] theorem berthSet_slack : (berthSet s i e).slack = s.slack := rfl
@[simp] theorem berthSet_hm : (berthSet s i e).hm = s.hm := rfl
@[simp] theorem berthSet_links : (berthSet s i e).links = s.links := rfl
@[simp] theorem berthSet_trans : (berthSet s i e).trans = s.trans := rfl
@[simp] theorem berthSet_guest : (berthSet s i e).guest = s.guest := rfl
@[simp] theorem berthSet_pw : (berthSet s i e).pw = s.pw := rfl
@[simp] theorem berthSet_tm : (berthSet s i e).tm = s.tm := rfl
@[simp] theorem berthSet_red : (berthSet s i e).red = s.red := rfl
@[simp] theorem berthSet_sec : (berthSet s i e).sec = s.sec := rfl
@[simp] theorem berthSet_oe : (berthSet s i e).oe = s.oe := rfl
@[simp] theorem berthSet_ls : (berthSet s i e).ls = s.ls := rfl
@[simp] theorem berthSet_nor : (berthSet s i e).nor = s.nor := rfl
@[simp] theorem berthSet_cal : (berthSet s i e).cal = s.cal := rfl
@[simp] theorem berthSet_pl : (berthSet s i e).pl = s.pl := rfl
@[simp] theorem berthSet_spdmMctp : (berthSet s i e).spdmMctp = s.spdmMctp := rfl
@[simp] theorem berthSet_spdmPilot : (berthSet s i e).spdmPilot = s.spdmPilot := rfl
@[simp] theorem berthSet_dl : (berthSet s i e).dl = s.dl := rfl
@[simp] theorem berthSet_jtag : (berthSet s i e).jtag = s.jtag := rfl
@[simp] theorem berthSet_i3c : (berthSet s i e).i3c = s.i3c := rfl

end

section
variable (s : State) (m : Nat) (x : McSt)

@[simp] theorem mcSet_pending : (mcSet s m x).pending = s.pending := rfl
@[simp] theorem mcSet_out : (mcSet s m x).out = s.out := rfl
@[simp] theorem mcSet_freeCtr : (mcSet s m x).freeCtr = s.freeCtr := rfl
@[simp] theorem mcSet_now : (mcSet s m x).now = s.now := rfl
@[simp] theorem mcSet_regs : (mcSet s m x).regs = s.regs := rfl
@[simp] theorem mcSet_cores : (mcSet s m x).cores = s.cores := rfl
@[simp] theorem mcSet_mem : (mcSet s m x).mem = s.mem := rfl
@[simp] theorem mcSet_mc : (mcSet s m x).mc = tset s.mc m x {} := rfl
@[simp] theorem mcSet_sc : (mcSet s m x).sc = s.sc := rfl
@[simp] theorem mcSet_berth : (mcSet s m x).berth = s.berth := rfl
@[simp] theorem mcSet_elog : (mcSet s m x).elog = s.elog := rfl
@[simp] theorem mcSet_events : (mcSet s m x).events = s.events := rfl
@[simp] theorem mcSet_eventLost : (mcSet s m x).eventLost = s.eventLost := rfl
@[simp] theorem mcSet_tide : (mcSet s m x).tide = s.tide := rfl
@[simp] theorem mcSet_launch : (mcSet s m x).launch = s.launch := rfl
@[simp] theorem mcSet_boll : (mcSet s m x).boll = s.boll := rfl
@[simp] theorem mcSet_slack : (mcSet s m x).slack = s.slack := rfl
@[simp] theorem mcSet_hm : (mcSet s m x).hm = s.hm := rfl
@[simp] theorem mcSet_links : (mcSet s m x).links = s.links := rfl
@[simp] theorem mcSet_trans : (mcSet s m x).trans = s.trans := rfl
@[simp] theorem mcSet_guest : (mcSet s m x).guest = s.guest := rfl
@[simp] theorem mcSet_pw : (mcSet s m x).pw = s.pw := rfl
@[simp] theorem mcSet_tm : (mcSet s m x).tm = s.tm := rfl
@[simp] theorem mcSet_red : (mcSet s m x).red = s.red := rfl
@[simp] theorem mcSet_sec : (mcSet s m x).sec = s.sec := rfl
@[simp] theorem mcSet_oe : (mcSet s m x).oe = s.oe := rfl
@[simp] theorem mcSet_ls : (mcSet s m x).ls = s.ls := rfl
@[simp] theorem mcSet_nor : (mcSet s m x).nor = s.nor := rfl
@[simp] theorem mcSet_cal : (mcSet s m x).cal = s.cal := rfl
@[simp] theorem mcSet_pl : (mcSet s m x).pl = s.pl := rfl
@[simp] theorem mcSet_spdmMctp : (mcSet s m x).spdmMctp = s.spdmMctp := rfl
@[simp] theorem mcSet_spdmPilot : (mcSet s m x).spdmPilot = s.spdmPilot := rfl
@[simp] theorem mcSet_dl : (mcSet s m x).dl = s.dl := rfl
@[simp] theorem mcSet_jtag : (mcSet s m x).jtag = s.jtag := rfl
@[simp] theorem mcSet_i3c : (mcSet s m x).i3c = s.i3c := rfl

end

section
variable (s : State) (slot : Nat) (x : ScrubSt)

@[simp] theorem scSet_pending : (scSet s slot x).pending = s.pending := rfl
@[simp] theorem scSet_out : (scSet s slot x).out = s.out := rfl
@[simp] theorem scSet_freeCtr : (scSet s slot x).freeCtr = s.freeCtr := rfl
@[simp] theorem scSet_now : (scSet s slot x).now = s.now := rfl
@[simp] theorem scSet_regs : (scSet s slot x).regs = s.regs := rfl
@[simp] theorem scSet_cores : (scSet s slot x).cores = s.cores := rfl
@[simp] theorem scSet_mem : (scSet s slot x).mem = s.mem := rfl
@[simp] theorem scSet_mc : (scSet s slot x).mc = s.mc := rfl
@[simp] theorem scSet_sc : (scSet s slot x).sc = tset s.sc slot x {} := rfl
@[simp] theorem scSet_berth : (scSet s slot x).berth = s.berth := rfl
@[simp] theorem scSet_elog : (scSet s slot x).elog = s.elog := rfl
@[simp] theorem scSet_events : (scSet s slot x).events = s.events := rfl
@[simp] theorem scSet_eventLost : (scSet s slot x).eventLost = s.eventLost := rfl
@[simp] theorem scSet_tide : (scSet s slot x).tide = s.tide := rfl
@[simp] theorem scSet_launch : (scSet s slot x).launch = s.launch := rfl
@[simp] theorem scSet_boll : (scSet s slot x).boll = s.boll := rfl
@[simp] theorem scSet_slack : (scSet s slot x).slack = s.slack := rfl
@[simp] theorem scSet_hm : (scSet s slot x).hm = s.hm := rfl
@[simp] theorem scSet_links : (scSet s slot x).links = s.links := rfl
@[simp] theorem scSet_trans : (scSet s slot x).trans = s.trans := rfl
@[simp] theorem scSet_guest : (scSet s slot x).guest = s.guest := rfl
@[simp] theorem scSet_pw : (scSet s slot x).pw = s.pw := rfl
@[simp] theorem scSet_tm : (scSet s slot x).tm = s.tm := rfl
@[simp] theorem scSet_red : (scSet s slot x).red = s.red := rfl
@[simp] theorem scSet_sec : (scSet s slot x).sec = s.sec := rfl
@[simp] theorem scSet_oe : (scSet s slot x).oe = s.oe := rfl
@[simp] theorem scSet_ls : (scSet s slot x).ls = s.ls := rfl
@[simp] theorem scSet_nor : (scSet s slot x).nor = s.nor := rfl
@[simp] theorem scSet_cal : (scSet s slot x).cal = s.cal := rfl
@[simp] theorem scSet_pl : (scSet s slot x).pl = s.pl := rfl
@[simp] theorem scSet_spdmMctp : (scSet s slot x).spdmMctp = s.spdmMctp := rfl
@[simp] theorem scSet_spdmPilot : (scSet s slot x).spdmPilot = s.spdmPilot := rfl
@[simp] theorem scSet_dl : (scSet s slot x).dl = s.dl := rfl
@[simp] theorem scSet_jtag : (scSet s slot x).jtag = s.jtag := rfl
@[simp] theorem scSet_i3c : (scSet s slot x).i3c = s.i3c := rfl

end

section
variable (s : State) (n : Nat)

@[simp] theorem elogFree_pending : (elogFree s n).pending = s.pending := rfl
@[simp] theorem elogFree_out : (elogFree s n).out = s.out := rfl
@[simp] theorem elogFree_freeCtr : (elogFree s n).freeCtr = s.freeCtr := rfl
@[simp] theorem elogFree_now : (elogFree s n).now = s.now := rfl
@[simp] theorem elogFree_regs : (elogFree s n).regs = s.regs := rfl
@[simp] theorem elogFree_cores : (elogFree s n).cores = s.cores := rfl
@[simp] theorem elogFree_mem : (elogFree s n).mem = s.mem := rfl
@[simp] theorem elogFree_mc : (elogFree s n).mc = s.mc := rfl
@[simp] theorem elogFree_sc : (elogFree s n).sc = s.sc := rfl
@[simp] theorem elogFree_berth : (elogFree s n).berth = s.berth := rfl
@[simp] theorem elogFree_events : (elogFree s n).events = s.events := rfl
@[simp] theorem elogFree_eventLost : (elogFree s n).eventLost = s.eventLost := rfl
@[simp] theorem elogFree_tide : (elogFree s n).tide = s.tide := rfl
@[simp] theorem elogFree_launch : (elogFree s n).launch = s.launch := rfl
@[simp] theorem elogFree_boll : (elogFree s n).boll = s.boll := rfl
@[simp] theorem elogFree_slack : (elogFree s n).slack = s.slack := rfl
@[simp] theorem elogFree_hm : (elogFree s n).hm = s.hm := rfl
@[simp] theorem elogFree_links : (elogFree s n).links = s.links := rfl
@[simp] theorem elogFree_trans : (elogFree s n).trans = s.trans := rfl
@[simp] theorem elogFree_guest : (elogFree s n).guest = s.guest := rfl
@[simp] theorem elogFree_pw : (elogFree s n).pw = s.pw := rfl
@[simp] theorem elogFree_tm : (elogFree s n).tm = s.tm := rfl
@[simp] theorem elogFree_red : (elogFree s n).red = s.red := rfl
@[simp] theorem elogFree_sec : (elogFree s n).sec = s.sec := rfl
@[simp] theorem elogFree_oe : (elogFree s n).oe = s.oe := rfl
@[simp] theorem elogFree_ls : (elogFree s n).ls = s.ls := rfl
@[simp] theorem elogFree_nor : (elogFree s n).nor = s.nor := rfl
@[simp] theorem elogFree_cal : (elogFree s n).cal = s.cal := rfl
@[simp] theorem elogFree_pl : (elogFree s n).pl = s.pl := rfl
@[simp] theorem elogFree_spdmMctp : (elogFree s n).spdmMctp = s.spdmMctp := rfl
@[simp] theorem elogFree_spdmPilot : (elogFree s n).spdmPilot = s.spdmPilot := rfl
@[simp] theorem elogFree_dl : (elogFree s n).dl = s.dl := rfl
@[simp] theorem elogFree_jtag : (elogFree s n).jtag = s.jtag := rfl
@[simp] theorem elogFree_i3c : (elogFree s n).i3c = s.i3c := rfl

end

section
variable (s : State) (st : HmState)

@[simp] theorem hmSet_pending : (hmSet s st).pending = s.pending := rfl
@[simp] theorem hmSet_out : (hmSet s st).out = s.out := rfl
@[simp] theorem hmSet_freeCtr : (hmSet s st).freeCtr = s.freeCtr := rfl
@[simp] theorem hmSet_now : (hmSet s st).now = s.now := rfl
@[simp] theorem hmSet_regs : (hmSet s st).regs = s.regs := rfl
@[simp] theorem hmSet_cores : (hmSet s st).cores = s.cores := rfl
@[simp] theorem hmSet_mem : (hmSet s st).mem = s.mem := rfl
@[simp] theorem hmSet_mc : (hmSet s st).mc = s.mc := rfl
@[simp] theorem hmSet_sc : (hmSet s st).sc = s.sc := rfl
@[simp] theorem hmSet_berth : (hmSet s st).berth = s.berth := rfl
@[simp] theorem hmSet_elog : (hmSet s st).elog = s.elog := rfl
@[simp] theorem hmSet_events : (hmSet s st).events = s.events := rfl
@[simp] theorem hmSet_eventLost : (hmSet s st).eventLost = s.eventLost := rfl
@[simp] theorem hmSet_tide : (hmSet s st).tide = s.tide := rfl
@[simp] theorem hmSet_launch : (hmSet s st).launch = s.launch := rfl
@[simp] theorem hmSet_boll : (hmSet s st).boll = s.boll := rfl
@[simp] theorem hmSet_slack : (hmSet s st).slack = s.slack := rfl
@[simp] theorem hmSet_hm : (hmSet s st).hm = { s.hm with st := st } := rfl
@[simp] theorem hmSet_links : (hmSet s st).links = s.links := rfl
@[simp] theorem hmSet_trans : (hmSet s st).trans = s.trans := rfl
@[simp] theorem hmSet_guest : (hmSet s st).guest = s.guest := rfl
@[simp] theorem hmSet_pw : (hmSet s st).pw = s.pw := rfl
@[simp] theorem hmSet_tm : (hmSet s st).tm = s.tm := rfl
@[simp] theorem hmSet_red : (hmSet s st).red = s.red := rfl
@[simp] theorem hmSet_sec : (hmSet s st).sec = s.sec := rfl
@[simp] theorem hmSet_oe : (hmSet s st).oe = s.oe := rfl
@[simp] theorem hmSet_ls : (hmSet s st).ls = s.ls := rfl
@[simp] theorem hmSet_nor : (hmSet s st).nor = s.nor := rfl
@[simp] theorem hmSet_cal : (hmSet s st).cal = s.cal := rfl
@[simp] theorem hmSet_pl : (hmSet s st).pl = s.pl := rfl
@[simp] theorem hmSet_spdmMctp : (hmSet s st).spdmMctp = s.spdmMctp := rfl
@[simp] theorem hmSet_spdmPilot : (hmSet s st).spdmPilot = s.spdmPilot := rfl
@[simp] theorem hmSet_dl : (hmSet s st).dl = s.dl := rfl
@[simp] theorem hmSet_jtag : (hmSet s st).jtag = s.jtag := rfl
@[simp] theorem hmSet_i3c : (hmSet s st).i3c = s.i3c := rfl

end

section
variable (s : State) (slot : Nat) (d : DieRec)

@[simp] theorem dieSet_pending : (dieSet s slot d).pending = s.pending := rfl
@[simp] theorem dieSet_out : (dieSet s slot d).out = s.out := rfl
@[simp] theorem dieSet_freeCtr : (dieSet s slot d).freeCtr = s.freeCtr := rfl
@[simp] theorem dieSet_now : (dieSet s slot d).now = s.now := rfl
@[simp] theorem dieSet_regs : (dieSet s slot d).regs = s.regs := rfl
@[simp] theorem dieSet_cores : (dieSet s slot d).cores = s.cores := rfl
@[simp] theorem dieSet_mem : (dieSet s slot d).mem = s.mem := rfl
@[simp] theorem dieSet_mc : (dieSet s slot d).mc = s.mc := rfl
@[simp] theorem dieSet_sc : (dieSet s slot d).sc = s.sc := rfl
@[simp] theorem dieSet_berth : (dieSet s slot d).berth = s.berth := rfl
@[simp] theorem dieSet_elog : (dieSet s slot d).elog = s.elog := rfl
@[simp] theorem dieSet_events : (dieSet s slot d).events = s.events := rfl
@[simp] theorem dieSet_eventLost : (dieSet s slot d).eventLost = s.eventLost := rfl
@[simp] theorem dieSet_tide : (dieSet s slot d).tide = s.tide := rfl
@[simp] theorem dieSet_launch : (dieSet s slot d).launch = s.launch := rfl
@[simp] theorem dieSet_boll : (dieSet s slot d).boll = s.boll := rfl
@[simp] theorem dieSet_slack : (dieSet s slot d).slack = s.slack := rfl
@[simp] theorem dieSet_hm : (dieSet s slot d).hm = { s.hm with dies := tset s.hm.dies slot d {} } := rfl
@[simp] theorem dieSet_links : (dieSet s slot d).links = s.links := rfl
@[simp] theorem dieSet_trans : (dieSet s slot d).trans = s.trans := rfl
@[simp] theorem dieSet_guest : (dieSet s slot d).guest = s.guest := rfl
@[simp] theorem dieSet_pw : (dieSet s slot d).pw = s.pw := rfl
@[simp] theorem dieSet_tm : (dieSet s slot d).tm = s.tm := rfl
@[simp] theorem dieSet_red : (dieSet s slot d).red = s.red := rfl
@[simp] theorem dieSet_sec : (dieSet s slot d).sec = s.sec := rfl
@[simp] theorem dieSet_oe : (dieSet s slot d).oe = s.oe := rfl
@[simp] theorem dieSet_ls : (dieSet s slot d).ls = s.ls := rfl
@[simp] theorem dieSet_nor : (dieSet s slot d).nor = s.nor := rfl
@[simp] theorem dieSet_cal : (dieSet s slot d).cal = s.cal := rfl
@[simp] theorem dieSet_pl : (dieSet s slot d).pl = s.pl := rfl
@[simp] theorem dieSet_spdmMctp : (dieSet s slot d).spdmMctp = s.spdmMctp := rfl
@[simp] theorem dieSet_spdmPilot : (dieSet s slot d).spdmPilot = s.spdmPilot := rfl
@[simp] theorem dieSet_dl : (dieSet s slot d).dl = s.dl := rfl
@[simp] theorem dieSet_jtag : (dieSet s slot d).jtag = s.jtag := rfl
@[simp] theorem dieSet_i3c : (dieSet s slot d).i3c = s.i3c := rfl

end

section
variable (s : State) (k : Nat) (x : LinkSt)

@[simp] theorem linkSet_pending : (linkSet s k x).pending = s.pending := rfl
@[simp] theorem linkSet_out : (linkSet s k x).out = s.out := rfl
@[simp] theorem linkSet_freeCtr : (linkSet s k x).freeCtr = s.freeCtr := rfl
@[simp] theorem linkSet_now : (linkSet s k x).now = s.now := rfl
@[simp] theorem linkSet_regs : (linkSet s k x).regs = s.regs := rfl
@[simp] theorem linkSet_cores : (linkSet s k x).cores = s.cores := rfl
@[simp] theorem linkSet_mem : (linkSet s k x).mem = s.mem := rfl
@[simp] theorem linkSet_mc : (linkSet s k x).mc = s.mc := rfl
@[simp] theorem linkSet_sc : (linkSet s k x).sc = s.sc := rfl
@[simp] theorem linkSet_berth : (linkSet s k x).berth = s.berth := rfl
@[simp] theorem linkSet_elog : (linkSet s k x).elog = s.elog := rfl
@[simp] theorem linkSet_events : (linkSet s k x).events = s.events := rfl
@[simp] theorem linkSet_eventLost : (linkSet s k x).eventLost = s.eventLost := rfl
@[simp] theorem linkSet_tide : (linkSet s k x).tide = s.tide := rfl
@[simp] theorem linkSet_launch : (linkSet s k x).launch = s.launch := rfl
@[simp] theorem linkSet_boll : (linkSet s k x).boll = s.boll := rfl
@[simp] theorem linkSet_slack : (linkSet s k x).slack = s.slack := rfl
@[simp] theorem linkSet_hm : (linkSet s k x).hm = s.hm := rfl
@[simp] theorem linkSet_links : (linkSet s k x).links = tset s.links k x {} := rfl
@[simp] theorem linkSet_trans : (linkSet s k x).trans = s.trans := rfl
@[simp] theorem linkSet_guest : (linkSet s k x).guest = s.guest := rfl
@[simp] theorem linkSet_pw : (linkSet s k x).pw = s.pw := rfl
@[simp] theorem linkSet_tm : (linkSet s k x).tm = s.tm := rfl
@[simp] theorem linkSet_red : (linkSet s k x).red = s.red := rfl
@[simp] theorem linkSet_sec : (linkSet s k x).sec = s.sec := rfl
@[simp] theorem linkSet_oe : (linkSet s k x).oe = s.oe := rfl
@[simp] theorem linkSet_ls : (linkSet s k x).ls = s.ls := rfl
@[simp] theorem linkSet_nor : (linkSet s k x).nor = s.nor := rfl
@[simp] theorem linkSet_cal : (linkSet s k x).cal = s.cal := rfl
@[simp] theorem linkSet_pl : (linkSet s k x).pl = s.pl := rfl
@[simp] theorem linkSet_spdmMctp : (linkSet s k x).spdmMctp = s.spdmMctp := rfl
@[simp] theorem linkSet_spdmPilot : (linkSet s k x).spdmPilot = s.spdmPilot := rfl
@[simp] theorem linkSet_dl : (linkSet s k x).dl = s.dl := rfl
@[simp] theorem linkSet_jtag : (linkSet s k x).jtag = s.jtag := rfl
@[simp] theorem linkSet_i3c : (linkSet s k x).i3c = s.i3c := rfl

end

section
variable (s : State) (k : Nat) (f : LinkSt → LinkSt)

@[simp] theorem linkMod_pending : (linkMod s k f).pending = s.pending := rfl
@[simp] theorem linkMod_out : (linkMod s k f).out = s.out := rfl
@[simp] theorem linkMod_freeCtr : (linkMod s k f).freeCtr = s.freeCtr := rfl
@[simp] theorem linkMod_now : (linkMod s k f).now = s.now := rfl
@[simp] theorem linkMod_regs : (linkMod s k f).regs = s.regs := rfl
@[simp] theorem linkMod_cores : (linkMod s k f).cores = s.cores := rfl
@[simp] theorem linkMod_mem : (linkMod s k f).mem = s.mem := rfl
@[simp] theorem linkMod_mc : (linkMod s k f).mc = s.mc := rfl
@[simp] theorem linkMod_sc : (linkMod s k f).sc = s.sc := rfl
@[simp] theorem linkMod_berth : (linkMod s k f).berth = s.berth := rfl
@[simp] theorem linkMod_elog : (linkMod s k f).elog = s.elog := rfl
@[simp] theorem linkMod_events : (linkMod s k f).events = s.events := rfl
@[simp] theorem linkMod_eventLost : (linkMod s k f).eventLost = s.eventLost := rfl
@[simp] theorem linkMod_tide : (linkMod s k f).tide = s.tide := rfl
@[simp] theorem linkMod_launch : (linkMod s k f).launch = s.launch := rfl
@[simp] theorem linkMod_boll : (linkMod s k f).boll = s.boll := rfl
@[simp] theorem linkMod_slack : (linkMod s k f).slack = s.slack := rfl
@[simp] theorem linkMod_hm : (linkMod s k f).hm = s.hm := rfl
@[simp] theorem linkMod_trans : (linkMod s k f).trans = s.trans := rfl
@[simp] theorem linkMod_guest : (linkMod s k f).guest = s.guest := rfl
@[simp] theorem linkMod_pw : (linkMod s k f).pw = s.pw := rfl
@[simp] theorem linkMod_tm : (linkMod s k f).tm = s.tm := rfl
@[simp] theorem linkMod_red : (linkMod s k f).red = s.red := rfl
@[simp] theorem linkMod_sec : (linkMod s k f).sec = s.sec := rfl
@[simp] theorem linkMod_oe : (linkMod s k f).oe = s.oe := rfl
@[simp] theorem linkMod_ls : (linkMod s k f).ls = s.ls := rfl
@[simp] theorem linkMod_nor : (linkMod s k f).nor = s.nor := rfl
@[simp] theorem linkMod_cal : (linkMod s k f).cal = s.cal := rfl
@[simp] theorem linkMod_pl : (linkMod s k f).pl = s.pl := rfl
@[simp] theorem linkMod_spdmMctp : (linkMod s k f).spdmMctp = s.spdmMctp := rfl
@[simp] theorem linkMod_spdmPilot : (linkMod s k f).spdmPilot = s.spdmPilot := rfl
@[simp] theorem linkMod_dl : (linkMod s k f).dl = s.dl := rfl
@[simp] theorem linkMod_jtag : (linkMod s k f).jtag = s.jtag := rfl
@[simp] theorem linkMod_i3c : (linkMod s k f).i3c = s.i3c := rfl

end

section
variable (s : State) (k : Nat) (x : DlSt)

@[simp] theorem dlSet_pending : (dlSet s k x).pending = s.pending := rfl
@[simp] theorem dlSet_out : (dlSet s k x).out = s.out := rfl
@[simp] theorem dlSet_freeCtr : (dlSet s k x).freeCtr = s.freeCtr := rfl
@[simp] theorem dlSet_now : (dlSet s k x).now = s.now := rfl
@[simp] theorem dlSet_regs : (dlSet s k x).regs = s.regs := rfl
@[simp] theorem dlSet_cores : (dlSet s k x).cores = s.cores := rfl
@[simp] theorem dlSet_mem : (dlSet s k x).mem = s.mem := rfl
@[simp] theorem dlSet_mc : (dlSet s k x).mc = s.mc := rfl
@[simp] theorem dlSet_sc : (dlSet s k x).sc = s.sc := rfl
@[simp] theorem dlSet_berth : (dlSet s k x).berth = s.berth := rfl
@[simp] theorem dlSet_elog : (dlSet s k x).elog = s.elog := rfl
@[simp] theorem dlSet_events : (dlSet s k x).events = s.events := rfl
@[simp] theorem dlSet_eventLost : (dlSet s k x).eventLost = s.eventLost := rfl
@[simp] theorem dlSet_tide : (dlSet s k x).tide = s.tide := rfl
@[simp] theorem dlSet_launch : (dlSet s k x).launch = s.launch := rfl
@[simp] theorem dlSet_boll : (dlSet s k x).boll = s.boll := rfl
@[simp] theorem dlSet_slack : (dlSet s k x).slack = s.slack := rfl
@[simp] theorem dlSet_hm : (dlSet s k x).hm = s.hm := rfl
@[simp] theorem dlSet_links : (dlSet s k x).links = s.links := rfl
@[simp] theorem dlSet_trans : (dlSet s k x).trans = s.trans := rfl
@[simp] theorem dlSet_guest : (dlSet s k x).guest = s.guest := rfl
@[simp] theorem dlSet_pw : (dlSet s k x).pw = s.pw := rfl
@[simp] theorem dlSet_tm : (dlSet s k x).tm = s.tm := rfl
@[simp] theorem dlSet_red : (dlSet s k x).red = s.red := rfl
@[simp] theorem dlSet_sec : (dlSet s k x).sec = s.sec := rfl
@[simp] theorem dlSet_oe : (dlSet s k x).oe = s.oe := rfl
@[simp] theorem dlSet_ls : (dlSet s k x).ls = s.ls := rfl
@[simp] theorem dlSet_nor : (dlSet s k x).nor = s.nor := rfl
@[simp] theorem dlSet_cal : (dlSet s k x).cal = s.cal := rfl
@[simp] theorem dlSet_pl : (dlSet s k x).pl = s.pl := rfl
@[simp] theorem dlSet_spdmMctp : (dlSet s k x).spdmMctp = s.spdmMctp := rfl
@[simp] theorem dlSet_spdmPilot : (dlSet s k x).spdmPilot = s.spdmPilot := rfl
@[simp] theorem dlSet_jtag : (dlSet s k x).jtag = s.jtag := rfl
@[simp] theorem dlSet_i3c : (dlSet s k x).i3c = s.i3c := rfl

end

section
variable (s : State) (n : Nat) (x : OeSt)

@[simp] theorem oeSet_pending : (oeSet s n x).pending = s.pending := rfl
@[simp] theorem oeSet_out : (oeSet s n x).out = s.out := rfl
@[simp] theorem oeSet_freeCtr : (oeSet s n x).freeCtr = s.freeCtr := rfl
@[simp] theorem oeSet_now : (oeSet s n x).now = s.now := rfl
@[simp] theorem oeSet_regs : (oeSet s n x).regs = s.regs := rfl
@[simp] theorem oeSet_cores : (oeSet s n x).cores = s.cores := rfl
@[simp] theorem oeSet_mem : (oeSet s n x).mem = s.mem := rfl
@[simp] theorem oeSet_mc : (oeSet s n x).mc = s.mc := rfl
@[simp] theorem oeSet_sc : (oeSet s n x).sc = s.sc := rfl
@[simp] theorem oeSet_berth : (oeSet s n x).berth = s.berth := rfl
@[simp] theorem oeSet_elog : (oeSet s n x).elog = s.elog := rfl
@[simp] theorem oeSet_events : (oeSet s n x).events = s.events := rfl
@[simp] theorem oeSet_eventLost : (oeSet s n x).eventLost = s.eventLost := rfl
@[simp] theorem oeSet_tide : (oeSet s n x).tide = s.tide := rfl
@[simp] theorem oeSet_launch : (oeSet s n x).launch = s.launch := rfl
@[simp] theorem oeSet_boll : (oeSet s n x).boll = s.boll := rfl
@[simp] theorem oeSet_slack : (oeSet s n x).slack = s.slack := rfl
@[simp] theorem oeSet_hm : (oeSet s n x).hm = s.hm := rfl
@[simp] theorem oeSet_links : (oeSet s n x).links = s.links := rfl
@[simp] theorem oeSet_trans : (oeSet s n x).trans = s.trans := rfl
@[simp] theorem oeSet_guest : (oeSet s n x).guest = s.guest := rfl
@[simp] theorem oeSet_pw : (oeSet s n x).pw = s.pw := rfl
@[simp] theorem oeSet_tm : (oeSet s n x).tm = s.tm := rfl
@[simp] theorem oeSet_red : (oeSet s n x).red = s.red := rfl
@[simp] theorem oeSet_sec : (oeSet s n x).sec = s.sec := rfl
@[simp] theorem oeSet_oe : (oeSet s n x).oe = tset s.oe n x {} := rfl
@[simp] theorem oeSet_ls : (oeSet s n x).ls = s.ls := rfl
@[simp] theorem oeSet_nor : (oeSet s n x).nor = s.nor := rfl
@[simp] theorem oeSet_cal : (oeSet s n x).cal = s.cal := rfl
@[simp] theorem oeSet_pl : (oeSet s n x).pl = s.pl := rfl
@[simp] theorem oeSet_spdmMctp : (oeSet s n x).spdmMctp = s.spdmMctp := rfl
@[simp] theorem oeSet_spdmPilot : (oeSet s n x).spdmPilot = s.spdmPilot := rfl
@[simp] theorem oeSet_dl : (oeSet s n x).dl = s.dl := rfl
@[simp] theorem oeSet_jtag : (oeSet s n x).jtag = s.jtag := rfl
@[simp] theorem oeSet_i3c : (oeSet s n x).i3c = s.i3c := rfl

end

section
variable (s : State) (n : Nat) (f : OeSt → OeSt)

@[simp] theorem oeMod_pending : (oeMod s n f).pending = s.pending := rfl
@[simp] theorem oeMod_out : (oeMod s n f).out = s.out := rfl
@[simp] theorem oeMod_freeCtr : (oeMod s n f).freeCtr = s.freeCtr := rfl
@[simp] theorem oeMod_now : (oeMod s n f).now = s.now := rfl
@[simp] theorem oeMod_regs : (oeMod s n f).regs = s.regs := rfl
@[simp] theorem oeMod_cores : (oeMod s n f).cores = s.cores := rfl
@[simp] theorem oeMod_mem : (oeMod s n f).mem = s.mem := rfl
@[simp] theorem oeMod_mc : (oeMod s n f).mc = s.mc := rfl
@[simp] theorem oeMod_sc : (oeMod s n f).sc = s.sc := rfl
@[simp] theorem oeMod_berth : (oeMod s n f).berth = s.berth := rfl
@[simp] theorem oeMod_elog : (oeMod s n f).elog = s.elog := rfl
@[simp] theorem oeMod_events : (oeMod s n f).events = s.events := rfl
@[simp] theorem oeMod_eventLost : (oeMod s n f).eventLost = s.eventLost := rfl
@[simp] theorem oeMod_tide : (oeMod s n f).tide = s.tide := rfl
@[simp] theorem oeMod_launch : (oeMod s n f).launch = s.launch := rfl
@[simp] theorem oeMod_boll : (oeMod s n f).boll = s.boll := rfl
@[simp] theorem oeMod_slack : (oeMod s n f).slack = s.slack := rfl
@[simp] theorem oeMod_hm : (oeMod s n f).hm = s.hm := rfl
@[simp] theorem oeMod_links : (oeMod s n f).links = s.links := rfl
@[simp] theorem oeMod_trans : (oeMod s n f).trans = s.trans := rfl
@[simp] theorem oeMod_guest : (oeMod s n f).guest = s.guest := rfl
@[simp] theorem oeMod_pw : (oeMod s n f).pw = s.pw := rfl
@[simp] theorem oeMod_tm : (oeMod s n f).tm = s.tm := rfl
@[simp] theorem oeMod_red : (oeMod s n f).red = s.red := rfl
@[simp] theorem oeMod_sec : (oeMod s n f).sec = s.sec := rfl
@[simp] theorem oeMod_ls : (oeMod s n f).ls = s.ls := rfl
@[simp] theorem oeMod_nor : (oeMod s n f).nor = s.nor := rfl
@[simp] theorem oeMod_cal : (oeMod s n f).cal = s.cal := rfl
@[simp] theorem oeMod_pl : (oeMod s n f).pl = s.pl := rfl
@[simp] theorem oeMod_spdmMctp : (oeMod s n f).spdmMctp = s.spdmMctp := rfl
@[simp] theorem oeMod_spdmPilot : (oeMod s n f).spdmPilot = s.spdmPilot := rfl
@[simp] theorem oeMod_dl : (oeMod s n f).dl = s.dl := rfl
@[simp] theorem oeMod_jtag : (oeMod s n f).jtag = s.jtag := rfl
@[simp] theorem oeMod_i3c : (oeMod s n f).i3c = s.i3c := rfl

end

section
variable (s : State) (n : Nat) (x : LsSt)

@[simp] theorem lsSet_pending : (lsSet s n x).pending = s.pending := rfl
@[simp] theorem lsSet_out : (lsSet s n x).out = s.out := rfl
@[simp] theorem lsSet_freeCtr : (lsSet s n x).freeCtr = s.freeCtr := rfl
@[simp] theorem lsSet_now : (lsSet s n x).now = s.now := rfl
@[simp] theorem lsSet_regs : (lsSet s n x).regs = s.regs := rfl
@[simp] theorem lsSet_cores : (lsSet s n x).cores = s.cores := rfl
@[simp] theorem lsSet_mem : (lsSet s n x).mem = s.mem := rfl
@[simp] theorem lsSet_mc : (lsSet s n x).mc = s.mc := rfl
@[simp] theorem lsSet_sc : (lsSet s n x).sc = s.sc := rfl
@[simp] theorem lsSet_berth : (lsSet s n x).berth = s.berth := rfl
@[simp] theorem lsSet_elog : (lsSet s n x).elog = s.elog := rfl
@[simp] theorem lsSet_events : (lsSet s n x).events = s.events := rfl
@[simp] theorem lsSet_eventLost : (lsSet s n x).eventLost = s.eventLost := rfl
@[simp] theorem lsSet_tide : (lsSet s n x).tide = s.tide := rfl
@[simp] theorem lsSet_launch : (lsSet s n x).launch = s.launch := rfl
@[simp] theorem lsSet_boll : (lsSet s n x).boll = s.boll := rfl
@[simp] theorem lsSet_slack : (lsSet s n x).slack = s.slack := rfl
@[simp] theorem lsSet_hm : (lsSet s n x).hm = s.hm := rfl
@[simp] theorem lsSet_links : (lsSet s n x).links = s.links := rfl
@[simp] theorem lsSet_trans : (lsSet s n x).trans = s.trans := rfl
@[simp] theorem lsSet_guest : (lsSet s n x).guest = s.guest := rfl
@[simp] theorem lsSet_pw : (lsSet s n x).pw = s.pw := rfl
@[simp] theorem lsSet_tm : (lsSet s n x).tm = s.tm := rfl
@[simp] theorem lsSet_red : (lsSet s n x).red = s.red := rfl
@[simp] theorem lsSet_sec : (lsSet s n x).sec = s.sec := rfl
@[simp] theorem lsSet_oe : (lsSet s n x).oe = s.oe := rfl
@[simp] theorem lsSet_ls : (lsSet s n x).ls = tset s.ls n x {} := rfl
@[simp] theorem lsSet_nor : (lsSet s n x).nor = s.nor := rfl
@[simp] theorem lsSet_cal : (lsSet s n x).cal = s.cal := rfl
@[simp] theorem lsSet_pl : (lsSet s n x).pl = s.pl := rfl
@[simp] theorem lsSet_spdmMctp : (lsSet s n x).spdmMctp = s.spdmMctp := rfl
@[simp] theorem lsSet_spdmPilot : (lsSet s n x).spdmPilot = s.spdmPilot := rfl
@[simp] theorem lsSet_dl : (lsSet s n x).dl = s.dl := rfl
@[simp] theorem lsSet_jtag : (lsSet s n x).jtag = s.jtag := rfl
@[simp] theorem lsSet_i3c : (lsSet s n x).i3c = s.i3c := rfl

end

section
variable (s : State) (ty slot copy : Nat) (v : CalCopy)

@[simp] theorem calSet_pending : (calSet s ty slot copy v).pending = s.pending := rfl
@[simp] theorem calSet_out : (calSet s ty slot copy v).out = s.out := rfl
@[simp] theorem calSet_freeCtr : (calSet s ty slot copy v).freeCtr = s.freeCtr := rfl
@[simp] theorem calSet_now : (calSet s ty slot copy v).now = s.now := rfl
@[simp] theorem calSet_regs : (calSet s ty slot copy v).regs = s.regs := rfl
@[simp] theorem calSet_cores : (calSet s ty slot copy v).cores = s.cores := rfl
@[simp] theorem calSet_mem : (calSet s ty slot copy v).mem = s.mem := rfl
@[simp] theorem calSet_mc : (calSet s ty slot copy v).mc = s.mc := rfl
@[simp] theorem calSet_sc : (calSet s ty slot copy v).sc = s.sc := rfl
@[simp] theorem calSet_berth : (calSet s ty slot copy v).berth = s.berth := rfl
@[simp] theorem calSet_elog : (calSet s ty slot copy v).elog = s.elog := rfl
@[simp] theorem calSet_events : (calSet s ty slot copy v).events = s.events := rfl
@[simp] theorem calSet_eventLost : (calSet s ty slot copy v).eventLost = s.eventLost := rfl
@[simp] theorem calSet_tide : (calSet s ty slot copy v).tide = s.tide := rfl
@[simp] theorem calSet_launch : (calSet s ty slot copy v).launch = s.launch := rfl
@[simp] theorem calSet_boll : (calSet s ty slot copy v).boll = s.boll := rfl
@[simp] theorem calSet_slack : (calSet s ty slot copy v).slack = s.slack := rfl
@[simp] theorem calSet_hm : (calSet s ty slot copy v).hm = s.hm := rfl
@[simp] theorem calSet_links : (calSet s ty slot copy v).links = s.links := rfl
@[simp] theorem calSet_trans : (calSet s ty slot copy v).trans = s.trans := rfl
@[simp] theorem calSet_guest : (calSet s ty slot copy v).guest = s.guest := rfl
@[simp] theorem calSet_pw : (calSet s ty slot copy v).pw = s.pw := rfl
@[simp] theorem calSet_tm : (calSet s ty slot copy v).tm = s.tm := rfl
@[simp] theorem calSet_red : (calSet s ty slot copy v).red = s.red := rfl
@[simp] theorem calSet_sec : (calSet s ty slot copy v).sec = s.sec := rfl
@[simp] theorem calSet_oe : (calSet s ty slot copy v).oe = s.oe := rfl
@[simp] theorem calSet_ls : (calSet s ty slot copy v).ls = s.ls := rfl
@[simp] theorem calSet_pl : (calSet s ty slot copy v).pl = s.pl := rfl
@[simp] theorem calSet_spdmMctp : (calSet s ty slot copy v).spdmMctp = s.spdmMctp := rfl
@[simp] theorem calSet_spdmPilot : (calSet s ty slot copy v).spdmPilot = s.spdmPilot := rfl
@[simp] theorem calSet_dl : (calSet s ty slot copy v).dl = s.dl := rfl
@[simp] theorem calSet_jtag : (calSet s ty slot copy v).jtag = s.jtag := rfl
@[simp] theorem calSet_i3c : (calSet s ty slot copy v).i3c = s.i3c := rfl

end

section
variable (s : State) (x : PwSt)

@[simp] theorem pwSet_pending : (pwSet s x).pending = s.pending := rfl
@[simp] theorem pwSet_out : (pwSet s x).out = s.out := rfl
@[simp] theorem pwSet_freeCtr : (pwSet s x).freeCtr = s.freeCtr := rfl
@[simp] theorem pwSet_now : (pwSet s x).now = s.now := rfl
@[simp] theorem pwSet_regs : (pwSet s x).regs = s.regs := rfl
@[simp] theorem pwSet_cores : (pwSet s x).cores = s.cores := rfl
@[simp] theorem pwSet_mem : (pwSet s x).mem = s.mem := rfl
@[simp] theorem pwSet_mc : (pwSet s x).mc = s.mc := rfl
@[simp] theorem pwSet_sc : (pwSet s x).sc = s.sc := rfl
@[simp] theorem pwSet_berth : (pwSet s x).berth = s.berth := rfl
@[simp] theorem pwSet_elog : (pwSet s x).elog = s.elog := rfl
@[simp] theorem pwSet_events : (pwSet s x).events = s.events := rfl
@[simp] theorem pwSet_eventLost : (pwSet s x).eventLost = s.eventLost := rfl
@[simp] theorem pwSet_tide : (pwSet s x).tide = s.tide := rfl
@[simp] theorem pwSet_launch : (pwSet s x).launch = s.launch := rfl
@[simp] theorem pwSet_boll : (pwSet s x).boll = s.boll := rfl
@[simp] theorem pwSet_slack : (pwSet s x).slack = s.slack := rfl
@[simp] theorem pwSet_hm : (pwSet s x).hm = s.hm := rfl
@[simp] theorem pwSet_links : (pwSet s x).links = s.links := rfl
@[simp] theorem pwSet_trans : (pwSet s x).trans = s.trans := rfl
@[simp] theorem pwSet_guest : (pwSet s x).guest = s.guest := rfl
@[simp] theorem pwSet_pw : (pwSet s x).pw = x := rfl
@[simp] theorem pwSet_tm : (pwSet s x).tm = s.tm := rfl
@[simp] theorem pwSet_red : (pwSet s x).red = s.red := rfl
@[simp] theorem pwSet_sec : (pwSet s x).sec = s.sec := rfl
@[simp] theorem pwSet_oe : (pwSet s x).oe = s.oe := rfl
@[simp] theorem pwSet_ls : (pwSet s x).ls = s.ls := rfl
@[simp] theorem pwSet_nor : (pwSet s x).nor = s.nor := rfl
@[simp] theorem pwSet_cal : (pwSet s x).cal = s.cal := rfl
@[simp] theorem pwSet_pl : (pwSet s x).pl = s.pl := rfl
@[simp] theorem pwSet_spdmMctp : (pwSet s x).spdmMctp = s.spdmMctp := rfl
@[simp] theorem pwSet_spdmPilot : (pwSet s x).spdmPilot = s.spdmPilot := rfl
@[simp] theorem pwSet_dl : (pwSet s x).dl = s.dl := rfl
@[simp] theorem pwSet_jtag : (pwSet s x).jtag = s.jtag := rfl
@[simp] theorem pwSet_i3c : (pwSet s x).i3c = s.i3c := rfl

end

section
variable (s : State) (f : PwSt → PwSt)

@[simp] theorem pwMod_pending : (pwMod s f).pending = s.pending := rfl
@[simp] theorem pwMod_out : (pwMod s f).out = s.out := rfl
@[simp] theorem pwMod_freeCtr : (pwMod s f).freeCtr = s.freeCtr := rfl
@[simp] theorem pwMod_now : (pwMod s f).now = s.now := rfl
@[simp] theorem pwMod_regs : (pwMod s f).regs = s.regs := rfl
@[simp] theorem pwMod_cores : (pwMod s f).cores = s.cores := rfl
@[simp] theorem pwMod_mem : (pwMod s f).mem = s.mem := rfl
@[simp] theorem pwMod_mc : (pwMod s f).mc = s.mc := rfl
@[simp] theorem pwMod_sc : (pwMod s f).sc = s.sc := rfl
@[simp] theorem pwMod_berth : (pwMod s f).berth = s.berth := rfl
@[simp] theorem pwMod_elog : (pwMod s f).elog = s.elog := rfl
@[simp] theorem pwMod_events : (pwMod s f).events = s.events := rfl
@[simp] theorem pwMod_eventLost : (pwMod s f).eventLost = s.eventLost := rfl
@[simp] theorem pwMod_tide : (pwMod s f).tide = s.tide := rfl
@[simp] theorem pwMod_launch : (pwMod s f).launch = s.launch := rfl
@[simp] theorem pwMod_boll : (pwMod s f).boll = s.boll := rfl
@[simp] theorem pwMod_slack : (pwMod s f).slack = s.slack := rfl
@[simp] theorem pwMod_hm : (pwMod s f).hm = s.hm := rfl
@[simp] theorem pwMod_links : (pwMod s f).links = s.links := rfl
@[simp] theorem pwMod_trans : (pwMod s f).trans = s.trans := rfl
@[simp] theorem pwMod_guest : (pwMod s f).guest = s.guest := rfl
@[simp] theorem pwMod_pw : (pwMod s f).pw = f s.pw := rfl
@[simp] theorem pwMod_tm : (pwMod s f).tm = s.tm := rfl
@[simp] theorem pwMod_red : (pwMod s f).red = s.red := rfl
@[simp] theorem pwMod_sec : (pwMod s f).sec = s.sec := rfl
@[simp] theorem pwMod_oe : (pwMod s f).oe = s.oe := rfl
@[simp] theorem pwMod_ls : (pwMod s f).ls = s.ls := rfl
@[simp] theorem pwMod_nor : (pwMod s f).nor = s.nor := rfl
@[simp] theorem pwMod_cal : (pwMod s f).cal = s.cal := rfl
@[simp] theorem pwMod_pl : (pwMod s f).pl = s.pl := rfl
@[simp] theorem pwMod_spdmMctp : (pwMod s f).spdmMctp = s.spdmMctp := rfl
@[simp] theorem pwMod_spdmPilot : (pwMod s f).spdmPilot = s.spdmPilot := rfl
@[simp] theorem pwMod_dl : (pwMod s f).dl = s.dl := rfl
@[simp] theorem pwMod_jtag : (pwMod s f).jtag = s.jtag := rfl
@[simp] theorem pwMod_i3c : (pwMod s f).i3c = s.i3c := rfl

end

section
variable (s : State) (ch : Nat) (x : ChanSt)

@[simp] theorem chanSet_pending : (chanSet s ch x).pending = s.pending := rfl
@[simp] theorem chanSet_out : (chanSet s ch x).out = s.out := rfl
@[simp] theorem chanSet_freeCtr : (chanSet s ch x).freeCtr = s.freeCtr := rfl
@[simp] theorem chanSet_now : (chanSet s ch x).now = s.now := rfl
@[simp] theorem chanSet_regs : (chanSet s ch x).regs = s.regs := rfl
@[simp] theorem chanSet_cores : (chanSet s ch x).cores = s.cores := rfl
@[simp] theorem chanSet_mem : (chanSet s ch x).mem = s.mem := rfl
@[simp] theorem chanSet_mc : (chanSet s ch x).mc = s.mc := rfl
@[simp] theorem chanSet_sc : (chanSet s ch x).sc = s.sc := rfl
@[simp] theorem chanSet_berth : (chanSet s ch x).berth = s.berth := rfl
@[simp] theorem chanSet_elog : (chanSet s ch x).elog = s.elog := rfl
@[simp] theorem chanSet_events : (chanSet s ch x).events = s.events := rfl
@[simp] theorem chanSet_eventLost : (chanSet s ch x).eventLost = s.eventLost := rfl
@[simp] theorem chanSet_tide : (chanSet s ch x).tide = s.tide := rfl
@[simp] theorem chanSet_launch : (chanSet s ch x).launch = s.launch := rfl
@[simp] theorem chanSet_boll : (chanSet s ch x).boll = s.boll := rfl
@[simp] theorem chanSet_slack : (chanSet s ch x).slack = s.slack := rfl
@[simp] theorem chanSet_hm : (chanSet s ch x).hm = s.hm := rfl
@[simp] theorem chanSet_links : (chanSet s ch x).links = s.links := rfl
@[simp] theorem chanSet_trans : (chanSet s ch x).trans = s.trans := rfl
@[simp] theorem chanSet_guest : (chanSet s ch x).guest = s.guest := rfl
@[simp] theorem chanSet_pw : (chanSet s ch x).pw = s.pw := rfl
@[simp] theorem chanSet_tm : (chanSet s ch x).tm = { s.tm with ch := tset s.tm.ch ch x {} } := rfl
@[simp] theorem chanSet_red : (chanSet s ch x).red = s.red := rfl
@[simp] theorem chanSet_sec : (chanSet s ch x).sec = s.sec := rfl
@[simp] theorem chanSet_oe : (chanSet s ch x).oe = s.oe := rfl
@[simp] theorem chanSet_ls : (chanSet s ch x).ls = s.ls := rfl
@[simp] theorem chanSet_nor : (chanSet s ch x).nor = s.nor := rfl
@[simp] theorem chanSet_cal : (chanSet s ch x).cal = s.cal := rfl
@[simp] theorem chanSet_pl : (chanSet s ch x).pl = s.pl := rfl
@[simp] theorem chanSet_spdmMctp : (chanSet s ch x).spdmMctp = s.spdmMctp := rfl
@[simp] theorem chanSet_spdmPilot : (chanSet s ch x).spdmPilot = s.spdmPilot := rfl
@[simp] theorem chanSet_dl : (chanSet s ch x).dl = s.dl := rfl
@[simp] theorem chanSet_jtag : (chanSet s ch x).jtag = s.jtag := rfl
@[simp] theorem chanSet_i3c : (chanSet s ch x).i3c = s.i3c := rfl

end

section
variable (s : State) (r : RedSt)

@[simp] theorem redSet_pending : (redSet s r).pending = s.pending := rfl
@[simp] theorem redSet_out : (redSet s r).out = s.out := rfl
@[simp] theorem redSet_freeCtr : (redSet s r).freeCtr = s.freeCtr := rfl
@[simp] theorem redSet_now : (redSet s r).now = s.now := rfl
@[simp] theorem redSet_regs : (redSet s r).regs = s.regs := rfl
@[simp] theorem redSet_cores : (redSet s r).cores = s.cores := rfl
@[simp] theorem redSet_mem : (redSet s r).mem = s.mem := rfl
@[simp] theorem redSet_mc : (redSet s r).mc = s.mc := rfl
@[simp] theorem redSet_sc : (redSet s r).sc = s.sc := rfl
@[simp] theorem redSet_berth : (redSet s r).berth = s.berth := rfl
@[simp] theorem redSet_elog : (redSet s r).elog = s.elog := rfl
@[simp] theorem redSet_events : (redSet s r).events = s.events := rfl
@[simp] theorem redSet_eventLost : (redSet s r).eventLost = s.eventLost := rfl
@[simp] theorem redSet_tide : (redSet s r).tide = s.tide := rfl
@[simp] theorem redSet_launch : (redSet s r).launch = s.launch := rfl
@[simp] theorem redSet_boll : (redSet s r).boll = s.boll := rfl
@[simp] theorem redSet_slack : (redSet s r).slack = s.slack := rfl
@[simp] theorem redSet_hm : (redSet s r).hm = s.hm := rfl
@[simp] theorem redSet_links : (redSet s r).links = s.links := rfl
@[simp] theorem redSet_trans : (redSet s r).trans = s.trans := rfl
@[simp] theorem redSet_guest : (redSet s r).guest = s.guest := rfl
@[simp] theorem redSet_pw : (redSet s r).pw = s.pw := rfl
@[simp] theorem redSet_tm : (redSet s r).tm = s.tm := rfl
@[simp] theorem redSet_red : (redSet s r).red = r := rfl
@[simp] theorem redSet_sec : (redSet s r).sec = s.sec := rfl
@[simp] theorem redSet_oe : (redSet s r).oe = s.oe := rfl
@[simp] theorem redSet_ls : (redSet s r).ls = s.ls := rfl
@[simp] theorem redSet_nor : (redSet s r).nor = s.nor := rfl
@[simp] theorem redSet_cal : (redSet s r).cal = s.cal := rfl
@[simp] theorem redSet_pl : (redSet s r).pl = s.pl := rfl
@[simp] theorem redSet_spdmMctp : (redSet s r).spdmMctp = s.spdmMctp := rfl
@[simp] theorem redSet_spdmPilot : (redSet s r).spdmPilot = s.spdmPilot := rfl
@[simp] theorem redSet_dl : (redSet s r).dl = s.dl := rfl
@[simp] theorem redSet_jtag : (redSet s r).jtag = s.jtag := rfl
@[simp] theorem redSet_i3c : (redSet s r).i3c = s.i3c := rfl

end

section
variable (s : State) (x : SecSt)

@[simp] theorem secSet_pending : (secSet s x).pending = s.pending := rfl
@[simp] theorem secSet_out : (secSet s x).out = s.out := rfl
@[simp] theorem secSet_freeCtr : (secSet s x).freeCtr = s.freeCtr := rfl
@[simp] theorem secSet_now : (secSet s x).now = s.now := rfl
@[simp] theorem secSet_regs : (secSet s x).regs = s.regs := rfl
@[simp] theorem secSet_cores : (secSet s x).cores = s.cores := rfl
@[simp] theorem secSet_mem : (secSet s x).mem = s.mem := rfl
@[simp] theorem secSet_mc : (secSet s x).mc = s.mc := rfl
@[simp] theorem secSet_sc : (secSet s x).sc = s.sc := rfl
@[simp] theorem secSet_berth : (secSet s x).berth = s.berth := rfl
@[simp] theorem secSet_elog : (secSet s x).elog = s.elog := rfl
@[simp] theorem secSet_events : (secSet s x).events = s.events := rfl
@[simp] theorem secSet_eventLost : (secSet s x).eventLost = s.eventLost := rfl
@[simp] theorem secSet_tide : (secSet s x).tide = s.tide := rfl
@[simp] theorem secSet_launch : (secSet s x).launch = s.launch := rfl
@[simp] theorem secSet_boll : (secSet s x).boll = s.boll := rfl
@[simp] theorem secSet_slack : (secSet s x).slack = s.slack := rfl
@[simp] theorem secSet_hm : (secSet s x).hm = s.hm := rfl
@[simp] theorem secSet_links : (secSet s x).links = s.links := rfl
@[simp] theorem secSet_trans : (secSet s x).trans = s.trans := rfl
@[simp] theorem secSet_guest : (secSet s x).guest = s.guest := rfl
@[simp] theorem secSet_pw : (secSet s x).pw = s.pw := rfl
@[simp] theorem secSet_tm : (secSet s x).tm = s.tm := rfl
@[simp] theorem secSet_red : (secSet s x).red = s.red := rfl
@[simp] theorem secSet_sec : (secSet s x).sec = x := rfl
@[simp] theorem secSet_oe : (secSet s x).oe = s.oe := rfl
@[simp] theorem secSet_ls : (secSet s x).ls = s.ls := rfl
@[simp] theorem secSet_nor : (secSet s x).nor = s.nor := rfl
@[simp] theorem secSet_cal : (secSet s x).cal = s.cal := rfl
@[simp] theorem secSet_pl : (secSet s x).pl = s.pl := rfl
@[simp] theorem secSet_spdmMctp : (secSet s x).spdmMctp = s.spdmMctp := rfl
@[simp] theorem secSet_spdmPilot : (secSet s x).spdmPilot = s.spdmPilot := rfl
@[simp] theorem secSet_dl : (secSet s x).dl = s.dl := rfl
@[simp] theorem secSet_jtag : (secSet s x).jtag = s.jtag := rfl
@[simp] theorem secSet_i3c : (secSet s x).i3c = s.i3c := rfl

end

section
variable (s : State) (f : SecSt → SecSt)

@[simp] theorem secMod_pending : (secMod s f).pending = s.pending := rfl
@[simp] theorem secMod_out : (secMod s f).out = s.out := rfl
@[simp] theorem secMod_freeCtr : (secMod s f).freeCtr = s.freeCtr := rfl
@[simp] theorem secMod_now : (secMod s f).now = s.now := rfl
@[simp] theorem secMod_regs : (secMod s f).regs = s.regs := rfl
@[simp] theorem secMod_cores : (secMod s f).cores = s.cores := rfl
@[simp] theorem secMod_mem : (secMod s f).mem = s.mem := rfl
@[simp] theorem secMod_mc : (secMod s f).mc = s.mc := rfl
@[simp] theorem secMod_sc : (secMod s f).sc = s.sc := rfl
@[simp] theorem secMod_berth : (secMod s f).berth = s.berth := rfl
@[simp] theorem secMod_elog : (secMod s f).elog = s.elog := rfl
@[simp] theorem secMod_events : (secMod s f).events = s.events := rfl
@[simp] theorem secMod_eventLost : (secMod s f).eventLost = s.eventLost := rfl
@[simp] theorem secMod_tide : (secMod s f).tide = s.tide := rfl
@[simp] theorem secMod_launch : (secMod s f).launch = s.launch := rfl
@[simp] theorem secMod_boll : (secMod s f).boll = s.boll := rfl
@[simp] theorem secMod_slack : (secMod s f).slack = s.slack := rfl
@[simp] theorem secMod_hm : (secMod s f).hm = s.hm := rfl
@[simp] theorem secMod_links : (secMod s f).links = s.links := rfl
@[simp] theorem secMod_trans : (secMod s f).trans = s.trans := rfl
@[simp] theorem secMod_guest : (secMod s f).guest = s.guest := rfl
@[simp] theorem secMod_pw : (secMod s f).pw = s.pw := rfl
@[simp] theorem secMod_tm : (secMod s f).tm = s.tm := rfl
@[simp] theorem secMod_red : (secMod s f).red = s.red := rfl
@[simp] theorem secMod_sec : (secMod s f).sec = f s.sec := rfl
@[simp] theorem secMod_oe : (secMod s f).oe = s.oe := rfl
@[simp] theorem secMod_ls : (secMod s f).ls = s.ls := rfl
@[simp] theorem secMod_nor : (secMod s f).nor = s.nor := rfl
@[simp] theorem secMod_cal : (secMod s f).cal = s.cal := rfl
@[simp] theorem secMod_pl : (secMod s f).pl = s.pl := rfl
@[simp] theorem secMod_spdmMctp : (secMod s f).spdmMctp = s.spdmMctp := rfl
@[simp] theorem secMod_spdmPilot : (secMod s f).spdmPilot = s.spdmPilot := rfl
@[simp] theorem secMod_dl : (secMod s f).dl = s.dl := rfl
@[simp] theorem secMod_jtag : (secMod s f).jtag = s.jtag := rfl
@[simp] theorem secMod_i3c : (secMod s f).i3c = s.i3c := rfl

end

section
variable (s : State) (src : Nat) (x : Option PilotAsm)

@[simp] theorem asmSet_pending : (asmSet s src x).pending = s.pending := rfl
@[simp] theorem asmSet_out : (asmSet s src x).out = s.out := rfl
@[simp] theorem asmSet_freeCtr : (asmSet s src x).freeCtr = s.freeCtr := rfl
@[simp] theorem asmSet_now : (asmSet s src x).now = s.now := rfl
@[simp] theorem asmSet_regs : (asmSet s src x).regs = s.regs := rfl
@[simp] theorem asmSet_cores : (asmSet s src x).cores = s.cores := rfl
@[simp] theorem asmSet_mem : (asmSet s src x).mem = s.mem := rfl
@[simp] theorem asmSet_mc : (asmSet s src x).mc = s.mc := rfl
@[simp] theorem asmSet_sc : (asmSet s src x).sc = s.sc := rfl
@[simp] theorem asmSet_berth : (asmSet s src x).berth = s.berth := rfl
@[simp] theorem asmSet_elog : (asmSet s src x).elog = s.elog := rfl
@[simp] theorem asmSet_events : (asmSet s src x).events = s.events := rfl
@[simp] theorem asmSet_eventLost : (asmSet s src x).eventLost = s.eventLost := rfl
@[simp] theorem asmSet_tide : (asmSet s src x).tide = s.tide := rfl
@[simp] theorem asmSet_launch : (asmSet s src x).launch = s.launch := rfl
@[simp] theorem asmSet_boll : (asmSet s src x).boll = s.boll := rfl
@[simp] theorem asmSet_slack : (asmSet s src x).slack = s.slack := rfl
@[simp] theorem asmSet_hm : (asmSet s src x).hm = s.hm := rfl
@[simp] theorem asmSet_links : (asmSet s src x).links = s.links := rfl
@[simp] theorem asmSet_trans : (asmSet s src x).trans = s.trans := rfl
@[simp] theorem asmSet_guest : (asmSet s src x).guest = s.guest := rfl
@[simp] theorem asmSet_pw : (asmSet s src x).pw = s.pw := rfl
@[simp] theorem asmSet_tm : (asmSet s src x).tm = s.tm := rfl
@[simp] theorem asmSet_red : (asmSet s src x).red = s.red := rfl
@[simp] theorem asmSet_sec : (asmSet s src x).sec = s.sec := rfl
@[simp] theorem asmSet_oe : (asmSet s src x).oe = s.oe := rfl
@[simp] theorem asmSet_ls : (asmSet s src x).ls = s.ls := rfl
@[simp] theorem asmSet_nor : (asmSet s src x).nor = s.nor := rfl
@[simp] theorem asmSet_cal : (asmSet s src x).cal = s.cal := rfl
@[simp] theorem asmSet_spdmMctp : (asmSet s src x).spdmMctp = s.spdmMctp := rfl
@[simp] theorem asmSet_spdmPilot : (asmSet s src x).spdmPilot = s.spdmPilot := rfl
@[simp] theorem asmSet_dl : (asmSet s src x).dl = s.dl := rfl
@[simp] theorem asmSet_jtag : (asmSet s src x).jtag = s.jtag := rfl
@[simp] theorem asmSet_i3c : (asmSet s src x).i3c = s.i3c := rfl

end

section
variable (s : State) (p : Option (Nat × Nat))

@[simp] theorem setPoll_pending : (setPoll s p).pending = s.pending := rfl
@[simp] theorem setPoll_out : (setPoll s p).out = s.out := rfl
@[simp] theorem setPoll_freeCtr : (setPoll s p).freeCtr = s.freeCtr := rfl
@[simp] theorem setPoll_now : (setPoll s p).now = s.now := rfl
@[simp] theorem setPoll_regs : (setPoll s p).regs = s.regs := rfl
@[simp] theorem setPoll_cores : (setPoll s p).cores = s.cores := rfl
@[simp] theorem setPoll_mem : (setPoll s p).mem = s.mem := rfl
@[simp] theorem setPoll_mc : (setPoll s p).mc = s.mc := rfl
@[simp] theorem setPoll_sc : (setPoll s p).sc = s.sc := rfl
@[simp] theorem setPoll_berth : (setPoll s p).berth = s.berth := rfl
@[simp] theorem setPoll_elog : (setPoll s p).elog = s.elog := rfl
@[simp] theorem setPoll_events : (setPoll s p).events = s.events := rfl
@[simp] theorem setPoll_eventLost : (setPoll s p).eventLost = s.eventLost := rfl
@[simp] theorem setPoll_tide : (setPoll s p).tide = s.tide := rfl
@[simp] theorem setPoll_launch : (setPoll s p).launch = s.launch := rfl
@[simp] theorem setPoll_boll : (setPoll s p).boll = s.boll := rfl
@[simp] theorem setPoll_slack : (setPoll s p).slack = s.slack := rfl
@[simp] theorem setPoll_hm : (setPoll s p).hm = s.hm := rfl
@[simp] theorem setPoll_links : (setPoll s p).links = s.links := rfl
@[simp] theorem setPoll_trans : (setPoll s p).trans = s.trans := rfl
@[simp] theorem setPoll_guest : (setPoll s p).guest = s.guest := rfl
@[simp] theorem setPoll_pw : (setPoll s p).pw = s.pw := rfl
@[simp] theorem setPoll_tm : (setPoll s p).tm = s.tm := rfl
@[simp] theorem setPoll_red : (setPoll s p).red = s.red := rfl
@[simp] theorem setPoll_sec : (setPoll s p).sec = s.sec := rfl
@[simp] theorem setPoll_oe : (setPoll s p).oe = s.oe := rfl
@[simp] theorem setPoll_ls : (setPoll s p).ls = s.ls := rfl
@[simp] theorem setPoll_nor : (setPoll s p).nor = s.nor := rfl
@[simp] theorem setPoll_cal : (setPoll s p).cal = s.cal := rfl
@[simp] theorem setPoll_spdmMctp : (setPoll s p).spdmMctp = s.spdmMctp := rfl
@[simp] theorem setPoll_spdmPilot : (setPoll s p).spdmPilot = s.spdmPilot := rfl
@[simp] theorem setPoll_dl : (setPoll s p).dl = s.dl := rfl
@[simp] theorem setPoll_jtag : (setPoll s p).jtag = s.jtag := rfl
@[simp] theorem setPoll_i3c : (setPoll s p).i3c = s.i3c := rfl

end

section
variable (s : State) (l : List PMsg)

@[simp] theorem setTodo_pending : (setTodo s l).pending = s.pending := rfl
@[simp] theorem setTodo_out : (setTodo s l).out = s.out := rfl
@[simp] theorem setTodo_freeCtr : (setTodo s l).freeCtr = s.freeCtr := rfl
@[simp] theorem setTodo_now : (setTodo s l).now = s.now := rfl
@[simp] theorem setTodo_regs : (setTodo s l).regs = s.regs := rfl
@[simp] theorem setTodo_cores : (setTodo s l).cores = s.cores := rfl
@[simp] theorem setTodo_mem : (setTodo s l).mem = s.mem := rfl
@[simp] theorem setTodo_mc : (setTodo s l).mc = s.mc := rfl
@[simp] theorem setTodo_sc : (setTodo s l).sc = s.sc := rfl
@[simp] theorem setTodo_berth : (setTodo s l).berth = s.berth := rfl
@[simp] theorem setTodo_elog : (setTodo s l).elog = s.elog := rfl
@[simp] theorem setTodo_events : (setTodo s l).events = s.events := rfl
@[simp] theorem setTodo_eventLost : (setTodo s l).eventLost = s.eventLost := rfl
@[simp] theorem setTodo_tide : (setTodo s l).tide = s.tide := rfl
@[simp] theorem setTodo_launch : (setTodo s l).launch = s.launch := rfl
@[simp] theorem setTodo_boll : (setTodo s l).boll = s.boll := rfl
@[simp] theorem setTodo_slack : (setTodo s l).slack = s.slack := rfl
@[simp] theorem setTodo_hm : (setTodo s l).hm = s.hm := rfl
@[simp] theorem setTodo_links : (setTodo s l).links = s.links := rfl
@[simp] theorem setTodo_trans : (setTodo s l).trans = s.trans := rfl
@[simp] theorem setTodo_guest : (setTodo s l).guest = s.guest := rfl
@[simp] theorem setTodo_pw : (setTodo s l).pw = s.pw := rfl
@[simp] theorem setTodo_tm : (setTodo s l).tm = s.tm := rfl
@[simp] theorem setTodo_red : (setTodo s l).red = s.red := rfl
@[simp] theorem setTodo_sec : (setTodo s l).sec = s.sec := rfl
@[simp] theorem setTodo_oe : (setTodo s l).oe = s.oe := rfl
@[simp] theorem setTodo_ls : (setTodo s l).ls = s.ls := rfl
@[simp] theorem setTodo_nor : (setTodo s l).nor = s.nor := rfl
@[simp] theorem setTodo_cal : (setTodo s l).cal = s.cal := rfl
@[simp] theorem setTodo_spdmMctp : (setTodo s l).spdmMctp = s.spdmMctp := rfl
@[simp] theorem setTodo_spdmPilot : (setTodo s l).spdmPilot = s.spdmPilot := rfl
@[simp] theorem setTodo_dl : (setTodo s l).dl = s.dl := rfl
@[simp] theorem setTodo_jtag : (setTodo s l).jtag = s.jtag := rfl
@[simp] theorem setTodo_i3c : (setTodo s l).i3c = s.i3c := rfl

end

/-- Register writes in a row change registers only. -/
theorem rset_foldl_frame (l : List (Nat × Word)) (s : State) :
    l.foldl (fun t c => rset t c.1 c.2) s = { s with regs := (l.foldl (fun t c => rset t c.1 c.2) s).regs } := by
  induction l generalizing s with
  | nil => rfl
  | cons c r ih => rw [List.foldl_cons, ih]; rfl

section
variable (s : State) (t : Transport) (x : SpdmSt)

@[simp] theorem connSet_pending : (connSet s t x).pending = s.pending := by cases t <;> rfl
@[simp] theorem connSet_out : (connSet s t x).out = s.out := by cases t <;> rfl
@[simp] theorem connSet_freeCtr : (connSet s t x).freeCtr = s.freeCtr := by cases t <;> rfl
@[simp] theorem connSet_now : (connSet s t x).now = s.now := by cases t <;> rfl
@[simp] theorem connSet_regs : (connSet s t x).regs = s.regs := by cases t <;> rfl
@[simp] theorem connSet_cores : (connSet s t x).cores = s.cores := by cases t <;> rfl
@[simp] theorem connSet_mem : (connSet s t x).mem = s.mem := by cases t <;> rfl
@[simp] theorem connSet_mc : (connSet s t x).mc = s.mc := by cases t <;> rfl
@[simp] theorem connSet_sc : (connSet s t x).sc = s.sc := by cases t <;> rfl
@[simp] theorem connSet_berth : (connSet s t x).berth = s.berth := by cases t <;> rfl
@[simp] theorem connSet_elog : (connSet s t x).elog = s.elog := by cases t <;> rfl
@[simp] theorem connSet_events : (connSet s t x).events = s.events := by cases t <;> rfl
@[simp] theorem connSet_eventLost : (connSet s t x).eventLost = s.eventLost := by cases t <;> rfl
@[simp] theorem connSet_tide : (connSet s t x).tide = s.tide := by cases t <;> rfl
@[simp] theorem connSet_launch : (connSet s t x).launch = s.launch := by cases t <;> rfl
@[simp] theorem connSet_boll : (connSet s t x).boll = s.boll := by cases t <;> rfl
@[simp] theorem connSet_slack : (connSet s t x).slack = s.slack := by cases t <;> rfl
@[simp] theorem connSet_hm : (connSet s t x).hm = s.hm := by cases t <;> rfl
@[simp] theorem connSet_links : (connSet s t x).links = s.links := by cases t <;> rfl
@[simp] theorem connSet_trans : (connSet s t x).trans = s.trans := by cases t <;> rfl
@[simp] theorem connSet_guest : (connSet s t x).guest = s.guest := by cases t <;> rfl
@[simp] theorem connSet_pw : (connSet s t x).pw = s.pw := by cases t <;> rfl
@[simp] theorem connSet_tm : (connSet s t x).tm = s.tm := by cases t <;> rfl
@[simp] theorem connSet_red : (connSet s t x).red = s.red := by cases t <;> rfl
@[simp] theorem connSet_sec : (connSet s t x).sec = s.sec := by cases t <;> rfl
@[simp] theorem connSet_oe : (connSet s t x).oe = s.oe := by cases t <;> rfl
@[simp] theorem connSet_ls : (connSet s t x).ls = s.ls := by cases t <;> rfl
@[simp] theorem connSet_nor : (connSet s t x).nor = s.nor := by cases t <;> rfl
@[simp] theorem connSet_cal : (connSet s t x).cal = s.cal := by cases t <;> rfl
@[simp] theorem connSet_pl : (connSet s t x).pl = s.pl := by cases t <;> rfl
@[simp] theorem connSet_dl : (connSet s t x).dl = s.dl := by cases t <;> rfl
@[simp] theorem connSet_jtag : (connSet s t x).jtag = s.jtag := by cases t <;> rfl
@[simp] theorem connSet_i3c : (connSet s t x).i3c = s.i3c := by cases t <;> rfl

end

section
variable (s : State) (off : Nat) (v : Word) (l : List (Nat × Word))

@[simp] theorem logCapture_pending : (logCapture s off v l).pending = s.pending := by unfold logCapture; split <;> [(rw [rset_foldl_frame]; rfl); rfl]
@[simp] theorem logCapture_out : (logCapture s off v l).out = s.out := by unfold logCapture; split <;> [(rw [rset_foldl_frame]; rfl); rfl]
@[simp] theorem logCapture_freeCtr : (logCapture s off v l).freeCtr = s.freeCtr := by unfold logCapture; split <;> [(rw [rset_foldl_frame]; rfl); rfl]
@[simp] theorem logCapture_now : (logCapture s off v l).now = s.now := by unfold logCapture; split <;> [(rw [rset_foldl_frame]; rfl); rfl]
@[simp] theorem logCapture_cores : (logCapture s off v l).cores = s.cores := by unfold logCapture; split <;> [(rw [rset_foldl_frame]; rfl); rfl]
@[simp] theorem logCapture_mem : (logCapture s off v l).mem = s.mem := by unfold logCapture; split <;> [(rw [rset_foldl_frame]; rfl); rfl]
@[simp] theorem logCapture_mc : (logCapture s off v l).mc = s.mc := by unfold logCapture; split <;> [(rw [rset_foldl_frame]; rfl); rfl]
@[simp] theorem logCapture_sc : (logCapture s off v l).sc = s.sc := by unfold logCapture; split <;> [(rw [rset_foldl_frame]; rfl); rfl]
@[simp] theorem logCapture_berth : (logCapture s off v l).berth = s.berth := by unfold logCapture; split <;> [(rw [rset_foldl_frame]; rfl); rfl]
@[simp] theorem logCapture_elog : (logCapture s off v l).elog = s.elog := by unfold logCapture; split <;> [(rw [rset_foldl_frame]; rfl); rfl]
@[simp] theorem logCapture_events : (logCapture s off v l).events = s.events := by unfold logCapture; split <;> [(rw [rset_foldl_frame]; rfl); rfl]
@[simp] theorem logCapture_eventLost : (logCapture s off v l).eventLost = s.eventLost := by unfold logCapture; split <;> [(rw [rset_foldl_frame]; rfl); rfl]
@[simp] theorem logCapture_tide : (logCapture s off v l).tide = s.tide := by unfold logCapture; split <;> [(rw [rset_foldl_frame]; rfl); rfl]
@[simp] theorem logCapture_launch : (logCapture s off v l).launch = s.launch := by unfold logCapture; split <;> [(rw [rset_foldl_frame]; rfl); rfl]
@[simp] theorem logCapture_boll : (logCapture s off v l).boll = s.boll := by unfold logCapture; split <;> [(rw [rset_foldl_frame]; rfl); rfl]
@[simp] theorem logCapture_slack : (logCapture s off v l).slack = s.slack := by unfold logCapture; split <;> [(rw [rset_foldl_frame]; rfl); rfl]
@[simp] theorem logCapture_hm : (logCapture s off v l).hm = s.hm := by unfold logCapture; split <;> [(rw [rset_foldl_frame]; rfl); rfl]
@[simp] theorem logCapture_links : (logCapture s off v l).links = s.links := by unfold logCapture; split <;> [(rw [rset_foldl_frame]; rfl); rfl]
@[simp] theorem logCapture_trans : (logCapture s off v l).trans = s.trans := by unfold logCapture; split <;> [(rw [rset_foldl_frame]; rfl); rfl]
@[simp] theorem logCapture_guest : (logCapture s off v l).guest = s.guest := by unfold logCapture; split <;> [(rw [rset_foldl_frame]; rfl); rfl]
@[simp] theorem logCapture_pw : (logCapture s off v l).pw = s.pw := by unfold logCapture; split <;> [(rw [rset_foldl_frame]; rfl); rfl]
@[simp] theorem logCapture_tm : (logCapture s off v l).tm = s.tm := by unfold logCapture; split <;> [(rw [rset_foldl_frame]; rfl); rfl]
@[simp] theorem logCapture_red : (logCapture s off v l).red = s.red := by unfold logCapture; split <;> [(rw [rset_foldl_frame]; rfl); rfl]
@[simp] theorem logCapture_sec : (logCapture s off v l).sec = s.sec := by unfold logCapture; split <;> [(rw [rset_foldl_frame]; rfl); rfl]
@[simp] theorem logCapture_oe : (logCapture s off v l).oe = s.oe := by unfold logCapture; split <;> [(rw [rset_foldl_frame]; rfl); rfl]
@[simp] theorem logCapture_ls : (logCapture s off v l).ls = s.ls := by unfold logCapture; split <;> [(rw [rset_foldl_frame]; rfl); rfl]
@[simp] theorem logCapture_nor : (logCapture s off v l).nor = s.nor := by unfold logCapture; split <;> [(rw [rset_foldl_frame]; rfl); rfl]
@[simp] theorem logCapture_cal : (logCapture s off v l).cal = s.cal := by unfold logCapture; split <;> [(rw [rset_foldl_frame]; rfl); rfl]
@[simp] theorem logCapture_pl : (logCapture s off v l).pl = s.pl := by unfold logCapture; split <;> [(rw [rset_foldl_frame]; rfl); rfl]
@[simp] theorem logCapture_spdmMctp : (logCapture s off v l).spdmMctp = s.spdmMctp := by unfold logCapture; split <;> [(rw [rset_foldl_frame]; rfl); rfl]
@[simp] theorem logCapture_spdmPilot : (logCapture s off v l).spdmPilot = s.spdmPilot := by unfold logCapture; split <;> [(rw [rset_foldl_frame]; rfl); rfl]
@[simp] theorem logCapture_dl : (logCapture s off v l).dl = s.dl := by unfold logCapture; split <;> [(rw [rset_foldl_frame]; rfl); rfl]
@[simp] theorem logCapture_jtag : (logCapture s off v l).jtag = s.jtag := by unfold logCapture; split <;> [(rw [rset_foldl_frame]; rfl); rfl]
@[simp] theorem logCapture_i3c : (logCapture s off v l).i3c = s.i3c := by unfold logCapture; split <;> [(rw [rset_foldl_frame]; rfl); rfl]

end

section
variable (s : State) (off : Nat) (lo hi : Word)

@[simp] theorem logCapture64_pending : (logCapture64 s off lo hi).pending = s.pending := by unfold logCapture64; split <;> rfl
@[simp] theorem logCapture64_out : (logCapture64 s off lo hi).out = s.out := by unfold logCapture64; split <;> rfl
@[simp] theorem logCapture64_freeCtr : (logCapture64 s off lo hi).freeCtr = s.freeCtr := by unfold logCapture64; split <;> rfl
@[simp] theorem logCapture64_now : (logCapture64 s off lo hi).now = s.now := by unfold logCapture64; split <;> rfl
@[simp] theorem logCapture64_cores : (logCapture64 s off lo hi).cores = s.cores := by unfold logCapture64; split <;> rfl
@[simp] theorem logCapture64_mem : (logCapture64 s off lo hi).mem = s.mem := by unfold logCapture64; split <;> rfl
@[simp] theorem logCapture64_mc : (logCapture64 s off lo hi).mc = s.mc := by unfold logCapture64; split <;> rfl
@[simp] theorem logCapture64_sc : (logCapture64 s off lo hi).sc = s.sc := by unfold logCapture64; split <;> rfl
@[simp] theorem logCapture64_berth : (logCapture64 s off lo hi).berth = s.berth := by unfold logCapture64; split <;> rfl
@[simp] theorem logCapture64_elog : (logCapture64 s off lo hi).elog = s.elog := by unfold logCapture64; split <;> rfl
@[simp] theorem logCapture64_events : (logCapture64 s off lo hi).events = s.events := by unfold logCapture64; split <;> rfl
@[simp] theorem logCapture64_eventLost : (logCapture64 s off lo hi).eventLost = s.eventLost := by unfold logCapture64; split <;> rfl
@[simp] theorem logCapture64_tide : (logCapture64 s off lo hi).tide = s.tide := by unfold logCapture64; split <;> rfl
@[simp] theorem logCapture64_launch : (logCapture64 s off lo hi).launch = s.launch := by unfold logCapture64; split <;> rfl
@[simp] theorem logCapture64_boll : (logCapture64 s off lo hi).boll = s.boll := by unfold logCapture64; split <;> rfl
@[simp] theorem logCapture64_slack : (logCapture64 s off lo hi).slack = s.slack := by unfold logCapture64; split <;> rfl
@[simp] theorem logCapture64_hm : (logCapture64 s off lo hi).hm = s.hm := by unfold logCapture64; split <;> rfl
@[simp] theorem logCapture64_links : (logCapture64 s off lo hi).links = s.links := by unfold logCapture64; split <;> rfl
@[simp] theorem logCapture64_trans : (logCapture64 s off lo hi).trans = s.trans := by unfold logCapture64; split <;> rfl
@[simp] theorem logCapture64_guest : (logCapture64 s off lo hi).guest = s.guest := by unfold logCapture64; split <;> rfl
@[simp] theorem logCapture64_pw : (logCapture64 s off lo hi).pw = s.pw := by unfold logCapture64; split <;> rfl
@[simp] theorem logCapture64_tm : (logCapture64 s off lo hi).tm = s.tm := by unfold logCapture64; split <;> rfl
@[simp] theorem logCapture64_red : (logCapture64 s off lo hi).red = s.red := by unfold logCapture64; split <;> rfl
@[simp] theorem logCapture64_sec : (logCapture64 s off lo hi).sec = s.sec := by unfold logCapture64; split <;> rfl
@[simp] theorem logCapture64_oe : (logCapture64 s off lo hi).oe = s.oe := by unfold logCapture64; split <;> rfl
@[simp] theorem logCapture64_ls : (logCapture64 s off lo hi).ls = s.ls := by unfold logCapture64; split <;> rfl
@[simp] theorem logCapture64_nor : (logCapture64 s off lo hi).nor = s.nor := by unfold logCapture64; split <;> rfl
@[simp] theorem logCapture64_cal : (logCapture64 s off lo hi).cal = s.cal := by unfold logCapture64; split <;> rfl
@[simp] theorem logCapture64_pl : (logCapture64 s off lo hi).pl = s.pl := by unfold logCapture64; split <;> rfl
@[simp] theorem logCapture64_spdmMctp : (logCapture64 s off lo hi).spdmMctp = s.spdmMctp := by unfold logCapture64; split <;> rfl
@[simp] theorem logCapture64_spdmPilot : (logCapture64 s off lo hi).spdmPilot = s.spdmPilot := by unfold logCapture64; split <;> rfl
@[simp] theorem logCapture64_dl : (logCapture64 s off lo hi).dl = s.dl := by unfold logCapture64; split <;> rfl
@[simp] theorem logCapture64_jtag : (logCapture64 s off lo hi).jtag = s.jtag := by unfold logCapture64; split <;> rfl
@[simp] theorem logCapture64_i3c : (logCapture64 s off lo hi).i3c = s.i3c := by unfold logCapture64; split <;> rfl

end

section
variable (s : State) (cls : Nat) (data : BitVec 256)

@[simp] theorem sendEvent_pending : (sendEvent s cls data).pending = s.pending := by unfold sendEvent; split <;> rfl
@[simp] theorem sendEvent_out : (sendEvent s cls data).out = s.out := by unfold sendEvent; split <;> rfl
@[simp] theorem sendEvent_freeCtr : (sendEvent s cls data).freeCtr = s.freeCtr := by unfold sendEvent; split <;> rfl
@[simp] theorem sendEvent_now : (sendEvent s cls data).now = s.now := by unfold sendEvent; split <;> rfl
@[simp] theorem sendEvent_cores : (sendEvent s cls data).cores = s.cores := by unfold sendEvent; split <;> rfl
@[simp] theorem sendEvent_mem : (sendEvent s cls data).mem = s.mem := by unfold sendEvent; split <;> rfl
@[simp] theorem sendEvent_mc : (sendEvent s cls data).mc = s.mc := by unfold sendEvent; split <;> rfl
@[simp] theorem sendEvent_sc : (sendEvent s cls data).sc = s.sc := by unfold sendEvent; split <;> rfl
@[simp] theorem sendEvent_berth : (sendEvent s cls data).berth = s.berth := by unfold sendEvent; split <;> rfl
@[simp] theorem sendEvent_elog : (sendEvent s cls data).elog = s.elog := by unfold sendEvent; split <;> rfl
@[simp] theorem sendEvent_tide : (sendEvent s cls data).tide = s.tide := by unfold sendEvent; split <;> rfl
@[simp] theorem sendEvent_launch : (sendEvent s cls data).launch = s.launch := by unfold sendEvent; split <;> rfl
@[simp] theorem sendEvent_boll : (sendEvent s cls data).boll = s.boll := by unfold sendEvent; split <;> rfl
@[simp] theorem sendEvent_slack : (sendEvent s cls data).slack = s.slack := by unfold sendEvent; split <;> rfl
@[simp] theorem sendEvent_hm : (sendEvent s cls data).hm = s.hm := by unfold sendEvent; split <;> rfl
@[simp] theorem sendEvent_links : (sendEvent s cls data).links = s.links := by unfold sendEvent; split <;> rfl
@[simp] theorem sendEvent_trans : (sendEvent s cls data).trans = s.trans := by unfold sendEvent; split <;> rfl
@[simp] theorem sendEvent_guest : (sendEvent s cls data).guest = s.guest := by unfold sendEvent; split <;> rfl
@[simp] theorem sendEvent_pw : (sendEvent s cls data).pw = s.pw := by unfold sendEvent; split <;> rfl
@[simp] theorem sendEvent_tm : (sendEvent s cls data).tm = s.tm := by unfold sendEvent; split <;> rfl
@[simp] theorem sendEvent_red : (sendEvent s cls data).red = s.red := by unfold sendEvent; split <;> rfl
@[simp] theorem sendEvent_sec : (sendEvent s cls data).sec = s.sec := by unfold sendEvent; split <;> rfl
@[simp] theorem sendEvent_oe : (sendEvent s cls data).oe = s.oe := by unfold sendEvent; split <;> rfl
@[simp] theorem sendEvent_ls : (sendEvent s cls data).ls = s.ls := by unfold sendEvent; split <;> rfl
@[simp] theorem sendEvent_nor : (sendEvent s cls data).nor = s.nor := by unfold sendEvent; split <;> rfl
@[simp] theorem sendEvent_cal : (sendEvent s cls data).cal = s.cal := by unfold sendEvent; split <;> rfl
@[simp] theorem sendEvent_pl : (sendEvent s cls data).pl = s.pl := by unfold sendEvent; split <;> rfl
@[simp] theorem sendEvent_spdmMctp : (sendEvent s cls data).spdmMctp = s.spdmMctp := by unfold sendEvent; split <;> rfl
@[simp] theorem sendEvent_spdmPilot : (sendEvent s cls data).spdmPilot = s.spdmPilot := by unfold sendEvent; split <;> rfl
@[simp] theorem sendEvent_dl : (sendEvent s cls data).dl = s.dl := by unfold sendEvent; split <;> rfl
@[simp] theorem sendEvent_jtag : (sendEvent s cls data).jtag = s.jtag := by unfold sendEvent; split <;> rfl
@[simp] theorem sendEvent_i3c : (sendEvent s cls data).i3c = s.i3c := by unfold sendEvent; split <;> rfl

end

section
variable (s : State) (event : Bool) (kind slot unit detail addr tag : Nat)

@[simp] theorem logRecordEv_pending : (logRecordEv s event kind slot unit detail addr tag).pending = s.pending := by unfold logRecordEv; simp only [apply_ite State.pending, cntAdd_pending, logCapture_pending, sendEvent_pending, ite_self]
@[simp] theorem logRecordEv_out : (logRecordEv s event kind slot unit detail addr tag).out = s.out := by unfold logRecordEv; simp only [apply_ite State.out, cntAdd_out, logCapture_out, sendEvent_out, ite_self]
@[simp] theorem logRecordEv_freeCtr : (logRecordEv s event kind slot unit detail addr tag).freeCtr = s.freeCtr := by unfold logRecordEv; simp only [apply_ite State.freeCtr, cntAdd_freeCtr, logCapture_freeCtr, sendEvent_freeCtr, ite_self]
@[simp] theorem logRecordEv_now : (logRecordEv s event kind slot unit detail addr tag).now = s.now := by unfold logRecordEv; simp only [apply_ite State.now, cntAdd_now, logCapture_now, sendEvent_now, ite_self]
@[simp] theorem logRecordEv_cores : (logRecordEv s event kind slot unit detail addr tag).cores = s.cores := by unfold logRecordEv; simp only [apply_ite State.cores, cntAdd_cores, logCapture_cores, sendEvent_cores, ite_self]
@[simp] theorem logRecordEv_mem : (logRecordEv s event kind slot unit detail addr tag).mem = s.mem := by unfold logRecordEv; simp only [apply_ite State.mem, cntAdd_mem, logCapture_mem, sendEvent_mem, ite_self]
@[simp] theorem logRecordEv_mc : (logRecordEv s event kind slot unit detail addr tag).mc = s.mc := by unfold logRecordEv; simp only [apply_ite State.mc, cntAdd_mc, logCapture_mc, sendEvent_mc, ite_self]
@[simp] theorem logRecordEv_sc : (logRecordEv s event kind slot unit detail addr tag).sc = s.sc := by unfold logRecordEv; simp only [apply_ite State.sc, cntAdd_sc, logCapture_sc, sendEvent_sc, ite_self]
@[simp] theorem logRecordEv_berth : (logRecordEv s event kind slot unit detail addr tag).berth = s.berth := by unfold logRecordEv; simp only [apply_ite State.berth, cntAdd_berth, logCapture_berth, sendEvent_berth, ite_self]
@[simp] theorem logRecordEv_tide : (logRecordEv s event kind slot unit detail addr tag).tide = s.tide := by unfold logRecordEv; simp only [apply_ite State.tide, cntAdd_tide, logCapture_tide, sendEvent_tide, ite_self]
@[simp] theorem logRecordEv_launch : (logRecordEv s event kind slot unit detail addr tag).launch = s.launch := by unfold logRecordEv; simp only [apply_ite State.launch, cntAdd_launch, logCapture_launch, sendEvent_launch, ite_self]
@[simp] theorem logRecordEv_boll : (logRecordEv s event kind slot unit detail addr tag).boll = s.boll := by unfold logRecordEv; simp only [apply_ite State.boll, cntAdd_boll, logCapture_boll, sendEvent_boll, ite_self]
@[simp] theorem logRecordEv_slack : (logRecordEv s event kind slot unit detail addr tag).slack = s.slack := by unfold logRecordEv; simp only [apply_ite State.slack, cntAdd_slack, logCapture_slack, sendEvent_slack, ite_self]
@[simp] theorem logRecordEv_hm : (logRecordEv s event kind slot unit detail addr tag).hm = s.hm := by unfold logRecordEv; simp only [apply_ite State.hm, cntAdd_hm, logCapture_hm, sendEvent_hm, ite_self]
@[simp] theorem logRecordEv_links : (logRecordEv s event kind slot unit detail addr tag).links = s.links := by unfold logRecordEv; simp only [apply_ite State.links, cntAdd_links, logCapture_links, sendEvent_links, ite_self]
@[simp] theorem logRecordEv_trans : (logRecordEv s event kind slot unit detail addr tag).trans = s.trans := by unfold logRecordEv; simp only [apply_ite State.trans, cntAdd_trans, logCapture_trans, sendEvent_trans, ite_self]
@[simp] theorem logRecordEv_guest : (logRecordEv s event kind slot unit detail addr tag).guest = s.guest := by unfold logRecordEv; simp only [apply_ite State.guest, cntAdd_guest, logCapture_guest, sendEvent_guest, ite_self]
@[simp] theorem logRecordEv_pw : (logRecordEv s event kind slot unit detail addr tag).pw = s.pw := by unfold logRecordEv; simp only [apply_ite State.pw, cntAdd_pw, logCapture_pw, sendEvent_pw, ite_self]
@[simp] theorem logRecordEv_tm : (logRecordEv s event kind slot unit detail addr tag).tm = s.tm := by unfold logRecordEv; simp only [apply_ite State.tm, cntAdd_tm, logCapture_tm, sendEvent_tm, ite_self]
@[simp] theorem logRecordEv_red : (logRecordEv s event kind slot unit detail addr tag).red = s.red := by unfold logRecordEv; simp only [apply_ite State.red, cntAdd_red, logCapture_red, sendEvent_red, ite_self]
@[simp] theorem logRecordEv_sec : (logRecordEv s event kind slot unit detail addr tag).sec = s.sec := by unfold logRecordEv; simp only [apply_ite State.sec, cntAdd_sec, logCapture_sec, sendEvent_sec, ite_self]
@[simp] theorem logRecordEv_oe : (logRecordEv s event kind slot unit detail addr tag).oe = s.oe := by unfold logRecordEv; simp only [apply_ite State.oe, cntAdd_oe, logCapture_oe, sendEvent_oe, ite_self]
@[simp] theorem logRecordEv_ls : (logRecordEv s event kind slot unit detail addr tag).ls = s.ls := by unfold logRecordEv; simp only [apply_ite State.ls, cntAdd_ls, logCapture_ls, sendEvent_ls, ite_self]
@[simp] theorem logRecordEv_nor : (logRecordEv s event kind slot unit detail addr tag).nor = s.nor := by unfold logRecordEv; simp only [apply_ite State.nor, cntAdd_nor, logCapture_nor, sendEvent_nor, ite_self]
@[simp] theorem logRecordEv_cal : (logRecordEv s event kind slot unit detail addr tag).cal = s.cal := by unfold logRecordEv; simp only [apply_ite State.cal, cntAdd_cal, logCapture_cal, sendEvent_cal, ite_self]
@[simp] theorem logRecordEv_pl : (logRecordEv s event kind slot unit detail addr tag).pl = s.pl := by unfold logRecordEv; simp only [apply_ite State.pl, cntAdd_pl, logCapture_pl, sendEvent_pl, ite_self]
@[simp] theorem logRecordEv_spdmMctp : (logRecordEv s event kind slot unit detail addr tag).spdmMctp = s.spdmMctp := by unfold logRecordEv; simp only [apply_ite State.spdmMctp, cntAdd_spdmMctp, logCapture_spdmMctp, sendEvent_spdmMctp, ite_self]
@[simp] theorem logRecordEv_spdmPilot : (logRecordEv s event kind slot unit detail addr tag).spdmPilot = s.spdmPilot := by unfold logRecordEv; simp only [apply_ite State.spdmPilot, cntAdd_spdmPilot, logCapture_spdmPilot, sendEvent_spdmPilot, ite_self]
@[simp] theorem logRecordEv_dl : (logRecordEv s event kind slot unit detail addr tag).dl = s.dl := by unfold logRecordEv; simp only [apply_ite State.dl, cntAdd_dl, logCapture_dl, sendEvent_dl, ite_self]
@[simp] theorem logRecordEv_jtag : (logRecordEv s event kind slot unit detail addr tag).jtag = s.jtag := by unfold logRecordEv; simp only [apply_ite State.jtag, cntAdd_jtag, logCapture_jtag, sendEvent_jtag, ite_self]
@[simp] theorem logRecordEv_i3c : (logRecordEv s event kind slot unit detail addr tag).i3c = s.i3c := by unfold logRecordEv; simp only [apply_ite State.i3c, cntAdd_i3c, logCapture_i3c, sendEvent_i3c, ite_self]

end

section
variable (s : State) (kind slot unit detail addr tag : Nat)

@[simp] theorem logRecord_pending : (logRecord s kind slot unit detail addr tag).pending = s.pending := logRecordEv_pending ..
@[simp] theorem logRecord_out : (logRecord s kind slot unit detail addr tag).out = s.out := logRecordEv_out ..
@[simp] theorem logRecord_freeCtr : (logRecord s kind slot unit detail addr tag).freeCtr = s.freeCtr := logRecordEv_freeCtr ..
@[simp] theorem logRecord_now : (logRecord s kind slot unit detail addr tag).now = s.now := logRecordEv_now ..
@[simp] theorem logRecord_cores : (logRecord s kind slot unit detail addr tag).cores = s.cores := logRecordEv_cores ..
@[simp] theorem logRecord_mem : (logRecord s kind slot unit detail addr tag).mem = s.mem := logRecordEv_mem ..
@[simp] theorem logRecord_mc : (logRecord s kind slot unit detail addr tag).mc = s.mc := logRecordEv_mc ..
@[simp] theorem logRecord_sc : (logRecord s kind slot unit detail addr tag).sc = s.sc := logRecordEv_sc ..
@[simp] theorem logRecord_berth : (logRecord s kind slot unit detail addr tag).berth = s.berth := logRecordEv_berth ..
@[simp] theorem logRecord_tide : (logRecord s kind slot unit detail addr tag).tide = s.tide := logRecordEv_tide ..
@[simp] theorem logRecord_launch : (logRecord s kind slot unit detail addr tag).launch = s.launch := logRecordEv_launch ..
@[simp] theorem logRecord_boll : (logRecord s kind slot unit detail addr tag).boll = s.boll := logRecordEv_boll ..
@[simp] theorem logRecord_slack : (logRecord s kind slot unit detail addr tag).slack = s.slack := logRecordEv_slack ..
@[simp] theorem logRecord_hm : (logRecord s kind slot unit detail addr tag).hm = s.hm := logRecordEv_hm ..
@[simp] theorem logRecord_links : (logRecord s kind slot unit detail addr tag).links = s.links := logRecordEv_links ..
@[simp] theorem logRecord_trans : (logRecord s kind slot unit detail addr tag).trans = s.trans := logRecordEv_trans ..
@[simp] theorem logRecord_guest : (logRecord s kind slot unit detail addr tag).guest = s.guest := logRecordEv_guest ..
@[simp] theorem logRecord_pw : (logRecord s kind slot unit detail addr tag).pw = s.pw := logRecordEv_pw ..
@[simp] theorem logRecord_tm : (logRecord s kind slot unit detail addr tag).tm = s.tm := logRecordEv_tm ..
@[simp] theorem logRecord_red : (logRecord s kind slot unit detail addr tag).red = s.red := logRecordEv_red ..
@[simp] theorem logRecord_sec : (logRecord s kind slot unit detail addr tag).sec = s.sec := logRecordEv_sec ..
@[simp] theorem logRecord_oe : (logRecord s kind slot unit detail addr tag).oe = s.oe := logRecordEv_oe ..
@[simp] theorem logRecord_ls : (logRecord s kind slot unit detail addr tag).ls = s.ls := logRecordEv_ls ..
@[simp] theorem logRecord_nor : (logRecord s kind slot unit detail addr tag).nor = s.nor := logRecordEv_nor ..
@[simp] theorem logRecord_cal : (logRecord s kind slot unit detail addr tag).cal = s.cal := logRecordEv_cal ..
@[simp] theorem logRecord_pl : (logRecord s kind slot unit detail addr tag).pl = s.pl := logRecordEv_pl ..
@[simp] theorem logRecord_spdmMctp : (logRecord s kind slot unit detail addr tag).spdmMctp = s.spdmMctp := logRecordEv_spdmMctp ..
@[simp] theorem logRecord_spdmPilot : (logRecord s kind slot unit detail addr tag).spdmPilot = s.spdmPilot := logRecordEv_spdmPilot ..
@[simp] theorem logRecord_dl : (logRecord s kind slot unit detail addr tag).dl = s.dl := logRecordEv_dl ..
@[simp] theorem logRecord_jtag : (logRecord s kind slot unit detail addr tag).jtag = s.jtag := logRecordEv_jtag ..
@[simp] theorem logRecord_i3c : (logRecord s kind slot unit detail addr tag).i3c = s.i3c := logRecordEv_i3c ..

end

end Sys2Proof.Machine
end

