-- ==== Sys2Proof/Laws/Invariant.lean ====
section
/-! SUPPORT. The shared operations keep the invariant, and what is written to a table of the state is read back. -/

namespace Sys2Proof.Machine

/-! ## Registers -/

/-- A register that is written reads as written. -/
theorem rget_rset_self {s : State} (off : Nat) (v : Word) (h : tsorted s.regs.words = true) : rget (rset s off v) off = v :=
  tget_tset_self off v (regReset off) h

/-- A register write leaves every other register as it was. -/
theorem rget_rset_ne (s : State) {off x : Nat} (v : Word) (h : x ≠ off) : rget (rset s off v) x = rget s x := by
  unfold rget
  rw [rset_regs]
  by_cases hv : v = regReset off
  · simp only [tset, if_pos hv]; exact tget_terase_ne _ _ h
  · simp only [tset, if_neg hv]; exact tget_tput_ne _ _ _ h

/-- A counter advances and stops at its maximum (R53). -/
theorem rget_cntAdd_self {s : State} (off n : Nat) (h : tsorted s.regs.words = true) :
    (rget (cntAdd s off n) off).toNat = min ((rget s off).toNat + n) (2 ^ 32 - 1) := by
  unfold cntAdd
  rw [rget_rset_self off _ h, BitVec.toNat_ofNat]
  omega

theorem rget_cntAdd_ne (s : State) {off x : Nat} (n : Nat) (h : x ≠ off) : rget (cntAdd s off n) x = rget s x :=
  rget_rset_ne s _ h

/-- A LOG register whose VALID is set keeps what it holds (R459). -/
theorem logCapture_held {s : State} {off : Nat} (v : Word) (l : List (Nat × Word)) (h : rget s off &&& validBit ≠ 0) :
    logCapture s off v l = s := if_neg h

theorem logCapture64_held {s : State} {off : Nat} (lo hi : Word) (h : rget s (off + 4) &&& validBit ≠ 0) :
    logCapture64 s off lo hi = s := if_neg h

/-! ## Tables of the state -/

section
variable {β : Type} [DecidableEq β]

/-- An entry of a written table is the one written or an earlier one. -/
theorem mem_tset {m : Tbl β} {k : Nat} {v d : β} {e : Nat × β} (h : e ∈ tset m k v d) : e = (k, v) ∨ e ∈ m := by
  unfold tset at h
  split at h
  · exact .inr (mem_terase h)
  · exact mem_tput h

/-- What holds of every entry and of the new one holds of every entry afterwards. -/
theorem all_tset {m : Tbl β} {k : Nat} {v d : β} {p : Nat × β → Bool} (h : m.all p = true) (hv : p (k, v) = true) :
    (tset m k v d).all p = true := by
  rw [List.all_eq_true] at *
  intro e he
  rcases mem_tset he with rfl | he
  · exact hv
  · exact h e he

omit [DecidableEq β] in
theorem all_filterMap {m : Tbl β} {p : Nat × β → Bool} {f : Nat × β → Option (Nat × β)} (h : m.all p = true)
    (hf : ∀ e, p e = true → ∀ x, f e = some x → p x = true) : (m.filterMap f).all p = true := by
  rw [List.all_eq_true] at *
  intro x hx
  obtain ⟨e, he, hfe⟩ := List.mem_filterMap.1 hx
  exact hf e (h e he) x hfe

omit [DecidableEq β] in
/-- What a table gives for a key satisfies what every entry and the default satisfy. -/
theorem tget_of_all {m : Tbl β} {p : β → Bool} (k : Nat) {d : β} (h : (m.all fun e => p e.2) = true) (hd : p d = true) :
    p (tget m k d) = true := by
  induction m with
  | nil => exact hd
  | cons e r ih =>
    obtain ⟨a, w⟩ := e
    simp only [List.all_cons, Bool.and_eq_true] at h
    unfold tget
    split
    · exact h.1
    · exact ih h.2

/-- Changing the entries through a function keeps the keys rising. -/
theorem tsorted_tmap {m : Tbl β} (d : β) (f : Nat → β → β) (h : tsorted m = true) : tsorted (tmap m d f) = true := by
  have keys : ∀ (m : Tbl β) (e : Nat × β), e ∈ tmap m d f → ∃ x ∈ m, x.1 = e.1 := by
    intro m e he
    obtain ⟨x, hx, hf⟩ := List.mem_filterMap.1 he
    simp only at hf
    split at hf
    · cases hf
    · cases hf; exact ⟨x, hx, rfl⟩
  induction m with
  | nil => rfl
  | cons e r ih =>
    obtain ⟨a, w⟩ := e
    have hr := ih (tsorted_tail h)
    simp only [tmap, List.filterMap_cons] at *
    split
    · exact hr
    · rename_i x hx
      split at hx
      · cases hx
      · cases hx
        refine tsorted_cons hr fun e he => ?_
        obtain ⟨x, hx, hk⟩ := keys r e he
        exact hk ▸ tsorted_head_lt h hx

end

/-! ## The invariant, part by part -/

/-- The cores' part of the invariant. -/
theorem coresCanonical_iff (x : CoresSt) : x.canonical = true ↔
    (tsorted x.core = true ∧ (x.core.all fun e => e.2.canonical) = true) ∧ tsorted x.voy = true ∧ tsorted x.pier = true ∧
      tsorted x.tug = true := by
  simp only [CoresSt.canonical, Bool.and_eq_true]
  tauto

/-- The tables of memory beside its bytes, one by one. -/
structure MemParts (m : MemSt) : Prop where
  check   : tsorted m.check = true
  poison  : tsorted m.poison = true
  sealSt  : tsorted m.sealSt = true
  sramErr : tsorted m.sramErr = true
  hbmErr  : tsorted m.hbmErr = true
  hbmPois : tsorted m.hbmPois = true
  sideErr : tsorted m.sideErr = true
  hbmFlip : tsorted m.hbmFlip = true

theorem memCanonical_iff (m : MemSt) : m.canonical = true ↔ MemParts m := by
  unfold MemSt.canonical
  constructor
  · intro h
    simp only [Bool.and_eq_true] at h
    constructor <;> simp only [h]
  · intro p
    rw [p.check, p.poison, p.sealSt, p.sramErr, p.hbmErr, p.hbmPois, p.sideErr, p.hbmFlip]
    rfl

/-- The invariant by the parts of the state that it speaks of. -/
structure InvParts (s : State) : Prop where
  regs   : tsorted s.regs.words = true
  cores  : Memory.wf s.cores.consts = true ∧ s.cores.canonical = true
  mem    : Memory.wf s.mem.bytes = true ∧ s.mem.canonical = true
  elog   : tsorted s.elog.ring = true ∧ s.elog.count ≤ elogSlots ∧ s.elog.head < elogSlots ∧ s.elog.tail < elogSlots
  events : s.events.length ≤ maxEvents
  berth  : twf s.berth.table (fun _ => 0) = true
  launch : tsorted s.launch.table = true ∧ tsorted s.launch.run = true
  boll   : tsorted s.boll.val = true
  oe     : tsorted s.oe = true
  nor    : tsorted s.nor.copy = true
  jtag   : tsorted s.jtag.ir = true ∧ tsorted s.jtag.cells = true ∧ tsorted s.jtag.results = true
  links  : (s.links.all fun e => e.2.canonical) = true

theorem inv_iff (s : State) : Inv s ↔ InvParts s := by
  constructor
  · intro h
    have t := h.tables
    simp only [State.canonical, Bool.and_eq_true] at t
    constructor <;> simp only [t, h.memory, h.consts, h.events, h.log, h.head, h.tail, and_self]
  · intro p
    refine ⟨p.mem.1, p.cores.1, ?_, p.events, p.elog.2.1, p.elog.2.2.1, p.elog.2.2.2⟩
    simp only [State.canonical, p.regs, p.cores, p.mem, p.elog, p.berth, p.launch, p.boll, p.oe, p.nor, p.jtag, p.links, Bool.and_self]

/-- What the invariant says of memory. -/
def MemSt.ok (m : MemSt) : Prop := Memory.wf m.bytes = true ∧ m.canonical = true

theorem Inv.memOk {s : State} (h : Inv s) : s.mem.ok := ((inv_iff s).1 h).mem

section
variable {s : State} (h : Inv s)
include h

/-! ## One part replaced -/

theorem Inv.withRegs {x : RegSt} (hx : tsorted x.words = true) : Inv { s with regs := x } :=
  (inv_iff _).2 { (inv_iff s).1 h with regs := hx }
theorem Inv.withCores {x : CoresSt} (hx : Memory.wf x.consts = true ∧ x.canonical = true) : Inv { s with cores := x } :=
  (inv_iff _).2 { (inv_iff s).1 h with cores := hx }
theorem Inv.withMem {x : MemSt} (hx : x.ok) : Inv { s with mem := x } :=
  (inv_iff _).2 { (inv_iff s).1 h with mem := hx }
theorem Inv.withElog {x : ElogSt} (hx : tsorted x.ring = true ∧ x.count ≤ elogSlots ∧ x.head < elogSlots ∧ x.tail < elogSlots) : Inv { s with elog := x } :=
  (inv_iff _).2 { (inv_iff s).1 h with elog := hx }
theorem Inv.withEvents {l : List Event} (hx : l.length ≤ maxEvents) : Inv { s with events := l } :=
  (inv_iff _).2 { (inv_iff s).1 h with events := hx }
theorem Inv.withBerth {x : BerthSt} (hx : twf x.table (fun _ => 0) = true) : Inv { s with berth := x } :=
  (inv_iff _).2 { (inv_iff s).1 h with berth := hx }
theorem Inv.withLaunch {x : LaunchSt} (hx : tsorted x.table = true ∧ tsorted x.run = true) : Inv { s with launch := x } :=
  (inv_iff _).2 { (inv_iff s).1 h with launch := hx }
theorem Inv.withBoll {x : BollSt} (hx : tsorted x.val = true) : Inv { s with boll := x } :=
  (inv_iff _).2 { (inv_iff s).1 h with boll := hx }
theorem Inv.withOe {x : Tbl OeSt} (hx : tsorted x = true) : Inv { s with oe := x } :=
  (inv_iff _).2 { (inv_iff s).1 h with oe := hx }
theorem Inv.withNor {x : NorSt} (hx : tsorted x.copy = true) : Inv { s with nor := x } :=
  (inv_iff _).2 { (inv_iff s).1 h with nor := hx }
theorem Inv.withJtag {x : JtagSt} (hx : tsorted x.ir = true ∧ tsorted x.cells = true ∧ tsorted x.results = true) : Inv { s with jtag := x } :=
  (inv_iff _).2 { (inv_iff s).1 h with jtag := hx }
theorem Inv.withLinks {x : Tbl LinkSt} (hx : (x.all fun e => e.2.canonical) = true) : Inv { s with links := x } :=
  (inv_iff _).2 { (inv_iff s).1 h with links := hx }

theorem Inv.withEventLost (x : Bool) : Inv { s with eventLost := x } := (inv_iff _).2 { (inv_iff s).1 h with }

/-! ## Updates that the invariant does not speak of -/

theorem Inv.takeFree : Inv s.takeFree := (inv_iff _).2 { (inv_iff s).1 h with }
theorem Inv.emit (o : Output) : Inv (s.emit o) := (inv_iff _).2 { (inv_iff s).1 h with }
theorem Inv.setBusy (b : Blk) (on : Bool) : Inv (setBusy s b on) := (inv_iff _).2 { (inv_iff s).1 h with }
theorem Inv.setEnCode (b : Blk) (code : Nat) : Inv (setEnCode s b code) := (inv_iff _).2 { (inv_iff s).1 h with }
theorem Inv.acceptWrite (b : Blk) : Inv (acceptWrite s b) := (inv_iff _).2 { (inv_iff s).1 h with }
theorem Inv.holdLow (b : Blk) (who : Requester) (first : Nat) (v : Word) : Inv (holdLow s b who first v) :=
  (inv_iff _).2 { (inv_iff s).1 h with }
theorem Inv.watchHits (b : Nat) : Inv (watchHits s b) := (inv_iff _).2 { (inv_iff s).1 h with }
theorem Inv.watchSet (w : Waiter) (x : Option Watch) : Inv (watchSet s w x) := (inv_iff _).2 { (inv_iff s).1 h with }
theorem Inv.mcSet (m : Nat) (x : McSt) : Inv (mcSet s m x) := (inv_iff _).2 { (inv_iff s).1 h with }
theorem Inv.scSet (slot : Nat) (x : ScrubSt) : Inv (scSet s slot x) := (inv_iff _).2 { (inv_iff s).1 h with }
theorem Inv.hmSet (st : HmState) : Inv (hmSet s st) := (inv_iff _).2 { (inv_iff s).1 h with }
theorem Inv.dieSet (slot : Nat) (d : DieRec) : Inv (dieSet s slot d) := (inv_iff _).2 { (inv_iff s).1 h with }
theorem Inv.dlSet (k : Nat) (x : DlSt) : Inv (dlSet s k x) := (inv_iff _).2 { (inv_iff s).1 h with }
theorem Inv.lsSet (n : Nat) (x : LsSt) : Inv (lsSet s n x) := (inv_iff _).2 { (inv_iff s).1 h with }
theorem Inv.pwSet (x : PwSt) : Inv (pwSet s x) := (inv_iff _).2 { (inv_iff s).1 h with }
theorem Inv.pwMod (f : PwSt → PwSt) : Inv (pwMod s f) := (inv_iff _).2 { (inv_iff s).1 h with }
theorem Inv.chanSet (ch : Nat) (x : ChanSt) : Inv (chanSet s ch x) := (inv_iff _).2 { (inv_iff s).1 h with }
theorem Inv.redSet (r : RedSt) : Inv (redSet s r) := (inv_iff _).2 { (inv_iff s).1 h with }
theorem Inv.secSet (x : SecSt) : Inv (secSet s x) := (inv_iff _).2 { (inv_iff s).1 h with }
theorem Inv.secMod (f : SecSt → SecSt) : Inv (secMod s f) := (inv_iff _).2 { (inv_iff s).1 h with }
theorem Inv.asmSet (src : Nat) (x : Option PilotAsm) : Inv (asmSet s src x) := (inv_iff _).2 { (inv_iff s).1 h with }
theorem Inv.setPoll (p : Option (Nat × Nat)) : Inv (setPoll s p) := (inv_iff _).2 { (inv_iff s).1 h with }
theorem Inv.setTodo (l : List PMsg) : Inv (setTodo s l) := (inv_iff _).2 { (inv_iff s).1 h with }
theorem Inv.connSet (t : Transport) (x : SpdmSt) : Inv (connSet s t x) := by
  cases t <;> exact (inv_iff _).2 { (inv_iff s).1 h with }

/-! ## Registers, events and the error log -/

theorem Inv.rset (off : Nat) (v : Word) : Inv (rset s off v) := 
  h.withRegs (tsorted_tset _ _ _ ((inv_iff s).1 h).regs)

theorem Inv.cntAdd (off n : Nat) : Inv (cntAdd s off n) := h.rset ..
theorem Inv.errCount (b : Blk) : Inv (errCount s b) := h.rset ..
theorem Inv.setEn (b : Blk) (on : Bool) : Inv (setEn s b on) := h.rset ..
theorem Inv.rset64 (off : Nat) (v : Dword) : Inv (rset64 s off v) := (h.rset ..).rset ..
theorem Inv.cntAdd64 (off n : Nat) : Inv (cntAdd64 s off n) := h.rset64 ..

theorem Inv.dropWrite (b : Blk) : Inv (dropWrite s b) := by
  exact (h.errCount b).withRegs ((inv_iff _).1 (h.errCount b)).regs

theorem Inv.logCapture64 (off : Nat) (lo hi : Word) : Inv (logCapture64 s off lo hi) := by
  unfold Machine.logCapture64; split
  · exact (h.rset ..).rset ..
  · exact h

omit h in
/-- A fold keeps the invariant whose steps keep it. -/
theorem Inv.foldl {α : Type} {f : State → α → State} (hf : ∀ (t : State) (x : α), Inv t → Inv (f t x)) (l : List α) {s : State}
    (h : Inv s) : Inv (l.foldl f s) := by
  induction l generalizing s with
  | nil => exact h
  | cons x r ih => exact ih (hf s x h)

theorem Inv.logCapture (off : Nat) (v : Word) (l : List (Nat × Word)) : Inv (logCapture s off v l) := by
  unfold Machine.logCapture; split
  · exact Inv.foldl (fun t x ht => ht.rset ..) l (h.rset ..)
  · exact h

theorem Inv.sendEvent (cls : Nat) (data : BitVec 256) : Inv (sendEvent s cls data) := by
  unfold Machine.sendEvent; split
  · rename_i hl
    exact (h.withEventLost false).withEvents (by simp only [List.length_append, List.length_singleton]; omega)
  · exact (h.withEventLost true).cntAdd ..

theorem Inv.logRecordEv (event : Bool) (kind slot unit detail addr tag : Nat) :
    Inv (logRecordEv s event kind slot unit detail addr tag) := by
  unfold Machine.logRecordEv; split
  · exact h
  split
  · have e := ((inv_iff s).1 h).elog
    exact h.withElog ⟨tsorted_tset _ _ _ e.1, e.2⟩
  · split
    · exact (h.cntAdd ..).logCapture ..
    · rename_i hc
      extract_lets r e t evEn water u
      have ht : Inv t := by
        refine Inv.cntAdd ?_ _ _
        have e := ((inv_iff s).1 h).elog
        refine h.withElog ⟨tsorted_tset _ _ _ e.1, ?_, Nat.mod_lt _ (by decide), e.2.2.2⟩
        have := e.2.1
        simp only; omega
      have hu : Inv u := by
        show Inv (if _ then _ else _); split
        · exact ht.sendEvent ..
        · exact ht
      split
      · exact hu.sendEvent ..
      · exact hu

theorem Inv.logRecord (kind slot unit detail addr tag : Nat) : Inv (logRecord s kind slot unit detail addr tag) := h.logRecordEv ..

theorem Inv.elogFree (n : Nat) : Inv (elogFree s n) :=
  let e := ((inv_iff s).1 h).elog
  h.withElog ⟨e.1, Nat.le_trans (Nat.sub_le ..) e.2.1, e.2.2.1, Nat.mod_lt _ (by decide)⟩

/-! ## Bollards, launches, berth entries, engines -/

theorem Inv.bollSet (b : Nat) (v : Word) : Inv (bollSet s b v) := by
  refine Inv.watchHits ?_ b
  exact h.withBoll (tsorted_tset _ _ _ ((inv_iff s).1 h).boll)

theorem Inv.bollAdd (b : Nat) (v : Word) : Inv (bollAdd s b v) := (h.bollSet ..).cntAdd ..

theorem Inv.voyageSet (set : Nat) (v : Option Voyage) : Inv (voyageSet s set v) :=
  h.withLaunch ⟨((inv_iff s).1 h).launch.1, tsorted_tset _ _ _ ((inv_iff s).1 h).launch.2⟩
theorem Inv.voyageMod (set : Nat) (f : Voyage → Voyage) : Inv (voyageMod s set f) := h.voyageSet ..
theorem Inv.entrySet (i : Nat) (e : LEntry) : Inv (entrySet s i e) :=
  h.withLaunch ⟨tsorted_tset _ _ _ ((inv_iff s).1 h).launch.1, ((inv_iff s).1 h).launch.2⟩
theorem Inv.berthSet (i : Nat) (e : BitVec 128) : Inv (berthSet s i e) :=
  h.withBerth (twf_tset i e ((inv_iff s).1 h).berth)
theorem Inv.oeSet (n : Nat) (x : OeSt) : Inv (oeSet s n x) :=
  h.withOe (tsorted_tset _ _ _ ((inv_iff s).1 h).oe)
theorem Inv.oeMod (n : Nat) (f : OeSt → OeSt) : Inv (oeMod s n f) := h.oeSet ..
theorem Inv.calSet (ty slot copy : Nat) (v : CalCopy) : Inv (calSet s ty slot copy v) :=
  h.withNor (tsorted_tset _ _ _ ((inv_iff s).1 h).nor)

/-! ## Cores, piers, tugs -/

theorem Inv.coreOk (c : CoreId) : (coreGet s c).canonical = true :=
  tget_of_all _ ((coresCanonical_iff _).1 ((inv_iff s).1 h).cores.2).1.2 rfl

theorem Inv.coreSet (c : CoreId) {k : CoreSt} (hk : k.canonical = true) : Inv (coreSet s c k) := by
  have c := ((inv_iff s).1 h).cores
  have hc := (coresCanonical_iff _).1 c.2
  exact h.withCores ⟨c.1, (coresCanonical_iff _).2 ⟨⟨tsorted_tset _ _ _ hc.1.1, all_tset hc.1.2 hk⟩, hc.2⟩⟩

/-- A change of a core that leaves its register tables in form keeps the invariant. -/
theorem Inv.coreMod (c : CoreId) {f : CoreSt → CoreSt} (hf : ∀ k : CoreSt, k.canonical = true → (f k).canonical = true) :
    Inv (coreMod s c f) := h.coreSet c (hf _ (h.coreOk c))

theorem Inv.voySet (c : CoreId) (v : CoreVoyage) : Inv (voySet s c v) := by
  have c := ((inv_iff s).1 h).cores
  have hc := (coresCanonical_iff _).1 c.2
  exact h.withCores ⟨c.1, (coresCanonical_iff _).2 ⟨hc.1, tsorted_tset _ _ _ hc.2.1, hc.2.2⟩⟩

theorem Inv.pierSet (key : Nat) (p : PierSt) : Inv (pierSet s key p) := by
  have c := ((inv_iff s).1 h).cores
  have hc := (coresCanonical_iff _).1 c.2
  exact h.withCores ⟨c.1, (coresCanonical_iff _).2 ⟨hc.1, hc.2.1, tsorted_tset _ _ _ hc.2.2.1, hc.2.2.2⟩⟩

theorem Inv.tugSet (key : Nat) (t : TugSt) : Inv (tugSet s key t) := by
  have c := ((inv_iff s).1 h).cores
  have hc := (coresCanonical_iff _).1 c.2
  exact h.withCores ⟨c.1, (coresCanonical_iff _).2 ⟨hc.1, hc.2.1, hc.2.2.1, tsorted_tset _ _ _ hc.2.2.2⟩⟩

theorem Inv.discardUnstarted (set : Nat) : Inv (discardUnstarted s set) := by
  have c := ((inv_iff s).1 h).cores
  have hc := (coresCanonical_iff _).1 c.2
  have ht := tsorted_tmap (m := s.cores.tug) {} (fun _ t => ({ t with slots := t.slots.filter fun x => !(x.set == set && !x.started) } : TugSt)) hc.2.2.2
  exact h.withCores ⟨c.1, (coresCanonical_iff _).2 ⟨hc.1, hc.2.1, hc.2.2.1, ht⟩⟩

theorem Inv.clearHalted (set : Nat) : Inv (clearHalted s set) := by
  have c := ((inv_iff s).1 h).cores
  have hc := (coresCanonical_iff _).1 c.2
  have ht := tsorted_tmap (m := s.cores.tug) {} (fun _ t => ({ t with halted := t.halted.filter fun x => x != set } : TugSt)) hc.2.2.2
  exact h.withCores ⟨c.1, (coresCanonical_iff _).2 ⟨hc.1, hc.2.1, hc.2.2.1, ht⟩⟩

/-! ## Links -/

theorem Inv.linkOk (k : Nat) : (linkGet s k).canonical = true :=
  tget_of_all _ ((inv_iff s).1 h).links rfl

theorem Inv.linkSet (k : Nat) {x : LinkSt} (hx : x.canonical = true) : Inv (linkSet s k x) :=
  h.withLinks (all_tset ((inv_iff s).1 h).links hx)

theorem Inv.linkMod (k : Nat) {f : LinkSt → LinkSt} (hf : ∀ x : LinkSt, x.canonical = true → (f x).canonical = true) :
    Inv (linkMod s k f) := h.linkSet k (hf _ (h.linkOk k))

/-! ## Memory -/

theorem Inv.setMem {m : MemSt} (hm : m.ok) : Inv (s.setMem m) := h.withMem hm

end

/-! ## Registers of a core -/

section
variable {k : CoreSt} (h : k.canonical = true)
include h

theorem CoreSt.canonical_setS (r : Reg) (v : Dword) (p : Bool) : (k.setS r v p).canonical = true := by
  unfold CoreSt.setS; split
  · exact h
  · simp only [CoreSt.canonical, Bool.and_eq_true] at *
    exact ⟨⟨tsorted_tset _ _ _ h.1.1, h.1.2⟩, h.2⟩

theorem CoreSt.canonical_setV (r : Reg) (v : Parcel) (p : Bool) : (k.setV r v p).canonical = true := by
  simp only [CoreSt.setV, CoreSt.canonical, Bool.and_eq_true] at *
  exact ⟨⟨h.1.1, tsorted_tset _ _ _ h.1.2⟩, h.2⟩

omit h in
theorem tsorted_setAccLanes {m : Tbl Word} (base : Nat) (v : Parcel) (n : Nat) (h : tsorted m = true) :
    tsorted (setAccLanes m base v n) = true := by
  induction n with
  | zero => exact h
  | succ n ih => exact tsorted_tset _ _ _ ih

theorem CoreSt.canonical_setAccRows (a : Fin 4) (j : Nat) (v : Parcel) (p : Bool) : (k.setAccRows a j v p).canonical = true := by
  simp only [CoreSt.setAccRows, CoreSt.canonical, Bool.and_eq_true] at *
  exact ⟨h.1, tsorted_setAccLanes _ _ _ h.2⟩

/-- A write of an s register is read back, s0 reads 0, and every other s register is as it was (R87). -/
theorem CoreSt.s_setS (r x : Reg) (v : Dword) (p : Bool) : (k.setS r v p).s x = if x = r ∧ r ≠ 0 then v else k.s x := by
  simp only [CoreSt.canonical, Bool.and_eq_true] at h
  unfold CoreSt.setS
  by_cases hr : r = 0
  · rw [if_pos hr, if_neg fun e => e.2 hr]
  · rw [if_neg hr]
    unfold CoreSt.s
    by_cases hx : x = r
    · subst hx
      rw [if_neg hr, if_pos ⟨rfl, hr⟩]
      exact tget_tset_self _ _ _ h.1.1
    · have hn : x.toNat ≠ r.toNat := fun e => hx (BitVec.eq_of_toNat_eq e)
      simp only [tget_tset_ne _ _ _ hn, hx, false_and, if_false]

theorem CoreSt.v_setV (r x : Reg) (v : Parcel) (p : Bool) : (k.setV r v p).v x = if x = r then v else k.v x := by
  simp only [CoreSt.canonical, Bool.and_eq_true] at h
  unfold CoreSt.setV CoreSt.v
  by_cases hx : x = r
  · subst hx; simp [tget_tset_self _ _ _ h.1.2]
  · have : x.toNat ≠ r.toNat := fun e => hx (BitVec.eq_of_toNat_eq e)
    simp [hx, tget_tset_ne _ _ _ this]

end

/-! ## Reading back a core, a bollard, a berth entry -/

theorem Inv.coreGet_coreSet_self {s : State} (h : Inv s) (c : CoreId) (k : CoreSt) : coreGet (Machine.coreSet s c k) c = k :=
  tget_tset_self _ _ _ ((coresCanonical_iff _).1 ((inv_iff s).1 h).cores.2).1.1

theorem coreGet_coreSet_ne (s : State) {c x : CoreId} (k : CoreSt) (h : coreKey s x ≠ coreKey s c) :
    coreGet (Machine.coreSet s c k) x = coreGet s x := tget_tset_ne _ _ _ h

theorem Inv.bollGet_bollSet_self {s : State} (h : Inv s) (b : Nat) (v : Word) : bollGet (Machine.bollSet s b v) b = v :=
  tget_tset_self _ _ _ ((inv_iff s).1 h).boll

theorem bollGet_bollSet_ne (s : State) {b x : Nat} (v : Word) (h : x ≠ b) : bollGet (Machine.bollSet s b v) x = bollGet s x :=
  tget_tset_ne _ _ _ h

theorem Inv.berthGet_berthSet_self {s : State} (h : Inv s) (i : Nat) (e : BitVec 128) : berthGet (Machine.berthSet s i e) i = e :=
  tget_tset_self _ _ _ (twf_iff.1 ((inv_iff s).1 h).berth).1

theorem berthGet_berthSet_ne (s : State) {i x : Nat} (e : BitVec 128) (h : x ≠ i) : berthGet (Machine.berthSet s i e) x = berthGet s x :=
  tget_tset_ne _ _ _ h

end Sys2Proof.Machine
end

