-- ==== Sys2Proof/Laws/Memory.lean ====
section
/-! SUPPORT. Every operation over parcels and memory keeps the canonical form of memory and of the tables beside it, and the
operations that read and write parcels keep the invariant. -/

namespace Sys2Proof.Machine

/-! ## Memory by itself -/

theorem natToBytes_length (n x : Nat) : (natToBytes n x).length = n := by
  induction n generalizing x with
  | zero => rfl
  | succ n ih => exact congrArg Nat.succ (ih _)

section
variable {m : MemSt} (h : m.ok)
include h

theorem MemSt.ok_bytes {b : Memory} (hb : Memory.wf b = true) : MemSt.ok { m with bytes := b } := ⟨hb, h.2⟩

theorem MemSt.ok_check {x : Tbl Word} (hx : tsorted x = true) : MemSt.ok { m with check := x } :=
  ⟨h.1, (memCanonical_iff _).2 { (memCanonical_iff _).1 h.2 with check := hx }⟩

theorem MemSt.ok_poison {x : Tbl Bool} (hx : tsorted x = true) : MemSt.ok { m with poison := x } :=
  ⟨h.1, (memCanonical_iff _).2 { (memCanonical_iff _).1 h.2 with poison := hx }⟩

theorem MemSt.ok_sealSt {x : Tbl (BitVec 2)} (hx : tsorted x = true) : MemSt.ok { m with sealSt := x } :=
  ⟨h.1, (memCanonical_iff _).2 { (memCanonical_iff _).1 h.2 with sealSt := hx }⟩

theorem MemSt.ok_sramErr {x : Tbl (BitVec 72)} (hx : tsorted x = true) : MemSt.ok { m with sramErr := x } :=
  ⟨h.1, (memCanonical_iff _).2 { (memCanonical_iff _).1 h.2 with sramErr := hx }⟩

theorem MemSt.ok_hbmErr {x : Tbl (BitVec 576)} (hx : tsorted x = true) : MemSt.ok { m with hbmErr := x } :=
  ⟨h.1, (memCanonical_iff _).2 { (memCanonical_iff _).1 h.2 with hbmErr := hx }⟩

theorem MemSt.ok_hbmPois {x : Tbl Bool} (hx : tsorted x = true) : MemSt.ok { m with hbmPois := x } :=
  ⟨h.1, (memCanonical_iff _).2 { (memCanonical_iff _).1 h.2 with hbmPois := hx }⟩

theorem MemSt.ok_sideErr {x : Tbl (BitVec 72)} (hx : tsorted x = true) : MemSt.ok { m with sideErr := x } :=
  ⟨h.1, (memCanonical_iff _).2 { (memCanonical_iff _).1 h.2 with sideErr := hx }⟩

theorem MemSt.ok_hbmFlip {x : Tbl Bool} (hx : tsorted x = true) : MemSt.ok { m with hbmFlip := x } :=
  ⟨h.1, (memCanonical_iff _).2 { (memCanonical_iff _).1 h.2 with hbmFlip := hx }⟩

theorem MemSt.ok_setSeal (a : Nat) (v : BitVec 2) : (m.setSeal a v).ok :=
  MemSt.ok_sealSt h (tsorted_tset _ _ _ ((memCanonical_iff _).1 h.2).sealSt)

theorem MemSt.ok_setPoison (a : Nat) (p : Bool) : (m.setPoison a p).ok :=
  MemSt.ok_poison h (tsorted_tset _ _ _ ((memCanonical_iff _).1 h.2).poison)

theorem MemSt.ok_setCheck (a : Nat) (c : Word) : (m.setCheck a c).ok :=
  MemSt.ok_check h (tsorted_tset _ _ _ ((memCanonical_iff _).1 h.2).check)

theorem MemSt.ok_setParcel (a : Nat) (d : PData) : (m.setParcel a d).ok := by
  unfold MemSt.setParcel
  have hb := Memory.writeBytes_wf a (Parcel.bytes d.data) h.1
  generalize Memory.writeBytes m.bytes a (Parcel.bytes d.data) = b at *
  generalize zeroCheck = z
  have c := (memCanonical_iff _).1 h.2
  exact ⟨hb, (memCanonical_iff _).2 { c with check := tsorted_tset _ _ _ c.check, poison := tsorted_tset _ _ _ c.poison }⟩

theorem MemSt.ok_clear (lo hi : Nat) : (m.clear lo hi).ok := by
  refine ⟨Memory.clear_wf lo hi h.1, (memCanonical_iff _).2 ?_⟩
  have t := (memCanonical_iff _).1 h.2
  cases t
  constructor <;> exact tsorted_filter _ ‹_›

theorem MemSt.ok_flipPair (k : Nat) (b : Bool) : (m.flipPair k b).ok :=
  MemSt.ok_hbmFlip h (tsorted_tset _ _ _ ((memCanonical_iff _).1 h.2).hbmFlip)

theorem MemSt.ok_clearFlips (a : Nat) : (m.clearFlips a).ok :=
  MemSt.ok_hbmFlip h (tsorted_filter _ ((memCanonical_iff _).1 h.2).hbmFlip)

theorem MemSt.ok_hbmErr_tset (k : Nat) (v : BitVec 576) : MemSt.ok { m with hbmErr := tset m.hbmErr k v 0 } :=
  MemSt.ok_hbmErr h (tsorted_tset _ _ _ ((memCanonical_iff _).1 h.2).hbmErr)

theorem MemSt.ok_hbmPois_tset (k : Nat) (v : Bool) : MemSt.ok { m with hbmPois := tset m.hbmPois k v false } :=
  MemSt.ok_hbmPois h (tsorted_tset _ _ _ ((memCanonical_iff _).1 h.2).hbmPois)

theorem MemSt.ok_ite {c : Prop} [Decidable c] {n : MemSt} (hn : n.ok) : MemSt.ok (if c then n else m) := by
  split
  · exact hn
  · exact h

theorem applyDiff_ok (a j : Nat) (e : BitVec 576) : (applyDiff m a j e).ok := by
  unfold applyDiff
  by_cases he : e = 0
  · rw [if_pos he]; exact h
  · rw [if_neg he]
    exact MemSt.ok_flipPair (MemSt.ok_setCheck (MemSt.ok_bytes h (Memory.writeNat_wf _ _ _ h.1)) ..) ..

theorem decodePair_ok (a j : Nat) (f : HbmFind) : (decodePair m a j f).1.ok := by
  unfold decodePair
  dsimp only
  split
  · exact MemSt.ok_hbmErr_tset (applyDiff_ok h ..) ..
  · exact MemSt.ok_hbmErr_tset (applyDiff_ok h ..) ..
  · exact h
  · exact h

theorem decodePairs_ok (a : Nat) : (decodePairs m a).1.ok :=
  decodePair_ok (decodePair_ok (decodePair_ok (decodePair_ok h ..) ..) ..) ..

theorem poisonOne_ok (a j : Nat) : (poisonOne m a j).ok := by
  unfold poisonOne
  have hb := Memory.writeNat_wf (a + 64 * j) 64 0 h.1
  generalize Memory.writeNat m.bytes (a + 64 * j) 64 0 = b at *
  have c := (memCanonical_iff _).1 h.2
  generalize poisonPair = z
  refine MemSt.ok_ite h ⟨hb, (memCanonical_iff _).2 { c with
    hbmErr := tsorted_tset _ _ _ c.hbmErr, hbmPois := tsorted_tset (a / 64 + j) true false c.hbmPois }⟩

theorem poisonParcel_ok (a : Nat) : (poisonParcel m a).ok :=
  MemSt.ok_setCheck (MemSt.ok_setPoison
    (MemSt.ok_clearFlips (poisonOne_ok (poisonOne_ok (poisonOne_ok (poisonOne_ok h ..) ..) ..) ..) a) ..) ..

end

/-! ## Reads and writes of parcels -/

section
variable {s : State} (h : Inv s)
include h

/-- A choice between two states keeps what both keep. -/
theorem Inv.ite {c : Prop} [Decidable c] {t : State} (ht : Inv t) : Inv (if c then t else s) := by
  split
  · exact ht
  · exact h

theorem Inv.withSc (x : Tbl ScrubSt) : Inv { s with sc := x } := (inv_iff _).2 { (inv_iff s).1 h with }

/-- Counting in the CO block of the core whose SRAM holds an address keeps the invariant. -/
theorem Inv.coCount (a off : Nat) : Inv (match homeOf a with
    | some (.core c p k _) => Machine.cntAdd s ((blkCO c p (siteOf s c p k)).reg off) 1
    | _ => s) := by
  split
  · exact h.cntAdd ..
  · exact h

theorem Inv.sramSample (slot : Nat) : Inv (sramSample s slot) := by
  exact Inv.ite ((h.withSc _).logRecord ..) h

theorem Inv.sramCorrected (a : Nat) (who : SramReader) : Inv (sramCorrected s a who) := by
  have h1 := h.coCount a 0x040
  exact ((h1.ite (h1.cntAdd ..)).sramSample _).withSc _

theorem Inv.sramUncorrectable (a : Nat) (who : SramReader) (side : Bool) : Inv (sramUncorrectable s a who side) := by
  have h1 := h.coCount a 0x044
  exact (h1.ite (h1.cntAdd ..)).logRecord ..

theorem Inv.sramFixWord (a : Nat) (who : SramReader) : Inv (sramFixWord s a who) := by
  have hm := MemSt.ok_sramErr h.memOk (tsorted_terase (a / 8) ((memCanonical_iff _).1 h.memOk.2).sramErr)
  have hb := MemSt.ok_bytes hm (Memory.writeBytes_wf (a / 8 * 8) (natToBytes 8 0) h.memOk.1)
  refine Inv.ite ?_ h
  refine Inv.ite ?_ ((h.setMem hm).sramCorrected a who)
  exact (h.setMem (MemSt.ok_setCheck (MemSt.ok_setPoison hb a true) a _)).sramUncorrectable a who false

theorem Inv.sideFix (a : Nat) (who : SramReader) : Inv (sideFix s a who) := by
  have hm := MemSt.ok_sideErr h.memOk (tsorted_terase (a / 256) ((memCanonical_iff _).1 h.memOk.2).sideErr)
  have hr : (rewriteSide s.mem a).ok :=
    MemSt.ok_ite (MemSt.ok_setCheck (MemSt.ok_setPoison hm a true) a _) (MemSt.ok_setSeal (MemSt.ok_setCheck (MemSt.ok_setPoison hm a true) a _) ..)
  unfold Machine.sideFix
  split
  · exact (h.setMem hr).sramUncorrectable ..
  split
  · exact h
  · exact (h.setMem hm).sramCorrected ..

theorem Inv.sramWords (a : Nat) (who : SramReader) (n : Nat) : Inv (sramWords s a who n) := by
  induction n generalizing s a with
  | zero => exact h
  | succ n ih => exact ih ((h.ite (h.sideFix a who)).sramFixWord ..) _

theorem Inv.sramFix (a : Nat) (who : SramReader) (n : Nat) : Inv (sramFix s a who n) := (h.sideFix a who).sramWords ..

theorem Inv.sramWritten (a n : Nat) : Inv (sramWritten s a n) := by
  have hs : tsorted (tclear s.mem.sramErr (a / 8) ((a + n + 7) / 8)) = true :=
    tsorted_filter _ ((memCanonical_iff _).1 h.memOk.2).sramErr
  have ht := h.setMem (MemSt.ok_sramErr h.memOk hs)
  refine Inv.ite ht ?_
  exact (ht.setMem (MemSt.ok_sramErr ht.memOk (tsorted_tset _ _ _ hs))).rset ..

theorem Inv.parcelWritten (a : Nat) : Inv (parcelWritten s a) := by
  have h1 := h.sramWritten a 256
  exact h1.setMem (MemSt.ok_sideErr h1.memOk (tsorted_terase _ ((memCanonical_iff _).1 h1.memOk.2).sideErr))

theorem Inv.dredge (m r : Nat) : Inv (dredge s m r) := (h.setMem (MemSt.ok_clear h.memOk ..)).mcSet ..

theorem Inv.retiredHit (m off : Nat) (write : Bool) (src : MemSource) (tag : Nat) : Inv (retiredHit s m off write src tag) :=
  Inv.ite (((h.cntAdd ..).mcSet ..).logRecord ..) (h.cntAdd ..)

theorem Inv.unwrittenHit (m off : Nat) (src : MemSource) (tag : Nat) : Inv (unwrittenHit s m off src tag) :=
  Inv.ite ((((h.cntAdd ..).logCapture64 ..).mcSet ..).logRecord ..) ((h.cntAdd ..).logCapture64 ..)

theorem Inv.mcSample (m : Nat) : Inv (mcSample s m) := Inv.ite ((h.mcSet ..).logRecord ..) h

theorem Inv.mcCorrected (m a : Nat) : Inv (mcCorrected s m a) := ((h.cntAdd ..).mcSample m).mcSet ..

theorem Inv.countCorrected (m a : Nat) (src : MemSource) : Inv (countCorrected s m a src) :=
  Inv.ite (h.mcCorrected m a) ((h.mcCorrected m a).cntAdd ..)

theorem Inv.rfm (m : Nat) : Inv (rfm s m) := h.ite (h.takeFree.cntAdd ..)

/-- Reading a parcel of HBM keeps the invariant, whatever its decoding finds (R190). -/
theorem Inv.hbmRead (m off : Nat) (src : MemSource) (tag : Nat) : Inv (hbmRead s m off src tag).1 := by
  unfold Machine.hbmRead
  have h1 := h.cntAdd64 ((blkMC m).reg 0x030) 1
  dsimp only
  split
  · exact h1.retiredHit ..
  split
  · exact h1.unwrittenHit ..
  have h2 := h1.rfm m
  generalize Machine.rfm (Machine.cntAdd64 s ((blkMC m).reg 0x030) 1) m = s2 at *
  have hd := decodePairs_ok h2.memOk (hbmBase m + off / 256 * 256)
  generalize decodePairs s2.mem (hbmBase m + off / 256 * 256) = r at *
  have h3 := Inv.ite (c := r.2.corrected = true) h2 (h2.countCorrected m (hbmBase m + off / 256 * 256) src)
  generalize (if r.2.corrected = true then Machine.countCorrected s2 m (hbmBase m + off / 256 * 256) src else s2) = s3 at *
  have h4 := Inv.ite (c := (anyPoison r.1 (hbmBase m + off / 256 * 256) || r.2.marked) = true) h3 (h3.cntAdd ((blkMC m).reg 0x050) 1)
  generalize (if (anyPoison r.1 (hbmBase m + off / 256 * 256) || r.2.marked) = true then Machine.cntAdd s3 ((blkMC m).reg 0x050) 1 else s3) = s4 at *
  split
  · have h5 := ((h4.setMem (poisonParcel_ok hd (hbmBase m + off / 256 * 256))).cntAdd ((blkMC m).reg 0x04C) 1).logCapture64
      ((blkMC m).reg 0x070) (BitVec.ofNat 32 (hbmBase m + off / 256 * 256)) (BitVec.ofNat 32 ((hbmBase m + off / 256 * 256) / 2 ^ 32))
    exact Inv.logRecord (Inv.ite h5 (h5.cntAdd ..)) ..
  · exact h4.setMem hd

/-- A parcel stored by a controller keeps the invariant (R172). -/
theorem Inv.hbmStore (m off : Nat) (d : PData) : Inv (hbmStore s m off d) := by
  unfold Machine.hbmStore
  have h1 := h.cntAdd64 ((blkMC m).reg 0x038) 1
  dsimp only
  generalize Machine.cntAdd64 s ((blkMC m).reg 0x038) 1 = s1 at *
  generalize hbmBase m + off = a
  have h2 := Inv.ite (c := (mcGet s1 m).released (regionOf off) = true) ((h1.dredge m (regionOf off)).cntAdd ((blkMC m).reg 0x020) 1) h1
  generalize (if (mcGet s1 m).released (regionOf off) = true then s1
    else Machine.cntAdd (Machine.dredge s1 m (regionOf off)) ((blkMC m).reg 0x020) 1) = s2 at *
  have hp := MemSt.ok_setParcel h2.memOk a d
  have t := (memCanonical_iff _).1 h2.memOk.2
  have c := (memCanonical_iff _).1 hp.2
  apply Inv.rfm
  apply Inv.setMem h2
  generalize s2.mem.setParcel a d = n at *
  exact ⟨hp.1, (memCanonical_iff _).2 { c with
    hbmErr := tsorted_filter _ t.hbmErr, hbmPois := tsorted_filter _ t.hbmPois, hbmFlip := tsorted_filter _ t.hbmFlip }⟩

/-- Writing a parcel of HBM keeps the invariant (R191). -/
theorem Inv.hbmWrite (m off : Nat) (src : MemSource) (d : PData) (tag : Nat) : Inv (hbmWrite s m off src d tag) := by
  have h1 := h.hbmStore m (off / 256 * 256) d
  exact Inv.ite (h1.ite ((h1.setMem (MemSt.ok_hbmErr_tset h1.memOk ..)).rset ..)) (h.retiredHit ..)

/-- Reading a parcel anywhere in local memory keeps the invariant (R94, R186, R190). -/
theorem Inv.readParcel (a : Nat) (src : MemSource) (tag : Nat) : Inv (readParcel s a src tag).1 := by
  unfold Machine.readParcel
  have h1 := h.sramFix (a / 256 * 256) (.user tag) 32
  generalize Machine.sramFix s (a / 256 * 256) (.user tag) 32 = s1 at *
  split
  · exact h.hbmRead ..
  · dsimp only
    generalize parcelCheck _ = c
    split
    · exact h1.setMem (MemSt.ok_setSeal (MemSt.ok_setCheck h1.memOk ..) ..)
    · exact h1
  · exact h1

/-- Writing a parcel anywhere in local memory keeps the invariant (R92, R191). -/
theorem Inv.writeParcel (a : Nat) (src : MemSource) (d : PData) (tag : Nat) : Inv (writeParcel s a src d tag) := by
  unfold Machine.writeParcel
  have h1 := h.parcelWritten (a / 256 * 256)
  split
  · exact h.hbmWrite ..
  · exact h1.setMem (MemSt.ok_setSeal (MemSt.ok_setParcel h1.memOk ..) ..)
  · exact h1.setMem (MemSt.ok_setParcel h1.memOk ..)

end

/-! ## Bytes outside a parcel that is written -/

/-- A stored parcel leaves every byte outside its 256 as it was. -/
theorem MemSt.read_setParcel_ne (m : MemSt) (a : Nat) (d : PData) {j : Nat} (h : j < a ∨ a + 256 ≤ j) :
    Memory.read (m.setParcel a d).bytes j = Memory.read m.bytes j := by
  have hl : (Parcel.bytes d.data).length = 256 := natToBytes_length ..
  unfold MemSt.setParcel
  generalize Parcel.bytes d.data = l at *
  exact Memory.read_writeBytes_ne m.bytes a l (by rw [hl]; exact h)

/-! ### SRAM without errors reads as it stands -/

theorem sideBad_clean {m : MemSt} (h : m.sideErr = []) (hs : m.sealSt = []) (a : Nat) : sideBad m a = false := by
  simp [sideBad, h, tget, MemSt.sealAt, hs, popcount, sealVerified]

theorem sideFix_clean {s : State} (h : s.mem.sideErr = []) {a : Nat} (hb : sideBad s.mem a = false) (who : SramReader) :
    sideFix s a who = s := by
  simp [sideFix, hb, h, tget]

theorem sramWords_clean {s : State} (h : s.mem.sramErr = []) (hs : s.mem.sideErr = []) (hb : ∀ a, sideBad s.mem a = false)
    (who : SramReader) : ∀ n a, sramWords s a who n = s
  | 0, _ => rfl
  | n + 1, a => by
    have e : sramFixWord s a who = s := by simp [sramFixWord, h, tget]
    rw [sramWords, sideFix_clean hs (hb a), ite_self, e]
    exact sramWords_clean h hs hb who n (a + 8)

theorem sramFix_clean {s : State} (h : s.mem.sramErr = []) (hs : s.mem.sideErr = []) (hb : ∀ a, sideBad s.mem a = false)
    (a : Nat) (who : SramReader) (n : Nat) : sramFix s a who n = s := by
  rw [sramFix, sideFix_clean hs (hb a), sramWords_clean h hs hb]

end Sys2Proof.Machine
end

