-- ==== Sys2Proof/Laws/Cores.lean ====
section
/-! SUPPORT. Stopping a core, taking a fault, sending, and completing a bundle keep the invariant. -/

namespace Sys2Proof.Machine

section
variable {s : State} (h : Inv s)
include h

/-- A change of a core that leaves its register tables as they are keeps the invariant. -/
theorem Inv.coreKeep (c : CoreId) (f : CoreSt → CoreSt)
    (hf : ∀ k, (f k).sreg = k.sreg ∧ (f k).vreg = k.vreg ∧ (f k).acc = k.acc) : Inv (Machine.coreMod s c f) :=
  h.coreMod c fun k hk => by
    obtain ⟨a, b, d⟩ := hf k
    unfold CoreSt.canonical at *
    rw [a, b, d]; exact hk

/-- A change of a link that leaves its lane and SENT tables as they are keeps the invariant. -/
theorem Inv.linkKeep (k : Nat) (f : LinkSt → LinkSt) (hf : ∀ x, (f x).lane = x.lane ∧ (f x).sent = x.sent) : Inv (Machine.linkMod s k f) :=
  h.linkMod k fun x hx => by
    obtain ⟨a, b⟩ := hf x
    unfold LinkSt.canonical at *
    rw [a, b]; exact hx

/-! ## Stopping and faults (R78, R110–R113) -/

theorem Inv.stopCore (c : CoreId) (run : CoreRun) : Inv (stopCore s c run) :=
  (h.coreKeep c _ (by intro _; exact ⟨rfl, rfl, rfl⟩)).watchSet ..

omit h in
theorem Inv.stopCores (l : List CoreId) {s : State} (h : Inv s) : Inv (stopCores s l) :=
  Inv.foldl (fun _ c ht => Inv.ite ht (ht.stopCore c .stopped)) l h

theorem Inv.endVoyageWith (set : Nat) (status : Word) : Inv (endVoyageWith s set status) := h.voyageMod ..

theorem Inv.recordCoreFault (c : CoreId) (f : CFault) (loc tag : Nat) : Inv (recordCoreFault s c f loc tag) :=
  (h.logCapture ..).logRecord ..

theorem Inv.coreFault (c : CoreId) (f : CFault) (loc tag : Nat) : Inv (coreFault s c f loc tag) := by
  have h1 := ((h.recordCoreFault c f loc tag).stopCore c .faulted).endVoyageWith (voyGet s c).set (faultStatus c f.cause)
  exact Inv.ite h (h1.discardUnstarted _)

/-- Only the cores' lists of tug faults change. -/
theorem Inv.setHits (l : List TugHit) : Inv { s with cores := { s.cores with tugHits := l } } :=
  { memory := h.memory, consts := h.consts, tables := h.tables, events := h.events, log := h.log, head := h.head, tail := h.tail }

theorem Inv.takeHit (x : TugHit) : Inv (takeHit s x) := h.coreFault ..

theorem Inv.takeTugHit (c : CoreId) : Inv (takeTugHit s c) := by
  unfold Machine.takeTugHit
  split
  · exact (h.setHits _).takeHit _
  · exact h

omit h in
theorem Inv.takeTugHits {s : State} (h : Inv s) : Inv (takeTugHits s) :=
  Inv.foldl (fun _ x ht => ht.takeHit x) _ (h.setHits _)

theorem Inv.takeIssueFault (c : CoreId) (f : CFault) (idx : Nat) : Inv (takeIssueFault s c f idx) :=
  (Inv.ite h (h.cntAdd ..)).coreFault ..

/-! ## Events and poison (R53, R95) -/

theorem Inv.countNumeric (c : CoreId) (loc : Nat) (e : NumEv) : Inv (countNumeric s c loc e) := by
  have h1 : Inv (if e.nan = true then Machine.cntAdd s ((coBlk s c).reg 0x020) 1 else s) := Inv.ite h (h.cntAdd ..)
  have h2 := Inv.ite (c := e.ovf = true) h1 (h1.cntAdd ((coBlk s c).reg 0x024) 1)
  have h3 := Inv.ite (c := e.sat = true) h2 (h2.cntAdd ((coBlk s c).reg 0x028) 1)
  exact Inv.ite h ((h3.logCapture64 ..).voyageMod ..)

theorem Inv.countConsumed (c : CoreId) (p : Bool) : Inv (countConsumed s c p) := Inv.ite h ((h.cntAdd ..).voyageMod ..)

/-! ## Verification (R93, R110) -/

theorem Inv.verifyRead (a words : Nat) : Inv (verifyRead s a words).1 := by
  unfold Machine.verifyRead
  have h1 := h.sramFix (a / 256 * 256) (.user 0) 32
  have h2 := h.sramFix (a / 8 * 8) (.user 0) words
  dsimp only
  generalize Machine.sramFix s (a / 256 * 256) (.user 0) 32 = s1 at *
  generalize Machine.sramFix s (a / 8 * 8) (.user 0) words = s2 at *
  generalize (s1.mem.parcel (a / 256 * 256)).check = x
  generalize parcelCheck _ = c
  by_cases hu : s.mem.sealAt (a / 256 * 256) = sealUnverified
  · rw [if_pos hu]
    by_cases hc : c = x
    · rw [if_pos hc]; exact h1.setMem (MemSt.ok_setSeal h1.memOk ..)
    · rw [if_neg hc]; exact h1
  · rw [if_neg hu]; exact h2

theorem Inv.verifySlot (k : CoreSt) (i : Instr) : Inv (verifySlot s k i).1 := by
  unfold Machine.verifySlot
  split
  · exact h
  · exact h.verifyRead ..

theorem Inv.issueCheck (c : CoreId) (k : CoreSt) (b : Bundle) : Inv (issueCheck s c k b).1 := by
  have h0 := h.verifySlot k b.op0
  unfold Machine.issueCheck
  split
  · exact h
  split
  · exact h
  split
  · exact h
  split
  · rename_i e; rw [e] at h0; exact h0
  · rename_i e; rw [e] at h0; exact h0.verifySlot ..

/-! ## Sending (R139, R247) -/

theorem Inv.enqueue (k : Nat) (p : QPar) : Inv (enqueue s k p) := h.linkKeep k _ (by intro _; exact ⟨rfl, rfl⟩)

omit h in
theorem Inv.countHops (vc addr : Nat) (l : List (Nat × Nat)) {s : State} (h : Inv s) : Inv (countHops s vc addr l) := by
  induction l generalizing s with
  | nil => exact h
  | cons e r ih =>
    obtain ⟨a, b⟩ := e
    unfold Machine.countHops
    split
    · exact ih h
    · rename_i k _
      refine ih (Inv.ite (Inv.cntAdd64 ?_ ..) ?_) <;>
      · split
        · exact (h.cntAdd64 ..).cntAdd64 ..
        · exact h.cntAdd64 ..

theorem Inv.countWay (a b : Point) (vc addr : Nat) : Inv (countWay s a b vc addr) := by
  have h1 := Inv.countHops vc addr (hops (pathNow s a.1 b.1)) h
  refine Inv.ite ?_ h1
  split
  · exact h1
  · exact (h1.cntAdd64 ..).cntAdd64 ..

theorem Inv.countLocal (a b : Home) (vc addr : Nat) : Inv (countLocal s a b vc addr) := h.countWay ..

theorem Inv.withTrans (x : TransSt) : Inv { s with trans := x } := (inv_iff _).2 { (inv_iff s).1 h with }

theorem Inv.holdOut (src dst : Point) (p : QPar) : Inv (holdOut s src dst p) := by
  unfold Machine.holdOut
  extract_lets
  split
  · exact h.withTrans _
  · exact (Inv.countHops _ _ _ h).withTrans _

theorem Inv.sendTo (src : Point) (p : QPar) : Inv (sendTo s src p) := by
  unfold Machine.sendTo
  split
  · exact h
  · split
    · exact h.holdOut ..
    · exact (h.countWay ..).enqueue ..

theorem Inv.sendBollard (src : Point) (dev boll : Nat) (amount : Word) : Inv (sendBollard s src dev boll amount) := h.sendTo ..

theorem Inv.bollSignal (remote : Bool) (dev boll : Nat) (amount : Word) : Inv (bollSignal s remote dev boll amount) :=
  Inv.ite (h.bollAdd ..) (h.sendBollard ..)

/-! ## Completing a bundle (R87) -/

theorem Inv.applyWrite (c : CoreId) (idx : Nat) (w : CoreWrite) : Inv (applyWrite c idx s w) := by
  cases w with
  | sreg r v p => exact h.coreMod c fun k hk => CoreSt.canonical_setS hk ..
  | vreg r v p => exact h.coreMod c fun k hk => CoreSt.canonical_setV hk ..
  | accRows a j v p => exact h.coreMod c fun k hk => CoreSt.canonical_setAccRows hk ..
  | store a n x p =>
    have h0 := h.sideFix a (.user 0)
    have h1 := (Inv.ite (c := n < 8) h0 (h0.sramFixWord a (.user 0))).sramWritten a n
    unfold Machine.applyWrite
    dsimp only
    generalize Machine.sramWritten _ a n = s1 at *
    have hb := Memory.writeNat_wf a n x h1.memOk.1
    generalize Memory.writeNat s1.mem.bytes a n x = b at *
    exact h1.setMem (MemSt.ok_setSeal (MemSt.ok_setPoison (MemSt.ok_bytes h1.memOk hb) ..) ..)
  | storeParcel a x p =>
    have h1 := h.parcelWritten a
    unfold Machine.applyWrite
    dsimp only
    generalize Machine.parcelWritten s a = s1 at *
    have hb := Memory.writeBytes_wf a (Parcel.bytes x) h1.memOk.1
    generalize Memory.writeBytes s1.mem.bytes a (Parcel.bytes x) = b at *
    exact h1.setMem (MemSt.ok_setSeal (MemSt.ok_setPoison (MemSt.ok_bytes h1.memOk hb) ..) ..)
  | verified a => exact h.setMem (MemSt.ok_setSeal h.memOk ..)
  | numeric n o t => exact h.countNumeric ..
  | consumed p => exact h.countConsumed ..
  | poisonSeen => exact h.voyageMod ..
  | wld e =>
    unfold Machine.applyWrite
    refine h.coreKeep c _ ?_
    intro k
    dsimp only
    split <;> exact ⟨rfl, rfl, rfl⟩
  | mma e => unfold Machine.applyWrite; exact h.coreKeep c _ (by intro _; exact ⟨rfl, rfl, rfl⟩)
  | signal b n => exact h.bollAdd ..
  | signalRemote d b n => exact h.sendBollard ..
  | branch t => exact h
  | ending => unfold Machine.applyWrite; exact h.coreKeep c _ (by intro _; exact ⟨rfl, rfl, rfl⟩)

omit h in
theorem Inv.applyWrites (c : CoreId) (idx : Nat) (ws : List CoreWrite) {s : State} (h : Inv s) :
    Inv (ws.foldl (Machine.applyWrite c idx) s) := Inv.foldl (fun _ w ht => ht.applyWrite c idx w) ws h

theorem Inv.commitBundle (c : CoreId) (b : Bundle) : Inv (commitBundle s c b) := by
  unfold Machine.commitBundle
  exact ((Inv.applyWrites c b.idx _ h).coreKeep c _ (by intro _; exact ⟨rfl, rfl, rfl⟩)).takeTugHit c

theorem Inv.finishSlot (c : CoreId) (slot : Nat) (ws : List CoreWrite) : Inv (finishSlot s c slot ws) := by
  unfold Machine.finishSlot
  split
  · exact h
  · dsimp only
    generalize (if slot = 0 then _ else _ : Bundle) = b
    split
    · exact h.commitBundle ..
    · exact h.coreKeep c _ (by intro _; exact ⟨rfl, rfl, rfl⟩)

/-- A slot's instruction keeps the invariant where its effect does. -/
theorem Inv.slotRun (c : CoreId) (slot : Nat) (i : Instr) {eff : State → CoreSt → State × Option (List CoreWrite)}
    (he : ∀ t k, Inv t → Inv (eff t k).1) : Inv (slotRun c slot i eff s) := by
  unfold Machine.slotRun
  split
  · exact h
  · rename_i b _
    have hc : Inv (if b.issued = true then Machine.verifySlot s (coreGet s c) i else Machine.issueCheck s c (coreGet s c) b).1 := by
      split
      · exact h.verifySlot ..
      · exact h.issueCheck ..
    split
    · rename_i e; rw [e] at hc; exact hc.takeIssueFault ..
    · rename_i t e; rw [e] at hc
      have ht : Inv (Machine.coreMod t c fun k => { k with cur := some { b with issued := true } }) :=
        hc.coreKeep c _ (by intro _; exact ⟨rfl, rfl, rfl⟩)
      dsimp only
      have hu := he _ (coreGet (Machine.coreMod t c fun k => { k with cur := some { b with issued := true } }) c) ht
      split
      · rename_i e; rw [e] at hu; exact hu
      · rename_i e; rw [e] at hu; exact hu.finishSlot ..

theorem Inv.slotPure (c : CoreId) (slot : Nat) (i : Instr) (eff : State → CoreSt → List CoreWrite) : Inv (slotPure c slot i eff s) :=
  h.slotRun c slot i fun _ _ ht => ht

end

end Sys2Proof.Machine
end

