-- ==== Sys2Proof/Tests/Slice0.lean ====
section
/-! SUPPORT. Tests: single steps on small states with results taken from the manual, ill-formed operands, and for each statement
with hypotheses a state and operands that meet them. -/

namespace Sys2Proof.Tests
set_option Elab.async false
open Sys2Proof Sys2Proof.Machine Sys2Proof.Claims

/-! ## Small states -/

/-- The state after a command; the state before it where it does not run. -/
def after (c : Instr) (s : State) : State := match exec c s with
  | .next t => t
  | _ => s

/-- A command gives this state. -/
def gives (c : Instr) (s t : State) : Bool := match exec c s with
  | .next u => u == t
  | _ => false

/-- Firmware runs and the die rails are up. -/
def up : State := { State.reset with pw := { mode := .running, rails := true } }

def c0 : CoreId := ⟨0, 0, 0⟩

/-- A core in this state. -/
def onCore (k : CoreSt) : State := coreSet up c0 k

/-- The error log takes records: EL is enabled. -/
def logs (s : State) : State := rset s (blkEL.reg 0x004) 1

/-- A bundle whose slot 0 holds `i`, beside a NOP. -/
def bun0 (i : Instr) : Bundle := { idx := 4, op0 := i, op1 := .nop c0 1, done1 := true }
/-- A bundle whose slot 1 holds `i`, beside a NOP. -/
def bun1 (i : Instr) : Bundle := { idx := 4, op0 := .nop c0 0, op1 := i, done0 := true }

/-- Registers of the tests: integers, FP32 values, addresses. -/
def regsT : Tbl Dword :=
  [(1, 7), (2, 5), (3, 0xFFFFFFFFFFFFFFFE), (4, 0x3F800000), (5, 0x40000000), (6, 0xC0000000), (7, 0x500000000100), (8, 0x41)]

def in0 (i : Instr) : State := onCore { run := .running, sreg := regsT, cur := some (bun0 i) }
def in1 (i : Instr) (v : Tbl Parcel) : State := onCore { run := .running, sreg := regsT, vreg := v, cur := some (bun1 i) }

/-- The s register, or the pc, after a slot-0 instruction. -/
def sAfter (i : Instr) (r : Reg) : Dword := (coreGet (after i (in0 i)) c0).s r
def pcAfter (i : Instr) : Nat := (coreGet (after i (in0 i)) c0).pc

/-- The invariant, computed. -/
def invB (s : State) : Bool :=
  decide ((s.mem.bytes.wf = true ∧ s.cores.consts.wf = true ∧ s.canonical = true) ∧
    s.events.length ≤ maxEvents ∧ s.elog.count ≤ elogSlots ∧ s.elog.head < elogSlots ∧ s.elog.tail < elogSlots)

theorem inv_of {s : State} (h : invB s = true) : Inv s :=
  let data := (of_decide_eq_true h).1
  let log := (of_decide_eq_true h).2
  { memory := data.1, consts := data.2.1, tables := data.2.2
    events := log.1, log := log.2.1, head := log.2.2.1, tail := log.2.2.2 }

/-! ## Slot 0 -/

theorem test_nop : pcAfter (.nop c0 0) = 5 := by decide
theorem test_add : sAfter (.add c0 9 1 3) 9 = 5 := by decide
theorem test_sub : sAfter (.sub c0 9 2 1) 9 = 0xFFFFFFFFFFFFFFFE := by decide
theorem test_and : sAfter (.and c0 9 1 3) 9 = 6 := by decide
theorem test_or : sAfter (.or c0 9 1 8) 9 = 0x47 := by decide
theorem test_xor : sAfter (.xor c0 9 1 2) 9 = 2 := by decide
/-- The count is taken modulo 64: 65 shifts by 1. -/
theorem test_shl : sAfter (.shl c0 9 1 8) 9 = 14 := by decide
theorem test_shr : sAfter (.shr c0 9 3 8) 9 = 0x7FFFFFFFFFFFFFFF := by decide
theorem test_sar : sAfter (.sar c0 9 3 8) 9 = 0xFFFFFFFFFFFFFFFF := by decide
theorem test_mul : sAfter (.mul c0 9 1 3) 9 = 0xFFFFFFFFFFFFFFF2 := by decide
theorem test_cmpeq : sAfter (.cmpeq c0 9 1 1) 9 = 1 := by decide
theorem test_cmplt : sAfter (.cmplt c0 9 3 1) 9 = 1 := by decide
theorem test_cmpltu : sAfter (.cmpltu c0 9 3 1) 9 = 0 := by decide
theorem test_addi : sAfter (.addi c0 9 1 0xFFFFFFFF) 9 = 6 := by decide
theorem test_andi : sAfter (.andi c0 9 3 0xFFFFFFFF) 9 = 0xFFFFFFFE := by decide
theorem test_ori : sAfter (.ori c0 9 0 0x80000000) 9 = 0x80000000 := by decide
theorem test_xori : sAfter (.xori c0 9 1 3) 9 = 4 := by decide
theorem test_shli : sAfter (.shli c0 9 1 64) 9 = 7 := by decide
theorem test_shri : sAfter (.shri c0 9 3 60) 9 = 15 := by decide
theorem test_sari : sAfter (.sari c0 9 3 60) 9 = 0xFFFFFFFFFFFFFFFF := by decide
theorem test_insh : sAfter (.insh c0 9 3 0x12345678) 9 = 0x12345678FFFFFFFE := by decide
theorem test_cmpeqi : sAfter (.cmpeqi c0 9 3 0xFFFFFFFE) 9 = 1 := by decide
theorem test_cmplti : sAfter (.cmplti c0 9 3 0xFFFFFFFF) 9 = 1 := by decide
theorem test_s0_discards : sAfter (.add c0 0 1 2) 0 = 0 ∧ pcAfter (.add c0 0 1 2) = 5 := by decide
/-- 1 + 2 = 3, 1 − 2 = −1, 2 · −2 = −4. -/
theorem test_fadd : sAfter (.fadd c0 9 4 5) 9 = 0x40400000 := by decide
theorem test_fsub : sAfter (.fsub c0 9 4 5) 9 = 0xBF800000 := by decide
theorem test_fmul : sAfter (.fmul c0 9 5 6) 9 = 0xC0800000 := by decide
/-- 2 · 2 + 1 = 5: FMA adds to its own destination. -/
theorem test_fma : sAfter (.fma c0 4 5 5) 4 = 0x40A00000 := by decide
theorem test_fmin : sAfter (.fmin c0 9 4 6) 9 = 0xC0000000 := by decide
theorem test_fmax : sAfter (.fmax c0 9 4 6) 9 = 0x3F800000 := by decide
theorem test_fcmplt : sAfter (.fcmplt c0 9 6 4) 9 = 1 := by decide
theorem test_icvtf : sAfter (.icvtf c0 9 3) 9 = 0xC0000000 := by decide
theorem test_fcvti : sAfter (.fcvti c0 9 6) 9 = 0xFFFFFFFFFFFFFFFE := by decide
theorem test_beq : pcAfter (.beq c0 1 1 0xFFFFFFFD) = 1 ∧ pcAfter (.beq c0 1 2 0xFFFFFFFD) = 5 := by decide
theorem test_bne : pcAfter (.bne c0 1 2 10) = 14 := by decide
theorem test_blt : pcAfter (.blt c0 3 1 2) = 6 := by decide
theorem test_bltu : pcAfter (.bltu c0 3 1 2) = 5 := by decide
theorem test_jmp : pcAfter (.jmp c0 0xFFFFFFFC) = 0 := by decide
theorem test_jal : pcAfter (.jal c0 9 8) = 12 ∧ sAfter (.jal c0 9 8) 9 = 5 := by decide
theorem test_jr : pcAfter (.jr c0 1) = 7 := by decide
theorem test_branch_out_of_range : (coreGet (after (.jmp c0 0xFFFFFFFB) (in0 (.jmp c0 0xFFFFFFFB))) c0).run = .faulted := by decide
theorem test_end : (coreGet (after (.endVoyage c0) (in0 (.endVoyage c0))) c0).run = .waitEnd := by decide
theorem test_end_retire : (coreGet (after (.endRetire c0) (onCore { run := .waitEnd })) c0).run = .ended ∧
    (coreGet (after (.endRetire c0) (onCore { run := .waitEnd, accPending := 1 })) c0).run = .waitEnd := by decide +kernel
theorem test_csrr : sAfter (.csrr c0 9 0) 9 = 0 ∧ sAfter (.csrr c0 9 4) 9 = 0 := by decide

/-- Memory of core C0, pier 0, core 0, with bytes at 0x100 of it. -/
def withBytes (s : State) (l : Memory) : State := { s with mem := { s.mem with bytes := l } }
def bytesT : Memory := [(0x500000000100, 0x11), (0x500000000101, 0x22), (0x500000000104, 0x33), (0x500000000108, 0x44)]

theorem test_ld : (coreGet (after (.ld c0 9 7 0) (withBytes (in0 (.ld c0 9 7 0)) bytesT)) c0).s 9 = 0x3300002211 := by decide
theorem test_lw : (coreGet (after (.lw c0 9 7 4) (withBytes (in0 (.lw c0 9 7 4)) bytesT)) c0).s 9 = 0x33 := by decide
theorem test_ld_misaligned : (coreGet (after (.ld c0 9 7 4) (withBytes (in0 (.ld c0 9 7 4)) bytesT)) c0).run = .faulted := by decide
theorem test_sd : (after (.sd c0 7 1 8) (withBytes (in0 (.sd c0 7 1 8)) bytesT)).mem.bytes =
    [(0x500000000100, 0x11), (0x500000000101, 0x22), (0x500000000104, 0x33), (0x500000000108, 7)] := by decide
theorem test_sw : (after (.sw c0 7 3 4) (withBytes (in0 (.sw c0 7 3 4)) bytesT)).mem.bytes.readBytes 0x500000000104 5 =
    [0xFE, 0xFF, 0xFF, 0xFF, 0x44] := by decide +kernel

/-! ## Witnesses: bundles of cores

A witness shows a state and operands that meet every hypothesis of a statement's clause; where the conclusion can be computed it is
computed beside them. -/

/-- The conditions of `Ready`, computed. -/
def readyB (s : State) (c : CoreId) (slot : Nat) (i : Instr) (b : Bundle) (s1 : State) : Bool :=
  slotBundle s c slot i == some b && (if b.issued then verifySlot s (coreGet s c) i else issueCheck s c (coreGet s c) b) == (s1, none) &&
    (if slot = 0 then b.done1 else b.done0)

theorem ready_of {s : State} {c : CoreId} {slot : Nat} {i : Instr} {b : Bundle} {s1 : State} (h : readyB s c slot i b s1 = true) :
    Ready s c slot i b s1 := by
  simp only [readyB, Bool.and_eq_true, beq_iff_eq] at h
  exact ⟨h.1.1, h.1.2, h.2⟩

theorem ready0 {i : Instr} (h : readyB (in0 i) c0 0 i (bun0 i) (in0 i) = true) : Ready (in0 i) c0 0 i (bun0 i) (in0 i) := ready_of h
theorem ready1 {i : Instr} {v : Tbl Parcel} (h : readyB (in1 i v) c0 1 i (bun1 i) (in1 i v) = true) :
    Ready (in1 i v) c0 1 i (bun1 i) (in1 i v) := ready_of h

/-- A bundle both of whose slots are still to be executed. -/
def bunBoth (i j : Instr) : Bundle := { idx := 4, op0 := i, op1 := j }

theorem witness_BundlesRetireWhole_held :
    (∃ f, intOf (.add c0 9 1 3) = some (c0, 9, f)) ∧
    slotBundle (onCore { run := .running, cur := some (bunBoth (.add c0 9 1 3) (.vmov c0 1 2)) }) c0 0 (.add c0 9 1 3)
      = some (bunBoth (.add c0 9 1 3) (.vmov c0 1 2)) ∧ (bunBoth (.add c0 9 1 3) (.vmov c0 1 2)).done1 = false :=
  ⟨⟨_, rfl⟩, by decide +kernel, by decide +kernel⟩

theorem witness_BundlesRetireWhole_checks :
    issueCheck (onCore { run := .running }) c0 { run := .running } (bunBoth (.add c0 9 1 3) (.vmov c0 1 2))
      = (onCore { run := .running }, none) := by decide +kernel

theorem witness_BundlesRetireWhole_retires :
    Inv (in0 (.add c0 9 1 3)) ∧ (coreGet (in0 (.add c0 9 1 3)) c0).run ≠ .idle ∧ (bun0 (.add c0 9 1 3)).done1 = true ∧
    (bun0 (.add c0 9 1 3)).writes1 = [] ∧
    (coreGet (retired (in0 (.add c0 9 1 3)) c0 (bun0 (.add c0 9 1 3)) 0 [.sreg 9 5 true]) c0).s 9 = 5 ∧
    (coreGet (retired (in0 (.add c0 9 1 3)) c0 (bun0 (.add c0 9 1 3)) 0 [.sreg 1 0 false]) c0).s 1 = 0 :=
  ⟨inv_of (by decide +kernel), by decide +kernel⟩

theorem witness_ScalarResults_int : (∃ f, intOf (.add c0 9 1 3) = some (c0, 9, f)) ∧
    Ready (in0 (.add c0 9 1 3)) c0 0 (.add c0 9 1 3) (bun0 (.add c0 9 1 3)) (in0 (.add c0 9 1 3)) :=
  ⟨⟨_, rfl⟩, ready0 (by decide +kernel)⟩

theorem witness_ScalarResults_fp : (∃ f, fpOf (.fadd c0 9 4 5) = some (c0, 9, f)) ∧
    Ready (in0 (.fadd c0 9 4 5)) c0 0 (.fadd c0 9 4 5) (bun0 (.fadd c0 9 4 5)) (in0 (.fadd c0 9 4 5)) :=
  ⟨⟨_, rfl⟩, ready0 (by decide +kernel)⟩

theorem witness_ScalarResults_fcvti :
    Ready (in0 (.fcvti c0 9 6)) c0 0 (.fcvti c0 9 6) (bun0 (.fcvti c0 9 6)) (in0 (.fcvti c0 9 6)) := ready0 (by decide +kernel)

theorem witness_BranchesGoWhereTheySay : (∃ f, branchSpec (.beq c0 1 1 8) = some (c0, f)) ∧
    Ready (in0 (.beq c0 1 1 8)) c0 0 (.beq c0 1 1 8) (bun0 (.beq c0 1 1 8)) (in0 (.beq c0 1 1 8)) ∧
    Ready (in0 (.jal c0 9 8)) c0 0 (.jal c0 9 8) (bun0 (.jal c0 9 8)) (in0 (.jal c0 9 8)) :=
  ⟨⟨_, rfl⟩, ready0 (by decide +kernel), ready0 (by decide +kernel)⟩

/-- A branch beyond the last bundle takes no part in these statements: its bundle faults at issue (R97). -/
theorem witness_Ready_excludes_faults : readyB (in0 (.jmp c0 0xFFFFFFFB)) c0 0 (.jmp c0 0xFFFFFFFB) (bun0 (.jmp c0 0xFFFFFFFB))
    (in0 (.jmp c0 0xFFFFFFFB)) = false := by decide +kernel

theorem witness_BundleSetsTheProgramCounter :
    (coreGet (in0 (.nop c0 0)) c0).run ≠ .idle ∧
    (coreGet (retired (in0 (.nop c0 0)) c0 (bun0 (.nop c0 0)) 0 (.branch 77 :: useWrites true)) c0).pc = 77 ∧
    (coreGet (retired (in0 (.nop c0 0)) c0 (bun0 (.nop c0 0)) 0 (useWrites true)) c0).pc = 5 := by decide +kernel

/-! Loads and stores at the first and the last address of a core's SRAM. -/

theorem witness_LoadsAndStores :
    Ready (in0 (.ld c0 9 7 0xFFFFFF00)) c0 0 (.ld c0 9 7 0xFFFFFF00) (bun0 (.ld c0 9 7 0xFFFFFF00)) (in0 (.ld c0 9 7 0xFFFFFF00)) ∧
    Ready (in0 (.lw c0 9 7 0xFFEFC)) c0 0 (.lw c0 9 7 0xFFEFC) (bun0 (.lw c0 9 7 0xFFEFC)) (in0 (.lw c0 9 7 0xFFEFC)) ∧
    Ready (in0 (.sd c0 7 1 8)) c0 0 (.sd c0 7 1 8) (bun0 (.sd c0 7 1 8)) (in0 (.sd c0 7 1 8)) ∧
    Ready (in0 (.sw c0 7 3 4)) c0 0 (.sw c0 7 3 4) (bun0 (.sw c0 7 3 4)) (in0 (.sw c0 7 3 4)) ∧
    Ready (in1 (.vld c0 9 7 0) []) c0 1 (.vld c0 9 7 0) (bun1 (.vld c0 9 7 0)) (in1 (.vld c0 9 7 0) []) ∧
    Ready (in1 (.vst c0 9 7 0) []) c0 1 (.vst c0 9 7 0) (bun1 (.vst c0 9 7 0)) (in1 (.vst c0 9 7 0) []) :=
  ⟨ready0 (by decide +kernel), ready0 (by decide +kernel), ready0 (by decide +kernel), ready0 (by decide +kernel), ready1 (by decide +kernel), ready1 (by decide +kernel)⟩

theorem witness_StoreRetires : Inv (in0 (.sd c0 7 1 0)) ∧ tget (in0 (.sd c0 7 1 0)).mem.sramErr (0x500000000100 / 8) 0 = 0 ∧
    (rget (in0 (.sd c0 7 1 0)) ((blkSC (sramUnit (in0 (.sd c0 7 1 0)) 0x500000000100).1).reg 0x02C)).getLsbD 31 = false ∧
    (retired (in0 (.sd c0 7 1 0)) c0 (bun0 (.sd c0 7 1 0)) 0 [.store 0x500000000100 8 7 false]).mem.bytes = [(0x500000000100, 7)] ∧
    (retired (in0 (.sd c0 7 1 0)) c0 (bun0 (.sd c0 7 1 0)) 0 [.store 0x500000000104 4 7 true]).mem.bytes = [(0x500000000104, 7)] :=
  ⟨inv_of (by decide +kernel), by decide +kernel⟩

/-! A line of four bundles of NOPs is held. -/

def fetching : CoreSt := { run := .running, pc := 3, ibuf := [{ line := 0, data := 0 }] }

theorem witness_FetchBringsTheBundle : (coreGet (onCore fetching) c0).run = .running ∧ (coreGet (onCore fetching) c0).cur = none ∧
    (fetchLine (coreSet (onCore fetching) c0 { fetching with badPar := [⟨.scalar 1, 1⟩] ++ fetching.badPar }) c0 3).2 = .inl 0 ∧
    (decodeBundle (onCore fetching) c0 0 0).isLeft = true := by decide +kernel

theorem witness_ScalarControl :
    Ready (in0 (.nop c0 0)) c0 0 (.nop c0 0) (bun0 (.nop c0 0)) (in0 (.nop c0 0)) ∧
    Ready (in1 (.nop c0 1) []) c0 1 (.nop c0 1) (bun1 (.nop c0 1)) (in1 (.nop c0 1) []) ∧
    Ready (in0 (.endVoyage c0)) c0 0 (.endVoyage c0) (bun0 (.endVoyage c0)) (in0 (.endVoyage c0)) ∧
    Ready (in0 (.tide c0 9)) c0 0 (.tide c0 9) (bun0 (.tide c0 9)) (in0 (.tide c0 9)) ∧
    Ready (in0 (.csrr c0 9 9)) c0 0 (.csrr c0 9 9) (bun0 (.csrr c0 9 9)) (in0 (.csrr c0 9 9)) :=
  ⟨ready0 (by decide +kernel), ready1 (by decide +kernel), ready0 (by decide +kernel), ready0 (by decide +kernel), ready0 (by decide +kernel)⟩

theorem witness_ScalarControl_endRetire : (coreGet (onCore { run := .waitEnd }) c0).run = .waitEnd ∧
    (coreGet (onCore { run := .waitEnd }) c0).wq = [] ∧ (coreGet (onCore { run := .waitEnd }) c0).aq = [] ∧
    (coreGet (onCore { run := .waitEnd }) c0).accPending = 0 := by decide +kernel

/-! ### A core of die 2, over base die 1, which the hub reaches -/

def c4 : CoreId := ⟨2, 5, 7⟩

/-- The hub's bundle 0 is UP at both ends. -/
def hubbed (s : State) : State := { s with links := [(0, { st := .up }), (128, { st := .up })] }

def on4 (i : Instr) : State :=
  hubbed (coreSet up c4 { run := .running, sreg := [(1, 7), (2, 3)], cur := some { idx := 4, op0 := i, op1 := .nop c4 1, done1 := true } })
def b4 (i : Instr) : Bundle := { idx := 4, op0 := i, op1 := .nop c4 1, done1 := true }

theorem ready4 {i : Instr} (h : readyB (on4 i) c4 0 i (b4 i) (on4 i) = true) : Ready (on4 i) c4 0 i (b4 i) (on4 i) := ready_of h

theorem witness_BollardInstructions : reachHome (on4 (.bsig c4 1 2 16380)) (c4.die.val / 2, false) (.hub 0) = true ∧
    Ready (on4 (.bsig c4 1 2 16380)) c4 0 (.bsig c4 1 2 16380) (b4 (.bsig c4 1 2 16380)) (on4 (.bsig c4 1 2 16380)) ∧
    Ready (on4 (.bread c4 9 1 16380)) c4 0 (.bread c4 9 1 16380) (b4 (.bread c4 9 1 16380)) (on4 (.bread c4 9 1 16380)) ∧
    Ready (on4 (.bwait c4 1 2 16380)) c4 0 (.bwait c4 1 2 16380) (b4 (.bwait c4 1 2 16380)) (on4 (.bwait c4 1 2 16380)) ∧
    (coreGet (on4 (.bwait c4 1 2 16380)) c4).run = .running :=
  ⟨by decide +kernel, ready4 (by decide +kernel), ready4 (by decide +kernel), ready4 (by decide +kernel), by decide +kernel⟩

/-- 16380 + 7 = 3 modulo 16384. -/
theorem test_bsig : bollGet (after (.bsig c4 1 2 16380) (on4 (.bsig c4 1 2 16380))) 3 = 3 := by decide +kernel
theorem test_bread : (coreGet (after (.bread c4 9 1 16380) { on4 (.bread c4 9 1 16380) with boll := { val := [(3, 0x80000001)] } }) c4).s 9
    = 0x80000001 := by decide +kernel
theorem test_bwait : (coreGet (after (.bwait c4 1 2 16380) (on4 (.bwait c4 1 2 16380))) c4).run = .waitBollard ∧
    watchGet (after (.bwait c4 1 2 16380) (on4 (.bwait c4 1 2 16380))) (.core c4) = some { boll := 3, target := 3 } := by decide +kernel
/-- A core that cannot reach the hub stalls. -/
theorem test_bread_waits : (coreGet (after (.bread c4 9 1 3) { on4 (.bread c4 9 1 3) with links := [] }) c4).cur.isSome = true := by decide +kernel

/-! ## Slot 1 -/

/-- Lane 0 of a vector after a slot-1 instruction. -/
def vAfter (i : Instr) (v : Tbl Parcel) (r : Reg) : Parcel := (coreGet (after i (in1 i v)) c0).v r

/-- v1 holds 1.0, 2.0 in lanes 0 and 1, v2 holds 2.0, −4.0, v3 holds 1 in each. -/
def vecs : Tbl Parcel := [(1, 0x400000003F800000), (2, 0xC080000040000000), (3, 0x3F8000003F800000)]

theorem test_vmov : vAfter (.vmov c0 9 1) vecs 9 = 0x400000003F800000 := by decide +kernel
theorem test_vadd : vAfter (.vadd c0 9 1 2 0) vecs 9 = 0xC000000040400000 := by decide +kernel
theorem test_vsub : vAfter (.vsub c0 9 1 2 0) vecs 9 = 0x40C00000BF800000 := by decide +kernel
theorem test_vmul : vAfter (.vmul c0 9 1 2 0) vecs 9 = 0xC100000040000000 := by decide +kernel
theorem test_vmin : vAfter (.vmin c0 9 1 2 0) vecs 9 = 0xC08000003F800000 := by decide +kernel
theorem test_vmax : vAfter (.vmax c0 9 1 2 0) vecs 9 = 0x4000000040000000 := by decide +kernel
/-- v3 takes 1 · 2 + 1 = 3 and 2 · −4 + 1 = −7. -/
theorem test_vfma : vAfter (.vfma c0 3 1 2 0) vecs 3 = 0xC0E0000040400000 := by decide +kernel
/-- 2.0 of s5 times each lane. -/
theorem test_vscl : vAfter (.vscl c0 9 2 5 0) vecs 9 = 0xC100000040800000 := by decide +kernel
theorem test_vmovs : (coreGet (after (.vmovs c0 9 1 0 1) (in1 (.vmovs c0 9 1 0 1) vecs)) c0).s 9 = 0x40000000 := by decide +kernel
/-- The sum 1 + 2, the largest −4 against 2, and its lane. -/
theorem test_vrsum : (coreGet (after (.vrsum c0 9 1 0) (in1 (.vrsum c0 9 1 0) vecs)) c0).s 9 = 0x40400000 := by decide +kernel
theorem test_vrmax : (coreGet (after (.vrmax c0 9 2 0) (in1 (.vrmax c0 9 2 0) vecs)) c0).s 9 = 0x40000000 := by decide +kernel
theorem test_vargmax : (coreGet (after (.vargmax c0 9 1 0) (in1 (.vargmax c0 9 1 0) vecs)) c0).s 9 = 1 := by decide +kernel

/-- 2.0 of s5 to every lane. -/
theorem test_vbcast : laneAt 4 (vAfter (.vbcast c0 9 5 0) vecs 9) 63 = 0x40000000 := by decide +kernel
/-- Lane 0 takes lane 1 of v1, lane 1 lane 0 (indices modulo 64). -/
theorem test_vshuf : laneAt 4 (vAfter (.vshuf c0 9 1 2 0) [(1, 0x400000003F800000), (2, 0x4000000041)] 9) 0 = 0x40000000 ∧
    laneAt 4 (vAfter (.vshuf c0 9 1 2 0) [(1, 0x400000003F800000), (2, 0x4000000041)] 9) 1 = 0x3F800000 := by decide +kernel
/-- FP32 1.0 and 2.0 to BF16, part 1: bytes 128 and on; the rest of v2 stays. -/
theorem test_vcvt : laneAt 4 (vAfter (.vcvt c0 2 1 0 1 1) vecs 2) 32 = 0x40003F80 ∧
    laneAt 4 (vAfter (.vcvt c0 2 1 0 1 1) vecs 2) 0 = 0x40000000 := by decide +kernel
/-- F4 codes 2 and 4 are 1.0 and 2.0; the scale 127 is 1. -/
theorem test_vup4 : laneAt 4 (vAfter (.vup4 c0 9 1 2 0) [(1, 0x42), (2, 0x7F7F)] 9) 0 = 0x3F800000 ∧
    laneAt 4 (vAfter (.vup4 c0 9 1 2 0) [(1, 0x42), (2, 0x7F7F)] 9) 1 = 0x40000000 := by decide +kernel
theorem test_vpk4_keeps : laneAt 32 (vAfter (.vpk4 c0 9 1 2 1) [(1, 0), (2, 5), (9, 7)] 9) 0 = 7 := by decide +kernel

theorem witness_VectorInstructions : (∃ f, vecOf (.vadd c0 9 1 2 0) = some (c0, 9, f)) ∧ (∃ f, redOf (.vrsum c0 9 1 0) = some (c0, 9, f)) ∧
    Ready (in1 (.vadd c0 9 1 2 0) vecs) c0 1 (.vadd c0 9 1 2 0) (bun1 (.vadd c0 9 1 2 0)) (in1 (.vadd c0 9 1 2 0) vecs) ∧
    Ready (in1 (.vrsum c0 9 1 0) vecs) c0 1 (.vrsum c0 9 1 0) (bun1 (.vrsum c0 9 1 0)) (in1 (.vrsum c0 9 1 0) vecs) ∧
    Ready (in1 (.vargmax c0 9 1 0) vecs) c0 1 (.vargmax c0 9 1 0) (bun1 (.vargmax c0 9 1 0)) (in1 (.vargmax c0 9 1 0) vecs) ∧
    Ready (in1 (.vpk4 c0 9 1 2 7) vecs) c0 1 (.vpk4 c0 9 1 2 7) (bun1 (.vpk4 c0 9 1 2 7)) (in1 (.vpk4 c0 9 1 2 7) vecs) :=
  ⟨⟨_, rfl⟩, ⟨_, rfl⟩, ready1 (by decide +kernel), ready1 (by decide +kernel), ready1 (by decide +kernel), ready1 (by decide +kernel)⟩

/-! ## The matrix array -/

theorem test_vamov : (coreGet (after (.vamov c0 1 1 15) (in1 (.vamov c0 1 1 15) vecs)) c0).accAt 1 30 0 = 0x3F800000 ∧
    (coreGet (after (.vamov c0 1 1 15) (in1 (.vamov c0 1 1 15) vecs)) c0).accAt 1 30 1 = 0x40000000 := by decide +kernel
theorem test_amov : laneAt 4 ((coreGet (after (.amov c0 9 1 15) (onCore
    { run := .running, acc := [(2047, 5)], cur := some (bun1 (.amov c0 9 1 15)) })) c0).v 9) 63 = 5 := by decide +kernel

/-- A queue entry of a BF16 tile at 0x100 of the core's SRAM, and one of four rows of BF16 data there. -/
def wldT : WldEntry := { seq := 0, loc := 0, buf := 0, fmt := 1, data := 0x500000000100, scale := none, poison := false }
def mmaT : MmaEntry := { seq := 1, loc := 0, buf := 0, acc := 1, fa := 1, fb := 1, firstRow := 28, rows := 4, fresh := true, stride := 64,
                         data := 0x500000000100, scale := none, poison := false }

theorem witness_MatrixInstructions :
    Ready (in1 (.amov c0 9 1 15) []) c0 1 (.amov c0 9 1 15) (bun1 (.amov c0 9 1 15)) (in1 (.amov c0 9 1 15) []) ∧
    Ready (in1 (.vamov c0 1 9 15) []) c0 1 (.vamov c0 1 9 15) (bun1 (.vamov c0 1 9 15)) (in1 (.vamov c0 1 9 15) []) ∧
    Ready (in1 (.wld c0 7 0 1 0) []) c0 1 (.wld c0 7 0 1 0) (bun1 (.wld c0 7 0 1 0)) (in1 (.wld c0 7 0 1 0) []) ∧
    Ready (in1 (.mma c0 1 7 0 1 1 0 0) []) c0 1 (.mma c0 1 7 0 1 1 0 0) (bun1 (.mma c0 1 7 0 1 1 0 0)) (in1 (.mma c0 1 7 0 1 1 0 0) []) ∧
    (coreGet (in1 (.vamov c0 1 9 15) []) c0).accPending.getLsbD 1 = false ∧ (coreGet (in1 (.vamov c0 1 9 15) []) c0).aq = [] ∧
    tsorted (coreGet (in1 (.vamov c0 1 9 15) []) c0).acc = true :=
  ⟨ready1 (by decide +kernel), ready1 (by decide +kernel), ready1 (by decide +kernel), ready1 (by decide +kernel), by decide +kernel⟩

theorem witness_MatrixQueues_load : (coreGet (onCore { wq := [wldT], aq := [mmaT] }) c0).wq = [wldT] ∧
    (∀ x ∈ [mmaT], x.buf = wldT.buf → wldT.seq ≤ x.seq) ∧
    (feed (coreSet (onCore { wq := [wldT], aq := [mmaT] }) c0 { aq := [mmaT] }) [(0x500000000100, 256 * tileParcels 1)] []).2.2 = none := by
  decide +kernel

theorem witness_MatrixQueues_pass : (coreGet (onCore { aq := [mmaT] }) c0).aq = [mmaT] ∧ mmaT.fresh = true ∧
    (∀ b ∈ [(⟨.accum 0, 3⟩ : ParityBit)], b.reg ≠ .weight mmaT.buf ∧ (mmaT.fresh = true ∨ accBit mmaT.acc (mmaT.firstRow * 32) (mmaT.rows * 32) b = false)) ∧
    (feed (cntAdd (coreSet (onCore { aq := [mmaT] }) c0 { badPar := [⟨.accum 0, 3⟩] }) ((coBlk (onCore { aq := [mmaT] }) c0).reg 0x054) 9)
      (mmaSpans mmaT) []).2.2 = none := by
  decide +kernel

/-- A Q2 tile whose codes are all 1 and whose scale words choose level set 0 and scale 128: the elements are level 1 of set 0. -/
theorem test_formatTile_q2 : ((formatTile fmtQ2 0x50 (2 ^ 2048 / 3) (some 0x0080) false).column 0).getD 7 0 = 5 ∧
    (formatTile fmtQ2 0x50 (2 ^ 2048 / 3) (some 0x0080) false).scales.toNat % 256 = 128 := by decide +kernel

theorem witness_MatrixQueues_complete : Inv (onCore { accPending := 15 }) ∧
    (coreGet (after (.accumulatorComplete c0 2) (onCore { accPending := 15 })) c0).accPending = 11 :=
  ⟨inv_of (by decide +kernel), by decide +kernel⟩

/-- A write of the register's reset value, which a core's table does not list, is the one that needs rising keys. -/
theorem witness_ArrayPassElements : tsorted ([(1, 5)] : Tbl Word) = true ∧ mmaT.firstRow + mmaT.rows ≤ 32 := by decide

/-! ## Faults, the end of voyages, self-test -/

/-- A chart whose core set 3 holds the core. -/
def setT : Chart := { sets := [{ num := 3, sram := 0, cores := [c0, c4] }] }

/-- Core set 3 runs a voyage. -/
def sailing (run : CoreRun) (ending : Option Word) : State :=
  let s := { up with hm := { st := .running, chart := some setT, dies := [(8, { st := .up })] },
                     launch := { run := [(3, some { voyage := 7, index := 9, entry := { voyage := 7, coreset := 3 }, ending := ending })] } }
  voySet (coreSet s c0 { run := run, idle := 2 ^ 24 * 1000 }) c0 { set := 3, voyage := 7 }

theorem witness_CoreFaultStopsTheSet : Inv (sailing .running none) ∧ (coreGet (sailing .running none) c0).run.active = true ∧
    (coreGet (coreFault (sailing .running none) c0 ⟨0x08, 0, 0⟩ 0 0) c0).run = .faulted ∧
    (voyageGet (coreFault (sailing .running none) c0 ⟨0x08, 0, 0⟩ 0 0) 3).map (fun v => v.ending) = some (some 0x18) :=
  ⟨inv_of (by decide +kernel), by decide +kernel⟩

/-- A second fault in the same nanosecond, of a lower core, gives the voyage its status; one of a later nanosecond does not (R113). -/
theorem test_first_fault :
    let late : State := { sailing .running (some 0x5010018) with now := 1 }
    (voyageGet (coreFault (sailing .running (some 0x5010018)) c0 ⟨0x08, 0, 0⟩ 0 0) 3).map (fun v => v.ending) = some (some 0x18) ∧
    (voyageGet (coreFault late c0 ⟨0x08, 0, 0⟩ 0 0) 3).map (fun v => v.ending) = some (some 0x5010018) := by decide +kernel

theorem witness_CoreFaultStopsTheSet_stop : Inv (sailing .running (some 5)) ∧
    (voyageGet (sailing .running (some 5)) 3).map (fun v => v.ending.isSome) = some true ∧
    (coreGet (stopEnding (sailing .running (some 5))) c0).run = .stopped :=
  ⟨inv_of (by decide +kernel), by decide +kernel, by decide +kernel⟩

theorem witness_CoreEvents : 2 ^ 24 * 1000 ≤ (coreGet (sailing .running none) c0).idle ∧ (coreGet (sailing .running none) c0).run = .running ∧ (coreGet (sailing .waitEnd none) c0).run = .waitEnd ∧
    (voyageGet (sailing .stopped (some 5)) 3).map (fun v => v.ending) = some (some 5) ∧
    (∀ c ∈ setCores (sailing .stopped (some 5)) 3, (coreGet (sailing .stopped (some 5)) c).run.active = false) ∧
    setDrained (sailing .stopped (some 5)) 3 = true := by decide +kernel

theorem test_core_watchdog : (coreGet (after (.coreWatchdog c0) (sailing .running none)) c0).run = .faulted := by decide +kernel
theorem test_voyage_fault_end : voyageGet (after (.voyageFaultEnd 3) (sailing .stopped (some 5))) 3 = none := by decide +kernel

/-- A die that is UP, in a forced window with 20 µs left. -/
def testing (active : Option (Nat × Dword)) : State :=
  let s := { up with hm := { st := .running, chart := some {}, dies := [(8, { st := .up })] }, tide := { hub := 100000 },
                     slack := { forced := some 120000 } }
  { s with cores := { s.cores with pier := tput [] 0 { test := { active := active } } } }

theorem witness_CoreEvents_slice : dieState (testing none) (slotC 0) = .up ∧ 8000 ≤ windowLeft (testing none) kindSelfTest ∧
    nextSite (testing none) 0 0 {} = some 0 ∧
    (pierGet (after (.selfTestSlice 0 0 true) (testing none)) 0).test.active = some (0, 100000) := by decide +kernel

theorem witness_CoreEvents_sliceEnds : dieState (testing (some (0, 92000))) (slotC 0) = .up ∧
    (pierGet (testing (some (0, 92000))) (pierKey 0 0)).test.active = some (0, 92000) ∧
    (92000 : Nat) + 8000 ≤ (testing (some (0, 92000))).tide.hub.toNat := by decide +kernel

/-! ## Tugs -/

def t4 : TugId := ⟨2, 5, 0⟩

/-- A copy of one parcel between base-die addresses, with WAIT on bollard `wait` where it is not 0. -/
def copyT (src dst wait next : Nat) : BitVec 512 :=
  fields 512 [(32, 0), (32, 1), (64, src), (64, dst), (96, 0), (14, wait), (1, if wait = 0 then 0 else 1), (17, 0), (32, 5),
              (32, 0), (32, 0), (32, 0), (64, next)]

def slotT (d : BitVec 512) (started : Bool) : TugSlot := { core := c4, loc := 0, set := 3, voyage := 7, desc := d, poisoned := false, started := started }

/-- The tug holds these slots; its die is UP and its set's voyage runs. -/
def tugged (l : List TugSlot) (p : List TugPend) : State :=
  let s := hubbed { up with hm := { st := .running, chart := some setT, dies := [(1, { st := .up }), (2, { st := .up }), (8, { st := .up }), (10, { st := .up })] },
                            launch := { run := [(3, some { voyage := 7, index := 9, entry := { voyage := 7, coreset := 3 } })] } }
  tugSet s (TugId.key t4) { slots := l, pend := p }

def q1 : Nat := 0x400020000000

/-- The posting core: its descriptor lies at the start of its SRAM. -/
def postK : CoreSt := { run := .running, sreg := [(1, BitVec.ofNat 64 (coreSram c4))], cur := some (b4 (.tugp c4 1 1)) }
def postT : State := hubbed (coreSet up c4 postK)

theorem witness_TugCommands_tugp : Ready postT c4 0 (.tugp c4 1 1) (b4 (.tugp c4 1 1)) postT ∧ (tugGet postT (tugKey 2 5 1)).used < 16 ∧
    (tugGet (after (.tugp c4 1 1) postT) (tugKey 2 5 1)).slots.length = 1 :=
  ⟨ready_of (by decide +kernel), by decide +kernel, by decide +kernel⟩

theorem witness_TugCommands_fault :
    headSlot (tugged [slotT 0 false] []) (TugId.key t4) = some (slotT 0 false) ∧ tugAlive (tugged [slotT 0 false] []) t4 = true ∧
    descCode (tugged [slotT 0 false] []) c4 0 false = 4 := by decide +kernel

theorem witness_TugCommands_wait :
    descCode (tugged [] []) c4 (copyT q1 (q1 + 256) 9 0) false = 0 ∧
    waitMet (tugged [slotT (copyT q1 (q1 + 256) 9 0) false] []) (slotT (copyT q1 (q1 + 256) 9 0) false) = false ∧
    watchGet (tugged [slotT (copyT q1 (q1 + 256) 9 0) false] []) (.tug t4) = none ∧
    reachHome (tugged [slotT (copyT q1 (q1 + 256) 9 0) false] []) (t4.die.val / 2, false) (.hub 0) = true ∧
    watchGet (after (.tugDescriptorStart t4) (tugged [slotT (copyT q1 (q1 + 256) 9 0) false] [])) (.tug t4) =
      some { boll := 9, target := 5 } := by decide +kernel

theorem witness_TugCommands_start :
    waitMet (tugged [slotT (copyT q1 (q1 + 256) 0 0) false] []) (slotT (copyT q1 (q1 + 256) 0 0) false) = true ∧
    (after (.tugDescriptorStart t4) (withBytes (tugged [slotT (copyT q1 (q1 + 256) 0 0) false] []) [(q1, 9)])).mem.bytes =
      [(q1, 9), (q1 + 256, 9)] := by decide +kernel

/-- The slot whose descriptor has issued its only read, and names a next one. -/
def issuedT : TugSlot := { slotT (copyT q1 (q1 + 256) 0 (coreSram c4)) true with issued := 1 }

theorem witness_TugCommands_chain : headSlot (tugged [issuedT] []) (TugId.key t4) = some issuedT ∧
    dTotal issuedT.desc ≤ issuedT.issued ∧ dNext issuedT.desc ≠ 0 ∧ setEnding (tugged [issuedT] []) issuedT.set = false := by decide +kernel

theorem witness_TugCommands_translate : tugAlive (tugged [slotT (copyT q1 (q1 + 256) 0 0) true] []) t4 = true ∧
    runOut (tugged [slotT (copyT q1 (q1 + 256) 0 0) true] []) (TugId.key t4) = false ∧
    (slotT (copyT q1 (q1 + 256) 0 0) true).issued < dTotal (copyT q1 (q1 + 256) 0 0) ∧
    (lookSides (tugged [] []) (TugId.key t4) (slotT (copyT q1 (q1 + 256) 0 0) true) (sides (tugged [] []) (copyT q1 (q1 + 256) 0 0))).2.miss
      = none := by decide +kernel

theorem witness_TugCommands_miss :
    headSlot (tugged [{ slotT 0 true with miss := some 5 }] []) (TugId.key t4) = some { slotT 0 true with miss := some 5 } ∧
    (pierGet (after (.translationMissFetch t4) (tugged [{ slotT 0 true with miss := some 5 }] [])) (TugId.key t4 / 2)).cache = [(5, 0)] ∧
    translated (tugged [{ slotT 0 true with miss := some 5 }] []) { slotT 0 true with miss := none } = true := by decide +kernel

/-- A berth side whose entry is missed: OP 0 with the source in berth mode. -/
def berthT : BitVec 512 := fields 512 [(6, 0), (26, 1), (32, 1), (64, 5 + 2 ^ 31), (64, q1)]

theorem witness_TugCommands_missBerth :
    translated (tugged [] []) { slotT berthT true with miss := none } = false ∧
    (sides (tugged [] []) berthT).find? (fun y => y.berth && y.index == 6 && (if y.dst then (slotT berthT true).dst
      else (slotT berthT true).src).isNone) = none := by decide +kernel

def pendT : TugPend := { core := c4, loc := 0, set := 3, voyage := 7, desc := fields 512 [(352, 0), (14, 9), (5, 0), (1, 1), (12, 0), (32, 4)], last := false, serial := 0 }

theorem witness_TugCommands_done : (tugGet (tugged [] [pendT]) (TugId.key t4)).pend = [pendT] ∧
    tget (tugGet (tugged [] [pendT]) (TugId.key t4)).waits 0 0 = 0 ∧
    reachHome (tugged [] [pendT]) (t4.die.val / 2, false) (.hub 0) = true ∧
    bollGet (after (.tugDone t4) (tugged [] [pendT])) 9 = 4 := by decide +kernel

theorem witness_TugMovesAParcel : Inv (tugged [] []) ∧ (tugged [] []).mem.sramErr = [] ∧ (0 : Nat) % 256 = 0 ∧ 0x17FFFF00 < baseSramSize ∧
    0x17FFFF00 % 256 = 0 ∧ (rget (tugged [] []) ((blkSC (slotQ 5)).reg 0x02C)).getLsbD 31 = false ∧
    (tugGet (tugged [] []) 0).part = none ∧ (tugged [] []).mem.sideErr = [] :=
  ⟨inv_of (by decide +kernel), by decide +kernel⟩

/-- A byte at 64 is written by the second access, one at 0 by the first. -/
theorem witness_TugMovesAParcel_core : inCore (coreSram c4) = true ∧ coreSram c4 % 256 = 0 ∧ sideBad (tugged [] []).mem (coreSram c4) = false ∧
    (rget (tugged [] []) ((blkSC (sramUnit (tugged [] []) (coreSram c4)).1).reg 0x02C)).getLsbD 31 = false ∧
    (tugWrite (tugged [] []) 0 (coreSram c4) ⟨7 + 2 ^ 512, 9, true⟩ 0).mem.bytes = [(coreSram c4, 7)] ∧
    (finishPart (tugWrite (tugged [] []) 0 (coreSram c4) ⟨7 + 2 ^ 512, 9, true⟩ 0) 0).mem.bytes = [(coreSram c4, 7), (coreSram c4 + 64, 1)] := by
  decide +kernel

/-! ## The berth table -/

/-- Staged words of an entry, with BUSY where it is said. -/
def berthed (w0 w1 : Word) (busy : Bool) : State :=
  { up with regs := { words := [(blkBT.reg 0x010, w0), (blkBT.reg 0x014, w1)], busy := if busy then [blkBT.base] else [] } }

/-- Codes 1 and 2 at the boundaries: HOME 21 is the last, PAGE 95 of a base die's SRAM the last. -/
theorem witness_BerthTable_commit :
    Inv (berthed 0x2A 0x5F false) ∧ isBusy (berthed 0 0 true) blkBT = true ∧ berthCode (staged (berthed 0x2C 0 false)) = 1 ∧
    berthCode (staged (berthed 0x2A 0x5F false)) = 0 ∧ berthCode (staged (berthed 0x2A 0x60 false)) = 2 ∧
    hubUp (berthed 0x2A 0x5F false) = true ∧ (0x80000005 : Word).getLsbD 31 = true ∧ (berthed 0x2A 0x5F false).cores.tug = [] ∧
    (berthed 0x2A 0x5F false).trans.reads = [] ∧ (berthed 0x2A 0x5F false).hm.st ≠ .loading ∧
    berthGet (after (.btCommit 0x80000005) (berthed 0x2A 0x5F false)) 5 = staged (berthed 0x2A 0x5F false) :=
  ⟨inv_of (by decide +kernel), by decide +kernel⟩

theorem witness_BerthTable_sweep : Inv { berthed 0 0 false with berth := { table := [(5, 1), (6, 3)] } } ∧
    berthGet (after (.btSweep 0x80000000) { berthed 0 0 false with berth := { table := [(5, 1), (6, 3)] } }) 5 = 0x10000 :=
  ⟨inv_of (by decide +kernel), by decide +kernel⟩

def opT : BerthOp := { entries := [5], piers := [pierKey 2 5], sweep := false, result := 0 }

theorem witness_BerthTable_invalidate : pierKey 2 5 ∈ opT.piers ∧
    (∀ i ∈ opT.entries, entryInUse { up with berth := { op := some opT } } (pierKey 2 5) i = false) ∧
    (after (.berthInvalidate 2 5) { up with berth := { op := some opT } }).berth.op = none := by decide +kernel

/-! ## Launches -/

/-- A running chart with core set 3 and its voyage 7 at bundle 12, and this launch table. -/
def launching (t : Tbl LEntry) (hub : Dword) : State :=
  let c : Chart := { setT with voyages := [{ voyage := 7, set := 3, entry := 12, image := 0, stepLarge := true }] }
  let h : HmSt := { st := .running, chart := some c }
  { up with hm := h, tide := { hub := hub }, launch := { table := t } }

def entT (st : LState) (time fire : Dword) : LEntry :=
  { st := st, time := time, voyage := 7, coreset := 3, ctrl := 3, arg := 0x100, done := 0x80009, doneAdd := 2, fire := fire }

/-- An entry is reached 256 ticks ahead of its TIME, and an earlier one fires at the lead (R126). -/
theorem witness_FireTimes : reach (launching [] 1000) (entT .pending 1256 0) = some (1256, 0) ∧
    reach (launching [] 1000) (entT .pending 1257 0) = none ∧ (reach (launching [] 1000) (entT .pending 1255 0)).map Prod.fst = some 1256 := by
  decide +kernel

theorem witness_LaunchCommands_arm : inGap (launching [] 1000) = false ∧ armedFull (launching [(9, entT .pending 1256 0)] 1000) 3 = false ∧
    inGap { launching [(9, entT .pending 1256 0)] 1000 with red := { gapEnd := 1 } } = true ∧
    gives .armLaunch { launching [(9, entT .pending 1256 0)] 1000 with red := { gapEnd := 1 } }
      { launching [(9, entT .pending 1256 0)] 1000 with red := { gapEnd := 1 } } = true ∧
    firstEntry (entriesIn (launching [(9, entT .pending 1256 0)] 1000) .pending) = some (9, entT .pending 1256 0) ∧
    (entryGet (after .armLaunch (launching [(9, entT .pending 1256 0)] 1000)) 9).st = .armed ∧
    (entryGet (after .armLaunch (launching [(9, entT .pending 1256 0)] 1000)) 9).fire = 1256 := by decide +kernel

/-- CTRL.HOLD and a busy set. -/
theorem witness_LaunchCommands_hold :
    coreSetBusy (launching [(8, entT .armed 1200 1200), (9, { entT .pending 1256 0 with ctrl := 7 })] 1000) 3 = true ∧
    (entryGet (after .armLaunch (launching [(8, entT .armed 1200 1200), (9, { entT .pending 1256 0 with ctrl := 7 })] 1000)) 9).st = .held := by
  decide +kernel

theorem witness_LaunchCommands_forecast : stepLarge (launching [(9, entT .armed 1200 1200)] 1000) (entT .armed 1200 1200) = true ∧
    (entryGet (after (.loadStepForecast 9) (launching [(9, entT .armed 1200 1200)] 1000)) 9).forecast = true := by decide +kernel

theorem witness_LaunchCommands_complete :
    (voyageGet (voyageSet (coreSet (coreSet (launching [] 0) c0 { run := .ended }) c4 { run := .ended }) 3
      (some { voyage := 7, index := 9, entry := entT .armed 1200 1200 })) 3).isSome = true ∧
    (∀ c ∈ setCores (launching [] 0) 3, (coreGet (coreSet (coreSet (launching [] 0) c0 { run := .ended }) c4 { run := .ended }) c).run = .ended) ∧
    setDrained (launching [] 0) 3 = true ∧
    bollGet (after (.voyageComplete 3) (voyageSet (coreSet (coreSet (launching [] 0) c0 { run := .ended }) c4 { run := .ended }) 3
      (some { voyage := 7, index := 9, entry := entT .armed 1200 1200 }))) 9 = 2 := by decide +kernel

theorem witness_LaunchCommands_cancel : hubUp (launching [] 0) = true ∧ isBusy (launching [] 0) blkTD = false ∧
    (entryGet (after (.tdCancel 0x80000009) (launching [(9, entT .held 1256 0)] 0)) 9).st = .free ∧
    (entryGet (after (.tdCancel 0x80000009) (launching [(9, entT .armed 1256 0)] 0)) 9).st = .armed := by decide +kernel

theorem witness_LaunchFires :
    Inv (launching [(9, entT .armed 1200 1200)] 1200) ∧ (entryGet (launching [(9, entT .armed 1200 1200)] 1200) 9).st = .armed ∧
    noStart (launching [(9, entT .armed 1200 1200)] 1200) 3 = 0 ∧ (voyRec (launching [] 0) 7 3).map (fun r => r.entry) = some 12 ∧
    (coreGet (after (.launchFire 9) (launching [(9, entT .armed 1200 1200)] 1200)) c4).s 1 = 0x100 ∧
    (coreGet (after (.launchFire 9) (launching [(9, entT .armed 1200 1200)] 1200)) c4).pc = 12 :=
  ⟨inv_of (by decide +kernel), by decide +kernel⟩

/-! ## Bollards -/

def waiting : State := { up with boll := { val := [(3, 0xFFFFFFFF)], watch := [(watchKey (.core c4), some { boll := 3, target := 1, hit := some 0 })] }, now := 101 }

theorem witness_BollardCommands : Inv waiting ∧ inGap waiting = false ∧ isBusy waiting blkBL = false ∧ bollGet (bollAdd waiting 3 2) 3 = 1 ∧
    watchGet waiting (.core c4) = some { boll := 3, target := 1, hit := some 0 } ∧
    watchGet (after (.bollardRelease (.core c4)) waiting) (.core c4) = none ∧
    hubUp waiting = true ∧ (0x8003 : Word) >>> 14 ≠ 0 ∧ bollGet (after (.blHostAdd 0x8003) waiting) 3 = 1 ∧
    (3 : Word) >>> 14 = 0 ∧ bollGet (after (.blHostAdd 3) waiting) 3 = 0xFFFFFFFF ∧
    bollGet (after (.blValue 16383 7 false) waiting) 16383 = 7 :=
  ⟨inv_of (by decide +kernel), by decide +kernel⟩

theorem witness_AtLeastAcrossWrap :
    watchGet { waiting with boll := { val := [(3, 0xFFFFFFF0)], watch := [(watchKey (.core c4), some { boll := 3, target := 8 })] } } (.core c4)
      = some { boll := 3, target := 8 } ∧ (0x7FFFFFFF : Nat) < 2 ^ 31 := by decide +kernel

/-! ## Slack water and the tide -/

def slackT : State := { up with hm := { chart := some { slack := [{ period := 100000, phase := 0, length := 50000, kinds := 15 }] } },
                                tide := { hub := 50000000, everEnabled := true, offs := [] }, slack := { quiet := 20000 } }

theorem witness_SlackWater : spanOpen slackT = true ∧ (after .slackWindow slackT).slack = { quiet := 0, last := 50000000 } ∧
    slackT.tide.everEnabled = true ∧ slackT.slack.forced = none ∧ slackT.slack.last.toNat + 50000000 ≤ slackT.tide.hub.toNat ∧
    (after .forcedSlack slackT).slack.forced = some 50020256 ∧
    (after .forcedSlackEnd { slackT with slack := { forced := some 50000000 } }).slack = { last := 50000000 } := by decide +kernel

/-- Die 2 is UP and two ticks behind. -/
def tideT (t : TideSt) : State :=
  { up with hm := { dies := [(2, { st := .up })] }, tide := t, now := 200 }

theorem witness_TideCommands_beacon : dieState (tideT { dieOfs := [(2, -2)] }) 2 = .up ∧
    (after (.beaconCheckMark 2) (tideT { dieOfs := [(2, -2)] })).tide.dieSlew = [(2, 2)] ∧
    (after (.beaconCheckMark 2) (tideT { dieOfs := [(2, -2)], hub := 65535, markAt := [(2, some 0)] })).tide.dieSlew = [] ∧
    (after (.beaconCheckMark 2) (tideT { dieOfs := [(2, -2)], hub := 65536, markAt := [(2, some 0)] })).tide.dieSlew = [(2, 2)] ∧
    (after (.tideBeaconLost 2 1) (tideT {})).tide.beacon = [(2, 1)] := by decide +kernel

theorem witness_TideCommands_holdover : roleMaster (tideT { st := .locked, hub := 100000 }) = false ∧
    (after .tideHoldover (tideT { st := .locked, hub := 100000 })).tide.st = .holdover ∧
    (after .holdoverLong (tideT { st := .holdover, hub := 10000000000 })).tide.holdLong = true := by decide +kernel

theorem witness_TideCommands_marks : (after .tideMarkOutput (tideT { hub := 1000000999 })).tide.markOut = true ∧
    (after .tideMarkOutput (tideT { hub := 1000001000 })).tide.markOut = false ∧
    (after .tideMarkInput (tideT { hub := 9, markEdge := some 100 })).tide.markIn = 9 ∧
    (after .tideMarkInput (tideT { hub := 9, markEdge := some 101 })).tide.markIn = 0 := by decide +kernel

/-- TD enabled. -/
def enableTd (s : State) : State := { s with regs := { words := [(blkTD.reg 0x004, 1)] } }

/-- TD_ROLE of a master. -/
def master (t : TideSt) : State := { tideT t with regs := { words := [(blkTD.reg 0x018, 1)] } }

theorem witness_TideCommands_slew : roleMaster (master {}) = true ∧ hubUp (master {}) = true ∧ isBusy (master {}) blkPL = false ∧ (after (.plTideSlew 0x80FFFFFE) (master {})).tide.slew = -2 ∧
    roleMaster (tideT {}) = false ∧ (after .slewComplete (tideT { slewCmd := true })).tide.slewCmd = false := by decide +kernel

/-- A slew takes its tick 1,024 ticks after the last at the soonest. -/
theorem witness_TideCommands_tick : up.pending = [] ∧ (tickTide (tideT { hub := 1023, slew := -5 })).hub = 1024 ∧
    (tickTide (tideT { hub := 1024, slew := -5 })).hub = 1024 ∧ (tickTide (tideT { hub := 1024, slew := 5 })).hub = 1026 := by decide +kernel

/-! ## Parcels on the hub's bundle 0, which is always alive -/

def l0 : LinkId := ⟨0, 0⟩
def hdrT (ty : BitVec 4) (seq : BitVec 16) : Hdr := ⟨ty, 0, 0, 63, false, false, seq, 0, 0, 0, 0⟩

/-- The hub's end of bundle 0 in this state. -/
def linked (x : LinkSt) : State := { up with links := [(0, x)], regs := { words := [((qlBlk 0).reg 0x004, 1)] } }
/-- The check word that a sender puts into the header for a payload. -/
def chk (h : Hdr) (p : Parcel) : Word := recoverCheck h (parcelCheck p)

theorem recover_chk (h : Hdr) (p : Parcel) : parcelCheck p = recoverCheck h (chk h p) := by
  simp only [chk, recoverCheck, BitVec.xor_assoc, BitVec.xor_self, BitVec.xor_zero]

/-- The conditions of `Released` for a parcel whose check is good, computed. -/
def relB (s : State) (l : LinkId) (ty : BitVec 4) (h : Hdr) : Bool :=
  decide (((linkGet s l.key).st = .up ∧ (linkGet s l.key).waitMark = false ∧ endAlive s l.key = true) ∧
    (h.ty = ty ∧ ty.toNat < 9) ∧ h.seq = (linkGet s l.key).rxAck + 1)

theorem released (s : State) (l : LinkId) (ty : BitVec 4) (h : Hdr) (p : Parcel) (hb : relB s l ty h = true) :
    Released s l ty h p (chk h p) :=
  let link := (of_decide_eq_true hb).1
  let par := (of_decide_eq_true hb).2
  { up := link.1, marks := link.2.1, alive := link.2.2, type := par.1, seq := par.2, check := .inr (recover_chk h p) }

/-- Types below 4 need no good check. -/
theorem releasedData (s : State) (l : LinkId) (ty : BitVec 4) (h : Hdr) (p : Parcel) (c : Word) (hb : relB s l ty h = true)
    (hd : ty.toNat < 4 ∧ l.key ≠ guestKey) : Released s l ty h p c :=
  { released s l ty h 0 hb with check := .inl hd }

theorem witness_TimeExchange_request : enabled (enableTd (tideT {})) blkTD = true ∧ roleMaster (enableTd (tideT {})) = false ∧
    (enableTd (tideT { askedAt := some 0 })).tide.askedAt = some 0 ∧ (0 : Nat) + 10000 ≤ ({ enableTd (tideT {}) with now := 10000 } : State).now ∧
    (after .timeExchangeRequest (enableTd (tideT {}))).tide.seq = 1 ∧
    (after .timeExchangeRequest { enableTd (tideT { askedAt := some 0 }) with now := 9999 }).tide.seq = 0 := by decide +kernel

/-- The hub's bundle 0 UP, and an exchange outstanding. -/
def timing : State := { enableTd (linked { st := .up }) with tide := { outst := some (5, 0) } }

/-- A request, the reply to exchange 5, a parcel of another kind and one for another member arrive. -/
theorem witness_TimeExchange_receive :
    Released timing l0 tyTime (hdrT tyTime 1) 1 (chk (hdrT tyTime 1) 1) ∧
    Released timing l0 tyTime (hdrT tyTime 1) 0x50002 (chk (hdrT tyTime 1) 0x50002) ∧
    Released timing l0 tyTime (hdrT tyTime 1) 3 (chk (hdrT tyTime 1) 3) ∧
    Released timing l0 tyTime { hdrT tyTime 1 with dev := 3 } 1 (chk { hdrT tyTime 1 with dev := 3 } 1) ∧ l0.key ≠ guestKey ∧
    (hdrT tyTime 1).dev.toNat = ownDev timing ∧ enabled timing blkTD = true ∧ timing.tide.safe = false ∧ roleMaster timing = false ∧
    timing.tide.outst = some (field (0x50002 : Parcel) 16 16, 0) :=
  have rel p := released timing l0 tyTime (hdrT tyTime 1) p (by decide +kernel)
  ⟨rel 1, rel 0x50002, rel 3, released _ _ _ _ _ (by decide +kernel), by decide +kernel⟩

theorem witness_TimeExchange_step : timing.tide.st = .free ∧ (timeReply timing (0x50002 + 100 * 2 ^ 128 + 100 * 2 ^ 192)).tide.st = .acquire := by
  decide +kernel

/-! ## HBM -/

/-- Stack 0 of base die 0 serves; regions below `n` are released. -/
def hbmed (x : McSt) : State :=
  { up with hm := { dies := [(1, { st := .up })] }, mc := [(0, x)], regs := { words := [((blkMC 0).reg 0x004, 1)] } }

theorem witness_HbmReadsBackWhatWasWritten :
    Inv (hbmed { dredge := 1 }) ∧ mcServes (hbmed { dredge := 1 }) 0 = true ∧
    (mcGet (hbmed { dredge := 1 }) 0).released (regionOf (8191 * 256)) = true ∧
    (mcGet (hbmed { dredge := 1 }) 0).retiredPage (8191 * 256 / 0x400000) = false ∧
    (rget (hbmed { dredge := 1 }) ((blkMC 0).reg 0x058)).getLsbD 31 = false ∧
    (mcGet (hbmed {}) 0).released (regionOf (8191 * 256)) = false ∧ regionOf (8191 * 256) ∉ (mcGet (hbmed {}) 0).skipped ∧
    (mcGet (hbmed { retired := [(0, 0)] }) 0).retiredPage (8191 * 256 / 0x400000) = true ∧
    (hbmStore (hbmed { dredge := 1 }) 0 (8191 * 256) ⟨5, 9, true⟩).mem.bytes = [(8191 * 256, 5)] :=
  ⟨inv_of (by decide +kernel), by decide +kernel⟩

theorem witness_HbmRegions_read : (mcGet (hbmed { dredge := 1 }) 0).released (regionOf (8192 * 256)) = false ∧
    (mcGet (hbmed { dredge := 1, retired := [(0, 0)] }) 0).retiredPage (5 * 256 / 0x400000) = true ∧
    (after (.hbmRead 0 8192 .tug [] false) (hbmed { dredge := 1 })).out.length = 1 ∧
    (after (.hbmRead 0 8192 .scrubber [] false) (hbmed { dredge := 1 })).out.length = 0 := by decide +kernel

/-- The last region of a walk, in a sound page and in a retired one; the walk is done with it in both. -/
theorem witness_HbmRegions_dredge :
    Inv (hbmed { dredge := 65535, started := true }) ∧ Inv (hbmed { dredge := 65535, started := true, retired := [(0, 32767)] }) ∧
    (mcGet (hbmed { dredge := 65535, started := true }) 0).dredge < 65536 ∧
    (mcGet (hbmed { dredge := 65535, started := true }) 0).retiredPage (65535 / 2) = false ∧
    (mcGet (hbmed { dredge := 65535, started := true, retired := [(0, 32767)] }) 0).retiredPage (65535 / 2) = true ∧
    (mcGet (after (.dredgeRegion 0) (hbmed { dredge := 65535, started := true })) 0).dredge = 65536 ∧
    (mcGet (after (.dredgeRegion 0) (hbmed { dredge := 65535, started := true, retired := [(0, 32767)] })) 0).skipped = [65535] :=
  ⟨inv_of (by decide +kernel), inv_of (by decide +kernel), by decide +kernel⟩

/-! ## Memory commands -/

theorem witness_MemoryCommands_temp : slotUp (hbmed {}) (mcSlot 0) = true ∧ (mcGet (hbmed {}) 0).failed = false ∧
    (mcGet (after (.hbmTempSample 0 85) (hbmed { agree := 2, inState := 9 })) 0).hot = true ∧
    (mcGet (after (.hbmTempSample 0 84) (hbmed { agree := 2, inState := 9 })) 0).hot = false := by decide +kernel

/-- A forced window, the scrubber of die 1 and the hub's enabled for both walks, behind their schedules. -/
def scrubbing : State :=
  { hbmed { dredge := 1 } with
    slack := { forced := some 2000010000 }, tide := { hub := 2000000000 }, now := 2000000000,
    sc := [(0, { sramStart := some 0 }), (1, { hbmStart := some 0, sramStart := some 0 })],
    regs := { words := [((blkMC 0).reg 0x004, 1), ((blkSC 0).reg 0x004, 1), ((blkSC 0).reg 0x010, 2), ((blkSC 1).reg 0x004, 1),
                        ((blkSC 1).reg 0x010, 3)] } }

theorem witness_MemoryCommands_scrub : windowLeft scrubbing kindScrub ≠ 0 ∧ mcServes scrubbing 0 = true ∧
    enabled scrubbing (blkSC (mcSlot 0)) = true ∧ (cfg scrubbing (blkSC (mcSlot 0)) 0x010).getLsbD 0 = true ∧
    (scGet (scrubHbm scrubbing 0) 1).hbmPos = [(0, 1)] ∧ hbmSched (hbmed {}) (mcSlot 0) ≤ tget (scGet (hbmed {}) (mcSlot 0)).hbmPos 0 0 ∧
    slotUp scrubbing 1 = true ∧ 0 < walkWords 1 ∧ (cfg scrubbing (blkSC 1) 0x010).getLsbD 1 = true ∧
    hubUp scrubbing = true ∧ 0 < walkWords 0 ∧ enabled scrubbing (blkSC 0) = true ∧ (cfg scrubbing (blkSC 0) 0x010).getLsbD 1 = true ∧
    (scGet scrubbing 0).sramPos < sramSched scrubbing 0 ∧ (scGet scrubbing 0).sramPos + 1 < walkWords 0 ∧
    sramSched (hbmed {}) 1 ≤ (scGet (hbmed {}) 1).sramPos := by decide +kernel

theorem witness_MemoryCommands_sample : (mcGet { hbmed { ceCount := 3, ceAddr := 256 } with tide := { hub := 1000000000 } } 0).ceCount ≠ 0 ∧
    (mcGet { hbmed { ceCount := 3, ceAddr := 256 } with tide := { hub := 1000000000 } } 0).ceSec < 1000000000 / 1000000000 ∧
    (after (.ceSampleRecord (.hbm 0)) (logs { hbmed { ceCount := 3, ceAddr := 256 } with tide := { hub := 1000000000 } })).elog.count = 1 ∧
    (after (.ceSampleRecord (.hbm 0)) (logs { hbmed { ceCount := 3, ceAddr := 256 } with tide := { hub := 999999999 } })).elog.count = 0 ∧
    (scGet { up with sc := [(1, { ceCount := 2 })] } 1).ceCount ≠ 0 ∧
    (scGet { up with sc := [(1, { ceCount := 2 })] } 1).ceSec < 1000000000 / 1000000000 := by decide +kernel

theorem witness_MemoryCommands_retire : isBusy (hbmed {}) (blkMC 0) = false ∧ (0x80050007 : Word).getLsbD 30 = false ∧
    (0x80050007 : Word) &&& 0x3FC08000 = 0 ∧ (mcGet (after (.retirePage 0 0x80050007) (hbmed {})) 0).retired = [(5, 7)] ∧
    (mcGet (after (.retirePage 0 0x80050007) (hbmed { retired := [(5, 9)] })) 0).retired = [(5, 9)] ∧
    (mcGet (after (.retireClear 0 0xC0050007) (hbmed { retired := [(5, 9)] })) 0).retired = [] ∧
    (rget (after (.retireClear 0 0xC0050007) (hbmed {})) ((blkMC 0).reg 0x064)) = 0x80000016 := by decide +kernel

theorem witness_MemoryCommands_words : slotUp (hbmed {}) (slotQ 0) = true ∧ isBusy (hbmed {}) (blkSC (slotQ 0)) = false ∧
    isBusy (hbmed {}) (blkSC 0) = false ∧ rget (after (.scSpareReq 0 5) (hbmed {})) ((blkSC 1).reg 0x030) = 5 ∧
    rget (after (.mcFlip 0 6) (hbmed {})) ((blkMC 0).reg 0x058) = 6 ∧
    rget (after (.scSramFlip 1 7) (hbmed {})) ((blkSC 1).reg 0x02C) = 7 ∧
    rget (after (.scSramFlip 0 7) (hbmed {})) ((blkSC 0).reg 0x02C) = 7 := by decide +kernel

theorem witness_MemoryCommands_consume : hubUp up = true ∧ isBusy up blkEL = false ∧ (after (.elConsume 0x80000002) { up with elog := { count := 2, head := 1, tail := 4095 } }).elog
      = { count := 0, head := 1, tail := 1 } ∧
    (after (.elConsume 0x80000003) { up with elog := { count := 2, head := 1, tail := 4095 } }).elog.count = 2 := by decide +kernel

/-- Record and event queues at their limits, and a tide that has stepped back by more than 1 ms. -/
theorem witness_RecordsMergeOrTakeSlots : Inv (logs { up with elog := { count := 4096 } }) ∧ enabled (logs up) blkEL = true ∧
    (logRecord (logs { up with elog := { count := 4096 } }) 0x0101 1 0 0 0 0).elog.count = 4096 ∧
    (logRecord (logRecord (logs up) 0x0101 1 0 0 0 0) 0x0101 1 0 0 0 0).elog.count = 1 ∧
    (logRecord (logRecord (logs up) 0x0101 1 0 0 0 0) 0x0101 1 0 0 1 0).elog.count = 2 ∧
    (logRecord { logRecord (logs { up with tide := { hub := 1000001 } }) 0x0101 1 0 0 0 0 with tide := {} } 0x0101 1 0 0 0 0).elog.count = 2 ∧
    (logRecord up 0x0101 1 0 0 0 0).elog.count = 0 :=
  ⟨inv_of (by decide +kernel), by decide +kernel⟩

theorem witness_EventsQueueOrAreLost : (sendEvent { up with events := List.replicate 1024 ⟨1, false, 0, 0, false, false⟩ } 2 0).eventLost = true ∧
    (sendEvent { up with events := List.replicate 1023 ⟨1, false, 0, 0, false, false⟩, eventLost := true } 2 0).events.length = 1024 := by
  decide +kernel

/-! ## Links -/

/-- The hub's end of bundle 0 is UP, has sent SEQ 1–3 and received SEQ up to 7. -/
def lk : LinkSt :=
  { st := .up, txSeq := 3, rxAck := 7, lanes := 64, rxLanes := 64, txActive := maskOf 64, rxActive := maskOf 64, peerId := 9 }
def hdrS (ty : BitVec 4) (seq : BitVec 16) : Hdr := ⟨ty, 1, 0, 63, false, false, seq, 0, 0, 0, 5⟩

theorem recover_bad (h : Hdr) (p : Parcel) : parcelCheck p ≠ recoverCheck h (chk h p ^^^ 1) := by
  simp only [chk, recoverCheck]
  generalize parcelCheck p = x
  generalize crc32c (headerBytes h) = y
  intro e
  have e := congrArg (fun z => x ^^^ z) e
  have : x ^^^ (x ^^^ y ^^^ 1 ^^^ y) = 1 := by
    ext i hi
    simp only [BitVec.getElem_xor]
    cases x[i] <;> cases y[i] <;> simp
  simp only [this, BitVec.xor_self] at e
  exact absurd e (by decide)

/-- A link that is not UP, and one that waits for a MARK; a reserved TYPE, a bad check of a control parcel, the next SEQ, a gap, a
duplicate, and both ends of the range after and before. -/
theorem witness_ParcelsAreReleasedInOrder_discards : l0.key ≠ guestKey ∧ (linkGet (linked { lk with st := .down }) l0.key).st ≠ .up ∧
    (linkGet (linked { lk with waitMark := true }) l0.key).waitMark = true := by decide +kernel
theorem witness_ParcelsAreReleasedInOrder_up : (linkGet (linked lk) l0.key).st = .up ∧ (linkGet (linked lk) l0.key).waitMark = false ∧
    endAlive (linked lk) l0.key = true ∧ (linkGet (linked lk) l0.key).replayReq = none ∧ (linkGet (linked lk) l0.key).txActive ≠ 0 := by
  decide +kernel
theorem witness_ParcelsAreReleasedInOrder_bad :
    ¬ (tyLink.toNat < 4 ∨ (tyLink.toNat < 9 ∧ parcelCheck 5 = recoverCheck (hdrS tyLink 8) (chk (hdrS tyLink 8) 5 ^^^ 1))) :=
  fun h => h.elim (by decide) fun e => recover_bad _ _ e.2
/-- A reserved TYPE is not good whatever its check, and asks for a replay (R246). -/
theorem test_reserved_type : (linkGet (after (.write l0 (hdrS 9 8) 5 0) (linked lk)) l0.key).replayReq = some 0 ∧
    (linkGet (after (.write l0 (hdrS 9 8) 5 0) (linked lk)) l0.key).rxAck = 7 := by decide +kernel
theorem witness_ParcelsAreReleasedInOrder_good : (hdrS tyWrite 8).ty = tyWrite ∧ tyWrite.toNat < 4 ∧
    (hdrS tyWrite 8).seq = (linkGet (linked lk) l0.key).rxAck + 1 ∧
    (receive (linked lk) l0 tyWrite (hdrS tyWrite 8) 5 0).2.map (fun p => p.payload) = some 5 := by decide +kernel
theorem witness_ParcelsAreReleasedInOrder_gap : 2 ≤ ((hdrS tyWrite 9).seq - (linkGet (linked lk) l0.key).rxAck).toNat ∧
    ((hdrS tyWrite 0x8006).seq - (linkGet (linked lk) l0.key).rxAck).toNat ≤ 32767 ∧
    (linkGet (receive (linked lk) l0 tyWrite (hdrS tyWrite 9) 5 0).1 l0.key).replayReq = some 0 ∧
    (linkGet (receive (linked lk) l0 tyWrite (hdrS tyWrite 0x8006) 5 0).1 l0.key).replayReq = some 0 := by decide +kernel
theorem witness_ParcelsAreReleasedInOrder_duplicate : (hdrS tyWrite 7).seq = (linkGet (linked lk) l0.key).rxAck ∧
    32767 < ((hdrS tyWrite 0x8007).seq - (linkGet (linked lk) l0.key).rxAck).toNat ∧
    rget (receive (linked lk) l0 tyWrite (hdrS tyWrite 7) 5 0).1 ((qlBlk l0.key).reg 0x054) = 1 ∧
    rget (receive (linked lk) l0 tyWrite (hdrS tyWrite 0x8007) 5 0).1 ((qlBlk l0.key).reg 0x054) = 1 := by decide +kernel

/-- A WRITE for another member, one for this module into register space (nothing is stored), a BOLLARD parcel at an endpoint of base
die 0, from which the hub cannot be reached, and one behind another that waits. -/
theorem witness_DataAndControlParcels_relayed : Released (linked lk) l0 tyWrite { hdrS tyWrite 8 with dev := 3 } 5 0 ∧
    ({ hdrS tyWrite 8 with dev := 3 } : Hdr).dev.toNat ≠ ownDev (linked lk) :=
  ⟨releasedData _ _ _ _ _ _ (by decide +kernel) (by decide), by decide +kernel⟩
def hdrReg : Hdr := { hdrS tyWrite 8 with addr := BitVec.ofNat 44 (regSpace / 256) }
theorem witness_DataAndControlParcels_performed : Released (linked lk) l0 tyWrite hdrReg 5 0 ∧ hdrReg.dev.toNat = ownDev (linked lk) ∧
    heldBefore (linked lk) l0.key (parOf hdrReg 5 0) = false ∧ (perform (taken (linked lk) l0 hdrReg) l0.key (parOf hdrReg 5 0)).isSome = true ∧
    (linkGet (after (.write l0 hdrReg 5 0) (linked lk)) l0.key).rxAck = 8 ∧
    tget (linkGet (after (.write l0 hdrReg 5 0) (linked lk)) l0.key).freed 1 0 = 1 :=
  ⟨releasedData _ _ _ _ _ _ (by decide +kernel) (by decide), by decide +kernel⟩
theorem witness_DataAndControlParcels_guest : (⟨0, 2⟩ : LinkId).key = guestKey ∧
    (receive (linked { lk with st := .down }) l0 tyWrite hdrReg 5 0).2 = none := by decide +kernel

def lq : LinkId := ⟨1, 32⟩
/-- The same state at base die 0's optical endpoint 32, with no way to the hub. -/
def farSide (held : List HeldPar) : State :=
  { up with links := [(lq.key, lk)], hm := { dies := [(1, { st := .up })] }, trans := { held := held } }

theorem witness_DataAndControlParcels_held :
    Released (farSide []) lq tyBollard (hdrS tyBollard 8) 5 (chk (hdrS tyBollard 8) 5) ∧ (hdrS tyBollard 8).dev.toNat = ownDev (farSide []) ∧
    perform (taken (farSide []) lq (hdrS tyBollard 8)) lq.key { parOf (hdrS tyBollard 8) 5 0 with check := 0 } = none :=
  ⟨released _ _ _ _ _ (by decide +kernel), by decide +kernel, by decide +kernel⟩

def parT (ty : BitVec 4) (vc : BitVec 2) (a : Nat) (p : Parcel) : QPar :=
  { ty := ty, vc := vc, dev := 0, addr := BitVec.ofNat 44 (a / 256), payload := p, check := 9 }

theorem witness_DataAndControlParcels_behind :
    heldBefore (farSide [⟨lq.key, parT tyWrite 1 0 5⟩]) lq.key (parOf (hdrS tyWrite 8) 5 0) = true := by decide +kernel

theorem witness_DataAndControlParcels_types : (parT tyWrite 1 0 0).ty = tyWrite ∧ (parT tyReadReq 0 0 0).ty = tyReadReq ∧
    (parT tyReadData 2 0 0).ty = tyReadData ∧ (parT tyResp 0 0 0).ty = tyResp ∧ (parT tyBollard 0 0 0).ty = tyBollard ∧
    reachHome up (diePoint 0) (.hub 0) = true ∧ reachFrom up 0 0x400000000000 = false := by decide +kernel

/-- A WRITE into the last parcel of base die 0's SRAM. -/
theorem witness_PeersWriteAndSignal_write :
    Inv (farSide []) ∧ baseSramSize - 256 < baseSramSize ∧ (baseSramSize - 256) % 256 = 0 ∧
    (parT tyWrite 1 (baseSramBase 0 + (baseSramSize - 256)) 7).addr.toNat * 256 = baseSramBase 0 + (baseSramSize - 256) ∧
    dieState (farSide []) (slotQ 0) = .up ∧ (farSide []).mem.sramErr = [] ∧ (farSide []).mem.sideErr = [] ∧
    (rget (farSide []) ((blkSC (slotQ 0)).reg 0x02C)).getLsbD 31 = false :=
  ⟨inv_of (by decide +kernel), by decide +kernel⟩

theorem witness_PeersWriteAndSignal_nowhere : State.reset.home ((parT tyWrite 1 0x7FFFFFFFFF00 7).addr.toNat * 256) = none := by decide +kernel
theorem witness_PeersWriteAndSignal_registers : State.reset.home ((parT tyWrite 1 regSpace 7).addr.toNat * 256) = some (.reg 0) := by
  decide +kernel

/-- Bollards 100–103 are open to remote adds. -/
def opened (st : HmState) : State := { up with hm := { st := st, chart := some { bolls := [{ first := 100, count := 4, remoteOpen := true, init := none }] } } }
theorem witness_PeersWriteAndSignal_adds : remoteOpen (opened .running) 103 = true ∧ remoteOpen (opened .running) 104 = false ∧
    remoteOpen (opened .running) 99 = false ∧ (opened .loading).hm.st = .loading ∧
    (remoteAdd (opened .running) (parT tyBollard 0 0 (103 + 6 * 2 ^ 32)) 0).boll.val = [(103, 6)] ∧
    (remoteAdd (opened .running) (parT tyBollard 0 0 (104 + 6 * 2 ^ 32)) 0).boll.val = [] ∧
    rget (remoteAdd (opened .running) (parT tyBollard 0 0 (104 + 6 * 2 ^ 32)) 0) (blkBL.reg 0x018) = 1 := by decide +kernel

/-- Two parcels wait behind 5 credits of channel 0. -/
def sending (x : LinkSt) : State := linked { x with waiting := [parT tyBollard 0 0 1, parT tyResp 0 0 2], credit := [(0, 5)] }
theorem witness_SendingAndReplay_send : Inv (sending lk) ∧ linkLive (sending lk) l0.key = true ∧ replayRoom (sending lk) l0.key = true ∧
    windowRoom (linkGet (sending lk) l0.key) = true ∧ nextChannel (linkGet (sending lk) l0.key) = some 0 ∧
    takeWaiting (linkGet (sending lk) l0.key).waiting 0 = (some (parT tyBollard 0 0 1), [parT tyResp 0 0 2]) ∧
    (parT tyBollard 0 0 1).ty ≠ tyTime ∧ (parT tyBollard 0 0 1).owner = none ∧
    (linkGet (sending lk) l0.key).resend = none ∧ (linkGet (sending lk) l0.key).serving = none ∧
    endRuns (sending lk) l0.key = true ∧ blanked (sending lk) l0.key = false ∧
    (linkGet (after (.parcelSend l0) (sending lk)) l0.key).txSeq = 4 :=
  ⟨inv_of (by decide +kernel), by decide +kernel⟩
/-- A disabled block, a link that is not UP, and an engine whose transmitters a switchover has stopped. -/
theorem witness_SendingAndReplay_stops : endRuns up l0.key = false ∧ linkLive (linked { lk with st := .down }) l0.key = false ∧
    blanked { up with ls := [(0, { blank := true })] } (linkKey 1 32) = true ∧
    gives (.parcelSend l0) { sending lk with regs := {} } { sending lk with regs := {} } = true := by decide +kernel

theorem window_full (n : Nat) (p : QPar) (x : LinkSt) (h : n = 32767) : windowRoom { x with replay := List.replicate n p } = false := by
  simp only [windowRoom, List.length_replicate, h]; decide
theorem witness_SendingAndReplay_window : (∃ n, windowRoom { lk with replay := List.replicate n (parT tyResp 0 0 0) } = false) ∧
    (linkGet (sending lk) l0.key).waiting ≠ [] ∧ resendNext (linkGet (sending lk) l0.key) = none ∧
    (linkGet (linked lk) l0.key).waiting = [] := ⟨⟨_, window_full _ _ _ rfl⟩, by decide +kernel, by decide +kernel, by decide +kernel⟩

/-- SEQ 1–3 are unacknowledged. An ACK of 2 frees two; one of 4 is after the last SEQ. -/
def sentT : LinkSt := { lk with replay := [{ parT tyResp 0 0 1 with seq := 1 }, { parT tyResp 0 0 2 with seq := 2 }, { parT tyResp 0 0 3 with seq := 3 }] }
theorem witness_SendingAndReplay_ack : seqAfter 4 (linkGet (linked sentT) l0.key).txSeq = true ∧ seqAfter 2 (linkGet (linked sentT) l0.key).txSeq = false ∧
    (linkGet (linked sentT) l0.key).st ≠ .off ∧ l0.key ≠ guestKey ∧ (linkGet (takeAck (linked sentT) l0.key 2) l0.key).replay.length = 1 := by
  decide +kernel
theorem witness_SendingAndReplay_ca : linkLive (linked sentT) l0.key = true ∧ (linkGet (linked sentT) l0.key).waitMark = false ∧
    (linkGet (after (.ca l0 2 3 40) (linked sentT)) l0.key).replay = [] ∧
    tget (linkGet (after (.ca l0 2 3 40) (linked sentT)) l0.key).credit 2 0 = 40 := by decide +kernel
theorem witness_SendingAndReplay_timeout :
    let s : State := { linked sentT with now := 255000 }
    (linkGet s l0.key).replay = { parT tyResp 0 0 1 with seq := 1 } :: sentT.replay.tail ∧ linkLive s l0.key = true ∧
    ({ parT tyResp 0 0 1 with seq := 1 } : QPar).since + 1000 * (field (cfg s (qlBlk l0.key) 0x038) 0 8 : BitVec 8).toNat ≤ s.now ∧
    (linkGet (after (.ackTimeout l0) s) l0.key).resend = some 1 := by decide +kernel
theorem witness_SendingAndReplay_replays : resendNext (linkGet (linked { sentT with resend := some 2 }) l0.key) = some { parT tyResp 0 0 2 with seq := 2 } ∧
    (linkGet (after (.parcelSend l0) (linked { sentT with resend := some 2 })) l0.key).resend = some 3 := by decide +kernel
theorem witness_SendingAndReplay_resend :
    let s : State := { linked { lk with replayReq := some 1000 } with now := 3000 }
    (linkGet s l0.key).replayReq = some 1000 ∧ linkLive s l0.key = true ∧ (1000 : Nat) + 2000 ≤ s.now ∧
    (linkGet (after (.replayRequestResend l0) s) l0.key).replayReq = some 3000 := by decide +kernel

/-- What a lane shows in a round: whole, and with a bad parity. -/
def roundT (good : Bool) : LaneRound :=
  { lane := 3, prev := 9, signal := true, headers := [1, 2], types := [0x1E], parity := 7, tally := some (if good then 7 else 6, 10) }
theorem witness_LaneCommands_rounds : laneReason (roundT true) = 0 ∧ laneReason (roundT false) = 1 ∧
    laneReason { roundT true with tally := none } = 2 ∧ laneReason { roundT true with headers := [3] } = 2 ∧
    laneReason { roundT true with tally := some (7, 11) } = 2 ∧ laneReason { roundT true with signal := false } = 3 := by decide +kernel

/-- A fatal lane, one that is ready, one that is retired. -/
def lanesT (z : LaneSt) : State := { linked { lk with lane := [(3, z)] } with now := 2000 }
def trainT : TrainRx := { skew := 512, lane := 3, ident := 2, dev := 0, engine := 0 }
theorem witness_LaneCommands_fatal : ([roundT true, roundT false].filter fun r => laneReason r != 0) = [roundT false] ∧
    linkLive (linked lk) l0.key = true ∧ (linkGet (linked lk) l0.key).rxActive.getLsbD 3 = true ∧
    (laneGet (linkGet (linked lk) l0.key) 3).fatal = false ∧
    (linkGet (after (.laneFatal l0 [roundT false]) (linked lk)) l0.key).waitMark = true ∧
    rget (after (.laneFatal l0 [roundT true]) (linked lk)) ((qlBlk l0.key).reg 0x040) = 0 ∧
    rget (after (.laneFatal l0 [roundT false, roundT false]) (linked lk)) ((qlBlk l0.key).reg 0x040) = 1 := by decide +kernel
theorem witness_LaneCommands_reberthed : linkLive (lanesT { fatal := true }) l0.key = true ∧
    (laneGet (linkGet (lanesT { fatal := true }) l0.key) 3).fatal = true ∧ (laneGet (linkGet (lanesT { fatal := true }) l0.key) 3).ready = false ∧
    (laneGet (linkGet (lanesT { fatal := true }) l0.key) 3).retiring = false ∧ endMatches l0.key 2 0 0 = true ∧
    (laneGet (linkGet (after (.laneReberthed l0 3 trainT) (lanesT { fatal := true })) l0.key) 3).ready = true ∧
    (laneGet (linkGet (after (.laneReberthed l0 3 { trainT with skew := 513 }) (lanesT { fatal := true })) l0.key) 3).ready = false ∧
    (after (.laneReberthed l0 3 { trainT with skew := 513 }) (logs (lanesT { fatal := true }))).elog.count = 1 := by decide +kernel
theorem witness_LaneCommands_timeout : (laneGet (linkGet (lanesT { fatal := true, since := 1200 }) l0.key) 3).since + 800 ≤
      (lanesT { fatal := true, since := 1200 }).now ∧
    (laneGet (linkGet (after (.reberthTimeout l0 3) (lanesT { fatal := true, fails := [0, 0], since := 1200 })) l0.key) 3).retiring = true ∧
    (laneGet (linkGet (after (.reberthTimeout l0 3) (lanesT { fatal := true, fails := [0, 0], since := 1201 })) l0.key) 3).retiring = false := by
  decide +kernel
theorem witness_LaneCommands_retire : (laneGet (linkGet (lanesT { retiring := true }) l0.key) 3).retiring = true ∧
    (laneGet (linkGet (lanesT { retiring := true }) l0.key) 3).noticeAt + 2000 ≤ (lanesT { retiring := true }).now ∧
    (after (.retireNoticeRepeat l0 3) (lanesT { retiring := true })).out.length = 1 := by decide +kernel
theorem witness_LaneCommands_mark :
    Inv (linked lk) ∧ linkLive (linked lk) l0.key = true ∧ (63 : Byte).toNat < (linkGet (linked lk) l0.key).rxLanes ∧
    (linkGet (after (.mark l0 .remove 63 1 0 0) (linked lk)) l0.key).rxActive = maskOf 63 ∧
    (linkGet (after (.mark l0 .add 63 1 0 0) (linked { lk with rxActive := 0 })) l0.key).rxActive = 1 <<< 63 ∧
    (linkGet (after (.mark l0 .setWidth 0 1 0 7) (linked lk)) l0.key).rxActive = maskOf 8 :=
  ⟨inv_of (by decide +kernel), by decide +kernel⟩
theorem witness_LaneCommands_notice : (linkGet (linked lk) l0.key).txActive.getLsbD 63 = true ∧ (63 : Byte).toNat < (linkGet (linked lk) l0.key).lanes ∧
    markQueued (linkGet (linked lk) l0.key) .remove 63 = false ∧
    (linkGet (after (.notice l0 63 1 4 0) (linked lk)) l0.key).marks = [(.remove, 63, 0)] ∧
    (linkGet (nextMark (after (.notice l0 63 1 4 0) (linked lk)) l0.key) l0.key).txActive = maskOf 63 ∧
    (linkGet (after (.notice l0 63 1 4 0) (linked lk)) l0.key).replayAt = some 4 ∧
    (linkGet (after (.notice l0 63 1 4 0) (linked lk)) l0.key).st = .up ∧
    (linkGet (linked lk) l0.key).txDue.getLsbD 63 = false ∧ laneMoving (linked lk) l0.key 63 = false := by decide +kernel

/-! ## Link states -/

/-- A link message with its fields after byte 0. -/
def msgP (l : List (Nat × Nat)) : Parcel := fields 2048 l
def msgN (n : Nat) : Parcel := msgP [(8, n), (8, 5), (16, 0), (32, 9)]

/-- A link message reaches the hub's end, whose request with nonce 9 is outstanding. -/
def negoed : State := linked { lk with nego := some ⟨false, 40, 9⟩, rxAck := 0 }
theorem witness_LinkStates_messages (n : Nat) (h : n = 2 ∨ n = 3 ∨ n = 4 ∨ n = 5 ∨ n = 6) :
    Released negoed l0 tyLink (hdrT tyLink 1) (msgN n) (chk (hdrT tyLink 1) (msgN n)) ∧ msgOf (msgN n) = n ∧
    (linkGet (freed negoed l0 (hdrT tyLink 1)) l0.key).nego = some ⟨false, 40, msgNonce (msgN n)⟩ := by
  obtain rfl | rfl | rfl | rfl | rfl := h <;> exact ⟨released _ _ _ _ _ (by decide +kernel), by decide +kernel, by decide +kernel⟩

theorem witness_LinkStates_requests : endAlive (linked lk) l0.key = true ∧ isBusy (linked lk) (qlBlk l0.key) = false ∧
    (0x80000028 : Word).getLsbD 31 = true ∧ (0x80000028 : Word).getLsbD 30 = false ∧ (0xC0000000 : Word).getLsbD 30 = true ∧
    (linkGet (linked lk) l0.key).nego = none ∧ (linkGet negoed l0.key).nego.isSome = true ∧
    (linkGet (after (.qlWidthReq l0 0x80000028) (linked lk)) l0.key).nego = some ⟨false, 40, 1⟩ ∧
    (linkGet (after (.qlRetrain l0 0xC0000000) (linked lk)) l0.key).nego = some ⟨true, 0, 1⟩ := by decide +kernel
theorem witness_LinkStates_meets : (linkGet negoed l0.key).peerId.toNat < (identity { negoed with links := negoed.links } 0).toNat ∨
    (identity negoed l0.key).toNat ≤ (linkGet negoed l0.key).peerId.toNat := by decide +kernel
/-- Lane 0 of an optical link, line 2 of fibre 0, whose engine has no spare fibre: no place is left. -/
theorem witness_LinkStates_laneOut :
    let l : LinkId := ⟨1, 33⟩
    let c : Chart := { group := 3, engines := [0x00FF0000], lanes := [(5, 0x120)] }
    let s : State := { up with hm := { chart := some c, dies := [(1, { st := .up }), (24, { st := .up })] },
                               links := [(l.key, { lk with txDue := 1, txGone := 1, txActive := 0, lanes := 1 })],
                               oe := [(0, { place := [(5, { en := true, line := 2 })] })],
                               regs := { words := [((blkOE 0).reg 0x010, 0x00FF0000)] } }
    linkLive s l.key = true ∧ (linkGet s l.key).txDue.getLsbD 0 = true ∧ noSpare s l.key 0 = true ∧
    (linkGet (after (.laneOut l (.here 0)) s) l.key).txOut = 1 ∧
    rget (after (.laneOut l (.here 0)) s) ((blkOE 0).reg 0x02C) = 1 := by decide +kernel

theorem witness_LinkStates_retrained :
    let s : State := linked { lk with st := .train, retraining := true }
    (linkGet s l0.key).st = .train ∧ (linkGet s l0.key).retraining = true ∧ endAlive s l0.key = true ∧ (linkGet s l0.key).nego = none ∧
    (linkGet (after (.retrainDone l0 4) s) l0.key).st = .up := by decide +kernel
theorem witness_LinkStates_accepted : (⟨false, 40, 9⟩ : Nego).retrain = false ∧
    (linkGet (accepted negoed l0.key ⟨false, 40, 9⟩) l0.key).marks = [(.setWidth, 0, 39)] ∧
    (linkGet (accepted negoed l0.key ⟨true, 0, 9⟩) l0.key).st = .train := by decide +kernel

/-- The hub's end of bundle 0 trains, and HELLO arrives from slot 2, the die at the other end. -/
def training : State := linked { lk with st := .train, rxAck := 0 }
def hello1 : Parcel := fields 2048 [(8, 1), (8, 1), (16, 1), (32, 0), (64, 2), (8, 0), (8, 0), (16, 64)]
theorem witness_LinkStates_hello :
    parcelCheck hello1 = recoverCheck (hdrT tyLink 1) (chk (hdrT tyLink 1) hello1) ∧ msgOf hello1 = 1 ∧
    (linkGet training l0.key).st = .train ∧ (linkGet training l0.key).retraining = false ∧ endAlive training l0.key = true ∧
    trainable training l0.key = true ∧ endMatches l0.key (field hello1 64 64) (field hello1 128 8) (field hello1 136 8) = true ∧
    endMatches l0.key 3 0 0 = false ∧ upWidth training l0.key ≤ widthOf (linkGet training l0.key).txActive ∧
    upWidth training l0.key ≤ widthOf (linkGet training l0.key).rxActive ∧ isOptical l0.key = false :=
  ⟨recover_chk _ _, by decide +kernel⟩
theorem witness_LinkStates_up : (linkGet (linkUp training l0.key true 1 7) l0.key).st = .up ∧
    (linkGet (linkUp training l0.key true 1 7) l0.key).peerId = 7 := by decide +kernel

theorem witness_LinkStates_silent :
    let s : State := { linked { lk with silentAt := some 5 } with now := 100005 }
    (linkGet s l0.key).silentAt = some 5 ∧ linkLive s l0.key = true ∧ (5 : Nat) + 100000 ≤ s.now ∧
    (linkGet (after (.linkSilentTimeout l0) s) l0.key).st = .down := by decide +kernel
theorem witness_LinkStates_retry :
    let s : State := { linked { lk with st := .down } with now := 100000 }
    (linkGet s l0.key).st = .down ∧ trainable s l0.key = true ∧ linkExists s l0.key = true ∧ endAlive s l0.key = true ∧
    (linkGet s l0.key).triedAt + 100000 ≤ s.now ∧ (linkGet (after (.linkTrainRetry l0) s) l0.key).st = .train ∧
    (linkGet (after (.linkTrainRetry l0) { s with now := 99999 }) l0.key).st = .down := by decide +kernel
theorem witness_LinkStates_scuttle :
    let s : State := linked { sentT with st := .down }
    endAlive s l0.key = true ∧ isBusy s (qlBlk l0.key) = false ∧ (0x80000000 : Word).getLsbD 31 = true ∧ (linkGet s l0.key).st = .down ∧
    (linkGet (after (.qlScuttle l0 0x80000000 false) s) l0.key).replay = [] ∧
    rget (after (.qlScuttle l0 0x80000000 false) s) ((qlBlk l0.key).reg 0x08C) = 3 := by decide +kernel

/-- Links 0 of the bundles on the path 0–3–4–1 are UP at both ends; the pair 0–1 is down, or has come up at 0. -/
def ringed (l : List (Nat × Nat)) : State := { up with links :=
  (l.flatMap fun e => [(bundleKey e.1 e.2 0).getD 0, (bundleKey e.2 e.1 0).getD 0]).foldl (fun t k => tset t k { st := .up } {}) [] }
theorem witness_LinkStates_reroute : (edgeTo 0 1).isSome = true ∧ pairIsUp (ringed [(0, 3), (3, 4), (4, 1)]) 0 1 = false ∧
    ((after (.pairReroute 0 1) (ringed [(0, 3), (3, 4), (4, 1)])).hm.moved.contains 1) = true := by decide +kernel
theorem witness_LinkStates_return :
    let s : State := { ringed [(0, 1)] with now := 1000000, hm := { moved := [1] } }
    pairIsUp s 0 1 = true ∧ tget s.hm.pairUp 1 0 + 1000000 ≤ s.now ∧ (after (.pairReturn 0 1) s).hm.moved = [] := by decide +kernel

/-! ## The chart -/

def charted (h : HmSt) : State := { up with hm := h }

theorem witness_ChartCommands_words : hubUp up = true ∧ isBusy up blkHM = false ∧ (0x80000000 : Word).getLsbD 31 = true ∧ (field (0x80000000 : Word) 0 2).toNat = 0 ∧
    (field (0x80000001 : Word) 0 2).toNat = 1 ∧ (field (0x80000002 : Word) 0 2).toNat = 2 ∧ (field (0x80000003 : Word) 0 2).toNat = 3 := by decide +kernel
theorem test_hmCmdInvalid : rget (after (.hmCmdInvalid 0x80000000) up) (blkHM.reg 0x018) = 0x800000A0 := by decide +kernel
theorem test_stop : (after (.stop 0x80000001) (charted { st := .running })).hm.st = .stopping ∧
    rget (after (.stop 0x80000001) (charted { st := .stopped })) (blkHM.reg 0x018) = 0x80000091 := by decide +kernel
theorem test_load : (after (.load 0x80000002) (charted { st := .stopped })).hm.st = .loading ∧
    rget (after (.load 0x80000002) (charted { st := .running })) (blkHM.reg 0x018) = 0x80000092 := by decide +kernel

/-- Every chart-class block of the hub is enabled. -/
def enabledHub (h : HmSt) : State :=
  { charted h with regs := { words := (chartBlocks [0] []).foldl (fun t b => tset t (b.reg 0x004) 1 0) [] } }
theorem witness_ChartCommands_run : (enabledHub { st := .stopped }).hm.st = .stopped ∧
    (enableAll (hmTaken (enabledHub { st := .stopped })) ((chartBlocks (upSlots (hmTaken (enabledHub { st := .stopped })))
      (match (enabledHub { st := .stopped }).hm.chart with
      | some c => mapped c
      | none => [])).filter fun b => !enabled (hmTaken (enabledHub { st := .stopped })) b)).2 = none ∧
    (after (.run 0x80000003) (enabledHub { st := .stopped })).hm.st = .running ∧
    rget (after (.run 0x80000003) (charted { st := .failed })) (blkHM.reg 0x018) = 0x80000093 := by decide +kernel
theorem witness_ChartCommands_stopDone : (charted { st := .stopping }).hm.st = .stopping ∧ running (charted { st := .stopping }) = [] ∧
    (∀ t ∈ (charted { st := .stopping }).cores.tug, t.2.slots = [] ∧ t.2.pend = []) ∧
    (after .stopDone (charted { st := .stopping })).hm.st = .stopped := by decide +kernel

/-- A load of 64 bytes of zeros fails at its header. -/
def loadingT (c : Option Chart) : State := charted { st := .loading, loading := some { offset := 0, start := 0, bytes := List.replicate 64 0, prior := .stopped, chart := c, dies := [0, 1] } }
theorem witness_ChartCommands_fails : verifyChart (loadingT none) 0 (List.replicate 64 0) = .fails 1 [] false ∧
    (after .loadVerifyDone (loadingT none)).hm.st = .stopped := by decide +kernel
/-- Whether a signature verifies is open in the model: given that it does, and what the other steps need, the chart loads. -/
theorem witness_ChartCommands_loads {s : State} {off : Nat} {b : List Byte} {l : List Sect} {q : Nat} {o : OwnerSlot} {c : Chart}
    (h1 : headerOk s b off = true) (h2 : walkSections b (le b 0xC 2) 64 = some (l, q)) (h3 : slotVerifies s (le b 0xE 1) = some o)
    (h4 : signatureOk o b q b.length = true) (h5 : readChart b l = some c) (h6 : refsAgree c = true) (h7 : placesAgree s c = true)
    (h8 : shortfalls s c = []) (h9 : s.sec.lifecycle ≠ 3) : ∃ c, verifyChart s off b = .loads c :=
  ⟨_, by simp only [verifyChart, h1, h2, h3, h4, h5, h6, h7, h8, if_neg h9]; rfl⟩
theorem witness_ChartCommands_failed : (1 : Nat) ∈ ([0, 1] : List Nat) ∧ (after (.loadFailed 1) (loadingT (some {}))).hm.st = .failed ∧
    (after (.loadFailed 1) (loadingT (some {}))).hm.chart = none ∧ (after (.loadFailed 2) (loadingT (some {}))).hm.st = .loading := by decide +kernel

/-- A preload into stack 0, whose controller is disabled, or enabled. -/
def preloading (regs : Tbl Word) : State :=
  { loadingT (some { preloads := [⟨hbmBase 0, List.replicate 256 7⟩] }) with regs := { words := regs } }
theorem witness_ChartCommands_held : preloadHeld (preloading []) { preloads := [⟨hbmBase 0, List.replicate 256 7⟩] } [0, 1] = true ∧
    preloadHeld (preloading [((blkMC 0).reg 0x004, 1)]) { preloads := [⟨hbmBase 0, List.replicate 256 7⟩] } [0, 1] = false ∧
    preloadHeld (loadingT (some {})) {} [0, 1] = false ∧ gives .loadDistributionDone (preloading []) (preloading []) = true := by decide +kernel
/-- With no die left that takes part nothing is enabled, and a distribution completes. -/
theorem witness_ChartCommands_distributed (s : State) (c : Chart) : ∃ u, distribute s c [] = (u, none) := by
  have h : ∀ l, chartBlocks [] l = [] := fun l => by simp [chartBlocks]
  exact ⟨_, by simp only [distribute, h, enableAll]; rfl⟩

/-! ## Dies -/

/-- Base die 0 and the compute dies on it in these states. -/
def died (b c : DieState) : State := { up with hm := { dies := [(1, { st := b }), (8, { st := c }), (9, { st := .up })] } }
theorem witness_DieCommands_lost : hubUp (died .up .up) = true ∧ governed 1 = true ∧ dieRuns (died .up .up) 1 = true ∧
    dieRuns (died .rejoining .up) 1 = true ∧ (dieGet (after (.dieLost 1 3) (died .up .up)) 8).cause = 4 ∧
    (dieGet (after (.dieLost 1 1) (died .up .up)) 1).st = .lost ∧ (died .up .up).hm.loading = none := by decide +kernel
theorem witness_DieCommands_absent : (after (.dieLost 1 1) (died .up .up)).hm.losses = [(1, 1), (8, 4), (9, 4)] ∧
    (after (.clockMonitorReset 0) (died .up .up)).hm.dies = [] ∧ (dieGet (after (.diePresenceTimeout 8) (died .up .up)) 8).cause = 3 ∧
    (dieGet (after (.clockMonitorReset 8) (died .up .up)) 8).cause = 2 := by decide +kernel
theorem witness_DieCommands_release : governed 8 = true ∧ dieState (died .up .lost) 8 = .lost ∧ dieType 8 = some 2 ∧
    dieState (died .up .lost) (baseBelow 8) = .up ∧ (dieGet (after (.dieResetRelease 8 8) (died .up .lost)) 8).st = .rejoining ∧
    dieState (died .lost .lost) 1 = .lost ∧ dieType (0x28 : BitVec 6).toNat ≠ dieType 8 ∧
    (after (.dieResetRelease 8 8) { died .up .lost with hm := { dies := [(1, { st := .up }), (8, { st := .lost, cause := 2, lostAt := 1 })] }, now := 1000000 }).hm.dies
      = [(1, { st := .up }), (8, { st := .lost, cause := 2, lostAt := 1 })] := by decide +kernel
theorem witness_DieCommands_rejoin : distributing (died .up .rejoining) = false ∧ dieState (died .up .rejoining) 8 = .rejoining ∧ dieState (died .up .rejoining) (baseBelow 8) = .up ∧
    (dieGet (after (.dieRejoinUp 8 []) (died .up .rejoining)) 8) = { st := .up, stateLost := true } := by decide +kernel
/-- An engine waits for a transmit ring that still sweeps. -/
theorem witness_DieCommands_rings :
    let rings (st : RingMode) : Tbl RingSt := (placeRings { en := true }).foldl (fun t r => tset t r { st := st } {}) []
    let s (st : RingMode) : State := { up with hm := { dies := [(1, { st := .up }), (24, { st := .rejoining })] },
                                               oe := [(0, { place := [(5, { en := true })], ring := rings st })] }
    dieType 24 = some 3 ∧ ringsSettled (s .locked) 0 = true ∧ ringsSettled (s .sweep) 0 = false ∧
    (dieGet (after (.dieRejoinUp 24 []) (s .locked)) 24).st = .up ∧
    (dieGet (after (.dieRejoinUp 24 []) (s .sweep)) 24).st = .rejoining := by decide +kernel
theorem witness_DieCommands_commands : isBusy (died .up .up) blkHM = false ∧ commandable (died .up .up) 8 = true ∧ (0x80000100 : Word).getLsbD 31 = true ∧ (field (0x80000001 : Word) 8 2).toNat = 0 ∧
    (field (0x80000301 : Word) 8 2).toNat = 3 ∧ (field (0x80000108 : Word) 8 2).toNat = 1 ∧ (field (0x80000208 : Word) 8 2).toNat = 2 ∧
    governed (field (0x80000108 : Word) 0 6).toNat = true ∧ (died .up .up).hm.st ≠ .loading ∧
    siteState (rset (died .up .up) (blkHM.reg 0x2C0) 0) 8 ≠ .quarantined ∧
    siteState (rset (died .up .quarantined) (blkHM.reg 0x2C0) 0) 8 = .quarantined ∧
    (dieGet (after (.quarantine 0x80000108) (died .up .up)) 8).st = .quarantined ∧
    (dieGet (after (.release 0x80000208 []) (died .up .quarantined)) 8).st = .rejoining := by decide +kernel

/-! ## The guest berth -/

/-- A guest die is fitted, GF is enabled and admits channels 0–3 and bollards 0–15, and the port is up. -/
def guested (g : GuestSt) (x : LinkSt) : State :=
  { up with guest := g, links := [(guestKey, x)]
            regs := { words := [(blkGF.reg 0x004, 1), (blkGF.reg 0x010, 0x1F0), (blkGF.reg 0x014, 2), (blkGF.reg 0x028, 0x100000)] } }
def portUp : LinkSt := { st := .up, rxLanes := 64 }
def hdrB (ty : BitVec 4) (seq : BitVec 16) : Hdr := ⟨ty, 0, 0, 1, false, false, seq, 0, 0, 0, 0⟩
def lG : LinkId := ⟨0, 2⟩

theorem witness_GuestCommands_parcel :
    Released (guested {} portUp) lG tyBollard (hdrB tyBollard 1) 15 (chk (hdrB tyBollard 1) 15) ∧ hubUp (guested {} portUp) = true ∧
    guestPresent (guested {} portUp) = true ∧ enabled (guested {} portUp) blkGF = true ∧ guestUp (guested {} portUp) = true ∧
    (hdrB tyBollard 1).seq = (linkGet (guested {} portUp) guestKey).rxAck + 1 ∧ beyondCredit (guested {} portUp) 0 = false ∧
    beyondCredit (guested { rxCount := [(0, 16384)] } portUp) 0 = true ∧ breakwater (guested {} portUp) (hdrB tyBollard 1) 15 = 0 ∧
    breakwater (guested {} portUp) (hdrB tyBollard 1) 16 = 6 :=
  ⟨released _ _ _ _ _ (by decide +kernel), by decide +kernel⟩
/-- The window 0 of the guest: parcels 0 and 1 of memory, reads and writes. -/
theorem witness_GuestCommands_window :
    let s : State := { guested {} portUp with regs := { words := (guested {} portUp).regs.words ++ [(blkGF.reg 0x108, 0x100), (blkGF.reg 0x110, 0xD)] } }
    s.guest.quar = false ∧ breakwater s { hdrB tyWrite 1 with addr := 1 } 0 = 0 ∧
    breakwater s { hdrB tyWrite 1 with addr := 2 } 0 = 5 := by decide +kernel
theorem witness_GuestCommands_quarantine : isBusy (guested {} portUp) blkGF = false ∧ (1 : Word).getLsbD 0 = true ∧
    (after (.gfQuarSet 1) (guested {} portUp)).guest.quar = true ∧ guestUp (after (.gfQuarSet 1) (guested {} portUp)) = false ∧
    (after (.gfQuarClr 1) (guested { quar := true } {})).guest.quar = false := by decide +kernel
theorem witness_GuestCommands_down : guestUp (after .guestPortDown (guested { rate := 5 } portUp)) = false ∧
    (after .guestPortDown (guested { rate := 5 } portUp)).guest.rate = 0 := by decide +kernel
theorem witness_GuestCommands_up :
    let s : State := { guested {} { rxAck := 9 } with pw := { up.pw with guestOn := true },
                                                      regs := { words := [(blkGF.reg 0x004, 1), (blkGF.reg 0x010, 0x51F0), (blkGF.reg 0x014, 3)] } }
    hubUp s = true ∧ guestPresent s = true ∧ enabled s blkGF = true ∧ s.guest.quar = false ∧ guestUp s = false ∧ s.pw.guestOn = true ∧
    guestRateOk s 5 = true ∧ guestRateOk s 6 = false ∧ (after (.guestPortUp 5) s).guest.rate = 5 := by decide +kernel

/-! ## Optical engines -/

/-- Engine 0 runs, in this state. -/
def engined (x : OeSt) : State := { up with hm := { dies := [(24, { st := .up })] }, oe := [(0, x)] }
/-- Ring 20 (line-select, line 2), or ring 9793 (receive-drop). -/
def rung (v : RingSt) : State := engined { ring := [(20, v)] }
def dropRing (v : RingSt) : State := engined { ring := [(9793, v)] }
def ringMode (s : State) (r : Nat) : RingMode := (ringGet (oeGet s 0) r).st

theorem witness_RingsAndPlaces_sweep : ringIn (rung { st := .sweep }) 0 20 .sweep = true ∧
    ringMode (after (.ringSweepDone 0 20 (some 77)) (rung { st := .sweep })) 20 = .acquire ∧
    ringMode (after (.ringSweepDone 0 20 none) (rung { st := .sweep, fails := 2 })) 20 = .givenUp ∧
    ringIn (dropRing { st := .sweep }) 0 9793 .sweep = true ∧
    ringMode (after (.ringSweepDone 0 9793 none) (dropRing { st := .sweep })) 9793 = .parked := by decide +kernel
theorem witness_RingsAndPlaces_beyond : heaterLimit (rung { st := .sweep }) 0 = 57344 ∧
    (77 : BitVec 16).toNat ≤ heaterLimit (rung { st := .sweep }) 0 ∧
    (let s : State := { rung { st := .sweep } with regs := { words := [((blkOE 0).reg 0x104, 76)] } }
     heaterLimit s 0 < (77 : BitVec 16).toNat ∧ ringMode (after (.ringSweepDone 0 20 (some 77)) s) 20 = .parked ∧
     ringMode (after (.ringAcquired 0 20 77 0) { s with oe := [(0, { ring := [(20, { st := .acquire })] })] }) 20 = .parked) := by decide +kernel
/-- 1 ms after it parked for want of light, and before. A ring of another class keeps its count of failures. -/
theorem witness_RingsAndPlaces_retry : ringIn (dropRing { st := .parked }) 0 9793 .parked = true ∧ ringClass 9793 = 3 ∧ ringClass 20 ≠ 3 ∧
    ringMode (after (.ringSweepRetry 0 9793) { dropRing { st := .parked } with now := 1000000 }) 9793 = .sweep ∧
    ringMode (after (.ringSweepRetry 0 9793) { dropRing { st := .parked } with now := 999999 }) 9793 = .parked ∧
    ringMode (after (.ringSweepRetry 0 20) (rung { st := .parked, fails := 1 })) 20 = .sweep := by decide +kernel
theorem witness_RingsAndPlaces_acquire : ringIn (rung { st := .acquire }) 0 20 .acquire = true ∧
    (78 : BitVec 16).toNat ≤ heaterLimit (rung { st := .acquire }) 0 ∧
    ringMode (after (.ringAcquired 0 20 78 3) (rung { st := .acquire })) 20 = .check := by decide +kernel
/-- Tones in 0.01 dB of which line `k` stands out. -/
def tonesT (k : Nat) : List (BitVec 16) := (List.range 18).map fun i => if i = k then 0 else 0xF000
def later (s : State) : State := { s with now := 100000 }
theorem witness_RingsAndPlaces_check : ringIn (rung { st := .check }) 0 20 .check = true ∧ tellsLines 20 = true ∧
    ringLine (oeGet (rung {}) 0) 20 = some 2 ∧ ringVerdict (oeGet (rung {}) 0) 0 20 [] = .failed ∧
    ringVerdict (oeGet (rung {}) 0) 0 20 (tonesT 3) = .wrongLine 3 ∧
    gives (.ringIdentityCheck 0 20 []) { rung { st := .check } with now := 99999 } { rung { st := .check } with now := 99999 } = true ∧
    ringMode (after (.ringIdentityCheck 0 20 []) (later (rung { st := .check }))) 20 = .sweep ∧
    rget (after (.ringIdentityCheck 0 20 (tonesT 3)) (later (rung { st := .check }))) ((blkOE 0).reg 0x10C) = 1 := by decide +kernel
/-- The modulator ring of a place on line 0 whose tone stands at its calibrated level. -/
def modT (v : RingSt) : State := engined { place := [(5, { en := true })], ring := [(4896, v)] }
def levelT : List (BitVec 16) := [Config.toneLevel 0 4896]
theorem modT_passes (v : RingSt) : ringVerdict (oeGet (modT v) 0) 0 4896 levelT = .passed := by
  have h : ringLine (oeGet (modT v) 0) 4896 = some 0 := rfl
  have c : ringClass 4896 = 1 := by decide
  have n : nearLevel 0 4896 levelT 0 100 = true := by simp [nearLevel, toneAt, levelT]
  simp [ringVerdict, h, c, n, tellsLines]
theorem witness_RingsAndPlaces_passed :
    ringVerdict (oeGet (later (modT { st := .check })) 0) 0 4896 levelT = .passed ∧
    ringIn (later (modT { st := .check })) 0 4896 .check = true ∧
    (ringGet (oeGet (later (modT { st := .check })) 0) 4896).since + 100000 ≤ (later (modT { st := .check })).now ∧
    ringLine (oeGet (later (modT { st := .check })) 0) 4896 = some 0 ∧ ringClass 4896 = 1 ∧ ringClass 5168 = 2 :=
  ⟨modT_passes _, by decide +kernel⟩
theorem witness_RingsAndPlaces_locked : ringIn (rung { st := .locked }) 0 20 .locked = true ∧
    checkDue (later (rung { st := .locked })) 0 { st := .locked, recheck := some 0 } = true ∧
    checkDue (rung { st := .locked }) 0 { st := .locked, recheck := some 0 } = false ∧
    checkDue { rung {} with now := 10000000 } 0 {} = true ∧ checkDue { rung {} with now := 9999999 } 0 {} = false ∧
    ringDark (oeGet (rung { st := .locked }) 0) 20 = false ∧
    ringMode (after (.ringPeriodicCheck 0 20 []) (later (rung { st := .locked, recheck := some 0, fails := 1 }))) 20 = .sweep ∧
    rget (after (.ringPeriodicCheck 0 20 (tonesT 3)) (later (rung { st := .locked, recheck := some 0 }))) ((blkOE 0).reg 0x10C) = 1 ∧
    (ringGet (oeGet (rung { st := .locked, fails := 2 }) 0) 20).fails = 2 := by decide +kernel
/-- Above UNLOCK, at it, and at the heater's limit. -/
theorem witness_RingsAndPlaces_unlock :
    let s : State := { rung { st := .locked } with regs := { words := [((blkOE 0).reg 0x100, 0x400000)] } }
    ringIn s 0 20 .locked = true ∧ ringDark (oeGet s 0) 20 = false ∧ (field (cfg s (blkOE 0) 0x100) 16 8).toNat < (0xBF : Byte).toInt.natAbs ∧
    (0xC0 : Byte).toInt.natAbs ≤ (field (cfg s (blkOE 0) 0x100) 16 8).toNat ∧ (70 : BitVec 16).toNat < heaterLimit s 0 ∧
    ringMode (after (.ringUnlock 0 20 0xBF 70) s) 20 = .sweep ∧ ringMode (after (.ringUnlock 0 20 0xC0 70) s) 20 = .locked ∧
    (ringGet (oeGet (after (.ringUnlock 0 20 0xC0 70) s) 0) 20).err = 0xC0 := by decide +kernel
/-- A ring of a class that tells no lines apart has failed its check. -/
theorem test_ring_wrongLine_class : tellsLines 4896 = false ∧
    ringVerdict (oeGet (engined {}) 0) 0 4896 (tonesT 3) = .failed := by decide +kernel

/-- The map in force: electrical lane 5 of engine 0 is fibre 0, line 0, toward member 1. -/
def mapT : Chart := { group := 3, engines := [0x00FF0001], lanes := [(5, 0x100)] }
def mappedT (x : OeSt) : State := { engined x with hm := { chart := some mapT, dies := [(1, { st := .up }), (24, { st := .up })] } }
theorem witness_RingsAndPlaces_steer : oeUp (mappedT { rx := [(7, { lit := true })] }) 0 = true ∧
    (rxGet (oeGet (mappedT { rx := [(7, { lit := true })] }) 0) 7).lit = true ∧ badIdentity (mappedT {}) 0 1 0 0 = false ∧
    (laneGet (linkGet (mappedT {}) (opticKey 0 1)) 0).retiring = false ∧
    (oeGet (after (.receivePlaceSteer 0 7 1 0 0) (mappedT { rx := [(7, { lit := true })] })) 0).steer = [(5, 8)] ∧
    badIdentity (mappedT {}) 0 1 0 1 = true := by decide +kernel
/-- Of two places with one identity the one lit later has the lane, whichever is steered last. -/
theorem witness_RingsAndPlaces_later :
    let x : OeSt := { rx := [(7, { lit := true, litAt := 5 }), (8, { lit := true, litAt := 6 })] }
    ((7, 1, 0) : Nat × Nat × Nat).1 ≠ ((8, 1, 0) : Nat × Nat × Nat).1 ∧ (rxGet x 7).litAt < (rxGet x 8).litAt ∧
    (oeGet (after (.receivePlaceSteer 0 7 1 0 0) (mappedT { x with ident := [(8, 1, 0)] })) 0).steer = [(5, 9)] := by decide +kernel
/-- Lane 5 is retired (cause 0), or one of its rings is given up (cause 1). -/
def retiredT : State := { mappedT { place := [(5, { en := true })] } with links := [(opticKey 0 1, { st := .up, txDue := 1 })] }
theorem witness_RingsAndPlaces_move : oeUp retiredT 0 = true ∧ moveDue retiredT 0 5 false = true ∧
    (placeGet (oeGet (after (.placeMove 0 5 false) retiredT) 0) 5).line = 16 ∧
    moveDue (mappedT { place := [(5, { en := true })], ring := [(4896, { st := .givenUp })] }) 0 5 true = true ∧
    gives (.placeMove 0 5 false) (mappedT { place := [(5, { en := true })], fibreBad := 1 })
      (mappedT { place := [(5, { en := true })], fibreBad := 1 }) = true := by decide +kernel
def lockedPlace (p : TxPlace) : OeSt := { place := [(5, p)], ring := (placeRings p).foldl (fun t r => tset t r { st := .locked } {}) [] }
theorem witness_RingsAndPlaces_moved : (placeGet (oeGet (mappedT (lockedPlace { en := true, moving := true })) 0) 5).en = true ∧
    (placeGet (oeGet (mappedT (lockedPlace { en := true, moving := true })) 0) 5).moving = true ∧
    (∀ r ∈ placeRings { en := true, moving := true }, (ringGet (oeGet (mappedT (lockedPlace { en := true, moving := true })) 0) r).st = .locked) ∧
    (placeGet (oeGet (after (.placeMoveDone 0 5) (mappedT (lockedPlace { en := true, moving := true }))) 0) 5).moving = false := by decide +kernel
theorem witness_RingsAndPlaces_home :
    let s : State := { engined {} with regs := { words := [((blkOE 0).reg 0x010, 0x00FF0001)] } }
    oeUp s 0 = true ∧ (1 : Word).getLsbD 0 = true ∧ field (cfg s (blkOE 0) 0x010) 16 16 ≠ (0 : BitVec 16) ∧
    (oeGet (after (.oeHomeTest 0 1 6 [(3, 9)]) s) 0).fibreBad = 6 := by decide +kernel
theorem witness_RingsAndPlaces_light :
    let x : OeSt := { rx := [(1, { lit := true })], ring := [(20, { st := .locked }), (9793, { st := .check })] }
    oeRuns (engined x) 0 = true ∧ (rxGet (oeGet (engined x) 0) 1).lit = true ∧ (rxGet (oeGet (engined x) 0) 1).darkAt = none ∧
    ringMode (after (.ringLightLoss 0 (.rx 1)) (engined x)) 9793 = .parked ∧
    ringMode (after (.ringLightReturn 0 (.rx 1) 40) (dropRing { st := .parked })) 9793 = .sweep ∧
    (ringGet (oeGet (after (.ringLightReturn 0 (.rx 1) 40) (engined x)) 0) 20).recheck = some 0 := by decide +kernel
/-- A transmit place that has lost its light, and whose light is back. -/
def darkT (at_ : Option Nat) (st : RingMode) : State :=
  engined { place := [(5, { en := true, darkAt := at_ })], ring := [(4896, { st := st })] }
theorem witness_RingsAndPlaces_lightTx : (placeGet (oeGet (darkT none .locked) 0) 5).en = true ∧
    (placeGet (oeGet (after (.ringLightLoss 0 (.tx 5)) (darkT none .locked)) 0) 5).darkAt = some 0 ∧
    (oeGet (darkT (some 0) .parked) 0).dark = false ∧ inSafe (darkT (some 0) .parked) (blkOE 0) = false ∧
    (placeGet (oeGet (darkT (some 0) .parked) 0) 5).darkAt.isSome = true ∧
    ringMode (after (.ringLightReturn 0 (.tx 5) 40) (darkT (some 0) .parked)) 4896 = .sweep := by decide +kernel
theorem witness_RingsAndPlaces_dark :
    let s : State := { engined { rx := [(1, { lit := true, darkAt := some 5 })] } with now := 10005 }
    (rxGet (oeGet s 0) 1).darkAt = some 5 ∧ oeRuns s 0 = true ∧ (5 : Nat) + 10000 ≤ s.now ∧
    (rxGet (oeGet (after (.ringDarkTimeout 0 (.rx 1)) s) 0) 1).lit = false := by decide +kernel
theorem witness_RingsAndPlaces_darkTx :
    ringMode (after (.ringDarkTimeout 0 (.tx 5)) { darkT (some 5) .locked with now := 10005 }) 4896 = .parked ∧
    ringMode (after (.ringDarkTimeout 0 (.tx 5)) { darkT (some 5) .locked with now := 10004 }) 4896 = .locked := by decide +kernel

/-- Engine 0 enabled, in an open window. -/
def forecast (x : OeSt) : State :=
  { engined x with slack := { forced := some 2000010000 }, tide := { hub := 2000000000 }, regs := { words := [((blkOE 0).reg 0x004, 1)] } }
/-- The same, with a forecast of a launch at this time outstanding for it. -/
def forewarned (fire : Dword) : State := { forecast {} with launch := { forecasts := [⟨fire, [], [0], []⟩] } }
theorem witness_EngineCommands_forecast : (forewarned 2000039999).launch.forecasts = [⟨2000039999, [], [0], []⟩] ∧
    oeUp (forewarned 2000039999) 0 = true ∧ enabled (forewarned 2000039999) (blkOE 0) = true ∧
    rget (after (.forecastReceive 0 2000039999) (forewarned 2000039999)) ((blkOE 0).reg 0x120) = 1 ∧
    rget (after (.forecastReceive 0 2000040000) (forewarned 2000040000)) ((blkOE 0).reg 0x120) = 0 ∧
    gives (.forecastReceive 0 2000040000) (forewarned 2000039999) (forewarned 2000039999) = true := by decide +kernel
/-- Slot 271 for 1,000 µs: a reading begins in a window, and where none is open and the engine's links serve it waits. -/
def served (x : OeSt) : State := { engined x with links := [(opticKey 0 1, { st := .up })] }
theorem witness_EngineCommands_reading : (0x8007D10F : Word).getLsbD 31 = true ∧ (field (0x8007D10F : Word) 0 9).toNat = 271 ∧
    (field (0x8007D10F : Word) 9 10).toNat = 1000 ∧ (oeGet (forecast {}) 0).wb = none ∧ oeRuns (forecast {}) 0 = true ∧
    isBusy (forecast {}) (blkOE 0) = false ∧
    slotBusy (forecast {}) 0 271 = false ∧ slotBusy (forecast { place := [(5, { en := true, slot := 271 })] }) 0 271 = true ∧
    wbOpen (forecast {}) 0 = true ∧ wbOpen (served {}) 0 = false ∧
    (oeGet (after (.oeWbCmd 0 0x8007D10F) (forecast {})) 0).wb = some { slot := 271, tint := 1000, start := some 0 } ∧
    (oeGet (after (.oeWbCmd 0 0x8007D10F) (served {})) 0).wb = some { slot := 271, tint := 1000 } := by decide +kernel
def readingT : State := { forecast { wb := some { slot := 1, tint := 1, start := some 0 } } with now := 1000 }
theorem witness_EngineCommands_done : Inv readingT ∧ (oeGet readingT 0).wb = some { slot := 1, tint := 1, start := some 0 } ∧
    (oeGet (after (.weightBankReadingDone 0 9 false) readingT) 0).wbSum = 9 ∧
    gives (.weightBankReadingDone 0 9 false) { readingT with now := 999 } { readingT with now := 999 } = true :=
  ⟨inv_of (by decide +kernel), by decide +kernel⟩
theorem test_oeLockerrMax : rget (after (.oeLockerrMax 0 5 (some 6)) (forecast {})) ((blkOE 0).reg 0x124) = 6 := by decide +kernel
/-- A correction moves by 1/16 of what remains, toward zero, or by one, once in a millisecond of tide. -/
theorem witness_EngineCommands_calibration :
    let s (ms : Option Nat) : State := { forecast {} with cal := { use := [(3, some ⟨0, 16⟩)], stepMs := ms } }
    windowLeft (s none) kindCalib ≠ 0 ∧ (s none).tide.hub.toNat / 1000000 = 2000 ∧ windowLeft up kindCalib = 0 ∧
    (⟨0, -33⟩ : CalVal).now ≠ (⟨0, -33⟩ : CalVal).target ∧ (⟨0, -33⟩ : CalVal).stepped = ⟨-2, -33⟩ ∧ (⟨0, 15⟩ : CalVal).stepped = ⟨1, 15⟩ ∧
    (after .calibrationStep (s none)).cal.use = [(3, some ⟨1, 16⟩)] ∧
    gives .calibrationStep (s (some 2000)) (s (some 2000)) = true := by decide +kernel
/-- Place 19 is lit, and its reference is 0 dBm: 1.4 dB below it, and less. -/
def litT : State := { engined { rx := [(19, { lit := true })] } with cal := { use := [(calNum 9 24 19, some ⟨0, 0⟩)] } }
theorem witness_EngineCommands_power : oeUp litT 0 = true ∧ (rxGet (oeGet litT 0) 19).lit = true ∧
    (rxReference litT 0 19 - (BitVec.ofInt 16 (-140)).toInt).toNat = 140 ∧ (rxReference litT 0 19 - (BitVec.ofInt 16 (-139)).toInt).toNat = 139 ∧
    (rxGet (oeGet litT 0) 19).lowAt = none ∧
    rget (after (.rxPowerLow 0 19 (BitVec.ofInt 16 (-140))) litT) ((blkOE 0).reg 0x128) = 1 ∧
    rget (after (.rxPowerLow 0 19 (BitVec.ofInt 16 (-139))) litT) ((blkOE 0).reg 0x128) = 0 := by decide +kernel
/-- A record of type 0x02 of engine 0's die, whole and broken off after 27 bytes. -/
theorem witness_EngineCommands_record : calDies 1 24 = true ∧ calDies 0 24 = false ∧ hubUp up = true ∧
    tget up.nor.last (calKey 1 24) none = none ∧ up.cal.use.length + [((5 : Word), (7 : Word))].length < 2 ^ 29 ∧ (27 : BitVec 16).toNat < 28 ∧
    tget up.cal.inUse (calKey 1 24) 0 = 0 ∧ (after (.calRecordWrite 1 24 (some 27) [(5, 7)]) up).oe = [] := by decide +kernel
/-- κ = 0.06 for the base die's own compute dies at most, 0.02 for the others. -/
theorem witness_EngineCommands_coupling : ownDie 0 1 = true ∧ ownDie 0 4 = false ∧
    kappaOf { up with cal := { use := [(calNum 2 24 (coupKey 3 1 0), some ⟨90000, 90000⟩)] } } 0 3 1 = 60000 ∧
    kappaOf { up with cal := { use := [(calNum 2 24 (coupKey 3 4 0), some ⟨90000, 90000⟩)] } } 0 3 4 = 20000 := by decide +kernel

/-! ## Laser chiplets -/

/-- Chiplet 0 in this state, thresholds 100 and 200, in an open window. -/
def lasing (x : LsSt) : State :=
  { up with slack := { forced := some 2000010000 }, tide := { hub := 2000000000 }, ls := [(0, x)], now := 60000000005
            regs := { words := [((blkLS 0).reg 0x004, 1), ((blkLS 0).reg 0x020, 100), ((blkLS 0).reg 0x024, 200)] } }
/-- 5.1 GHz from the other side's line, and 0.5 dB. -/
theorem witness_LaserCommands_diverge : lsRuns (lasing {}) 0 = true ∧ (lsGet (lasing {}) 0).side (!(lsGet (lasing {}) 0).active) ≠ .failed ∧
    50 < (51 : BitVec 16).toInt.natAbs ∧ (BitVec.ofInt 16 (-50)).toInt.natAbs ≤ 50 ∧
    (lsGet (after (.standbyDiverge 0 3 51 0) (lasing {})) 0).diverge = true ∧
    (lsGet (after (.standbyDiverge 0 3 0 (BitVec.ofInt 16 (-50))) (lasing { diverge := true })) 0).diverge = false := by decide +kernel
theorem witness_LaserCommands_bias : (lsGet (lasing {}) 0).side true = .ready ∧ (cfg (lasing {}) (blkLS 0) 0x020).toNat < (101 : BitVec 12).toNat ∧
    (200 : BitVec 12).toNat ≤ (cfg (lasing {}) (blkLS 0) 0x024).toNat ∧ (lsGet (after (.laserBiasThreshold 0 true 200) (lasing {})) 0).stB = .warn ∧
    (lsGet (after (.laserBiasThreshold 0 true 101) (lasing {})) 0).stB = .warn ∧
    (lsGet (after (.laserBiasThreshold 0 true 100) (lasing {})) 0).stB = .ready ∧
    (lsGet (after (.laserBiasThreshold 0 true 201) (lasing {})) 0).stB = .eol := by decide +kernel
/-- LS_BIAS_OVR gives the active side its bias, whatever the loop says. -/
theorem witness_LaserCommands_override :
    let s := rset (lasing {}) ((blkLS 0).reg 0x028) 0x80000065
    (cfg s (blkLS 0) 0x028).getLsbD 31 = true ∧ false = (lsGet s 0).active ∧ (cfg (lasing {}) (blkLS 0) 0x028).getLsbD 31 = false ∧
    (lsGet (after (.laserBiasThreshold 0 false 0) s) 0).stA = .warn ∧ (lsGet (after (.laserBiasThreshold 0 false 300) s) 0).stA = .warn := by
  decide +kernel
theorem witness_LaserCommands_request : isBusy (lasing {}) (blkLS 0) = false ∧ (lsGet (after (.lsSwCmd 0 0x80000000) (lasing {})) 0).req = some 60000000005 ∧
    rget (after (.lsSwCmd 0 0x80000000) (lasing { stB := .eol })) ((blkLS 0).reg 0x030) = 0x80000001 := by decide +kernel
theorem witness_LaserCommands_scheduled : (lsGet (lasing { req := some 5 }) 0).side true ≠ .failed ∧ (lsGet (lasing { req := some 5 }) 0).req = some 5 ∧
    windowLeft (lasing { req := some 5 }) kindCalib ≠ 0 ∧ enabled (lasing { req := some 5 }) (blkLS 0) = true ∧
    (lsGet (after (.scheduledSwitchover 0 500) (lasing { req := some 5 })) 0).blank = true ∧
    (lsGet (after (.scheduledSwitchover 0 500) (lasing { req := some 5, blank := true })) 0).active = true ∧
    (lsGet (after (.scheduledSwitchover 0 500) (lasing { req := some 5, blank := true })) 0).blank = false ∧
    (5 : Nat) + 60000000000 ≤ (lasing { req := some 5 }).now ∧
    rget (after (.switchoverForced 0 500 3000) (lasing { req := some 5 })) ((blkLS 0).reg 0x030) = 0x80000003 ∧
    rget (after (.switchoverForced 0 500 3000) (lasing { req := some 6 })) ((blkLS 0).reg 0x030) = 0 := by decide +kernel
theorem witness_LaserCommands_unscheduled : (lsGet (lasing {}) 0).side (lsGet (lasing {}) 0).active ≠ .failed ∧ (lsGet (lasing {}) 0).active = false ∧ (lsGet (lasing {}) 0).claimA ≠ 0xFFFFFFFF ∧
    (lsGet (lasing { claimB := 2 }) 0).active = true ∧
    (lsGet (after (.unscheduledSwitchover 0 2000) (lasing {})) 0).active = true ∧
    (oeGet (after (.unscheduledSwitchover 0 2000) (lasing { stB := .failed })) 0).dark = true := by decide +kernel
/-- While a link of the engine has sent within the last microsecond a scheduled switchover waits. -/
theorem witness_LaserCommands_idle : linksIdle (lasing { req := some 5 }) 0 = true ∧
    (after (.scheduledSwitchover 0 500) { lasing { req := some 5 } with links := [(opticKey 0 1, { txAt := 60000000000 })] }).ls = [(0, { req := some 5 })] := by
  decide +kernel

/-! ## The pilot -/

/-- PL is enabled, port 0 is a HOST port with its link up, and a session is open or not. -/
def piloting (p : PlSt) : State :=
  { up with pl := { p with link0 := true }, regs := { words := [(blkPL.reg 0x004, 1), (blkPL.reg 0x010, 0x31), (blkPL.reg 0x014, 5001), (blkPL.reg 0x030, 7), (blkPL.reg 0x034, 1)] } }
def dgT (seq : Word) (ms : List PMsg) : Dgram := { dev := 0, fromDevice := false, session := 5, seq := seq, ack := 0, msgs := ms }
/-- The frame of a datagram in IPv4 to port 0, of this length and with this checksum. -/
def frameT (bytes : Nat) (sum : UdpSum) : EthFrame :=
  { mac := 0x100000007, tags := [], bytes := bytes, src := .v4 0, dst := .v4 0, plain := true, port := 5001, sum := sum, magic := 0x015051, resv := 0 }
def sessT : PlSt := { opened := true, session := 5, rxAck := 7 }

theorem witness_PilotDatagrams_open : pilotOn (piloting {}) = true ∧ portLive (piloting {}) 0 = true ∧ isPeerPort (piloting {}) 0 = false ∧
    (1 : Word) ≠ 0 ∧ (piloting {}).pl.todo = [] ∧
    frameTaken (piloting {}) 0 (frameT 60 .good) = true ∧ frameTaken (piloting {}) 0 { frameT 60 .good with mac := 0 } = false ∧
    (after (.openSession 0 (frameT 60 .good) 9 3) (piloting { session := 0xFFFF })).pl.session = 1 ∧
    (after (.openSession 0 (frameT 60 .good) 9 3) (piloting {})).pl.rxAck = 9 ∧
    rget (after (.openSession 0 { frameT 60 .good with mac := 0 } 9 3) (piloting {})) (blkPL.reg 0x064) = 1 := by decide +kernel
/-- HOST_LOCK and a VLAN: a frame of another address, and one without the tag where none is wanted. -/
theorem test_frame_lock :
    let s : State := { piloting {} with regs := { words := [(blkPL.reg 0x004, 1), (blkPL.reg 0x010, 0xB1), (blkPL.reg 0x014, 5001), (blkPL.reg 0x030, 7),
                                                            (blkPL.reg 0x034, 1), (blkPL.reg 0x038, 0x0A000001)] } }
    frameTaken s 0 (frameT 60 .good) = false ∧ frameTaken s 0 { frameT 60 .good with src := .v4 0x0A000001 } = true ∧
    frameTaken (piloting {}) 0 { frameT 60 .good with tags := [(5, 0)] } = false := by decide +kernel
theorem witness_PilotDatagrams_frames : frameGood (piloting sessT) 0 (frameT 60 .bad) (dgT 8 []) = false ∧
    frameGood (piloting sessT) 0 (frameT 9217 .good) (dgT 8 []) = false ∧ frameGood (piloting sessT) 0 (frameT 9216 .zero) (dgT 8 []) = true ∧
    (dgT 8 []).dev.toNat = ownDev (piloting sessT) ∧ (dgT 8 []).fromDevice = false ∧ opens (dgT 8 []) = false ∧
    (piloting {}).pl.opened = false ∧ (dgT 8 []).session = (piloting sessT).pl.session ∧ (dgT 8 []).seq = nextSeq (piloting sessT).pl.rxAck ∧
    (dgT 9 []).seq ≠ nextSeq (piloting sessT).pl.rxAck ∧ (piloting sessT).pl.todo = [] ∧
    (after (.pilotDatagram 0 (frameT 60 .good) (dgT 8 [])) (piloting sessT)).pl.rxAck = 8 ∧
    rget (after (.pilotDatagram 0 (frameT 60 .good) (dgT 9 [])) (piloting sessT)) (blkPL.reg 0x060) = 1 ∧
    rget (after (.pilotDatagram 0 (frameT 60 .good) (dgT 7 [])) (piloting sessT)) (blkPL.reg 0x05C) = 1 := by decide +kernel

/-- The bridge of a group of two, and a PEER port 1. -/
def bridging : State :=
  { piloting sessT with hm := { chart := some { group := 3, bridge := [true] } }, pl := { sessT with link0 := true, link1 := true }
                        regs := { words := [(blkPL.reg 0x004, 1), (blkPL.reg 0x010, 0x3B), (blkPL.reg 0x014, 5001), (blkPL.reg 0x030, 7), (blkPL.reg 0x034, 1)] } }
theorem witness_PilotDatagrams_relay : pilotOn bridging = true ∧ portLive bridging 0 = true ∧ ({ dgT 8 [] with dev := 1 } : Dgram).dev.toNat ≠ ownDev bridging ∧
    frameGood bridging 0 (frameT 60 .good) { dgT 8 [] with dev := 1 } = true ∧ frameGood bridging 0 (frameT 60 .bad) { dgT 8 [] with dev := 1 } = false ∧ isBridge bridging = true ∧ inGroup bridging 1 = true ∧
    (toMember bridging (some 0) 1 { dgT 8 [] with dev := 1 }).isSome = true ∧
    rget (after (.pilotRelay 0 (frameT 60 .good) { dgT 8 [] with dev := 1 }) bridging) (blkPL.reg 0x07C) = 1 := by decide +kernel
theorem witness_PilotDatagrams_parcel :
    Released { piloting sessT with links := [(0, lk)] } l0 tyPilot (hdrS tyPilot 8) 5 (chk (hdrS tyPilot 8) 5) ∧
    Released { piloting sessT with links := [(0, lk)] } l0 tyPilot { hdrS tyPilot 8 with dev := 1 } 5 (chk { hdrS tyPilot 8 with dev := 1 } 5) ∧
    l0.key ≠ guestKey ∧ (hdrS tyPilot 8).dev.toNat = ownDev (piloting sessT) ∧ pilotOn { piloting sessT with links := [(0, lk)] } = true ∧
    ({ hdrS tyPilot 8 with dev := 1 } : Hdr).dev.toNat ≠ ownDev (piloting sessT) :=
  ⟨released _ _ _ _ _ (by decide +kernel), released _ _ _ _ _ (by decide +kernel), by decide +kernel⟩
theorem witness_PilotDatagrams_ack : 0 < (piloting { sessT with owed := 3 }).pl.owed ∧
    (after .pilotAckSend (piloting { sessT with owed := 3 })).pl.owed = 0 := by decide +kernel
theorem witness_PilotDatagrams_retransmit :
    let s : State := { piloting { sessT with sent := [dgT 1 []] } with now := 200000 }
    s.pl.sent ≠ [] ∧ s.pl.sentAt + pilotRto s ≤ s.now ∧ rget (after .pilotRetransmit s) (blkPL.reg 0x068) = 1 := by decide +kernel
theorem witness_PilotDatagrams_event :
    let s : State := { piloting sessT with events := [⟨1, false, 0, 0, true, true⟩, ⟨2, false, 0, 0, false, false⟩] }
    s.pl.opened = true ∧ keepRoom s = true ∧ s.events = [⟨1, false, 0, 0, true, true⟩] ++ (⟨2, false, 0, 0, false, false⟩ : Event) :: [] ∧
    (after .eventSend s).events = [⟨1, false, 0, 0, true, true⟩, ⟨2, false, 0, 0, true, true⟩] := by decide +kernel
theorem witness_PilotDatagrams_frames6 :
    let s : State := piloting sessT
    (plCfg s).getLsbD 5 = true ∧ (after (.neighborSolicitation 0 (plIp6 s)) s).out.length = 1 ∧
    rget (after (.neighborSolicitation 0 (plIp6 s + 1)) s) (blkPL.reg 0x064) = 1 ∧ (after (.arpRequest 0 0) s).out.length = 1 ∧
    rget (after (.arpRequest 0 1) s) (blkPL.reg 0x064) = 1 := by decide +kernel
theorem witness_PilotDatagrams_ptp :
    let s : State := { piloting sessT with regs := { words := (piloting {}).regs.words ++ [(blkPL.reg 0x090, 0x80000001)] } }
    Inv (piloting sessT) ∧ rget s (blkPL.reg 0x090) &&& validBit ≠ 0 ∧ rget (piloting sessT) (blkPL.reg 0x090) &&& validBit = 0 ∧
    rget (after (.ptpEventMessage 0 false 0 77) s) (blkPL.reg 0x090) = 0x80000001 ∧
    (piloting sessT).pl.ptp = none ∧ gives (.ptpEventMessage 0 true 0 77) s s = true :=
  ⟨inv_of (by decide +kernel), by decide +kernel⟩
/-- The clock of a domain runs: a message of that domain makes the port a slave's. -/
theorem witness_PilotDatagrams_clock :
    let s : State := piloting { sessT with ptp := some { domain := 24 } }
    s.pl.ptp.isSome = true ∧ (after (.ptpEventMessage 0 false 24 77) s).pl.ptpSlave = true ∧
    (after (.ptpEventMessage 0 false 25 77) s).pl.ptpSlave = false := by decide +kernel
theorem test_ports : (after (.ethernetLinkDown 0) (piloting {})).pl.link0 = false ∧ (after (.ethernetLinkUp 1) (piloting {})).pl.link1 = true := by decide +kernel

/-- BT_STAGE0. -/
def scratch : Nat := regSpace + (blkBT.reg 0x010)
theorem witness_PilotMessages_registers : (piloting sessT).pl.opened = true ∧ keepRoom (piloting sessT) = true ∧ (piloting sessT).pl.todo = [] ∧
    (piloting sessT).pl.late = [] ∧ (piloting sessT).pl.gread = [] ∧ (piloting sessT).pl.gwrite = 0 ∧ inGap (piloting sessT) = false ∧
    (BitVec.ofNat 64 scratch : Dword).toNat < 2 ^ 52 ∧ ([1, 2] : List Word) ≠ [] ∧ regAstray scratch 2 = false ∧ regAstray scratch 64 = false ∧
    (∀ i < 2, readOnly (piloting sessT) (regOff { ty := 1, flags := 0, tag := 0, addr := BitVec.ofNat 64 scratch, body := [] } i) = false) ∧
    (after (.regWrite 9 (BitVec.ofNat 64 scratch) false [1]) (piloting sessT)).regs.posted.map (fun p => (p.off, p.value)) = [(blkBT.reg 0x010, 1)] ∧
    ((after (.regRead 9 (BitVec.ofNat 64 scratch) 2) (piloting sessT)).pl.sent.map fun d => d.msgs.map fun m => m.body) = [[[0, 0, 0, 0, 0, 0, 0, 0]]] := by
  decide +kernel
/-- In a switchover gap a register access waits. -/
theorem witness_PilotMessages_gap :
    let s : State := { piloting sessT with red := { gapEnd := 1 } }
    inGap s = true ∧ (after (.regWrite 9 (BitVec.ofNat 64 scratch) false [1]) s).pl.todo.length = 1 ∧
    (after (.regWrite 9 (BitVec.ofNat 64 scratch) false [1]) s).regs.posted = [] := by decide +kernel
theorem witness_PilotMessages_memory : ([1, 2, 3, 4] : List Byte) ≠ [] ∧ (4 : Nat) ≤ maxWrite (piloting sessT) ∧
    memCode (piloting sessT) (hubSramBase + hubSramSize - 4) 4 true = 0 ∧ memCode (piloting sessT) (hubSramBase + hubSramSize - 4) 8 true = 1 ∧
    hitsChart (piloting sessT) (hubSramBase + hubSramSize - 4) 4 = false ∧ pilotReaches (piloting sessT) (hubSramBase + hubSramSize - 4) = true ∧
    maxRead (piloting sessT) = 32 ∧ memCode (piloting sessT) (hubSramBase + 256) 256 false = 0 ∧ isGuest (piloting sessT) (hubSramBase + 256) = false ∧
    pilotReaches (piloting sessT) (hubSramBase + 256) = true := by decide +kernel

/-- A submission at ARG 0x500000000000, of a running chart and of none. -/
def entryW : BitVec 256 := BitVec.ofNat 256 (5000 + 7 * 2 ^ 64 + 3 * 2 ^ 80 + 1 * 2 ^ 96 + 0x500000000000 * 2 ^ 128)
def submitting : State := { launching [(0, entT .pending 1 0)] 0 with tide := { everLocked := true }, pl := { sessT with link0 := true }, regs := (piloting {}).regs }
theorem witness_PilotMessages_launch : submitCode submitting (entryOf entryW) = 0 ∧ submitCode (piloting sessT) (entryOf entryW) = 8 ∧
    (entryGet (after (.tideWrite 4 entryW) submitting) 1).time = 5000 := by decide +kernel
theorem witness_PilotMessages_whole :
    (List.replicate 256 (7 : Byte)).length = 256 ∧ Inv (piloting sessT) ∧ baseSramSize - 256 < baseSramSize ∧
    (rget (piloting sessT) ((blkSC (slotQ 5)).reg 0x02C)).getLsbD 31 = false ∧ (piloting sessT).mem.sramErr = [] ∧
    (piloting sessT).mem.sideErr = [] :=
  ⟨List.length_replicate .., inv_of (by decide +kernel), by decide +kernel⟩

/-! ## Redundancy -/

def halved (r : RedSt) : State := { up with red := r }

/-- The other half's heartbeat on one path, and the beacon drivers' on the other; a path returns after 1 ms. -/
theorem witness_Redundancy_paths : hubUp (halved {}) = true ∧ (halved {}).red.lostOf false true = [] ∧
    (after (.heartbeatPathLost false true false) (halved {})).red.lost = [⟨false, true, false, 0⟩] ∧
    (after (.heartbeatPathLost true false true) (halved { lost := [⟨false, true, false, 0⟩] })).red.lost =
      [⟨false, true, false, 0⟩, ⟨true, false, true, 0⟩] ∧
    (after (.heartbeatPathRestored false true false) { halved { lost := [⟨false, true, false, 0⟩] } with now := 1000000 }).red.lost = [] ∧
    (after (.heartbeatPathRestored false true false) { halved { lost := [⟨false, true, false, 0⟩] } with now := 999999 }).red.lost.length = 1 := by
  decide +kernel
theorem witness_Redundancy_failed : Inv (halved {}) ∧ (halved {}).red.half true ≠ .failed ∧ true ≠ (halved {}).red.active ∧
    bothDeclared (halved {}) true = none ∧ bothDeclared (halved {}) false = none ∧
    (after (.partnerFailed false true 64) (halved {})).red.stB = .failed ∧ (halved {}).red.half (!(halved {}).red.active) = .ready ∧
    (after (.partnerFailed false false 64) (halved {})).red.active = true ∧ rget (halved {}) (blkHM.reg 0x31C) &&& validBit = 0 ∧
    rget (after (.partnerFailed false false 64) (halved {})) (blkHM.reg 0x318) = 64 ∧
    (halved { stB := .resync }).red.half true ≠ .ready ∧ (after (.partnerFailed false false 0) (halved { stB := .resync })).pw.cause = 4 :=
  ⟨inv_of (by decide +kernel), by decide +kernel⟩
/-- Both halves declare the other failed in one control cycle. -/
theorem witness_Redundancy_both : (halved {}).red.half (halved {}).red.active ≠ .failed ∧ (halved {}).red.declared = none ∧
    (after (.partnerFailed false false 9) (after (.partnerFailed false true 9) (halved {}))).red.stB = .active ∧
    (after (.partnerFailed false false 9) (after (.partnerFailed false true 9) (halved {}))).red.stA = .resync ∧
    (after (.partnerFailed false true 9) (after (.partnerFailed false false 9) (halved {}))).red.stB = .active ∧
    (after (.partnerFailed false true 9) (after (.partnerFailed false false 9) (halved {}))).red.stA = .resync := by decide +kernel
theorem witness_Redundancy_drivers : (after (.partnerFailed true false 0) (halved {})).red.beaconActive = true ∧
    (after (.partnerFailed true true 0) (halved {})).red.beaconActive = false ∧
    (after (.partnerFailed true true 0) (halved {})).red.beaconStbyOk = false ∧
    gives (.partnerFailed true false 0) (halved { beaconStbyOk := false }) (halved { beaconStbyOk := false }) = true := by decide +kernel
theorem witness_Redundancy_resync : (after (.halfDivergence 3) (halved {})).red.stB = .resync ∧
    (halved { stB := .failed }).red.half true = .failed ∧ true ∉ (halved { stB := .failed }).red.out ∧
    (after (.failedHalfRestart true) (halved { stB := .failed })).red.stB = .resync ∧
    (halved { stB := .resync, diverge := true }).red.half true = .resync ∧
    (after (.resyncDone true) (halved { stB := .resync, diverge := true })).red = {} := by decide +kernel
theorem witness_Redundancy_command : isBusy (halved {}) blkHM = false ∧ rget (after (.hmSwCmd 0x80000000 0) (halved { stB := .failed })) (blkHM.reg 0x328) = 0x80000001 ∧
    (after (.hmSwCmd 0x80000000 64) (halved {})).red.claim = 2 ∧ (after (.hmSwCmd 0x80000000 64) (halved {})).red.stA = .resync := by decide +kernel
theorem witness_Redundancy_beacon : (halved {}).red.beaconStbyOk = true ∧ (after .beaconSwitchover (halved {})).red.beaconActive = true := by decide +kernel

/-! ## Power -/

def powered (x : PwSt) : State := { up with pw := { x with mode := .running, rails := true } }

theorem witness_PowerCommands_feeds : fed (powered {}) = true ∧ (powered {}).pw.feedB = false ∧ (419 : BitVec 10).toNat < 420 ∧
    (after (.feedTransfer 419 420) (powered {})).pw.feedB = true ∧ (after (.feedTransfer 420 480) (powered {})).pw.feedB = false ∧
    (powered { feedB := true }).pw.feedB = true ∧ (powered { feedB := true }).pw.sharing = none ∧
    (after (.feedReturn 440 480 40) { powered { feedB := true } with now := 10 ^ 9 }).pw.sharing = some (10 ^ 9 + 40000, 40) ∧
    (after (.feedReturn 440 480 40) { powered { feedB := true } with now := 10 ^ 9 - 1 }).pw.sharing = none ∧
    (after (.feedReturn 439 480 40) { powered { feedB := true } with now := 10 ^ 9 }).pw.sharing = none := by decide +kernel
theorem witness_PowerCommands_feedB : (powered { bOk := true }).pw.bOk = true ∧ (399 : BitVec 10).toNat < 400 ∧ 600 < (601 : BitVec 10).toNat ∧
    (after (.feedBFault 399) (powered { bOk := true })).pw.bOk = false ∧ (after (.feedBFault 400) (powered { bOk := true })).pw.bOk = true ∧
    (after (.feedBFault 600) (powered { bOk := true })).pw.bOk = true ∧ (after (.feedBFault 601) (powered { bOk := true })).pw.bOk = false ∧
    (after (.feedBRestored 400) (powered {})).pw.bOk = true ∧ (after (.feedBRestored 600) (powered {})).pw.bOk = true := by decide +kernel
theorem witness_PowerCommands_rails : (powered {}).pw.convBad.getLsbD 15 = false ∧ (after (.converterFault 15) (powered {})).pw.convBad = 0x8000 ∧
    (powered {}).pw.rails = true ∧ 3 ∉ (powered {}).pw.droop ∧ (after (.vcoreDroop 3) (powered {})).pw.droop = [3] ∧
    (after (.droopRecovered 3) (powered { droop := [3] })).pw.droop = [] ∧
    (after (.railOutOfTolerance 53 100) (logs (powered {}))).elog.count = 1 := by decide +kernel
/-- A forecast of a launch on die 3 at this time is outstanding for the die's regulator. -/
def foretold (fire : Dword) : State := { powered {} with launch := { forecasts := [⟨fire, [], [], [3]⟩] } }
theorem witness_PowerCommands_boost : (3, (10000 : Dword)) ∉ (powered {}).pw.boost ∧ (10000 : Dword).toNat ≤ (powered {}).tide.hub.toNat + 10000 ∧
    (powered {}).tide.hub.toNat < (10000 : Dword).toNat + 1000000 ∧
    (after (.regulatorForecastBoost 3 10000) (foretold 10000)).pw.boost = [(3, 10000)] ∧
    (after (.regulatorForecastBoost 3 10001) (foretold 10001)).pw.boost = [] ∧ (after (.regulatorForecastBoost 3 10000) (foretold 9999)).pw.boost = [] ∧
    (after (.regulatorForecastEnd 3) { powered { boost := [(3, 5), (4, 5)] } with tide := { hub := 1000005 } }).pw.boost = [(4, 5)] := by decide +kernel
theorem witness_PowerCommands_guest :
    Inv (powered { guestOn := true }) ∧ (powered { guestOn := true }).pw.guestOn = true ∧ isBusy (powered {}) blkPW = false ∧
    (after (.guestPowerCut 1) (powered { guestOn := true })).guest.quar = true ∧ (after (.pwGuestOn 3) (powered {})).pw.guestOn = true ∧
    rget (after (.pwGuestOn 3) (powered {})) (blkPW.reg 0x044) = 1 :=
  ⟨inv_of (by decide +kernel), by decide +kernel⟩
/-- PW enabled with a cap of 3,800 W. -/
def capped (x : PwSt) : State := { powered x with regs := { words := [(blkPW.reg 0x004, 1), (blkPW.reg 0x01C, 3800)] } }
theorem witness_PowerCommands_sample : enabled (capped {}) blkPW = true ∧ capWatts (capped {}) = 3800 ∧
    (after (.powerSample 0 751) (capped { guestOn := true, guestOver := 2 })).pw.guestOn = false ∧
    (after (.powerSample 0 750) (capped { guestOn := true, guestOver := 2 })).pw.guestOn = true ∧
    (after (.powerSample 3801 0) (capped { capOver := 2 })).pw.capOn = true ∧
    (after (.powerSample 3800 0) (capped { capOver := 2 })).pw.capOn = false := by decide +kernel

/-! ## Temperature and resets -/

theorem witness_ThermalCommands_sample : (List.replicate 68 Reading.open).length = 68 ∧ fed up = true ∧
    (chanGet (after (.thermalSample (List.replicate 68 .open)) up) 67).fault = true := by decide +kernel
/-- A missed sample reads the maximum and is no sensor fault. -/
theorem test_thermalSample_missed : (chanGet (after (.thermalSample (List.replicate 68 .missed)) up) 67).last = [0x7FF] ∧
    (chanGet (after (.thermalSample (List.replicate 68 .missed)) up) 67).fault = false := by decide +kernel
/-- Channel 0 rises at 100 °C and falls below 97 °C. -/
theorem witness_ThermalCommands_levels : agreedLevel 0 0 [400, 420, 400] = 1 ∧ agreedLevel 0 0 [400, 399, 400] = 0 ∧ agreedLevel 0 1 [388, 388, 388] = 1 ∧
    agreedLevel 0 1 [387, 387, 387] = 0 := by decide +kernel
/-- Channel 0, or 47, at its trip point of 112 °C or 108 °C twice. -/
def heated (t : Int) (x : PwSt) : State :=
  { powered x with tm := { ch := [(0, { last := [t, t] }), (47, { last := [t, t] })] }, now := 10,
                   regs := { words := [(blkTM.reg 0x01C, 0), (blkTM.reg 0x020, 0x500)] } }
theorem witness_ThermalCommands_trip : (0 : Fin 68).val ≠ 47 ∧ hubPowered (heated 448 {}) = true ∧ overTrip (heated 448 {}) 0 = true ∧
    overTrip (heated 447 {}) 0 = false ∧ (after (.thermalTrip 0) (heated 448 { trips := [0, 0] })).pw.latched = true ∧
    overTrip (heated 432 {}) 47 = true ∧ (heated 432 { guestOn := true }).pw.guestOn = true ∧
    (after (.thermalTrip 47) (heated 432 { guestOn := true })).pw.guestOn = false := by decide +kernel
theorem witness_ThermalCommands_restart :
    let s : State := { up with pw := { mode := .tripped }, tm := { coolAt := some 5 }, now := 30000000005 }
    s.tm.coolAt = some 5 ∧ s.pw.mode = .tripped ∧ s.pw.latched = false ∧ (5 : Nat) + 30000000000 ≤ s.now ∧
    (after .thermalRestart s).pw.mode = .starting ∧ (after (.pwLatchClr 1) { s with pw := { s.pw with latched := true } }).pw.cause = 3 := by decide +kernel

/-- A brown-out while a trip takes the rails down. -/
theorem witness_Resets_tripping :
    let s : State := { up with pw := { mode := .tripped, offAt := [1] } }
    hubPowered s = false ∧ tripping s = true ∧ tripping { s with now := 1 } = false := by decide +kernel
theorem witness_Resets_cause : rget up (blkPW.reg 0x02C) &&& validBit = 0 ∧
    rget { up with regs := { words := [(blkPW.reg 0x02C, 0x80000005)] } } (blkPW.reg 0x02C) &&& validBit ≠ 0 ∧
    rget (moduleReset up .starting true 4 0) (blkPW.reg 0x02C) = 0x80000004 := by decide +kernel
theorem witness_Resets : hubPowered up = true ∧ hubUp up = true ∧ (10000 : Word).toNat = 10000 ∧
    (after .brownOut up).pw.mode = .brownOut ∧ (after .hubReset up).pw.cause = 4 ∧ (after (.resetN 10000) up).pw.cause = 5 ∧
    (after (.resetN 9999) up).pw.cause = 0 ∧ (after (.referenceLost 64) up).pw.cause = 6 ∧ (after (.referenceLost 63) up).pw.cause = 0 := by decide +kernel
theorem witness_Resets_power : State.reset.pw.mode = .off ∧ (440 : BitVec 10).toNat = 440 ∧ (after (.powerOn false 440 0) State.reset).pw.mode = .starting ∧
    (after (.powerOn false 439 440) State.reset).pw.feedB = true ∧ (after (.powerOn false 439 439) State.reset).pw.mode = .off ∧
    (after (.powerOn false 440 0) { up with pw := { mode := .brownOut, cause := 1 } }).pw.cause = 1 ∧
    (after (.powerOn true 440 0) { up with pw := { mode := .brownOut, cause := 1 } }).pw.cause = 0 ∧
    (after .v1p8Retry { up with pw := { mode := .retry, cause := 2 } }).pw.mode = .starting := by decide +kernel

/-! ## Start-up -/

/-- An image of VERSION `version` and SVN `svn` in vendor slot `vendor`: header, signature block of zeros with the codes of R436, and the
key record of slot 0 with its codes. -/
def imageT (version svn vendor : Nat) : List Byte :=
  natToBytes 4 0x49574651 ++ natToBytes 4 0x48160001 ++ natToBytes 4 (64 + sigSpan) ++ natToBytes 4 (svn + 256 * vendor) ++
  natToBytes 8 version ++ List.replicate 40 0 ++
  natToBytes 4 0x42474953 ++ natToBytes 4 lmsLength ++ List.replicate 96 0 ++ sigT ++ List.replicate 96 0 ++
  [0, 0, 0, 2, 0, 0, 0, 8, 0, 0, 0, 3] ++ List.replicate 48 0
where
  /-- An HSS signature with the typecodes of R436 and zeros elsewhere. -/
  sigT : List Byte := (List.range lmsLength).map fun i =>
    if i = 3 then 1 else if i = 11 ∨ i = 2839 ∨ i = 2895 then 3 else if i = 2191 ∨ i = 2835 ∨ i = 5075 then 8 else 0

def bootT (v1p8 pll nor : Bool) (millis : Word) : Boot :=
  { upTo := 8, va := 480, vb := 480, v1p8Ok := v1p8, pllOk := pll, norOk := nor, halfBad := none, driverBad := none, norFound := []
    deadDies := [], badStraps := [], laneBad := [], stackBad := [], bist := [], sideBad := [], homeBad := [], homeDelay := []
    tdSet := none, millis := millis }
def starting (x : SecSt) : State := { State.reset with pw := { mode := .starting }, sec := { x with stage := 1 } }

theorem witness_StartUp_waits : (starting {}).pw.mode = .starting ∧ (starting {}).sec.stage = 1 ∧ 1 < (bootT true true true 5).upTo.val ∧
    (starting {}).pw.fromStep3 = false ∧ (starting {}).sec.code = 0 ∧ (bootT true true true 5).norFound = [] ∧
    (after (.startUp (bootT false true true 5)) (starting {})).pw.mode = .retry ∧
    (after (.startUp (bootT true false true 5)) (starting {})).sec.code = 2 ∧
    (after (.startUp (bootT true true false 5)) (starting {})).sec.code = 3 ∧
    imageStep (starting {}).sec (starting {}).nor.fw0 ≠ 0 ∧ imageStep (starting {}).sec (starting {}).nor.fw1 ≠ 0 ∧
    (after (.startUp (bootT true true true 5)) (starting {})).sec.code = 4 := by decide +kernel
theorem imageT_header : imageHeader (imageT 2 0 0) = true ∧ imageVendor (imageT 2 0 0) = 0 ∧ imageSvn (imageT 2 0 0) = 0 ∧
    le (imageT 2 0 0) (imageSigned (imageT 2 0 0)) 4 = 0x42474953 ∧ le (imageT 2 0 0) (imageSigned (imageT 2 0 0) + 4) 4 = lmsLength ∧
    hssKeyCodes ((vendorRecord (imageT 2 0 0)).drop 96) = true ∧
    hssCodes (((imageT 2 0 0).drop (imageSigned (imageT 2 0 0) + 0x68)).take lmsLength) = true := by decide +kernel
/-- Whether digests and signatures agree is open in the model: given that those of this image do, it starts. -/
theorem witness_StartUp_image (x : SecSt) (hr : x.vRevoked = 0) (hs : x.svn = 0)
    (hv : Config.sha384Bits (vendorRecord (imageT 2 0 0)) = Config.vendorDigest 0)
    (he : Config.ecdsaVerify ((vendorRecord (imageT 2 0 0)).take 96) ((imageT 2 0 0).take (imageSigned (imageT 2 0 0)))
      (((imageT 2 0 0).drop (imageSigned (imageT 2 0 0) + 8)).take 96) = true)
    (hh : Config.hssVerify ((vendorRecord (imageT 2 0 0)).drop 96) ((imageT 2 0 0).take (imageSigned (imageT 2 0 0)))
      (((imageT 2 0 0).drop (imageSigned (imageT 2 0 0) + 0x68)).take lmsLength) = true) : imageStep x (imageT 2 0 0) = 0 := by
  obtain ⟨a, b, c, d, e, f, g⟩ := imageT_header
  simp [imageStep, vendorKnown, ecdsaGood, hssGood, a, b, c, d, e, f, g, hr, hs, hv, he, hh]
/-- The steps that need no key: a bad header, a revoked vendor slot. -/
theorem witness_StartUp_steps : imageStep {} [] = 1 ∧ imageStep { vRevoked := 1 } (imageT 2 0 0) = 2 := by decide +kernel
/-- Slot 1 holds the image and slot 0 nothing, or the other way round. -/
theorem witness_StartUp_slots : imageVersion (erased (imageT 2 0 0) 64) = 2 ∧ imageVersion (erased (imageT 1 0 0) 64) = 1 ∧
    imageVersion (erased [] 64) = 2 ^ 64 - 1 ∧ imageStep {} [] ≠ 0 := by decide +kernel
theorem witness_StartUp_stages : (endStage (bootT true true true 5) { up with sec := { stage := 7 } }).sec.stage = 8 ∧
    (endStage (bootT true true true 90001) { up with sec := { stage := 7 } }).sec.stage = 7 ∧
    (bootT true true true 90000).millis.toNat ≤ 90000 ∧ 90000 < (bootT true true true 90001).millis.toNat := by decide +kernel
/-- One copy of the installation record is valid. -/
theorem witness_StartUp_record : instInUse { copy1 := { gen := 4, valid := true, body := [3] } } = some { gen := 4, valid := true, body := [3] } ∧
    ({ copy1 := { gen := 4, valid := true, body := [3] } } : SecSt).norBad = false := by decide +kernel
theorem witness_StartUp_timeout :
    let b := bootT true true true 90001
    let s : State := { up with pw := { mode := .stage7 }, sec := { resume := some b, stage := 7 }, now := 90 * 10 ^ 9 }
    s.sec.resume = some b ∧ s.pw.mode = .stage7 ∧ s.pw.startAt + 90 * 10 ^ 9 ≤ s.now ∧ s.sec.code = 0 ∧ (after .startupTimeout s).sec.code = 9 := by decide +kernel
theorem witness_StartUp_recovery :
    let b := bootT true true false 5
    let s : State := { State.reset with pw := { mode := .recovery }, sec := { resume := some b, stage := 2 } }
    s.sec.resume = some b ∧ s.pw.mode = .recovery ∧ imageStep s.sec [] ≠ 0 ∧
    rget (after (.recoveryImage []) s) (blkSB.reg 0x064) = 1 := by decide +kernel

/-! ## Security -/

/-- The hub runs, ID_DEVICE is 0. -/
def secured (x : SecSt) : State := { up with sec := x, regs := { words := [((blkID 0).reg 0x018, 0), ((blkID 0).reg 0x01C, 0)] } }

theorem witness_SecurityCommands_svn : hubUp (secured {}) = true ∧ isBusy (secured {}) blkSB = false ∧ (0x80000000 : Word).getLsbD 31 = true ∧
    (after (.sbSvnCommit 0x80000000 false none) (secured { svn := 1, fwSvn := 3, fwVendor := 1, fwRevoke := 7 })).sec.svn = 3 ∧
    (after (.sbSvnCommit 0x80000000 false none) (secured { svn := 1, fwSvn := 3, fwVendor := 1, fwRevoke := 7 })).sec.vRevoked = 5 ∧
    (after (.sbSvnCommit 0x80000000 false (some 1)) (secured { svn := 1, fwSvn := 3, fwVendor := 1, fwRevoke := 7 })).sec.svn = 2 ∧
    (after (.sbSvnCommit 0x80000000 false (some 1)) (secured { svn := 1, fwSvn := 3, fwVendor := 1, fwRevoke := 7 })).sec.vRevoked = 0 ∧
    (after (.sbSvnCommit 0x80000000 false (some 3)) (secured { svn := 1, fwSvn := 3, fwVendor := 1, fwRevoke := 7 })).sec.svn = 3 := by decide +kernel
theorem witness_SecurityCommands_watchdog :
    let s : State := { secured { kickAt := 5 } with now := 1000000005 }
    s.sec.kickAt + 1000000000 ≤ s.now ∧ (after .watchdogExpiry s).sec.watchdog = true ∧ (after (.sbWdog 1) s).sec.kickAt = 1000000005 := by decide +kernel

/-- An ENROL of slot 0 that needs no signature, staged at offset 0 of hub SRAM. -/
def stagedT (op signer : Byte) : State :=
  withBytes (secured { lifecycle := 1 }) [(hubSramBase, 0x51), (hubSramBase + 1, 0x4F), (hubSramBase + 2, 0x57), (hubSramBase + 3, 0x4E),
    (hubSramBase + 4, op), (hubSramBase + 6, signer)]
def readT (s : State) : State × List Byte := stagedBytes (rset (acceptWrite s blkSB) (blkSB.reg 0x034) 0) 0x80000000 ownerSpan
/-- The bytes at offset 0 of hub SRAM. -/
def bytesOf (s : State) : List Byte := s.mem.bytes.readBytes (hubSramBase + (field (0x80000000 : Word) 0 18).toNat * 256) ownerSpan
theorem readT_clean (s : State) (h : s.mem.sramErr = []) (hs : s.mem.sideErr = []) (hq : s.mem.sealSt = []) :
    readT s = (rset (acceptWrite s blkSB) (blkSB.reg 0x034) 0, bytesOf s) := by
  have e : (rset (acceptWrite s blkSB) (blkSB.reg 0x034) 0).mem = s.mem := rfl
  simp only [readT, stagedBytes, bytesOf, sramFix_clean (s := rset (acceptWrite s blkSB) (blkSB.reg 0x034) 0) h hs (sideBad_clean hs hq), e]
theorem witness_SecurityCommands_enrol : (stagedT 1 0xFF).hm.st ≠ .loading ∧
    (readOwner (readT (stagedT 1 0xFF)).2).op = 1 ∧ ownerBroken (readT (stagedT 1 0xFF)).1 (readT (stagedT 1 0xFF)).2 = [] := by
  rw [readT_clean _ rfl rfl rfl]
  decide +kernel

/-- The rules of an owner command, given whether its signature verifies. -/
def brokenWith (s : State) (b : List Byte) (v : Bool) : List Nat :=
  let c := readOwner b
  let t := ownerSlot s c.target
  let g := ownerSlot s c.signer
  let signed := !c.unsigned
  if ownerMalformed b then [1]
  else
    (if le b 8 8 ≠ (rget64 s ((blkID 0).reg 0x018)).toNat ∨ le b 0x10 8 ≠ s.sec.nonce.toNat then [2] else []) ++
    (if signed && g.live && !(g.recordOk && v) then [3] else []) ++
    (if signed && !g.live then [4] else []) ++
    (if (c.op == 1 && !t.blank) || (c.unsigned && c.target != 0) || (c.op == 2 && !t.enrolled) then [5] else []) ++
    (if c.op == 2 && (List.range 4).all (fun i => i == c.target || !(ownerSlot s i).live) then [6] else []) ++
    (if s.sec.lifecycle ≠ (if c.unsigned then 1 else 2) then [7] else [])
theorem broken_eq (s : State) (b : List Byte) :
    ownerBroken s b = brokenWith s b (signatureOk (ownerSlot s (readOwner b).signer) b ownerMessage ownerSpan) := rfl

/-- Slots 0 and 1 enrolled: REVOKE and DECOMMISSION signed by slot 1. Whether a signature verifies is open in the model: given that it
does, no rule is broken; given that it does not, rule 3 is. -/
def ownedT (op : Byte) : State :=
  let o : OwnerSlot := { enrolled := true, recordOk := true }
  { stagedT op 1 with sec := { lifecycle := 2, owner := [(0, o), (1, o)] } }
theorem witness_SecurityCommands_signed (op : Byte) (h : op = 2 ∨ op = 3) : (readOwner (readT (ownedT op)).2).op = op.toNat ∧ brokenWith (readT (ownedT op)).1 (readT (ownedT op)).2 true = [] ∧
    brokenWith (readT (ownedT op)).1 (readT (ownedT op)).2 false = [3] := by
  rw [readT_clean _ rfl rfl rfl]
  obtain rfl | rfl := h <;> decide +kernel
/-- The same command in a module that no owner has enrolled breaks rules. -/
theorem witness_SecurityCommands_broken : ownerBroken (readT (stagedT 1 0xFF)).1 (readT (withBytes (stagedT 1 0xFF) [])).2 = [1] := by
  rw [readT_clean _ rfl rfl rfl, readT_clean _ rfl rfl rfl]
  decide +kernel
theorem witness_SecurityCommands_install : instWaits (secured {}) = false ∧
    instInUse (secured { copy0 := { gen := 4, valid := true, body := [1] } }).sec = some { gen := 4, valid := true, body := [1] } ∧
    (let r : InstCopy := { gen := 4, valid := true, body := [1] }
     let x : SecSt := { copy0 := r, inst := some r }
     nextCopy x = (1, 5) ∧ x.norBad = false ∧ x.inst = some r ∧ r.valid = true ∧ r = x.copy0) ∧ ({} : SecSt).inst = none := by decide +kernel
theorem witness_SecurityCommands_tree :
    let s (n : Nat) : State := secured { lmsReady := true, lmsNext := n }
    (s 786433).sec.lmsReady = true ∧ lmsLeft (s 786433).sec < 2 ^ 18 ∧ ((s 786433).sec.lmsTree + 2) * 2 ^ 20 ≤ 2 ^ 40 ∧
    (after .lmsTreeBuildDone (s 786433)).sec.nextReady = true ∧ (after .lmsTreeBuildDone (s 786432)).sec.nextReady = false := by decide +kernel

/-- The log covers the indices below 1,024. -/
def treed (n : Nat) : State :=
  { secured { lmsReady := true, lmsReserved := 1024, lmsNext := n } with nor := { lms := [(0, [lmsEntry 1024])] } }
theorem witness_LmsIndicesAreUsedOnce : (treed 1023).sec.lmsReserved = lmsHighest (treed 1023).nor ∧
    (treed 1023).sec.lmsNext ≤ (treed 1023).sec.lmsReserved ∧ (treed 1023).nor.lmsAt < 16 ∧ (lmsTake (treed 1023) true).2 = .signed 1023 ∧
    (treed 1023).sec.lmsNext < (treed 1023).sec.lmsReserved ∧ (treed 1023).sec.logFailed = false ∧ (treed 1023).sec.lifecycle ≠ 3 ∧
    (treed 1023).sec.norBad = false ∧ (lmsTake (treed 1024) true).1.sec.lmsReserved = 2048 ∧
    lmsHighest (lmsTake (treed 1024) true).1.nor = 2048 ∧ (lmsTake (treed 1024) false).2 = .refused ∧
    (secured {}).sec.lmsReady = false := by decide +kernel

/-! ## SPDM -/

def talking (x : SpdmSt) : State := { secured { lmsReady := true, lmsReserved := 1024 } with spdmMctp := x }
/-- The rest of a GET_CAPABILITIES of the right length, and of a NEGOTIATE_ALGORITHMS of 32 bytes with P-384, SHA-384 and DMTF measurements. -/
def capsT : List Byte := List.replicate 18 0
def algsT : List Byte := [0, 0, 32, 0, 1, 0, 0x80, 0, 0, 0, 2] ++ List.replicate 19 0
theorem witness_SpdmAnswers : spdmReady (talking {}) .mctp .version = true ∧ (conn (talking { versionDone := true }) .mctp).versionDone = true ∧
    capsT.length = 18 ∧ algsT.length = 30 ∧ leAt algsT 2 2 = algsT.length + 2 ∧ (leAt algsT 6 4).testBit 7 = true ∧ (leAt algsT 10 4).testBit 1 = true ∧
    (conn (talking { capsDone := true }) .mctp).capsDone = true ∧ (conn (talking {}) .mctp).algsDone = false ∧
    (conn (talking { algsDone := true }) .mctp).algsDone = true ∧ (talking { algsDone := true }).sec.lifecycle ≠ 3 ∧
    (6 : Byte).toNat ≤ 6 ∧ (conn (talking { algsDone := true, signed := some [5] }) .mctp).signed = some [5] ∧
    (lmsTake (talking {}) true).2 = .signed 0 ∧ (lmsTake (secured {}) true).2 = .refused ∧
    (after (.getVersion .mctp) (talking { capsDone := true })).spdmMctp.capsDone = false ∧
    (after (.getVersion .mctp) (talking { capsDone := true })).spdmMctp.versionDone = true ∧
    (after (.getCapabilities .mctp capsT) (talking { versionDone := true })).spdmMctp.capsDone = true ∧
    (after (.getCapabilities .mctp capsT) (talking {})).spdmMctp.capsDone = false ∧
    (after (.negotiateAlgorithms .mctp algsT) (talking { capsDone := true })).spdmMctp.algsDone = true := by decide +kernel
/-- Over the pilot a request is one that a PILOT message brought. -/
theorem witness_SpdmAnswers_pilot :
    let s : State := { piloting sessT with spdmPilot := { busy := some (4, reqBytes .version) } }
    spdmReady s .pilot .version = true ∧ spdmReady s .pilot .digests = false ∧
    (after (.getVersion .pilot) s).spdmPilot.busy = none ∧ (after (.getVersion .pilot) s).pl.sent.length = 1 := by decide +kernel
/-- Offset 0 lies in the certificate chain, whose certificates are open in the model. -/
theorem witness_SpdmAnswers_certificate (s : State) : (0 : BitVec 16).toNat < (chainOf s).length := by simp [chainOf, natToBytes]
theorem witness_SpdmAnswers_chunk : (conn (talking { capsDone := true, chunk := some (3, 1, [7, 8]) }) .mctp).chunk = some (3, 1, [7, 8]) ∧
    (after (.chunkGet .mctp 3 1) (talking { capsDone := true, chunk := some (3, 1, [7, 8]) })).spdmMctp.chunk = none ∧
    (after (.chunkGet .mctp 3 2) (talking { capsDone := true, chunk := some (3, 1, [7, 8]) })).spdmMctp.chunk = some (3, 1, [7, 8]) := by decide +kernel

/-! ## Registers -/

def regd (l : List (Nat × Word)) : State := { up with regs := { words := l } }
/-- A firmware write at a register offset, as its block applies it. -/
def land (off : Nat) (v : Word) (t : WriteTiming) (s : State) : State := landPosted s ⟨0, .firmware, off, v, t, 0⟩
/-- EL_CFG, of an enabled block and of one that is not: its reserved bits 3:1 and 31:17 are not written. -/
theorem witness_EnabledBlocksKeepTheirConfiguration : Inv (regd [(blkEL.reg 0x004, 1)]) ∧ writable .firmware 0x10010 = true ∧
    regPlace (regd []) 0x10010 = .block blkEL 0x010 ∧ (decoded blkEL 0x010).map (fun x => (x.1.acc, x.1.words, x.1.unguarded, x.2)) = some (.rw, 1, false, 0x010, 0x010) ∧
    reaches (regd [(blkEL.reg 0x004, 1)]) .firmware blkEL 0x010 = true ∧ isBusy (regd [(blkEL.reg 0x004, 1)]) blkEL = false ∧
    enabled (regd [(blkEL.reg 0x004, 1)]) blkEL = true ∧ enabled (regd [(blkEL.reg 0x004, 0)]) blkEL = false ∧
    (after (.registerWrite .firmware 0x10010 5 .alone) (regd [])).regs.posted.map (fun p => (p.base, p.off, p.value)) = [(blkEL.base, 0x10010, 5)] ∧
    rget (land 0x10010 5 .alone (regd [(blkEL.reg 0x004, 1)])) (blkEL.reg 0x00C) = 1 ∧
    rget (land 0x10010 5 .alone (regd [(blkEL.reg 0x004, 1)])) (blkEL.reg 0x010) = 1 ∧
    rget (land 0x10010 0xFFFE001F .alone (regd [])) (blkEL.reg 0x010) = 0x11 :=
  ⟨inv_of (by decide +kernel), by decide +kernel⟩
/-- TD_SET, of two words, and TM_TRIP_OFS, unguarded. -/
theorem witness_EnabledBlocksKeepTheirConfiguration_two : (decoded blkTD 0x070).map (fun x => (x.1.acc, x.1.words, x.2)) = some (.rw, 2, 0x070, 0x070) ∧
    (decoded blkTD 0x074).map (fun x => (x.1.acc, x.1.words, x.2)) = some (.rw, 2, 0x070, 0x074) ∧
    (decoded blkTM 0x01C).map (fun x => (x.1.acc, x.1.words, x.1.unguarded)) = some (.rw, 1, true) ∧
    rget (land 0x4074 6 .alone (land 0x4070 5 .alone (regd []))) (blkTD.reg 0x070) = 5 ∧
    rget (land 0x4074 6 .alone (land 0x4070 5 .alone (regd []))) (blkTD.reg 0x074) = 6 := by decide +kernel

/-- EL_STAT, EL_WRITTEN, EL_DROPPED's first record, and a busy block. -/
theorem witness_RegisterCommands_types :
    Inv (regd [(blkEL.reg 0x02C, 0x80000001)]) ∧ (decoded blkEL 0x014).map (fun x => (x.1.acc, x.2)) = some (.live, 0x014, 0x014) ∧
    (decoded blkEL 0x024).map (fun x => (x.1.acc, x.1.words, x.2)) = some (.cnt, 1, 0x024, 0x024) ∧
    (decoded blkEL 0x02C).map (fun x => (x.1.acc, x.1.words, x.1.lead, x.2)) = some (.log, 1, none, 0x02C, 0x02C) ∧
    (decoded blkEL 0x020).map (fun x => (x.1.acc, x.2)) = some (.sh, 0x020, 0x020) ∧
    isBusy { regd [] with regs := { busy := [blkEL.base] } } blkEL = true ∧ rget (land 0x10024 9 .alone (regd [])) (blkEL.reg 0x024) = 9 ∧
    rget (land 0x10024 9 (.collides 0) (regd [])) (blkEL.reg 0x024) = 10 ∧
    rget (land 0x10020 9 (.collides 4) (regd [])) (blkEL.reg 0x020) = 4 ∧
    rget (land 0x1002C 0x80000000 .alone (regd [(blkEL.reg 0x02C, 0x80000001)])) (blkEL.reg 0x02C) = 0 :=
  ⟨inv_of (by decide +kernel), by decide +kernel⟩
/-- A posted write is applied at its time and not before. -/
theorem witness_RegisterCommands_posted :
    let s : State := { regd [] with regs := { posted := [⟨blkEL.base, .firmware, 0x10010, 0x20, .alone, 9⟩] } }
    rget (applyDue s 9) (blkEL.reg 0x010) = 0x20 ∧ rget (applyDue s 8) (blkEL.reg 0x010) = 1 ∧ isBusy s blkEL = true ∧ inGap s = false ∧
    inGap { s with red := { gapEnd := 1 } } = true ∧ rget (applyDue { s with red := { gapEnd := 1 } } 9) (blkEL.reg 0x010) = 1 := by decide +kernel
theorem witness_RegisterCommands_enable : isCtrl 0x10004 = true ∧ regPlace (regd []) 0x10004 = .block blkEL 0x004 ∧ (0x004 &&& blkEL.kind.mask) = 4 ∧
    reaches (regd []) .firmware blkEL 4 = true ∧ enabled (after (.blockEnable .firmware 0x10004) (regd [])) blkEL = true ∧
    mayDisable (regd []) blkEL = true ∧ enabled (after (.blockDisable .firmware 0x10004) (regd [(blkEL.reg 0x004, 1)])) blkEL = false ∧
    mayDisable { regd [] with hm := { st := .running } } blkTD = false ∧
    rget (after (.blockDisable .firmware 0x4004) { regd [(blkTD.reg 0x004, 1)] with hm := { st := .running } }) (blkTD.reg 0x00C) = 1 ∧
    blkEL.base % 0x4000 = 0 ∧ enableCode (regd [(blkEL.reg 0x010, 0x10010)]) blkEL = 1 := by decide +kernel
theorem witness_RegisterCommands_parity : rwReg 0x10010 = some (blkEL, 0x010) ∧ holdsValues (regd []) blkEL 0x010 = true := by decide +kernel
theorem witness_RegisterCommands_bollards :
    Inv (regd []) ∧ (16383 : Nat) < 16384 ∧ siteState (regd []) 0 = .up ∧ hubUp (regd []) = true ∧ isBusy (regd []) blkBL = false ∧
    bollGet (land (0x100000 + 4 * 16383) 7 .alone (regd [])) 16383 = 7 :=
  ⟨inv_of (by decide +kernel), by decide +kernel⟩

/-! ## Scan -/

theorem witness_ScanAndManagement : Inv up ∧ up.pw.rails = true ∧ hubUp up = true ∧ scanAdmits up = true ∧ chainType 34 = 4 ∧
    scanAdmits (charted { st := .running }) = false ∧ tget (after (.extest 34) up).jtag.ir 34 1 = 3 ∧
    tget (after (.extest 34) (charted { st := .running })).jtag.ir 34 1 = 0xFF ∧ (after (.d2dTest 34 5) up).jtag.results = [(34, 5)] ∧
    (after (.samplePreload 34 9) up).jtag.cells = [(34, 9)] ∧ up.jtag.stopped = false ∧
    ({ up with jtag := { stopped := true } } : State).jtag.stopped = true ∧
    (after .testLogicReset { up with jtag := { stopped := true, ir := [(3, 4)] } }).pw.cause = 5 ∧
    fed up = true ∧ up.i3c = none ∧ (after (.setdasa 0x3A 9) up).i3c = some 9 ∧ (after (.setdasa 0x3B 9) up).i3c = none ∧
    (after (.entdaa 9) up).i3c = some 9 :=
  ⟨inv_of (by decide +kernel), by decide +kernel⟩

/-! ## Well-formedness: for each check, operands that it refuses -/

theorem wf_dieLost : (Instr.dieLost 1 0).wellFormed = false ∧ (Instr.dieLost 1 4).wellFormed = false ∧ (Instr.dieLost 1 3).wellFormed = true := by decide
theorem wf_switchovers : (Instr.scheduledSwitchover 0 501).wellFormed = false ∧ (Instr.switchoverForced 0 501 0).wellFormed = false ∧
    (Instr.switchoverForced 0 0 3001).wellFormed = false ∧ (Instr.switchoverForced 0 500 3000).wellFormed = true := by decide
theorem wf_messages : (Instr.hello l0 (hdrT 7 1) 2 0 []).wellFormed = false ∧ (Instr.widthReq l0 (hdrT 7 1) 1 0).wellFormed = false ∧
    (Instr.retrainReq l0 (hdrT 7 1) 2 0).wellFormed = false ∧ (Instr.accept l0 (hdrT 7 1) 3 0).wellFormed = false ∧
    (Instr.refuse l0 (hdrT 7 1) 4 0).wellFormed = false ∧ (Instr.laneOut l0 (.message (hdrT 7 1) 5 0)).wellFormed = false ∧
    (Instr.laneOut l0 (.message (hdrT 7 1) 6 0)).wellFormed = true ∧ (Instr.hello l0 (hdrT 7 1) 1 0 []).wellFormed = true := by decide +kernel
theorem wf_requests : (Instr.qlWidthReq l0 0x40000000).wellFormed = false ∧ (Instr.qlRetrain l0 0).wellFormed = false := by decide +kernel
theorem wf_pairs : (Instr.pairReroute 0 2).wellFormed = false ∧ (Instr.pairReturn 0 4).wellFormed = false ∧ (Instr.pairReroute 0 3).wellFormed = true := by
  decide +kernel
theorem wf_ringChecks : (Instr.ringIdentityCheck 0 20 []).wellFormed = false ∧ (Instr.ringPeriodicCheck 0 20 (0 :: tonesT 3)).wellFormed = false ∧
    (Instr.ringIdentityCheck 0 20 (tonesT 3)).wellFormed = true := by decide +kernel
theorem wf_calRecordWrite : (Instr.calRecordWrite 0 0 none []).wellFormed = false ∧ (Instr.calRecordWrite 1 0 none []).wellFormed = false ∧
    (Instr.calRecordWrite 9 31 none []).wellFormed = true := by decide +kernel
theorem wf_thermalSample : (Instr.thermalSample [.open]).wellFormed = false := by decide
theorem wf_registers : (Instr.registerWrite .telemetry 0x10010 0 .alone).wellFormed = false ∧ (Instr.registerWrite .pilot 2 0 .alone).wellFormed = false ∧
    (Instr.blockEnable .pilot 0x10010).wellFormed = false ∧ (Instr.blockDisable .telemetry 0x10004).wellFormed = false ∧
    (Instr.configParityFault 0x10014).wellFormed = false ∧ (Instr.blockEnable .pilot 0x10004).wellFormed = true := by decide +kernel

/-! ## The machine as a whole -/

/-- An ill-formed command runs too: a scheduled switchover that is dark for too long goes as the meaning says. -/
theorem test_illFormed_runs : (Instr.scheduledSwitchover 0 501).wellFormed = false ∧
    (lsGet (after (.scheduledSwitchover 0 501) (lasing { req := some 5, blank := true })) 0).active = true := by decide +kernel
theorem witness_CommandsLeaveTheQueue : (after .hubReset { up with pending := [.hubReset] }).pending = [.hubReset] := by decide +kernel
theorem witness_StepKeepsInvariant : Inv up ∧ (match step { up with pending := [.hubReset] } with
    | .next t => t.pw.cause == 4 && t.pending == []
    | _ => false) = true := ⟨inv_of (by decide +kernel), by decide +kernel⟩
theorem test_step_idle : (match step up with
    | .next t => t.now == 1
    | _ => false) = true := by decide +kernel
theorem test_reset : State.reset.pending = [] ∧ State.reset.pw.mode = .off ∧ State.reset.hm.st = .empty ∧ State.reset.mem = {} := by decide
theorem test_table_words : decodeTableWord 32 0 = none ∧ (State.reset.withFetchWord 32 0).pending = [] := by decide

end Sys2Proof.Tests
end

section
/-! SUPPORT. What a core's instruction does where its bundle is `Ready`: it sees the registers of the state after the checks, and
the bundle completes with its writes (R87). -/

namespace Sys2Proof.Claims

open Sys2Proof Sys2Proof.Machine

variable {s s1 : State} {c : CoreId} {slot : Nat} {i : Instr} {b : Bundle}

/-- The core that `seen` leaves is not the one an unlisted key reads as, so it is read back from any table. -/
@[simp] theorem coreGet_seen (s1 : State) (c : CoreId) (b : Bundle) :
    coreGet (seen s1 c b) c = { coreGet s1 c with cur := some { b with issued := true } } :=
  tget_tset_of_ne _ _ fun h => Option.some_ne_none _ (congrArg CoreSt.cur h)

/-- A slot's instruction that does not stall, where its bundle is ready. -/
theorem slotRun_of_ready (h : Ready s c slot i b s1) {eff : State → CoreSt → State × Option (List CoreWrite)} {u : State}
    {ws : List CoreWrite} (he : eff (seen s1 c b) (coreGet (seen s1 c b) c) = (u, some ws)) :
    slotRun c slot i eff s = finishSlot u c slot ws := by
  unfold seen at he
  simp only [slotRun, h.holds, h.checks, he]

/-- The last slot of a bundle to be executed completes it. -/
theorem finishSlot_seen (ho : (if slot = 0 then b.done1 else b.done0) = true) (ws : List CoreWrite) :
    finishSlot (seen s1 c b) c slot ws = retired s1 c b slot ws := by
  by_cases h0 : slot = 0
  · simp only [h0, if_true] at ho
    simp [finishSlot, retired, h0, ho]
  · simp only [h0, if_false] at ho
    simp [finishSlot, retired, h0, ho]

/-- A slot's instruction that never stalls, where its bundle is ready. -/
theorem slotPure_of_ready (h : Ready s c slot i b s1) (eff : State → CoreSt → List CoreWrite) :
    slotPure c slot i eff s = retired s1 c b slot (eff (seen s1 c b) (coreGet (seen s1 c b) c)) :=
  (slotRun_of_ready h rfl).trans (finishSlot_seen h.other _)

end Sys2Proof.Claims

namespace Sys2Proof.Machine

/-! ## The poison of an instruction's sources (R95) -/

section
variable (k : CoreSt)

@[simp] theorem CoreSt.anyPoison_nil : k.anyPoison [] = false := rfl
@[simp] theorem CoreSt.anyPoison_scalar (r : Reg) (l : List RegRef) : k.anyPoison (.scalar r :: l) = (k.sp r || k.anyPoison l) := rfl
@[simp] theorem CoreSt.anyPoison_vector (r : Reg) (l : List RegRef) : k.anyPoison (.vector r :: l) = (k.vp r || k.anyPoison l) := rfl

end

end Sys2Proof.Machine
end

section
/-! SUPPORT. The order of VARGMAX embeds in a linear order, and the search for the largest lane finds its lowest index (R101). -/

namespace Sys2Proof.Machine

/-- The value (−1)^neg · m · 2^e of a finite number. -/
def dyadic (neg : Bool) (m : Nat) (e : Int) : ℚ := (if neg then -1 else 1) * m * 2 ^ e

/-- Where a number stands in the order of VARGMAX: −infinity, the finite numbers by value, +infinity, NaN. -/
def FV.rank : FV → ℤ ×ₗ ℚ
  | .inf true => toLex (-1, 0)
  | .fin neg m e => toLex (0, dyadic neg m e)
  | .inf false => toLex (1, 0)
  | .nan => toLex (2, 0)

/-- A magnitude over a smaller last place. -/
theorem natCast_shift_mul_zpow (m : Nat) {e e0 : Int} (h : e0 ≤ e) :
    ((m * 2 ^ (e - e0).toNat : Nat) : ℚ) * 2 ^ e0 = m * 2 ^ e := by
  have he : ((e - e0).toNat : Int) + e0 = e := by omega
  push_cast
  rw [← zpow_natCast, mul_assoc, ← zpow_add₀ two_ne_zero, he]

/-- The comparison over the smaller last place is that of the values. -/
theorem fin_lt_fin_iff (s t : Bool) (m n : Nat) (e f : Int) :
    (FV.fin s m e).lt (.fin t n f) = true ↔ dyadic s m e < dyadic t n f := by
  have hpos : (0 : ℚ) < 2 ^ min e f := zpow_pos two_pos _
  rw [dyadic, dyadic, mul_assoc _ (m : ℚ), mul_assoc _ (n : ℚ), ← natCast_shift_mul_zpow m (min_le_left e f),
    ← natCast_shift_mul_zpow n (min_le_right e f), ← mul_assoc, ← mul_assoc, mul_lt_mul_iff_left₀ hpos]
  simp only [FV.lt, decide_eq_true_eq]
  rw [← Int.cast_lt (R := ℚ)]
  push_cast
  rfl

/-- Two finite numbers compare by value; every other pair is ordered by its kinds and signs alone. -/
theorem argBelow_iff (x y : FV) : argBelow x y = true ↔ x.rank < y.rank := by
  rcases x with _ | (_ | _) | ⟨s, m, e⟩ <;> rcases y with _ | (_ | _) | ⟨t, n, f⟩
  case fin.fin => simp [argBelow, FV.isNan, fin_lt_fin_iff, FV.rank, Prod.Lex.toLex_lt_toLex]
  all_goals simp [argBelow, FV.isNan, FV.lt, FV.rank, Prod.Lex.toLex_lt_toLex]

theorem argBelow_eq_false_iff (x y : FV) : argBelow x y = false ↔ y.rank ≤ x.rank := by
  rw [← Bool.not_eq_true, argBelow_iff, not_lt]

/-- `j` is the lowest index of the largest of the first `n` elements. -/
structure FirstMax (l : List FV) (n j : Nat) : Prop where
  lt      : j < n
  largest : ∀ i < n, (l.getD i .nan).rank ≤ (l.getD j .nan).rank
  lowest  : ∀ i < j, (l.getD i .nan).rank < (l.getD j .nan).rank

/-- A larger element takes over. -/
theorem FirstMax.replace {l : List FV} {n j : Nat} (h : FirstMax l n j) (hx : (l.getD j .nan).rank < (l.getD n .nan).rank) :
    FirstMax l (n + 1) n where
  lt := Nat.lt_succ_self n
  largest i hi := by
    rcases Nat.lt_succ_iff_lt_or_eq.1 hi with hi | rfl
    · exact (h.largest i hi).trans hx.le
    · exact le_rfl
  lowest i hi := (h.largest i hi).trans_lt hx

/-- An element that is not larger changes nothing. -/
theorem FirstMax.keep {l : List FV} {n j : Nat} (h : FirstMax l n j) (hx : (l.getD n .nan).rank ≤ (l.getD j .nan).rank) :
    FirstMax l (n + 1) j where
  lt := Nat.lt_succ_of_lt h.lt
  largest i hi := by
    rcases Nat.lt_succ_iff_lt_or_eq.1 hi with hi | rfl
    · exact h.largest i hi
    · exact hx
  lowest := h.lowest

/-- The search, from index `n` on, ends at the lowest index of the largest element of the whole list. -/
theorem argMax_firstMax (l : List FV) (rest : List FV) (n j : Nat) (hl : l.drop n = rest) (h : FirstMax l n j) :
    FirstMax l (n + rest.length) (argMax (l.getD j .nan) j n rest) := by
  induction rest generalizing n j with
  | nil => exact h
  | cons x r ih =>
    have hx : l.getD n .nan = x := by rw [List.getD_eq_getElem?_getD, ← List.head?_drop, hl]; rfl
    have hr : l.drop (n + 1) = r := by rw [← List.tail_drop, hl]; rfl
    rw [List.length_cons, Nat.add_comm r.length, ← Nat.add_assoc, argMax]
    split
    · rename_i hb
      rw [argBelow_iff, ← hx] at hb
      simpa only [hx] using ih (n + 1) n hr (h.replace hb)
    · rename_i hb
      rw [Bool.not_eq_true, argBelow_eq_false_iff, ← hx] at hb
      exact ih (n + 1) j hr (h.keep hb)

/-- The index that VARGMAX gives. -/
def argIndex : List FV → Nat
  | [] => 0
  | x :: r => argMax x 0 1 r

theorem argIndex_firstMax {l : List FV} (h : l ≠ []) : FirstMax l l.length (argIndex l) := by
  cases l with
  | nil => exact absurd rfl h
  | cons x r =>
    have h0 : FirstMax (x :: r) 1 0 := ⟨Nat.one_pos, fun i hi => by rw [Nat.lt_one_iff.1 hi], fun i hi => absurd hi (Nat.not_lt_zero i)⟩
    rw [List.length_cons, Nat.add_comm]
    exact argMax_firstMax (x :: r) r 1 0 rfl h0

end Sys2Proof.Machine
end

section
/-! The results of the vector instructions (R48–R51, R100–R102). -/

namespace Sys2Proof.Claims

open Sys2Proof Sys2Proof.Machine

/-! ## What a ready slot-1 instruction leaves -/

section
variable {s s1 : State} {c : CoreId} {i : Instr} {b : Bundle}

theorem vecOp_of_ready (h : Ready s c 1 i b s1) (d : Reg) {f : CoreSt → (Parcel × NumEv) × Bool}
    (hp : ∀ k, srcPoison k i = (f k).2) (hc : ∀ k x, f { k with cur := x } = f k) :
    vecOp c i d (fun k => (f k).1) s = .next (retired s1 c b 1
      (.vreg d (f (coreGet s1 c)).1.1 (f (coreGet s1 c)).2 :: numWrites (f (coreGet s1 c)).1.2)) := by
  simp only [vecOp, slotPure_of_ready h, coreGet_seen, hp, hc]

theorem redOp_of_ready (h : Ready s c 1 i b s1) (d : Reg) {f : CoreSt → (Nat × NumEv) × Bool}
    (hp : ∀ k, srcPoison k i = (f k).2) (hc : ∀ k x, f { k with cur := x } = f k) :
    redOp c i d (fun k => (f k).1) s = .next (retired s1 c b 1
      (.sreg d (BitVec.ofNat 64 (f (coreGet s1 c)).1.1) (f (coreGet s1 c)).2 :: numWrites (f (coreGet s1 c)).1.2)) := by
  simp only [redOp, slotPure_of_ready h, coreGet_seen, hp, hc]

end

/-! ## Instructions that write a vector register -/

section
variable {i : Instr} {c : CoreId} {d : Reg} {f : CoreSt → (Parcel × NumEv) × Bool}

theorem nanWritten_singleton (fa : Fmt) (x : Nat) : nanWritten fa [x] = { nan := (elemVal fa x).isNan } := by
  simp [nanWritten]

theorem exec_of_vecOf (h : vecOf i = some (c, d, f)) (s : State) : exec i s = vecOp c i d (fun k => (f k).1) s := by
  unfold vecOf at h
  split at h <;> cases h
  -- VBCAST: its lanes all hold one value, so that one decides the event.
  case h_14 => simp only [exec, execVbcast, nanWritten_singleton]
  all_goals rfl

theorem srcPoison_of_vecOf (h : vecOf i = some (c, d, f)) (k : CoreSt) : srcPoison k i = (f k).2 := by
  unfold vecOf at h
  split at h <;> cases h
  -- VCVT: a narrowing conversion keeps the other parts of vD, and reads it.
  case h_16 => simp only [srcPoison, reads]; split <;> simp
  all_goals simp [srcPoison, reads, Bool.or_assoc]

/-- The result depends on the registers, not on the bundle that the core holds. -/
theorem vecOf_cur (h : vecOf i = some (c, d, f)) (k : CoreSt) (x : Option Bundle) : f { k with cur := x } = f k := by
  unfold vecOf at h
  split at h <;> cases h <;> rfl

end

/-! ## Instructions that write an s register -/

section
variable {i : Instr} {c : CoreId} {d : Reg} {f : CoreSt → (Nat × NumEv) × Bool}

theorem exec_of_redOf (h : redOf i = some (c, d, f)) (s : State) : exec i s = redOp c i d (fun k => (f k).1) s := by
  unfold redOf at h
  split at h <;> cases h
  case h_1 => simp only [exec, execVrsum]
  case h_2 => simp only [exec, execVrmax, lanesMax]
  case h_3 => simp only [exec, execVmovs, field, BitVec.extractLsb'_toNat, Nat.shiftRight_zero]

theorem srcPoison_of_redOf (h : redOf i = some (c, d, f)) (k : CoreSt) : srcPoison k i = (f k).2 := by
  unfold redOf at h
  split at h <;> cases h <;> simp [srcPoison, reads]

theorem redOf_cur (h : redOf i = some (c, d, f)) (k : CoreSt) (x : Option Bundle) : f { k with cur := x } = f k := by
  unfold redOf at h
  split at h <;> cases h <;> rfl

end

/-! ## The largest lane -/

section
variable {s s1 : State} {c : CoreId} {b : Bundle}

/-- The FP32 values of a register's lanes. -/
def fp32Lanes (v : Parcel) : List FV := (lanesOf fmtFP32 v).map fp32.decode

theorem length_fp32Lanes (v : Parcel) : (fp32Lanes v).length = 64 := by
  simp [fp32Lanes, lanesOf, fmtLanes, fmtBytes]

/-- VARGMAX as a reduction: no event, and the poison of its source. -/
theorem exec_vargmax (d a : Reg) (fa : Fmt) (s : State) :
    exec (.vargmax c d a fa) s = redOp c (.vargmax c d a fa) d (fun k => (argIndex (fp32Lanes (k.v a)), {})) s := by
  refine congrArg (fun g => redOp c (.vargmax c d a fa) d g s) (funext fun k => ?_)
  unfold fp32Lanes
  cases List.map fp32.decode (lanesOf fmtFP32 (k.v a)) <;> rfl

theorem vargmax_of_ready (d a : Reg) (fa : Fmt) (h : Ready s c 1 (.vargmax c d a fa) b s1) :
    exec (.vargmax c d a fa) s = .next (retired s1 c b 1
      [.sreg d (BitVec.ofNat 64 (argIndex (fp32Lanes ((coreGet s1 c).v a)))) ((coreGet s1 c).vp a)]) :=
  (exec_vargmax d a fa s).trans (redOp_of_ready h d (f := fun k => ((argIndex (fp32Lanes (k.v a)), {}), k.vp a))
    (fun k => by simp [srcPoison, reads]) fun _ _ => rfl)

end

/-- Settles O14: `vecOf` and `redOf` are the executed operations, the search of VARGMAX keeps the lowest index of the largest lane
so far, and VPK4 writes both its registers at once. -/
theorem vectorInstructions : Obligations.VectorInstructions := by
  refine ⟨fun i c d f s s1 b hf h => ?_, fun i c d f s s1 b hf h => ?_, fun c d a fa s s1 b h => ?_, fun c d a r m s s1 b h => ?_⟩
  · exact (exec_of_vecOf hf s).trans (vecOp_of_ready h d (srcPoison_of_vecOf hf) (vecOf_cur hf))
  · exact (exec_of_redOf hf s).trans (redOp_of_ready h d (srcPoison_of_redOf hf) (redOf_cur hf))
  · have hl := length_fp32Lanes ((coreGet s1 c).v a)
    have hm := argIndex_firstMax (List.ne_nil_of_length_eq_add_one hl)
    rw [hl] at hm
    exact ⟨_, hm.lt, vargmax_of_ready d a fa h, fun i hi => (argBelow_eq_false_iff ..).2 (hm.largest i hi),
      fun i hi => (argBelow_iff ..).2 (hm.lowest i hi)⟩
  · have hp : ∀ k : CoreSt, srcPoison k (.vpk4 c d a r m) = (k.vp a || k.vp d || k.vp r) := fun k => by
      simp [srcPoison, reads, Bool.or_assoc]
    simp only [exec, execVpk4, slotPure_of_ready h, coreGet_seen, hp]
    rfl

end Sys2Proof.Claims
end

section
/-! ## Elements of an array pass

An MMA takes its rows one by one and each row's columns from 0 on; every step writes one element, at a key of its own, so an
element is read as it was before the pass (R43–R46, R105). -/

namespace Sys2Proof.Machine

section
variable (mem : Memory) (w : WBuf) (e : MmaEntry)

/-- The key of an element of an accumulator. -/
def accKey (a row col : Nat) : Nat := a * 1024 + row * 32 + col

theorem accKey_inj {a row col a' row' col' : Nat} (hr : row < 32) (hc : col < 32) (hr' : row' < 32) (hc' : col' < 32) :
    accKey a row col = accKey a' row' col' ↔ a = a' ∧ row = row' ∧ col = col' := by
  unfold accKey; omega

/-- What row `r` of an MMA makes of the element of column `n` that held `old`. -/
def passElement (old : Word) (r n : Nat) : Nat × NumEv :=
  accumulate (if e.fresh then 0 else old) (dotStep e.fa e.fb (elems e.fa (mem.readNat (e.data + r * e.stride) (rowBytes e.fa)))
    (w.column n) (rowScale mem e r) (w.scales.toNat / 256 ^ n % 256))

/-- One step of a row: column `n` of row `r`, with the events so far. -/
def passStep (r : Nat) (st : Tbl Word × NumEv) (n : Nat) : Tbl Word × NumEv :=
  let key := accKey e.acc.val (e.firstRow + r) n
  let x := passElement mem w e (tget st.1 key 0) r n
  (tset st.1 key (BitVec.ofNat 32 x.1) 0, st.2.or x.2)

/-- The first `m` columns of row `r`. -/
def passCols (acc : Tbl Word) (r m : Nat) : Tbl Word × NumEv := (List.range m).foldl (passStep mem w e r) (acc, {})

theorem passCols_succ (acc : Tbl Word) (r m : Nat) :
    passCols mem w e acc r (m + 1) = passStep mem w e r (passCols mem w e acc r m) m := by
  simp [passCols, List.range_succ]

theorem passRow_eq (acc : Tbl Word) (r : Nat) : passRow mem w e acc r = passCols mem w e acc r 32 := rfl

/-- The elements after one more row. -/
theorem passRows_succ_fst (acc : Tbl Word) (n : Nat) :
    (passRows mem w e acc (n + 1)).1 = (passCols mem w e (passRows mem w e acc n).1 n 32).1 := by
  rw [← passRow_eq, passRows]

variable {acc : Tbl Word} (hs : tsorted acc = true)
include hs

theorem tsorted_passCols (r m : Nat) : tsorted (passCols mem w e acc r m).1 = true := by
  induction m with
  | zero => exact hs
  | succ m ih => rw [passCols_succ]; exact tsorted_tset _ _ _ ih

theorem tsorted_passRows (n : Nat) : tsorted (passRows mem w e acc n).1 = true := by
  induction n with
  | zero => exact hs
  | succ n ih => rw [passRows_succ_fst]; exact tsorted_passCols mem w e ih n 32

/-- The elements after the first `m` columns of row `r`. -/
theorem tget_passCols {r m a row col : Nat} (hr : e.firstRow + r < 32) (hm : m ≤ 32) (hrow : row < 32) (hcol : col < 32) :
    tget (passCols mem w e acc r m).1 (accKey a row col) 0 =
      if a = e.acc.val ∧ row = e.firstRow + r ∧ col < m
      then BitVec.ofNat 32 (passElement mem w e (tget acc (accKey a row col) 0) r col).1
      else tget acc (accKey a row col) 0 := by
  induction m with
  | zero => simp [passCols]
  | succ m ih =>
    have ih := ih (by omega)
    rw [passCols_succ]
    by_cases hk : accKey a row col = accKey e.acc.val (e.firstRow + r) m
    · obtain ⟨rfl, rfl, rfl⟩ := (accKey_inj hrow hcol hr (by omega)).1 hk
      rw [if_neg (by omega)] at ih
      rw [if_pos ⟨rfl, rfl, Nat.lt_succ_self _⟩, passStep, tget_tset_self _ _ _ (tsorted_passCols mem w e hs r _), ih]
    · rw [passStep, tget_tset_ne _ _ _ hk, ih]
      rw [accKey_inj hrow hcol hr (by omega)] at hk
      exact if_congr (by omega) rfl rfl

/-- The elements after the first `n` rows. -/
theorem tget_passRows {n a row col : Nat} (hn : e.firstRow + n ≤ 32) (hrow : row < 32) (hcol : col < 32) :
    tget (passRows mem w e acc n).1 (accKey a row col) 0 =
      if a = e.acc.val ∧ e.firstRow ≤ row ∧ row < e.firstRow + n
      then BitVec.ofNat 32 (passElement mem w e (tget acc (accKey a row col) 0) (row - e.firstRow) col).1
      else tget acc (accKey a row col) 0 := by
  induction n with
  | zero => rw [if_neg (by omega)]; rfl
  | succ n ih =>
    have ih := ih (by omega)
    have hstep := tget_passCols mem w e (tsorted_passRows mem w e hs n) (r := n) (a := a) (by omega) le_rfl hrow hcol
    rw [passRows_succ_fst, hstep, ih]
    by_cases hr : a = e.acc.val ∧ row = e.firstRow + n
    · obtain ⟨rfl, rfl⟩ := hr
      rw [if_pos ⟨rfl, rfl, hcol⟩, if_neg (by omega), if_pos (by omega), Nat.add_sub_cancel_left]
    · rw [if_neg (by tauto)]
      exact if_congr (by omega) rfl rfl

end

end Sys2Proof.Machine

namespace Sys2Proof.Claims

open Sys2Proof Sys2Proof.Machine

/-- Settles O17, by induction on the rows and, within a row, on its columns. -/
theorem arrayPassElements : Obligations.ArrayPassElements := by
  intro mem w e acc a row col hs hn
  refine (tget_passRows mem w e hs hn row.isLt col.isLt).trans ?_
  simp only [Fin.ext_iff]
  rfl

end Sys2Proof.Claims
end

section
/-! The commands of a core's watchdog, of the end of a faulted voyage and of the self-test (R78, R80, R82, R111). -/

namespace Sys2Proof.Claims

open Sys2Proof Sys2Proof.Machine

theorem coreWatchdog_faults {c : CoreId} {s : State} (hr : (coreGet s c).run = .running ∨ (coreGet s c).run = .waitEnd)
    (hi : 2 ^ 24 * 1000 ≤ (coreGet s c).idle) :
    exec (.coreWatchdog c) s = .next (coreFault s c ⟨0x08, 0, 0⟩ (coreGet s c).idx 0) := if_pos ⟨hr, hi⟩

theorem voyageFaultEnd_finishes {set : Fin 4096} {s : State} {v : Voyage} {code : Word} (hv : voyageGet s set.val = some v)
    (he : v.ending = some code) (hc : ∀ c ∈ setCores s set.val, (coreGet s c).run.active = false) (hd : setDrained s set.val = true) :
    exec (.voyageFaultEnd set) s = .next (finishVoyage s set.val v code) := by
  have hany : ((setCores s set.val).any fun c => (coreGet s c).run.active) = false := by simpa using hc
  simp only [exec, execVoyageFaultEnd, hv, he, hany, hd, Bool.not_true, Bool.or_self, Bool.false_eq_true, if_false]

section
variable {die : Fin 12} {pier : Fin 48} {passed : Bool} {s : State} {j : Nat} (hup : dieState s (slotC die.val) = .up)
include hup

theorem selfTestSlice_begins (ha : (pierGet s (pierKey die.val pier.val)).test.active = none)
    (hw : 8000 ≤ windowLeft s kindSelfTest) (hn : nextSite s die pier (pierGet s (pierKey die.val pier.val)).test = some j) :
    exec (.selfTestSlice die pier passed) s = .next (pierSet s (pierKey die.val pier.val) { pierGet s (pierKey die.val pier.val) with
      test := { (pierGet s (pierKey die.val pier.val)).test with active := some (j, s.tide.hub) } }) := by
  simp only [exec, execSelfTestSlice, hup, ha, hn, Nat.not_lt.2 hw, bne_self_eq_false, Bool.false_eq_true, if_false]

theorem selfTestSlice_ends {since : Dword} (ha : (pierGet s (pierKey die.val pier.val)).test.active = some (j, since))
    (ht : since.toNat + 8000 ≤ s.tide.hub.toNat) : exec (.selfTestSlice die pier passed) s = .next (sliceDone s die pier j passed) := by
  simp only [exec, execSelfTestSlice, hup, ha, Nat.not_lt.2 ht, bne_self_eq_false, Bool.false_eq_true, if_false]

end

/-- Settles O19: each command's conditions are those of its clause. -/
theorem coreEvents : Obligations.CoreEvents :=
  ⟨fun _ _ => coreWatchdog_faults, fun _ _ _ _ => voyageFaultEnd_finishes, fun _ _ _ _ _ => selfTestSlice_begins,
    fun _ _ _ _ _ _ hup ha => selfTestSlice_ends hup ha⟩

end Sys2Proof.Claims
end

section
/-! The commands of a tug (R66, R67, R72, R73, R76, R91). -/

namespace Sys2Proof.Claims

open Sys2Proof Sys2Proof.Machine

/-! ## TUGP -/

section
variable {c : CoreId} {a : Reg} {m : BitVec 3} {s s1 : State} {b : Bundle}

/-- A tug with a free slot takes the chain, and the core goes on. -/
theorem tugp_of_ready (h : Ready s c 0 (.tugp c a m) b s1) (hu : (tugGet s1 (tugKey c.die.val c.pier.val (m.toNat % 2))).used < 16) :
    let key := tugKey c.die.val c.pier.val (m.toNat % 2)
    let r := fetchDesc (seen s1 c b) ((coreGet s1 c).s a).toNat
    let x := tugGet r.1 key
    exec (.tugp c a m) s = .next (finishSlot (coreMod (tugSet r.1 key { x with
      slots := x.slots ++ [{
        core := c, loc := b.idx, set := (voyGet r.1 c).set, voyage := (voyGet r.1 c).voyage
        desc := r.2.1, poisoned := r.2.2, serial := x.serial }]
      serial := x.serial + 1 }) c fun k => { k with run := .running }) c 0 (useWrites ((coreGet s1 c).sp a))) := by
  refine congrArg Host.Outcome.next (slotRun_of_ready h ?_)
  have hfull : ¬ tugSlots ≤ (tugGet (seen s1 c b) (tugKey c.c c.p (m.toNat % 2))).used := Nat.not_le.2 hu
  simp only [coreGet_seen, if_neg hfull]
  rfl

end

/-! ## The head descriptor -/

/-- A start finds no code where the descriptor has waited already. -/
theorem startCode_eq_zero {s : State} {x : TugSlot} (hc : x.waited = true ∨ descCode s x.core x.desc x.poisoned = 0) :
    (if x.waited then 0 else descCode s x.core x.desc x.poisoned) = 0 := by
  rcases hc with hc | hc <;> simp [hc]

section
variable {t : TugId} {s : State} {x : TugSlot} (hx : headSlot s (TugId.key t) = some x) (ha : tugAlive s t = true)
include hx ha

/-! ### Start -/

section
variable (hs : x.started = false)
include hs

theorem tugDescriptorStart_faults (hw : x.waited = false) (hc : descCode s x.core x.desc x.poisoned ≠ 0) :
    exec (.tugDescriptorStart t) s = .next (tugFault (tugMod s (TugId.key t) fun u => { u with slots := u.slots.tail })
      (TugId.key t) x.core x.loc x.set x.desc (descCode s x.core x.desc x.poisoned) 0) := by
  simp only [exec, execTugDescriptorStart, hx, ha, hs, hw, bne_iff_ne.2 hc, Bool.not_true, Bool.or_self,
    Bool.false_eq_true, if_false, if_true]

variable (hc : x.waited = true ∨ descCode s x.core x.desc x.poisoned = 0)
include hc

theorem tugDescriptorStart_waits (hm : waitMet s x = false) (hw : watchGet s (.tug t) = none)
    (hr : reachHome s (t.die.val / 2, false) (.hub 0) = true) :
    exec (.tugDescriptorStart t) s = .next (watchSet s (.tug t)
      (some { boll := dget x.desc 0x24 0 14, target := field x.desc (8 * 0x28) 32 })) := by
  simp only [exec, execTugDescriptorStart, hx, ha, hs, startCode_eq_zero hc, hm, hw, hr, bne_self_eq_false, Option.isSome_none,
    Bool.not_true, Bool.not_false, Bool.or_self, Bool.false_eq_true, if_false, if_true]

theorem tugDescriptorStart_starts (hm : waitMet s x = true) :
    exec (.tugDescriptorStart t) s = .next (pumpRuns (readsDone (watchSet s (.tug t) none) (TugId.key t) { x with started := true })
      (TugId.key t) (dTotal x.desc)) := by
  simp only [exec, execTugDescriptorStart, hx, ha, hs, startCode_eq_zero hc, hm, bne_self_eq_false,
    Bool.not_true, Bool.or_self, Bool.false_eq_true, if_false]

end

/-! ### The next of a chain -/

section
variable (hs : x.started = true)
include hs

theorem tugChainFetch_eq (hi : dTotal x.desc ≤ x.issued) (hn : Machine.dNext x.desc ≠ 0) :
    exec (.tugChainFetch t) s = if setEnding s x.set then .next (toPend s (TugId.key t) x true)
      else
        let r := fetchDesc (toPend s (TugId.key t) x false) (Machine.dNext x.desc)
        .next (tugMod r.1 (TugId.key t) fun u => { u with
          slots := {
            core := x.core, loc := x.loc, set := x.set, voyage := x.voyage, desc := r.2.1, poisoned := r.2.2
            serial := (tugGet r.1 (TugId.key t)).serial } :: u.slots
          serial := u.serial + 1 }) := by
  simp only [exec, execTugChainFetch, hx, ha, hs, hi, hn, ne_eq, not_false_eq_true, and_self, decide_true, Bool.and_self, if_true]

/-! ### Runs -/

theorem tugRunTranslate_eq (hi : x.issued < dTotal x.desc) (hm : x.miss = none) (hr : runOut s (TugId.key t) = false) {u : State}
    {y : TugSlot} (hl : lookSides s (TugId.key t) x (sides s x.desc) = (u, y)) :
    exec (.tugRunTranslate t) s = .next (if y.miss = none then runGo u (TugId.key t) y else setHead u (TugId.key t) y) := by
  simp only [exec, execTugRunTranslate, hx, ha, hs, hi, hm, hr, hl, decide_true, Option.isNone_none, Bool.not_false, Bool.and_self, if_true]
  cases hy : y.miss <;> simp

end

theorem translationMissFetch_eq {i : Nat} (hm : x.miss = some i) (hr : reachHome s (t.die.val / 2, false) (.hub 0) = true) :
    let p := pierGet s (TugId.key t / 2)
    let u := pierSet (cntAdd s (blkBT.reg 0x038) 1) (TugId.key t / 2)
      { p with cache := ((i, berthGet s i) :: p.cache.filter fun e => e.1 != i).take 64 }
    let y := match (sides s x.desc).find? fun y => y.berth && y.index == i && (if y.dst then x.dst else x.src).isNone with
      | some y => setSide { x with miss := none } y.dst (translate (berthGet s i) y.gen s.berth.epoch)
      | none => { x with miss := none }
    exec (.translationMissFetch t) s = .next (if translated s y = true then runGo u (TugId.key t) y else setHead u (TugId.key t) y) := by
  simp only [exec, execTranslationMissFetch, hx, ha, hm, hr, Bool.and_self, if_true]
  rfl

end

/-! ## DONE -/

theorem tugDone_eq {t : TugId} {s : State} {p : TugPend} {rest : List TugPend} (hp : (tugGet s (TugId.key t)).pend = p :: rest)
    (hw : tget (tugGet s (TugId.key t)).waits p.serial 0 = 0) (hr : reachHome s (t.die.val / 2, false) (.hub 0) = true) :
    let u := cntAdd (finishPart (tugMod s (TugId.key t) fun u => { u with pend := rest }) (TugId.key t))
      ((tgBlk (TugId.key t)).reg 0x028) 1
    let v := if dDone p.desc / 2 ^ 19 % 2 = 1 then
      bollSignal u (dDone p.desc / 2 ^ 18 % 2 == 1) (dDone p.desc / 2 ^ 14 % 16) (dDone p.desc % 2 ^ 14) (dDoneAdd p.desc) else u
    exec (.tugDone t) s = .next (if p.last = true then wakePosters v t else v) := by
  simp only [exec, execTugDone, hp, hw, hr, bne_self_eq_false, Bool.not_true, Bool.or_self, Bool.false_eq_true, if_false]

/-- Settles O20: each command's conditions are those of its clause. -/
theorem tugCommands : Obligations.TugCommands := by
  refine ⟨?_, ?_, ?_, ?_, ?_, ?_⟩
  · exact fun c a m s s1 b h hu => tugp_of_ready h hu
  · exact fun t s x hx hs ha => ⟨tugDescriptorStart_faults hx ha hs, fun hc =>
      ⟨tugDescriptorStart_waits hx ha hs hc, tugDescriptorStart_starts hx ha hs hc⟩⟩
  · intro t s x hx hs ha hi hn
    rw [tugChainFetch_eq hx ha hs hi hn]
    exact ⟨fun he => if_pos he, fun he => if_neg (Bool.eq_false_iff.1 he)⟩
  · exact fun t s u x y hx hs ha hi hm hr hl => tugRunTranslate_eq hx ha hs hi hm hr hl
  · exact fun t s x i hx hm ha hr => translationMissFetch_eq hx ha hm hr
  · exact fun t s p rest hp hw hr => tugDone_eq hp hw hr

end Sys2Proof.Claims
end

section
/-! SUPPORT. The windows of piers and cores do not overlap, a record leaves a pier's map alone, and cores have keys of their own
(R21, R69, R472). -/

namespace Sys2Proof.Machine

/-! ## Register windows -/

/-- The map of a pier and the registers of a core site lie in windows of their own. -/
theorem blkCO_reg_ne_blkPR_map (c d : Nat) {p q j o : Nat} (hp : p < 48) (hq : q < 48) (hj : j ≤ 16) (ho : o < 0x4000) :
    (blkCO c p j).reg o ≠ (blkPR d q).reg 0x010 := by
  simp only [Blk.reg, blkCO, blkPR, slotBase, slotC]
  intro h
  have hdie : c = d := by omega
  subst hdie
  have hpier : p = q := by omega
  omega

/-- The blocks of the hub from EL to PL end below every compute die's. -/
theorem hubRecords_lt_blkPR (c p : Nat) : 0x18000 ≤ (blkPR c p).reg 0x010 := by
  simp only [Blk.reg, blkPR, slotBase, slotC]
  omega

/-! ## What a record and a capture leave in the registers -/

section
variable (s : State) {x : Nat}

theorem rget_sendEvent (hx : 0x18000 ≤ x) (cls : Nat) (data : BitVec 256) : rget (sendEvent s cls data) x = rget s x := by
  unfold sendEvent
  split
  · rfl
  · exact rget_cntAdd_ne _ _ (by simp only [Blk.reg, blkPL]; omega)

theorem rget_foldl_rset {l : List (Nat × Word)} (h : ∀ e ∈ l, x ≠ e.1) :
    rget (l.foldl (fun t e => rset t e.1 e.2) s) x = rget s x := by
  induction l generalizing s with
  | nil => rfl
  | cons e r ih =>
    rw [List.foldl_cons, ih _ fun e he => h e (List.mem_cons_of_mem _ he), rget_rset_ne _ _ (h e List.mem_cons_self)]

theorem rget_logCapture_ne {off : Nat} (v : Word) {l : List (Nat × Word)} (ho : x ≠ off) (h : ∀ e ∈ l, x ≠ e.1) :
    rget (logCapture s off v l) x = rget s x := by
  unfold logCapture
  split
  · rw [rget_foldl_rset _ h, rget_rset_ne _ _ ho]
  · rfl

/-- A record writes registers of EL and PL alone. -/
theorem rget_logRecord (hx : 0x18000 ≤ x) (kind slot unit detail addr tag : Nat) :
    rget (logRecord s kind slot unit detail addr tag) x = rget s x := by
  have hel : ∀ o < 0x4000, x ≠ blkEL.reg o := fun o ho => by simp only [Blk.reg, blkEL]; omega
  unfold logRecord logRecordEv
  split
  · rfl
  split
  · rfl
  split
  · rw [rget_logCapture_ne _ _ (hel _ (by omega)) (by simp), rget_cntAdd_ne _ _ (hel _ (by omega))]
  · simp only [apply_ite (rget · x), rget_sendEvent _ hx, ite_self]
    exact rget_cntAdd_ne _ _ (hel _ (by omega))

end

/-! ## Keys of cores -/

theorem siteOf_le (s : State) (c p : Nat) {k : Nat} (hk : k < 16) : siteOf s c p k ≤ 16 := by
  simp only [siteOf]; split <;> omega

/-- Two logical cores of a pier have two sites. -/
theorem siteOf_inj (s : State) (c p : Nat) {j k : Nat} (hj : j < 16) (hk : k < 16) (h : siteOf s c p j = siteOf s c p k) : j = k := by
  simp only [siteOf] at h
  split at h <;> split at h <;> omega

theorem coreKey_inj {s : State} {x c : CoreId} : coreKey s x = coreKey s c ↔ x = c := by
  refine ⟨fun h => ?_, congrArg _⟩
  obtain ⟨d, p, k⟩ := x
  obtain ⟨d', p', k'⟩ := c
  simp only [coreKey, siteKey, pierKey, CoreId.c, CoreId.p, CoreId.k] at h
  have hs := siteOf_le s d.val p.val k.isLt
  have hs' := siteOf_le s d'.val p'.val k'.isLt
  have hd : d = d' := by omega
  have hp : p = p' := by omega
  subst hd hp
  have hk : k = k' := Fin.ext (siteOf_inj s d.val p.val k.isLt k'.isLt (by omega))
  rw [hk]

theorem coreKey_congr {s t : State} {x : CoreId} (h : rget t ((blkPR x.c x.p).reg 0x010) = rget s ((blkPR x.c x.p).reg 0x010)) :
    coreKey t x = coreKey s x := by
  simp only [coreKey, siteOf, h]

end Sys2Proof.Machine
end

section
/-! SUPPORT. What stopping a core, ending a voyage and discarding descriptors change (R76, R78, R111). -/

namespace Sys2Proof.Machine

/-- A change of every entry of a table, read at one key. -/
theorem tget_tmap {β : Type} [DecidableEq β] {m : Tbl β} {d : β} {f : Nat → β → β} (k : Nat) (h : tsorted m = true)
    (hd : f k d = d) : tget (tmap m d f) k d = f k (tget m k d) := by
  induction m with
  | nil => exact hd.symm
  | cons e r ih =>
    obtain ⟨a, w⟩ := e
    have ih := ih (tsorted_tail h)
    have habove : ∀ e ∈ r, a < e.1 := fun e he => tsorted_head_lt h he
    simp only [tmap, List.filterMap_cons] at ih ⊢
    by_cases hak : a = k
    · subst hak
      simp only [tget, if_true]
      by_cases hv : f a w = d
      · rw [tget_of_lt d habove, hd] at ih
        simp only [hv, if_true, ih]
      · simp only [hv, if_false, tget, if_true]
    · simp only [tget, if_neg hak]
      by_cases hv : f a w = d <;> simp only [hv, if_true, if_false, tget, if_neg hak, ih]

/-! ## Reading back -/

/-- What a tug keeps when a set's unstarted descriptors go. -/
def TugSt.dropUnstarted (t : TugSt) (set : Nat) : TugSt := { t with slots := t.slots.filter fun x => !(x.set == set && !x.started) }

section
variable {s : State} (h : Inv s)
include h

theorem Inv.tugGet_discardUnstarted (set key : Nat) :
    tugGet (Machine.discardUnstarted s set) key = (tugGet s key).dropUnstarted set := by
  obtain ⟨-, -, -, hs⟩ := (coresCanonical_iff _).1 ((inv_iff s).1 h).cores.2
  exact tget_tmap (d := ({} : TugSt)) (f := fun _ t => TugSt.dropUnstarted t set) key hs rfl

/-- What stays of a set has started. -/
theorem Inv.started_of_discardUnstarted (set key : Nat) : ∀ y ∈ (tugGet (Machine.discardUnstarted s set) key).slots,
    y.set = set → y.started = true := by
  rw [h.tugGet_discardUnstarted]
  intro y hy hset
  have hk := (List.mem_filter.1 hy).2
  simpa [hset] using hk

/-- No descriptor is added. -/
theorem Inv.mem_of_discardUnstarted {set key : Nat} {y : TugSlot} (hy : y ∈ (tugGet (Machine.discardUnstarted s set) key).slots) :
    y ∈ (tugGet s key).slots := by
  rw [h.tugGet_discardUnstarted] at hy
  exact (List.mem_filter.1 hy).1

theorem Inv.voyageGet_voyageMod (k : Nat) (f : Voyage → Voyage) (set : Nat) :
    voyageGet (Machine.voyageMod s k f) set = if set = k then (voyageGet s k).map f else voyageGet s set := by
  split
  · rename_i hk; subst hk
    exact tget_tset_self _ _ _ ((inv_iff s).1 h).launch.2
  · rename_i hk
    exact tget_tset_ne _ _ _ hk

theorem Inv.run_stopCore (c x : CoreId) (run : CoreRun) :
    (coreGet (Machine.stopCore s c run) x).run = if x = c then run else (coreGet s x).run := by
  split
  · rename_i hx; subst hx
    exact congrArg CoreSt.run (h.coreGet_coreSet_self x _)
  · rename_i hx
    exact congrArg CoreSt.run (coreGet_coreSet_ne s _ (mt coreKey_inj.1 hx))

end

theorem coreGet_stopCore_ne (s : State) {c x : CoreId} (run : CoreRun) (hx : x ≠ c) : coreGet (stopCore s c run) x = coreGet s x :=
  coreGet_coreSet_ne s _ (mt coreKey_inj.1 hx)

/-! ## A core fault -/

/-- A core's record leaves the pier maps as they were. -/
theorem coreKey_recordCoreFault (s : State) (c : CoreId) (f : CFault) (loc tag : Nat) (x : CoreId) :
    coreKey (recordCoreFault s c f loc tag) x = coreKey s x := by
  have hne : ∀ o < 0x4000, (blkPR x.c x.p).reg 0x010 ≠ (coBlk s c).reg o := fun o ho =>
    (blkCO_reg_ne_blkPR_map c.c x.c c.pier.isLt x.pier.isLt (siteOf_le s c.c c.p c.core.isLt) ho).symm
  refine coreKey_congr ?_
  rw [recordCoreFault, rget_logRecord _ (hubRecords_lt_blkPR ..), rget_logCapture_ne _ _ (hne _ (by omega))]
  simp only [List.forall_mem_cons]
  exact ⟨hne _ (by omega), hne _ (by omega), hne _ (by omega), by simp⟩

theorem coreGet_recordCoreFault (s : State) (c : CoreId) (f : CFault) (loc tag : Nat) (x : CoreId) :
    coreGet (recordCoreFault s c f loc tag) x = coreGet s x := by
  rw [coreGet, coreKey_recordCoreFault, recordCoreFault, logRecord_cores, logCapture_cores]
  rfl

section
variable {s : State} {c : CoreId} (f : CFault) (loc tag : Nat) (ha : (coreGet s c).run.active = true)
include ha

theorem coreFault_of_active : coreFault s c f loc tag = discardUnstarted
    (endVoyageWith (stopCore (recordCoreFault s c f loc tag) c .faulted) (voyGet s c).set (faultStatus c f.cause))
    (voyGet s c).set := if_pos ha

theorem coreGet_coreFault_ne {x : CoreId} (hx : x ≠ c) : coreGet (coreFault s c f loc tag) x = coreGet s x := by
  rw [coreFault_of_active f loc tag ha]
  exact (coreGet_stopCore_ne _ _ hx).trans (coreGet_recordCoreFault ..)

theorem Inv.run_coreFault (h : Inv s) : (coreGet (Machine.coreFault s c f loc tag) c).run = .faulted := by
  rw [coreFault_of_active f loc tag ha]
  exact ((h.recordCoreFault c f loc tag).run_stopCore c c .faulted).trans (if_pos rfl)

theorem Inv.started_of_coreFault (h : Inv s) (key : Nat) : ∀ y ∈ (tugGet (Machine.coreFault s c f loc tag) key).slots,
    y.set = (voyGet s c).set → y.started = true := by
  rw [coreFault_of_active f loc tag ha]
  exact (((h.recordCoreFault c f loc tag).stopCore c .faulted).endVoyageWith _ _).started_of_discardUnstarted _ key

/-- The voyage takes the status of the first fault, and of faults in one nanosecond that of the lowest core (R113). -/
theorem Inv.voyageGet_coreFault (h : Inv s) : voyageGet (Machine.coreFault s c f loc tag) (voyGet s c).set =
    (voyageGet s (voyGet s c).set).map fun v => match v.ending with
      | none => { v with ending := some (faultStatus c f.cause), endAt := s.now }
      | some x => if v.endAt = s.now ∧ (faultStatus c f.cause >>> 16).toNat < (x >>> 16).toNat
          then { v with ending := some (faultStatus c f.cause) } else v := by
  have hv : voyageGet (Machine.recordCoreFault s c f loc tag) (voyGet s c).set = voyageGet s (voyGet s c).set := by
    simp only [voyageGet, Machine.recordCoreFault, logRecord_launch, logCapture_launch]
  have hn : (Machine.recordCoreFault s c f loc tag).now = s.now := by
    simp only [Machine.recordCoreFault, logRecord_now, logCapture_now]
  rw [coreFault_of_active f loc tag ha, ← hv, ← hn]
  exact (((h.recordCoreFault c f loc tag).stopCore c .faulted).voyageGet_voyageMod ..).trans (if_pos rfl)

omit ha in
/-- Memory, bollard values, links, the tide and the harbourmaster stay. -/
theorem coreFault_frame : (coreFault s c f loc tag).mem = s.mem ∧ (coreFault s c f loc tag).boll.val = s.boll.val ∧
    (coreFault s c f loc tag).links = s.links ∧ (coreFault s c f loc tag).tide = s.tide ∧ (coreFault s c f loc tag).hm = s.hm := by
  unfold coreFault
  split
  · simp [stopCore, endVoyageWith, recordCoreFault]
  · simp

end

end Sys2Proof.Machine
end

section
/-! SUPPORT. The harbourmaster's stop of the sets whose voyage is ending, set by set (R111, R113). -/

namespace Sys2Proof.Machine

/-- What one step of a fold brings about and every step keeps, where `I` holds all along, holds at the end. -/
theorem foldl_establishes {σ α : Type} {f : σ → α → σ} {I P : σ → Prop} {a : α} (hI : ∀ t x, I t → I (f t x))
    (keep : ∀ t x, I t → P t → P (f t x)) (make : ∀ t, I t → P (f t a)) {l : List α} (ha : a ∈ l) {s : σ} (h : I s) :
    P (l.foldl f s) := by
  obtain ⟨l1, l2, rfl⟩ := List.append_of_mem ha
  rw [List.foldl_append, List.foldl_cons]
  have h1 : I (l1.foldl f s) := List.foldlRecOn l1 f h fun t ht x _ => hI t x ht
  exact (List.foldlRecOn (motive := fun t => I t ∧ P t) l2 f ⟨hI _ a h1, make _ h1⟩
    fun t ht x _ => ⟨hI t x ht.1, keep t x ht.1 ht.2⟩).2

/-! ## What stopping leaves as it was -/

/-- Memory, registers, bollard values, links, the tide and the harbourmaster are the same. -/
structure StopFrame (s t : State) : Prop where
  mem   : t.mem = s.mem
  regs  : t.regs = s.regs
  boll  : t.boll.val = s.boll.val
  links : t.links = s.links
  tide  : t.tide = s.tide
  hm    : t.hm = s.hm

theorem StopFrame.refl (s : State) : StopFrame s s := ⟨rfl, rfl, rfl, rfl, rfl, rfl⟩

theorem StopFrame.trans {s t u : State} (h : StopFrame s t) (g : StopFrame t u) : StopFrame s u :=
  ⟨g.mem.trans h.mem, g.regs.trans h.regs, g.boll.trans h.boll, g.links.trans h.links, g.tide.trans h.tide, g.hm.trans h.hm⟩

theorem StopFrame.setCores {s t : State} (h : StopFrame s t) (set : Nat) : setCores t set = setCores s set := by
  simp only [Machine.setCores, setRec, h.hm]

/-! ## The cores of a set -/

/-- What every stop of a core keeps, the stop of a list keeps. -/
theorem stopCores_keeps {P : State → Prop} (hP : ∀ t c, P t → P (stopCore t c .stopped)) (l : List CoreId) {s : State} (h : P s) :
    P (stopCores s l) :=
  List.foldlRecOn l _ h fun t ht c _ => by
    split
    · exact hP t c ht
    · exact ht

theorem stopFrame_stopCores (s : State) (l : List CoreId) : StopFrame s (stopCores s l) :=
  stopCores_keeps (fun _ _ ht => ht.trans ⟨rfl, rfl, rfl, rfl, rfl, rfl⟩) l (.refl s)

theorem stopCores_launch (s : State) (l : List CoreId) : (stopCores s l).launch = s.launch :=
  stopCores_keeps (P := fun t => t.launch = s.launch) (fun _ _ ht => ht) l rfl

theorem stopCores_tug (s : State) (l : List CoreId) : (stopCores s l).cores.tug = s.cores.tug :=
  stopCores_keeps (P := fun t => t.cores.tug = s.cores.tug) (fun _ _ ht => ht) l rfl

section
variable {s : State} (h : Inv s)
include h

/-- A core that is not working stays so. -/
theorem Inv.inactive_stopCores_of_inactive (l : List CoreId) {x : CoreId} (hx : (coreGet s x).run.active = false) :
    (coreGet (Machine.stopCores s l) x).run.active = false := by
  refine (stopCores_keeps (P := fun t => Inv t ∧ (coreGet t x).run.active = false) ?_ l ⟨h, hx⟩).2
  rintro t c ⟨ht, hi⟩
  refine ⟨ht.stopCore c _, ?_⟩
  rw [ht.run_stopCore]
  split
  · rfl
  · exact hi

/-- Every core of the list has stopped. -/
theorem Inv.inactive_stopCores {l : List CoreId} {x : CoreId} (hx : x ∈ l) : (coreGet (Machine.stopCores s l) x).run.active = false := by
  refine foldl_establishes (I := Inv) (P := fun t => (coreGet t x).run.active = false)
    (fun t c ht => Inv.ite ht (ht.stopCore c .stopped)) (fun t c ht hi => ht.inactive_stopCores_of_inactive [c] hi) (fun t ht => ?_) hx h
  split
  · rw [ht.run_stopCore, if_pos rfl]; rfl
  · exact Bool.not_eq_true _ ▸ ‹_›

end

/-! ## One set -/

/-- A voyage of which no die waits to start. -/
def Voyage.noneWaiting (v : Voyage) : Voyage := { v with waiting := [] }

/-- The harbourmaster stops one set. -/
def stopSet (s : State) (set : Nat) : State :=
  discardUnstarted (stopCores (voyageMod s set Voyage.noneWaiting) (setCores s set)) set

theorem stopFrame_stopSet (s : State) (k : Nat) : StopFrame s (stopSet s k) :=
  have h1 : StopFrame s (voyageMod s k Voyage.noneWaiting) := ⟨rfl, rfl, rfl, rfl, rfl, rfl⟩
  (h1.trans (stopFrame_stopCores _ _)).trans ⟨rfl, rfl, rfl, rfl, rfl, rfl⟩

section
variable {s : State} (h : Inv s)
include h

theorem Inv.stopSet (k : Nat) : Inv (stopSet s k) := (Inv.stopCores _ (h.voyageMod ..)).discardUnstarted k

theorem Inv.voyageGet_stopSet (k set : Nat) : voyageGet (Machine.stopSet s k) set =
    if set = k then (voyageGet s k).map Voyage.noneWaiting else voyageGet s set := by
  rw [← h.voyageGet_voyageMod]
  exact congrArg (fun x : LaunchSt => tget x.run set none) (stopCores_launch _ _)

theorem Inv.inactive_stopSet_of_inactive (k : Nat) {x : CoreId} (hx : (coreGet s x).run.active = false) :
    (coreGet (Machine.stopSet s k) x).run.active = false :=
  (h.voyageMod k Voyage.noneWaiting).inactive_stopCores_of_inactive _ hx

theorem Inv.inactive_stopSet (k : Nat) {x : CoreId} (hx : x ∈ setCores s k) : (coreGet (Machine.stopSet s k) x).run.active = false :=
  (h.voyageMod k Voyage.noneWaiting).inactive_stopCores hx

theorem Inv.started_of_stopSet (k key : Nat) : ∀ y ∈ (tugGet (Machine.stopSet s k) key).slots, y.set = k → y.started = true :=
  (Inv.stopCores _ (h.voyageMod ..)).started_of_discardUnstarted k key

theorem Inv.mem_of_stopSet {k key : Nat} {y : TugSlot} (hy : y ∈ (tugGet (Machine.stopSet s k) key).slots) :
    y ∈ (tugGet s key).slots := by
  have hm := (Inv.stopCores _ (h.voyageMod ..)).mem_of_discardUnstarted hy
  rwa [tugGet, stopCores_tug] at hm

end

/-! ## Every set whose voyage is ending -/

/-- The sets whose voyage is ending. -/
def endingSets (s : State) : List Nat :=
  s.launch.run.filterMap fun e => e.2.bind fun v => if v.ending.isSome then some e.1 else none

theorem stopEnding_eq (s : State) : stopEnding s = (endingSets s).foldl stopSet s := by
  rw [endingSets, List.foldl_filterMap, stopEnding]
  refine congrArg (fun f => List.foldl f s s.launch.run) (funext fun t => funext fun e => ?_)
  rcases e with ⟨k, _ | v⟩
  · rfl
  · by_cases hv : v.ending.isSome = true
    · simp only [hv, Option.bind_some, if_true]
      rfl
    · simp only [hv, Option.bind_some, if_neg Bool.false_ne_true]

/-- A key that does not read as an unlisted one is listed. -/
theorem mem_of_tget_ne {β : Type} {m : Tbl β} {k : Nat} {d : β} (h : tget m k d ≠ d) : (k, tget m k d) ∈ m := by
  induction m with
  | nil => exact absurd rfl h
  | cons e r ih =>
    obtain ⟨a, w⟩ := e
    simp only [tget] at h ⊢
    split
    · rename_i hk; subst hk; exact List.mem_cons_self
    · rename_i hk
      rw [if_neg hk] at h
      exact List.mem_cons_of_mem _ (ih h)

theorem mem_endingSets {s : State} {set : Nat} {v : Voyage} (hv : voyageGet s set = some v) (he : v.ending.isSome = true) :
    set ∈ endingSets s := by
  have hm : (set, some v) ∈ s.launch.run := hv ▸ mem_of_tget_ne (d := none) (by rw [← voyageGet, hv]; exact Option.some_ne_none v)
  exact List.mem_filterMap.2 ⟨_, hm, by simp only [Option.bind_some, he, if_true]⟩

/-- What holds while the harbourmaster stops the sets: the frame, and the voyage of `set` but for its waiting dies. -/
structure Stopping (s : State) (set : Nat) (v : Voyage) (t : State) : Prop where
  inv    : Inv t
  frame  : StopFrame s t
  voyage : (voyageGet t set).map Voyage.noneWaiting = some v.noneWaiting

/-- What holds once the harbourmaster has stopped `set`. -/
structure SetStopped (s : State) (set : Nat) (v : Voyage) (t : State) : Prop where
  cores  : ∀ x ∈ setCores s set, (coreGet t x).run.active = false
  voyage : voyageGet t set = some v.noneWaiting
  tugs   : ∀ key, ∀ y ∈ (tugGet t key).slots, y.set = set → y.started = true

section
variable {s t : State} {set : Nat} {v : Voyage} (h : Stopping s set v t)
include h

theorem Stopping.stopSet (k : Nat) : Stopping s set v (Machine.stopSet t k) where
  inv := h.inv.stopSet k
  frame := h.frame.trans (stopFrame_stopSet t k)
  voyage := by
    rw [h.inv.voyageGet_stopSet]
    split
    · rename_i hk; subst hk
      rw [h.voyage]; rfl
    · exact h.voyage

theorem Stopping.setStopped : SetStopped s set v (Machine.stopSet t set) where
  cores x hx := h.inv.inactive_stopSet set (by rwa [h.frame.setCores])
  voyage := by rw [h.inv.voyageGet_stopSet, if_pos rfl, h.voyage]
  tugs key := h.inv.started_of_stopSet set key

theorem SetStopped.stopSet (hd : SetStopped s set v t) (k : Nat) : SetStopped s set v (Machine.stopSet t k) where
  cores x hx := h.inv.inactive_stopSet_of_inactive k (hd.cores x hx)
  voyage := by
    rw [h.inv.voyageGet_stopSet]
    split
    · rename_i hk; subst hk
      rw [hd.voyage]; rfl
    · exact hd.voyage
  tugs key y hy := hd.tugs key y (h.inv.mem_of_stopSet hy)

end

section
variable {s : State} {set : Nat} {v : Voyage} (h : Inv s) (hv : voyageGet s set = some v)
include h hv

theorem Inv.stopping : Stopping s set v s := ⟨h, .refl s, by rw [hv]; rfl⟩

theorem Inv.stopFrame_stopEnding : StopFrame s (stopEnding s) := by
  rw [stopEnding_eq]
  exact (List.foldlRecOn (motive := Stopping s set v) (endingSets s) Machine.stopSet (h.stopping hv) fun t ht k _ => ht.stopSet k).frame

theorem Inv.setStopped_stopEnding (he : v.ending.isSome = true) : SetStopped s set v (stopEnding s) := by
  rw [stopEnding_eq]
  exact foldl_establishes (I := Stopping s set v) (fun t k ht => ht.stopSet k) (fun t k ht hd => hd.stopSet ht k)
    (fun t ht => ht.setStopped) (mem_endingSets hv he) (h.stopping hv)

end

end Sys2Proof.Machine

namespace Sys2Proof.Claims

open Sys2Proof Sys2Proof.Machine

/-- Settles O18: the fault is the record, the stop, the end of the voyage and the discarding, each with a rule of its own; the
harbourmaster's stop goes over the ending sets one by one, and what it does to one of them stays done. -/
theorem coreFaultStopsTheSet : Obligations.CoreFaultStopsTheSet := by
  refine ⟨fun s c f loc tag h ha => ?_, fun s set v h hv he => ?_⟩
  · exact ⟨h.run_coreFault f loc tag ha, fun x => coreGet_coreFault_ne f loc tag ha, h.started_of_coreFault f loc tag ha,
      h.voyageGet_coreFault f loc tag ha, coreFault_frame f loc tag⟩
  · obtain ⟨hcores, hvoyage, htugs⟩ := h.setStopped_stopEnding hv he
    obtain ⟨hmem, hregs, hboll, hlinks, htide, hhm⟩ := h.stopFrame_stopEnding hv
    exact ⟨hcores, hvoyage, htugs, hmem, hregs, hboll, hlinks, htide, hhm⟩

end Sys2Proof.Claims
end

section
/-! SUPPORT. The bytes of a parcel, and a range of memory that is written in pieces (R7, R21). -/

namespace Sys2Proof.Machine

/-! ## Bytes of numbers and parcels -/

theorem bytesToNat_natToBytes (n x : Nat) : bytesToNat (natToBytes n x) = x % 256 ^ n := by
  induction n generalizing x with
  | zero => rw [Nat.pow_zero, Nat.mod_one]; rfl
  | succ n ih => rw [natToBytes, bytesToNat, ih, BitVec.toNat_ofNat, show 2 ^ 8 = 256 from rfl, Nat.pow_succ', Nat.mod_mul]

theorem getElem?_natToBytes (n x : Nat) {i : Nat} (hi : i < n) : (natToBytes n x)[i]? = some (BitVec.ofNat 8 (x / 256 ^ i)) := by
  induction n generalizing x i with
  | zero => omega
  | succ n ih =>
    cases i with
    | zero => simp [natToBytes]
    | succ i => rw [natToBytes, List.getElem?_cons_succ, ih _ (by omega), Nat.pow_succ', Nat.div_div_eq_div_mul]

theorem Parcel.length_bytes (x : Parcel) : (Parcel.bytes x).length = 256 := natToBytes_length ..

theorem Parcel.ofBytes_bytes (x : Parcel) : Parcel.ofBytes (Parcel.bytes x) = x := by
  have h256 : (256 : Nat) ^ 256 = 2 ^ 2048 := by
    have h := (Nat.pow_mul 2 8 256).symm
    rwa [show (2 : Nat) ^ 8 = 256 from rfl, show 8 * 256 = 2048 from rfl] at h
  rw [Parcel.ofBytes, Parcel.bytes, bytesToNat_natToBytes, h256, Nat.mod_eq_of_lt x.isLt, BitVec.ofNat_toNat, BitVec.setWidth_eq]

theorem Parcel.getElem?_bytes (x : Parcel) {i : Nat} (hi : i < 256) : (Parcel.bytes x)[i]? = some (field x (8 * i) 8) := by
  rw [Parcel.bytes, getElem?_natToBytes _ _ hi]
  refine congrArg some (BitVec.eq_of_toNat_eq ?_)
  rw [field, BitVec.extractLsb'_toNat, BitVec.toNat_ofNat, Nat.shiftRight_eq_div_pow, Nat.pow_mul]

/-! ## Writing a range -/

theorem Memory.writeBytes_append (m : Memory) (a : Nat) (l r : List Byte) :
    Memory.writeBytes m a (l ++ r) = Memory.writeBytes (Memory.writeBytes m a l) (a + l.length) r := by
  induction l generalizing m a with
  | nil => rfl
  | cons b l ih =>
    rw [List.cons_append, Memory.writeBytes, ih, Memory.writeBytes, List.length_cons]
    congr 1
    omega

/-- Each byte of a written range is the one written. -/
theorem Memory.read_writeBytes {m : Memory} (h : Memory.wf m = true) (a : Nat) (l : List Byte) {i : Nat} {b : Byte} (hi : l[i]? = some b) :
    Memory.read (Memory.writeBytes m a l) (a + i) = b := by
  induction l generalizing m a i with
  | nil => simp at hi
  | cons x r ih =>
    cases i with
    | zero =>
      rw [List.getElem?_cons_zero, Option.some_inj] at hi
      rw [Memory.writeBytes, Memory.read_writeBytes_ne _ _ _ (by omega), Nat.add_zero, Memory.read_write_self a x h, hi]
    | succ i =>
      rw [List.getElem?_cons_succ] at hi
      rw [Memory.writeBytes, ← ih (Memory.write_wf a x h) (a + 1) hi, Nat.add_right_comm, Nat.add_assoc]

/-! ## A parcel at rest -/

/-- From `m` to `n` the bytes, the check and the mark of the parcel at `a` have become those of `d`, and no other has changed. -/
structure MemSt.Stored (m n : MemSt) (a : Nat) (d : PData) : Prop where
  bytes  : n.bytes = m.bytes.writeBytes a (Parcel.bytes d.data)
  check  : n.check = tset m.check (a / 256) d.check zeroCheck
  poison : n.poison = tset m.poison (a / 256) d.poison false

theorem MemSt.stored_setParcel (m : MemSt) (a : Nat) (d : PData) : m.Stored (m.setParcel a d) a d := by
  constructor <;> simp only [MemSt.setParcel]

section
variable {m n : MemSt} {a : Nat} {d : PData} (hn : m.Stored n a d)
include hn

/-- A stored parcel is read back with its check and its mark. -/
theorem MemSt.Stored.parcel_eq (h : m.ok) : n.parcel a = d := by
  have c := (memCanonical_iff _).1 h.2
  have hb := Memory.readBytes_writeBytes a (Parcel.bytes d.data) h.1
  rw [Parcel.length_bytes] at hb
  simp only [MemSt.parcel, hn.bytes, hn.check, hn.poison, hb, Parcel.ofBytes_bytes, tget_tset_self _ _ _ c.check,
    tget_tset_self _ _ _ c.poison]

theorem MemSt.Stored.read_ne {j : Nat} (hj : j < a ∨ a + 256 ≤ j) : Memory.read n.bytes j = Memory.read m.bytes j := by
  rw [hn.bytes, Memory.read_writeBytes_ne _ _ _ (by rwa [Parcel.length_bytes])]

end

end Sys2Proof.Machine
end

section
/-! SUPPORT. Reads and writes of SRAM where no bit is flipped, and a tug's write in its stages (R61, R92, R186, R191). -/

namespace Sys2Proof.Machine

/-! ## Reads -/

theorem sideBad_of_not_inCore {m : MemSt} (h : m.sideErr = []) {a : Nat} (ha : inCore a = false) : sideBad m a = false := by
  simp [sideBad, h, tget, popcount, ha]

/-- A whole parcel of SRAM is read as it stands; one entry of the side array lies among its words. -/
theorem sramFix_parcel_clean {s : State} (h : s.mem.sramErr = []) (hs : s.mem.sideErr = []) {a : Nat} (ha : a % 256 = 0)
    (hb : sideBad s.mem a = false) (who : SramReader) : sramFix s a who 32 = s := by
  have words : ∀ n ≤ 32, sramWords s (a + 8 * (32 - n)) who n = s := by
    intro n hn
    induction n with
    | zero => rfl
    | succ n ih =>
      have hside : (if (a + 8 * (32 - (n + 1))) % 256 = 0 then sideFix s (a + 8 * (32 - (n + 1))) who else s) = s := by
        split
        · rw [show a + 8 * (32 - (n + 1)) = a by omega, sideFix_clean hs hb]
        · rfl
      have hword : sramFixWord s (a + 8 * (32 - (n + 1))) who = s := by simp [sramFixWord, h, tget]
      rw [sramWords, hside, hword, show a + 8 * (32 - (n + 1)) + 8 = a + 8 * (32 - n) by omega]
      exact ih (by omega)
  rw [sramFix, sideFix_clean hs hb]
  exact words 32 le_rfl

/-- An address of a base die's SRAM. -/
theorem homeOf_baseSram {q o : Nat} (hq : q < 6) (ho : o < baseSramSize) : homeOf (baseSramBase q + o) = some (.base q o) := by
  simp only [baseSramSize] at ho
  have hlo : ¬ baseSramBase q + o < 0x20000000000 := by simp only [baseSramBase]; omega
  have hin : 0x400000000000 ≤ baseSramBase q + o ∧ baseSramBase q + o < 0x400000000000 + 6 * 0x20000000 := by
    simp only [baseSramBase]; omega
  have hmod : (baseSramBase q + o - 0x400000000000) % 0x20000000 = o := by simp only [baseSramBase]; omega
  have hdiv : (baseSramBase q + o - 0x400000000000) / 0x20000000 = q := by simp only [baseSramBase]; omega
  simp only [homeOf, if_neg hlo, if_pos hin, hmod, hdiv, baseSramSize, if_pos ho]

theorem baseSram_aligned (q : Nat) {o : Nat} (ha : o % 256 = 0) : (baseSramBase q + o) % 256 = 0 := by
  simp only [baseSramBase]; omega

section
variable {a q o : Nat} (hh : homeOf a = some (.base q o)) (ha : a % 256 = 0)

include hh in
theorem inCore_of_homeOf_base : inCore a = false := by simp only [inCore, hh]

include ha in
theorem parcelBase_of_aligned : a / 256 * 256 = a := by omega

include hh ha

/-- A parcel of a base die's SRAM is read with its check and its mark. -/
theorem readParcel_baseSram {s : State} (h : s.mem.sramErr = []) (hs : s.mem.sideErr = []) (src : MemSource) (tag : Nat) :
    readParcel s a src tag = (s, s.mem.parcel a) := by
  have hbad := sideBad_of_not_inCore hs (inCore_of_homeOf_base hh)
  simp only [readParcel, hh, parcelBase_of_aligned ha, sramFix_parcel_clean h hs ha hbad]

end

/-! ## Writes -/

/-- A write of SRAM by itself changes the codes of words and perhaps the flip register. -/
theorem sramWritten_frame (s : State) (a n : Nat) :
    ∃ e r, sramWritten s a n = { s with mem := { s.mem with sramErr := e }, regs := r } := by
  unfold sramWritten
  dsimp only
  split <;> exact ⟨_, _, rfl⟩

theorem parcelWritten_frame (s : State) (a : Nat) :
    ∃ e f r, parcelWritten s a = { s with mem := { s.mem with sramErr := e, sideErr := f }, regs := r } := by
  obtain ⟨e, r, h⟩ := sramWritten_frame s a 256
  exact ⟨e, _, r, by rw [parcelWritten, h]; rfl⟩

/-- Where no bit is flipped and no flip register is armed, a write changes no code. -/
theorem sramWritten_clean {s : State} (h : s.mem.sramErr = []) (a n : Nat)
    (hf : (rget s ((blkSC (sramUnit s a).1).reg 0x02C)).getLsbD 31 = false) : sramWritten s a n = s := by
  have hs : (s.setMem { s.mem with sramErr := tclear s.mem.sramErr (a / 8) ((a + n + 7) / 8) }) = s := by
    rw [h]
    show s.setMem { s.mem with sramErr := [] } = s
    rw [← h]
    rfl
  simp only [sramWritten, hs, hf, Bool.false_and, Bool.false_eq_true, if_false]

/-- From `s` to `t` the parcel `d` has been stored at `a`, and bollards, launches and links are as they were. -/
structure ParcelStored (s t : State) (a : Nat) (d : PData) : Prop where
  mem    : s.mem.Stored t.mem a d
  boll   : t.boll = s.boll
  launch : t.launch = s.launch
  links  : t.links = s.links

theorem parcelStored_writeParcel (s : State) {a q o : Nat} (hh : homeOf a = some (.base q o)) (ha : a % 256 = 0) (src : MemSource)
    (d : PData) (tag : Nat) : ParcelStored s (writeParcel s a src d tag) a d := by
  have he : writeParcel s a src d tag = (parcelWritten s a).setMem ((parcelWritten s a).mem.setParcel a d) := by
    simp only [writeParcel, hh, parcelBase_of_aligned ha]
  obtain ⟨e, f, r, hw⟩ := parcelWritten_frame s a
  have hst := MemSt.stored_setParcel (parcelWritten s a).mem a d
  rw [he]
  generalize (parcelWritten s a).mem.setParcel a d = n at *
  rw [hw] at hst ⊢
  exact ⟨⟨hst.bytes, hst.check, hst.poison⟩, rfl, rfl, rfl⟩

/-! ## A tug's write -/

theorem finishPart_of_none {s : State} {key : Nat} (h : (tugGet s key).part = none) : finishPart s key = s := by
  simp only [finishPart, h]

section
variable (s : State) (key : Nat) (poison : Bool)

@[simp] theorem countMoved_mem : (countMoved s key poison).mem = s.mem := by
  cases poison
  · exact cntAdd64_mem ..
  · exact (cntAdd_mem ..).trans (cntAdd64_mem ..)
@[simp] theorem countMoved_boll : (countMoved s key poison).boll = s.boll := by
  cases poison
  · exact cntAdd64_boll ..
  · exact (cntAdd_boll ..).trans (cntAdd64_boll ..)
@[simp] theorem countMoved_launch : (countMoved s key poison).launch = s.launch := by
  cases poison
  · exact cntAdd64_launch ..
  · exact (cntAdd_launch ..).trans (cntAdd64_launch ..)
@[simp] theorem countMoved_links : (countMoved s key poison).links = s.links := by
  cases poison
  · exact cntAdd64_links ..
  · exact (cntAdd_links ..).trans (cntAdd64_links ..)

end

theorem moveRun_mem_mem (s : State) (key serial vc : Nat) (tags : Nat × Nat) (berth : Option (Nat × TugRun)) (a b n : Nat) :
    moveRun s key serial vc tags berth (.mem a) (.mem b) n = moveParcels (finishPart s key) key serial vc tags (.mem a) (.mem b) n n := rfl

theorem moveParcels_one (s : State) (key serial vc : Nat) (tags : Nat × Nat) (src : Port) (b n : Nat) :
    moveParcels s key serial vc tags src (.mem b) n 1 =
      placePar (fetchPar s src 0 tags.1).1 key serial vc tags.2 (.mem b) 0 n (fetchPar s src 0 tags.1).2 := rfl

theorem placePar_mem (s : State) (key serial vc tag b i n : Nat) (d : PData) : placePar s key serial vc tag (.mem b) i n d =
    tugWrite (countMoved s key d.poison) key (b + 256 * i) d tag := rfl

theorem tugWrite_of_not_inCore (s : State) (key : Nat) {a : Nat} (h : inCore a = false) (d : PData) (tag : Nat) :
    tugWrite s key a d tag = writeParcel s a .tug d tag := by
  rw [tugWrite, h, if_neg Bool.false_ne_true]

/-- A run of one parcel within base-die SRAM stores the parcel that it reads. -/
theorem parcelStored_moveRun {s : State} {key : Nat} (serial vc : Nat) (tags : Nat × Nat) {a b qa qb oa ob : Nat}
    (ha : homeOf a = some (.base qa oa)) (hb : homeOf b = some (.base qb ob)) (haa : a % 256 = 0) (hab : b % 256 = 0)
    (hp : (tugGet s key).part = none) (h : s.mem.sramErr = []) (hs : s.mem.sideErr = []) :
    ParcelStored s (moveRun s key serial vc tags none (.mem a) (.mem b) 1) b (s.mem.parcel a) := by
  have hread : fetchPar s (.mem a) 0 tags.1 = (s, s.mem.parcel a) := readParcel_baseSram ha haa h hs .tug tags.1
  have hmove : moveRun s key serial vc tags none (.mem a) (.mem b) 1 =
      writeParcel (countMoved s key (s.mem.parcel a).poison) b .tug (s.mem.parcel a) tags.2 := by
    rw [moveRun_mem_mem, finishPart_of_none hp, moveParcels_one, hread, placePar_mem, Nat.mul_zero, Nat.add_zero,
      tugWrite_of_not_inCore _ _ (inCore_of_homeOf_base hb)]
  obtain ⟨hmem, hboll, hlaunch, hlinks⟩ :=
    parcelStored_writeParcel (countMoved s key (s.mem.parcel a).poison) hb hab .tug (s.mem.parcel a) tags.2
  rw [countMoved_mem] at hmem
  rw [hmove]
  exact ⟨hmem, hboll.trans (countMoved_boll ..), hlaunch.trans (countMoved_launch ..), hlinks.trans (countMoved_links ..)⟩

/-! ### In core SRAM -/

/-- The 256 bytes of a parcel are written by the first access and the three that follow. -/
theorem writeBytes_pieces (m : Memory) (a : Nat) (x : Parcel) :
    Memory.writeBytes (Memory.writeBytes m (a + 0) (((Parcel.bytes x).drop 0).take 64)) (a + 64) (((Parcel.bytes x).drop 64).take 192) =
      Memory.writeBytes m a (Parcel.bytes x) := by
  have hl := Parcel.length_bytes x
  generalize Parcel.bytes x = l at *
  have hrest : (l.drop 64).take 192 = l.drop 64 := List.take_of_length_le (by simp [hl])
  have hfirst : (l.take 64).length = 64 := by simp [hl]
  conv_rhs => rw [← List.take_append_drop 64 l, Memory.writeBytes_append, hfirst]
  rw [hrest, List.drop_zero, Nat.add_zero]

/-- Memory after the first access: 64 bytes, and the seal UNVERIFIED. -/
def MemSt.firstPiece (m : MemSt) (a : Nat) (d : PData) : MemSt := (writePiece m a 0 64 d).setSeal a sealUnverified

/-- Memory after the three accesses that follow: the other bytes, the check and the mark. -/
def MemSt.otherPieces (m : MemSt) (a : Nat) (d : PData) : MemSt := ((writePiece { m with
  sramErr := tclear m.sramErr (a / 8 + 8) (a / 8 + 32), sideErr := terase m.sideErr (a / 256) } a 64 192 d).setCheck a d.check).setPoison
    a d.poison

section
variable (m : MemSt) (a : Nat) (d : PData)

theorem MemSt.sealAt_firstPiece : (m.firstPiece a d).sealAt a = sealUnverified :=
  tget_tset_of_ne m.sealSt (a / 256) (v := sealUnverified) (d := sealVerified) (by decide)

theorem MemSt.sealAt_otherPieces : (m.otherPieces a d).sealAt a = m.sealAt a := rfl

/-- The first access stores the first 64 bytes and no other. -/
theorem MemSt.read_firstPiece (h : Memory.wf m.bytes = true) (j : Nat) : Memory.read (m.firstPiece a d).bytes j =
    if a ≤ j ∧ j < a + 64 then field d.data (8 * (j - a)) 8 else Memory.read m.bytes j := by
  have hlen : (((Parcel.bytes d.data).drop 0).take 64).length = 64 := by simp [Parcel.length_bytes]
  simp only [MemSt.firstPiece, MemSt.setSeal, writePiece]
  split
  · rename_i hj
    have hget : (((Parcel.bytes d.data).drop 0).take 64)[j - a]? = some (field d.data (8 * (j - a)) 8) := by
      rw [List.drop_zero, List.getElem?_take_of_lt (by omega), Parcel.getElem?_bytes _ (by omega)]
    have hr := Memory.read_writeBytes h (a + 0) _ hget
    rwa [show a + 0 + (j - a) = j by omega] at hr
  · exact Memory.read_writeBytes_ne _ _ _ (by rw [hlen]; omega)

/-- All four accesses store the whole parcel. -/
theorem MemSt.stored_pieces : m.Stored ((m.firstPiece a d).otherPieces a d) a d where
  bytes := by
    simp only [MemSt.firstPiece, MemSt.otherPieces, MemSt.setSeal, MemSt.setCheck, MemSt.setPoison, writePiece]
    exact writeBytes_pieces m.bytes a d.data
  check := by simp only [MemSt.firstPiece, MemSt.otherPieces, MemSt.setSeal, MemSt.setCheck, MemSt.setPoison, writePiece]
  poison := by simp only [MemSt.firstPiece, MemSt.otherPieces, MemSt.setSeal, MemSt.setCheck, MemSt.setPoison, writePiece]

end

section
variable {s : State} {key a : Nat} {d : PData} (tag : Nat) (hc : inCore a = true) (hp : (tugGet s key).part = none)
  (h : s.mem.sramErr = []) (hs : s.mem.sideErr = []) (hb : sideBad s.mem a = false)
  (hf : (rget s ((blkSC (sramUnit s a).1).reg 0x02C)).getLsbD 31 = false)
include hc hp h hs hb hf

/-- In clean core SRAM a tug makes the first access and holds the parcel that it is part-way through writing. -/
theorem tugWrite_core : tugWrite s key a d tag =
    tugMod (s.setMem (s.mem.firstPiece a d)) key fun t => { t with part := some (a, d) } := by
  simp only [tugWrite, hc, if_true, finishPart_of_none hp, sideFix_clean hs hb, sramWritten_clean h a 64 hf, MemSt.firstPiece]

theorem part_tugWrite_core : (tugGet (tugWrite s key a d tag) key).part = some (a, d) := by
  rw [tugWrite_core tag hc hp h hs hb hf, tugMod, tugGet, tugSet_cores,
    tget_tset_of_ne _ _ fun e => Option.some_ne_none _ (congrArg TugSt.part e)]

theorem mem_tugWrite_core : (tugWrite s key a d tag).mem = s.mem.firstPiece a d := by
  rw [tugWrite_core tag hc hp h hs hb hf, tugMod, tugSet_mem, State.setMem_mem]

omit hc hp h hs hb hf in
theorem finishPart_of_some (hd : (tugGet s key).part = some (a, d)) :
    finishPart s key = (tugMod s key fun t => { t with part := none }).setMem (s.mem.otherPieces a d) := by
  simp only [finishPart, hd]
  rfl

/-- The tug's write, once it is complete: all four accesses, and neither bollards nor registers. -/
theorem finishPart_tugWrite_core : let u := finishPart (tugWrite s key a d tag) key
    u.mem = (s.mem.firstPiece a d).otherPieces a d ∧ u.boll = s.boll ∧ u.regs = s.regs := by
  simp only [finishPart_of_some (part_tugWrite_core tag hc hp h hs hb hf), mem_tugWrite_core tag hc hp h hs hb hf]
  simp only [tugWrite_core tag hc hp h hs hb hf, tugMod, State.setMem_mem, State.setMem_boll, State.setMem_regs, tugSet_boll, tugSet_regs,
    and_self]

end

end Sys2Proof.Machine

namespace Sys2Proof.Claims

open Sys2Proof Sys2Proof.Machine

/-- Settles O21: within base-die SRAM the move is one stored parcel, read back with its check and its mark; in core SRAM the first
access leaves the rest to the tug, and the four accesses together store the parcel. -/
theorem tugMovesAParcel : Obligations.TugMovesAParcel := by
  refine ⟨?_, ?_⟩
  · intro s key serial vc qa qb oa ob tags hqa hqb hoa hob haa hab h hp he hs _
    obtain ⟨hmem, hboll, hlaunch, hlinks⟩ := parcelStored_moveRun serial vc tags (homeOf_baseSram hqa hoa) (homeOf_baseSram hqb hob)
      (baseSram_aligned qa haa) (baseSram_aligned qb hab) hp he hs
    exact ⟨hmem.parcel_eq h.memOk, fun j => hmem.read_ne, hboll, hlaunch, hlinks⟩
  · intro s key a tag d hc _ h hp he hs hb hf
    have hfirst := mem_tugWrite_core (d := d) tag hc hp he hs hb hf
    obtain ⟨hmem, hboll, hregs⟩ := finishPart_tugWrite_core (d := d) tag hc hp he hs hb hf
    have hst := s.mem.stored_pieces a d
    simp only [hfirst, hmem]
    exact ⟨s.mem.sealAt_firstPiece a d, s.mem.read_firstPiece a d h.memory, hst.parcel_eq h.memOk,
      (MemSt.sealAt_otherPieces ..).trans (s.mem.sealAt_firstPiece a d), fun j => hst.read_ne, hboll, hregs⟩

end Sys2Proof.Claims
end

section
/-! SUPPORT. What the instructions of slot 0 compute, in the words of the statements, and what a slot leaves whose bundle is not
complete (R87, R97). -/

namespace Sys2Proof.Machine

/-- The low bits of a number as a field. -/
theorem toNat_field_zero {w : Nat} (x : BitVec w) (n : Nat) : (field x 0 n).toNat = x.toNat % 2 ^ n := by
  simp [field, BitVec.extractLsb'_toNat]

@[simp] theorem shiftCount_eq (x : Dword) : shiftCount x = x.toNat % 64 := toNat_field_zero x 6

@[simp] theorem flag_beq (x y : Dword) : flag (x == y) = if x = y then 1 else 0 := by simp [flag]
@[simp] theorem flag_slt (x y : Dword) : flag (x.slt y) = if x.toInt < y.toInt then 1 else 0 := by simp [flag, BitVec.slt]
@[simp] theorem flag_ult (x y : Dword) : flag (x.ult y) = if x.toNat < y.toNat then 1 else 0 := by simp [flag, BitVec.ult]

@[simp] theorem toInt_sextImm (i : Word) : (sextImm i).toInt = i.toInt := BitVec.toInt_signExtend_of_le (by decide)

/-- A word above the low half of another. -/
theorem append_setWidth_eq (i : Word) (x : Dword) : i ++ x.setWidth 32 = BitVec.ofNat 64 (i.toNat * 2 ^ 32 + x.toNat % 2 ^ 32) := by
  apply BitVec.eq_of_toNat_eq
  have hlow : x.toNat % 2 ^ 32 < 2 ^ 32 := Nat.mod_lt _ (by decide)
  have hfit : i.toNat * 2 ^ 32 + x.toNat % 2 ^ 32 < 2 ^ 64 := by have := i.isLt; omega
  rw [BitVec.toNat_append, BitVec.toNat_setWidth, ← Nat.shiftLeft_add_eq_or_of_lt hlow, Nat.shiftLeft_eq, BitVec.toNat_ofNat,
    Nat.mod_eq_of_lt hfit]

end Sys2Proof.Machine

namespace Sys2Proof.Claims

open Sys2Proof Sys2Proof.Machine

/-! ## A slot of a bundle -/

section
variable {s s1 : State} {c : CoreId} {slot : Nat} {i : Instr} {b : Bundle}

/-- A slot's instruction that never stalls, where its bundle passes the checks. -/
theorem slotPure_of_holds (hb : slotBundle s c slot i = some b)
    (hc : (if b.issued then verifySlot s (coreGet s c) i else issueCheck s c (coreGet s c) b) = (s1, none))
    (eff : State → CoreSt → List CoreWrite) :
    slotPure c slot i eff s = finishSlot (seen s1 c b) c slot (eff (seen s1 c b) (coreGet (seen s1 c b) c)) := by
  simp only [slotPure, slotRun, hb, hc]
  rfl

/-- A slot's instruction that stalls, where its bundle is ready. -/
theorem slotRun_of_stall (h : Ready s c slot i b s1) {eff : State → CoreSt → State × Option (List CoreWrite)} {u : State}
    (he : eff (seen s1 c b) (coreGet (seen s1 c b) c) = (u, none)) : slotRun c slot i eff s = u := by
  unfold seen at he
  simp only [slotRun, h.holds, h.checks, he]

/-- While slot 1 has not been executed, the bundle holds what slot 0 writes. -/
theorem finishSlot_seen_held (ho : b.done1 = false) (ws : List CoreWrite) : finishSlot (seen s1 c b) c 0 ws =
    coreMod (seen s1 c b) c fun k => { k with cur := some { b with issued := true, done0 := true, writes0 := ws } } := by
  simp [finishSlot, ho]

end

/-! ## Integer instructions and FCMPLT -/

section
variable {i : Instr} {c : CoreId} {d : Reg} {f : CoreSt → Dword × Bool}

theorem exec_of_intOf (h : intOf i = some (c, d, f)) (s : State) : exec i s = intOp c i d (fun k => (f k).1) s := by
  unfold intOf at h
  split at h <;> cases h
  -- Shifts, comparisons and INSH are written otherwise in the machine.
  case h_6 | h_7 | h_8 => simp only [exec, execShl, execShr, execSar, shiftCount_eq]
  case h_10 | h_11 | h_12 => simp only [exec, execCmpeq, execCmplt, execCmpltu, flag_beq, flag_slt, flag_ult]
  case h_17 | h_18 | h_19 => simp only [exec, execShli, execShri, execSari, toNat_field_zero, Nat.reducePow]
  case h_20 => simp only [exec, execInsh, append_setWidth_eq]
  case h_21 => simp only [exec, execCmpeqi, flag_beq, sextImm]
  case h_22 => simp only [exec, execCmplti, flag_slt, toInt_sextImm]
  all_goals rfl

theorem srcPoison_of_intOf (h : intOf i = some (c, d, f)) (k : CoreSt) : srcPoison k i = (f k).2 := by
  unfold intOf at h
  split at h <;> cases h <;> simp [srcPoison, reads]

theorem intOf_cur (h : intOf i = some (c, d, f)) (k : CoreSt) (x : Option Bundle) : f { k with cur := x } = f k := by
  unfold intOf at h
  split at h <;> cases h <;> rfl

/-- The writes of an integer instruction, from the registers before its bundle. -/
theorem intWrites_seen (h : intOf i = some (c, d, f)) (s1 : State) (b : Bundle) :
    let k := coreGet (seen s1 c b) c
    [CoreWrite.sreg d (f k).1 (srcPoison k i)] = [.sreg d (f (coreGet s1 c)).1 (f (coreGet s1 c)).2] := by
  simp only [coreGet_seen, srcPoison_of_intOf h, intOf_cur h]

end

/-! ## FP32 instructions -/

section
variable {i : Instr} {c : CoreId} {d : Reg} {f : CoreSt → FV × Bool × Bool}

theorem exec_of_fpOf (h : fpOf i = some (c, d, f)) (s : State) :
    exec i s = fpOp c i d (fun k => (f k).1) (fun k => (f k).2.1) s := by
  unfold fpOf at h
  split at h <;> cases h <;> rfl

theorem srcPoison_of_fpOf (h : fpOf i = some (c, d, f)) (k : CoreSt) : srcPoison k i = (f k).2.2 := by
  unfold fpOf at h
  split at h <;> cases h <;> simp [srcPoison, reads, Bool.or_assoc]

theorem fpOf_cur (h : fpOf i = some (c, d, f)) (k : CoreSt) (x : Option Bundle) : f { k with cur := x } = f k := by
  unfold fpOf at h
  split at h <;> cases h <;> rfl

end

/-- Settles O7: `intOf` and `fpOf` are the executed operations, and their poison is that of the registers read. -/
theorem scalarResults : Obligations.ScalarResults := by
  refine ⟨fun i c d f s s1 b hf h => ?_, fun i c d f s s1 b hf h => ?_, fun c d a s s1 b h => ?_⟩
  · rw [exec_of_intOf hf, intOp, slotPure_of_ready h, intWrites_seen hf]
  · rw [exec_of_fpOf hf, fpOp, slotPure_of_ready h]
    simp only [coreGet_seen, srcPoison_of_fpOf hf, fpOf_cur hf]
  · have hp : ∀ k : CoreSt, srcPoison k (.fcvti c d a) = k.sp a := fun k => by simp [srcPoison, reads]
    simp only [exec, execFcvti, slotPure_of_ready h, coreGet_seen, hp]
    rfl

end Sys2Proof.Claims
end

section
/-! SUPPORT. A bundle that completes: its writes, then the next bundle (R87). -/

namespace Sys2Proof.Machine

/-! ## Bits -/

/-- A bit of a word of which one bit has been set or cleared. -/
theorem getLsbD_setBit {w : Nat} (x : BitVec w) (i j : Nat) (b : Bool) (hj : j < w) :
    (setBit x i b).getLsbD j = if j = i then b else x.getLsbD j := by
  by_cases hij : j = i
  · subst hij
    simp [setBit, setField, hj]
  · by_cases hlt : j < i
    · simp [setBit, setField, hj, hij, hlt]
    · have hpos : j - i ≠ 0 := by omega
      simp [setBit, setField, hj, hij, hlt, hpos]

/-! ## Registers of a core -/

section
variable (k : CoreSt) (r : Reg) (v : Dword) (p : Bool)

/-- Writing an s register changes the s registers, their poison and their parity alone. -/
theorem CoreSt.setS_frame : ∃ sreg spois badPar, k.setS r v p = { k with sreg := sreg, spois := spois, badPar := badPar } := by
  unfold CoreSt.setS
  split <;> exact ⟨_, _, _, rfl⟩

theorem CoreSt.run_setS : (k.setS r v p).run = k.run := by
  obtain ⟨_, _, _, he⟩ := k.setS_frame r v p
  rw [he]

/-- The poison bit of a written s register (R87, R95). -/
theorem CoreSt.sp_setS {x : Reg} (hx : x ≠ 0) : (k.setS r v p).sp x = if x = r then p else k.sp x := by
  unfold CoreSt.setS
  split
  · rename_i hr
    rw [if_neg (hr ▸ hx)]
  · rw [CoreSt.sp, getLsbD_setBit _ _ _ _ x.isLt]
    exact if_congr BitVec.toNat_inj rfl rfl

/-- The core goes on at a bundle. -/
def CoreSt.goOn (pc : Nat) : CoreSt := { k with cur := none, pc := pc, idle := 0 }

@[simp] theorem CoreSt.run_goOn (pc : Nat) : (k.goOn pc).run = k.run := rfl
@[simp] theorem CoreSt.wq_goOn (pc : Nat) : (k.goOn pc).wq = k.wq := rfl

end

/-! ## Changes of one core -/

section
variable {s : State} {c : CoreId} {f : CoreSt → CoreSt}

/-- A core that runs a voyage is read back from any table. -/
theorem coreGet_coreSet_of_run (s : State) (c : CoreId) {k : CoreSt} (h : k.run ≠ .idle) : coreGet (coreSet s c k) c = k :=
  tget_tset_of_ne _ _ fun e => h (congrArg CoreSt.run e)

theorem coreGet_coreMod_of_run (h : (f (coreGet s c)).run ≠ .idle) : coreGet (coreMod s c f) c = f (coreGet s c) :=
  coreGet_coreSet_of_run s c h

theorem coreGet_coreMod_ne (s : State) {x : CoreId} (f : CoreSt → CoreSt) (hx : x ≠ c) : coreGet (coreMod s c f) x = coreGet s x :=
  coreGet_coreSet_ne s _ (mt coreKey_inj.1 hx)

/-- A core on which no tug's fault waits takes none. -/
theorem takeTugHit_of_none (h : ∀ x ∈ s.cores.tugHits, x.core ≠ c) : takeTugHit s c = s := by
  have hnone : (s.cores.tugHits.find? fun x => x.core == c) = none :=
    List.find?_eq_none.2 fun x hx hc => h x hx (eq_of_beq hc)
  simp only [takeTugHit, hnone]

end

end Sys2Proof.Machine

namespace Sys2Proof.Claims

open Sys2Proof Sys2Proof.Machine

section
variable {s : State} {c : CoreId} {b : Bundle} {ws : List CoreWrite} {u : State}

/-- The writes of both slots, and the next bundle. -/
theorem commitBundle_eq (hu : (b.writes0 ++ b.writes1).foldl (applyWrite c b.idx) s = u) (hh : ∀ h ∈ u.cores.tugHits, h.core ≠ c) :
    commitBundle s c b = coreMod u c fun k => k.goOn ((branchOf (b.writes0 ++ b.writes1)).getD (b.idx + 1)) := by
  simp only [commitBundle, hu]
  exact takeTugHit_of_none hh

/-- The writes of slot 0, where slot 1 has none, and the next bundle. -/
theorem retired_eq (hw : b.writes1 = []) (hu : ws.foldl (applyWrite c b.idx) (seen s c b) = u)
    (hh : ∀ h ∈ u.cores.tugHits, h.core ≠ c) :
    retired s c b 0 ws = coreMod u c fun k => k.goOn ((branchOf ws).getD (b.idx + 1)) := by
  have hws : ws ++ b.writes1 = ws := by rw [hw, List.append_nil]
  rw [retired, if_pos rfl, commitBundle_eq (by rwa [hws]) hh, hws]

theorem coreGet_retired (hw : b.writes1 = []) (hu : ws.foldl (applyWrite c b.idx) (seen s c b) = u)
    (hh : ∀ h ∈ u.cores.tugHits, h.core ≠ c) (hr : (coreGet u c).run ≠ .idle) :
    coreGet (retired s c b 0 ws) c = (coreGet u c).goOn ((branchOf ws).getD (b.idx + 1)) := by
  rw [retired_eq hw hu hh]
  exact coreGet_coreMod_of_run hr

end

/-! ## One s-register write -/

section
variable {s : State} {c : CoreId} {b : Bundle} (d : Reg) (v : Dword) (p : Bool) (hw : b.writes1 = [])
  (hr : (coreGet s c).run ≠ .idle) (hh : ∀ h ∈ s.cores.tugHits, h.core ≠ c)
include hw hh

theorem retired_sreg : retired s c b 0 [.sreg d v p] =
    coreMod (coreMod (seen s c b) c fun k => k.setS d v p) c fun k => k.goOn (b.idx + 1) :=
  retired_eq hw rfl hh

include hr

theorem coreGet_retired_sreg : coreGet (retired s c b 0 [.sreg d v p]) c = ((coreGet (seen s c b) c).setS d v p).goOn (b.idx + 1) := by
  have hset : coreGet (coreMod (seen s c b) c fun k => k.setS d v p) c = (coreGet (seen s c b) c).setS d v p :=
    coreGet_coreMod_of_run (by rwa [CoreSt.run_setS, coreGet_seen])
  rw [retired_sreg d v p hw hh, coreGet_coreMod_of_run (by rwa [hset, CoreSt.run_goOn, CoreSt.run_setS, coreGet_seen]), hset]

omit hr in
theorem coreGet_retired_sreg_ne {x : CoreId} (hx : x ≠ c) : coreGet (retired s c b 0 [.sreg d v p]) x = coreGet s x := by
  rw [retired_sreg d v p hw hh]
  simp only [coreGet_coreMod_ne _ _ hx, seen]

end

/-- Settles O6: slot 0 leaves its write in the bundle; with both slots done the bundle is one register write and the next index. -/
theorem bundlesRetireWhole : Obligations.BundlesRetireWhole := by
  refine ⟨fun i c d f s s1 b hf hb ho hc => ?_, fun s c b d v p hi hr hh _ hw => ?_⟩
  · rw [exec_of_intOf hf, intOp, slotPure_of_holds hb hc, intWrites_seen hf, finishSlot_seen_held ho]
  · have hcore := coreGet_retired_sreg d v p hw hr hh
    have hothers := fun x hx => coreGet_retired_sreg_ne d v p hw hh (x := x) hx
    have hs := CoreSt.s_setS (k := coreGet (seen s c b) c) ((coreGet_seen s c b).symm ▸ hi.coreOk c) d
    have hsp := fun x hx => CoreSt.sp_setS (coreGet (seen s c b) c) d v p (x := x) hx
    obtain ⟨sreg, spois, badPar, he⟩ := CoreSt.setS_frame (coreGet (seen s c b) c) d v p
    simp only [coreGet_seen] at hcore hs hsp he
    simp only [hcore]
    refine ⟨fun r => hs r v p, fun r hr => hsp r hr, ?_⟩
    rw [he, retired_sreg d v p hw hh]
    rw [retired_sreg d v p hw hh] at hothers
    refine ⟨fun _ => ⟨rfl, rfl⟩, fun _ _ _ => rfl, rfl, rfl, rfl, rfl, rfl, rfl, rfl, hothers,
      rfl, rfl, rfl, rfl, rfl, rfl, rfl, rfl, rfl⟩

end Sys2Proof.Claims
end

section
/-! Branches and jumps (R88, R97). -/

namespace Sys2Proof.Claims

open Sys2Proof Sys2Proof.Machine

section
variable {i : Instr} {c : CoreId} {f : CoreSt → Nat → Bool × Int × Bool}

theorem exec_of_branchSpec (h : branchSpec i = some (c, f)) (s : State) : exec i s = branchOp c i (fun _ => []) s := by
  unfold branchSpec at h
  split at h <;> cases h <;> rfl

theorem branchTarget_of_branchSpec (h : branchSpec i = some (c, f)) (k : CoreSt) (x : Nat) :
    branchTarget k x i = if (f k x).1 then some (f k x).2.1 else none := by
  unfold branchSpec at h
  split at h <;> cases h <;> simp [branchTarget, BitVec.slt, BitVec.ult]

theorem srcPoison_of_branchSpec (h : branchSpec i = some (c, f)) (k : CoreSt) (x : Nat) : srcPoison k i = (f k x).2.2 := by
  unfold branchSpec at h
  split at h <;> cases h <;> simp [srcPoison, reads]

theorem branchSpec_cur (h : branchSpec i = some (c, f)) (k : CoreSt) (x : Nat) (y : Option Bundle) :
    f { k with cur := y } x = f k x := by
  unfold branchSpec at h
  split at h <;> cases h <;> rfl

end

/-- The index of the bundle that a core executes. -/
theorem idx_coreGet_seen (s1 : State) (c : CoreId) (b : Bundle) : (coreGet (seen s1 c b) c).idx = b.idx := by
  rw [coreGet_seen]; rfl

section
variable {s s1 : State} {c : CoreId} {i : Instr} {b : Bundle}

/-- A branch writes its target where it has one. -/
theorem branchOp_of_ready (h : Ready s c 0 i b s1) (more : CoreSt → List CoreWrite) : let k := coreGet (seen s1 c b) c
    branchOp c i more s = .next (retired s1 c b 0
      (((branchTarget k b.idx i).toList.map fun t => .branch t.toNat) ++ more k ++ useWrites (srcPoison k i))) := by
  simp only [branchOp, slotPure_of_ready h, idx_coreGet_seen]
  cases branchTarget (coreGet (seen s1 c b) c) b.idx i <;> rfl

end

/-! ## The bundle that holds a branch -/

section
variable {s : State} {c : CoreId} {b : Bundle} (hr : (coreGet s c).run ≠ .idle) (hh : ∀ h ∈ s.cores.tugHits, h.core ≠ c)
  (hw : b.writes1 = [])
include hr hh hw

/-- Writes that leave the cores as they are complete the bundle: the next index is the branch's target, if there is one. -/
theorem pc_retired_of_cores {ws : List CoreWrite} {u : State} (hu : ws.foldl (applyWrite c b.idx) (seen s c b) = u)
    (hc : ∀ x, coreGet u x = coreGet (seen s c b) x) (ht : u.cores.tugHits = s.cores.tugHits) :
    (coreGet (retired s c b 0 ws) c).pc = (branchOf ws).getD (b.idx + 1) := by
  rw [coreGet_retired hw hu (by rwa [ht]) (by rwa [hc, coreGet_seen])]
  rfl

end

/-- Settles O8: a branch's target is the one `branchSpec` gives, and the completed bundle goes on where its writes branch to. -/
theorem branchesGoWhereTheySay : Obligations.BranchesGoWhereTheySay := by
  refine ⟨fun i c f s s1 b hf h => ?_, fun c d i s s1 b h => ?_, fun s c b n p hr hh _ hw => ?_⟩
  · have hcur : f (coreGet (seen s1 c b) c) b.idx = f (coreGet s1 c) b.idx := by
      rw [coreGet_seen]; exact branchSpec_cur hf ..
    rw [exec_of_branchSpec hf, branchOp_of_ready h, branchTarget_of_branchSpec hf, srcPoison_of_branchSpec hf _ b.idx, hcur]
    generalize f (coreGet s1 c) b.idx = x
    obtain ⟨_ | _, t, p⟩ := x <;> rfl
  · refine (branchOp_of_ready h fun k => [.sreg d (BitVec.ofNat 64 (k.idx + 1)) false]).trans ?_
    rw [idx_coreGet_seen]
    rfl
  · have htaken : ∀ x ∈ ((CoreWrite.branch n :: useWrites p).foldl (applyWrite c b.idx) (seen s c b)).cores.tugHits, x.core ≠ c := by
      cases p <;> exact hh
    refine ⟨?_, ?_, ?_⟩
    · cases p <;> exact pc_retired_of_cores hr hh hw rfl (fun _ => rfl) rfl
    · cases p <;> exact pc_retired_of_cores hr hh hw rfl (fun _ => rfl) rfl
    · rw [retired_eq hw rfl htaken]
      cases p <;> rfl

end Sys2Proof.Claims
end

section
/-! A store of a word or a dword that retires (R59, R92, R95). -/

namespace Sys2Proof.Machine

/-! ## Memory -/

/-- Memory after a store of `n` bytes: the words written have valid codes, the parcel takes the poison and is OPEN. -/
def MemSt.stored (m : MemSt) (a n x : Nat) (p : Bool) : MemSt :=
  ({ m with sramErr := tclear m.sramErr (a / 8) ((a + n + 7) / 8), bytes := m.bytes.writeNat a n x }.setPoison a
    (p || tget m.poison (a / 256) false)).setSeal a sealOpen

section
variable (m : MemSt) (a n x : Nat) (p : Bool)

@[simp] theorem MemSt.bytes_stored : (m.stored a n x p).bytes = m.bytes.writeNat a n x := rfl

theorem MemSt.sealAt_stored : (m.stored a n x p).sealAt a = sealOpen :=
  tget_tset_of_ne m.sealSt (a / 256) (v := sealOpen) (d := sealVerified) (by decide)

/-- A poisoned store marks its parcel. -/
theorem MemSt.poison_stored : tget (m.stored a n x true).poison (a / 256) false = true :=
  tget_tset_of_ne m.poison (a / 256) (v := true) (d := false) (by decide)

end

/-- A number that is written is read back. -/
theorem Memory.readNat_writeNat {m : Memory} (h : Memory.wf m = true) (a n : Nat) {x : Nat} (hx : x < 2 ^ (8 * n)) :
    Memory.readNat (Memory.writeNat m a n x) a n = x := by
  have hb := Memory.readBytes_writeBytes a (natToBytes n x) h
  rw [natToBytes_length] at hb
  rw [Memory.readNat, Memory.writeNat, hb, bytesToNat_natToBytes, show 256 = 2 ^ 8 from rfl, ← Nat.pow_mul, Nat.mod_eq_of_lt hx]

theorem Memory.read_writeNat_ne (m : Memory) {a n x j : Nat} (hj : j < a ∨ a + n ≤ j) :
    Memory.read (Memory.writeNat m a n x) j = Memory.read m j :=
  Memory.read_writeBytes_ne _ _ _ (by rwa [natToBytes_length])

/-! ## The write -/

/-- No error is held in the word and the side-array entry at `a`, and no flip register is armed there. -/
structure SoundAt (s : State) (a : Nat) : Prop where
  word  : tget s.mem.sramErr (a / 8) 0 = 0
  side  : tget s.mem.sideErr (a / 256) 0 = 0
  good  : sideBad s.mem a = false
  flips : (rget s ((blkSC (sramUnit s a).1).reg 0x02C)).getLsbD 31 = false

section
variable {s : State} {a : Nat} (h : SoundAt s a)
include h

theorem SoundAt.sideFix (who : SramReader) : sideFix s a who = s := by
  simp only [Machine.sideFix, h.good, h.side, if_true, Bool.false_eq_true, if_false]

theorem SoundAt.sramFixWord (who : SramReader) : sramFixWord s a who = s := by
  simp only [Machine.sramFixWord, h.word, if_true]

theorem SoundAt.sramWritten (n : Nat) :
    sramWritten s a n = s.setMem { s.mem with sramErr := tclear s.mem.sramErr (a / 8) ((a + n + 7) / 8) } :=
  if_neg fun hf => by
    rw [Bool.and_eq_true] at hf
    exact Bool.false_ne_true (h.flips.symm.trans hf.1)

theorem SoundAt.applyWrite_store (c : CoreId) (idx n x : Nat) (p : Bool) :
    applyWrite c idx s (.store a n x p) = s.setMem (s.mem.stored a n x p) := by
  simp only [applyWrite, h.sideFix, h.sramFixWord, ite_self, h.sramWritten]
  rfl

end

end Sys2Proof.Machine

namespace Sys2Proof.Claims

open Sys2Proof Sys2Proof.Machine

section
variable {s : State} {c : CoreId} {b : Bundle} {a : Nat} (n x : Nat) (p : Bool) (hs : SoundAt s a) (hw : b.writes1 = [])
  (hh : ∀ h ∈ s.cores.tugHits, h.core ≠ c)
include hs

omit hw hh in
theorem store_seen : [CoreWrite.store a n x p].foldl (applyWrite c b.idx) (seen s c b) =
    (seen s c b).setMem (s.mem.stored a n x p) :=
  SoundAt.applyWrite_store (s := seen s c b) ⟨hs.word, hs.side, hs.good, hs.flips⟩ c b.idx n x p

include hw hh

theorem retired_store : retired s c b 0 [.store a n x p] =
    coreMod ((seen s c b).setMem (s.mem.stored a n x p)) c fun k => k.goOn (b.idx + 1) :=
  retired_eq hw (store_seen n x p hs) hh

theorem coreGet_retired_store (hr : (coreGet s c).run ≠ .idle) :
    coreGet (retired s c b 0 [.store a n x p]) c = (coreGet s c).goOn (b.idx + 1) := by
  have hseen : coreGet ((seen s c b).setMem (s.mem.stored a n x p)) c = { coreGet s c with cur := some { b with issued := true } } :=
    coreGet_seen s c b
  rw [coreGet_retired hw (store_seen n x p hs) hh (by rwa [hseen]), hseen]
  rfl

end

/-- Settles O10: the bundle changes memory by `MemSt.stored` and goes on; no register, bollard, link or record is touched. -/
theorem storeRetires : Obligations.StoreRetires := by
  intro s c b a n x p hr hh _ hw hi _ _ hx hword hside hgood hflips
  have hs : SoundAt s a := ⟨hword, hside, hgood, hflips⟩
  have hcore := coreGet_retired_store n x p hs hw hh hr
  have hmem : (retired s c b 0 [.store a n x p]).mem = s.mem.stored a n x p := by rw [retired_store n x p hs hw hh]; rfl
  simp only [hmem, hcore, MemSt.bytes_stored, parcelPoison]
  refine ⟨Memory.readNat_writeNat hi.memory a n hx, fun j => Memory.read_writeNat_ne _, MemSt.sealAt_stored .., ?_,
    fun r => ⟨rfl, rfl⟩, ?_⟩
  · rintro rfl
    exact MemSt.poison_stored ..
  · rw [retired_store n x p hs hw hh]
    exact ⟨rfl, rfl, rfl, rfl⟩

end Sys2Proof.Claims
end

section
/-! NOP, END, TIDE and CSRR (R27, R86, R98, R108). -/

namespace Sys2Proof.Machine

/-! ## TIDE -/

section
variable (s : State) (c : CoreId)

/-- A reading is the larger of the time less an age and of what was read before, and never later than now. -/
theorem toNat_tideReading : (tideReading s c).toNat =
    max ((dieTide s (slotC c.c)).toNat - s.free % tideAge s c.c) (min (voyGet s c).lastTide.toNat (dieTide s (slotC c.c)).toNat) := by
  have hnow := (dieTide s (slotC c.c)).isLt
  rw [tideReading, BitVec.toNat_ofNat]
  exact Nat.mod_eq_of_lt (by omega)

theorem tideReading_le : (tideReading s c).toNat ≤ (dieTide s (slotC c.c)).toNat := by
  rw [toNat_tideReading]; omega

/-- A reading is less than its greatest age behind (R27). -/
theorem lt_tideReading_add : (dieTide s (slotC c.c)).toNat < (tideReading s c).toNat + tideAge s c.c := by
  have hage : s.free % tideAge s c.c < tideAge s c.c := Nat.mod_lt _ (Nat.succ_pos _)
  rw [toNat_tideReading]; omega

/-- A reading is not below the one before (R27). -/
theorem lastTide_le_tideReading (h : (voyGet s c).lastTide.toNat ≤ (dieTide s (slotC c.c)).toNat) :
    (voyGet s c).lastTide.toNat ≤ (tideReading s c).toNat := by
  rw [toNat_tideReading]; omega

end

end Sys2Proof.Machine

namespace Sys2Proof.Claims

open Sys2Proof Sys2Proof.Machine

/-- TIDE's own state change is the reading that the core remembers. -/
theorem tide_of_ready {c : CoreId} {d : Reg} {s s1 : State} {b : Bundle} (h : Ready s c 0 (.tide c d) b s1) :
    let v := tideReading (seen s1 c b) c
    exec (.tide c d) s = .next (finishSlot (voySet (seen s1 c b).takeFree c { voyGet s1 c with lastTide := v }) c 0 [.sreg d v false]) :=
  congrArg Host.Outcome.next (slotRun_of_ready h rfl)

/-- CSRR's items are those of R98. -/
theorem csrItem_eq (s : State) (c : CoreId) (n : Nat) : csrItem s c n = itemOf s c n := by
  unfold csrItem itemOf
  split
  case h_10 => iterate 9 rw [if_neg (by assumption)]
  case h_6 => exact BitVec.eq_of_toNat_eq (by simp)
  all_goals rfl

/-- Settles O12: none of the four stalls but TIDE, whose reading lies between its greatest age and now. -/
theorem scalarControl : Obligations.ScalarControl := by
  refine ⟨fun c s s1 b slot h => ?_, fun c s s1 b h => ?_, fun c s hrun hwq haq hacc => ?_, fun c d s s1 b h => ?_,
    fun c d imm s s1 b h => ?_⟩
  · exact congrArg Host.Outcome.next (slotPure_of_ready h _)
  · exact congrArg Host.Outcome.next (slotPure_of_ready h _)
  · exact if_pos ⟨hrun, hwq, haq, hacc⟩
  · exact ⟨_, tideReading_le (seen s1 c b) c, lt_tideReading_add (seen s1 c b) c,
      lastTide_le_tideReading (seen s1 c b) c, tide_of_ready h⟩
  · rw [← csrItem_eq]
    exact congrArg Host.Outcome.next (slotPure_of_ready h _)

end Sys2Proof.Claims
end

section
/-! The poison of a weight load (R95, R104). -/

namespace Sys2Proof.Machine

/-- A WLD enters the weight-load queue (R90), and its format is that of its buffer (R105). -/
def CoreSt.enterWld (k : CoreSt) (e : WldEntry) : CoreSt :=
  let k := { k with wq := k.wq ++ [{ e with seq := k.issueSeq }], issueSeq := k.issueSeq + 1 }
  if e.buf = 0 then { k with wfmt0 := some e.fmt } else { k with wfmt1 := some e.fmt }

theorem applyWrite_wld (c : CoreId) (idx : Nat) (s : State) (e : WldEntry) :
    applyWrite c idx s (.wld e) = coreMod s c fun k => k.enterWld e := rfl

section
variable (k : CoreSt) (e : WldEntry)

@[simp] theorem CoreSt.run_enterWld : (k.enterWld e).run = k.run := by unfold CoreSt.enterWld; split <;> rfl
@[simp] theorem CoreSt.wq_enterWld : (k.enterWld e).wq = k.wq ++ [{ e with seq := k.issueSeq }] := by
  unfold CoreSt.enterWld; split <;> rfl

end

end Sys2Proof.Machine

namespace Sys2Proof.Claims

open Sys2Proof Sys2Proof.Machine

/-! ## What a weight load enters -/

section
variable {c : CoreId} {a r : Reg} {f : Fmt} {m : BitVec 3} {s s1 : State} {b : Bundle}

/-- The entry of a WLD with the poison `p`. -/
def wldEntry (k : CoreSt) (b : Bundle) (a r : Reg) (f : Fmt) (m : BitVec 3) (p : Bool) : WldEntry :=
  { seq := 0, loc := b.idx, buf := if m.getLsbD 0 then 1 else 0, fmt := f, data := (k.s a).toNat
    scale := if usesScale f r then some (k.s r).toNat else none, poison := p }

/-- A WLD takes the poison of both sA and sB, whether or not its format uses scales. -/
theorem wld_of_ready (h : Ready s c 1 (.wld c a r f m) b s1) (hq : (coreGet s1 c).wq.length < 4) :
    let k := coreGet s1 c
    let p := k.sp a || k.sp r
    exec (.wld c a r f m) s = .next (retired s1 c b 1 (.wld (wldEntry k b a r f m p) :: useWrites p)) := by
  refine congrArg Host.Outcome.next ((slotRun_of_ready h ?_).trans (finishSlot_seen h.other _))
  have hroom : ¬ wqDepth ≤ (coreGet s1 c).wq.length := Nat.not_le.2 hq
  have hp : ∀ k : CoreSt, srcPoison k (.wld c a r f m) = (k.sp a || k.sp r) := fun k => by simp [srcPoison, reads]
  simp only [coreGet_seen, hroom, if_false, hp]
  rfl

/-- The completed bundle's entry is the last of the weight-load queue, but for its place in the order of issue. -/
theorem wq_retired_wld (hw : b.writes0 = []) (hr : (coreGet s c).run ≠ .idle) (hh : ∀ h ∈ s.cores.tugHits, h.core ≠ c)
    (e : WldEntry) (p : Bool) : (coreGet (retired s c b 1 (.wld e :: useWrites p)) c).wq =
      (coreGet s c).wq ++ [{ e with seq := (coreGet s c).issueSeq }] := by
  have hentered : coreGet (coreMod (seen s c b) c fun k => k.enterWld e) c = (coreGet (seen s c b) c).enterWld e :=
    coreGet_coreMod_of_run (by rwa [CoreSt.run_enterWld, coreGet_seen])
  have hfold : ∃ u, (CoreWrite.wld e :: useWrites p).foldl (applyWrite c b.idx) (seen s c b) = u ∧
      coreGet u c = (coreGet (seen s c b) c).enterWld e ∧ u.cores.tugHits = s.cores.tugHits := by
    cases p <;> exact ⟨_, rfl, hentered, rfl⟩
  obtain ⟨u, hu, hcore, hhits⟩ := hfold
  rw [retired, if_neg Nat.one_ne_zero, commitBundle_eq (by simpa only [hw, List.nil_append] using hu) (by rwa [hhits]),
    coreGet_coreMod_of_run (by rwa [hcore, CoreSt.run_goOn, CoreSt.run_enterWld, coreGet_seen]), hcore, CoreSt.wq_goOn,
    CoreSt.wq_enterWld, coreGet_seen]

end

/-! ## A weight load without scales whose sB is poisoned -/

def wldCore : CoreId := ⟨0, 0, 0⟩

/-- Beside a NOP, WLD of an INT8 tile, which uses no scales, with s1 as sB. -/
def wldBundle : Bundle :=
  { idx := 0, op0 := .nop wldCore 0, op1 := .wld wldCore 2 1 fmtINT8 0, issued := true, done0 := true }

/-- The core runs and holds the bundle, and s1 is poisoned. -/
def wldCoreSt : CoreSt := { run := .running, cur := some wldBundle, spois := 2 }

def wldState : State := coreSet State.reset wldCore wldCoreSt

theorem coreGet_wldState : coreGet wldState wldCore = wldCoreSt :=
  coreGet_coreSet_of_run _ _ CoreRun.noConfusion

theorem ready_wldState : Ready wldState wldCore 1 (.wld wldCore 2 1 fmtINT8 0) wldBundle wldState where
  holds := by rw [slotBundle, coreGet_wldState]; rfl
  checks := by rw [coreGet_wldState]; rfl
  other := rfl

/-- Refutes O15: a WLD takes the poison of sB also where its format uses no scales. A bundle that decodes names s0 there, which no write
poisons; the statement lets the core hold any bundle, as here INT8 with s1 poisoned, and then the entry is poisoned where the statement's
is not. -/
theorem not_matrixInstructions : ¬ Obligations.MatrixInstructions := by
  intro h
  obtain ⟨-, -, hwld, -, -⟩ := h
  have hq : (coreGet wldState wldCore).wq.length < 4 := by rw [coreGet_wldState]; decide
  have hr : (coreGet wldState wldCore).run ≠ .idle := by rw [coreGet_wldState]; decide
  have hh : ∀ h ∈ wldState.cores.tugHits, h.core ≠ wldCore := by intro _ hx; cases hx
  have hexec := (wld_of_ready ready_wldState hq).symm.trans (hwld wldCore 2 1 fmtINT8 0 _ _ _ ready_wldState hq)
  have hentries := congrArg (fun t => (coreGet t wldCore).wq.map WldEntry.poison) (Host.Outcome.next.inj hexec)
  simp only [wq_retired_wld (b := wldBundle) rfl hr hh] at hentries
  rw [List.map_append, List.map_append, List.append_cancel_left_eq, coreGet_wldState] at hentries
  exact absurd (List.cons.inj hentries).1 Bool.noConfusion

end Sys2Proof.Claims
end

section
/-! LAUNCH_FIRE: the dies of a core set that have reached the launch time start (R107, R109, R129). -/

namespace Sys2Proof.Machine

/-! ## Starting cores -/

/-- One core of the set starts with its rank. -/
def startOne (e : LEntry) (entry size : Nat) (s : State) (x : CoreId × Nat) : State :=
  let t := coreSet s x.1 (startCore e.arg entry)
  voySet t x.1 { voyGet t x.1 with
    set := e.set, voyage := e.voyage, rank := x.2, size := size, time := e.time, fire := e.fire
    levels := levelsOf t e.voyage.toNat e.set }

theorem startCores_eq (e : LEntry) (entry size : Nat) (l : List (CoreId × Nat)) (s : State) :
    startCores s e entry size l = l.foldl (startOne e entry size) s := by
  induction l generalizing s with
  | nil => rfl
  | cons x r ih => exact ih _

section
variable (e : LEntry) (entry size : Nat)

/-- Starting cores changes the cores alone. -/
theorem startCores_frame (s : State) (l : List (CoreId × Nat)) : ∃ x, startCores s e entry size l = { s with cores := x } := by
  rw [startCores_eq]
  refine List.foldlRecOn (motive := fun t => ∃ x, t = { s with cores := x }) l _ ⟨s.cores, rfl⟩ ?_
  rintro t ⟨x, rfl⟩ c _
  exact ⟨_, rfl⟩

theorem coreGet_startOne (s : State) (x : CoreId × Nat) (c : CoreId) :
    coreGet (startOne e entry size s x) c = if c = x.1 then startCore e.arg entry else coreGet s c := by
  split
  · rename_i hc; subst hc
    exact coreGet_coreSet_of_run s x.1 CoreRun.noConfusion
  · rename_i hc
    exact coreGet_coreSet_ne s _ (mt coreKey_inj.1 hc)

theorem coreGet_startCores_of_mem (s : State) {l : List (CoreId × Nat)} {c : CoreId} {n : Nat} (hc : (c, n) ∈ l) :
    coreGet (startCores s e entry size l) c = startCore e.arg entry := by
  rw [startCores_eq]
  refine foldl_establishes (I := fun _ => True) (P := fun t => coreGet t c = startCore e.arg entry) (fun _ _ _ => trivial)
    (fun t x _ ht => ?_) (fun t _ => ?_) hc trivial
  · rw [coreGet_startOne, ht, ite_self]
  · rw [coreGet_startOne, if_pos rfl]

theorem coreGet_startCores_of_not_mem (s : State) {l : List (CoreId × Nat)} {c : CoreId} (hc : ∀ x ∈ l, c ≠ x.1) :
    coreGet (startCores s e entry size l) c = coreGet s c := by
  rw [startCores_eq]
  refine List.foldlRecOn (motive := fun t => coreGet t c = coreGet s c) l _ rfl fun t ht x hx => ?_
  rw [coreGet_startOne, if_neg (hc x hx), ht]

/-- What a core that has started knows of its launch. -/
def Launched (t : State) (c : CoreId) : Prop := (voyGet t c).fire = e.fire ∧ (voyGet t c).time = e.time ∧ (voyGet t c).set = e.set

theorem canonical_startCore (arg : Dword) (entry : Nat) : (startCore arg entry).canonical = true := by
  have hs : tsorted (tset ([] : Tbl Dword) 1 arg 0) = true := tsorted_tset _ _ _ rfl
  simp only [startCore, CoreSt.canonical, hs]
  rfl

theorem Inv.startOne {s : State} (h : Inv s) (x : CoreId × Nat) : Inv (startOne e entry size s x) :=
  (h.coreSet x.1 (canonical_startCore e.arg entry)).voySet ..

theorem Inv.launched_startOne {s : State} (h : Inv s) (x : CoreId × Nat) : Launched e (Machine.startOne e entry size s x) x.1 := by
  have hs := ((coresCanonical_iff _).1 ((inv_iff _).1 (h.coreSet x.1 (canonical_startCore e.arg entry))).cores.2).2.1
  have hv : ∀ v, voyGet (Machine.voySet (Machine.coreSet s x.1 (startCore e.arg entry)) x.1 v) x.1 = v := fun v => tget_tset_self _ _ _ hs
  simp only [Launched, Machine.startOne, hv, and_self]

theorem launched_startOne_of_launched {s : State} (h : Inv s) {c : CoreId} (hc : Launched e s c) (x : CoreId × Nat) :
    Launched e (startOne e entry size s x) c := by
  by_cases hx : c = x.1
  · exact hx ▸ h.launched_startOne e entry size x
  · have hv : voyGet (startOne e entry size s x) c = voyGet s c := tget_tset_ne _ _ _ (mt coreKey_inj.1 hx)
    rwa [Launched, hv]

theorem Inv.launched_startCores {s : State} (h : Inv s) {l : List (CoreId × Nat)} {c : CoreId} {n : Nat} (hc : (c, n) ∈ l) :
    Launched e (startCores s e entry size l) c := by
  rw [startCores_eq]
  exact foldl_establishes (I := Inv) (fun t x ht => ht.startOne e entry size x)
    (fun t x ht hl => launched_startOne_of_launched e entry size ht hl x) (fun t ht => ht.launched_startOne e entry size (c, n)) hc h

end

/-! ## The dies of a voyage -/

/-- The die's own counter has reached the launch time (R19). -/
def dieDue (s : State) (e : LEntry) (d : Nat) : Bool := decide (e.fire.toNat ≤ (dieTide s (slotC d)).toNat)

/-- The dies that have yet to reach it. -/
def lateDies (s : State) (e : LEntry) (l : List Nat) : List Nat := l.filter fun d => decide ((dieTide s (slotC d)).toNat < e.fire.toNat)

theorem filter_not_due (s : State) (e : LEntry) (l : List Nat) :
    (l.filter fun d => !(l.filter (dieDue s e)).contains d) = lateDies s e l := by
  refine List.filter_congr fun d hd => ?_
  by_cases hdue : e.fire.toNat ≤ (dieTide s (slotC d)).toNat
  · simp [dieDue, hd, hdue]
  · simp [dieDue, hdue, Nat.lt_of_not_le hdue]

/-- From `s` to `t` the due dies of the set have started the voyage `v`. -/
structure Fired (s t : State) (set : Nat) (v : Voyage) (entry : Nat) : Prop where
  voyage  : voyageGet t set = some { v with waiting := lateDies s v.entry v.waiting }
  started : ∀ c ∈ setCores s set, dieDue s v.entry c.die.val = true →
    coreGet t c = startCore v.entry.arg entry ∧ Launched v.entry t c
  others  : ∀ c, dieDue s v.entry c.die.val = false → coreGet t c = coreGet s c
  frame   : ∃ x y, t = { s with cores := x, launch := { s.launch with run := y } }

/-- The cores of a set whose dies start, with their ranks. -/
theorem mem_zipIdx_due {s : State} {set : Nat} {v : Voyage} (hw : v.waiting = setDies s set) {c : CoreId} (hc : c ∈ setCores s set)
    (hd : dieDue s v.entry c.die.val = true) :
    ∃ n, (c, n) ∈ (setCores s set).zipIdx.filter fun x => (v.waiting.filter (dieDue s v.entry)).contains x.1.c := by
  obtain ⟨n, hn⟩ := List.mem_iff_getElem?.1 hc
  have hdie : c.c ∈ setDies s set := List.mem_dedup.2 (List.mem_map_of_mem hc)
  refine ⟨n, List.mem_filter.2 ⟨List.mk_mem_zipIdx_iff_getElem?.2 hn, ?_⟩⟩
  rw [List.contains_iff_mem, List.mem_filter, hw]
  exact ⟨hdie, hd⟩

theorem Inv.fired_fireVoyage {s : State} (h : Inv s) {set : Nat} {v : Voyage} (hv : voyageGet s set = some v)
    (hw : v.waiting = setDies s set) {r : VoyageRec} (hr : voyRec s v.voyage.toNat set = some r) :
    Fired s (fireVoyage s set v) set v r.entry := by
  have hlate := filter_not_due s v.entry v.waiting
  have hstart := fun c (hc : c ∈ setCores s set) hd => mem_zipIdx_due hw hc hd
  by_cases he : v.waiting.filter (dieDue s v.entry) = []
  · have hstay : fireVoyage s set v = s := if_pos (List.isEmpty_iff.2 he)
    have hall : lateDies s v.entry v.waiting = v.waiting := by rw [← hlate, he]; simp
    rw [hstay]
    refine ⟨by rw [hv, hall], fun c hc hd => ?_, fun _ _ => rfl, _, _, rfl⟩
    obtain ⟨n, hn⟩ := hstart c hc hd
    simp [he] at hn
  · have hgo : fireVoyage s set v = startCores
        (Machine.voyageMod s set fun x => { x with waiting := x.waiting.filter fun d => !(v.waiting.filter (dieDue s v.entry)).contains d })
        v.entry r.entry (setCores s set).length
        ((setCores s set).zipIdx.filter fun x => (v.waiting.filter (dieDue s v.entry)).contains x.1.c) := by
      have hne : ¬ (v.waiting.filter (dieDue s v.entry)).isEmpty = true := mt List.isEmpty_iff.1 he
      unfold dieDue at hne
      simp only [fireVoyage, if_neg hne, hr]
      rfl
    rw [hgo]
    generalize hu : (Machine.voyageMod s set fun x => _) = u
    have hinv : Inv u := hu ▸ h.voyageMod ..
    obtain ⟨x, hx⟩ := startCores_frame v.entry r.entry (setCores s set).length u
      ((setCores s set).zipIdx.filter fun x => (v.waiting.filter (dieDue s v.entry)).contains x.1.c)
    refine ⟨?_, fun c hc hd => ?_, fun c hd => ?_, ?_⟩
    · have hmod : voyageGet u set = some { v with waiting := lateDies s v.entry v.waiting } := by
        rw [← hu, h.voyageGet_voyageMod, if_pos rfl, hv, ← hlate]
        rfl
      rw [hx]
      exact hmod
    · obtain ⟨n, hn⟩ := hstart c hc hd
      exact ⟨coreGet_startCores_of_mem _ _ _ _ hn, hinv.launched_startCores _ _ _ hn⟩
    · rw [coreGet_startCores_of_not_mem, ← hu]
      · rfl
      · rintro ⟨c', n⟩ hm rfl
        have hdue := (List.mem_filter.1 (List.contains_iff_mem.1 (List.mem_filter.1 hm).2)).2
        exact Bool.false_ne_true (hd.symm.trans hdue)
    · rw [hx, ← hu]
      exact ⟨_, _, rfl⟩

/-! ## Leaving the table -/

/-- From `s` to `t` registers alone have changed. -/
def RegsOnly (s t : State) : Prop := t = { s with regs := t.regs }

theorem RegsOnly.trans {s t u : State} (h : RegsOnly s t) (g : RegsOnly t u) : RegsOnly s u := Eq.trans g (by rw [h])

section
variable (s : State) (i : Nat) (e : LEntry)

theorem regsOnly_cntAdd (off n : Nat) : RegsOnly s (cntAdd s off n) := rfl
theorem regsOnly_cntAdd64 (off n : Nat) : RegsOnly s (cntAdd64 s off n) := rfl
theorem regsOnly_logCapture64 (off : Nat) (lo hi : Word) : RegsOnly s (logCapture64 s off lo hi) := by
  unfold logCapture64
  split <;> rfl

theorem regsOnly_countLate : RegsOnly s (countLate s i e) := by
  unfold countLate
  split
  · rfl
  · exact ((regsOnly_cntAdd ..).trans (regsOnly_cntAdd64 ..)).trans (regsOnly_logCapture64 ..)

theorem countLate_of_not_late (h : e.fire.toNat ≤ e.time.toNat) : countLate s i e = s := if_pos h

theorem rget_logCapture64_ne {off x : Nat} (lo hi : Word) (h : x ≠ off) (h' : x ≠ off + 4) :
    rget (logCapture64 s off lo hi) x = rget s x := by
  unfold logCapture64
  split
  · rw [rget_rset_ne _ _ h', rget_rset_ne _ _ h]
  · rfl

theorem rget_cntAdd64_ne {off x : Nat} (n : Nat) (h : x ≠ off) (h' : x ≠ off + 4) : rget (cntAdd64 s off n) x = rget s x := by
  rw [cntAdd64, rset64, rget_rset_ne _ _ h', rget_rset_ne _ _ h]

/-- The registers it writes are those of the tide block. -/
theorem rget_countLate {x : Nat} (hx : 0x8000 ≤ x) : rget (countLate s i e) x = rget s x := by
  have hne : ∀ o < 0x4000, x ≠ blkTD.reg o := fun o ho => by simp only [Blk.reg, blkTD]; omega
  unfold countLate
  split
  · rfl
  · rw [rget_logCapture64_ne _ _ _ (hne _ (by omega)) (hne 0x03C (by omega)),
      rget_cntAdd64_ne _ _ (hne _ (by omega)) (hne 0x034 (by omega)), rget_cntAdd_ne _ _ (hne _ (by omega))]

theorem coreGet_countLate (c : CoreId) : coreGet (countLate s i e) c = coreGet s c := by
  have hmap := rget_countLate s i e (x := (blkPR c.c c.p).reg 0x010) ((by decide : 0x8000 ≤ 0x18000).trans (hubRecords_lt_blkPR ..))
  rw [coreGet, coreKey_congr hmap, regsOnly_countLate s i e]
  rfl

end

section
variable {s : State} (h : Inv s)
include h

theorem Inv.countLate (i : Nat) (e : LEntry) : Inv (countLate s i e) := by
  have h1 := (h.cntAdd (blkTD.reg 0x028) 1).cntAdd64 (blkTD.reg 0x030) (e.fire.toNat - e.time.toNat)
  exact Inv.ite (h1.logCapture64 ..) h

theorem Inv.entryGet_entrySet_self (i : Nat) (e : LEntry) : entryGet (Machine.entrySet s i e) i = e :=
  tget_tset_self _ _ _ ((inv_iff s).1 h).launch.1

end

/-- The entry has left the table, and is counted where it is late. -/
def leaveTable (s : State) (i : Nat) : State := countLate (entrySet s i {}) i (entryGet s i)

theorem leaveTable_frame (s : State) (i : Nat) : ∃ r,
    leaveTable s i = { s with launch := { s.launch with table := tset s.launch.table i {} {} }, regs := r } ∧
    ((entryGet s i).fire.toNat ≤ (entryGet s i).time.toNat → r = s.regs) := by
  refine ⟨_, regsOnly_countLate (entrySet s i {}) i (entryGet s i), fun h => ?_⟩
  rw [countLate_of_not_late _ _ _ h]
  rfl

theorem coreGet_leaveTable (s : State) (i : Nat) (c : CoreId) : coreGet (leaveTable s i) c = coreGet s c := coreGet_countLate ..

end Sys2Proof.Machine

namespace Sys2Proof.Claims

open Sys2Proof Sys2Proof.Machine

/-- A due entry whose set is free starts its voyage. -/
theorem exec_launchFire {index : Fin 4096} {s : State} (ha : (entryGet s index.val).st = .armed)
    (hd : fireDue s (entryGet s index.val) = true) (hn : noStart s (entryGet s index.val).set = 0) :
    let e := entryGet s index.val
    let v : Voyage := { voyage := e.voyage, index := index.val, entry := e, waiting := setDies s e.set }
    exec (.launchFire index) s = .next (fireVoyage (voyageSet (leaveTable s index.val) e.set (some v)) e.set v) := by
  obtain ⟨r, hr, -⟩ := leaveTable_frame s index.val
  have hn' : noStart (leaveTable s index.val) (entryGet s index.val).set = 0 := by rw [hr]; exact hn
  have hdies : setDies (leaveTable s index.val) (entryGet s index.val).set = setDies s (entryGet s index.val).set := by rw [hr]; rfl
  unfold leaveTable at hn' hdies ⊢
  simp only [exec, execLaunchFire, ha, hd, and_self, if_true, hn', hdies]

/-- Settles O25: the entry leaves the table, its voyage is entered with every die of the set waiting, and the due dies start it. -/
theorem launchFires : Obligations.LaunchFires := by
  intro index s r e reached harmed hdue hfree hrec hi
  have hd : fireDue s e = true := by
    simp only [fireDue, Bool.or_eq_true, decide_eq_true_eq, List.any_eq_true]
    exact hdue
  let v : Voyage := { voyage := e.voyage, index := index.val, entry := e, waiting := setDies s e.set }
  obtain ⟨regs, hleave, hregs⟩ := leaveTable_frame s index.val
  have hcore := coreGet_leaveTable s index.val
  have hinv : Inv (voyageSet (leaveTable s index.val) e.set (some v)) := ((hi.entrySet ..).countLate ..).voyageSet ..
  have hv : voyageGet (voyageSet (leaveTable s index.val) e.set (some v)) e.set = some v := tget_tset_of_ne _ _ (Option.some_ne_none v)
  have hfired := hinv.fired_fireVoyage hv (by rw [hleave]; rfl)
    (by rw [hleave]; exact hrec)
  obtain ⟨hvoyage, hstarted, hothers, x, y, hframe⟩ := hfired
  refine ⟨_, exec_launchFire harmed hd hfree, ?_, ?_, fun c hc => ⟨fun hr => ?_, fun hr => ?_⟩, ?_⟩
  · rw [hframe, hleave]
    exact congrArg LEntry.st (hi.entryGet_entrySet_self index.val {})
  · rw [hvoyage, hleave]
    rfl
  · refine hstarted c ?_ ?_
    · rw [hleave]; exact hc
    · rw [hleave]; exact decide_eq_true hr
  · rw [hothers c (by rw [hleave]; exact decide_eq_false hr)]
    exact hcore c
  · rw [hframe, hleave]
    exact ⟨rfl, rfl, rfl, hregs⟩

end Sys2Proof.Claims
end

section
/-! Loads and stores, the fetch of a bundle, and the bollard instructions (R84, R97, R99, R100). -/

namespace Sys2Proof.Claims

open Sys2Proof Sys2Proof.Machine

section
variable {s s1 : State} {c : CoreId} {i : Instr} {b : Bundle}

/-! ## Loads and stores -/

/-- Loads of slot 0. -/
theorem loadOp_of_ready (h : Ready s c 0 i b s1) (d a : Reg) (imm : Word) (n : Nat) (hi : ∀ k, memAddr k i = eaOf k a imm) :
    let k := coreGet s1 c
    let ea := eaOf k a imm
    let mark := parcelPoison s1 ea
    loadOp c i d a n s = .next (retired s1 c b 0
      (.sreg d (BitVec.ofNat 64 (s1.mem.bytes.readNat ea n)) (mark || k.sp a) :: (consumeWrites mark ++ useWrites (k.sp a)))) := by
  simp only [loadOp, slotPure_of_ready h, coreGet_seen, hi]
  rfl

/-- Stores of slot 0. -/
theorem storeOp_of_ready (h : Ready s c 0 i b s1) (a r : Reg) (imm : Word) (n : Nat) (hi : ∀ k, memAddr k i = eaOf k a imm) :
    let k := coreGet s1 c
    storeOp c i a r n s = .next (retired s1 c b 0
      (.store (eaOf k a imm) n ((k.s r).toNat % 2 ^ (8 * n)) (k.sp a || k.sp r) :: useWrites (k.sp a))) := by
  simp only [storeOp, slotPure_of_ready h, coreGet_seen, hi]
  rfl

end

/-- Settles O9: all six form their address by `eaOf`; the loads carry the mark of the parcel, the stores the poison of sB or vD. -/
theorem loadsAndStores : Obligations.LoadsAndStores := by
  intro c d a r imm s s1 b k ea mark
  refine ⟨fun h => ?_, fun h => ?_, fun h => ?_, fun h => ?_, fun h => ?_, fun h => ?_⟩
  · exact loadOp_of_ready h d a imm 8 fun _ => rfl
  · exact loadOp_of_ready h d a imm 4 fun _ => rfl
  · refine (storeOp_of_ready h a r imm 8 fun _ => rfl).trans ?_
    rw [Nat.mod_eq_of_lt (((coreGet s1 c).s r).isLt)]
  · exact storeOp_of_ready h a r imm 4 fun _ => rfl
  · have hi : ∀ k, memAddr k (.vld c d a imm) = eaOf k a imm := fun _ => rfl
    simp only [exec, execVld, slotPure_of_ready h, coreGet_seen, hi]
    rfl
  · have hi : ∀ k, memAddr k (.vst c d a imm) = eaOf k a imm := fun _ => rfl
    simp only [exec, execVst, slotPure_of_ready h, coreGet_seen, hi]
    rfl

/-! ## Fetch -/

/-- Settles O11: the line is brought, decoded, and held as the new bundle; no tug's fault is taken. -/
theorem fetchBringsTheBundle : Obligations.FetchBringsTheBundle := by
  intro c upset s u d i0 i1 k hrun hcur hpc hline hhits hdecode
  have hrange : ¬ maxBundle < k.pc := Nat.not_lt.2 hpc
  have hgo : k.run = .running ∧ k.cur = none := ⟨hrun, hcur⟩
  have hstep : exec (.instructionFetch c upset) s =
      .next (takeTugHit (coreMod u c fun x => { x with cur := some (newBundle k.pc (i0, i1)) }) c) := by
    simp only [exec, execInstructionFetch]
    rw [if_pos hgo, if_neg hrange, hline]
    simp only [field]
    rw [hdecode]
  exact hstep.trans (congrArg Host.Outcome.next (takeTugHit_of_none hhits))

/-! ## Bollards -/

theorem bollOf_eq (k : CoreSt) (a : Reg) (imm : Word) : bollOf k a imm = bollardOf k a imm := by
  rw [bollOf, bollardOf, toNat_field_zero, show 2 ^ 14 = 16384 from rfl]

/-- The member that a BSIG names. -/
theorem toNat_field_member (imm : Word) : (field imm 14 4).toNat = imm.toNat / 16384 % 16 := by
  simp [field, BitVec.extractLsb'_toNat, Nat.shiftRight_eq_div_pow]

/-- Settles O13: the hub is reached, so a signal and a read retire at once, and a wait takes the core's free watch slot. -/
theorem bollardInstructions : Obligations.BollardInstructions := by
  intro c d a r imm s s1 b hreach k n
  have hhub : hubReach (seen s1 c b) c = true := hreach
  refine ⟨fun h => ?_, fun h => ?_, fun h hwatch hpa hpr => ?_⟩
  · refine congrArg Host.Outcome.next ((slotRun_of_ready h ?_).trans (finishSlot_seen h.other _))
    simp only [hhub, if_true, coreGet_seen, bollOf_eq, toNat_field_member]
    rfl
  · refine congrArg Host.Outcome.next ((slotRun_of_ready h ?_).trans (finishSlot_seen h.other _))
    simp only [hhub, if_true, coreGet_seen, bollOf_eq]
    rfl
  · refine congrArg Host.Outcome.next (slotRun_of_stall h ?_)
    have hw : (watchGet (seen s1 c b) (.core c)).isSome = false := by
      rw [Option.isSome_eq_false_iff, Option.isNone_iff_eq_none]; exact hwatch
    have hp : ((coreGet (seen s1 c b) c).sp a || (coreGet (seen s1 c b) c).sp r) = false := by
      rw [coreGet_seen, Bool.or_eq_false_iff]; exact ⟨hpa, hpr⟩
    simp only [hhub, hw, hp, Bool.false_eq_true, Bool.true_eq_false, if_false, bollOf_eq]
    rw [coreGet_seen]
    rfl

end Sys2Proof.Claims
end

section
/-! SUPPORT. Digits of numbers and lanes of values: the elements and scales of a tile (R35–R41, R103). -/

namespace Sys2Proof.Machine

/-- A digit of a part of a number is a digit of the number. -/
theorem div_mod_digit (x a n b i : Nat) (h : b * (i + 1) ≤ n) :
    x / 2 ^ a % 2 ^ n / 2 ^ (b * i) % 2 ^ b = x / 2 ^ (a + b * i) % 2 ^ b := by
  have hsplit : n = b * i + (n - b * i) := by rw [Nat.mul_succ] at h; omega
  have hle : b ≤ n - b * i := by rw [Nat.mul_succ] at h; omega
  rw [hsplit, Nat.pow_add, Nat.mod_mul_right_div_self, Nat.div_div_eq_div_mul, ← Nat.pow_add,
    Nat.mod_mod_of_dvd _ (Nat.pow_dvd_pow 2 hle)]

/-! ## Lanes side by side -/

/-- A joined lane is read back. -/
theorem joinLanes_lane (w : Nat) {l : List Nat} {i x : Nat} (h : l[i]? = some x) :
    joinLanes w l / 2 ^ (8 * w * i) % 2 ^ (8 * w) = x % 2 ^ (8 * w) := by
  induction l generalizing i with
  | nil => simp at h
  | cons y r ih =>
    have hpos : 0 < 2 ^ (8 * w) := Nat.two_pow_pos _
    cases i with
    | zero =>
      rw [List.getElem?_cons_zero, Option.some_inj] at h
      rw [joinLanes, Nat.mul_zero, Nat.pow_zero, Nat.div_one, Nat.add_mul_mod_self_left, Nat.mod_mod, h]
    | succ i =>
      rw [List.getElem?_cons_succ] at h
      rw [joinLanes, Nat.mul_succ, Nat.add_comm (8 * w * i), Nat.pow_add, ← Nat.div_div_eq_div_mul, Nat.add_mul_div_left _ _ hpos,
        Nat.div_eq_of_lt (Nat.mod_lt _ hpos), Nat.zero_add, ih h]

/-- A joined lane is read back from a value that holds all lanes. -/
theorem lane_ofNat_joinLanes (w : Nat) {n : Nat} {l : List Nat} {i x : Nat} (h : l[i]? = some x) (hn : 8 * w * (i + 1) ≤ n)
    (hx : x < 2 ^ (8 * w)) : (BitVec.ofNat n (joinLanes w l)).toNat / 2 ^ (8 * w * i) % 2 ^ (8 * w) = x := by
  have hd := div_mod_digit (joinLanes w l) 0 n (8 * w) i hn
  rw [Nat.pow_zero, Nat.div_one, Nat.zero_add] at hd
  rw [BitVec.toNat_ofNat, hd, joinLanes_lane w h, Nat.mod_eq_of_lt hx]

/-- The elements of equal rows, one after another. -/
theorem getElem?_flatMap_rows {f : Nat → List Nat} {m : Nat} (hf : ∀ n, (f n).length = m) {rows n k : Nat} (hn : n < rows)
    (hk : k < m) : ((List.range rows).flatMap f)[m * n + k]? = (f n)[k]? := by
  induction rows with
  | zero => omega
  | succ r ih =>
    have hlen : ((List.range r).flatMap f).length = m * r := by
      simp [List.length_flatMap, hf, Nat.mul_comm]
    rw [List.range_succ, List.flatMap_append, List.flatMap_singleton]
    rcases Nat.lt_succ_iff_lt_or_eq.1 hn with hlt | rfl
    · have hin : m * n + k < m * r := by
        calc m * n + k < m * n + m := by omega
          _ = m * (n + 1) := (Nat.mul_succ m n).symm
          _ ≤ m * r := Nat.mul_le_mul_left m hlt
      rw [List.getElem?_append_left (by rwa [hlen]), ih hlt]
    · rw [List.getElem?_append_right (by rw [hlen]; omega), hlen, Nat.add_sub_cancel_left]

/-! ## A tile -/

/-- The bits of an element of a stored tile: 2 of a Q2 index, 4, 8 or 16 of a code (R103). -/
def tileBits (f : Fmt) : Nat := if f = fmtQ2 then 2 else if f = fmtF4 then 4 else if f = fmtBF16 then 16 else 8

theorem colBytes_eq (f : Fmt) : 8 * colBytes f = 32 * tileBits f := by revert f; decide

theorem length_columnCodes (f : Fmt) (levels : BitVec 256) (data scale n : Nat) : (columnCodes f levels data scale n).length = 32 := by
  simp only [columnCodes, decodeQ2, elems]
  split <;> simp

/-- Element `k` of a stored column `n`. -/
theorem column_digit (f : Fmt) (data : Nat) {n k : Nat} (hk : k < 32) :
    data / 256 ^ (colBytes f * n) % 256 ^ colBytes f / 2 ^ (tileBits f * k) % 2 ^ tileBits f =
      data / 2 ^ (tileBits f * (32 * n + k)) % 2 ^ tileBits f := by
  have hpow : ∀ x, 256 ^ x = 2 ^ (8 * x) := fun x => by rw [Nat.pow_mul]
  have hb := colBytes_eq f
  rw [hpow, hpow, ← Nat.mul_assoc, hb, div_mod_digit _ _ _ _ _ (by rw [Nat.mul_comm 32]; exact Nat.mul_le_mul_left _ hk)]
  congr 3
  rw [Nat.mul_add, Nat.mul_comm 32, Nat.mul_assoc]

/-- The code that the array takes for element `k` of column `n`: a stored element, or the level that a Q2 index selects (R38–R41). -/
def tileCode (f : Fmt) (levels : BitVec 256) (data sc n k : Nat) : Nat :=
  if f = fmtQ2 then levels.toNat / 16 ^ (4 * (sc / 16 ^ (2 * (2 * n + 1) + k / 16) % 16) + data / 4 ^ (32 * n + k) % 4) % 16
  else data / 2 ^ (tileBits f * (32 * n + k)) % 2 ^ tileBits f

theorem tileCode_lt (f : Fmt) (levels : BitVec 256) (data sc n k : Nat) : tileCode f levels data sc n k < 2 ^ 16 := by
  have hbits : tileBits f ≤ 16 := by revert f; decide
  unfold tileCode
  split
  · exact (Nat.mod_lt _ (by decide)).trans (by decide)
  · exact (Nat.mod_lt _ (Nat.two_pow_pos _)).trans_le (Nat.pow_le_pow_right Nat.two_pos hbits)

/-- The half of the selector byte that chooses the level table of an element (R40). -/
theorem selector_digit (sc n : Nat) {k : Nat} (hk : k < 32) :
    (if k < 16 then sc / 256 ^ (2 * n + 1) % 256 % 16 else sc / 256 ^ (2 * n + 1) % 256 / 16 % 16) =
      sc / 16 ^ (2 * (2 * n + 1) + k / 16) % 16 := by
  have hd : ∀ i ≤ 1, sc / 256 ^ (2 * n + 1) % 256 / 16 ^ i % 16 = sc / 16 ^ (2 * (2 * n + 1) + i) % 16 := by
    intro i hi
    have h := div_mod_digit sc (4 * (2 * (2 * n + 1))) 8 4 i (by omega)
    rwa [← Nat.mul_add, Nat.pow_mul 2 4 (_ + i), Nat.pow_mul 2 4 i, ← Nat.mul_assoc, Nat.pow_mul 2 (4 * 2)] at h
  split
  · rename_i hlow
    rw [Nat.div_eq_of_lt hlow, ← hd 0 (by omega), Nat.pow_zero, Nat.div_one]
  · rename_i hhigh
    rw [show k / 16 = 1 by omega, ← hd 1 le_rfl, Nat.pow_one]

theorem getElem?_elems {f : Fmt} (hf : f ≠ fmtQ2) (x : Nat) {k : Nat} (hk : k < 32) :
    (elems f x)[k]? = some (x / 2 ^ (tileBits f * k) % 2 ^ tileBits f) := by
  have hbits : (if f == fmtF4 || f == fmtQ2 then 4 else if f == fmtBF16 then 16 else 8) = tileBits f := by
    revert f; decide
  simp only [elems, List.getElem?_map, List.getElem?_range hk, Option.map_some, hbits]

theorem getElem?_columnCodes (f : Fmt) (levels : BitVec 256) (data sc n : Nat) {k : Nat} (hk : k < 32) :
    (columnCodes f levels data sc n)[k]? = some (tileCode f levels data sc n k) := by
  have hdigit := column_digit f data (n := n) hk
  by_cases hq : f = fmtQ2
  · subst hq
    have hidx : data / 256 ^ (colBytes fmtQ2 * n) % 256 ^ colBytes fmtQ2 / 4 ^ k % 4 = data / 4 ^ (32 * n + k) % 4 := by
      simpa only [tileBits, if_true, Nat.pow_mul, show 2 ^ 2 = 4 from rfl] using hdigit
    simp only [columnCodes, beq_self_eq_true, if_true, decodeQ2, levelOf, List.getElem?_map, List.getElem?_range hk, Option.map_some,
      hidx, selector_digit sc n hk, tileCode]
  · have hne : (f == fmtQ2) = false := beq_eq_false_iff_ne.2 hq
    simp only [columnCodes, hne, Bool.false_eq_true, if_false, tileCode, if_neg hq]
    rw [getElem?_elems hq _ hk, hdigit]

section
variable (f : Fmt) (levels : BitVec 256) (data : Nat) (scale : Option Nat) (p : Bool) {n k : Nat} (hn : n < 32)
include hn

/-- The elements of a formatted tile. -/
theorem column_formatTile (hk : k < 32) : ((formatTile f levels data scale p).column n).getD k 0 =
    tileCode f levels data (scale.getD 0) n k := by
  have hlane : ((List.range 32).flatMap fun n => columnCodes f levels data (scale.getD 0) n)[32 * n + k]? =
      some (tileCode f levels data (scale.getD 0) n k) := by
    rw [getElem?_flatMap_rows (length_columnCodes f levels data (scale.getD 0)) hn hk, getElem?_columnCodes _ _ _ _ _ hk]
  have h := lane_ofNat_joinLanes 2 (n := 16384) hlane (by omega) (tileCode_lt ..)
  rw [List.getD_eq_getElem?_getD, WBuf.column, List.getElem?_map, List.getElem?_range hk]
  exact h

/-- The scales of a formatted tile. -/
theorem scales_formatTile : (formatTile f levels data scale p).scales.toNat / 256 ^ n % 256 = columnScale f scale n := by
  have hlane : ((List.range 32).map (columnScale f scale))[n]? = some (columnScale f scale n) := by
    rw [List.getElem?_map, List.getElem?_range hn]; rfl
  have hlt : columnScale f scale n < 2 ^ (8 * 1) := by
    unfold columnScale
    split
    · decide
    · exact Nat.mod_lt _ (by decide)
  have h := lane_ofNat_joinLanes 1 (n := 256) hlane (by omega) hlt
  rwa [Nat.pow_mul] at h

end

end Sys2Proof.Machine
end

section
/-! The commands of the matrix queues (R63, R90, R103–R105). -/

namespace Sys2Proof.Claims

open Sys2Proof Sys2Proof.Machine

/-- No entry of the other queue that names the buffer is older. -/
theorem any_older_eq_false {α : Type} {l : List α} {buf : α → Fin 2} {seq : α → Nat} {b : Fin 2} {n : Nat}
    (h : ∀ x ∈ l, buf x = b → n ≤ seq x) : (l.any fun x => buf x == b && decide (seq x < n)) = false := by
  rw [List.any_eq_false]
  intro x hx hc
  simp only [Bool.and_eq_true, beq_iff_eq, decide_eq_true_eq] at hc
  exact Nat.not_lt.2 (h x hx hc.1) hc.2

theorem scaleBytes_eq (f : Fmt) : scaleBytes f = if f = fmtQ2 then 64 else 32 := by
  simp only [scaleBytes, beq_iff_eq]

/-- An MMA whose buffer and, unless it starts afresh, whose accumulator rows have sound parity. -/
theorem mmaParity_eq_none {k : CoreSt} {e : MmaEntry}
    (h : ∀ b ∈ k.badPar, b.reg ≠ .weight e.buf ∧ (e.fresh = true ∨ accBit e.acc (e.firstRow * 32) (e.rows * 32) b = false)) :
    mmaParity k e = none := by
  have hbuf : (k.badPar.any fun b => b.reg == .weight e.buf) = false := by
    rw [List.any_eq_false]
    exact fun b hb hc => (h b hb).1 (eq_of_beq hc)
  have hacc : (!e.fresh && k.badPar.any (accBit e.acc (e.firstRow * 32) (e.rows * 32))) = false := by
    cases hf : e.fresh
    · rw [Bool.not_false, Bool.true_and, List.any_eq_false]
      intro b hb
      rcases (h b hb).2 with hfresh | hread
      · exact absurd (hf.symm.trans hfresh) Bool.false_ne_true
      · rw [hread]; exact Bool.false_ne_true
    · rfl
  simp only [mmaParity, hbuf, hacc, Bool.false_eq_true, if_false]

/-- Settles O16: the queues' conditions hold, a tile is read back digit by digit, and a completed accumulator changes one bit. -/
theorem matrixQueues : Obligations.MatrixQueues := by
  refine ⟨?_, ?_, ?_, ?_⟩
  · intro c s t e rest seen k data scales hwq hold hfeed
    have hwq' : (coreGet s c).wq = e :: rest := hwq
    have hold' := any_older_eq_false (buf := MmaEntry.buf) (seq := MmaEntry.seq) hold
    simp only [exec, execWeightLoadStart, hwq']
    rw [hold']
    simp only [Bool.false_eq_true, if_false, scaleBytes_eq]
    cases hscale : e.scale
    all_goals
      simp only [hscale] at hfeed
      rw [hfeed]
      rfl
  · intro f levels data scale p n k hn hk
    refine ⟨rfl, rfl, (column_formatTile f levels data scale p hn hk).trans ?_, (scales_formatTile f levels data scale p hn).trans ?_⟩
    · by_cases hq : f = fmtQ2
      · simp only [tileCode, if_pos hq]
      · simp only [tileCode, tileBits, if_neg hq]
    · cases scale
      · rfl
      · simp only [columnScale, beq_iff_eq]
  · intro c waited upset s t e rest seen k read haq hold hpar hfeed
    have hold' := any_older_eq_false (buf := WldEntry.buf) (seq := WldEntry.seq) hold
    have hpar' := mmaParity_eq_none hpar
    simp only [exec, execArrayPassStart, haq]
    rw [hold', hpar', hfeed]
    rfl
  · intro c acc s h
    have hget : coreGet (coreMod s c fun k => { k with accPending := setBit k.accPending acc.val false }) c =
        { coreGet s c with accPending := setBit (coreGet s c).accPending acc.val false } := h.coreGet_coreSet_self c _
    refine ⟨_, rfl, fun x => ?_, ?_, rfl, rfl⟩
    · rw [hget, getLsbD_setBit _ _ _ _ x.isLt]
      by_cases hx : x = acc
      · simp [hx]
      · rw [if_neg (mt Fin.ext hx)]
        simp [hx]
    · rw [hget]

end Sys2Proof.Claims
end

section
/-! Fire times (R126, R127, R145). -/

namespace Sys2Proof.Machine

/-- A fire time that a forced window takes lies before the window's end. -/
theorem lt_forcedEndOf_of_deferred {s : State} {f : Nat} (h : deferred s f = true) : f < forcedEndOf s := by
  unfold deferred at h
  unfold forcedEndOf
  cases hw : s.slack.forced with
  | none => simp only [hw, Bool.false_eq_true] at h
  | some w =>
    simp only [hw, decide_eq_true_eq] at h
    exact h.2

/-- The fire time that the lead, TIME and the spacing allow. -/
def earliestFire (s : State) (e : LEntry) : Nat := max (s.tide.hub.toNat + lead) (max e.time.toNat (afterLast s))

/-- A reached entry fires as early as it may: behind the forced window where it is pushed there, else outside of it. -/
theorem reach_eq_some {s : State} {e : LEntry} {f cause : Nat} (h : reach s e = some (f, cause)) :
    (f = max (forcedEndOf s) (earliestFire s e) ∧ cause = 4) ∨
    (f = earliestFire s e ∧ deferred s f = false ∧ (cause = 0 → f ≤ e.time.toNat)) := by
  simp only [reach] at h
  unfold earliestFire
  by_cases hp : pushed s e = true
  · simp only [hp, if_true] at h
    split at h
    · cases h
    · cases h
      exact .inl ⟨by omega, rfl⟩
  simp only [hp, Bool.false_eq_true, if_false] at h
  split at h
  · cases h
  -- late or not, the time before the window is looked at is the earliest one
  have hf : (if max e.time.toNat (afterLast s) < s.tide.hub.toNat + lead then max (s.tide.hub.toNat + lead) (afterLast s)
      else max e.time.toNat (afterLast s)) = max (s.tide.hub.toNat + lead) (max e.time.toNat (afterLast s)) := by
    split <;> omega
  rw [hf] at h
  generalize hg : max (s.tide.hub.toNat + lead) (max e.time.toNat (afterLast s)) = g at h ⊢
  split at h
  · rename_i hd
    -- the window's end lies beyond the lead, so that the entry still waits
    have hend := lt_forcedEndOf_of_deferred hd
    rw [if_pos (by omega)] at h
    cases h
  · rename_i hd
    simp only [Option.some.injEq, Prod.mk.injEq] at h
    obtain ⟨rfl, hc⟩ := h
    refine .inr ⟨rfl, Bool.eq_false_iff.2 hd, fun h0 => ?_⟩
    rw [h0] at hc
    by_contra hlt
    rw [if_neg hlt] at hc
    obtain ⟨-, hc⟩ | ⟨-, hc⟩ := ite_eq_iff.1 hc <;> omega

theorem afterLast_of_some {s : State} {x : Dword} (h : s.launch.lastF = some x) : afterLast s = x.toNat + 8 := by
  simp only [afterLast, h, spacing]

end Sys2Proof.Machine

namespace Sys2Proof.Claims

open Sys2Proof Sys2Proof.Machine

/-- Settles O23: the fire time is the earliest one, or the end of the forced window where that is later. -/
theorem fireTimes : Obligations.FireTimes := by
  intro s e f cause h
  have hlead : s.tide.hub.toNat + 256 ≤ earliestFire s e := le_max_left ..
  have htime : e.time.toNat ≤ earliestFire s e := (le_max_left ..).trans (le_max_right ..)
  have hlast : afterLast s ≤ earliestFire s e := (le_max_right ..).trans (le_max_right ..)
  have hf : earliestFire s e ≤ f := by
    obtain ⟨rfl, -⟩ | ⟨rfl, -⟩ := reach_eq_some h
    · exact le_max_right ..
    · exact le_rfl
  refine ⟨htime.trans hf, hlead.trans hf, fun x hx => ?_, fun h0 => ?_, fun w hw hin => ?_⟩
  · rw [afterLast_of_some hx] at hlast
    exact hlast.trans hf
  · obtain ⟨-, h4⟩ | ⟨-, -, h0'⟩ := reach_eq_some h
    · omega
    · exact le_antisymm (h0' h0) (htime.trans hf)
  · obtain ⟨hmax, -⟩ | ⟨-, hd, -⟩ := reach_eq_some h
    · have hend : forcedEndOf s = w.toNat := by simp only [forcedEndOf, hw]
      omega
    · simp only [deferred, hw, decide_eq_false_iff_not] at hd
      omega

end Sys2Proof.Claims
end

section
/-! Bollards (R135, R136, R138, R141). -/

namespace Sys2Proof.Machine

/-- A table whose entries change through a function reads through it. -/
theorem tget_map {β γ : Type} (m : Tbl β) (k : Nat) (d : β) (g : β → γ) :
    tget (m.map fun e => (e.1, g e.2)) k (g d) = g (tget m k d) := by
  induction m with
  | nil => rfl
  | cons e r ih =>
    simp only [List.map_cons, tget, ih]
    split <;> rfl

theorem atLeast_iff (v t : Word) : atLeast v t = true ↔ (v - t).toNat < 2 ^ 31 := decide_eq_true_iff

/-- A watch slot after bollard `b` has been compared at the value `v` (R138). -/
def Watch.compared (x : Watch) (now b : Nat) (v : Word) : Watch :=
  if x.boll = b ∧ x.hit = none ∧ atLeast v x.target = true then { x with hit := some (BitVec.ofNat 64 now) } else x

theorem watchGet_watchHits (s : State) (b : Nat) (w : Waiter) :
    watchGet (watchHits s b) w = (watchGet s w).map fun x => x.compared s.now b (bollGet s b) := by
  refine (tget_map s.boll.watch (watchKey w) none _).trans ?_
  simp only [watchGet, Watch.compared, Option.isNone_iff_eq_none]

theorem Inv.watchGet_bollSet {s : State} (h : Inv s) (b : Nat) (v : Word) (w : Waiter) :
    watchGet (Machine.bollSet s b v) w = (watchGet s w).map fun x => x.compared s.now b v := by
  have hv : bollGet { s with boll := { s.boll with val := tset s.boll.val b v 0 } } b = v := h.bollGet_bollSet_self b v
  unfold Machine.bollSet
  rw [watchGet_watchHits, hv]
  rfl

end Sys2Proof.Machine

namespace Sys2Proof.Claims

open Sys2Proof Sys2Proof.Machine

theorem atLeast_iff_sub_emod (v t : Word) : atLeast v t = true ↔ ((v.toNat : Int) - t.toNat) % 2 ^ 32 < 2 ^ 31 := by
  rw [atLeast_iff, BitVec.toNat_sub]
  have hv := v.isLt
  have ht := t.isLt
  omega

/-- Of two values less than 2^31 ahead of `v`, across a wrap too. -/
theorem atLeast_add_add_iff (v : Word) {d n : Nat} (hd : d < 2 ^ 31) (hn : n < 2 ^ 31) :
    atLeast (v + BitVec.ofNat 32 n) (v + BitVec.ofNat 32 d) = true ↔ d ≤ n := by
  rw [atLeast_iff_sub_emod, BitVec.toNat_add, BitVec.toNat_add, BitVec.toNat_ofNat, BitVec.toNat_ofNat]
  have hv := v.isLt
  omega

/-- Settles O58: the difference of the targets is that of the distances, and an addition compares the waiters at once. -/
theorem atLeastAcrossWrap : Obligations.AtLeastAcrossWrap := by
  refine ⟨atLeast_iff_sub_emod, by decide, by decide, fun v d n hd hn => atLeast_add_add_iff v hd hn, ?_⟩
  intro s b w x n h hw hb hx
  have hadd : watchGet (bollAdd s b n) w = some (x.compared s.now b (bollGet s b + n)) := by
    refine (h.watchGet_bollSet b (bollGet s b + n) w).trans ?_
    rw [hw, Option.map_some]
  rw [hadd, Watch.compared, Option.some.injEq]
  by_cases ha : atLeast (bollGet s b + n) x.target = true
  · simp only [hb, hx, ha, and_self, if_true]
  · rw [if_neg fun hc => ha hc.2.2]
    exact iff_of_false (fun he => Option.some_ne_none _ ((congrArg Watch.hit he).symm.trans hx)) ha

/-- What a released waiter does: a core goes on, and the slot at a tug's head has waited. -/
def releaseWaiter (s : State) : Waiter → State
  | .core c => releaseCore s c
  | .tug t => match headSlot s (TugId.key t) with
    | some y => setHead s (TugId.key t) { y with waited := true }
    | none => s

/-- A release later than 100 ns after the acceptance is counted and logged. -/
def countRelease (s : State) (x : Watch) (since : Dword) : State :=
  if since.toNat + 100 < s.now then logRecord (cntAdd s (blkBL.reg 0x020) 1) 0x0301 0 0 x.boll 0 0 else s

theorem bollardRelease_eq {w : Waiter} {s : State} {x : Watch} {since : Dword} (hw : watchGet s w = some x) (hx : x.hit = some since)
    (hg : inGap s = false) :
    exec (.bollardRelease w) s = .next (releaseWaiter (countRelease (watchSet s w none) x since) w) := by
  simp only [exec, execBollardRelease, hw, hg, hx, Bool.false_eq_true, if_false]
  cases w with
  | core c => rfl
  | tug t =>
    simp only [releaseWaiter, countRelease, TugId.key]
    generalize headSlot _ _ = y
    cases y <;> rfl

/-- A software write to a block that is not BUSY is accepted (R464). -/
theorem softWrite_of_not_busy {s : State} {b : Blk} (h : isBusy s b = false) (f : State → Result) : softWrite s b f = f (acceptWrite s b) :=
  if_neg (Bool.eq_false_iff.1 h)

/-- Settles O26: an addition stores the sum and compares the waiters at once; a release empties the watch slot; the host's writes are
accepted where BL is not BUSY. -/
theorem bollardCommands : Obligations.BollardCommands := by
  refine ⟨fun s b n h => ⟨h.bollGet_bollSet_self b _, fun x hx => bollGet_bollSet_ne s _ hx⟩, ?_, ?_, ?_, ?_⟩
  · intro s b v w x hw h
    rw [h.watchGet_bollSet, hw, Option.map_some, Watch.compared]
    simp only [atLeast_iff]
  · intro w s x since hw hx hg u
    rw [bollardRelease_eq hw hx hg]
    cases w <;> rfl
  · intro value s hup hb u
    simp only [exec, execBlHostAdd, hup, Bool.not_true, Bool.false_eq_true, if_false, softWrite_of_not_busy hb, toNat_field_zero]
    split <;> rfl
  · intro b value collides s hup hb
    simp only [exec, execBlValue, hup, Bool.not_true, Bool.false_eq_true, if_false, softWrite_of_not_busy hb]

end Sys2Proof.Claims
end

section
/-! Arming, forecasts, completion and cancelling of launches, and slack water (R20, R126–R131, R144–R146). -/

namespace Sys2Proof.Machine

/-! ## Registers and events -/

/-- A counter that is 0 after reset is read back advanced, in any state. -/
theorem rget_cntAdd_of_reset (s : State) {off n : Nat} (h : regReset off = 0) (hn : 0 < n) :
    rget (cntAdd s off n) off = BitVec.ofNat 32 (min ((rget s off).toNat + n) (2 ^ 32 - 1)) := by
  refine tget_tset_of_ne _ _ fun hv => ?_
  have h0 := congrArg BitVec.toNat (hv.trans h)
  rw [BitVec.toNat_ofNat, show (0 : Word).toNat = 0 from rfl] at h0
  omega

theorem Inv.rget_cntAdd {s : State} (h : Inv s) (off n : Nat) :
    rget (Machine.cntAdd s off n) off = BitVec.ofNat 32 (min ((rget s off).toNat + n) (2 ^ 32 - 1)) :=
  rget_rset_self off _ ((inv_iff s).1 h).regs

theorem sendEvent_of_room {s : State} (h : s.events.length < maxEvents) (cls : Nat) (data : BitVec 256) :
    sendEvent s cls data = { s with
      events := s.events ++ [{ cls := cls, lost := s.eventLost, time := s.tide.hub, data := data }], eventLost := false } := if_pos h

/-- An event counts in no register but the one for events lost. -/
theorem rget_sendEvent_ne (s : State) (cls : Nat) (data : BitVec 256) {x : Nat} (h : x ≠ blkPL.reg 0x074) :
    rget (sendEvent s cls data) x = rget s x := by
  unfold sendEvent
  split
  · rfl
  · exact rget_cntAdd_ne _ _ h

/-- The lowest field of an assembled value. -/
theorem toNat_field_fields {w n : Nat} (h : n ≤ w) (v : Nat) (r : List (Nat × Nat)) :
    (field (fields w ((n, v) :: r)) 0 n).toNat = v % 2 ^ n := by
  have hlow : v % 2 ^ n % 2 ^ w = v % 2 ^ n :=
    Nat.mod_eq_of_lt ((Nat.mod_lt v (Nat.two_pow_pos n)).trans_le (Nat.pow_le_pow_right Nat.two_pos h))
  rw [toNat_field_zero, fields, BitVec.toNat_or, BitVec.toNat_ofNat, BitVec.toNat_shiftLeft, Nat.or_mod_two_pow, hlow, Nat.mod_mod,
    Nat.mod_mod_of_dvd _ (Nat.pow_dvd_pow 2 h), Nat.shiftLeft_eq, Nat.mul_mod_left, Nat.or_zero]

/-! ## What arming changes -/

/-- From `s` to `t` launches, registers and cores alone have changed. -/
def ArmFrame (s t : State) : Prop := t = { s with launch := t.launch, regs := t.regs, cores := t.cores }

theorem ArmFrame.trans {s t u : State} (h : ArmFrame s t) (g : ArmFrame t u) : ArmFrame s u := Eq.trans g (by rw [h])

theorem ArmFrame.mem {s t : State} (h : ArmFrame s t) : t.mem = s.mem := by
  unfold ArmFrame at h
  rw [h]
theorem ArmFrame.boll {s t : State} (h : ArmFrame s t) : t.boll = s.boll := by
  unfold ArmFrame at h
  rw [h]
theorem ArmFrame.tide {s t : State} (h : ArmFrame s t) : t.tide = s.tide := by
  unfold ArmFrame at h
  rw [h]

theorem armFrame_entrySet (s : State) (i : Nat) (e : LEntry) : ArmFrame s (entrySet s i e) := rfl

theorem armFrame_foldl {α : Type} {f : State → α → State} (hf : ∀ t x, ArmFrame t (f t x)) (l : List α) (s : State) :
    ArmFrame s (l.foldl f s) := List.foldlRecOn (motive := ArmFrame s) l f rfl fun _ ht _ _ => ht.trans (hf ..)

/-- A forecast reaches the entry, the forecasts and the counters. -/
theorem sendForecast_frame (s : State) (i f : Nat) : ∃ steps live regs, sendForecast s i f = { s with
    regs := regs
    launch := { s.launch with
      table := tset s.launch.table i { entryGet s i with forecast := true } {}
      forecasts := { fire := BitVec.ofNat 64 f, steps := steps, engines := List.range 8, dies := setDies s (entryGet s i).set } :: live } } := by
  unfold sendForecast
  dsimp only
  split <;> exact ⟨_, _, _, rfl⟩

theorem armFrame_sendForecast (s : State) (i f : Nat) : ArmFrame s (sendForecast s i f) := by
  obtain ⟨steps, live, regs, h⟩ := sendForecast_frame s i f
  rw [h]
  rfl

theorem armFrame_abandonSlice (s : State) (c : CoreId) : ArmFrame s (abandonSlice s c) := by
  unfold abandonSlice
  dsimp only
  split
  · split <;> rfl
  · rfl

theorem armFrame_armEntry (s : State) (i f cause : Nat) : ArmFrame s (armEntry s i f cause) := by
  unfold armEntry
  extract_lets e u l v w
  have hv : ArmFrame s v := rfl
  have hw : ArmFrame s w := hv.trans (armFrame_foldl armFrame_abandonSlice ..)
  split
  · exact hw.trans (armFrame_sendForecast ..)
  · exact hw

theorem armFrame_armOne (s : State) : ArmFrame s (armOne s).1 := by
  unfold armOne
  split
  · rfl
  split
  · rfl
  split
  · rfl
  split
  · rfl
  · exact armFrame_armEntry ..

theorem armFrame_armDeferred (s : State) (n : Nat) : ArmFrame s (armDeferred s n) := by
  induction n generalizing s with
  | zero => rfl
  | succ n ih =>
    unfold armDeferred
    split
    · rfl
    split
    · exact (armFrame_armOne s).trans (ih _)
    · rfl

theorem armFrame_markDeferred (s : State) (w : Nat) : ArmFrame s (markDeferred s w) :=
  armFrame_foldl (fun t i => armFrame_entrySet t i _) _ s

/-- Noting a late entry moves the spacing that a window reckons with, forward. -/
theorem noteLate_eq (s : State) : ∃ n, s.launch.plain ≤ n ∧ noteLate s = { s with launch := { s.launch with plain := n } } := by
  unfold noteLate
  split
  · exact ⟨_, le_rfl, rfl⟩
  dsimp only
  split
  · exact ⟨_, le_max_left .., rfl⟩
  · exact ⟨_, le_rfl, rfl⟩

/-! ## Forecasts -/

/-- What a forecast counts: itself, and that it is short. -/
theorem Inv.rget_sendForecast {s : State} (h : Inv s) (i f : Nat) :
    let counted (off : Nat) := BitVec.ofNat 32 (min ((rget s off).toNat + 1) (2 ^ 32 - 1))
    let t := sendForecast s i f
    rget t (blkHM.reg 0x040) = counted (blkHM.reg 0x040) ∧
    rget t (blkHM.reg 0x044) = if f < s.tide.hub.toNat + 100000 then counted (blkHM.reg 0x044) else rget s (blkHM.reg 0x044) := by
  have hne : blkHM.reg 0x040 ≠ blkHM.reg 0x044 := by decide
  unfold sendForecast
  extract_lets counted e dies u live l v w t
  have hv : Inv v := (h.entrySet ..).withLaunch ((inv_iff u).1 (h.entrySet ..)).launch
  show rget (if f < s.tide.hub.toNat + 100000 then Machine.cntAdd w (blkHM.reg 0x044) 1 else w) _ = _ ∧
    rget (if f < s.tide.hub.toNat + 100000 then Machine.cntAdd w (blkHM.reg 0x044) 1 else w) _ = _
  have h40 : rget w (blkHM.reg 0x040) = counted (blkHM.reg 0x040) := hv.rget_cntAdd ..
  have h44 : rget w (blkHM.reg 0x044) = rget s (blkHM.reg 0x044) := rget_cntAdd_ne v 1 hne.symm
  split
  · rw [rget_cntAdd_ne _ _ hne, (hv.cntAdd _ _).rget_cntAdd, h44]
    exact ⟨h40, rfl⟩
  · exact ⟨h40, h44⟩

end Sys2Proof.Machine

namespace Sys2Proof.Claims

open Sys2Proof Sys2Proof.Machine

/-! ## The commands of launches -/

section
variable {s : State} {i f cause : Nat} {e : LEntry}

/-- A reached entry is held, waits, or is armed. -/
theorem armOne_of_reach (hf : firstEntry (entriesIn s .pending) = some (i, e)) (hr : reach s e = some (f, cause)) :
    armOne s =
      if (e.ctrl.getLsbD 2 || s.tm.level != 0) && (coreSetBusy s e.set || setHeld s e.set != []) then
        (cntAdd (entrySet s i { e with st := .held }) (blkTD.reg 0x02C) 1, true)
      else if armedFull s e.set then (s, false)
      else (armEntry s i f cause, true) := by
  have hne : (setHeld s e.set != []) = !(setHeld s e.set).isEmpty := by cases setHeld s e.set <;> rfl
  simp only [armOne, hf, hr, LEntry.hold, throttled, hne]
  rfl

theorem armLaunch_of_armOne {t : State} (hrun : s.hm.st = .running) (hgap : inGap s = false) (h : armOne (noteLate s) = (t, true)) :
    exec .armLaunch s = .next t := by
  simp only [exec, execArmLaunch, hrun, hgap, h, Bool.not_false, and_self, if_true]

theorem armLaunch_of_inGap (h : inGap s = true) : exec .armLaunch s = .next s :=
  if_neg fun hc => by simp only [h, Bool.not_true, Bool.false_eq_true, and_false] at hc

theorem voyageComplete_eq {set : Fin 4096} {v : Voyage} (hv : voyageGet s set.val = some v) (he : v.ending = none) (hh : v.halt = none)
    (hw : v.waiting = []) (hc : ∀ c ∈ setCores s set.val, (coreGet s c).run = .ended) (hd : setDrained s set.val = true) :
    exec (.voyageComplete set) s = .next (freeSet (
      let t := completionAdd (voyageSet s set.val none) v.entry
      if v.entry.ctrl.getLsbD 1 then voyageEvent t v.entry v.index (v.status 0) v.entry.slip else t) set.val) := by
  have hall : ((setCores s set.val).all fun c => (coreGet s c).run == .ended) = true := by simpa using hc
  have hdone : voyageDone s set.val v = true := by
    rw [voyageDone, he, hh, hw, hall, hd]
    rfl
  simp only [exec, execVoyageComplete, hv, hdone, if_true]
  rfl

theorem loadStepForecast_eq {index : Fin 4096} (hst : (entryGet s index.val).st = .pending ∨ (entryGet s index.val).st = .armed)
    (hl : stepLarge s (entryGet s index.val) = true) (hn : (entryGet s index.val).forecast = false)
    (hf : (if (entryGet s index.val).st = .armed then (entryGet s index.val).fire.toNat
      else max (entryGet s index.val).time.toNat (afterLast s)) = f) (hd : f ≤ s.tide.hub.toNat + 100000) :
    exec (.loadStepForecast index) s = .next (sendForecast s index.val f) := by
  simp only [exec, execLoadStepForecast, hf]
  exact if_pos ⟨hst, hl, by rw [hn]; rfl, hd⟩

theorem tdCancel_eq {value : Word} (hup : hubUp s = true) (hv : value.getLsbD 31 = true) (hb : isBusy s blkTD = false) :
    let i := (field value 0 12).toNat
    let st := (entryGet s i).st
    let code := if st = .free then 1 else if st = .armed then 2 else 0
    exec (.tdCancel value) s = .next (logCapture (rset (if code = 0 then entrySet (acceptWrite s blkTD) i {} else acceptWrite s blkTD)
      (blkTD.reg 0x048) 0) (blkTD.reg 0x04C) (fields 32 [(2, code), (12, i)])) := by
  simp only [exec, execTdCancel, hup, softWrite_of_not_busy hb, hv, Bool.not_true, Bool.false_eq_true, if_false]
  rfl

/-- TD_CANCEL answers 0 for exactly the entries it frees. -/
theorem cancelCode_eq_zero_iff (st : LState) : (if st = .free then 1 else if st = .armed then 2 else 0) = 0 ↔ st = .pending ∨ st = .held := by
  cases st <;> decide

end

/-- Settles O24: a reached entry is held or armed as `armOne` says; noting a late one changes `plain` alone. -/
theorem launchCommands : Obligations.LaunchCommands := by
  refine ⟨?_, fun s => ?_, fun s => armLaunch_of_inGap, ?_, fun set s v => voyageComplete_eq, ?_⟩
  · intro s i e f cause hrun hgap u hfirst hreach busy
    obtain ⟨n, -, hu⟩ : ∃ n, _ ∧ u = _ := noteLate_eq s
    have hone := armOne_of_reach (s := u) (by rw [hu]; exact hfirst) hreach
    have hbusy : ((e.ctrl.getLsbD 2 || u.tm.level != 0) && (coreSetBusy u e.set || setHeld u e.set != [])) = busy := by rw [hu]; rfl
    have hfull : armedFull u e.set = armedFull s e.set := by rw [hu]; rfl
    rw [hbusy, hfull] at hone
    refine ⟨fun hb => armLaunch_of_armOne hrun hgap ?_, fun hb ha => armLaunch_of_armOne hrun hgap ?_⟩
    · exact hone.trans (if_pos hb)
    · rw [hb, ha] at hone
      exact hone
  · obtain ⟨n, hn, hu⟩ := noteLate_eq s
    rw [hu]
    exact ⟨hn, rfl⟩
  · intro index s e f hst hl hn hd hi
    obtain ⟨steps, live, regs, hframe⟩ := sendForecast_frame s index.val f
    obtain ⟨h40, h44⟩ := hi.rget_sendForecast index.val f
    refine ⟨_, loadStepForecast_eq hst hl hn rfl hd, ?_, ⟨steps, ?_⟩, h40, h44, ?_⟩
    · rw [hframe]
      exact hi.entryGet_entrySet_self ..
    · rw [hframe]
      rfl
    · rw [hframe]
      exact ⟨rfl, rfl, rfl⟩
  · intro value s hup hv hb i e u code
    rw [tdCancel_eq hup hv hb]
    simp only [cancelCode_eq_zero_iff]
    rfl

/-! ## The commands of slack water -/

theorem slackWindow_eq {s : State} (ho : spanOpen s = true) (hq : 20000 ≤ s.slack.quiet) : exec .slackWindow s =
    .next { s with slack := { s.slack with quiet := s.slack.quiet - 20000, last := s.tide.hub } } :=
  if_pos (by rw [ho, Bool.true_and]; exact decide_eq_true hq)

/-- The forced window is announced (R145, R146). -/
theorem forcedSlack_eq {s : State} (he : s.tide.everEnabled = true) (hf : s.slack.forced = none)
    (hl : s.slack.last.toNat + 50000000 ≤ s.tide.hub.toNat) :
    exec .forcedSlack s = .next (tideEvent (cntAdd { s with
      slack := { s.slack with forced := some (s.tide.hub + 20256) }, launch := { s.launch with plain := afterLast s } }
      (blkTD.reg 0x054) 1) 1 (tdOffset s).toNat) :=
  if_pos (by rw [he, hf, decide_eq_true hl]; rfl)

theorem forcedSlackEnd_eq {s : State} {e : Dword} (hf : s.slack.forced = some e) (hl : e.toNat ≤ s.tide.hub.toNat) :
    exec .forcedSlackEnd s = .next { markDeferred (if s.hm.st = .running && !inGap s then armDeferred s s.launch.table.length else s) e.toNat
      with slack := { quiet := 0, last := e, forced := none } } := by
  simp only [exec, execForcedSlackEnd, hf, Nat.not_lt.2 hl, if_false]

/-- Settles O27: the announcement is one event and one count; what the window's end arms or marks touches launches, registers and cores
alone. -/
theorem slackWater : Obligations.SlackWater := by
  refine ⟨fun s => slackWindow_eq, fun s he hf hl => ?_, fun s e hf hl => ?_⟩
  · refine ⟨_, forcedSlack_eq he hf hl, ?_, ?_, fun hroom => ?_, ?_, ?_, ?_⟩
    · exact sendEvent_slack ..
    · exact (rget_sendEvent_ne _ _ _ (by decide)).trans (rget_cntAdd_of_reset _ (by decide) Nat.one_pos)
    · exact ⟨_, congrArg State.events (sendEvent_of_room (by exact hroom) ..), rfl, toNat_field_fields (by decide) ..⟩
    · exact sendEvent_mem ..
    · exact sendEvent_launch ..
    · exact sendEvent_boll ..
  · have harm : ArmFrame s (if s.hm.st = .running && !inGap s then armDeferred s s.launch.table.length else s) := by
      split
      · exact armFrame_armDeferred ..
      · rfl
    have hframe := harm.trans (armFrame_markDeferred _ e.toNat)
    refine ⟨_, forcedSlackEnd_eq hf hl, rfl, hframe.mem, hframe.boll, hframe.tide, fun hrun => ?_⟩
    · simp only [hrun, decide_false, Bool.false_and, Bool.false_eq_true, if_false]

end Sys2Proof.Claims
end

section
/-! The tide: marks, holdover, the pins and slews (R115, R116, R121, R123, R384). -/

namespace Sys2Proof.Machine

/-! ## The tide counters -/

/-- Corrections of the dies leave the hub's counter and its slew alone. -/
theorem slewDies_frame (t : TideSt) (l : Tbl Int) : ∃ ofs slew, l.foldl slewDie t = { t with dieOfs := ofs, dieSlew := slew } := by
  refine List.foldlRecOn (motive := fun u => ∃ ofs slew, u = { t with dieOfs := ofs, dieSlew := slew }) l slewDie
    ⟨t.dieOfs, t.dieSlew, rfl⟩ ?_
  rintro u ⟨ofs, slew, rfl⟩ d _
  exact ⟨_, _, rfl⟩

/-- The hub's counter and its slew after a nanosecond (R116). -/
theorem tickTide_hub (s : State) :
    let d := slewStep s.tide
    let hub := s.tide.hub + 1 + BitVec.ofInt 64 d
    (tickTide s).hub = hub ∧ (tickTide s).slew = s.tide.slew - d ∧ (tickTide s).lastSlew = if d = 0 then s.tide.lastSlew else hub := by
  intro d hub
  unfold tickTide
  extract_lets t d' hub' u due
  split
  · obtain ⟨ofs, slew, h⟩ := slewDies_frame { u with dieSlewAt := some s.now } u.dieSlew
    rw [h]
    exact ⟨rfl, rfl, rfl⟩
  · exact ⟨rfl, rfl, rfl⟩

theorem slewStep_of_idle {t : TideSt} (h : t.slew = 0 ∨ t.hub.toNat < t.lastSlew.toNat + 1024) : slewStep t = 0 := if_pos h

theorem slewStep_of_pos {t : TideSt} (h : ¬ (t.slew = 0 ∨ t.hub.toNat < t.lastSlew.toNat + 1024)) (hp : 0 < t.slew) : slewStep t = 1 :=
  (if_neg h).trans (if_pos hp)

theorem slewStep_of_neg {t : TideSt} (h : ¬ (t.slew = 0 ∨ t.hub.toNat < t.lastSlew.toNat + 1024)) (hn : t.slew < 0) : slewStep t = -1 :=
  (if_neg h).trans (if_neg (by omega))

/-- A slew under way ends with code 2 where another is asked for (R384). -/
def replaceSlew (s : State) : State := if s.tide.slewCmd then slewResult s 2 else s

theorem replaceSlew_tide (s : State) : (replaceSlew s).tide = s.tide := by
  unfold replaceSlew
  split
  · exact logCapture_tide ..
  · rfl

end Sys2Proof.Machine

namespace Sys2Proof.Claims

open Sys2Proof Sys2Proof.Machine

section
variable {s : State}

/-! ## The beacon (R115) -/

theorem markDue_of_forall {slot : Nat} (h : ∀ x, tget s.tide.markAt slot none = some x → x.toNat + 65536 ≤ s.tide.hub.toNat) :
    markDue s slot = true := by
  unfold markDue
  cases hx : tget s.tide.markAt slot none with
  | none => rfl
  | some x => exact decide_eq_true (h x hx)

theorem beaconCheckMark_eq {slot : Fin 41} (hup : dieState s slot.val = .up)
    (hnet : ¬ ((slot.val, 0) ∈ s.tide.beacon ∧ (slot.val, 1) ∈ s.tide.beacon)) (hdue : markDue s slot.val = true) :
    let d := tget s.tide.dieOfs slot.val 0
    let t := { s.tide with markAt := tset s.tide.markAt slot.val (some s.tide.hub) none }
    exec (.beaconCheckMark slot) s = .next (if 1 < d.natAbs then
      cntAdd { s with tide := { t with dieSlew := tset s.tide.dieSlew slot.val (-d) 0 } } (blkTD.reg 0x068) 1
      else { s with tide := t }) := by
  intro d t
  have hears : (s.tide.beacon.contains (slot.val, 0) && s.tide.beacon.contains (slot.val, 1)) = false := by
    rw [Bool.eq_false_iff, ne_eq, Bool.and_eq_true, List.contains_iff_mem, List.contains_iff_mem]
    exact hnet
  simp only [exec, execBeaconCheckMark, hup, hears, hdue, bne_self_eq_false, Bool.or_self, Bool.not_true, Bool.false_eq_true, if_false]
  by_cases hd : d.natAbs ≤ 1
  · rw [if_pos hd, if_neg (Nat.not_lt.2 hd)]
  · rw [if_neg hd, if_pos (Nat.lt_of_not_le hd)]

theorem tideBeaconLost_eq {slot : Fin 41} {net : Fin 2} (hup : dieState s slot.val = .up) (hn : (slot.val, net.val) ∉ s.tide.beacon) :
    exec (.tideBeaconLost slot net) s = .next (logRecord
      { s with tide := { s.tide with beacon := (slot.val, net.val) :: s.tide.beacon } } 0x0303 slot.val 0 net.val 0 0) := by
  have hc : s.tide.beacon.contains (slot.val, net.val) = false := by rw [Bool.eq_false_iff, ne_eq, List.contains_iff_mem]; exact hn
  simp only [exec, execTideBeaconLost, hup, hc, bne_self_eq_false, Bool.or_self, Bool.false_eq_true, if_false]

/-! ## Holdover and the pins (R121, R123) -/

theorem tideHoldover_eq (hst : s.tide.st = .locked) (hm : roleMaster s = false)
    (hl : s.tide.lastReply.toNat + 100000 ≤ s.tide.hub.toNat) :
    exec .tideHoldover s = .next { s with tide := { s.tide with st := .holdover, holdSince := s.tide.hub } } :=
  if_pos ⟨hst, by rw [hm]; rfl, hl⟩

theorem holdoverLong_eq (hst : s.tide.st = .holdover) (hl : s.tide.holdLong = false)
    (ht : s.tide.holdSince.toNat + 10000000000 ≤ s.tide.hub.toNat) :
    exec .holdoverLong s = .next (tideEvent { s with tide := { s.tide with holdLong := true } } 3 (tdOffset s).toNat) :=
  if_pos ⟨hst, by rw [hl]; rfl, ht⟩

theorem tideMarkInput_stamps (h : ∀ x, s.tide.markEdge = some x → x + 100 ≤ s.now) :
    exec .tideMarkInput s = .next { s with tide := { s.tide with markEdge := some s.now, markIn := s.tide.hub } } := by
  simp only [exec, execTideMarkInput]
  cases hx : s.tide.markEdge with
  | none => rfl
  | some x => exact if_pos (decide_eq_true (h x hx))

theorem tideMarkInput_skips {x : Nat} (hx : s.tide.markEdge = some x) (h : s.now < x + 100) :
    exec .tideMarkInput s = .next { s with tide := { s.tide with markEdge := some s.now } } := by
  simp only [exec, execTideMarkInput, hx, Nat.not_le.2 h, decide_false, Bool.false_eq_true, if_false]

/-! ## Slews by firmware (R384) -/

section
variable {value : Word} (hup : hubUp s = true) (hb : isBusy s blkPL = false) (hv : value.getLsbD 31 = true)
include hup hb hv

theorem plTideSlew_master (hm : roleMaster s = true) :
    exec (.plTideSlew value) s = .next { rset (replaceSlew (acceptWrite s blkPL)) (blkPL.reg 0x0A8) value with
      tide := { s.tide with slew := (field value 0 24 : BitVec 24).toInt, slewCmd := true } } := by
  have hm' : roleMaster (acceptWrite s blkPL) = true := hm
  simp only [exec, execPlTideSlew, hup, softWrite_of_not_busy hb, hv, hm', Bool.not_true, Bool.false_eq_true, if_false]
  have ht : (if (acceptWrite s blkPL).tide.slewCmd = true then slewResult (acceptWrite s blkPL) 2 else acceptWrite s blkPL).tide = s.tide :=
    replaceSlew_tide _
  simp only [ht]
  rfl

theorem plTideSlew_refused (hm : roleMaster s = false) :
    exec (.plTideSlew value) s = .next (logCapture (rset (acceptWrite s blkPL) (blkPL.reg 0x0A8) 0) (blkPL.reg 0x0AC) 1) := by
  have hm' : roleMaster (acceptWrite s blkPL) = false := hm
  simp only [exec, execPlTideSlew, hup, softWrite_of_not_busy hb, hv, hm', Bool.not_true, Bool.not_false, Bool.false_eq_true, if_false, if_true]
  rfl

end

theorem slewComplete_eq (hc : s.tide.slewCmd = true) (hz : s.tide.slew = 0) : exec .slewComplete s =
    .next (logCapture (rset { s with tide := { s.tide with slewCmd := false } } (blkPL.reg 0x0A8) 0) (blkPL.reg 0x0AC) 0) :=
  if_pos (by rw [hc, hz]; rfl)

end

/-- Settles O28: a nanosecond's advance is `slewStep`, which no correction of a die touches. -/
theorem tideCommands : Obligations.TideCommands := by
  refine ⟨fun slot s hup hnet hdue => beaconCheckMark_eq hup hnet (markDue_of_forall hdue), fun slot net s => tideBeaconLost_eq,
    fun s => tideHoldover_eq, fun s => holdoverLong_eq, fun s h => if_pos h, fun s => tideMarkInput_stamps,
    fun s x => tideMarkInput_skips, fun value s => plTideSlew_master, fun value s => plTideSlew_refused, fun s => slewComplete_eq,
    fun s hp => by rw [step, hp], fun s => ?_⟩
  obtain ⟨hhub, hslew, hlast⟩ := tickTide_hub s
  refine ⟨fun hi => ?_, fun hi hp => ?_, fun hi hn => ?_⟩
  · rw [hhub, hslew, hlast, slewStep_of_idle hi, if_pos rfl, sub_zero]
    exact ⟨BitVec.add_zero _, rfl, rfl⟩
  · rw [hhub, hslew, hlast, slewStep_of_pos hi hp, if_neg one_ne_zero]
    exact ⟨BitVec.add_assoc .., rfl, rfl⟩
  · rw [hhub, hslew, hlast, slewStep_of_neg hi hn, if_neg (by decide)]
    refine ⟨?_, rfl, rfl⟩
    rw [BitVec.add_assoc]
    exact BitVec.add_zero _

end Sys2Proof.Claims
end

section
/-! Parcels that a link releases, and the exchange of time (R120, R121, R246, R249). -/

namespace Sys2Proof.Machine

/-! ## What taking a parcel from a link changes -/

/-- From `s` to `t` links and registers of QL blocks alone have changed. -/
structure LinkFrame (s t : State) : Prop where
  state : t = { s with links := t.links, regs := { s.regs with words := t.regs.words } }
  hub   : ∀ x < 0x34000, rget t x = rget s x

theorem LinkFrame.trans {s t u : State} (h : LinkFrame s t) (g : LinkFrame t u) : LinkFrame s u where
  state := Eq.trans g.state (by rw [h.state])
  hub x hx := (g.hub x hx).trans (h.hub x hx)

theorem linkFrame_linkSet (s : State) (k : Nat) (x : LinkSt) : LinkFrame s (linkSet s k x) := ⟨rfl, fun _ _ => rfl⟩

/-- The QL blocks lie behind the hub's other blocks. -/
theorem le_qlBlk_reg (k off : Nat) : 0x34000 ≤ (qlBlk k).reg off := by
  unfold qlBlk Blk.reg
  split
  · exact le_trans (by decide) (Nat.le_add_right ..)
  · simp only [blkQL]
    split <;> omega

theorem linkFrame_cntAdd (s : State) (k off n : Nat) : LinkFrame s (cntAdd s ((qlBlk k).reg off) n) :=
  ⟨rfl, fun _ hx => rget_cntAdd_ne _ _ (hx.trans_le (le_qlBlk_reg ..)).ne⟩

theorem linkFrame_cntAdd64 (s : State) (k off n : Nat) : LinkFrame s (cntAdd64 s ((qlBlk k).reg off) n) :=
  ⟨rfl, fun _ hx => rget_cntAdd64_ne s n (hx.trans_le (le_qlBlk_reg ..)).ne (hx.trans_le (le_qlBlk_reg k (off + 4))).ne⟩

theorem linkFrame_takeAck (s : State) {k : Nat} (hk : k ≠ guestKey) (a : BitVec 16) : LinkFrame s (takeAck s k a) := by
  unfold takeAck
  dsimp only
  split
  · exact linkFrame_cntAdd ..
  · exact linkFrame_linkSet ..

section
variable {s t : State} (h : LinkFrame s t)
include h

theorem LinkFrame.tide : t.tide = s.tide := by rw [h.state]

theorem LinkFrame.ownDev : ownDev t = ownDev s := by rw [h.state]; rfl

theorem LinkFrame.enabled : enabled t blkTD = enabled s blkTD := congrArg (·.getLsbD 0) (h.hub (blkTD.reg 0x004) (by decide))

theorem LinkFrame.roleMaster : roleMaster t = roleMaster s := by
  have hs : inSafe t blkTD = inSafe s blkTD := by rw [h.state]; rfl
  simp only [Machine.roleMaster, cfg, hs, h.hub (blkTD.reg 0x018) (by decide)]

theorem LinkFrame.exchanging : exchanging t = exchanging s := by
  simp only [Machine.exchanging, h.enabled, h.tide, h.roleMaster]

end

/-! ## A time parcel for this module -/

section
variable {s : State} (k : Nat) {p : Parcel}

theorem timeParcel_request (hk : timeKind p = 1) (he : enabled s blkTD = true) (hs : s.tide.safe = false) :
    timeParcel s k p = sendTo s hubPoint
      (controlPar tyTime 0 (farMember s k) (timePayload 2 (field p 16 16) (field p 64 64) s.tide.hub) 7) := by
  rw [timeParcel, if_pos hk, if_pos (by rw [he, hs]; rfl)]

theorem timeParcel_reply {x : Dword} (hk : timeKind p = 2) (he : exchanging s = true) (ho : s.tide.outst = some (field p 16 16, x)) :
    timeParcel s k p = timeReply s p := by
  simp only [timeParcel, hk, ho, he, beq_self_eq_true, Bool.and_self, if_true]
  rfl

theorem timeParcel_other (hk : timeKind p = 0 ∨ 2 < timeKind p) : timeParcel s k p = s := by
  rw [timeParcel, if_neg (by omega), if_neg (by omega)]

end

theorem exchanging_iff (s : State) : exchanging s = true ↔ enabled s blkTD = true ∧ s.tide.safe = false ∧ roleMaster s = false := by
  simp only [exchanging, Bool.and_eq_true, Bool.not_eq_true', and_assoc]

/-! ## What a reply does (R121) -/

/-- From `s` to `t` the tide has at most another state and other alarms. -/
structure SettleFrame (s t : State) : Prop where
  tide   : t.tide = { s.tide with
    st := t.tide.st, alarm := t.tide.alarm, holdLong := t.tide.holdLong, everLocked := t.tide.everLocked }
  mem    : t.mem = s.mem
  launch : t.launch = s.launch
  boll   : t.boll = s.boll

theorem SettleFrame.refl (s : State) : SettleFrame s s := ⟨rfl, rfl, rfl, rfl⟩

theorem SettleFrame.trans {s t u : State} (h : SettleFrame s t) (g : SettleFrame t u) : SettleFrame s u :=
  ⟨g.tide.trans (by rw [h.tide]), g.mem.trans h.mem, g.launch.trans h.launch, g.boll.trans h.boll⟩

theorem settleFrame_judgeAlarm (s : State) : SettleFrame s (judgeAlarm s) := by
  unfold judgeAlarm
  split
  · exact ⟨rfl, rfl, rfl, rfl⟩
  split
  · exact ⟨by rw [tideEvent, sendEvent_tide], sendEvent_mem .., sendEvent_launch .., sendEvent_boll ..⟩
  · exact .refl s

theorem judgeAlarm_st (s : State) : (judgeAlarm s).tide.st = s.tide.st := by
  unfold judgeAlarm
  split
  · rfl
  split
  · rw [tideEvent, sendEvent_tide]
  · rfl

theorem settleFrame_settleTide (s : State) : SettleFrame s (settleTide s) := by
  unfold settleTide
  split
  · split
    · exact ⟨rfl, rfl, rfl, rfl⟩
    · exact .refl s
  · refine SettleFrame.trans ?_ (settleFrame_judgeAlarm _)
    exact ⟨rfl, rfl, rfl, rfl⟩
  · exact settleFrame_judgeAlarm s
  · exact .refl s

/-- The state of an aligned tide: LOCKED, but for an ACQUIRE whose averaged offset is still beyond 4 tide ticks. -/
theorem settleTide_st {s : State} (h : s.tide.st ≠ .free) :
    (settleTide s).tide.st = if s.tide.st = .acquire ∧ offsetBeyond s 4 = true then .acquire else .locked := by
  cases hst : s.tide.st with
  | free => exact absurd hst h
  | acquire => by_cases hb : offsetBeyond s 4 = true <;> simp [settleTide, hst, hb]
  | locked => simp [settleTide, hst, judgeAlarm_st]
  | holdover => simp [settleTide, hst, judgeAlarm_st]

/-- Twice the offset that a reply gives. -/
def replyOffset (s : State) (p : Parcel) : Int :=
  ((field p 128 64 : Dword) - field p 64 64).toInt - (s.tide.hub - field p 192 64).toInt

/-- A later reply joins the exchanges kept. -/
def joinOffset (s : State) (p : Parcel) : State :=
  { s with tide := { s.tide with offs := (replyOffset s p :: s.tide.offs).take 64, outst := none, lastReply := s.tide.hub } }

/-- The tide slews by the averaged offset. -/
def slewByAverage (s : State) : State := { s with tide := { s.tide with slew := averageOffset s } }

theorem timeReply_of_free {s : State} (h : s.tide.st = .free) (p : Parcel) : timeReply s p = stepTide s (replyOffset s p) := if_pos h

theorem timeReply_of_not_free {s : State} (h : s.tide.st ≠ .free) (p : Parcel) : timeReply s p =
    settleTide (slewByAverage (joinOffset s p)) := if_neg h

theorem averageOffset_of_ne_nil {s : State} (h : s.tide.offs ≠ []) :
    averageOffset s = (s.tide.offs.foldl (· + ·) 0).tdiv (2 * s.tide.offs.length) := if_neg (List.length_pos_iff.2 h).ne'

end Sys2Proof.Machine

namespace Sys2Proof.Claims

open Sys2Proof Sys2Proof.Machine

section
variable {s : State} {l : LinkId} {h : Hdr} {payload : Parcel} {check : Word}

/-! ## Parcels that a link releases -/

/-- What the conditions of a release come to: the parcel is taken. -/
theorem receiveLink_of_released {ty : BitVec 4} (hg : l.key ≠ guestKey) (hr : Released s l ty h payload check) :
    receiveLink s l ty h payload check = (taken s l h, some (parOf h payload check)) := by
  obtain ⟨hup, hmark, halive, ⟨rfl, h9⟩, hseq, hcheck⟩ := hr
  have hguest : (l.key == guestKey) = false := by simpa using hg
  have hres : reservedType h.ty = false := decide_eq_false (Nat.not_le.2 h9)
  have hbad : (decide (4 ≤ h.ty.toNat) && parcelCheck payload != recoverCheck h check) = false := by
    rcases hcheck with ⟨h4, -⟩ | hc
    · rw [decide_eq_false (Nat.not_le.2 h4), Bool.false_and]
    · rw [hc, bne_self_eq_false, Bool.and_false]
  simp only [receiveLink, if_neg hg, receive, hup, hmark, halive, hguest, hres, hbad, bne_self_eq_false, Bool.not_true, Bool.or_self,
    Bool.false_and, Bool.false_or, Bool.false_eq_true, if_false, ne_eq, not_true_eq_false]
  exact if_pos hseq

theorem linkFrame_taken (hg : l.key ≠ guestKey) : LinkFrame s (taken s l h) :=
  (((linkFrame_linkSet ..).trans (linkFrame_takeAck _ hg h.ack)).trans (linkFrame_linkSet ..)).trans (linkFrame_cntAdd64 ..)

theorem linkFrame_freed (hg : l.key ≠ guestKey) : LinkFrame s (freed s l h) := (linkFrame_taken hg).trans (linkFrame_linkSet ..)

theorem timeParcelReceive_other (hg : l.key ≠ guestKey) (hr : Released s l tyTime h payload check) (hd : h.dev.toNat ≠ ownDev s) :
    exec (.timeParcelReceive l h payload check) s =
      .next (freeUnit (relayPar (taken s l h) l.key (parOf h payload check)) l.key h.vc.toNat) := by
  have hd' : (parOf h payload check).dev.toNat ≠ ownDev (taken s l h) := by rw [(linkFrame_taken hg).ownDev]; exact hd
  simp only [exec, execTimeParcelReceive, receiveLink_of_released hg hr, if_pos hd', acceptPar]
  rfl

theorem timeParcelReceive_own (hg : l.key ≠ guestKey) (hr : Released s l tyTime h payload check) (hd : h.dev.toNat = ownDev s) :
    exec (.timeParcelReceive l h payload check) s = .next (timeParcel (freed s l h) l.key payload) := by
  have hd' : ¬ (parOf h payload check).dev.toNat ≠ ownDev (taken s l h) := by
    rw [(linkFrame_taken hg).ownDev]; exact not_not_intro hd
  simp only [exec, execTimeParcelReceive, receiveLink_of_released hg hr, if_neg hd']
  rfl

/-! ## Asking for the time -/

theorem roleSource_cntAdd (s : State) (n : Nat) : roleSource (cntAdd s (blkTD.reg 0x06C) n) = roleSource s := by
  have hne : blkTD.reg 0x018 ≠ blkTD.reg 0x06C := by decide
  simp only [roleSource, cfg, rget_cntAdd_ne s n hne]
  rfl

theorem timeExchangeRequest_eq (he : exchanging s = true) (ha : askDue s = true) :
    let u := if s.tide.outst.isSome then cntAdd s (blkTD.reg 0x06C) 1 else s
    exec .timeExchangeRequest s = .next (sendTo { u with
        tide := { s.tide with seq := s.tide.seq + 1, outst := some (s.tide.seq + 1, s.tide.hub), askedAt := some s.now } } hubPoint
      (controlPar tyTime 0 (roleSource s) (timePayload 1 (s.tide.seq + 1) 0 0) 7)) := by
  simp only [exec, execTimeExchangeRequest, he, ha, Bool.not_true, Bool.or_self, Bool.false_eq_true, if_false]
  by_cases ho : s.tide.outst.isSome = true
  · rw [if_pos ho, ← roleSource_cntAdd s 1]
    rfl
  · rw [if_neg ho]
    rfl

theorem askDue_of_forall (h : ∀ x, s.tide.askedAt = some x → x + 10000 ≤ s.now) : askDue s = true := by
  unfold askDue
  cases hx : s.tide.askedAt with
  | none => rfl
  | some x => exact decide_eq_true (h x hx)

end

/-- Settles O29: a released time parcel acts on the state whose receive buffer is free again; a reply steps a FREE tide, and otherwise
settles the averaged offset. -/
theorem timeExchange : Obligations.TimeExchange := by
  refine ⟨fun s he hs hm ha => timeExchangeRequest_eq ((exchanging_iff s).2 ⟨he, hs, hm⟩) (askDue_of_forall ha), ?_, ?_⟩
  · intro l h payload check s hg hr u kind
    have hu : LinkFrame s u := linkFrame_freed hg
    refine ⟨timeParcelReceive_other hg hr, fun hd => ?_⟩
    rw [timeParcelReceive_own hg hr hd]
    refine ⟨fun hk he hs => ?_, fun x hk he hs hm ho => ?_, fun hk => ?_⟩
    · rw [timeParcel_request l.key hk (hu.enabled.trans he) (by rw [hu.tide]; exact hs), hu.tide]
    · rw [timeParcel_reply l.key hk (hu.exchanging.trans ((exchanging_iff s).2 ⟨he, hs, hm⟩)) (by rw [hu.tide]; exact ho)]
    · rw [timeParcel_other l.key hk]
  · intro s p t twice
    by_cases hst : s.tide.st = .free
    · have ht : t = stepTide s twice := timeReply_of_free hst p
      rw [ht]
      exact ⟨fun _ => ⟨rfl, rfl, rfl, rfl, rfl⟩, fun h => absurd hst h, rfl, rfl, rfl⟩
    · have ht : t = _ := timeReply_of_not_free hst p
      have hsettled := settleTide_st (s := slewByAverage (joinOffset s p)) hst
      have hframe := settleFrame_settleTide (slewByAverage (joinOffset s p))
      have hslew := averageOffset_of_ne_nil (s := joinOffset s p) (List.cons_ne_nil _ _)
      simp only [offsetBeyond, decide_eq_true_eq] at hsettled
      refine ⟨fun h => absurd h hst, fun _ => ?_, ht ▸ hframe.mem, ht ▸ hframe.launch, ht ▸ hframe.boll⟩
      rw [ht, hframe.tide]
      exact ⟨rfl, rfl, hslew, rfl, rfl, hsettled⟩

end Sys2Proof.Claims
end

section
/-! Berth commits, sweeps and invalidations (R67, R161, R162, R164, R166). -/

namespace Sys2Proof.Machine

/-! ## Words of registers -/

/-- From `s` to `t` words of registers alone have changed. -/
def WordsOnly (s t : State) : Prop := t = { s with regs := { s.regs with words := t.regs.words } }

theorem WordsOnly.trans {s t u : State} (h : WordsOnly s t) (g : WordsOnly t u) : WordsOnly s u := Eq.trans g (by rw [h])

section
variable (s : State)

theorem wordsOnly_rset (off : Nat) (v : Word) : WordsOnly s (rset s off v) := rfl

theorem wordsOnly_clear (b : Blk) (l : List Nat) : WordsOnly s (l.foldl (fun t o => rset t (b.reg o) 0) s) :=
  List.foldlRecOn l _ rfl fun _ ht _ _ => WordsOnly.trans ht rfl

theorem wordsOnly_logCapture (off : Nat) (v : Word) : WordsOnly s (logCapture s off v) := by
  unfold logCapture
  split
  · exact wordsOnly_rset ..
  · rfl

end

/-! ## The end of a commit or a sweep -/

/-- No operation is in progress, and BT is BUSY for a LOAD alone. -/
def berthIdle (s : State) : State := setBusy { s with berth := { s.berth with op := none } } blkBT (s.hm.st == .loading)

theorem wordsOnly_berthFinish (s : State) (sweep : Bool) (result : Word) : WordsOnly (berthIdle s) (berthFinish s sweep result) := by
  cases sweep
  · have hcount (t : State) : WordsOnly t (if field result 0 2 = 0 then cntAdd t (blkBT.reg 0x034) 1 else t) := by
      split <;> rfl
    exact ((wordsOnly_clear ..).trans (hcount _)).trans (wordsOnly_logCapture ..)
  · exact ((wordsOnly_rset ..).trans (wordsOnly_rset ..)).trans (wordsOnly_logCapture ..)

/-- BT has nothing under way of its own. -/
theorem isBusy_blkBT_iff (s : State) : isBusy s blkBT = false ↔ blkBT.base ∉ s.regs.busy ∧ postedOf s blkBT = none := by
  have hu : underWay s blkBT = false := rfl
  simp [isBusy, cmdBusy, hu]

theorem isBusy_berthFinish {s : State} (sweep : Bool) (result : Word) (hb : isBusy s blkBT = false) (hl : s.hm.st ≠ .loading) :
    isBusy (berthFinish s sweep result) blkBT = false := by
  obtain ⟨hbusy, hposted⟩ := (isBusy_blkBT_iff s).1 hb
  have hw := wordsOnly_berthFinish s sweep result
  have hidle : (berthIdle s).regs.busy = s.regs.busy.erase blkBT.base := by
    rw [berthIdle, beq_eq_false_iff_ne.2 hl]
    rfl
  rw [isBusy_blkBT_iff, hw]
  exact ⟨fun h => hbusy (List.mem_of_mem_erase (hidle ▸ h)), hposted⟩

/-! ## Copies in the piers' caches (R67) -/

section
variable {s : State} (h : tsorted s.cores.pier = true)
include h

theorem pierGet_pierSet_self (pk : Nat) (p : PierSt) : pierGet (pierSet s pk p) pk = p := tget_tset_self _ _ _ h

theorem tsorted_pier_dropCopies (pk : Nat) (l : List Nat) : tsorted (dropCopies s pk l).cores.pier = true := tsorted_tset _ _ _ h

end

theorem pierGet_pierSet_ne (s : State) {pk x : Nat} (p : PierSt) (h : x ≠ pk) : pierGet (pierSet s pk p) x = pierGet s x :=
  tget_tset_ne _ _ _ h

/-- The piers of a list drop their copies. -/
def dropAll (s : State) (l pks : List Nat) : State := pks.foldl (fun t p => dropCopies t p l) s

theorem dropAll_frame (s : State) (l pks : List Nat) : ∃ x, dropAll s l pks = { s with cores := { s.cores with pier := x } } :=
  List.foldlRecOn (motive := fun t : State => ∃ x, t = { s with cores := { s.cores with pier := x } }) pks _ ⟨_, rfl⟩
    fun t ht p _ => by
      obtain ⟨x, rfl⟩ := ht
      exact ⟨_, rfl⟩

theorem cache_dropAll {s : State} (h : tsorted s.cores.pier = true) (l pks : List Nat) (pk : Nat) :
    (pierGet (dropAll s l pks) pk).cache =
      if pk ∈ pks then (pierGet s pk).cache.filter fun e => !l.contains e.1 else (pierGet s pk).cache := by
  induction pks generalizing s with
  | nil => rfl
  | cons p r ih =>
    refine (ih (tsorted_pier_dropCopies h p l)).trans ?_
    by_cases hp : pk = p
    · subst hp
      simp only [dropCopies, pierGet_pierSet_self h, List.filter_filter, Bool.and_self, ite_self, List.mem_cons_self, if_true]
    · simp only [dropCopies, pierGet_pierSet_ne s _ hp, List.mem_cons, hp, false_or]

/-- A pier with a copy of a listed entry is one of its holders. -/
theorem mem_holders {s : State} {l : List Nat} {pk : Nat} {e : Nat × BitVec 128} (he : e ∈ (pierGet s pk).cache) (hl : e.1 ∈ l) :
    pk ∈ holders s l := by
  have hne : pierGet s pk ≠ {} := fun h0 => by
    rw [h0] at he
    cases he
  exact List.mem_map.2 ⟨_, List.mem_filter.2 ⟨mem_of_tget_ne hne, List.any_eq_true.2 ⟨e, he, List.contains_iff_mem.2 hl⟩⟩, rfl⟩

/-- Once the holders have dropped their copies, no pier has one. -/
theorem mem_cache_dropAll_holders {s : State} (h : tsorted s.cores.pier = true) {l : List Nat} {pk : Nat} {e : Nat × BitVec 128}
    (he : e ∈ (pierGet (dropAll s l (holders s l)) pk).cache) : e ∈ (pierGet s pk).cache ∧ e.1 ∉ l := by
  rw [cache_dropAll h] at he
  split at he
  · obtain ⟨hmem, hnot⟩ := List.mem_filter.1 he
    exact ⟨hmem, by simpa using hnot⟩
  · rename_i hk
    exact ⟨he, fun hl => hk (mem_holders he hl)⟩

/-! ## An invalidation that no tug holds up -/

/-- What an invalidation of the entries `l` leaves where no pier uses them. -/
structure Invalidated (s : State) (l : List Nat) (t : State) : Prop where
  table  : t.berth.table = s.berth.table
  mem    : t.mem = s.mem
  boll   : t.boll = s.boll
  launch : t.launch = s.launch
  cache  : ∀ pk, ∀ e ∈ (pierGet t pk).cache, e ∈ (pierGet s pk).cache ∧ e.1 ∉ l
  idle   : isBusy s blkBT = false → s.hm.st ≠ .loading → isBusy t blkBT = false

/-- An invalidation begins: it is counted. -/
def beginInvalidation (s : State) : State := { s with berth := { s.berth with epoch := s.berth.epoch + 1 } }

/-- The holders of the entries `l` drop their copies of them. -/
def dropHeld (s : State) (l : List Nat) : State := dropAll (beginInvalidation s) l (holders (beginInvalidation s) l)

theorem invalidate_of_no_tugs {s : State} (h : s.cores.tug = []) (l : List Nat) (sweep : Bool) (result : Word) :
    invalidate s l sweep result = berthFinish (dropHeld s l) sweep result := by
  have hu : usersOf (beginInvalidation s) l = [] := by
    rw [usersOf, beginInvalidation, h]
    rfl
  have hf (ps : List Nat) : (ps.filter fun p => !([] : List Nat).contains p) = ps := List.filter_eq_self.2 fun _ _ => rfl
  rw [beginInvalidation] at hu
  simp only [invalidate, hu, hf, List.isEmpty_nil, if_true]
  rfl

theorem invalidated_invalidate {s : State} (hp : tsorted s.cores.pier = true) (h : s.cores.tug = []) (l : List Nat) (sweep : Bool)
    (result : Word) : Invalidated s l (invalidate s l sweep result) := by
  rw [invalidate_of_no_tugs h]
  have hw := wordsOnly_berthFinish (dropHeld s l) sweep result
  have hidle := isBusy_berthFinish (s := dropHeld s l) sweep result
  have hcache : ∀ pk, ∀ e ∈ (pierGet (dropHeld s l) pk).cache, e ∈ (pierGet s pk).cache ∧ e.1 ∉ l := fun pk e he =>
    mem_cache_dropAll_holders (s := beginInvalidation s) hp he
  obtain ⟨x, hx⟩ : ∃ x, dropHeld s l = { beginInvalidation s with cores := { s.cores with pier := x } } := dropAll_frame ..
  rw [hx] at hw hidle hcache
  rw [hx, hw]
  rw [hw] at hidle
  exact ⟨rfl, rfl, rfl, rfl, hcache, hidle⟩

/-! ## Entries -/

theorem tsorted_berthTable {s : State} (h : Inv s) : tsorted s.berth.table = true := (twf_iff.1 ((inv_iff s).1 h).berth).1

theorem tsorted_pier {s : State} (h : Inv s) : tsorted s.cores.pier = true := by
  obtain ⟨-, -, hp, -⟩ := (coresCanonical_iff _).1 ((inv_iff s).1 h).cores.2
  exact hp

/-- Storing BT_COMMIT leaves the staged entry. -/
theorem staged_commit (s : State) (value : Word) : staged (rset (acceptWrite s blkBT) (blkBT.reg 0x020) value) = staged s := by
  have hne : blkBT.reg 0x01C ≠ blkBT.reg 0x020 ∧ blkBT.reg 0x018 ≠ blkBT.reg 0x020 ∧ blkBT.reg 0x014 ≠ blkBT.reg 0x020 ∧
      blkBT.reg 0x010 ≠ blkBT.reg 0x020 := by decide
  obtain ⟨h3, h2, h1, h0⟩ := hne
  simp only [staged, rget_rset_ne _ _ h3, rget_rset_ne _ _ h2, rget_rset_ne _ _ h1, rget_rset_ne _ _ h0]
  rfl

/-- LAYER is compared as a number. -/
theorem sweepMatch_eq (value tag : Word) (e : BitVec 128) : sweepMatch value tag e =
    (e.getLsbD 0 && (!value.getLsbD 8 || field e 64 32 == tag) && (!value.getLsbD 9 || field e 8 8 == field value 0 8)) := by
  have hlayer : (bLayer e == (field value 0 8).toNat) = (field e 8 8 == field value 0 8) := by
    rw [Bool.eq_iff_iff, beq_iff_eq, beq_iff_eq]
    exact BitVec.toNat_inj
  rw [sweepMatch, hlayer]
  rfl

/-- What a sweep makes of an entry (R166). -/
def sweptEntry (value tag : Word) (e : BitVec 128) : BitVec 128 := if sweepMatch value tag e then sweepEntry e else e

/-- The table after a sweep, whose matches a pier may still hold. -/
def swept (s : State) (value tag : Word) : State :=
  { s with berth := { s.berth with table := tmap s.berth.table 0 fun _ e => sweptEntry value tag e } }

/-- The entries that a sweep finds. -/
def sweepHits (s : State) (value tag : Word) : List Nat := (s.berth.table.filter fun e => sweepMatch value tag e.2).map fun e => e.1

theorem berthGet_swept {s : State} (h : tsorted s.berth.table = true) (value tag : Word) (i : Nat) :
    berthGet (swept s value tag) i = sweptEntry value tag (berthGet s i) :=
  tget_tmap (f := fun _ e => sweptEntry value tag e) i h rfl

end Sys2Proof.Machine

namespace Sys2Proof.Claims

open Sys2Proof Sys2Proof.Machine

section
variable {value : Word} {s : State} (hup : hubUp s = true) (hv : value.getLsbD 31 = true) (hb : isBusy s blkBT = false)

include hup in
theorem btCommit_of_busy (hb : isBusy s blkBT = true) : exec (.btCommit value) s = .next (dropWrite s blkBT) := by
  simp only [exec, execBtCommit, hup, Bool.not_true, Bool.false_eq_true, if_false]
  exact if_pos hb

include hup hv hb

theorem btCommit_eq : let u := rset (acceptWrite s blkBT) (blkBT.reg 0x020) value
    let i := (field value 0 17).toNat
    exec (.btCommit value) s = .next (if berthCode (staged s) = 0
      then invalidate (berthSet u i (staged s)) [i] false (fields 32 [(2, 0), (17, i)])
      else berthFinish u false (fields 32 [(2, berthCode (staged s)), (17, i)])) := by
  simp only [exec, execBtCommit, hup, hv, Bool.not_true, Bool.false_eq_true, if_false, softWrite_of_not_busy hb, staged_commit]
  by_cases hc : berthCode (staged s) = 0
  · simp only [hc, bne_self_eq_false, Bool.false_eq_true, if_false, if_true]
  · rw [if_pos (bne_iff_ne.2 hc), if_neg hc]

theorem btSweep_eq : let u := rset (acceptWrite s blkBT) (blkBT.reg 0x02C) value
    let tag := rget s (blkBT.reg 0x028)
    exec (.btSweep value) s =
      .next (invalidate (swept u value tag) (sweepHits u value tag) true (BitVec.ofNat 32 (sweepHits u value tag).length)) := by
  have htag : rget (rset (acceptWrite s blkBT) (blkBT.reg 0x02C) value) (blkBT.reg 0x028) = rget s (blkBT.reg 0x028) :=
    rget_rset_ne _ _ (by decide)
  simp only [exec, execBtSweep, hup, hv, Bool.not_true, Bool.false_eq_true, if_false, softWrite_of_not_busy hb, htag]
  rfl

end

theorem berthInvalidate_eq {die : Fin 12} {pier : Fin 48} {s : State} {op : BerthOp} (ho : s.berth.op = some op)
    (hp : pierKey die.val pier.val ∈ op.piers) (hi : ∀ i ∈ op.entries, entryInUse s (pierKey die.val pier.val) i = false) :
    let u := dropCopies s (pierKey die.val pier.val) op.entries
    let l := op.piers.erase (pierKey die.val pier.val)
    exec (.berthInvalidate die pier) s = .next (if l = [] then berthFinish u op.sweep op.result
      else { u with berth := { u.berth with op := some { op with piers := l } } }) := by
  have hcond : (!op.piers.contains (pierKey die.val pier.val) ||
      op.entries.any fun i => entryInUse s (pierKey die.val pier.val) i) = false := by
    rw [List.contains_iff_mem.2 hp, Bool.not_true, Bool.false_or, List.any_eq_false]
    exact fun i hm => Bool.eq_false_iff.1 (hi i hm)
  simp only [exec, execBerthInvalidate, ho, hcond, Bool.false_eq_true, if_false, List.isEmpty_iff]
  split <;> rfl

/-- Settles O22: where no tug runs, a commit's or a sweep's invalidation ends at once, and every holder has dropped its copies. -/
theorem berthTable : Obligations.BerthTable := by
  refine ⟨?_, ?_, ?_, fun die pier s op ho hp hi => berthInvalidate_eq ho hp hi⟩
  · intro s value hup hv i e u
    have hgood (hb : isBusy s blkBT = false) (hc : berthCode e = 0) := (btCommit_eq hup hv hb).trans (congrArg _ (if_pos hc))
    refine ⟨btCommit_of_busy hup, fun hb hc => (btCommit_eq hup hv hb).trans (congrArg _ (if_neg hc)), hgood, ?_⟩
    intro hb hc hinv htug _ hload
    have hp : tsorted s.cores.pier = true := tsorted_pier hinv
    have hu : isBusy (berthSet u i e) blkBT = false := (isBusy_blkBT_iff _).2 ((isBusy_blkBT_iff s).1 hb)
    have ht := invalidated_invalidate (s := berthSet u i e) hp htug [i] false (fields 32 [(2, 0), (17, i)])
    refine ⟨_, hgood hb hc, fun j hj => ?_, ?_, fun pk x hx => ?_, ht.mem, ht.idle hu hload⟩
    · exact (congrArg (fun m => tget m j 0) ht.table).trans (berthGet_berthSet_ne s e hj)
    · exact (congrArg (fun m => tget m i 0) ht.table).trans (hinv.berthGet_berthSet_self i e)
    · obtain ⟨hmem, hne⟩ := ht.cache pk x hx
      exact ⟨hmem, fun hxi => hne (List.mem_singleton.2 hxi)⟩
  · intro e
    simp only [berthCode, Bool.or_eq_true, bne_iff_ne, decide_eq_true_eq, or_assoc]
    rfl
  · intro s value hup hv hb hinv htug _ tag
    have hp : tsorted s.cores.pier = true := tsorted_pier hinv
    have ht := invalidated_invalidate (s := swept (rset (acceptWrite s blkBT) (blkBT.reg 0x02C) value) value tag) hp htug
      (sweepHits s value tag) true (BitVec.ofNat 32 (sweepHits s value tag).length)
    refine ⟨_, btSweep_eq hup hv hb, fun i => ?_, ht.mem, ht.boll, ht.launch⟩
    dsimp only
    rw [← sweepMatch_eq]
    exact (congrArg (fun m => tget m i 0) ht.table).trans (berthGet_swept (tsorted_berthTable hinv) value tag i)

end Sys2Proof.Claims
end

section
/-! Regions of HBM that are not released, retired pages and dredging (R170, R173, R190, R201). -/

namespace Sys2Proof.Machine

/-! ## Cleared memory -/

theorem tget_tclear {β : Type} (m : Tbl β) (lo hi k : Nat) (d : β) :
    tget (tclear m lo hi) k d = if lo ≤ k ∧ k < hi then d else tget m k d := by
  induction m with
  | nil => simp [tclear, tget]
  | cons e r ih =>
    obtain ⟨a, v⟩ := e
    rw [tclear] at ih
    by_cases hk : a = k
    · subst hk
      by_cases hc : lo ≤ a ∧ a < hi
      · have hout : (decide (a < lo) || decide (hi ≤ a)) = false := by
          simp only [Bool.or_eq_false_iff, decide_eq_false_iff_not]
          omega
        simp only [tclear, List.filter_cons, hout, Bool.false_eq_true, if_false, ih, if_pos hc]
      · have hin : (decide (a < lo) || decide (hi ≤ a)) = true := by
          simp only [Bool.or_eq_true, decide_eq_true_eq]
          omega
        simp only [tclear, List.filter_cons, hin, if_true, tget, if_neg hc]
    · simp only [tclear, List.filter_cons]
      split <;> simp only [tget, if_neg hk, ih]

theorem Memory.readBytes_of_zero {m : Memory} {a n : Nat} (h : ∀ j, a ≤ j → j < a + n → Memory.read m j = 0) :
    Memory.readBytes m a n = List.replicate n 0 := by
  induction n generalizing a with
  | zero => rfl
  | succ n ih =>
    rw [Memory.readBytes, h a le_rfl (by omega), ih fun j hj hn => h j (by omega) (by omega), List.replicate_succ]

theorem bytesToNat_replicate_zero (n : Nat) : bytesToNat (List.replicate n 0) = 0 := by
  induction n with
  | zero => rfl
  | succ n ih => rw [List.replicate_succ, bytesToNat, ih, Nat.mul_zero]; rfl

namespace MemSt

variable (m : MemSt)

theorem read_clear (lo hi a : Nat) : Memory.read (m.clear lo hi).bytes a = if lo ≤ a ∧ a < hi then 0 else Memory.read m.bytes a :=
  tget_tclear ..

/-- A parcel of a cleared range is one of zeros with its check and no poison. -/
theorem parcel_clear {lo hi p : Nat} (hlo : 256 ∣ lo) (hhi : 256 ∣ hi) (hp : lo ≤ 256 * p) (hq : 256 * p < hi) :
    (m.clear lo hi).parcel (256 * p) = zeroParcel false := by
  have hbytes : (m.clear lo hi).bytes.readBytes (256 * p) 256 = List.replicate 256 0 :=
    Memory.readBytes_of_zero fun a ha hb => by rw [read_clear, if_pos (by omega)]
  have hin : lo / 256 ≤ p ∧ p < hi / 256 := by omega
  rw [parcel, hbytes, Parcel.ofBytes, bytesToNat_replicate_zero]
  simp only [clear, tget_tclear, Nat.mul_div_cancel_left _ (show 0 < 256 by decide), if_pos hin]
  rfl

end MemSt

/-! ## The walk of a controller -/

/-- A controller whose walk has begun is read back, from any table. -/
theorem mcGet_mcSet_of_walked (s : State) (m : Nat) {x : McSt} (h : x.dredge ≠ 0) : mcGet (mcSet s m x) m = x :=
  tget_tset_of_ne _ _ fun hx => h (congrArg McSt.dredge hx)

/-- A walk with no region ahead of it goes one region further. -/
theorem McSt.pass_of_no_ahead {x : McSt} (h : x.ahead = []) : x.pass = { x with dredge := x.dredge + 1 } := by
  rw [McSt.pass, h]
  rfl

theorem McSt.released_of_walked {x : McSt} {r : Nat} (hd : r < x.dredge) (hk : r ∉ x.skipped) : x.released r = true := by
  simp [McSt.released, hd, hk]

theorem McSt.released_of_skipped {x : McSt} {r : Nat} (hk : r ∈ x.skipped) : x.released r = false := by
  simp [McSt.released, hk]

/-! ## Reads that a controller does not answer from memory -/

/-- From `s` to `t` a controller has counted, captured and logged. -/
structure RecordFrame (s t : State) : Prop where
  out   : t.out = s.out
  mem   : t.mem = s.mem
  cores : t.cores = s.cores
  boll  : t.boll = s.boll

theorem RecordFrame.trans {s t u : State} (h : RecordFrame s t) (g : RecordFrame t u) : RecordFrame s u :=
  ⟨g.out.trans h.out, g.mem.trans h.mem, g.cores.trans h.cores, g.boll.trans h.boll⟩

theorem RecordFrame.ite {s t u : State} {c : Prop} [Decidable c] (h : RecordFrame s t) (g : RecordFrame s u) :
    RecordFrame s (if c then t else u) := by
  split
  · exact h
  · exact g

section
variable (s : State)

theorem recordFrame_cntAdd (off n : Nat) : RecordFrame s (cntAdd s off n) := ⟨rfl, rfl, rfl, rfl⟩
theorem recordFrame_cntAdd64 (off n : Nat) : RecordFrame s (cntAdd64 s off n) := ⟨rfl, rfl, rfl, rfl⟩
theorem recordFrame_mcSet (m : Nat) (x : McSt) : RecordFrame s (mcSet s m x) := ⟨rfl, rfl, rfl, rfl⟩
theorem recordFrame_logCapture64 (off : Nat) (lo hi : Word) : RecordFrame s (logCapture64 s off lo hi) :=
  RecordFrame.ite ⟨rfl, rfl, rfl, rfl⟩ ⟨rfl, rfl, rfl, rfl⟩
theorem recordFrame_logRecord (kind slot unit detail addr tag : Nat) : RecordFrame s (logRecord s kind slot unit detail addr tag) :=
  ⟨logRecord_out .., logRecord_mem .., logRecord_cores .., logRecord_boll ..⟩

theorem recordFrame_retiredHit (m off : Nat) (write : Bool) (src : MemSource) (tag : Nat) :
    RecordFrame s (retiredHit s m off write src tag) :=
  have hcount := recordFrame_cntAdd s ((blkMC m).reg 0x06C) 1
  .ite hcount ((hcount.trans (recordFrame_mcSet ..)).trans (recordFrame_logRecord ..))

theorem recordFrame_unwrittenHit (m off : Nat) (src : MemSource) (tag : Nat) : RecordFrame s (unwrittenHit s m off src tag) :=
  have hcapture := (recordFrame_cntAdd s ((blkMC m).reg 0x024) 1).trans (recordFrame_logCapture64 ..)
  .ite hcapture ((hcapture.trans (recordFrame_mcSet ..)).trans (recordFrame_logRecord ..))

end

theorem mcGet_cntAdd64 (s : State) (off n m : Nat) : mcGet (cntAdd64 s off n) m = mcGet s m := by
  rw [mcGet, cntAdd64_mc]
  rfl

/-- What the scrubber passes over reads as poisoned zeros to everyone else (R173, R201). -/
theorem hbmRead_of_scrubSkips {s : State} {m off : Nat} (h : scrubSkips (mcGet s m) (off / 256 * 256) = true) (src : MemSource)
    (tag : Nat) : ∃ t, hbmRead s m off src tag = (t, zeroParcel true) ∧ RecordFrame s t := by
  have hcount := recordFrame_cntAdd64 s ((blkMC m).reg 0x030) 1
  unfold hbmRead
  dsimp only
  rw [mcGet_cntAdd64]
  split
  · exact ⟨_, rfl, hcount.trans (recordFrame_retiredHit ..)⟩
  · rename_i hr
    have hn : (!(mcGet s m).released (regionOf (off / 256 * 256))) = true := by
      rw [scrubSkips, Bool.or_eq_true] at h
      exact h.resolve_right hr
    rw [if_pos hn]
    exact ⟨_, rfl, hcount.trans (recordFrame_unwrittenHit ..)⟩

end Sys2Proof.Machine

namespace Sys2Proof.Claims

open Sys2Proof Sys2Proof.Machine

section
variable {m : Fin 16} {s : State} (hs : mcServes s m.val = true)
include hs

theorem hbmRead_scrubber_skips {parcel : BitVec 29} (hk : scrubSkips (mcGet s m.val) (parcel.toNat * 256) = true) :
    exec (.hbmRead m parcel .scrubber [] false) s = .next s := by
  simp only [exec, execHbmRead, hs, hk, Bool.not_true, Bool.false_or, beq_self_eq_true, Bool.and_self, if_true]

theorem hbmRead_of_not_scrubber (parcel : BitVec 29) {source : MemSource} (hsrc : source ≠ .scrubber) :
    let r := hbmRead s m.val (parcel.toNat * 256) source 0
    exec (.hbmRead m parcel source [] false) s =
      .next (r.1.emit (.hbmData m.val (parcel.toNat * 256) r.2.data r.2.check r.2.poison)) := by
  simp only [exec, execHbmRead, hs, beq_eq_false_iff_ne.2 hsrc, Bool.not_true, Bool.false_and, Bool.or_self, Bool.false_eq_true, if_false]
  rfl

variable (hst : (mcGet s m.val).started = true) (hd : (mcGet s m.val).dredge < 65536) (ha : (mcGet s m.val).ahead = [])
include hst hd

theorem dredgeRegion_walks : (mcServes s m.val && (mcGet s m.val).started && decide ((mcGet s m.val).dredge < regionCount)) = true := by
  rw [hs, hst, decide_eq_true (show (mcGet s m.val).dredge < regionCount from hd)]
  rfl

include ha

theorem dredgeRegion_of_sound (hr : (mcGet s m.val).retiredPage ((mcGet s m.val).dredge / 2) = false) :
    let x := mcGet s m.val
    let lo := hbmBase m.val + x.dredge * 0x200000
    exec (.dredgeRegion m) s =
      .next (mcSet (s.setMem (s.mem.clear lo (lo + 0x200000))) m.val { x with dredge := x.dredge + 1 }) := by
  refine (if_pos (dredgeRegion_walks hs hst hd)).trans ((if_neg (Bool.eq_false_iff.1 hr)).trans ?_)
  simp only [dredge, if_true, McSt.pass_of_no_ahead ha]

theorem dredgeRegion_of_retired (hr : (mcGet s m.val).retiredPage ((mcGet s m.val).dredge / 2) = true) :
    let x := mcGet s m.val
    exec (.dredgeRegion m) s = .next (mcSet s m.val { x with skipped := x.dredge :: x.skipped, dredge := x.dredge + 1 }) := by
  refine (if_pos (dredgeRegion_walks hs hst hd)).trans ((if_pos hr).trans ?_)
  exact congrArg (fun y => Host.Outcome.next (mcSet s m.val y)) (McSt.pass_of_no_ahead ha)

end

/-- Settles O31: what the scrubber passes over is what reads as poisoned zeros, and a walk clears its region or skips it. -/
theorem hbmRegions : Obligations.HbmRegions := by
  refine ⟨?_, ?_⟩
  · intro m parcel source s hs hu
    have hskip : scrubSkips (mcGet s m.val) (parcel.toNat * 256) = true := by
      rw [scrubSkips, Bool.or_eq_true, Bool.not_eq_true']
      exact hu
    refine ⟨fun h => by rw [h]; exact hbmRead_scrubber_skips hs hskip, fun h => ?_⟩
    have hal : parcel.toNat * 256 / 256 * 256 = parcel.toNat * 256 := by rw [Nat.mul_div_cancel _ (by decide)]
    obtain ⟨t, ht, hframe⟩ := hbmRead_of_scrubSkips (s := s) (by rw [hal]; exact hskip) source 0
    refine ⟨_, hbmRead_of_not_scrubber hs parcel h, ?_⟩
    rw [ht]
    exact ⟨congrArg (· ++ _) hframe.out, hframe.mem, hframe.cores, hframe.boll⟩
  · intro m s x lo hs hst hd ha _
    refine ⟨fun hr hk => ⟨_, dredgeRegion_of_sound hs hst hd ha hr, ?_, ?_, s.mem.read_clear lo _, fun p hp hq => ?_, rfl, rfl, rfl⟩,
      fun hr => ⟨_, dredgeRegion_of_retired hs hst hd ha hr, ?_, ?_, rfl, rfl, rfl, rfl⟩⟩
    · rw [mcGet_mcSet_of_walked _ _ (Nat.succ_ne_zero _)]
      exact McSt.released_of_walked (Nat.lt_succ_self _) hk
    · rw [mcGet_mcSet_of_walked _ _ (Nat.succ_ne_zero _)]
    · have hlo : 256 ∣ lo := by
        simp only [lo, hbmBase]
        omega
      exact s.mem.parcel_clear hlo (Nat.dvd_add hlo (by decide)) hp hq
    · rw [mcGet_mcSet_of_walked _ _ (Nat.succ_ne_zero _)]
      exact McSt.released_of_skipped List.mem_cons_self
    · rw [mcGet_mcSet_of_walked _ _ (Nat.succ_ne_zero _)]

end Sys2Proof.Claims
end

section
/-! Refresh, scrubbing, retirement, error injection and the consumption of records (R153, R195, R198, R200–R203). -/

namespace Sys2Proof.Claims

open Sys2Proof Sys2Proof.Machine

/-! ## Refresh (R153) -/

theorem hbmTempSample_eq {m : Fin 16} {s : State} (temp : Byte) (hup : slotUp s (mcSlot m.val) = true)
    (hf : (mcGet s m.val).failed = false) :
    let x := mcGet s m.val
    let auto := (cfg s (blkMC m.val) 0x014).getLsbD 16
    let turn := if x.hot then decide (temp.toNat < 82) || !auto else decide (85 ≤ temp.toNat) && auto
    let n := if turn then x.agree + 1 else 0
    exec (.hbmTempSample m temp) s = .next (if 3 ≤ n ∧ 10 ≤ x.inState + 1 then
        let u := mcSet s m.val { x with temp := temp, hot := !x.hot, agree := 0, inState := 0 }
        if x.hot then u else cntAdd u ((blkMC m.val).reg 0x044) 1
      else mcSet s m.val { x with temp := temp, agree := n, inState := x.inState + 1 }) := by
  intro x auto turn n
  have hserved : (!slotUp s (mcSlot m.val) || (mcGet s m.val).failed) = false := by
    rw [hup, hf]
    rfl
  refine (if_neg (Bool.eq_false_iff.1 hserved)).trans ?_
  by_cases hc : 3 ≤ n ∧ 10 ≤ x.inState + 1
  · rw [if_pos hc]
    exact if_pos hc
  · rw [if_neg hc]
    exact if_neg hc

/-! ## Scrubbing (R195, R196, R198) -/

section
variable {s : State} (hw : windowLeft s kindScrub ≠ 0)
include hw

theorem scrubRead_hbm {m : Fin 16} (word side : BitVec 72) (hs : mcServes s m.val = true)
    (he : enabled s (blkSC (mcSlot m.val)) = true) (hc : (cfg s (blkSC (mcSlot m.val)) 0x010).getLsbD 0 = true) :
    exec (.scrubRead (.hbm m) word side) s = .next (scrubHbm s m.val) := by
  simp only [exec, execScrubRead, if_neg hw, hs, he, hc, Bool.and_self, if_true]

theorem scrubRead_sram {slot : Fin 41} (word side : BitVec 72) (hr : reachedSram s slot.val = true)
    (he : enabled s (blkSC slot.val) = true) (hc : (cfg s (blkSC slot.val) 0x010).getLsbD 1 = true) :
    exec (.scrubRead (.sram slot) word side) s = .next (scrubSram s slot.val word side) := by
  simp only [exec, execScrubRead, if_neg hw, hr, he, hc, Bool.and_self, if_true]

end

/-- The hub's SRAM is reached with the hub, another die's with its die. -/
theorem reachedSram_of {s : State} {slot : Fin 41} (hr : if slot = 0 then hubUp s = true else slotUp s slot.val = true)
    (hw : 0 < walkWords slot.val) : reachedSram s slot.val = true := by
  rw [reachedSram, decide_eq_true hw, Bool.and_true]
  by_cases h0 : slot = 0
  · rw [if_pos h0] at hr
    exact (if_pos (congrArg Fin.val h0)).trans hr
  · rw [if_neg h0] at hr
    exact (if_neg fun h => h0 (Fin.ext h)).trans hr

theorem sramPos_scrubSram {s : State} {slot : Nat} (word side : BitVec 72) (hb : (scGet s slot).sramPos < sramSched s slot)
    (hw : (scGet s slot).sramPos + 1 < walkWords slot) :
    (scGet (scrubSram s slot word side) slot).sramPos = (scGet s slot).sramPos + 1 := by
  simp only [scrubSram, if_neg (Nat.not_le.2 hb), if_neg (Nat.ne_of_lt hw)]
  refine congrArg ScrubSt.sramPos (tget_tset_of_ne _ _ fun h => ?_)
  exact Nat.succ_ne_zero _ (congrArg ScrubSt.sramPos h)

theorem mcSample_of_ended {s : State} {m : Nat} (hc : (mcGet s m).ceCount ≠ 0) (ht : (mcGet s m).ceSec < s.tide.hub.toNat / 1000000000) :
    mcSample s m = logRecord (mcSet s m { mcGet s m with ceCount := 0, ceAddr := 0 }) 0x0101 (mcSlot m) m
      (mcGet s m).ceCount (mcGet s m).ceAddr 0 :=
  if_neg (not_or_intro hc (Nat.not_le.2 ht))

theorem sramSample_of_ended {s : State} {slot : Nat} (hc : (scGet s slot).ceCount ≠ 0)
    (ht : (scGet s slot).ceSec < s.tide.hub.toNat / 1000000000) :
    sramSample s slot = logRecord (scSet s slot { scGet s slot with ceCount := 0, ceAddr := 0, ceUnit := 0 }) 0x0111 slot
      (scGet s slot).ceUnit (scGet s slot).ceCount (scGet s slot).ceAddr 0 :=
  if_neg (not_or_intro hc (Nat.not_le.2 ht))

/-! ## Retirement (R201) -/

/-- The slots in use after MC_RET_CMD has been carried out. -/
def retiredAfter (l : List (Nat × Nat)) (value : Word) (n : Nat) : List (Nat × Nat) :=
  if value.getLsbD 30 then l.filter fun e => e.1 != n else l ++ [(n, (field value 0 15 : BitVec 15).toNat)]

section
variable {m : Nat} {value : Word} {s : State} (hup : slotUp s (mcSlot m) = true) (hb : isBusy s (blkMC m) = false)
  (hv : value.getLsbD 31 = true) (hz : value &&& 0x3FC08000 = 0)
include hup hb hv hz

/-- A command without reserved bits is carried out where CLEAR finds its slot in use and a retirement finds it free. -/
theorem retireWrite_eq : let n := (field value 16 6 : BitVec 6).toNat
    let x := mcGet s m
    let u := acceptWrite s (blkMC m)
    retireWrite m value s = .next (if (x.retired.any fun e => e.1 == n) = value.getLsbD 30
      then retireResult (mcSet u m { x with retired := retiredAfter x.retired value n }) m 0 n
      else retireResult u m 2 n) := by
  have hr : retireReserved value = false := bne_eq_false_iff_eq.2 hz
  simp only [retireWrite, hup, softWrite_of_not_busy hb, hv, hr, Bool.not_true, Bool.false_eq_true, if_false]
  by_cases hu : ((mcGet s m).retired.any fun e => e.1 == (field value 16 6 : BitVec 6).toNat) = value.getLsbD 30
  · rw [if_pos hu]
    exact if_neg (bne_eq_false_iff_eq.2 hu ▸ Bool.false_ne_true)
  · rw [if_neg hu]
    exact if_pos (bne_iff_ne.2 hu)

end

/-! ## The log's consumption (R200) -/

theorem elConsume_eq {value : Word} {s : State} (hup : hubUp s = true) (hb : isBusy s blkEL = false) (hv : value.getLsbD 31 = true) :
    let n := (field value 0 13 : BitVec 13).toNat
    let u := rset (acceptWrite s blkEL) (blkEL.reg 0x020) 0
    exec (.elConsume value) s = .next (if s.elog.count < n then errCount u blkEL else elogFree u n) := by
  simp only [exec, execElConsume, hup, softWrite_of_not_busy hb, hv, Bool.not_true, Bool.false_eq_true, if_false]
  rfl

/-- Settles O32: each command's conditions are those of its clause. -/
theorem memoryCommands : Obligations.MemoryCommands := by
  refine ⟨fun m temp s hup hf => hbmTempSample_eq temp hup hf, fun m word side s hw hs he hc => scrubRead_hbm hw word side hs he hc,
    fun s m h => if_pos h, fun slot word side s hw hr hn he hc => scrubRead_sram hw word side (reachedSram_of hr hn) he hc,
    fun s slot word side => ⟨fun h => if_pos h, fun hb hw => sramPos_scrubSram word side hb hw⟩,
    fun m s hc ht => congrArg _ (mcSample_of_ended hc ht), fun slot s hc ht => congrArg _ (sramSample_of_ended hc ht), ?_, ?_, ?_, ?_, ?_⟩
  · intro m value s hup hb hv hz n x u
    have hany : (x.retired.any fun e => e.1 == n) = true ↔ ∃ e ∈ x.retired, e.1 = n := by
      simp only [List.any_eq_true, beq_iff_eq]
    have hnone : (∀ e ∈ x.retired, e.1 ≠ n) → (x.retired.any fun e => e.1 == n) = false := fun h =>
      Bool.eq_false_iff.2 fun ha => by
        obtain ⟨e, he, hn⟩ := hany.1 ha
        exact h e he hn
    have heq := retireWrite_eq hup hb hv hz
    refine ⟨fun h30 => ⟨fun h => heq.trans ?_, fun h => heq.trans ?_⟩, fun h30 => ⟨fun h => heq.trans ?_, fun h => heq.trans ?_⟩⟩
    · rw [if_pos ((hnone h).trans h30.symm), retiredAfter, if_neg (Bool.eq_false_iff.1 h30)]
    · rw [if_neg (by rw [hany.2 h, h30]; decide)]
    · rw [if_pos ((hany.2 h).trans h30.symm), retiredAfter, if_pos h30]
    · rw [if_neg (by rw [hnone h, h30]; decide)]
  · intro q value s hup hb
    simp only [exec, execScSpareReq, hup, softWrite_of_not_busy hb, Bool.not_true, Bool.false_eq_true, if_false]
  · intro m value s hup hb
    simp only [exec, execMcFlip, hup, softWrite_of_not_busy hb, Bool.not_true, Bool.false_eq_true, if_false]
  · intro slot value s hr hw hb
    simp only [exec, execScSramFlip, reachedSram_of hr hw, softWrite_of_not_busy hb, Bool.not_true, Bool.false_eq_true, if_false]
  · intro value s hup hb hv n
    refine ⟨fun hle => ⟨_, (elConsume_eq hup hb hv).trans (congrArg _ (if_neg (Nat.not_lt.2 hle))), rfl, rfl, rfl, rfl, rfl, rfl⟩,
      fun hlt => ⟨_, (elConsume_eq hup hb hv).trans (congrArg _ (if_pos hlt)), rfl, ?_⟩⟩
    rw [errCount, rget_cntAdd_of_reset _ (by decide) Nat.one_pos, rget_rset_ne _ _ (by decide)]
    rfl

end Sys2Proof.Claims
end

section
/-! Whole parcels that a controller stores, and reads back where no error has struck (R170, R172, R187, R190, R191, R201). -/

namespace Sys2Proof.Machine

/-! ## Entries of a table that are not listed -/

theorem terase_of_unlisted {β : Type} {m : Tbl β} {k : Nat} (h : ∀ e ∈ m, e.1 ≠ k) : terase m k = m := by
  induction m with
  | nil => rfl
  | cons e r ih =>
    obtain ⟨a, v⟩ := e
    have hr : terase r k = r := ih fun x hx => h x (List.mem_cons_of_mem _ hx)
    simp only [terase, if_neg (h (a, v) List.mem_cons_self), hr]

/-- A key of a cleared range is not listed. -/
theorem terase_tclear {β : Type} (m : Tbl β) {lo hi k : Nat} (hlo : lo ≤ k) (hhi : k < hi) :
    terase (tclear m lo hi) k = tclear m lo hi := by
  refine terase_of_unlisted fun e he hk => ?_
  have hout := (List.mem_filter.1 he).2
  simp only [Bool.or_eq_true, decide_eq_true_eq] at hout
  omega

/-! ## The symbol code finds no error in a difference of 0 (R188) -/

theorem gfMulBits_zero_left (n b : Nat) : gfMulBits n 0 b = 0 := by
  induction n generalizing b with
  | zero => rfl
  | succ n ih => simp only [gfMulBits, show gfDouble 0 = 0 from rfl, ih, ite_self, Nat.xor_self]

theorem symbol_zero (i : Nat) : symbol 0 i = 0 := by simp [symbol]

theorem syndromeSum_zero (n : Nat) : syndromeSum 0 n = (0, 0, 0) := by
  induction n with
  | zero => rfl
  | succ n ih => simp only [syndromeSum, ih, symbol_zero, gfMul, gfMulBits_zero_left, Nat.xor_self]

theorem symClassify_zero : symClassify 0 = .clean := by
  simp only [symClassify, syndromes, syndromeSum_zero, if_true]

/-! ## Parcels without errors -/

/-- No error stands in the four burst pairs of the parcel at `a`. -/
structure MemSt.PairsSound (m : MemSt) (a : Nat) : Prop where
  err      : ∀ j < 4, tget m.hbmErr (a / 64 + j) 0 = 0
  unlisted : ∀ j < 4, terase m.hbmErr (a / 64 + j) = m.hbmErr
  flip     : ∀ j < 4, tget m.hbmFlip (a / 64 + j) false = false

section
variable {m : MemSt} {a : Nat} (h : m.PairsSound a)
include h

theorem decodePair_of_sound {j : Nat} (hj : j < 4) (f : HbmFind) : decodePair m a j f = (m, f) := by
  have hput : tset m.hbmErr (a / 64 + j) 0 0 = m.hbmErr := (if_pos rfl).trans (h.unlisted j hj)
  simp only [decodePair, h.err j hj, symClassify_zero, applyDiff, if_true, hput]

theorem decodePairs_of_sound : decodePairs m a = (m, {}) := by
  simp only [decodePairs, decodePair_of_sound h (show 0 < 4 by decide), decodePair_of_sound h (show 1 < 4 by decide),
    decodePair_of_sound h (show 2 < 4 by decide), decodePair_of_sound h (show 3 < 4 by decide)]

/-- Each pair shows the parcel's own mark. -/
theorem anyPoison_of_sound : anyPoison m a = (m.parcel a).poison := by
  have hpair : ∀ j < 4, (tget m.poison (a / 256) false != tget m.hbmFlip (a / 64 + j) false) = (m.parcel a).poison := fun j hj => by
    rw [h.flip j hj, Bool.bne_false]
    rfl
  simp only [anyPoison, show List.range 4 = [0, 1, 2, 3] from rfl, List.any_cons, List.any_nil, hpair 0 (by decide), hpair 1 (by decide),
    hpair 2 (by decide), hpair 3 (by decide), Bool.or_self, Bool.or_false]

end

/-- Store a whole parcel of HBM: no error stands in its burst pairs (R191). -/
def MemSt.storeParcel (m : MemSt) (a : Nat) (d : PData) : MemSt :=
  { m.setParcel a d with hbmErr := tclear m.hbmErr (a / 64) (a / 64 + 4), hbmPois := tclear m.hbmPois (a / 64) (a / 64 + 4),
                         hbmFlip := tclear m.hbmFlip (a / 64) (a / 64 + 4) }

theorem MemSt.stored_storeParcel (m : MemSt) (a : Nat) (d : PData) : m.Stored (m.storeParcel a d) a d := by
  constructor <;> simp only [MemSt.storeParcel, MemSt.setParcel]

theorem MemSt.pairsSound_storeParcel (m : MemSt) (a : Nat) (d : PData) : (m.storeParcel a d).PairsSound a where
  err _ hj := (tget_tclear ..).trans (if_pos ⟨Nat.le_add_right .., Nat.add_lt_add_left hj _⟩)
  unlisted _ hj := terase_tclear _ (Nat.le_add_right ..) (Nat.add_lt_add_left hj _)
  flip _ hj := (tget_tclear ..).trans (if_pos ⟨Nat.le_add_right .., Nat.add_lt_add_left hj _⟩)

/-! ## What a controller counts -/

theorem Blk.reg_ne (b : Blk) {o p : Nat} (h : o ≠ p) : b.reg o ≠ b.reg p := fun he => h (Nat.add_left_cancel he)

theorem Blk.reg_ne_high (b : Blk) {o p : Nat} (h : o ≠ p + 4) : b.reg o ≠ b.reg p + 4 := fun he =>
  h (Nat.add_left_cancel (he.trans (Nat.add_assoc ..)))

/-- From `s` to `t` the controller of stack `m` has counted: no state that it serves by has changed, and its injector is armed as it
was. -/
structure Counted (m : Nat) (s t : State) : Prop extends RecordFrame s t where
  mc   : t.mc = s.mc
  hm   : t.hm = s.hm
  ctrl : rget t ((blkMC m).reg 0x004) = rget s ((blkMC m).reg 0x004)
  flip : rget t ((blkMC m).reg 0x058) = rget s ((blkMC m).reg 0x058)

namespace Counted

variable {m : Nat} {s t u : State}

theorem refl (m : Nat) (s : State) : Counted m s s := ⟨⟨rfl, rfl, rfl, rfl⟩, rfl, rfl, rfl, rfl⟩

theorem trans (h : Counted m s t) (g : Counted m t u) : Counted m s u :=
  ⟨h.toRecordFrame.trans g.toRecordFrame, g.mc.trans h.mc, g.hm.trans h.hm, g.ctrl.trans h.ctrl, g.flip.trans h.flip⟩

theorem ite {c : Prop} [Decidable c] (h : Counted m s t) (g : Counted m s u) : Counted m s (if c then t else u) := by
  split
  · exact h
  · exact g

theorem mcGet_eq (h : Counted m s t) (n : Nat) : mcGet t n = mcGet s n := by rw [mcGet, h.mc, mcGet]

/-- Counting keeps a controller at its service. -/
theorem mcServes_eq (h : Counted m s t) : mcServes t m = mcServes s m := by
  simp only [mcServes, dieState, enabled, h.hm, h.ctrl, h.mcGet_eq]

theorem setMem (h : Counted m s t) (x : MemSt) : Counted m (s.setMem x) (t.setMem x) :=
  ⟨⟨h.out, rfl, h.cores, h.boll⟩, h.mc, h.hm, h.ctrl, h.flip⟩

theorem dredge (h : Counted m s t) (r : Nat) : Counted m (dredge s m r) (dredge t m r) := by
  simp only [Machine.dredge, h.mem, h.mcGet_eq]
  exact ⟨⟨h.out, rfl, h.cores, h.boll⟩, by simp only [mcSet_mc, State.setMem_mc, h.mc], h.hm, h.ctrl, h.flip⟩

end Counted

section
variable (s : State) (m : Nat)

theorem counted_cntAdd {o : Nat} (n : Nat) (hc : 0x004 ≠ o) (hf : 0x058 ≠ o) : Counted m s (cntAdd s ((blkMC m).reg o) n) :=
  ⟨recordFrame_cntAdd .., cntAdd_mc .., cntAdd_hm .., rget_cntAdd_ne _ _ (Blk.reg_ne _ hc), rget_cntAdd_ne _ _ (Blk.reg_ne _ hf)⟩

theorem counted_cntAdd64 {o : Nat} (n : Nat) (hc : 0x004 ≠ o) (hf : 0x058 ≠ o) (hc' : 0x004 ≠ o + 4) (hf' : 0x058 ≠ o + 4) :
    Counted m s (cntAdd64 s ((blkMC m).reg o) n) :=
  ⟨recordFrame_cntAdd64 .., cntAdd64_mc .., cntAdd64_hm .., rget_cntAdd64_ne _ _ (Blk.reg_ne _ hc) (Blk.reg_ne_high _ hc'),
    rget_cntAdd64_ne _ _ (Blk.reg_ne _ hf) (Blk.reg_ne_high _ hf')⟩

theorem counted_rfm : Counted m s (rfm s m) := by
  have htake : Counted m s s.takeFree := ⟨⟨rfl, rfl, rfl, rfl⟩, rfl, rfl, rfl, rfl⟩
  exact Counted.ite (htake.trans (counted_cntAdd _ m _ (by decide) (by decide))) (Counted.refl m s)

end

/-! ## Regions that a write releases (R172) -/

theorem McSt.dredge_le_advance (n : Nat) (x : McSt) : x.dredge ≤ (x.advance n).dredge := by
  induction n generalizing x with
  | zero => exact le_rfl
  | succ n ih =>
    rw [McSt.advance]
    split
    · exact Nat.le_of_succ_le (ih { x with dredge := x.dredge + 1, ahead := x.ahead.erase x.dredge })
    · exact le_rfl

theorem McSt.skipped_advance (n : Nat) (x : McSt) : (x.advance n).skipped = x.skipped := by
  induction n generalizing x with
  | zero => rfl
  | succ n ih =>
    rw [McSt.advance]
    split
    · exact ih _
    · rfl

/-- A region that is neither released nor passed over is released once it is dredged. -/
theorem released_dredge {s : State} {m r : Nat} (hk : r ∉ (mcGet s m).skipped) : (mcGet (dredge s m r) m).released r = true := by
  have hk' : ((mcGet s m).skipped.contains r) = false := by simpa using hk
  by_cases hr : r = (mcGet s m).dredge
  · have hd : r < (mcGet s m).pass.dredge := Nat.lt_of_lt_of_le (hr ▸ Nat.lt_succ_self _) (McSt.dredge_le_advance ..)
    have hx : mcGet (dredge s m r) m = (mcGet s m).pass := by
      simp only [dredge, if_pos hr]
      exact mcGet_mcSet_of_walked _ _ (Nat.ne_zero_of_lt hd)
    rw [hx]
    exact McSt.released_of_walked hd ((McSt.skipped_advance ..).symm ▸ hk)
  · have hx : mcGet (dredge s m r) m = { mcGet s m with ahead := r :: (mcGet s m).ahead } := by
      simp only [dredge, if_neg hr, hk', Bool.false_eq_true, if_false]
      exact tget_tset_of_ne _ _ fun h0 => List.cons_ne_nil _ _ (congrArg McSt.ahead h0)
    rw [hx]
    simp [McSt.released, hk]

/-! ## Reads and writes of a controller -/

/-- The state once the region `r` is released. -/
def opened (s : State) (m r : Nat) : State := if (mcGet s m).released r then s else dredge s m r

theorem counted_hbmStore (s : State) (m off : Nat) (d : PData) :
    let u := opened s m (regionOf off)
    Counted m (u.setMem (u.mem.storeParcel (hbmBase m + off) d)) (hbmStore s m off d) := by
  intro u
  have h1 : Counted m s (cntAdd64 s ((blkMC m).reg 0x038) 1) := counted_cntAdd64 s m 1 (by decide) (by decide) (by decide) (by decide)
  unfold hbmStore
  extract_lets a s1 s2
  have h2 : Counted m u s2 := by
    simp only [u, s2, opened, h1.mcGet_eq, s1]
    split
    · exact h1
    · exact (h1.dredge _).trans (counted_cntAdd _ m 1 (by decide) (by decide))
  have h3 : Counted m (u.setMem (u.mem.storeParcel a d)) (s2.setMem (s2.mem.storeParcel a d)) := by
    rw [h2.mem]
    exact h2.setMem _
  exact h3.trans (counted_rfm _ m)

/-- A write through an injector that is not armed stores its parcel (R191, R203). -/
theorem hbmWrite_of_disarmed {s : State} {m off : Nat} (hal : off / 256 * 256 = off) (hp : (mcGet s m).retiredPage (off / 0x400000) = false)
    (hf : (rget s ((blkMC m).reg 0x058)).getLsbD 31 = false) (src : MemSource) (d : PData) (tag : Nat) :
    hbmWrite s m off src d tag = hbmStore s m off d := by
  have hopen : (opened s m (regionOf off)).regs = s.regs := by
    unfold opened
    split <;> rfl
  have hflip : rget (hbmStore s m off d) ((blkMC m).reg 0x058) = rget s ((blkMC m).reg 0x058) := by
    rw [(counted_hbmStore s m off d).flip, rget, State.setMem_regs, hopen, rget]
  simp only [hbmWrite, hal, hp, hflip, hf, Bool.false_and, Bool.false_eq_true, if_false]

theorem RecordFrame.setMem_self {s t : State} (h : RecordFrame s t) : RecordFrame s (t.setMem s.mem) :=
  ⟨h.out, rfl, h.cores, h.boll⟩

/-- A released parcel without errors is read as it stands (R190). -/
theorem hbmRead_of_sound {s : State} {m off : Nat} (hal : off / 256 * 256 = off)
    (hp : (mcGet s m).retiredPage (off / 0x400000) = false) (hr : (mcGet s m).released (regionOf off) = true)
    (hm : s.mem.PairsSound (hbmBase m + off)) (src : MemSource) (tag : Nat) :
    ∃ t, hbmRead s m off src tag = (t, s.mem.parcel (hbmBase m + off)) ∧ RecordFrame s t := by
  have hcount : Counted m s (rfm (cntAdd64 s ((blkMC m).reg 0x030) 1) m) :=
    (counted_cntAdd64 s m 1 (by decide) (by decide) (by decide) (by decide)).trans (counted_rfm ..)
  simp only [hbmRead, hal, mcGet_cntAdd64, hp, hr, Bool.not_true, Bool.false_eq_true, if_false]
  generalize rfm (cntAdd64 s ((blkMC m).reg 0x030) 1) m = u at *
  simp only [hcount.mem, decodePairs_of_sound hm, anyPoison_of_sound hm, Bool.or_false, Bool.false_eq_true, if_false]
  generalize s.mem.parcel (hbmBase m + off) = d
  have hmarked : RecordFrame s (if d.poison = true then cntAdd u ((blkMC m).reg 0x050) 1 else u) :=
    RecordFrame.ite (hcount.toRecordFrame.trans (recordFrame_cntAdd ..)) hcount.toRecordFrame
  exact ⟨_, rfl, hmarked.setMem_self⟩

theorem rget_mcSet (s : State) (m : Nat) (x : McSt) (off : Nat) : rget (mcSet s m x) off = rget s off := by
  rw [rget, mcSet_regs, rget]

/-- A request to a retired page is counted. -/
theorem rget_retiredHit {s : State} (h : Inv s) (m off : Nat) (write : Bool) (src : MemSource) (tag : Nat) :
    rget (retiredHit s m off write src tag) ((blkMC m).reg 0x06C) =
      BitVec.ofNat 32 (min ((rget s ((blkMC m).reg 0x06C)).toNat + 1) (2 ^ 32 - 1)) := by
  have hx : 0x18000 ≤ (blkMC m).reg 0x06C := by
    simp only [Blk.reg, blkMC, slotBase, slotQ]
    omega
  rw [← h.rget_cntAdd, retiredHit]
  generalize cntAdd s ((blkMC m).reg 0x06C) 1 = t
  split
  · rfl
  · rw [rget_logRecord _ hx, rget_mcSet]

end Sys2Proof.Machine

namespace Sys2Proof.Claims

open Sys2Proof Sys2Proof.Machine

section
variable {m : Fin 16} {s : State} (hs : mcServes s m.val = true)
include hs

theorem hbmWrite_eq (parcel : BitVec 29) (source : MemSource) (data : Parcel) (check : Word) (poison : Bool) :
    exec (.hbmWrite m parcel source data check poison) s =
      .next (hbmWrite s m.val (parcel.toNat * 256) source ⟨data, check, poison⟩ 0) := by
  simp only [exec, execHbmWrite, hs, Bool.not_true, Bool.false_eq_true, if_false]

/-- A requester of any kind reads a released parcel without errors as it stands. -/
theorem hbmRead_eq {parcel : BitVec 29} (hp : (mcGet s m.val).retiredPage (parcel.toNat * 256 / 0x400000) = false)
    (hr : (mcGet s m.val).released (regionOf (parcel.toNat * 256)) = true)
    (hm : s.mem.PairsSound (hbmBase m.val + parcel.toNat * 256)) {d : PData}
    (hd : s.mem.parcel (hbmBase m.val + parcel.toNat * 256) = d) (source : MemSource) :
    ∃ u, exec (.hbmRead m parcel source [] false) s = .next u ∧
      u.out = s.out ++ [.hbmData m.val (parcel.toNat * 256) d.data d.check d.poison] ∧ u.mem = s.mem := by
  have hskip : scrubSkips (mcGet s m.val) (parcel.toNat * 256) = false := by
    rw [scrubSkips, hr, hp]
    rfl
  obtain ⟨u, hu, hframe⟩ := hbmRead_of_sound (Nat.div_mul_cancel (Nat.dvd_mul_left ..)) hp hr hm source 0
  rw [hd] at hu
  have hread : exec (.hbmRead m parcel source [] false) s =
      .next (u.emit (.hbmData m.val (parcel.toNat * 256) d.data d.check d.poison)) := by
    simp only [exec, execHbmRead, hs, hskip, Bool.not_true, Bool.and_false, Bool.or_self, Bool.false_eq_true, if_false]
    exact congrArg (fun r => Host.Outcome.next (r.1.emit (.hbmData m.val (parcel.toNat * 256) r.2.data r.2.check r.2.poison))) hu
  exact ⟨_, hread, congrArg (· ++ _) hframe.out, hframe.mem⟩

end

/-- Settles O30: a write is one stored parcel in a region that is released by then, and a read decodes its four pairs without error. -/
theorem hbmReadsBackWhatWasWritten : Obligations.HbmReadsBackWhatWasWritten := by
  intro m parcel source data check poison s hs hinv hflip x r a lo retired
  have hal : parcel.toNat * 256 / 256 * 256 = parcel.toNat * 256 := Nat.div_mul_cancel (Nat.dvd_mul_left ..)
  have hstore := counted_hbmStore s m.val (parcel.toNat * 256) ⟨data, check, poison⟩
  have hwrite : retired = false → exec (.hbmWrite m parcel source data check poison) s =
      .next (hbmStore s m.val (parcel.toNat * 256) ⟨data, check, poison⟩) := fun hp =>
    (hbmWrite_eq hs ..).trans (congrArg _ (hbmWrite_of_disarmed hal hp hflip ..))
  generalize hbmStore s m.val (parcel.toNat * 256) ⟨data, check, poison⟩ = t at *
  refine ⟨fun hr hp => ⟨t, hwrite hp, ?_⟩, fun hr hk hp => ⟨t, hwrite hp, ?_⟩, fun hp => ?_⟩
  · rw [show opened s m.val (regionOf (parcel.toNat * 256)) = s from if_pos hr] at hstore
    have hst : s.mem.Stored t.mem a ⟨data, check, poison⟩ := hstore.mem ▸ s.mem.stored_storeParcel a _
    have hsound : t.mem.PairsSound a := hstore.mem ▸ s.mem.pairsSound_storeParcel a ⟨data, check, poison⟩
    have hget : mcGet t m.val = x := hstore.mcGet_eq m.val
    have hback := hst.parcel_eq hinv.memOk
    exact ⟨hback, fun j hj => hst.read_ne hj, hstore.cores, hstore.boll,
      hbmRead_eq (hstore.mcServes_eq.trans hs) (hget ▸ hp) (hget ▸ hr) hsound hback source⟩
  · rw [show opened s m.val (regionOf (parcel.toNat * 256)) = dredge s m.val r from if_neg (Bool.eq_false_iff.1 hr)] at hstore
    have hst : (dredge s m.val r).mem.Stored t.mem a ⟨data, check, poison⟩ := hstore.mem ▸ MemSt.stored_storeParcel _ a _
    have hrel : (mcGet t m.val).released r = true := by
      rw [hstore.mcGet_eq]
      exact released_dredge hk
    exact ⟨hst.parcel_eq (hinv.dredge ..).memOk, hrel, fun j hj => (hst.read_ne hj).trans (s.mem.read_clear ..), hstore.cores,
      hstore.boll⟩
  · have hframe := recordFrame_retiredHit s m.val (parcel.toNat * 256) true source 0
    have hhit : hbmWrite s m.val (parcel.toNat * 256) source ⟨data, check, poison⟩ 0 =
        retiredHit s m.val (parcel.toNat * 256) true source 0 := by
      rw [hbmWrite, hal]
      exact if_pos hp
    exact ⟨_, (hbmWrite_eq hs ..).trans (congrArg _ hhit), hframe.mem, rget_retiredHit hinv .., hframe.cores, hframe.boll⟩

end Sys2Proof.Claims
end

section
/-! What a record does to the error log: it merges, it takes a slot, or it is dropped (R197, R199). -/

namespace Sys2Proof.Machine

theorem elogMerges_iff (s : State) (kind slot unit addr : Nat) : let r := tget s.elog.ring ((s.elog.head + 4095) % 4096) 0
    elogMerges s kind slot unit addr = true ↔ s.elog.count ≠ 0 ∧ (field r 64 16).toNat = kind ∧ (field r 80 8).toNat = slot ∧
      (field r 88 8).toNat = unit ∧ (field r 128 64).toNat = addr ∧ s.tide.hub.toNat ≤ (field r 0 64).toNat + 1000000 ∧
      (field r 0 64).toNat ≤ s.tide.hub.toNat + 1000000 := by
  simp only [elogMerges, Bool.and_eq_true, bne_iff_ne, beq_iff_eq, decide_eq_true_eq, and_assoc]
  rfl

/-- A free slot of the log holds the record `r`, and the record is counted. -/
def slotTaken (s : State) (r : BitVec 256) : State :=
  cntAdd { s with elog := { s.elog with ring := tset s.elog.ring s.elog.head r 0, head := (s.elog.head + 1) % 4096,
                                        count := s.elog.count + 1, seq := s.elog.seq + 1 } } (blkEL.reg 0x024) 1

/-- The most recent record held counts one more. -/
def repeatAdvanced (s : State) : State :=
  let i := (s.elog.head + 4095) % 4096
  let r := tget s.elog.ring i 0
  { s with elog := { s.elog with
      ring := tset s.elog.ring i (setField r 240 (BitVec.ofNat 16 (min ((field r 240 16).toNat + 1) 65535))) 0 } }

section
variable {s : State} {kind slot unit addr : Nat} (he : enabled s blkEL = true) (event : Bool) (detail tag : Nat)
include he

theorem logRecordEv_of_merges (hm : elogMerges s kind slot unit addr = true) :
    logRecordEv s event kind slot unit detail addr tag = repeatAdvanced s := by
  simp only [logRecordEv, he, hm, Bool.not_true, Bool.false_eq_true, if_false, if_true]
  rfl

variable (hm : elogMerges s kind slot unit addr = false)
include hm

theorem logRecordEv_of_full (hc : s.elog.count = elogSlots) : logRecordEv s event kind slot unit detail addr tag =
    logCapture (cntAdd s (blkEL.reg 0x028) 1) (blkEL.reg 0x02C) (fields 32 [(16, kind), (6, slot)]) := by
  simp only [logRecordEv, he, hm, hc, Bool.not_true, Bool.false_eq_true, if_false, if_true]

/-- A record that takes a slot may send two events besides. -/
theorem logRecordEv_of_room (hc : s.elog.count ≠ elogSlots) :
    let u := slotTaken s (mkRecord s.tide.hub kind slot unit detail addr tag s.elog.seq 0)
    let t := logRecordEv s event kind slot unit detail addr tag
    t.elog = u.elog ∧ ∀ x, x ≠ blkPL.reg 0x074 → rget t x = rget u x := by
  simp only [logRecordEv, he, hm, if_neg hc, Bool.not_true, Bool.false_eq_true, if_false]
  refine ⟨?_, fun x hx => ?_⟩
  · simp only [apply_ite State.elog, sendEvent_elog, ite_self]
    rfl
  · simp only [apply_ite (rget · x), rget_sendEvent_ne _ _ _ hx, ite_self]
    rfl

end

/-- A LOG register whose VALID is 0 is captured, any other keeps what it holds (R459). -/
theorem Inv.rget_logCapture {s : State} (h : Inv s) (off : Nat) (v : Word) :
    rget (Machine.logCapture s off v) off = if rget s off &&& validBit = 0 then v ||| validBit else rget s off := by
  unfold Machine.logCapture
  split
  · exact rget_rset_self off _ ((inv_iff s).1 h).regs
  · rfl

end Sys2Proof.Machine

namespace Sys2Proof.Claims

open Sys2Proof Sys2Proof.Machine

/-- Settles O59: the three cases are those of `logRecordEv`, and the events of a record leave the log and EL's counters alone. -/
theorem recordsMergeOrTakeSlots : Obligations.RecordsMergeOrTakeSlots := by
  intro s event kind slot unit detail addr tag hinv he t last r merges
  have hring : tsorted s.elog.ring = true := ((inv_iff s).1 hinv).elog.1
  have hiff : elogMerges s kind slot unit addr = true ↔ merges := elogMerges_iff s kind slot unit addr
  refine ⟨fun hm => ?_, fun hm hc => ?_, fun hm hc => ?_⟩
  · have ht : t = repeatAdvanced s := logRecordEv_of_merges he event detail tag (hiff.2 hm)
    rw [ht]
    exact ⟨rfl, rfl, rfl, rfl, rfl, fun i hi => tget_tset_ne _ _ _ hi, tget_tset_self _ _ _ hring⟩
  · have hfalse := Bool.eq_false_iff.2 (mt hiff.1 hm)
    obtain ⟨helog, hreg⟩ := logRecordEv_of_room he event detail tag hfalse (Nat.ne_of_lt hc)
    rw [show t.elog = _ from helog, show rget t _ = _ from hreg _ (by decide)]
    exact ⟨rfl, rfl, rfl, fun i hi => tget_tset_ne _ _ _ hi, tget_tset_self _ _ _ hring,
      rget_rset_self _ _ ((inv_iff s).1 hinv).regs⟩
  · have hfalse := Bool.eq_false_iff.2 (mt hiff.1 hm)
    have hne : blkEL.reg 0x028 ≠ blkEL.reg 0x02C := by decide
    have ht : t = _ := logRecordEv_of_full he event detail tag hfalse hc
    refine ⟨?_, ?_, ?_, ?_⟩
    · rw [ht, logCapture_elog, cntAdd_elog]
    · rw [ht, logCapture_events, cntAdd_events]
    · rw [ht, rget_logCapture_ne _ _ hne (by simp), hinv.rget_cntAdd]
    · rw [ht, (hinv.cntAdd ..).rget_logCapture, rget_cntAdd_ne _ _ hne.symm]

end Sys2Proof.Claims
end

section
/-! STOP, LOAD and RUN: the harbourmaster's commands and the verification and distribution of a chart (R221–R231). -/

namespace Sys2Proof.Machine

/-! ## What a read of SRAM leaves -/

/-- From `s` to `t` nothing has changed that the acceptance of a LOAD speaks of: the errors that a read of SRAM meets are made good,
counted and logged, and no block becomes BUSY or ends its command by that (R186). -/
structure ReadFrame (s t : State) : Prop where
  hm     : t.hm = s.hm
  now    : t.now = s.now
  boll   : t.boll = s.boll
  berth  : t.berth = s.berth
  launch : t.launch = s.launch
  busy   : t.regs.busy = s.regs.busy

theorem ReadFrame.refl (s : State) : ReadFrame s s := ⟨rfl, rfl, rfl, rfl, rfl, rfl⟩

theorem ReadFrame.trans {s t u : State} (h : ReadFrame s t) (g : ReadFrame t u) : ReadFrame s u :=
  ⟨g.hm.trans h.hm, g.now.trans h.now, g.boll.trans h.boll, g.berth.trans h.berth, g.launch.trans h.launch, g.busy.trans h.busy⟩

theorem ReadFrame.ite {s t u : State} {c : Prop} [Decidable c] (h : ReadFrame s t) (g : ReadFrame s u) :
    ReadFrame s (if c then t else u) := by
  split
  · exact h
  · exact g

section
variable (s : State)

theorem cntAdd_busy (off n : Nat) : (cntAdd s off n).regs.busy = s.regs.busy := rfl

theorem sendEvent_busy (cls : Nat) (data : BitVec 256) : (sendEvent s cls data).regs.busy = s.regs.busy := by
  unfold sendEvent
  split <;> rfl

theorem logCapture_busy (off : Nat) (v : Word) : (logCapture s off v).regs.busy = s.regs.busy := by
  rw [wordsOnly_logCapture s off v]

theorem logRecord_busy (kind slot unit detail addr tag : Nat) :
    (logRecord s kind slot unit detail addr tag).regs.busy = s.regs.busy := by
  unfold logRecord logRecordEv
  simp only [apply_ite State.regs, apply_ite RegSt.busy, logCapture_busy, sendEvent_busy, cntAdd_busy, ite_self]

theorem readFrame_rset (off : Nat) (v : Word) : ReadFrame s (rset s off v) := ⟨rfl, rfl, rfl, rfl, rfl, rfl⟩
theorem readFrame_cntAdd (off n : Nat) : ReadFrame s (cntAdd s off n) := readFrame_rset ..
theorem readFrame_setMem (m : MemSt) : ReadFrame s (s.setMem m) := ⟨rfl, rfl, rfl, rfl, rfl, rfl⟩
theorem readFrame_withSc (x : Tbl ScrubSt) : ReadFrame s { s with sc := x } := ⟨rfl, rfl, rfl, rfl, rfl, rfl⟩

theorem readFrame_logRecord (kind slot unit detail addr tag : Nat) : ReadFrame s (logRecord s kind slot unit detail addr tag) :=
  ⟨logRecord_hm .., logRecord_now .., logRecord_boll .., logRecord_berth .., logRecord_launch .., logRecord_busy ..⟩

theorem readFrame_sramSample (slot : Nat) : ReadFrame s (sramSample s slot) :=
  .ite (.refl s) ((readFrame_withSc ..).trans (readFrame_logRecord ..))

theorem readFrame_sramCorrected (a : Nat) (who : SramReader) : ReadFrame s (sramCorrected s a who) := by
  unfold sramCorrected
  extract_lets u t v
  have ht : ReadFrame s t := by
    unfold t
    split
    exacts [readFrame_cntAdd .., .refl s]
  exact ((ht.trans (.ite (readFrame_cntAdd ..) (.refl t))).trans (readFrame_sramSample ..)).trans (readFrame_withSc ..)

theorem readFrame_sramUncorrectable (a : Nat) (who : SramReader) (side : Bool) :
    ReadFrame s (sramUncorrectable s a who side) := by
  unfold sramUncorrectable
  extract_lets u t v
  have ht : ReadFrame s t := by
    unfold t
    split
    exacts [readFrame_cntAdd .., .refl s]
  exact (ht.trans (.ite (readFrame_cntAdd ..) (.refl t))).trans (readFrame_logRecord ..)

theorem readFrame_sramFixWord (a : Nat) (who : SramReader) : ReadFrame s (sramFixWord s a who) :=
  .ite (.refl s) (.ite ((readFrame_setMem ..).trans (readFrame_sramCorrected ..))
    ((readFrame_setMem ..).trans (readFrame_sramUncorrectable ..)))

theorem readFrame_sideFix (a : Nat) (who : SramReader) : ReadFrame s (sideFix s a who) :=
  .ite ((readFrame_setMem ..).trans (readFrame_sramUncorrectable ..))
    (.ite (.refl s) ((readFrame_setMem ..).trans (readFrame_sramCorrected ..)))

theorem readFrame_sramWords (a : Nat) (who : SramReader) (n : Nat) : ReadFrame s (sramWords s a who n) := by
  induction n generalizing s a with
  | zero => exact .refl s
  | succ n ih =>
    have hword : ReadFrame s (sramFixWord (if a % 256 = 0 then sideFix s a who else s) a who) :=
      (ReadFrame.ite (readFrame_sideFix ..) (.refl s)).trans (readFrame_sramFixWord ..)
    exact hword.trans (ih _ _)

theorem readFrame_sramFix (a : Nat) (who : SramReader) (n : Nat) : ReadFrame s (sramFix s a who n) :=
  (readFrame_sideFix ..).trans (readFrame_sramWords ..)

end

/-! ## Results, and the end of a LOAD -/

section
variable (s : State) (cmd code : Nat) (l : List Shortfall) (detail : Nat)

@[simp] theorem hmResult_hm : (hmResult s cmd code l detail).hm = s.hm := by
  simp only [hmResult, hmEvent, apply_ite State.hm, sendEvent_hm, cntAdd_hm, logCapture_hm, ite_self]
@[simp] theorem hmResult_mem : (hmResult s cmd code l detail).mem = s.mem := by
  simp only [hmResult, hmEvent, apply_ite State.mem, sendEvent_mem, cntAdd_mem, logCapture_mem, ite_self]
@[simp] theorem hmResult_boll : (hmResult s cmd code l detail).boll = s.boll := by
  simp only [hmResult, hmEvent, apply_ite State.boll, sendEvent_boll, cntAdd_boll, logCapture_boll, ite_self]
@[simp] theorem hmResult_berth : (hmResult s cmd code l detail).berth = s.berth := by
  simp only [hmResult, hmEvent, apply_ite State.berth, sendEvent_berth, cntAdd_berth, logCapture_berth, ite_self]
@[simp] theorem hmResult_launch : (hmResult s cmd code l detail).launch = s.launch := by
  simp only [hmResult, hmEvent, apply_ite State.launch, sendEvent_launch, cntAdd_launch, logCapture_launch, ite_self]

end

/-- The end of a LOAD changes the harbourmaster's state and registers only (R231). -/
theorem endLoad_frame (s : State) (st : HmState) :
    endLoad s st = { s with hm := { s.hm with st := st, loading := none }, regs := (endLoad s st).regs } := by
  unfold endLoad
  extract_lets micros t
  split <;> rfl

section
variable (s : State) (st : HmState)

@[simp] theorem endLoad_hm : (endLoad s st).hm = { s.hm with st := st, loading := none } := by rw [endLoad_frame]
@[simp] theorem endLoad_mem : (endLoad s st).mem = s.mem := by rw [endLoad_frame]
@[simp] theorem endLoad_boll : (endLoad s st).boll = s.boll := by rw [endLoad_frame]
@[simp] theorem endLoad_berth : (endLoad s st).berth = s.berth := by rw [endLoad_frame]
@[simp] theorem endLoad_launch : (endLoad s st).launch = s.launch := by rw [endLoad_frame]

end

/-- A LOAD that fails during distribution leaves no chart in force (R226). -/
@[simp] theorem loadFail_hm (s : State) (slot : Nat) :
    (loadFail s slot).hm = { s.hm with st := .failed, chart := none, loading := none } := by
  rw [loadFail, hmResult_hm, endLoad_hm]

@[simp] theorem loadFail_mem (s : State) (slot : Nat) : (loadFail s slot).mem = s.mem := by
  rw [loadFail, hmResult_mem, endLoad_mem]

/-! ## STOP, LOAD and RUN -/

/-- STOP where a chart runs, and its refusal (R221, R222). -/
theorem stopCmd_eq (s : State) : stopCmd s = if s.hm.st = .running then
      let u := discardEntries (hmSet (hmTaken s) .stopping)
      (running u).foldl (fun t set => killVoyage t set 0x20 0) u
    else hmResult (hmTaken s) 1 9 [] 0 := by
  by_cases h : s.hm.st = .running
  · simp only [stopCmd, h, bne_self_eq_false, Bool.false_eq_true, if_false, if_true]
  · simp only [stopCmd, bne_iff_ne.2 h, if_true, if_neg h, hmWrongState]

/-- LOAD is refused while a chart runs, stops or is loaded (R221). -/
theorem loadCmd_of_refused {s : State} (value : Word) (h : s.hm.st = .running ∨ s.hm.st = .stopping ∨ s.hm.st = .loading) :
    loadCmd s value = hmResult (hmTaken s) 2 9 [] 0 := by
  rcases h with h | h | h <;> exact if_pos (by rw [h]; rfl)

/-- The chart that a LOAD reads: the errors of its SRAM are made good, and then its bytes are taken as they stand (R223). -/
theorem loadCmd_of_accepted {s : State} (value : Word) (h : s.hm.st = .empty ∨ s.hm.st = .stopped ∨ s.hm.st = .failed) :
    ∃ t n, ReadFrame (setBusy (hmTaken s) blkBT true) t ∧ loadCmd s value = { t with hm := { t.hm with st := .loading, loading := some {
      offset := (field value 8 18).toNat * 256, start := t.now
      bytes := t.mem.bytes.readBytes (hubSramBase + (field value 8 18).toNat * 256) n, prior := t.hm.st } } } := by
  have hst : ¬ (s.hm.st != .empty && s.hm.st != .stopped && s.hm.st != .failed) = true := by
    rcases h with h | h | h <;> rw [h] <;> decide
  have hclear (u : State) : ReadFrame u ((List.range 64).foldl (fun t i => rset t (blkHM.reg (0x100 + 4 * i)) 0) u) :=
    List.foldlRecOn (motive := ReadFrame u) _ _ (.refl u) fun _ ht _ _ => ht.trans (readFrame_rset ..)
  unfold loadCmd
  rw [if_neg hst]
  extract_lets off s1 s2 s3 n t
  exact ⟨t, n, ((hclear s1).trans (readFrame_sramFix ..)).trans (readFrame_sramFix ..), rfl⟩

/-- A block in the list of those that hold a command is BUSY (R464). -/
theorem isBusy_of_mem {s : State} {b : Blk} (h : b.base ∈ s.regs.busy) : isBusy s b = true := by
  rw [isBusy, cmdBusy, List.contains_iff_mem.2 h, Bool.true_or, Bool.true_or]

/-- BT is held BUSY from the acceptance of a LOAD on (R223). -/
theorem ReadFrame.isBusy_of_setBusy {s t : State} {b : Blk} (h : ReadFrame (setBusy s b true) t) : isBusy t b = true :=
  isBusy_of_mem (h.busy ▸ List.mem_cons_self)

/-- RUN is accepted with a chart that stands by alone (R221). -/
theorem runCmd_of_refused {s : State} (h : s.hm.st ≠ .stopped) : runCmd s = hmResult (hmTaken s) 3 9 [] 0 :=
  if_pos (bne_iff_ne.2 h)

/-- The disabled blocks of the chart, which RUN enables (R228, R463). -/
def blocksToEnable (s : State) : List Blk :=
  (chartBlocks (upSlots s) (match s.hm.chart with
    | some c => mapped c
    | none => [])).filter fun b => !enabled s b

section
variable {s u : State} (h : s.hm.st = .stopped)
include h

/-- RUN enables every block of the chart, and the chart runs (R228). -/
theorem runCmd_of_enabled (he : enableAll (hmTaken s) (blocksToEnable (hmTaken s)) = (u, none)) :
    runCmd s = hmResult (hmSet u .running) 3 0 [] 0 := by
  rw [runCmd, if_neg (by rw [h]; decide)]
  dsimp only
  split
  · next hsome => cases he.symm.trans hsome
  · next hnone =>
    cases he.symm.trans hnone
    rfl

/-- A block of the chart that refuses keeps the chart from running (R463). -/
theorem runCmd_of_block_refuses {slot : Nat} (he : enableAll (hmTaken s) (blocksToEnable (hmTaken s)) = (u, some slot)) :
    runCmd s = hmResult u 3 8 [] slot := by
  rw [runCmd, if_neg (by rw [h]; decide)]
  dsimp only
  split
  · next hsome =>
    cases he.symm.trans hsome
    rfl
  · next hnone => cases he.symm.trans hnone

end

end Sys2Proof.Machine

namespace Sys2Proof.Claims

open Sys2Proof Sys2Proof.Machine

/-! ## HM_CMD -/

section
variable {value : Word} {s : State} (hup : hubUp s = true) (hb : isBusy s blkHM = false) (hv : value.getLsbD 31 = true)
include hup hb hv

/-- A command that HM_CMD takes goes by its CMD (R221). -/
theorem hmRow_eq : hmRow value s =
    let n := (field value 0 2 : BitVec 2).toNat
    let w := acceptWrite s blkHM
    .next (if n = 0 then hmResult (hmTaken w) 0 10 [] 0 else if n = 1 then stopCmd w else if n = 2 then loadCmd w value else runCmd w) := by
  have hup' : hubUp (acceptWrite s blkHM) = true := hup
  simp only [hmRow, hmCommand, hup, hup', hv, softWrite_of_not_busy hb, Bool.not_true, Bool.false_eq_true, if_false]
  generalize (field value 0 2 : BitVec 2).toNat = n
  match n with
  | 0 | 1 | 2 | _ + 3 => rfl

theorem hmCmdInvalid_eq (hn : (field value 0 2 : BitVec 2).toNat = 0) :
    exec (.hmCmdInvalid value) s = .next (hmResult (hmTaken (acceptWrite s blkHM)) 0 10 [] 0) := by
  simp only [exec, execHmCmdInvalid, hmRow_eq hup hb hv, hn, if_true]

theorem stop_eq (hn : (field value 0 2 : BitVec 2).toNat = 1) : exec (.stop value) s = .next (stopCmd (acceptWrite s blkHM)) := by
  simp only [exec, execStop, hmRow_eq hup hb hv, hn, one_ne_zero, if_false, if_true]

theorem load_eq (hn : (field value 0 2 : BitVec 2).toNat = 2) :
    exec (.load value) s = .next (loadCmd (acceptWrite s blkHM) value) := by
  simp only [exec, execLoad, hmRow_eq hup hb hv, hn, two_ne_zero, OfNat.ofNat_ne_one, if_false, if_true]

theorem run_eq (hn : (field value 0 2 : BitVec 2).toNat = 3) : exec (.run value) s = .next (runCmd (acceptWrite s blkHM)) := by
  simp only [exec, execRun, hmRow_eq hup hb hv, hn, three_ne_zero, OfNat.ofNat_ne_one, Nat.reduceEqDiff, if_false]

end

/-! ## Verification and distribution -/

section
variable {s : State} {l : Loading} (hl : s.hm.loading = some l)
include hl

/-- A verification that fails counts a bad signature and ends the LOAD in the state before it (R223). -/
theorem loadVerifyDone_of_fails (hc : l.chart = none) {code : Nat} {shorts : List Shortfall} {sig : Bool}
    (hv : verifyChart s l.offset l.bytes = .fails code shorts sig) : exec .loadVerifyDone s =
      .next (hmResult (endLoad (if sig then cntAdd s (blkSB.reg 0x064) 1 else s) l.prior) 2 code shorts 0) := by
  simp only [exec, execLoadVerifyDone, hl, hc, hv, Option.isSome_none, Bool.false_eq_true, if_false]

theorem loadVerifyDone_of_loads (hc : l.chart = none) {c : Chart} (hv : verifyChart s l.offset l.bytes = .loads c) :
    ∃ t, exec .loadVerifyDone s = .next t ∧ t.hm.loading = some { l with chart := some c, dies := upSlots s } := by
  simp only [exec, execLoadVerifyDone, hl, hc, hv, Option.isSome_none, Bool.false_eq_true, if_false]
  exact ⟨_, rfl, rfl⟩

section
variable {c : Chart} (hc : l.chart = some c)
include hc

theorem loadDistributionDone_of_held (hp : preloadHeld s c l.dies = true) : exec .loadDistributionDone s = .next s := by
  simp only [exec, execLoadDistributionDone, hl, hc, hp, if_true]

variable (hp : preloadHeld s c l.dies = false) {u : State}
include hp

theorem loadDistributionDone_of_completes (hd : distribute s c l.dies = (u, none)) : exec .loadDistributionDone s =
    .next (hmEvent (hmResult (cntAdd (endLoad u .stopped) (blkHM.reg 0x028) 1) 2 0 [] 0) (hmWord 2 0 0 0)) := by
  simp only [exec, execLoadDistributionDone, hl, hc, hp, hd, Bool.false_eq_true, if_false]

theorem loadDistributionDone_of_refused {slot : Nat} (hd : distribute s c l.dies = (u, some slot)) :
    exec .loadDistributionDone s = .next (loadFail u slot) := by
  simp only [exec, execLoadDistributionDone, hl, hc, hp, hd, Bool.false_eq_true, if_false]

/-- However the distribution goes, the LOAD has ended (R225, R226). -/
theorem loadDistributionDone_ends : ∃ t, exec .loadDistributionDone s = .next t ∧ t.hm.loading = none ∧
    (t.hm.st = .stopped ∨ t.hm.st = .failed ∧ t.hm.chart = none) := by
  rcases hd : distribute s c l.dies with ⟨u, _ | slot⟩
  case none => exact ⟨_, loadDistributionDone_of_completes hl hc hp hd, by simp [hmEvent]⟩
  case some => exact ⟨_, loadDistributionDone_of_refused hl hc hp hd, by simp⟩

end

theorem loadFailed_eq (slot : Fin 41) (hc : l.chart.isSome = true) (hd : slot.val ∈ l.dies) :
    exec (.loadFailed slot) s = .next (loadFail s slot.val) := by
  simp only [exec, execLoadFailed, loadMeets, hl, hc, List.contains_iff_mem.2 hd, Bool.and_self, if_true]

end

/-- The end of a STOP needs no voyage that runs and no tug with work (R222). -/
theorem stopDone_eq {s : State} (hst : s.hm.st = .stopping) (hr : running s = [])
    (ht : ∀ t ∈ s.cores.tug, t.2.slots = [] ∧ t.2.pend = []) :
    exec .stopDone s = .next (cntAdd (hmSet s .stopped) (blkHM.reg 0x048) 1) := by
  have hq : quiet s = true := by simpa [quiet, hr] using ht
  simp only [exec, execStopDone, hst, hq, beq_self_eq_true, Bool.and_self, if_true]

/-- Settles O39: a write of HM_CMD goes by its CMD and the state; the SRAM that a LOAD reads leaves the harbourmaster's state and the
BUSY bits; and the end of a LOAD changes the harbourmaster's state and registers only. -/
theorem chartCommands : Obligations.ChartCommands := by
  refine ⟨?_, fun s => stopDone_eq, ?_, fun s l c hl hc => loadDistributionDone_of_held hl hc, ?_, ?_⟩
  · intro value s hup hb hv n w
    refine ⟨hmCmdInvalid_eq hup hb hv, fun hn => ?_, fun hn hst => ?_, fun hn hst => ?_, fun hn hst => ?_, fun hn hst => ?_⟩
    · rw [stop_eq hup hb hv hn, stopCmd_eq]
      rfl
    · rw [load_eq hup hb hv hn, loadCmd_of_refused (s := acceptWrite s blkHM) value hst]
    · obtain ⟨t, size, ht, hcmd⟩ := loadCmd_of_accepted (s := acceptWrite s blkHM) value hst
      rw [load_eq hup hb hv hn, hcmd]
      refine ⟨_, t.mem.bytes.readBytes (hubSramBase + (field value 8 18).toNat * 256) size, rfl, ?_, ht.isBusy_of_setBusy, ht.boll,
        ht.berth, ht.launch⟩
      simp only [ht.hm, ht.now]
      rfl
    · rw [run_eq hup hb hv hn, runCmd_of_refused (s := acceptWrite s blkHM) hst]
    · rw [run_eq hup hb hv hn]
      exact ⟨fun u he => congrArg _ (runCmd_of_enabled (s := acceptWrite s blkHM) hst he),
        fun u slot he => congrArg _ (runCmd_of_block_refuses (s := acceptWrite s blkHM) hst he)⟩
  · intro s l hl hc
    refine ⟨fun code shorts sig hv => ⟨_, loadVerifyDone_of_fails hl hc hv, ?_⟩, fun c => loadVerifyDone_of_loads hl hc⟩
    cases sig <;> simp
  · intro s u l c hl hc hp
    exact ⟨loadDistributionDone_of_completes hl hc hp, fun slot => loadDistributionDone_of_refused hl hc hp,
      loadDistributionDone_ends hl hc hp⟩
  · intro slot s l hl hc hd
    exact ⟨_, loadFailed_eq hl slot hc hd, by simp⟩

end Sys2Proof.Claims
end

section
/-! SUPPORT. An endpoint's state read back after its link's operations, and what an acknowledgement leaves of it (R245–R253). -/

namespace Sys2Proof.Machine

/-! ## Reading an endpoint back -/

theorem linkGet_of_links {s t : State} (h : t.links = s.links) (k : Nat) : linkGet t k = linkGet s k := by
  rw [linkGet, h, linkGet]

section
variable (s : State) {k : Nat}

/-- A state that is not OFF is not what an unlisted endpoint reads as, so it is read back from any table. -/
theorem linkGet_linkSet_self {x : LinkSt} (h : x.st ≠ .off) : linkGet (linkSet s k x) k = x :=
  tget_tset_of_ne _ _ fun e => h (congrArg LinkSt.st e)

theorem linkGet_linkSet_ne {j : Nat} (x : LinkSt) (h : j ≠ k) : linkGet (linkSet s k x) j = linkGet s j := tget_tset_ne _ _ _ h

theorem linkGet_linkMod_self {f : LinkSt → LinkSt} (h : (f (linkGet s k)).st ≠ .off) :
    linkGet (linkMod s k f) k = f (linkGet s k) := linkGet_linkSet_self s h

end

section
variable (s : State) (k : Nat)

@[simp] theorem linkGet_takeFree : linkGet s.takeFree k = linkGet s k := rfl
@[simp] theorem linkGet_rset (off : Nat) (v : Word) : linkGet (rset s off v) k = linkGet s k := rfl
@[simp] theorem linkGet_cntAdd (off n : Nat) : linkGet (cntAdd s off n) k = linkGet s k := rfl
@[simp] theorem linkGet_cntAdd64 (off n : Nat) : linkGet (cntAdd64 s off n) k = linkGet s k := rfl
@[simp] theorem linkGet_acceptWrite (b : Blk) : linkGet (acceptWrite s b) k = linkGet s k := rfl
@[simp] theorem linkGet_logCapture (off : Nat) (v : Word) (l : List (Nat × Word)) : linkGet (logCapture s off v l) k = linkGet s k :=
  linkGet_of_links (logCapture_links ..) k
@[simp] theorem linkGet_logRecord (kind slot unit detail addr tag : Nat) :
    linkGet (logRecord s kind slot unit detail addr tag) k = linkGet s k := linkGet_of_links (logRecord_links ..) k

end

/-! ## Records and blocks of an endpoint -/

section
variable (s : State) (k : Nat)

/-- A record of an endpoint is a record of the log, or none. -/
theorem linkLog_eq (kind detail : Nat) : linkLog s k kind detail = s ∨
    ∃ n slot unit d, linkLog s k kind detail = logRecord s n slot unit d 0 0 := by
  unfold linkLog
  split
  · split
    · exact .inr ⟨_, _, _, _, rfl⟩
    · exact .inl rfl
  · exact .inr ⟨_, _, _, _, rfl⟩

section
variable (kind detail : Nat)
@[simp] theorem linkLog_links : (linkLog s k kind detail).links = s.links := by
  rcases linkLog_eq s k kind detail with h | ⟨_, _, _, _, h⟩ <;> simp [h]
@[simp] theorem linkLog_mem : (linkLog s k kind detail).mem = s.mem := by
  rcases linkLog_eq s k kind detail with h | ⟨_, _, _, _, h⟩ <;> simp [h]
@[simp] theorem linkLog_boll : (linkLog s k kind detail).boll = s.boll := by
  rcases linkLog_eq s k kind detail with h | ⟨_, _, _, _, h⟩ <;> simp [h]
@[simp] theorem linkLog_out : (linkLog s k kind detail).out = s.out := by
  rcases linkLog_eq s k kind detail with h | ⟨_, _, _, _, h⟩ <;> simp [h]
@[simp] theorem linkGet_linkLog (j : Nat) : linkGet (linkLog s k kind detail) j = linkGet s j := linkGet_of_links (linkLog_links ..) j
end

/-- A record of an endpoint leaves the registers of its own block as they were. -/
theorem rget_linkLog {x : Nat} (hx : 0x18000 ≤ x) (kind detail : Nat) : rget (linkLog s k kind detail) x = rget s x := by
  rcases linkLog_eq s k kind detail with h | ⟨_, _, _, _, h⟩
  · rw [h]
  · rw [h, rget_logRecord _ hx]

/-- A NOTICE puts out one block, or none where no lane is active. -/
theorem sendNotice_eq (lane reason : Nat) (round : BitVec 24) : sendNotice s k lane reason round = s ∨
    sendNotice s k lane reason round = s.emit (.notice k lane reason ((linkGet s k).rxAck + 1) round) := by
  unfold sendNotice
  dsimp only
  split
  · exact .inl rfl
  · exact .inr rfl

section
variable (lane reason : Nat) (round : BitVec 24)
@[simp] theorem sendNotice_mem : (sendNotice s k lane reason round).mem = s.mem := by
  rcases sendNotice_eq s k lane reason round with h | h <;> rw [h]; rfl
@[simp] theorem sendNotice_boll : (sendNotice s k lane reason round).boll = s.boll := by
  rcases sendNotice_eq s k lane reason round with h | h <;> rw [h]; rfl
@[simp] theorem sendNotice_regs : (sendNotice s k lane reason round).regs = s.regs := by
  rcases sendNotice_eq s k lane reason round with h | h <;> rw [h]; rfl
@[simp] theorem sendNotice_links : (sendNotice s k lane reason round).links = s.links := by
  rcases sendNotice_eq s k lane reason round with h | h <;> rw [h]; rfl
@[simp] theorem linkGet_sendNotice (j : Nat) : linkGet (sendNotice s k lane reason round) j = linkGet s j :=
  linkGet_of_links (sendNotice_links ..) j
@[simp] theorem sendPlainNotice_mem : (sendPlainNotice s k lane reason).mem = s.mem := sendNotice_mem ..
@[simp] theorem sendPlainNotice_regs : (sendPlainNotice s k lane reason).regs = s.regs := sendNotice_regs ..
@[simp] theorem linkGet_sendPlainNotice (j : Nat) : linkGet (sendPlainNotice s k lane reason) j = linkGet s j := linkGet_sendNotice ..
end

theorem sendPlainNotice_out {lane reason : Nat} (h : (linkGet s k).txActive ≠ 0) :
    ∃ round, Output.notice k lane reason ((linkGet s k).rxAck + 1) round ∈ (sendPlainNotice s k lane reason).out := by
  refine ⟨BitVec.ofNat 24 s.free, ?_⟩
  rw [sendPlainNotice, sendNotice, linkGet_takeFree, if_neg h]
  exact List.mem_append_right _ List.mem_cons_self

end

/-! ## What goes along a chain of updates -/

/-- A relation between states of an endpoint that updates can be chained by. -/
structure Chains (R : LinkSt → LinkSt → Prop) : Prop where
  refl  : ∀ x, R x x
  trans : ∀ {x y z}, R x y → R y z → R x z
  st    : ∀ {x y}, R x y → y.st = x.st

/-- From `s` to `t` memory and bollards stay, and an endpoint that is not OFF changes by `R`. -/
structure LinkStep (R : LinkSt → LinkSt → Prop) (k : Nat) (s t : State) : Prop where
  mem  : t.mem = s.mem
  boll : t.boll = s.boll
  link : (linkGet s k).st ≠ .off → R (linkGet s k) (linkGet t k)

namespace LinkStep
variable {R : LinkSt → LinkSt → Prop} (hR : Chains R) {k : Nat} {s t u : State}
include hR

theorem of_links (hm : t.mem = s.mem) (hb : t.boll = s.boll) (hl : t.links = s.links) : LinkStep R k s t :=
  ⟨hm, hb, fun _ => by rw [linkGet_of_links hl]; exact hR.refl _⟩

theorem refl (s : State) : LinkStep R k s s := of_links hR rfl rfl rfl

theorem trans (h : LinkStep R k s t) (g : LinkStep R k t u) : LinkStep R k s u :=
  ⟨g.mem.trans h.mem, g.boll.trans h.boll, fun hs => hR.trans (h.link hs) (g.link (by rw [hR.st (h.link hs)]; exact hs))⟩

theorem foldl {α : Type} {f : State → α → State} (hf : ∀ t x, LinkStep R k t (f t x)) (l : List α) (s : State) :
    LinkStep R k s (l.foldl f s) :=
  List.foldlRecOn (motive := fun t => LinkStep R k s t) l f (refl hR s) fun _ ht x _ => ht.trans hR (hf _ x)

/-- A change of any endpoint that `R` allows. -/
theorem linkMod (j : Nat) {f : LinkSt → LinkSt} (hf : ∀ x, R x (f x)) (s : State) : LinkStep R k s (linkMod s j f) := by
  refine ⟨rfl, rfl, fun hs => ?_⟩
  by_cases hj : k = j
  · subst hj
    rw [linkGet_linkMod_self s (by rw [hR.st (hf _)]; exact hs)]
    exact hf _
  · rw [Machine.linkMod, linkGet_linkSet_ne s _ hj]
    exact hR.refl _

end LinkStep

/-! ## Parcels placed behind a link's credits -/

/-- More or other parcels wait behind the endpoint's credits, and nothing else has changed. -/
def Requeued (x y : LinkSt) : Prop := ∃ w, y = { x with waiting := w }

theorem chains_requeued : Chains Requeued where
  refl x := ⟨x.waiting, rfl⟩
  trans := by rintro x _ _ ⟨w, rfl⟩ ⟨v, rfl⟩; exact ⟨v, rfl⟩
  st := by rintro x _ ⟨w, rfl⟩; rfl

section
variable (s : State)

/-- Counting parcels on their way writes registers only. -/
theorem regsOnly_countHops (vc addr : Nat) (l : List (Nat × Nat)) : RegsOnly s (countHops s vc addr l) := by
  induction l generalizing s with
  | nil => rfl
  | cons e r ih =>
    obtain ⟨a, b⟩ := e
    unfold countHops
    split
    · exact ih s
    · rename_i k _
      refine RegsOnly.trans ?_ (ih _)
      have hfar : RegsOnly s (match farEnd k with
          | some f => cntAdd64 (cntAdd64 s ((qlBlk k).reg 0x078) 1) ((qlBlk f).reg 0x080) 1
          | none => cntAdd64 s ((qlBlk k).reg 0x078) 1) := by
        split
        · exact (regsOnly_cntAdd64 ..).trans (regsOnly_cntAdd64 ..)
        · exact regsOnly_cntAdd64 ..
      split
      · exact hfar
      · exact hfar.trans (regsOnly_cntAdd64 ..)

theorem regsOnly_countWay (a b : Point) (vc addr : Nat) : RegsOnly s (countWay s a b vc addr) := by
  have hhops := regsOnly_countHops s vc addr (hops (pathNow s a.1 b.1))
  unfold countWay
  dsimp only
  split
  · exact hhops
  · split
    · exact hhops
    · exact (hhops.trans (regsOnly_cntAdd64 ..)).trans (regsOnly_cntAdd64 ..)

end

section
variable (k : Nat) (s : State)

theorem requeued_of_regsOnly {s t : State} (h : RegsOnly s t) : LinkStep Requeued k s t := by
  refine .of_links chains_requeued ?_ ?_ ?_ <;> rw [h]

theorem requeued_enqueue (j : Nat) (p : QPar) : LinkStep Requeued k s (enqueue s j p) :=
  .linkMod chains_requeued j (fun x => ⟨x.waiting ++ [p], rfl⟩) s

theorem requeued_holdOut (src dst : Point) (p : QPar) : LinkStep Requeued k s (holdOut s src dst p) := by
  unfold holdOut
  dsimp only
  split
  · exact .of_links chains_requeued rfl rfl rfl
  · exact (requeued_of_regsOnly k (regsOnly_countHops ..)).trans chains_requeued (.of_links chains_requeued rfl rfl rfl)

theorem requeued_sendTo (src : Point) (p : QPar) : LinkStep Requeued k s (sendTo s src p) := by
  unfold sendTo
  split
  · exact .refl chains_requeued s
  · split
    · exact requeued_holdOut ..
    · exact (requeued_of_regsOnly k (regsOnly_countWay ..)).trans chains_requeued (requeued_enqueue ..)

/-- What the guest's acknowledgement performs places at most an answer behind a link's credits (R245, R252, R372). -/
theorem requeued_guestAcked (o : Option Origin) : LinkStep Requeued k s (guestAcked s o) := by
  unfold guestAcked
  split
  · exact .of_links chains_requeued rfl rfl rfl
  · exact requeued_sendTo ..
  · unfold pilotWriteDone
    split
    · exact .of_links chains_requeued rfl rfl rfl
    · exact .refl chains_requeued s
  · exact .refl chains_requeued s

end

/-! ## Acknowledgement (R252) -/

/-- The endpoint after an ACK: what it covers is freed, and one after the last SEQ sent frees nothing. -/
def LinkSt.ackedBy (x : LinkSt) (a : BitVec 16) : LinkSt :=
  if seqAfter a x.txSeq then x
  else
    let keep := x.replay.filter fun p => seqAfter p.seq a
    { x with replay := keep, resend := x.resend.bind fun q => if keep.any fun p => p.seq == q then some q else keep.head?.map QPar.seq }

theorem LinkSt.ackedBy_frame (x : LinkSt) (a : BitVec 16) : ∃ r q, x.ackedBy a = { x with replay := r, resend := q } := by
  unfold LinkSt.ackedBy
  split
  · exact ⟨x.replay, x.resend, rfl⟩
  · exact ⟨_, _, rfl⟩

theorem LinkSt.replay_ackedBy {x : LinkSt} {a : BitVec 16} (h : seqAfter a x.txSeq = false) :
    (x.ackedBy a).replay = x.replay.filter fun p => seqAfter p.seq a := by
  rw [LinkSt.ackedBy, h]
  rfl

section
variable (s : State) (k : Nat) (a : BitVec 16)

/-- An acknowledgement frees what it covers; that of the guest may also place answers behind links' credits. -/
theorem takeAck_step : takeAck s k a = cntAdd s ((qlBlk k).reg 0x06C) 1 ∧ (linkGet s k).ackedBy a = linkGet s k ∨
    ∀ j, LinkStep Requeued j (linkSet s k ((linkGet s k).ackedBy a)) (takeAck s k a) := by
  unfold takeAck LinkSt.ackedBy
  dsimp only
  by_cases ha : seqAfter a (linkGet s k).txSeq = true
  · rw [if_pos ha, if_pos ha]
    exact .inl ⟨rfl, rfl⟩
  · rw [if_neg ha, if_neg ha]
    refine .inr fun j => ?_
    split
    · exact .foldl chains_requeued (fun t (p : QPar) => requeued_guestAcked j t p.owner) _ _
    · exact .refl chains_requeued _

theorem takeAck_of_after (h : seqAfter a (linkGet s k).txSeq = true) : takeAck s k a = cntAdd s ((qlBlk k).reg 0x06C) 1 := if_pos h

@[simp] theorem takeAck_mem : (takeAck s k a).mem = s.mem := by
  rcases takeAck_step s k a with ⟨h, -⟩ | h
  · rw [h]; rfl
  · exact (h k).mem

@[simp] theorem takeAck_boll : (takeAck s k a).boll = s.boll := by
  rcases takeAck_step s k a with ⟨h, -⟩ | h
  · rw [h]; rfl
  · exact (h k).boll

theorem linkGet_takeAck (h : (linkGet s k).st ≠ .off) : Requeued ((linkGet s k).ackedBy a) (linkGet (takeAck s k a) k) := by
  rcases takeAck_step s k a with ⟨h1, h2⟩ | h1
  · rw [h1, h2]
    exact chains_requeued.refl _
  · have hst : ((linkGet s k).ackedBy a).st ≠ .off := by
      obtain ⟨r, q, he⟩ := (linkGet s k).ackedBy_frame a
      rw [he]; exact h
    have hl := (h1 k).link
    rw [linkGet_linkSet_self s hst] at hl
    exact hl hst

end

end Sys2Proof.Machine
end

section
/-! An arriving parcel under the order of SEQ (R246, R251, R254). -/

namespace Sys2Proof.Machine

/-! ## The cases of an arrival -/

section
variable {s : State} {l : LinkId} {ty : BitVec 4} {h : Hdr} {payload : Parcel} {check : Word}

/-- The endpoint cannot take a parcel to be what it should: its TYPE is reserved, or a check that it verifies is bad (R246). -/
def misread (k : Nat) (h : Hdr) (payload : Parcel) (check : Word) : Bool :=
  (reservedType h.ty && !(k == guestKey)) || ((k == guestKey || decide (4 ≤ h.ty.toNat)) && parcelCheck payload != recoverCheck h check)

theorem misread_eq_false_iff (hk : l.key ≠ guestKey) : misread l.key h payload check = false ↔
    h.ty.toNat < 4 ∨ (h.ty.toNat < 9 ∧ parcelCheck payload = recoverCheck h check) := by
  have hg : (l.key == guestKey) = false := beq_eq_false_iff_ne.2 hk
  simp only [misread, hg, reservedType, Bool.not_false, Bool.and_true, Bool.false_or, Bool.or_eq_false_iff, Bool.and_eq_false_iff,
    decide_eq_false_iff_not, bne_eq_false_iff_eq]
  generalize (parcelCheck payload = recoverCheck h check) = right
  by_cases h4 : h.ty.toNat < 4
  · exact ⟨fun _ => .inl h4, fun _ => ⟨by omega, .inl (by omega)⟩⟩
  · simp only [Nat.not_lt.1 h4, h4, not_true_eq_false, false_or, Nat.not_le]

theorem misread_of_released (hr : Claims.Released s l ty h payload check) : misread l.key h payload check = false := by
  obtain ⟨hty, h9⟩ := hr.type
  subst hty
  have hres : reservedType h.ty = false := decide_eq_false (Nat.not_le.2 h9)
  rcases hr.check with ⟨h4, hk⟩ | hc
  · exact (misread_eq_false_iff hk).2 (.inl h4)
  · simp only [misread, hres, hc, bne_self_eq_false, Bool.and_false, Bool.false_and, Bool.or_self]

theorem receive_of_deaf (hd : (linkGet s l.key).st ≠ .up ∨ (linkGet s l.key).waitMark = true) :
    receive s l ty h payload check = (s, none) := by
  refine if_pos ?_
  rcases hd with hd | hd
  · rw [bne_iff_ne.2 hd]; rfl
  · rw [hd, Bool.or_true]; rfl

section
variable (hup : (linkGet s l.key).st = .up) (hmark : (linkGet s l.key).waitMark = false) (halive : endAlive s l.key = true)
include hup hmark halive

theorem receive_of_misread (hm : misread l.key h payload check = true) :
    receive s l ty h payload check = (requestReplay s l.key, none) := by
  unfold misread at hm
  simp only [receive, hup, hmark, halive, hm, bne_self_eq_false, Bool.not_true, Bool.or_self, Bool.false_eq_true, if_false, if_true]

/-- A parcel of the command's type goes by its SEQ: the next one is released, one after it leaves a gap, and one before it is a
duplicate (R251). -/
theorem receive_of_read (hm : misread l.key h payload check = false) (hty : h.ty = ty) : receive s l ty h payload check =
    if h.seq = (linkGet s l.key).rxAck + 1 then (Claims.taken s l h, some (Claims.parOf h payload check))
    else if seqAfter h.seq (linkGet s l.key).rxAck then (requestReplay (Claims.acked s l h) l.key, none)
    else (cntAdd (Claims.acked s l h) ((qlBlk l.key).reg 0x054) 1, none) := by
  subst hty
  unfold misread at hm
  simp only [receive, hup, hmark, halive, hm, bne_self_eq_false, Bool.not_true, Bool.or_self, Bool.false_eq_true, if_false, ne_eq,
    not_true_eq_false]
  rfl

end

/-- What the conditions of a release come to, on a link and on the guest port: the parcel is taken. -/
theorem receive_of_released (hr : Claims.Released s l ty h payload check) :
    receive s l ty h payload check = (Claims.taken s l h, some (Claims.parOf h payload check)) := by
  rw [receive_of_read hr.up hr.marks hr.alive (misread_of_released hr) hr.type.1, if_pos hr.seq]

end

/-! ## What taking a parcel changes -/

section
variable {x : LinkSt} (v : Nat) (c : Word)

theorem takeCredit_frame : ∃ m, takeCredit x v c = { x with credit := m } := by
  unfold takeCredit
  split
  · exact ⟨_, rfl⟩
  · exact ⟨x.credit, rfl⟩

end

section
variable {s : State} {l : LinkId} (h : Hdr)

@[simp] theorem acked_mem : (Claims.acked s l h).mem = s.mem := takeAck_mem ..
@[simp] theorem acked_boll : (Claims.acked s l h).boll = s.boll := takeAck_boll ..
@[simp] theorem taken_mem : (Claims.taken s l h).mem = s.mem := acked_mem h
@[simp] theorem taken_boll : (Claims.taken s l h).boll = s.boll := acked_boll h

/-- The endpoint once a parcel's acknowledgement and credit are taken. -/
theorem linkGet_acked (hst : (linkGet s l.key).st ≠ .off) : ∃ m w, linkGet (Claims.acked s l h) l.key =
    { (linkGet s l.key).ackedBy h.ack with credit := m, waiting := w } := by
  obtain ⟨m, hm⟩ := takeCredit_frame (x := linkGet s l.key) h.cvc.toNat h.credit
  have hset : linkGet (linkSet s l.key (takeCredit (linkGet s l.key) h.cvc.toNat h.credit)) l.key = { linkGet s l.key with credit := m } := by
    rw [hm, linkGet_linkSet_self s (x := { linkGet s l.key with credit := m }) hst]
  obtain ⟨w, hw⟩ := linkGet_takeAck (linkSet s l.key (takeCredit (linkGet s l.key) h.cvc.toNat h.credit)) l.key h.ack (by rw [hset]; exact hst)
  rw [hset] at hw
  refine ⟨m, w, hw.trans ?_⟩
  unfold LinkSt.ackedBy
  dsimp only
  split <;> rfl

/-- The endpoint once a parcel is released. -/
theorem linkGet_taken (hst : (linkGet s l.key).st ≠ .off) : ∃ m w, linkGet (Claims.taken s l h) l.key =
    { (linkGet s l.key).ackedBy h.ack with credit := m, waiting := w, rxAck := h.seq, replayReq := none } := by
  obtain ⟨m, w, hw⟩ := linkGet_acked h hst
  obtain ⟨r, q, hr⟩ := (linkGet s l.key).ackedBy_frame h.ack
  refine ⟨m, w, ?_⟩
  rw [Claims.taken, linkGet_cntAdd64, linkGet_linkMod_self _ (by rw [hw, hr]; exact hst), hw]

end

/-! ## A request for a replay (R246, R251, R255) -/

theorem regReset_qlBlk_retries (l : LinkId) : regReset ((qlBlk l.key).reg 0x04C) = 0 := by
  obtain ⟨slot, u⟩ := l
  revert slot u
  decide +kernel

section
variable {s : State} {k : Nat}

theorem requestReplay_eq (hr : (linkGet s k).replayReq = none) : requestReplay s k =
    linkLog (cntAdd (sendPlainNotice (linkSet s k { linkGet s k with replayReq := some s.now }) k 0 4) ((qlBlk k).reg 0x04C) 1) k 0x0408
      ((linkGet s k).rxAck + 1).toNat := by
  simp only [requestReplay, hr, Option.isSome_none, Bool.false_eq_true, if_false]

theorem linkGet_requestReplay (hr : (linkGet s k).replayReq = none) (hst : (linkGet s k).st ≠ .off) :
    linkGet (requestReplay s k) k = { linkGet s k with replayReq := some s.now } := by
  rw [requestReplay_eq hr, linkGet_linkLog, linkGet_cntAdd, linkGet_sendPlainNotice]
  exact linkGet_linkSet_self s hst

theorem notice_requestReplay (hr : (linkGet s k).replayReq = none) (hst : (linkGet s k).st ≠ .off) (ht : (linkGet s k).txActive ≠ 0) :
    ∃ round, Output.notice k 0 4 ((linkGet s k).rxAck + 1) round ∈ (requestReplay s k).out := by
  have hx : linkGet (linkSet s k { linkGet s k with replayReq := some s.now }) k = { linkGet s k with replayReq := some s.now } :=
    linkGet_linkSet_self s hst
  obtain ⟨round, hround⟩ := sendPlainNotice_out (linkSet s k { linkGet s k with replayReq := some s.now }) k (lane := 0) (reason := 4)
    (by rw [hx]; exact ht)
  rw [hx] at hround
  exact ⟨round, by rw [requestReplay_eq hr, linkLog_out, cntAdd_out]; exact hround⟩

theorem rget_requestReplay (hr : (linkGet s k).replayReq = none) (h0 : regReset ((qlBlk k).reg 0x04C) = 0) :
    rget (requestReplay s k) ((qlBlk k).reg 0x04C) = BitVec.ofNat 32 (min ((rget s ((qlBlk k).reg 0x04C)).toNat + 1) (2 ^ 32 - 1)) := by
  rw [requestReplay_eq hr, rget_linkLog _ _ (le_trans (by decide) (le_qlBlk_reg k 0x04C)), rget_cntAdd_of_reset _ h0 Nat.one_pos, rget,
    sendPlainNotice_regs]
  rfl

end

end Sys2Proof.Machine

namespace Sys2Proof.Claims

open Sys2Proof Sys2Proof.Machine

/-- Settles O33: an arrival goes by the endpoint's state, by TYPE and check, and then by SEQ; a release and a request for a replay are read
back from the endpoint, which is UP. -/
theorem parcelsAreReleasedInOrder : Obligations.ParcelsAreReleasedInOrder := by
  refine ⟨?_, ?_, ?_⟩
  · intro s l ty h payload check hk x good
    refine ⟨receive_of_deaf, fun hup hmark halive => ⟨fun hbad => ?_, fun hgood hty => ?_⟩⟩
    · refine receive_of_misread hup hmark halive ?_
      rwa [← Bool.not_eq_false, misread_eq_false_iff hk]
    · rw [receive_of_read hup hmark halive ((misread_eq_false_iff hk).2 hgood) hty]
      refine ⟨fun hseq => if_pos hseq, fun h2 hlast => ?_, fun hdup => ?_⟩
      · have hnext : h.seq ≠ x.rxAck + 1 := fun he => by rw [he] at h2; bv_omega
        have hafter : seqAfter h.seq x.rxAck = true := decide_eq_true ⟨by omega, hlast⟩
        rw [if_neg hnext, if_pos hafter]
      · have hnext : h.seq ≠ x.rxAck + 1 := by
          intro he
          rcases hdup with hd | hd
          · rw [he] at hd; bv_omega
          · rw [he] at hd; bv_omega
        have hafter : ¬ seqAfter h.seq x.rxAck = true := by
          rw [seqAfter, decide_eq_true_iff]
          rcases hdup with hd | hd
          · rw [hd, BitVec.sub_self]; simp
          · omega
        rw [if_neg hnext, if_neg hafter]
  · intro s l h hup hk x
    have hst : (linkGet s l.key).st ≠ .off := by rw [hup]; decide
    obtain ⟨m, w, hx⟩ := linkGet_taken h hst
    obtain ⟨r, q, hr⟩ := (linkGet s l.key).ackedBy_frame h.ack
    have hx' : x = _ := hx
    refine ⟨by rw [hx'], by rw [hx'], by rw [hx', hr]; exact hup, taken_mem h, taken_boll h, fun hlast => ?_⟩
    rw [hx']
    exact LinkSt.replay_ackedBy hlast
  · intro s l hr hup k t
    have hst : (linkGet s l.key).st ≠ .off := by rw [hup]; decide
    have hx : linkGet t k = _ := linkGet_requestReplay hr hst
    exact ⟨by rw [hx], by rw [hx], rget_requestReplay hr (regReset_qlBlk_retries l), notice_requestReplay hr hst⟩

end Sys2Proof.Claims
end

section
/-! What a peer's WRITE and BOLLARD parcels can change (R23, R139, R229, R245). -/

namespace Sys2Proof.Machine

/-! ## A WRITE into base-die SRAM -/

section
variable {a q off : Nat} (hh : homeOf a = some (.base q off))
include hh

theorem home_of_homeOf_base (s : State) : s.home a = some (.base q off) := by
  simp only [State.home, hh]

theorem peerRefused_base (s : State) {n : Nat} (hn : a + n ≤ baseSramBase q + baseSramSize) (write : Bool) :
    peerRefused s a n write = false := by
  simp only [peerRefused, home_of_homeOf_base hh, rangeEnd, hh, decide_eq_false (Nat.not_lt.2 hn)]

/-- The die's own endpoints reach its SRAM while it is UP. -/
theorem reachFrom_base {s : State} {k : Nat} (hk : diePoint k = (q, false)) (hd : dieState s (slotQ q) = .up) :
    reachFrom s k a = true := by
  simp only [reachFrom, home_of_homeOf_base hh, reachHome, homeAlive, hd, wayUp, routeUp, hk, pointOf, baseOf, behindHub,
    beq_self_eq_true, Bool.true_or, Bool.and_self]

theorem isGuest_base (s : State) : isGuest s a = false := by
  simp only [isGuest, home_of_homeOf_base hh]

/-- A write of base-die SRAM leaves cores alone. -/
theorem cores_writeParcel_base (s : State) (src : MemSource) (d : PData) (tag : Nat) : (writeParcel s a src d tag).cores = s.cores := by
  obtain ⟨e, f, r, hw⟩ := parcelWritten_frame s (a / 256 * 256)
  simp only [writeParcel, hh, State.setMem_cores, hw]

end

/-- A way that stays at one point crosses no link. -/
theorem countWay_self (s : State) {q : Nat} (hq : q < 6) (vc addr : Nat) : countWay s (q, false) (q, false) vc addr = s := by
  have hrow : pathTable q q = ([], []) := by
    revert q
    decide
  have hnone : pathNow s q q = [] := by simp [pathNow, pathOf, hrow]
  simp only [countWay, hnone, hops, countHops, beq_self_eq_true, if_true]

theorem diePoint_linkKey_slotQ (q : Nat) {u : Nat} (hu : u < 64) : diePoint (linkKey (slotQ q) u) = (q, false) := by
  have hdiv : linkKey (slotQ q) u / 64 = q + 1 := by simp only [linkKey, slotQ]; omega
  simp only [diePoint, hdiv, Nat.add_sub_cancel, Nat.succ_ne_zero, if_false]

/-- A WRITE that asks for no report and arrives at the die whose SRAM it writes stores its parcel. -/
theorem performWrite_base {s : State} {q off u : Nat} {p : QPar} (hh : homeOf (p.addr.toNat * 256) = some (.base q off)) (hq : q < 6)
    (hu : u < 64) (hin : p.addr.toNat * 256 + 256 ≤ baseSramBase q + baseSramSize) (hd : dieState s (slotQ q) = .up)
    (hr : p.report = false) : performWrite s (linkKey (slotQ q) u) p =
      some (writeParcel s (p.addr.toNat * 256) .tug ⟨p.payload, p.check, p.poison⟩ 0) := by
  have hpoint := diePoint_linkKey_slotQ q hu
  have hcount : ∀ vc, countFrom s (linkKey (slotQ q) u) (p.addr.toNat * 256) vc = s := fun vc => by
    simp only [countFrom, home_of_homeOf_base hh, hpoint, pointOf, baseOf, behindHub, countWay_self s hq]
  simp only [performWrite, peerRefused_base hh s hin, reachFrom_base hh hpoint hd, hcount, isGuest_base hh, hr, Bool.not_true,
    Bool.false_eq_true, if_false]

/-- A WRITE without a report to a place that does not exist or to register space is dropped (R229). -/
theorem performWrite_nowhere {s : State} {k : Nat} {p : QPar} (hr : p.report = false)
    (hh : s.home (p.addr.toNat * 256) = none ∨ ∃ o, s.home (p.addr.toNat * 256) = some (.reg o)) : performWrite s k p = some s := by
  have hrefused : peerRefused s (p.addr.toNat * 256) 256 true = true := by
    rcases hh with hh | ⟨o, hh⟩ <;> simp only [peerRefused, hh]
  simp only [performWrite, hrefused, hr, Bool.false_eq_true, if_true, if_false]

/-! ## Remote adds (R139) -/

section
variable {s : State} {p : QPar} {i : Nat}

theorem remoteAdd_of_open (h : remoteOpen s (field p.payload (64 * i) 14).toNat = true) :
    remoteAdd s p i = bollAdd s (field p.payload (64 * i) 14).toNat (field p.payload (64 * i + 32) 32) := if_pos h

theorem remoteAdd_of_closed (h : remoteOpen s (field p.payload (64 * i) 14).toNat = false) :
    (remoteAdd s p i).boll = s.boll ∧ (remoteAdd s p i).mem = s.mem := by
  simp only [remoteAdd, h, Bool.false_eq_true, if_false, logRecord_boll, logRecord_mem, logCapture_boll, logCapture_mem, cntAdd_boll,
    cntAdd_mem, and_self]

theorem remoteOpen_of_loading (h : s.hm.st = .loading) (b : Nat) : remoteOpen s b = false := by
  simp only [remoteOpen, h, bne_self_eq_false, Bool.false_and]

end

end Sys2Proof.Machine

namespace Sys2Proof.Claims

open Sys2Proof Sys2Proof.Machine

/-- Settles O35: the WRITE is one stored parcel at its own die; a refused one is dropped; an add goes by whether its bollard is open. -/
theorem peersWriteAndSignal : Obligations.PeersWriteAndSignal := by
  refine ⟨?_, fun s k p hr hh => performWrite_nowhere hr hh, fun s p i => ⟨remoteAdd_of_open, remoteAdd_of_closed⟩,
    fun s b h => remoteOpen_of_loading h b⟩
  intro s q off u p hq ho ha hu hp hd hr hinv _ _ _
  have hh := homeOf_baseSram hq ho
  have hal := baseSram_aligned q ha
  have hin : baseSramBase q + off + 256 ≤ baseSramBase q + baseSramSize := by
    simp only [baseSramSize] at ho ⊢
    omega
  generalize baseSramBase q + off = a at hh hal hin hp ⊢
  subst hp
  have hst := parcelStored_writeParcel s hh hal .tug ⟨p.payload, p.check, p.poison⟩ 0
  exact ⟨_, performWrite_base hh hq hu hin hd hr, hst.mem.parcel_eq hinv.memOk, fun j hj => hst.mem.read_ne hj, hst.boll,
    cores_writeParcel_base hh s .tug _ 0⟩

end Sys2Proof.Claims
end

section
/-! Sending, acknowledgement and replay (R249–R253, R255). -/

namespace Sys2Proof.Machine

/-! ## The line -/

section
variable (s : State) (k : Nat)

/-- Carrying a credit moves the carrier's turn on; the guest is told of its credit. -/
theorem carry_frame : ∃ g, carry s k = { linkMod s k (fun x => { x with carrier := x.carrier + 1 }) with guest := g } := by
  unfold carry
  dsimp only
  split <;> exact ⟨_, rfl⟩

theorem linkGet_carry (h : (linkGet s k).st ≠ .off) : linkGet (carry s k) k = { linkGet s k with carrier := (linkGet s k).carrier + 1 } := by
  obtain ⟨g, hg⟩ := carry_frame s k
  rw [hg]
  exact linkGet_linkMod_self s (f := fun x => { x with carrier := x.carrier + 1 }) h

/-- Putting a parcel on the line changes outputs, the guest's record of its credit, and the endpoint. -/
theorem putLine_frame (p : QPar) : ∃ g o, putLine s k p =
    { linkMod (carry s k) k (fun x => { x with txAt := s.now }) with guest := g, out := o } := by
  unfold putLine
  dsimp only
  split <;> exact ⟨_, _, rfl⟩

theorem linkGet_putLine (p : QPar) (h : (linkGet s k).st ≠ .off) :
    linkGet (putLine s k p) k = { linkGet s k with carrier := (linkGet s k).carrier + 1, txAt := s.now } := by
  obtain ⟨g, o, hg⟩ := putLine_frame s k p
  have hc := linkGet_carry s k h
  have hst : (linkGet (carry s k) k).st ≠ .off := by rw [hc]; exact h
  rw [hg]
  refine (linkGet_linkMod_self (carry s k) (f := fun x => { x with txAt := s.now }) hst).trans ?_
  rw [hc]

/-- Memory, bollards and the harbourmaster are as they were. -/
structure SendFrame (s t : State) : Prop where
  mem  : t.mem = s.mem
  boll : t.boll = s.boll
  hm   : t.hm = s.hm

theorem SendFrame.trans {s t u : State} (h : SendFrame s t) (g : SendFrame t u) : SendFrame s u :=
  ⟨g.mem.trans h.mem, g.boll.trans h.boll, g.hm.trans h.hm⟩

theorem sendFrame_putLine (p : QPar) : SendFrame s (putLine s k p) := by
  obtain ⟨g, o, hg⟩ := putLine_frame s k p
  obtain ⟨g', hg'⟩ := carry_frame s k
  rw [hg, hg']
  exact ⟨rfl, rfl, rfl⟩

/-! ## A new parcel -/

/-- The first transmission of a parcel that is nobody's starts a read at most. -/
theorem noteSent_frame {p : QPar} (hp : p.owner = none) : ∃ x, noteSent s k p = { s with trans := x } := by
  unfold noteSent noteRead
  rw [hp]
  dsimp only
  split
  · exact ⟨_, rfl⟩
  · exact ⟨s.trans, rfl⟩

/-- The parcel as it goes out anew. -/
def sentAs (x : LinkSt) (now : Nat) (p : QPar) : QPar := { p with seq := x.txSeq + 1, since := now, charged := true }

/-- The endpoint once a parcel has taken the next SEQ and its charge. -/
def LinkSt.sending (x : LinkSt) (now : Nat) (p : QPar) : LinkSt :=
  { x with txSeq := x.txSeq + 1, sent := charge x p.vc.toNat, replay := x.replay ++ [sentAs x now p] }

/-- The state in which a new parcel goes on the line. -/
def toSend (p : QPar) : State :=
  let t := linkSet s k ((linkGet s k).sending s.now p)
  cntAdd64 (if k = guestKey then cntAdd64 t (blkGF.reg 0x048) 1 else t) ((qlBlk k).reg 0x078) 1

theorem regsOnly_toSend (p : QPar) : RegsOnly (linkSet s k ((linkGet s k).sending s.now p)) (toSend s k p) := by
  unfold toSend
  dsimp only
  split
  · exact (regsOnly_cntAdd64 ..).trans (regsOnly_cntAdd64 ..)
  · exact regsOnly_cntAdd64 ..

theorem transmit_eq (p : QPar) : transmit s k p =
    noteSent (putLine (toSend s k p) k (sentAs (linkGet s k) s.now p)) k (sentAs (linkGet s k) s.now p) := by
  unfold transmit toSend LinkSt.sending sentAs
  dsimp only

variable {s k}

theorem sendFrame_transmit {p : QPar} (hp : p.owner = none) : SendFrame s (transmit s k p) := by
  obtain ⟨x, hx⟩ := noteSent_frame (putLine (toSend s k p) k (sentAs (linkGet s k) s.now p)) k (p := sentAs (linkGet s k) s.now p) hp
  have hput := sendFrame_putLine (toSend s k p) k (sentAs (linkGet s k) s.now p)
  have hset : SendFrame s (toSend s k p) := by
    rw [regsOnly_toSend s k p]
    exact ⟨rfl, rfl, rfl⟩
  rw [transmit_eq, hx]
  exact (hset.trans hput).trans ⟨rfl, rfl, rfl⟩

theorem linkGet_transmit {p : QPar} (hp : p.owner = none) (h : (linkGet s k).st ≠ .off) : linkGet (transmit s k p) k =
    { (linkGet s k).sending s.now p with carrier := (linkGet s k).carrier + 1, txAt := s.now } := by
  obtain ⟨x, hx⟩ := noteSent_frame (putLine (toSend s k p) k (sentAs (linkGet s k) s.now p)) k (p := sentAs (linkGet s k) s.now p) hp
  have hlink : linkGet (toSend s k p) k = (linkGet s k).sending s.now p := by
    rw [regsOnly_toSend s k p]
    exact linkGet_linkSet_self s (x := (linkGet s k).sending s.now p) h
  have hnow : (toSend s k p).now = s.now := by rw [regsOnly_toSend s k p]; rfl
  have hput := linkGet_putLine (toSend s k p) k (sentAs (linkGet s k) s.now p) (by rw [hlink]; exact h)
  rw [hlink, hnow] at hput
  rw [transmit_eq, hx]
  exact hput

end

/-! ## The first waiting parcel of a channel -/

theorem ne_nil_of_takeWaiting {l rest : List QPar} {v : Nat} {p : QPar} (h : takeWaiting l v = (some p, rest)) : l ≠ [] := by
  rintro rfl
  cases h

/-- The endpoint with the parcel whose turn it is taken from those that wait. -/
def LinkSt.taking (x : LinkSt) (v : Nat) (rest : List QPar) : LinkSt :=
  { x with waiting := rest, stalled := false, rr := if v = 0 then x.rr else v % 3 + 1 }

section
variable {s : State} {k v : Nat} {p : QPar} {rest : List QPar} (hw : takeWaiting (linkGet s k).waiting v = (some p, rest))
  (hty : p.ty ≠ tyTime) (ho : p.owner = none) (hs : (linkGet s k).serving = none) (hst : (linkGet s k).st ≠ .off)
include hw hty ho hs hst

/-- A parcel that carries no time and ends no retrain is transmitted as it waited. -/
theorem sendWaiting_eq : sendWaiting s k v = transmit (linkSet s k ((linkGet s k).taking v rest)) k p := by
  have hlink : linkGet (linkSet s k ((linkGet s k).taking v rest)) k = (linkGet s k).taking v rest := linkGet_linkSet_self s hst
  have hserving : (linkGet (transmit (linkSet s k ((linkGet s k).taking v rest)) k p) k).serving = none := by
    rw [linkGet_transmit ho (by rw [hlink]; exact hst), hlink]
    exact hs
  have hstamp : ∀ t, stampTime t p = (t, p) := fun t => if_pos hty
  unfold sendWaiting
  dsimp only
  rw [hw]
  dsimp only
  rw [hstamp]
  unfold acceptSent
  unfold LinkSt.taking at *
  dsimp only at *
  rw [hserving]

theorem linkGet_sendWaiting : linkGet (sendWaiting s k v) k = { ((linkGet s k).taking v rest).sending s.now p with
    carrier := (linkGet s k).carrier + 1, txAt := s.now } := by
  have hlink : linkGet (linkSet s k ((linkGet s k).taking v rest)) k = (linkGet s k).taking v rest := linkGet_linkSet_self s hst
  have hsent := linkGet_transmit (s := linkSet s k ((linkGet s k).taking v rest)) (k := k) ho (by rw [hlink]; exact hst)
  rw [hlink] at hsent
  rw [sendWaiting_eq hw hty ho hs hst]
  exact hsent

theorem sendFrame_sendWaiting : SendFrame s (sendWaiting s k v) := by
  rw [sendWaiting_eq hw hty ho hs hst]
  have hset : SendFrame s (linkSet s k ((linkGet s k).taking v rest)) := ⟨rfl, rfl, rfl⟩
  exact hset.trans (sendFrame_transmit ho)

end

/-! ## Commands -/

section
variable {s : State} {l : LinkId}

theorem parcelSend_of_stopped (h : linkLive s l.key = false ∨ endRuns s l.key = false ∨ blanked s l.key = true) :
    exec (.parcelSend l) s = .next s := by
  refine if_pos ?_
  rcases h with h | h | h <;> simp [h]

section
variable (hl : linkLive s l.key = true) (he : endRuns s l.key = true) (hb : blanked s l.key = false)
include hl he hb

theorem parcelSend_of_replay {p : QPar} (hr : resendNext (linkGet s l.key) = some p) : exec (.parcelSend l) s =
    .next (if p.charged || hasCredit (linkGet s l.key) p.vc.toNat then resendPar s l.key p else sendCa s l.key) := by
  simp only [exec, execParcelSend, hl, he, hb, hr, Bool.not_true, Bool.or_self, Bool.false_eq_true, if_false]

variable (hr : resendNext (linkGet s l.key) = none)
include hr

theorem parcelSend_of_nothing (hw : (linkGet s l.key).waiting = []) : exec (.parcelSend l) s = .next (sendCa s l.key) := by
  simp only [exec, execParcelSend, hl, he, hb, hr, hw, List.isEmpty_nil, Bool.not_true, Bool.or_self, Bool.false_eq_true, if_false,
    if_true]

theorem parcelSend_of_stalled (hw : (linkGet s l.key).waiting ≠ [])
    (hroom : replayRoom s l.key = false ∨ windowRoom (linkGet s l.key) = false) :
    exec (.parcelSend l) s = .next (sendCa (enterStall s l.key) l.key) := by
  have hstalled : sendStalled s l.key = true := by
    unfold sendStalled
    rcases hroom with h | h <;> simp [h]
  have hsome : (linkGet s l.key).waiting.isEmpty = false := List.isEmpty_eq_false_iff.2 hw
  simp only [exec, execParcelSend, hl, he, hb, hr, hsome, hstalled, Bool.not_true, Bool.or_self, Bool.false_eq_true, if_false, if_true]

theorem parcelSend_of_turn (hw : (linkGet s l.key).waiting ≠ []) (hroom : replayRoom s l.key = true)
    (hwin : windowRoom (linkGet s l.key) = true) {v : Nat} (hv : nextChannel (linkGet s l.key) = some v) :
    exec (.parcelSend l) s = .next (sendWaiting s l.key v) := by
  have hsome : (linkGet s l.key).waiting.isEmpty = false := List.isEmpty_eq_false_iff.2 hw
  simp only [exec, execParcelSend, sendStalled, hl, he, hb, hr, hsome, hroom, hwin, hv, Bool.not_true, Bool.or_self, Bool.false_eq_true,
    if_false]

end

section
variable (hl : linkLive s l.key = true)
include hl

theorem ca_eq (vc : BitVec 2) (ack : BitVec 16) (credit : Word) (hm : (linkGet s l.key).waitMark = false) : exec (.ca l vc ack credit) s =
    .next (takeAck (linkSet s l.key (takeCredit (linkGet s l.key) vc.toNat credit)) l.key ack) := by
  simp only [exec, execCa, hl, hm, Bool.not_true, Bool.or_self, Bool.false_eq_true, if_false]

theorem ackTimeout_eq {p : QPar} {rest : List QPar} (hp : (linkGet s l.key).replay = p :: rest)
    (hd : p.since + 1000 * ackMicros s l.key ≤ s.now) : exec (.ackTimeout l) s =
      .next (replayAll (linkLog (cntAdd s ((qlBlk l.key).reg 0x050) 1) l.key 0x0407 p.seq.toNat) l.key) := by
  simp only [exec, execAckTimeout, hp, hl, decide_eq_true hd, Bool.and_self, if_true]

theorem notice_replay (lane : Byte) (expect : BitVec 16) (round : BitVec 24) :
    exec (.notice l lane 4 expect round) s = .next (replayAll (takeAck s l.key (expect - 1)) l.key) := by
  simp only [exec, execNotice, hl, Bool.not_true, Bool.false_eq_true, if_false, if_true, replayFrom]

theorem replayRequestResend_eq {since : Nat} (hr : (linkGet s l.key).replayReq = some since) (hd : since + 2000 ≤ s.now) :
    exec (.replayRequestResend l) s =
      .next (sendPlainNotice (linkMod s l.key fun x => { x with replayReq := some s.now }) l.key 0 4) := by
  simp only [exec, execReplayRequestResend, hr, hl, decide_eq_true hd, Bool.and_self, if_true]

end
end

/-! ## A replay -/

theorem linkGet_replayAll {s : State} {k : Nat} (h : (linkGet s k).st ≠ .off) : linkGet (replayAll s k) k = { linkGet s k with
    replay := (linkGet s k).replay.map (fun p => { p with since := s.now }), resend := (linkGet s k).replay.head?.map QPar.seq } :=
  linkGet_linkMod_self s h

end Sys2Proof.Machine

namespace Sys2Proof.Claims

open Sys2Proof Sys2Proof.Machine

/-- Settles O36: PARCEL_SEND goes by what there is to send; a new parcel is followed through its transmission, and an ACK and a replay are read
back from the endpoint. -/
theorem sendingAndReplay : Obligations.SendingAndReplay := by
  refine ⟨?_, ?_, fun l s h => parcelSend_of_stopped h, fun l s p hl he hb hr => parcelSend_of_replay hl he hb hr, ?_,
    fun l vc ack credit s hl hm => ca_eq hl vc ack credit hm, fun l s p rest hp hl hd => ackTimeout_eq hl hp hd,
    fun l lane expect round s hl => notice_replay hl lane expect round, ?_, fun l s since hr hl hd => replayRequestResend_eq hl hr hd⟩
  · intro l s v p rest x hl he hb hr hroom hwin hv hw hty ho hs hinv
    have hup : x.st = .up := by
      rw [linkLive, Bool.and_eq_true] at hl
      exact eq_of_beq hl.1
    have hst : x.st ≠ .off := by rw [hup]; decide
    have hnone : resendNext x = none := by rw [resendNext, hr]; rfl
    refine ⟨_, parcelSend_of_turn hl he hb hnone (ne_nil_of_takeWaiting hw) hroom hwin hv, ?_, ?_⟩
    · have hsent : tsorted x.sent = true := by
        have hcan := hinv.linkOk l.key
        rw [LinkSt.canonical, Bool.and_eq_true] at hcan
        exact hcan.2
      intro y
      have hy : y = _ := linkGet_sendWaiting hw hty ho hs hst
      rw [hy]
      exact ⟨rfl, rfl, rfl, tget_tset_self _ _ _ hsent, rfl, rfl⟩
    · have hf := sendFrame_sendWaiting hw hty ho hs hst
      exact ⟨hf.mem, hf.boll, hf.hm⟩
  · intro l s hl he hb hr
    exact ⟨parcelSend_of_nothing hl he hb hr, parcelSend_of_stalled hl he hb hr⟩
  · intro s k a
    refine ⟨takeAck_of_after s k a, fun hst _ hlast => ?_⟩
    obtain ⟨w, hw⟩ := linkGet_takeAck s k a hst
    rw [hw]
    exact LinkSt.replay_ackedBy hlast
  · intro s k hst x
    have hx : x = _ := linkGet_replayAll hst
    rw [hx]
    exact ⟨rfl, by rw [List.map_map]; rfl, rfl, rfl⟩

end Sys2Proof.Claims
end

section
/-! Data and control parcels once they are released (R244, R245, R247, R249). -/

namespace Sys2Proof.Machine

/-! ## Arrivals -/

section
variable {s : State} {l : LinkId} {ty : BitVec 4} {h : Hdr} {payload : Parcel} {check : Word}

theorem arrive_guest (hk : l.key = guestKey) : arrive s l ty h payload check = .next s := by
  simp only [arrive, receiveLink, if_pos hk]

theorem arrive_of_none (hk : l.key ≠ guestKey) {u : State} (hu : receive s l ty h payload check = (u, none)) :
    arrive s l ty h payload check = .next u := by
  simp only [arrive, receiveLink, if_neg hk, hu]

theorem arrive_of_released (hk : l.key ≠ guestKey) (hr : Claims.Released s l ty h payload check) :
    arrive s l ty h payload check = .next (acceptPar (Claims.taken s l h) l.key (Claims.parOf h payload check)) := by
  simp only [arrive, Claims.receiveLink_of_released hk hr]

/-- The commands of the five types of parcels that carry data or control. -/
theorem exec_eq_arrive {i : Instr} (hi : (i, ty) ∈ [(Instr.write l h payload check, (1 : BitVec 4)), (.readReq l h payload check, 2),
    (.readData l h payload check, 3), (.resp l h payload check, 4), (.bollard l h payload check, 5)]) (s : State) :
    exec i s = arrive s l ty h payload check := by
  simp only [List.mem_cons, List.not_mem_nil, or_false, Prod.mk.injEq] at hi
  obtain ⟨rfl, rfl⟩ | ⟨rfl, rfl⟩ | ⟨rfl, rfl⟩ | ⟨rfl, rfl⟩ | ⟨rfl, rfl⟩ := hi <;> rfl

end

/-! ## An accepted parcel -/

section
variable {s : State} {k : Nat} {p : QPar}

theorem acceptPar_of_other (hd : p.dev.toNat ≠ ownDev s) : acceptPar s k p = freeUnit (relayPar s k p) k p.vc.toNat := if_pos hd

section
variable (hd : p.dev.toNat = ownDev s)
include hd

theorem acceptPar_of_performed (hb : heldBefore s k p = false) {u : State} (hu : perform s k p = some u) :
    acceptPar s k p = freeUnit u k p.vc.toNat := by
  simp only [acceptPar, hd, ne_eq, not_true_eq_false, hb, hu, Bool.false_eq_true, if_false]

theorem acceptPar_of_waiting (hw : heldBefore s k p = true ∨ perform s k p = none) :
    acceptPar s k p = { s with trans := { s.trans with held := s.trans.held ++ [⟨k, p⟩] } } := by
  unfold acceptPar
  rw [if_neg (not_not_intro hd)]
  dsimp only
  split
  · rfl
  · rename_i hb
    rw [hw.resolve_left hb]

end

theorem LinkFrame.heldBefore_eq {t : State} (hf : LinkFrame s t) : heldBefore t k p = heldBefore s k p := by
  rw [hf.state]
  rfl

/-! ## What performs where it can be reached -/

theorem isSome_performBollard (h : reachHome s (diePoint k) (.hub 0) = true) : (performBollard s k p).isSome = true := by
  simp only [performBollard, h, Bool.not_true, Bool.false_eq_true, if_false, Option.isSome_some]

section
variable (h : reachFrom s k (p.addr.toNat * 256) = true)
include h

theorem isSome_performWrite : (performWrite s k p).isSome = true := by
  unfold performWrite
  simp only [h, Bool.not_true, Bool.false_eq_true, if_false]
  split
  · rfl
  · split <;> rfl

theorem isSome_performRead : (performRead s k p).isSome = true := by
  unfold performRead
  simp only [h, Bool.not_true, Bool.false_eq_true, if_false]
  split <;> rfl

theorem isSome_performData : (performData s k p).isSome = true := by
  unfold performData
  simp only [h, Bool.not_true, Bool.false_eq_true, if_false]
  split <;> rfl

end

/-! ## Performing goes by TYPE -/

theorem perform_write (ht : p.ty = tyWrite) : perform s k p = performWrite s k p := if_pos ht

theorem perform_readReq (ht : p.ty = tyReadReq) : perform s k p = performRead s k p := by
  rw [perform, ht]
  rfl

theorem perform_readData (ht : p.ty = tyReadData) : perform s k p = performData s k p := by
  rw [perform, ht]
  rfl

theorem perform_resp (ht : p.ty = tyResp) : perform s k p = performResp s k p := by
  rw [perform, ht]
  rfl

theorem perform_bollard (ht : p.ty = tyBollard) : perform s k p = performBollard s k p := by
  rw [perform, ht]
  rfl

end

end Sys2Proof.Machine

namespace Sys2Proof.Claims

open Sys2Proof Sys2Proof.Machine

/-- Settles O34: the five commands are one arrival; what a release leaves of the state decides as the state before does, since it changes
links and their registers only. -/
theorem dataAndControlParcels : Obligations.DataAndControlParcels := by
  refine ⟨?_, fun s k p => perform_write, fun s k p => perform_readReq, fun s k p => perform_readData, fun s k p => perform_resp,
    fun s k p => perform_bollard, fun s k p => ⟨rfl, isSome_performBollard,
      fun h => ⟨isSome_performWrite h, isSome_performRead h, isSome_performData h⟩⟩⟩
  intro i ty l h payload check s hi t p
  rw [exec_eq_arrive hi]
  refine ⟨arrive_guest, fun hk u => arrive_of_none hk, fun hk hr => ?_⟩
  have hf : LinkFrame s t := linkFrame_taken hk
  rw [arrive_of_released hk hr]
  refine ⟨fun hd => congrArg _ (acceptPar_of_other (by rw [hf.ownDev]; exact hd)), fun u hd hb hu => ?_, fun hd hw => ?_⟩
  · exact congrArg _ (acceptPar_of_performed (hd.trans hf.ownDev.symm) (hf.heldBefore_eq.trans hb) hu)
  · exact congrArg _ (acceptPar_of_waiting (hd.trans hf.ownDev.symm) (by rw [hf.heldBefore_eq]; exact hw))

end Sys2Proof.Claims
end

section
/-! Lanes of a link (R238, R239, R254–R258). -/

namespace Sys2Proof.Machine

/-! ## The reason for which a round is bad (R238) -/

section
variable {r : LaneRound}

theorem laneReason_of_dark (h : r.signal = false) : laneReason r = 3 := by
  simp only [laneReason, h, Bool.not_false, if_true]

theorem laneReason_of_untold (h : r.signal = true) (ht : r.tally = none) : laneReason r = 2 := by
  simp only [laneReason, h, ht, Bool.not_true, Bool.false_eq_true, if_false]

/-- A block of the round is none that R237 knows, or its ROUND does not follow the last. -/
def wrongRound (r : LaneRound) (n : BitVec 24) : Prop :=
  (∃ h ∈ r.headers, h = 0 ∨ h = 3) ∨ (∃ t ∈ r.types, t ∉ blockTypes) ∨ n ≠ r.prev + 1

theorem wrongRound_iff (n : BitVec 24) : wrongRound r n ↔
    ((r.headers.any fun h => h == 0 || h == 3) || (r.types.any fun t => !blockTypes.contains t) || n != r.prev + 1) = true := by
  simp only [wrongRound, Bool.or_eq_true, List.any_eq_true, beq_iff_eq, Bool.not_eq_true', List.contains_eq_mem,
    decide_eq_false_iff_not, bne_iff_ne, or_assoc]

section
variable (h : r.signal = true) {p : BitVec 32} {n : BitVec 24} (ht : r.tally = some (p, n))
include h ht

theorem laneReason_of_wrong (hw : wrongRound r n) : laneReason r = 2 := by
  rw [wrongRound_iff] at hw
  simp only [laneReason, h, ht, hw, Bool.not_true, Bool.false_eq_true, if_false, if_true]

theorem laneReason_of_right (hw : ¬ wrongRound r n) : laneReason r = if p = r.parity then 0 else 1 := by
  rw [wrongRound_iff, Bool.not_eq_true] at hw
  simp only [laneReason, h, ht, hw, Bool.not_true, Bool.false_eq_true, if_false, bne_iff_ne, ite_not]

end
end

/-! ## What follows a lane that has gone fatal -/

/-- The endpoint receives on as it did: a lane that was fatal is, and it waits for a MARK if it did. -/
structure FatalKept (i : Nat) (x y : LinkSt) : Prop where
  st     : y.st = x.st
  ack    : y.rxAck = x.rxAck
  active : y.rxActive = x.rxActive
  waits  : x.waitMark = true → y.waitMark = true
  fatal  : (laneGet x i).fatal = true → (laneGet y i).fatal = true

theorem chains_fatalKept (i : Nat) : Chains (FatalKept i) where
  refl _ := ⟨rfl, rfl, rfl, id, id⟩
  trans h g := ⟨g.st.trans h.st, g.ack.trans h.ack, g.active.trans h.active, fun w => g.waits (h.waits w), fun f => g.fatal (h.fatal f)⟩
  st h := h.st

/-- A fatal lane's entry is not what an unlisted lane reads as, so it is read back from any table. -/
theorem fatal_tmod_self (m : Tbl LaneSt) (i : Nat) {f : LaneSt → LaneSt} (hf : (f (tget m i {})).fatal = true) :
    tget (tmod m i {} f) i {} = f (tget m i {}) := by
  refine tget_tset_of_ne _ _ fun e => ?_
  rw [e] at hf
  exact Bool.false_ne_true hf

theorem fatalKept_lane (i j : Nat) {f : LaneSt → LaneSt} (hf : ∀ z, z.fatal = true → (f z).fatal = true) (x : LinkSt) :
    FatalKept i x { x with lane := tmod x.lane j {} f } := by
  refine ⟨rfl, rfl, rfl, id, fun h => ?_⟩
  unfold laneGet at *
  dsimp only
  by_cases hj : i = j
  · subst hj
    rw [fatal_tmod_self _ _ (hf _ h)]
    exact hf _ h
  · rw [tmod, tget_tset_ne _ _ _ hj]
    exact h

/-- From `s` to `t` memory and bollards stay, and endpoint `k` receives on as it did. -/
abbrev Receives (i k : Nat) (s t : State) : Prop := LinkStep (FatalKept i) k s t

theorem Receives.refl (i k : Nat) (s : State) : Receives i k s s := LinkStep.refl (chains_fatalKept i) s

namespace Receives
variable {i k : Nat} {s t : State} (h : Receives i k s t)
include h

theorem of_links {u : State} (hm : u.mem = t.mem) (hb : u.boll = t.boll) (hl : u.links = t.links) : Receives i k s u :=
  LinkStep.trans (chains_fatalKept i) h (.of_links (chains_fatalKept i) hm hb hl)

theorem linkMod {f : LinkSt → LinkSt} (hf : ∀ x, FatalKept i x (f x)) : Receives i k s (Machine.linkMod t k f) :=
  LinkStep.trans (chains_fatalKept i) h (.linkMod (chains_fatalKept i) k hf t)

/-- A change of the endpoint that touches nothing of its receiver. -/
theorem linkModSender {f : LinkSt → LinkSt} (hf : ∀ x, (f x).st = x.st ∧ (f x).rxAck = x.rxAck ∧ (f x).rxActive = x.rxActive ∧
    (f x).waitMark = x.waitMark ∧ (f x).lane = x.lane) : Receives i k s (Machine.linkMod t k f) := by
  refine h.linkMod fun x => ?_
  obtain ⟨hst, hack, hactive, hwait, hlane⟩ := hf x
  exact ⟨hst, hack, hactive, fun w => hwait.trans w, fun w => by unfold laneGet at *; rw [hlane]; exact w⟩

theorem laneMod (j : Nat) {f : LaneSt → LaneSt} (hf : ∀ z, z.fatal = true → (f z).fatal = true) : Receives i k s (Machine.laneMod t k j f) :=
  h.linkMod (fatalKept_lane i j hf)

theorem ite {c : Prop} [Decidable c] {u : State} (g : Receives i k s u) : Receives i k s (if c then t else u) := by
  split
  · exact h
  · exact g

omit h in
theorem foldl {α : Type} {f : State → α → State} (hf : ∀ t x, Receives i k s t → Receives i k s (f t x)) (l : List α) {t : State}
    (h : Receives i k s t) : Receives i k s (l.foldl f t) :=
  List.foldlRecOn (motive := fun u => Receives i k s u) l f h fun u hu x _ => hf u x hu

theorem cntAdd (off n : Nat) : Receives i k s (Machine.cntAdd t off n) := h.of_links rfl rfl rfl

theorem takeFree : Receives i k s t.takeFree := h.of_links rfl rfl rfl

theorem logCapture (off : Nat) (v : Word) : Receives i k s (Machine.logCapture t off v) :=
  h.of_links (logCapture_mem ..) (logCapture_boll ..) (logCapture_links ..)

theorem linkLog (kind detail : Nat) : Receives i k s (Machine.linkLog t k kind detail) :=
  h.of_links (linkLog_mem ..) (linkLog_boll ..) (linkLog_links ..)

theorem sendNotice (lane reason : Nat) (round : BitVec 24) : Receives i k s (Machine.sendNotice t k lane reason round) :=
  h.of_links (sendNotice_mem ..) (sendNotice_boll ..) (sendNotice_links ..)

theorem sendPlainNotice (lane reason : Nat) : Receives i k s (Machine.sendPlainNotice t k lane reason) := h.takeFree.sendNotice ..

theorem enqueue (p : QPar) : Receives i k s (Machine.enqueue t k p) :=
  h.linkModSender fun _ => ⟨rfl, rfl, rfl, rfl, rfl⟩

/-! ### A request that a fatal ends (R261, R267) -/

theorem widthResult (code width : Nat) : Receives i k s (Machine.widthResult t k code width) := h.logCapture ..

theorem startNego (value : Word) : Receives i k s (Machine.startNego t k value) := by
  have hclear : Receives i k s (rset t ((qlBlk k).reg 0x028) 0) := h.of_links rfl rfl rfl
  unfold Machine.startNego
  refine ite (hclear.widthResult ..) (ite (hclear.widthResult ..) (enqueue ?_ _))
  exact hclear.linkModSender (f := fun x => { x with
    nonce := x.nonce + 1, nego := some ⟨value.getLsbD 30, (field value 0 9).toNat, x.nonce + 1⟩ })
    fun _ => ⟨rfl, rfl, rfl, rfl, rfl⟩

theorem endNego (code : Nat) : Receives i k s (Machine.endNego t k code) := by
  have hend : Receives i k s (Machine.widthResult (Machine.linkMod t k fun x => { x with nego := none }) k code
      (widthOf (linkGet t k).txActive)) := by
    refine widthResult ?_ code _
    exact h.linkModSender fun _ => ⟨rfl, rfl, rfl, rfl, rfl⟩
  unfold Machine.endNego
  exact ite (hend.startNego _) hend

theorem interruptNego : Receives i k s (Machine.interruptNego t k) := by
  have hserving : Receives i k s (if (linkGet t k).serving.isSome then
      Machine.widthResult (Machine.linkMod t k fun y => { y with serving := none }) k 5 (widthOf (linkGet t k).txActive) else t) := by
    refine ite (widthResult ?_ 5 _) h
    exact h.linkModSender fun _ => ⟨rfl, rfl, rfl, rfl, rfl⟩
  unfold Machine.interruptNego
  refine ite (endNego ?_ 5) hserving
  exact hserving.linkModSender fun _ => ⟨rfl, rfl, rfl, rfl, rfl⟩

/-! ### Lanes that go fatal, fail and retire (R254, R258) -/

theorem laneGoesFatal (j : Nat) : Receives i k s (Machine.laneGoesFatal t k j) := by
  refine h.linkMod fun x => ?_
  have hlane := fatalKept_lane i j (f := fun z => { z with fatal := true, removed := z.removed && !x.rxActive.getLsbD j, since := t.now })
    (fun _ _ => rfl) x
  exact ⟨rfl, rfl, rfl, fun hw => by dsimp only; rw [hw, Bool.true_or], hlane.fatal⟩

theorem dlSet (j : Nat) (x : DlSt) : Receives i k s (Machine.dlSet t j x) := h.of_links rfl rfl rfl

theorem mapSpare (a b e p : Nat) : Receives i k s (Machine.mapSpare t a b e p) := by
  unfold Machine.mapSpare
  exact cntAdd (cntAdd (dlSet (dlSet h ..) ..) ..) ..

theorem resteerEngine (j : Nat) (sent : Bool) : Receives i k s (Machine.resteerEngine t k j sent) := by
  unfold Machine.resteerEngine
  split
  · split
    · dsimp only
      split
      · exact h.mapSpare ..
      · exact h
    · exact h
  · exact h

theorem retireLane (j : Nat) : Receives i k s (Machine.retireLane t k j) := by
  unfold Machine.retireLane
  refine sendPlainNotice (cntAdd (resteerEngine ?_ j false) ..) ..
  exact h.laneMod j fun _ hz => hz

theorem laneFails (j reason : Nat) (round : BitVec 24) : Receives i k s (Machine.laneFails t k j reason round) := by
  have hlane : Receives i k s (Machine.laneMod t k j fun l => { l with fails := failsNow t (laneGet (linkGet t k) j), ready := false }) :=
    h.laneMod j fun _ hz => hz
  unfold Machine.laneFails
  refine ite (h.retireLane j) (ite hlane (sendNotice ?_ ..))
  exact hlane.laneMod j fun _ hz => hz

theorem noteSilent : Receives i k s (Machine.noteSilent t k) :=
  h.linkModSender fun _ => ⟨rfl, rfl, rfl, rfl, rfl⟩

end Receives

/-- A lane that can fail goes fatal, between what leaves the receiver as it was (R254). -/
theorem fatalLanes_singleton {s : State} {k i : Nat} (hc : canFail (linkGet s k) i = true) (reason : Nat) (round : BitVec 24) :
    ∃ u, Receives i k s u ∧ Receives i k (laneGoesFatal u k i) (fatalLanes s k [(i, reason)] round) := by
  have hl : (([(i, reason)] : List (Nat × Nat)).filter fun e => canFail (linkGet s k) e.1).dedup = [(i, reason)] := by
    simp [hc]
  unfold fatalLanes
  dsimp only
  rw [hl]
  dsimp only
  rw [List.foldl_cons, List.foldl_nil]
  apply Exists.intro
  constructor
  rotate_left
  · refine Receives.noteSilent (Receives.foldl (fun t e ht => ht.laneFails ..) _ (.ite (Receives.foldl (fun t e ht => ?_) _ ?_) (.refl ..)))
    · refine Receives.sendNotice ?_ ..
      exact ht.laneMod _ fun _ hz => hz
    · refine Receives.linkModSender (Receives.refl ..) ?_
      exact fun _ => ⟨rfl, rfl, rfl, rfl, rfl⟩
  · exact Receives.interruptNego (Receives.foldl (fun t e ht => ht.linkLog ..) _ (((Receives.refl ..).cntAdd ..).logCapture ..))

/-- A lane in service whose round is bad is fatal, and the endpoint waits for the MARK that removes it. -/
theorem fatal_laneGoesFatal {s : State} {k i : Nat} (hst : (linkGet s k).st ≠ .off) (ha : (linkGet s k).rxActive.getLsbD i = true) :
    (laneGet (linkGet (laneGoesFatal s k i) k) i).fatal = true ∧ (linkGet (laneGoesFatal s k i) k).waitMark = true := by
  rw [laneGoesFatal, linkGet_linkMod_self s hst]
  dsimp only
  refine ⟨?_, by rw [ha, Bool.or_true]⟩
  unfold laneGet
  dsimp only
  rw [fatal_tmod_self _ _ rfl]

theorem fatalLanes_active {s : State} {k i : Nat} (hst : (linkGet s k).st ≠ .off) (ha : (linkGet s k).rxActive.getLsbD i = true)
    (hf : (laneGet (linkGet s k) i).fatal = false) (reason : Nat) (round : BitVec 24) : let t := fatalLanes s k [(i, reason)] round
    (laneGet (linkGet t k) i).fatal = true ∧ (linkGet t k).waitMark = true ∧ (linkGet t k).rxAck = (linkGet s k).rxAck ∧ t.mem = s.mem ∧
      t.boll = s.boll := by
  have hc : canFail (linkGet s k) i = true := by simp only [canFail, ha, hf, Bool.not_false, Bool.and_self, Bool.true_or]
  obtain ⟨u, hu, ht⟩ := fatalLanes_singleton hc reason round
  have hsu := hu.link hst
  have hst' : (linkGet u k).st ≠ .off := by rw [hsu.st]; exact hst
  obtain ⟨hfatal, hwait⟩ := fatal_laneGoesFatal (i := i) hst' (by rw [hsu.active]; exact ha)
  have hgo := (Receives.refl i k u).laneGoesFatal i
  have hug := hgo.link hst'
  have hgt := ht.link (by rw [hug.st]; exact hst')
  exact ⟨hgt.fatal hfatal, hgt.waits hwait, hgt.ack.trans (hug.ack.trans hsu.ack), ht.mem.trans (hgo.mem.trans hu.mem),
    ht.boll.trans (hgo.boll.trans hu.boll)⟩

end Sys2Proof.Machine
end

section
/-! Commands of lanes, MARKs and NOTICEs (R238, R239, R254–R258). -/

namespace Sys2Proof.Machine

theorem st_of_linkLive {s : State} {k : Nat} (h : linkLive s k = true) : (linkGet s k).st = .up := by
  rw [linkLive, Bool.and_eq_true] at h
  exact eq_of_beq h.1

theorem ne_off_of_linkLive {s : State} {k : Nat} (h : linkLive s k = true) : (linkGet s k).st ≠ .off := by
  rw [st_of_linkLive h]
  decide

/-! ## Lanes of the received direction -/

section
variable {s : State} {l : LinkId} (hl : linkLive s l.key = true)
include hl

theorem laneFatal_eq {found rest : List LaneRound} {r : LaneRound} (hbad : (found.filter fun r => laneReason r != 0) = r :: rest)
    (hg : l.key = guestKey → guestUcie s = false) : exec (.laneFatal l found) s =
      .next (fatalLanes s l.key ((r :: rest).map fun r => (r.lane.toNat, laneReason r)) (r.prev + 1)) := by
  have hport : (l.key == guestKey && guestUcie s) = false := by
    rw [Bool.and_eq_false_imp]
    exact fun h => hg (eq_of_beq h)
  simp only [exec, execLaneFatal, hbad, hl, hport, Bool.not_true, Bool.or_self, Bool.false_eq_true, if_false]

theorem reberthTimeout_eq {lane : Byte} (hf : (laneGet (linkGet s l.key) lane.toNat).fatal = true)
    (hr : (laneGet (linkGet s l.key) lane.toNat).ready = false) (ht : (laneGet (linkGet s l.key) lane.toNat).retiring = false)
    (hd : (laneGet (linkGet s l.key) lane.toNat).since + 800 ≤ s.now) :
    let u := cntAdd (laneMod s l.key lane.toNat fun y => { y with since := s.now }) ((qlBlk l.key).reg 0x044) 1
    exec (.reberthTimeout l lane) s = .next (if wideLossOpen u l.key then u else laneFails u l.key lane.toNat 0 0) := by
  have htime : decide (s.now < (laneGet (linkGet s l.key) lane.toNat).since + reberthTime) = false := decide_eq_false (Nat.not_lt.2 hd)
  simp only [exec, execReberthTimeout, hl, hf, hr, ht, htime, Bool.not_true, Bool.or_self, Bool.false_eq_true, if_false]

theorem retireNoticeRepeat_eq {lane : Byte} (ht : (laneGet (linkGet s l.key) lane.toNat).retiring = true)
    (hd : (laneGet (linkGet s l.key) lane.toNat).noticeAt + 2000 ≤ s.now) : exec (.retireNoticeRepeat l lane) s =
      .next (sendPlainNotice (laneMod s l.key lane.toNat fun y => { y with noticeAt := s.now }) l.key lane.toNat 5) := by
  simp only [exec, execRetireNoticeRepeat, hl, ht, decide_eq_true hd, Bool.and_self, if_true]

section
variable {lane : Byte} {train : TrainRx} (hf : (laneGet (linkGet s l.key) lane.toNat).fatal = true)
  (hr : (laneGet (linkGet s l.key) lane.toNat).ready = false) (ht : (laneGet (linkGet s l.key) lane.toNat).retiring = false)
include hf hr ht

theorem laneReberthed_of_passes (hp : lanePasses l.key lane.toNat train = true) : exec (.laneReberthed l lane train) s =
    .next (checkReady (linkMod (laneMod s l.key lane.toNat fun z => { z with ready := true }) l.key
      fun x => { x with silentAt := none, wideLoss := x.wideLoss.map fun _ => s.now }) l.key lane.toNat) := by
  simp only [exec, execLaneReberthed, hl, hf, hr, ht, hp, Bool.not_true, Bool.or_self, Bool.false_eq_true, if_false]
  rfl

theorem laneReberthed_of_not_passes (hp : lanePasses l.key lane.toNat train = false) : exec (.laneReberthed l lane train) s =
    .next (notJoined s l.key lane.toNat train) := by
  simp only [exec, execLaneReberthed, hl, hf, hr, ht, hp, Bool.not_true, Bool.not_false, Bool.or_self, Bool.false_eq_true, if_false,
    if_true]

end
end

theorem lanePasses_iff (k : Nat) (lane : Byte) (t : TrainRx) : lanePasses k lane.toNat t = true ↔
    t.skew.toNat ≤ 512 ∧ endMatches k t.ident t.dev t.engine = true ∧ t.lane = lane := by
  simp only [lanePasses, Bool.and_eq_true, beq_iff_eq, BitVec.toNat_inj, and_assoc]
  exact and_congr_left' decide_eq_true_iff

/-! ## MARKs at the receiver (R241, R256, R257, R261) -/

section
variable (s : State) (k i : Nat)

/-- A lane that is ready is told by a NOTICE. -/
theorem checkReady_eq : checkReady s k i = s ∨ checkReady s k i = sendPlainNotice s k i 0 := by
  unfold checkReady
  dsimp only
  split
  · exact .inr rfl
  · exact .inl rfl

theorem checkReady_mem : (checkReady s k i).mem = s.mem := by
  rcases checkReady_eq s k i with h | h <;> rw [h]
  exact sendPlainNotice_mem ..

theorem linkGet_checkReady (j : Nat) : linkGet (checkReady s k i) j = linkGet s j := by
  rcases checkReady_eq s k i with h | h <;> rw [h]
  exact linkGet_sendPlainNotice ..

end

/-- The state in which a MARK is applied: its epoch has begun. -/
abbrev newEpoch (s : State) (k : Nat) (epoch : Byte) : State := linkMod s k fun x => { x with rxEpoch := epoch }

section
variable {s : State} {l : LinkId} (hl : linkLive s l.key = true) (lane epoch width : Byte) (round : BitVec 24)
include hl

theorem mark_of_lane {action : MarkAction} (hi : lane.toNat < (linkGet s l.key).rxLanes) : exec (.mark l action lane epoch round width) s =
    .next (applyMark (newEpoch s l.key epoch) l.key action lane.toNat width.toNat) := by
  have hlane : decide ((linkGet s l.key).rxLanes ≤ lane.toNat) = false := decide_eq_false (Nat.not_le.2 hi)
  simp only [exec, execMark, hl, hlane, Bool.not_true, Bool.and_false, Bool.or_self, Bool.false_eq_true, if_false]

theorem mark_setWidth : exec (.mark l .setWidth lane epoch round width) s =
    .next (applyMark (newEpoch s l.key epoch) l.key .setWidth lane.toNat width.toNat) := by
  simp only [exec, execMark, hl, Bool.not_true, bne_self_eq_false, Bool.false_and, Bool.or_self, Bool.false_eq_true, if_false]

end

section
variable {s : State} {k : Nat} (hst : (linkGet s k).st ≠ .off) (epoch : Byte) (i width : Nat)
include hst

theorem linkGet_newEpoch : linkGet (newEpoch s k epoch) k = { linkGet s k with rxEpoch := epoch } := linkGet_linkMod_self s hst

/-- What one change of the endpoint in the new epoch leaves. -/
theorem linkGet_linkMod_newEpoch {f : LinkSt → LinkSt} (hf : ∀ x, (f x).st = x.st) :
    linkGet (linkMod (newEpoch s k epoch) k f) k = f { linkGet s k with rxEpoch := epoch } := by
  have he := linkGet_newEpoch hst epoch
  rw [linkGet_linkMod_self _ (by rw [hf, he]; exact hst), he]

theorem linkGet_applyMark_remove : ∃ lanes waits, linkGet (applyMark (newEpoch s k epoch) k .remove i width) k = { linkGet s k with
    rxEpoch := epoch, rxActive := setBit (linkGet s k).rxActive i false, lane := lanes, waitMark := waits } := by
  unfold applyMark
  dsimp only
  rw [linkGet_checkReady]
  exact ⟨_, _, linkGet_linkMod_newEpoch hst epoch fun _ => rfl⟩

theorem linkGet_applyMark_add : linkGet (applyMark (newEpoch s k epoch) k .add i width) k = { linkGet s k with
    rxEpoch := epoch, rxActive := setBit (linkGet s k).rxActive i true
    lane := tmod (linkGet s k).lane i {} fun z => { z with fatal := false, ready := false, removed := false } } :=
  linkGet_linkMod_newEpoch hst epoch fun _ => rfl

theorem linkGet_applyMark_setWidth : linkGet (applyMark (newEpoch s k epoch) k .setWidth i width) k = { linkGet s k with
    rxEpoch := epoch, rxActive := upTo (width + 1) (rxService (linkGet s k)), serving := none } :=
  linkGet_linkMod_newEpoch hst epoch fun _ => rfl

end

theorem applyMark_mem (s : State) (k : Nat) (action : MarkAction) (i width : Nat) : (applyMark s k action i width).mem = s.mem := by
  cases action with
  | remove => exact checkReady_mem ..
  | add => rfl
  | setWidth => rfl

/-! ## A fatal lane at the sender (R252, R256, R267) -/

section
variable {s : State} {k : Nat}

/-- Where the endpoint has no request of its own, a fatal ends at most the one that it serves. -/
theorem linkGet_interruptNego (hst : (linkGet s k).st ≠ .off) (hn : (linkGet s k).nego = none) :
    linkGet (interruptNego s k) k = { linkGet s k with serving := none } := by
  unfold interruptNego
  dsimp only
  have hnone : ¬ (linkGet s k).nego.isSome = true := by rw [hn]; exact Bool.false_ne_true
  rw [if_neg hnone]
  split
  · rw [widthResult, linkGet_logCapture]
    exact linkGet_linkMod_self s (f := fun y => { y with serving := none }) hst
  · rename_i h
    rw [← Option.not_isSome_iff_eq_none.1 h]

theorem marks_queueRemoval (hst : (linkGet s k).st ≠ .off) (hn : (linkGet s k).nego = none) (i : Nat) (expect : BitVec 16) :
    (linkGet (queueRemoval s k i expect) k).marks = (linkGet s k).marks ++ [(.remove, i, 0)] := by
  have hint := linkGet_interruptNego hst hn
  have hst' : (linkGet (interruptNego s k) k).st ≠ .off := by rw [hint]; exact hst
  obtain ⟨w, hw⟩ := linkGet_takeAck (interruptNego s k) k (expect - 1) hst'
  obtain ⟨r, q, ha⟩ := (linkGet (interruptNego s k) k).ackedBy_frame (expect - 1)
  have hack : (linkGet (takeAck (interruptNego s k) k (expect - 1)) k).st ≠ .off := by rw [hw, ha]; exact hst'
  have hmarks : (linkGet (takeAck (interruptNego s k) k (expect - 1)) k).marks = (linkGet s k).marks := by rw [hw, ha, hint]
  unfold queueRemoval
  dsimp only
  rw [linkGet_linkMod_self _ hack]
  dsimp only
  rw [hmarks]

theorem notice_of_fatal {l : LinkId} (hl : linkLive s l.key = true) {lane : Byte} {reason : BitVec 4}
    (hi : lane.toNat < (linkGet s l.key).lanes) (hr : reason = 1 ∨ reason = 2 ∨ reason = 3)
    (ha : (linkGet s l.key).txActive.getLsbD lane.toNat = true) (hq : markQueued (linkGet s l.key) .remove lane.toNat = false)
    (expect : BitVec 16) (round : BitVec 24) :
    exec (.notice l lane reason expect round) s = .next (queueRemoval s l.key lane.toNat expect) := by
  obtain ⟨h4, h0, h5, hn5⟩ : reason ≠ 4 ∧ reason ≠ 0 ∧ decide (5 < reason.toNat) = false ∧ (reason.toNat != 5) = true := by
    rcases hr with rfl | rfl | rfl <;> decide
  have hlane : decide ((linkGet s l.key).lanes ≤ lane.toNat) = false := decide_eq_false (Nat.not_le.2 hi)
  have hrem : removable (linkGet s l.key) lane.toNat = true := by simp only [removable, ha, hq, Bool.not_false, Bool.and_self]
  simp only [exec, execNotice, hl, h4, h0, h5, hlane, noticeLane, hrem, hn5, Bool.not_true, Bool.or_self, Bool.false_eq_true, if_false,
    if_true]

/-- A lane leaves the transmitted direction. -/
def LinkSt.withoutLane (x : LinkSt) (i : Nat) : LinkSt :=
  { x with txActive := setBit x.txActive i false, txGone := if x.txOut.getLsbD i then x.txGone else setBit x.txGone i true }

/-- TRAIN blocks go out on a lane that has left, but where its place is due or on the move (R256, R323). -/
def trainOut (v : State) (k i : Nat) (quiet : Prop) [Decidable quiet] : State :=
  if quiet then v else v.emit (.train k (setBit 0 i true) (identity v k) (ownDev v) (engineOf k))

/-- The last MARK that removes a lane begins the replay. -/
theorem markSent_remove {i : Nat} {expect : BitVec 16} (hm : (linkGet s k).marks = []) (hr : (linkGet s k).replayAt = some expect) :
    markSent s k .remove i 0 = checkNarrow (replayFrom (linkMod (trainOut (linkMod s k fun x => x.withoutLane i) k i
      ((linkGet s k).txDue.getLsbD i = true ∨ laneMoving s k i = true)) k fun x => { x with replayAt := none }) k expect) k := by
  have hlast : ¬ ((linkGet s k).marks.any fun m => m.1 == .remove) = true := by rw [hm]; exact Bool.false_ne_true
  unfold markSent trainOut
  dsimp only
  split
  case h_1 e he =>
    obtain rfl : e = expect := Option.some.inj (he.symm.trans hr)
    rw [if_neg hlast]
    simp only [← Bool.or_eq_true]
    rfl
  case h_2 he => exact absurd (he.symm.trans hr) nofun

/-- The last removal that waits goes out: the lane leaves the transmitted direction and its replay begins. -/
theorem nextMark_remove {i : Nat} {expect : BitVec 16} (hst : (linkGet s k).st ≠ .off) (hm : (linkGet s k).marks = [(.remove, i, 0)])
    (hr : (linkGet s k).replayAt = some expect) : nextMark s k = checkNarrow (replayFrom (linkMod (trainOut
      (linkMod (sendMark (linkMod s k fun x => { x with marks := [] }) k .remove i 0) k fun x => x.withoutLane i) k i
      ((linkGet s k).txDue.getLsbD i = true ∨ laneMoving s k i = true)) k fun x => { x with replayAt := none }) k expect) k := by
  have hempty := linkGet_linkMod_self s (k := k) (f := fun x => { x with marks := [] }) hst
  have hsent : linkGet (sendMark (linkMod s k fun x => { x with marks := [] }) k .remove i 0) k =
      { linkGet s k with marks := [], epoch := (linkGet s k).epoch + 1 } := by
    rw [sendMark, hempty]
    exact linkGet_linkSet_self _ (x := { linkGet s k with marks := [], epoch := (linkGet s k).epoch + 1 }) hst
  have hdue : (linkGet (sendMark (linkMod s k fun x => { x with marks := [] }) k .remove i 0) k).txDue = (linkGet s k).txDue := by rw [hsent]
  have hgo := markSent_remove (s := sendMark (linkMod s k fun x => { x with marks := [] }) k .remove i 0) (k := k) (i := i)
    (expect := expect) (by rw [hsent]) (by rw [hsent]; exact hr)
  unfold nextMark
  rw [hm]
  dsimp only
  rw [hgo, hdue]
  rfl

end

end Sys2Proof.Machine

namespace Sys2Proof.Claims

open Sys2Proof Sys2Proof.Machine

/-- Settles O37: each command by the branch that its premises choose; a fatal lane is followed through the failures of its round, and a removal
through the acknowledgement that its NOTICE carries. -/
theorem laneCommands : Obligations.LaneCommands := by
  refine ⟨fun r => ⟨laneReason_of_dark, laneReason_of_untold, fun p n h ht => ⟨laneReason_of_wrong h ht, laneReason_of_right h ht⟩⟩,
    fun l found rest r s hbad hl hg => laneFatal_eq hl hbad hg, ?_, ?_, fun l lane s hl hf hr ht hd => reberthTimeout_eq hl hf hr ht hd,
    fun l lane s hl ht hd => retireNoticeRepeat_eq hl ht hd, ?_, ?_, ?_, ?_,
    fun s k i expect hst _ hm hr => nextMark_remove (by rw [hst]; decide) hm hr⟩
  · intro l r s hbad hl hg ha hf
    have hfound : ([r].filter fun r => laneReason r != 0) = [r] := by simp [hbad]
    exact ⟨_, laneFatal_eq hl hfound hg, fatalLanes_active (ne_off_of_linkLive hl) ha hf (laneReason r) (r.prev + 1)⟩
  · intro l lane train s hl hf hr ht passes
    refine ⟨fun hp => laneReberthed_of_passes hl hf hr ht ((lanePasses_iff ..).2 hp), fun hp => laneReberthed_of_not_passes hl hf hr ht ?_⟩
    rw [← Bool.not_eq_true, lanePasses_iff]
    exact hp
  · intro l lane epoch width round s hl hi
    obtain ⟨lanes, waits, hmark⟩ := linkGet_applyMark_remove (ne_off_of_linkLive hl) epoch lane.toNat width.toNat
    refine ⟨_, mark_of_lane hl lane epoch width round hi, ?_⟩
    rw [hmark, applyMark_mem]
    refine ⟨?_, fun j hj hne => ?_, rfl, rfl, rfl⟩
    · rw [getLsbD_setBit _ _ _ _ lane.isLt, if_pos rfl]
    · rw [getLsbD_setBit _ _ _ _ hj, if_neg hne]
  · intro l lane epoch width round s hl hi hinv
    have hlanes : tsorted (linkGet s l.key).lane = true := (Bool.and_eq_true .. ▸ hinv.linkOk l.key).1
    refine ⟨_, mark_of_lane hl lane epoch width round hi, ?_⟩
    rw [linkGet_applyMark_add (ne_off_of_linkLive hl), applyMark_mem, laneGet, tmod, tget_tset_self _ _ _ hlanes]
    exact ⟨by rw [getLsbD_setBit _ _ _ _ lane.isLt, if_pos rfl], rfl, rfl, rfl, rfl⟩
  · intro l lane epoch width round s hl
    refine ⟨_, mark_setWidth hl lane epoch width round, ?_⟩
    rw [linkGet_applyMark_setWidth (ne_off_of_linkLive hl), applyMark_mem]
    exact ⟨rfl, rfl, rfl, rfl⟩
  · intro l lane reason expect round s hl hi hr ha hq
    exact ⟨notice_of_fatal hl hi hr ha hq expect round, fun hn => marks_queueRemoval (ne_off_of_linkLive hl) hn lane.toNat expect⟩

end Sys2Proof.Claims
end

section
/-! Link messages, and the states of a link and of a neighbour pair (R259–R266, R281). -/

namespace Sys2Proof.Machine

/-! ## Link messages that arrive in order (R260–R262) -/

theorem answered_of_outstanding {s : State} {k : Nat} {n : Nego} {nonce : Word} (hn : (linkGet s k).nego = some n) (hnonce : n.nonce = nonce)
    (f : Nego → State) : answered s k nonce f = f n := by
  simp only [answered, hn, hnonce, if_true]

section
variable {s : State} {l : LinkId} {h : Hdr} {payload : Parcel} {check : Word} (hr : Claims.Released s l tyLink h payload check)
include hr

theorem linkArrive_of_released : linkArrive s l h payload check = .next (linkMessage (Claims.freed s l h) l.key payload) := by
  unfold linkArrive
  rw [receive_of_released hr]
  rfl

theorem widthReq_eq (hm : msgOf payload = 2) : exec (.widthReq l h payload check) s =
    .next (meetRequest (Claims.freed s l h) l.key ⟨false, (field payload 16 16 : BitVec 16).toNat, msgNonce payload⟩) := by
  refine (linkArrive_of_released hr).trans (congrArg _ ?_)
  simp only [linkMessage, hm]

theorem retrainReq_eq (hm : msgOf payload = 3) : exec (.retrainReq l h payload check) s =
    .next (meetRequest (Claims.freed s l h) l.key ⟨true, 0, msgNonce payload⟩) := by
  refine (linkArrive_of_released hr).trans (congrArg _ ?_)
  simp only [linkMessage, hm]

section
variable {n : Nego} (hn : (linkGet (Claims.freed s l h) l.key).nego = some n) (hnonce : n.nonce = msgNonce payload)
include hn hnonce

theorem accept_eq (hm : msgOf payload = 4) :
    exec (.accept l h payload check) s = .next (accepted (Claims.freed s l h) l.key n) := by
  refine (linkArrive_of_released hr).trans (congrArg _ ?_)
  simp only [linkMessage, hm, answered_of_outstanding hn hnonce]

theorem refuse_eq (hm : msgOf payload = 5) :
    exec (.refuse l h payload check) s = .next (endNego (Claims.freed s l h) l.key 2) := by
  refine (linkArrive_of_released hr).trans (congrArg _ ?_)
  simp only [linkMessage, hm, answered_of_outstanding hn hnonce]

end

theorem laneOut_message_eq (hm : msgOf payload = 6) : exec (.laneOut l (.message h payload check)) s =
    .next (leaveOut (Claims.freed s l h) l.key (field payload 8 8 : BitVec 8).toNat) := by
  refine (linkArrive_of_released hr).trans (congrArg _ ?_)
  simp only [linkMessage, hm]

theorem st_freed : (linkGet (Claims.freed s l h) l.key).st = .up := by
  have hst : (linkGet s l.key).st ≠ .off := by rw [hr.up]; decide
  obtain ⟨m, w, hw⟩ := linkGet_taken h hst
  obtain ⟨r, q, hq⟩ := (linkGet s l.key).ackedBy_frame h.ack
  have hup : (linkGet (Claims.taken s l h) l.key).st = .up := by rw [hw, hq]; exact hr.up
  have hfree := linkGet_linkMod_self (Claims.taken s l h) (k := l.key) (f := fun x => { x with freed := tmod x.freed h.vc.toNat 0 (· + 1) })
    (by dsimp only; rw [hup]; decide)
  rw [Claims.freed, freeUnit, hfree]
  exact hup

end

theorem freed_mem (s : State) (l : LinkId) (h : Hdr) : (Claims.freed s l h).mem = s.mem := taken_mem h

theorem leaveOut_mem (s : State) (k i : Nat) : (leaveOut s k i).mem = s.mem := rfl

/-- A lane that the far end leaves out is out of the received direction (R259). -/
theorem linkGet_leaveOut {s : State} {k : Nat} (hst : (linkGet s k).st ≠ .off) (i : Nat) : ∃ lanes waits, linkGet (leaveOut s k i) k =
    { linkGet s k with rxOut := setBit (linkGet s k).rxOut i true, rxActive := setBit (linkGet s k).rxActive i false, lane := lanes,
                       waitMark := waits } := by
  unfold leaveOut
  rw [linkGet_linkMod_self s hst]
  exact ⟨_, _, rfl⟩

/-! ## A request of the far end (R261, R262) -/

section
variable {s : State} {k : Nat} {n : Nego}

theorem meetRequest_of_alone (h : (linkGet s k).nego = none) : meetRequest s k n = serveRequest s k n := by
  unfold meetRequest
  dsimp only
  rw [h]
  rfl

theorem meetRequest_of_higher (h : (linkGet s k).nego.isSome = true) (hid : (linkGet s k).peerId.toNat < (identity s k).toNat) :
    meetRequest s k n = s := by
  have hsome : ¬ (linkGet s k).nego.isNone = true := by rw [Option.isNone_iff_eq_none, ← Option.not_isSome_iff_eq_none, h]; decide
  simp only [meetRequest, if_neg hsome, if_pos hid]

theorem meetRequest_of_lower (h : (linkGet s k).nego.isSome = true) (hid : (identity s k).toNat ≤ (linkGet s k).peerId.toNat) :
    meetRequest s k n = serveRequest (endNego (cntAdd s ((qlBlk k).reg 0x060) 1) k 3) k n := by
  have hsome : ¬ (linkGet s k).nego.isNone = true := by rw [Option.isNone_iff_eq_none, ← Option.not_isSome_iff_eq_none, h]; decide
  simp only [meetRequest, if_neg hsome, if_neg (Nat.not_lt.2 hid)]

theorem accepted_of_retrain (h : n.retrain = true) : (linkGet (accepted s k n) k).st = .train ∧
    (linkGet (accepted s k n) k).retraining = true := by
  rw [accepted, if_pos h, beginRetrain, linkGet_linkMod_self]
  · exact ⟨rfl, rfl⟩
  · exact nofun

theorem accepted_of_width (hst : (linkGet s k).st ≠ .off) (h : n.retrain = false) :
    (linkGet (accepted s k n) k).marks = (linkGet s k).marks ++ [(.setWidth, 0, n.target - 1)] := by
  have hq := linkGet_linkMod_self s (k := k) (f := fun x => { x with marks := x.marks ++ [(.setWidth, 0, n.target - 1)] }) hst
  rw [accepted, h, if_neg Bool.false_ne_true, queueMark, hq]

end

/-! ## Requests of software (R261, R266) -/

section
variable {s : State} {l : LinkId} {value : Word} (he : endAlive s l.key = true) (hb : isBusy s (qlBlk l.key) = false)
include he hb

/-- Both request registers are written alike. -/
theorem request_eq : exec (.qlWidthReq l value) s = .next (negoWrite (acceptWrite s (qlBlk l.key)) l.key value) ∧
    exec (.qlRetrain l value) s = .next (negoWrite (acceptWrite s (qlBlk l.key)) l.key value) := by
  simp only [exec, execQlWidthReq, execQlRetrain, he, if_true, Claims.softWrite_of_not_busy hb, and_self]

theorem qlScuttle_eq (hgo : value.getLsbD 31 = true) : let u := rset (acceptWrite s (qlBlk l.key)) ((qlBlk l.key).reg 0x030) 0
    exec (.qlScuttle l value false) s = .next (if (linkGet s l.key).st = .train ∨ (linkGet s l.key).st = .down then
      logCapture (scuttle u l.key) ((qlBlk l.key).reg 0x034) 0 else logCapture u ((qlBlk l.key).reg 0x034) 1) := by
  simp only [exec, execQlScuttle, he, hgo, Claims.softWrite_of_not_busy hb, linkGet_rset, linkGet_acceptWrite, Bool.not_true, Bool.false_eq_true,
    if_false, Bool.false_or, Bool.and_eq_true, bne_iff_ne, ne_eq, ← not_or, ite_not]
  exact (apply_ite Host.Outcome.next _ _ _).symm

end

section
variable {s : State} {k : Nat} {value : Word}

theorem negoWrite_of_idle (hgo : value.getLsbD 31 = true) (hn : (linkGet s k).nego = none) : negoWrite s k value = startNego s k value := by
  simp only [negoWrite, hgo, hn, Option.isSome_none, Bool.not_true, Bool.or_self, Bool.false_eq_true, if_false]

theorem negoWrite_of_outstanding (hn : (linkGet s k).nego.isSome = true) : negoWrite s k value = rset s ((qlBlk k).reg 0x028) value := by
  simp only [negoWrite, hn, Bool.or_true, if_true]

end

/-! ## Coming UP and going DOWN (R263–R265) -/

section
variable (was s : State) (k : Nat)

/-- A pair's record is a record of the log, or none. -/
theorem pairLog_eq : pairLog was s k = s ∨ ∃ slot unit detail addr tag, pairLog was s k = logRecord s 0x0503 slot unit detail addr tag := by
  unfold pairLog
  split
  · exact .inl rfl
  · dsimp only
    split
    · exact .inl rfl
    · exact .inr ⟨_, _, _, _, _, rfl⟩

theorem pairLog_mem : (pairLog was s k).mem = s.mem := by
  rcases pairLog_eq was s k with h | ⟨_, _, _, _, _, h⟩ <;> rw [h]
  exact logRecord_mem ..

theorem linkGet_pairLog (j : Nat) : linkGet (pairLog was s k) j = linkGet s j := by
  rcases pairLog_eq was s k with h | ⟨_, _, _, _, _, h⟩ <;> rw [h]
  exact linkGet_logRecord ..

theorem linkGet_notePair (j : Nat) : linkGet (notePair was s k) j = linkGet s j := by
  unfold notePair
  split
  · rfl
  · dsimp only
    split <;> rfl

variable {s k}

theorem linkGet_checkBelowMin (hst : (linkGet s k).st ≠ .off) :
    ∃ b, linkGet (checkBelowMin s k) k = { linkGet s k with belowMin := b } := by
  have hset : ∀ b, linkGet (linkSet s k { linkGet s k with belowMin := b }) k = { linkGet s k with belowMin := b } :=
    fun b => linkGet_linkSet_self s (x := { linkGet s k with belowMin := b }) hst
  unfold checkBelowMin
  dsimp only
  split
  · rw [linkGet_linkLog]
    exact ⟨_, hset _⟩
  · exact ⟨_, hset _⟩

/-- A replay from the far end's EXPECT touches the replay buffer and what waits behind credits (R252, R253). -/
theorem linkGet_replayFrom (hst : (linkGet s k).st ≠ .off) (expect : BitVec 16) :
    ∃ r q w, linkGet (replayFrom s k expect) k = { linkGet s k with replay := r, resend := q, waiting := w } := by
  obtain ⟨w, hw⟩ := linkGet_takeAck s k (expect - 1) hst
  obtain ⟨r, q, hr⟩ := (linkGet s k).ackedBy_frame (expect - 1)
  rw [hr] at hw
  rw [replayFrom, linkGet_replayAll (by rw [hw]; exact hst), hw]
  exact ⟨_, _, _, rfl⟩

theorem replayFrom_mem (s : State) (k : Nat) (expect : BitVec 16) : (replayFrom s k expect).mem = s.mem := takeAck_mem ..

/-- The replay that begins as a link comes UP leaves its state and its far end's identity. -/
theorem up_replayAll (hup : (linkGet s k).st = .up) : (linkGet (checkBelowMin (replayAll s k) k) k).st = .up ∧
    (linkGet (checkBelowMin (replayAll s k) k) k).peerId = (linkGet s k).peerId := by
  have hr := linkGet_replayAll (s := s) (k := k) (by rw [hup]; decide)
  obtain ⟨b, hb⟩ := linkGet_checkBelowMin (s := replayAll s k) (k := k) (by rw [hr]; dsimp only; rw [hup]; decide)
  rw [hb, hr]
  exact ⟨hup, rfl⟩

theorem linkUp_up (s : State) (k : Nat) (far : Bool) (expect : BitVec 16) (id : Dword) : (linkGet (linkUp s k far expect id) k).st = .up ∧
    (linkGet (linkUp s k far expect id) k).peerId = id := by
  unfold linkUp
  dsimp only
  generalize (if ((linkGet s k).fresh || far) = true then startFresh s k else takeAck s k (expect - 1)) = t
  have hset := linkGet_linkMod_self t (k := k) (f := fun y => { y with
    st := .up, peerId := id, silentAt := none, retraining := false, wideLoss := y.wideLoss.map fun _ => t.now }) nofun
  generalize linkMod t k _ = u at hset ⊢
  have hlogs : ∀ detail, linkGet (pairLog s (linkLog (notePair s u k) k 0x0405 detail) k) k = linkGet u k := fun detail => by
    rw [linkGet_pairLog, linkGet_linkLog, linkGet_notePair]
  generalize hv : pairLog s _ k = v
  have hlink : linkGet v k = linkGet u k := by rw [← hv]; exact hlogs _
  have hup := up_replayAll (s := v) (k := k) (by rw [hlink, hset])
  rw [hlink, hset] at hup
  exact hup

theorem linkGet_linkDown (hup : (linkGet s k).st = .up) : linkGet (linkDown s k) k = { linkGet s k with
    st := .down, silentAt := none, waitMark := false, nego := none, serving := none, retraining := false, helloSent := false
    replayReq := none, marks := [], replayAt := none, resend := none, triedAt := s.now } := by
  have hgoes : ¬ ((linkGet s k).st == .down || (linkGet s k).st == .off) = true := by rw [hup]; decide
  unfold linkDown
  dsimp only
  rw [if_neg hgoes, linkGet_pairLog, linkGet_linkLog, linkGet_cntAdd, linkGet_linkSet_self]
  exact nofun

/-- An endpoint after its retrain. -/
def LinkSt.retrained (x : LinkSt) : LinkSt := { retrainedLanes x with st := .up, retraining := false, serving := none }

section
variable {l : LinkId} (ht : (linkGet s l.key).st = .train) (hr : (linkGet s l.key).retraining = true) (he : endAlive s l.key = true)
  (hn : (linkGet s l.key).nego = none) (expect : BitVec 16)
include ht hr he hn

theorem retrainDone_eq : exec (.retrainDone l expect) s = .next (let t := linkSet s l.key (linkGet s l.key).retrained
    pairLog s (replayFrom (linkLog t l.key 0x0405 (widthOf (linkGet t l.key).txActive)) l.key expect) l.key) := by
  simp only [exec, execRetrainDone, LinkSt.retrained, ht, hr, he, hn, bne_self_eq_false, Bool.not_true, Bool.or_self, Bool.false_eq_true,
    if_false]

theorem retrainDone_up : ∃ t, exec (.retrainDone l expect) s = .next t ∧ (linkGet t l.key).st = .up ∧
    (linkGet t l.key).retraining = false ∧ t.mem = s.mem := by
  have hoff : (linkGet s l.key).retrained.st ≠ .off := fun h => LkState.noConfusion h
  refine ⟨_, retrainDone_eq ht hr he hn expect, ?_⟩
  dsimp only
  rw [pairLog_mem, linkGet_pairLog, replayFrom_mem, linkLog_mem]
  generalize widthOf _ = detail
  have hlog : linkGet (linkLog (linkSet s l.key (linkGet s l.key).retrained) l.key 0x0405 detail) l.key = (linkGet s l.key).retrained := by
    rw [linkGet_linkLog, linkGet_linkSet_self s hoff]
  obtain ⟨r, q, w, hx⟩ := linkGet_replayFrom (by rw [hlog]; exact hoff) expect
  rw [hx, hlog]
  exact ⟨rfl, rfl, rfl⟩

end

end

/-! ## HELLO (R260, R263) -/

section
variable {s : State} {l : LinkId} {h : Hdr} {payload : Parcel} {check : Word} {strays : List (Byte × TrainRx)}

theorem hello_eq (hm : msgOf payload = 1) (ht : (linkGet s l.key).st = .train) (hr : (linkGet s l.key).retraining = false)
    (he : endAlive s l.key = true) (htr : trainable s l.key = true) (hty : h.ty = tyLink) (hc : parcelCheck payload = recoverCheck h check) :
    exec (.hello l h payload check strays) s = .next (helloUp s l.key payload strays) := by
  have hres : reservedType tyLink = false := by decide
  simp only [exec, execHello, hm, ht, hr, he, htr, hty, hc, hres, bne_self_eq_false, Bool.not_true, Bool.or_self, Bool.false_eq_true,
    if_false]

end

section
variable {s : State} {k : Nat} {p : Parcel}

theorem helloUp_of_stranger (strays : List (Byte × TrainRx)) (h : endMatches k (field p 64 64) (field p 128 8) (field p 136 8) = false) :
    helloUp s k p strays = noneJoined s k p := by
  simp only [helloUp, h, Bool.not_false, if_true]

/-- The mapped far end, with enough lanes and none astray. -/
theorem helloUp_of_match (h : endMatches k (field p 64 64) (field p 128 8) (field p 136 8) = true)
    (hlanes : isOptical k = false ∨ (linkGet s k).lanes ≤ (field p 144 16 : BitVec 16).toNat)
    (htx : upWidth s k ≤ widthOf (linkGet s k).txActive) (hrx : upWidth s k ≤ widthOf (linkGet s k).rxActive) :
    helloUp s k p [] = linkUp s k (p.getLsbD 8) (field p 16 16) (field p 64 64) := by
  have hkeep : (isOptical k && decide ((field p 144 16 : BitVec 16).toNat < (linkGet s k).lanes)) = false := by
    rw [Bool.and_eq_false_iff, decide_eq_false_iff_not, Nat.not_lt]
    exact hlanes
  have hmatch : matchLanes s k (field p 144 16 : BitVec 16).toNat = s := if_neg (by rw [hkeep]; exact Bool.false_ne_true)
  have hwide : ¬ (widthOf (linkGet s k).txActive < upWidth s k ∨ widthOf (linkGet s k).rxActive < upWidth s k) :=
    not_or.2 ⟨Nat.not_lt.2 htx, Nat.not_lt.2 hrx⟩
  simp only [helloUp, h, hmatch, dropStrays, List.filter_nil, List.foldl_nil, if_neg hwide, Bool.not_true, Bool.false_eq_true, if_false]

end

end Sys2Proof.Machine

namespace Sys2Proof.Claims

open Sys2Proof Sys2Proof.Machine

/-- Settles O38: each command by the branch that its premises choose; the states that follow are read back from the endpoint. -/
theorem linkStates : Obligations.LinkStates := by
  refine ⟨?_, fun s k n => ⟨meetRequest_of_alone, meetRequest_of_higher, meetRequest_of_lower, fun _ h => accepted_of_retrain h,
      fun hst h => accepted_of_width (by rw [hst]; decide) h⟩, ?_, ?_, fun l expect s ht hr he hn => retrainDone_up ht hr he hn expect, ?_,
    linkUp_up, ?_, ?_, ?_, ?_, ?_, ?_⟩
  · intro l h payload check s hr u k
    refine ⟨widthReq_eq hr, retrainReq_eq hr, fun n hm hn hnonce => accept_eq hr hn hnonce hm, fun n hm hn hnonce => refuse_eq hr hn hnonce hm,
      fun hm => ⟨_, laneOut_message_eq hr hm, ?_⟩⟩
    obtain ⟨lanes, waits, hx⟩ := linkGet_leaveOut (s := u) (k := k) (by rw [st_freed hr]; decide) (field payload 8 8 : BitVec 8).toNat
    have hlane := (field payload 8 8 : BitVec 8).isLt
    rw [hx]
    dsimp only
    rw [getLsbD_setBit _ _ _ _ hlane, getLsbD_setBit _ _ _ _ hlane, if_pos rfl, if_pos rfl]
    exact ⟨rfl, rfl, (leaveOut_mem ..).trans (freed_mem s l h)⟩
  · intro l lane s hl hd hn
    simp only [exec, execLaneOut, hl, hd, hn, Bool.and_self, if_true]
  · intro l value s he hb hgo u
    obtain ⟨hw, hr⟩ := request_eq (value := value) he hb
    refine ⟨fun hn => ?_, fun hn => ?_⟩
    · rw [hw, hr, negoWrite_of_idle (s := acceptWrite s (qlBlk l.key)) hgo hn]
      exact ⟨fun _ => rfl, fun _ => rfl⟩
    · rw [hw, hr, negoWrite_of_outstanding (s := acceptWrite s (qlBlk l.key)) hn]
      exact ⟨rfl, rfl⟩
  · intro l h payload check strays s x hm ht hr he htr hty hc
    refine ⟨hello_eq hm ht hr he htr hty hc, helloUp_of_stranger strays, fun hmatch hs hlanes htx hrx => ?_⟩
    subst hs
    exact helloUp_of_match hmatch hlanes htx hrx
  · intro l s since hsil hl hd
    simp only [exec, execLinkSilentTimeout, hsil, hl, decide_eq_true hd, Bool.and_self, if_true]
  · intro s k hup
    rw [linkGet_linkDown hup]
    exact ⟨rfl, rfl, rfl⟩
  · intro l s hst htr hex he hd
    simp only [exec, execLinkTrainRetry, hst, htr, hex, he, decide_eq_true hd, BEq.rfl, Bool.and_self, if_true]
  · intro l value s he hb hgo u
    rw [qlScuttle_eq he hb hgo]
    refine ⟨fun hst => by rw [if_pos hst], fun hst => ?_⟩
    have hno : ¬ ((linkGet s l.key).st = .train ∨ (linkGet s l.key).st = .down) := by rcases hst with h | h <;> rw [h] <;> decide
    rw [if_neg hno]
  · intro a b s hab hp
    rw [← Option.not_isNone, Bool.not_eq_true'] at hab
    simp only [exec, execPairReroute, hab, hp, Bool.or_self, Bool.false_eq_true, if_false]
  · intro a b s hab hp hd
    rw [← Option.not_isNone, Bool.not_eq_true'] at hab
    simp only [exec, execPairReturn, hab, hp, decide_eq_true hd, Bool.and_self, Bool.false_eq_true, if_false, if_true]

end Sys2Proof.Claims
end

section
/-! Dies that drop out alone: loss, rejoin, quarantine, and release (R285–R290, R303). -/

namespace Sys2Proof.Machine

/-! ## What leaves the harbourmaster's state as it is -/

theorem foldl_hm {α : Type} {f : State → α → State} (hf : ∀ t x, (f t x).hm = t.hm) (l : List α) (s : State) :
    (l.foldl f s).hm = s.hm :=
  List.foldlRecOn (motive := fun t => t.hm = s.hm) l f rfl fun t ht x _ => (hf t x).trans ht

section
variable (s : State)

@[simp] theorem linkLog_hm (k kind detail : Nat) : (linkLog s k kind detail).hm = s.hm := by
  rcases linkLog_eq s k kind detail with h | ⟨_, _, _, _, h⟩ <;> simp [h]

@[simp] theorem pairLog_hm (was : State) (k : Nat) : (pairLog was s k).hm = s.hm := by
  rcases pairLog_eq was s k with h | ⟨_, _, _, _, _, h⟩ <;> simp [h]

@[simp] theorem widthResult_hm (k code width : Nat) : (widthResult s k code width).hm = s.hm := logCapture_hm ..

@[simp] theorem dropRequests_hm (k : Nat) : (dropRequests s k).hm = s.hm := by
  unfold dropRequests
  dsimp only
  split
  · rfl
  · rw [widthResult_hm, rset_hm]

@[simp] theorem linkDown_hm (k : Nat) : (linkDown s k).hm = s.hm := by
  unfold linkDown
  dsimp only
  split
  · rfl
  · rw [pairLog_hm, linkLog_hm, cntAdd_hm, linkSet_hm, dropRequests_hm]

@[simp] theorem cutLinks_hm (slot : Nat) : (cutLinks s slot).hm = s.hm := foldl_hm linkDown_hm ..

@[simp] theorem berthFinish_hm (sweep : Bool) (result : Word) : (berthFinish s sweep result).hm = s.hm :=
  (congrArg State.hm (wordsOnly_berthFinish s sweep result)).trans rfl

@[simp] theorem clearCompute_hm (c : Nat) : (clearCompute s c).hm = s.hm := by
  unfold clearCompute
  dsimp only
  split
  · rfl
  · split
    · exact berthFinish_hm ..
    · rfl

/-- A die's reset clears what is the die's own, and nothing of the harbourmaster. -/
@[simp] theorem dieCleared_hm (slot : Nat) (planned : Bool) : (dieCleared s slot planned).hm = s.hm := by
  unfold dieCleared
  dsimp only
  split
  · rfl
  · exact clearCompute_hm ..
  · rfl
  · rfl

@[simp] theorem endVoyagesOn_hm (slots : List Nat) : (endVoyagesOn s slots).hm = s.hm := foldl_hm (fun t set => voyageMod_hm t set _) ..

@[simp] theorem clearCoreSram_hm (slot : Nat) : (clearCoreSram s slot).hm = s.hm := by
  unfold clearCoreSram
  split <;> rfl

@[simp] theorem startRing_hm (n r : Nat) : (startRing s n r).hm = s.hm := by
  unfold startRing
  dsimp only
  split
  · rfl
  · split <;> rfl

@[simp] theorem startReceive_hm (n : Nat) : (startReceive s n).hm = s.hm := by
  unfold startReceive
  split
  · rfl
  · exact foldl_hm (fun t p => startRing_hm t n (9792 + p)) ..

@[simp] theorem startRings_hm (n : Nat) : (startRings s n).hm = s.hm :=
  (startReceive_hm ..).trans (foldl_hm (fun t r => startRing_hm t n r) ..)

theorem loadMeets_of_not_loading (h : s.hm.loading = none) (slot : Nat) : loadMeets s slot = s := by
  rw [loadMeets, h]

end

/-! ## Loss (R285, R286, R290) -/

theorem mem_insertLoss (x : Nat × Nat) (l : List (Nat × Nat)) : x ∈ insertLoss x l := by
  induction l with
  | nil => exact List.mem_cons_self
  | cons y r ih =>
    unfold insertLoss
    split
    · exact List.mem_cons_self
    · exact List.mem_cons_of_mem _ ih

theorem dieGet_of_hm {s t : State} (h : t.hm = s.hm) (slot : Nat) : dieGet t slot = dieGet s slot := by rw [dieGet, h, dieGet]

theorem dieState_of_hm {s t : State} (h : t.hm = s.hm) (slot : Nat) : dieState t slot = dieState s slot :=
  congrArg DieRec.st (dieGet_of_hm h slot)

theorem dieRuns_of_hm {s t : State} (h : t.hm = s.hm) (slot : Nat) : dieRuns t slot = dieRuns s slot := by
  rw [dieRuns, dieState_of_hm h, dieRuns]

/-- A die that is not ABSENT is not what an unlisted slot reads as, so it is read back from any table. -/
theorem dieGet_dieSet_self (s : State) (slot : Nat) {d : DieRec} (h : d.st ≠ .absent) : dieGet (dieSet s slot d) slot = d :=
  tget_tset_of_ne _ _ fun e => h (congrArg DieRec.st e)

/-- The record of a die that has gone LOST. -/
def DieRec.lost (d : DieRec) (cause now : Nat) : DieRec :=
  { d with st := .lost, cause := cause, planned := false, heldByBase := false, lostAt := now }

section
variable (s : State) (slot cause : Nat)

theorem enterLost_hm : (enterLost s slot cause).hm = { s.hm with
    dies := tset s.hm.dies slot ((dieGet s slot).lost cause s.now) {}, losses := insertLoss (slot, cause) s.hm.losses } := by
  rw [enterLost, cntAdd_hm]
  rfl

/-- Of the harbourmaster's state, where no chart is being loaded, a loss changes what the die's entry into LOST does. -/
theorem loseOne_hm (hl : s.hm.loading = none) : (loseOne s slot cause).hm = (enterLost s slot cause).hm := by
  have hcleared : (dieCleared (cutLinks (enterLost s slot cause) slot) slot false).hm = (enterLost s slot cause).hm := by
    rw [dieCleared_hm, cutLinks_hm]
  have hidle {t : State} (ht : t.hm = (enterLost s slot cause).hm) : t.hm.loading = none := by rw [ht, enterLost_hm, hl]
  have hmet {t : State} (ht : t.hm = (enterLost s slot cause).hm) : (loadMeets t slot).hm = (enterLost s slot cause).hm := by
    rw [loadMeets_of_not_loading t (hidle ht), ht]
  refine hmet ?_
  split
  · exact (logCapture_hm ..).trans hcleared
  · exact hcleared

theorem dieGet_loseOne (hl : s.hm.loading = none) :
    dieGet (loseOne s slot cause) slot = (dieGet s slot).lost cause s.now := by
  rw [dieGet, loseOne_hm s slot cause hl, enterLost_hm]
  exact dieGet_dieSet_self s slot fun h => DieState.noConfusion h

theorem mem_losses_loseOne (hl : s.hm.loading = none) : (slot, cause) ∈ (loseOne s slot cause).hm.losses := by
  rw [loseOne_hm s slot cause hl, enterLost_hm]
  exact mem_insertLoss ..

end

theorem loseDie_of_runs {s : State} {slot : Nat} (hg : governed slot = true) (hr : dieRuns s slot = true) (cause : Nat) :
    loseDie s slot cause =
      ((dependants slot).filter fun c => dieRuns s c).foldl (fun t c => loseOne t c 4) (loseOne s slot cause) := by
  simp only [loseDie, hg, hr, Bool.not_true, Bool.or_self, Bool.false_eq_true, if_false]

/-! ## Slots of governed dies -/

section
variable {slot : Nat} (hg : governed slot = true)
include hg

theorem dieType_of_governed : dieType slot = some 1 ∨ dieType slot = some 2 ∨ dieType slot = some 3 := by
  unfold governed at hg
  split at hg
  next h => exact .inl h
  next h => exact .inr (.inl h)
  next h => exact .inr (.inr h)
  next => exact absurd hg Bool.false_ne_true

theorem governed_ne_zero : slot ≠ 0 := by
  rintro rfl
  exact absurd hg (by decide)

theorem governed_ne_guest : slot ≠ 40 := by
  rintro rfl
  exact absurd hg (by decide)

theorem governed_ne_chiplet : dieType slot ≠ some 4 := by
  rcases dieType_of_governed hg with h | h | h <;> rw [h] <;> decide

end

/-- The clocks of a governed die that runs are lost: the loss is counted, and the die goes LOST. -/
theorem clockMonitorReset_of_runs {s : State} {slot : Fin 41} (hup : hubUp s = true) (hg : governed slot.val = true)
    (hr : dieRuns s slot.val = true) :
    exec (.clockMonitorReset slot) s = .next (loseDie (cntAdd s ((blkCK slot.val).reg 0x014) 1) slot.val 2) := by
  simp only [exec, execClockMonitorReset, hup, hg, hr, if_neg (governed_ne_zero hg), if_neg (governed_ne_chiplet hg), Bool.not_true,
    Bool.and_self, Bool.false_eq_true, if_false, if_true]

/-! ## Rejoin (R273, R289) -/

section
variable {s : State} {slot : Fin 41} {straps : BitVec 6}

theorem baseCut_eq_false {n : Nat}
    (h : dieType n = some 2 → dieState s (baseBelow n) ≠ .lost ∧ dieState s (baseBelow n) ≠ .quarantined) :
    baseCut s n = false := by
  by_cases ht : dieType n = some 2
  · obtain ⟨hlost, hquar⟩ := h ht
    simp [baseCut, hlost, hquar]
  · simp [baseCut, ht]

theorem dieResetRelease_eq (hup : hubUp s = true) (hg : governed slot.val = true) (hst : dieState s slot.val = .lost)
    (hbase : dieType slot.val = some 2 → dieState s (baseBelow slot.val) ≠ .lost ∧ dieState s (baseBelow slot.val) ≠ .quarantined)
    (hheld : (dieGet s slot.val).cause = 2 → (dieGet s slot.val).lostAt + 1000000 ≤ s.now) :
    exec (.dieResetRelease slot straps) s = .next (startRejoin s slot.val straps.toNat) := by
  have hpassed : ((dieGet s slot.val).cause == 2 && decide (s.now < (dieGet s slot.val).lostAt + monitorHold)) = false := by
    rw [Bool.and_eq_false_imp]
    exact fun h => decide_eq_false (Nat.not_lt.2 (hheld (eq_of_beq h)))
  simp only [exec, execDieResetRelease, hup, hst, baseCut_eq_false hbase, hpassed, if_neg (governed_ne_chiplet hg), bne_self_eq_false,
    Bool.not_true, Bool.or_self, Bool.false_eq_true, if_false]

end

section
variable {s : State} {slot code : Nat}

theorem startRejoin_of_strapsBad (h : dieType code ≠ dieType slot) : startRejoin s slot code =
    strapsBad (rset s ((blkID slot).reg 0x010) (siteWord slot code)) slot code := by
  simp only [startRejoin, strapsOk, beq_eq_false_iff_ne.2 h, Bool.not_false, if_true]

/-- What a rejoining die's memory, voyages and rings do leaves it REJOINING. -/
theorem dieState_startRejoin (h : dieType code = dieType slot) : dieState (startRejoin s slot code) slot = .rejoining := by
  have hset (u : State) (d : DieRec) (hd : d.st = .rejoining) : dieState (dieSet u slot d) slot = .rejoining := by
    rw [← hd]
    exact congrArg DieRec.st (dieGet_dieSet_self u slot (by rw [hd]; exact fun h => DieState.noConfusion h))
  simp only [startRejoin, strapsOk, h, BEq.rfl, Bool.not_true, Bool.false_eq_true, if_false]
  split
  · exact (dieState_of_hm ((endVoyagesOn_hm ..).trans (clearCoreSram_hm ..)) slot).trans (hset _ _ rfl)
  · exact (dieState_of_hm (startRings_hm ..) slot).trans (hset _ _ rfl)
  · exact hset _ _ rfl

end

/-- A place's rings have settled where those of the whole engine have. -/
theorem settled_of_ringsSettled {s : State} {n : Nat} (h : ringsSettled s n = true) {r : Nat}
    (hr : r ∈ (enPlaces (oeGet s n)).flatMap fun p => placeRings p.2) :
    (oeGet s n).dark = true ∨ (ringGet (oeGet s n) r).st = .locked ∨ (ringGet (oeGet s n) r).st = .givenUp := by
  rcases Bool.or_eq_true_iff.1 h with hdark | hall
  · exact .inl hdark
  · exact .inr ((Bool.or_eq_true_iff.1 (List.all_eq_true.1 hall r hr)).imp eq_of_beq eq_of_beq)

/-- No condition holds a rejoin up, so that it ends. -/
theorem dieRejoinUp_ready {s : State} {n : Nat} (hup : hubUp s = true) (hst : dieState s n = .rejoining)
    (hbase : dieType n = some 2 → dieState s (baseBelow n) = .up) (hdist : distributing s = false)
    (hrings : dieType n = some 3 → ringsSettled s (n - 24) = true) :
    (!hubUp s || distributing s || (dieGet s n).st != .rejoining || (dieType n == some 2 && dieState s (baseBelow n) != .up) ||
      (dieType n == some 3 && !ringsSettled s (n - 24))) = false := by
  have hst' : (dieGet s n).st = .rejoining := hst
  have h2 : (dieType n == some 2 && dieState s (baseBelow n) != .up) = false :=
    Bool.and_eq_false_imp.2 fun h => bne_eq_false_iff_eq.2 (hbase (eq_of_beq h))
  have h3 : (dieType n == some 3 && !ringsSettled s (n - 24)) = false :=
    Bool.and_eq_false_imp.2 fun h => by rw [hrings (eq_of_beq h)]; rfl
  rw [h2, h3, hup, hdist, hst']
  rfl

/-! ## Commands on dies (R288, R303) -/

section
variable {s : State} {value : Word} {bad : List (Fin 41)}

theorem dieRow_eq (hup : hubUp s = true) (hb : isBusy s blkHM = false) :
    dieRow value bad s = .next (dieCommand (acceptWrite s blkHM) value (bad.map Fin.val)) := by
  simp only [dieRow, hup, Claims.softWrite_of_not_busy hb, Bool.not_true, Bool.false_eq_true, if_false]

end

section
variable {s : State} {value : Word} {bad : List Nat} (hgo : value.getLsbD 31 = true)
include hgo

/-- Commands 0 and 3 are none. -/
theorem dieCommand_of_invalid (hc : (field value 8 2 : BitVec 2).toNat = 0 ∨ (field value 8 2 : BitVec 2).toNat = 3) :
    dieCommand s value bad = dieResult (rset s (blkHM.reg 0x2C0) 0) 4 (field value 0 6 : BitVec 6).toNat := by
  simp only [dieCommand, hgo, if_pos hc, Bool.not_true, Bool.false_eq_true, if_false]

variable (hc : (field value 8 2 : BitVec 2).toNat = 1 ∨ (field value 8 2 : BitVec 2).toNat = 2)
include hc

/-- QUARANTINE and RELEASE are answered by the first check that they fail. -/
theorem dieCommand_eq : dieCommand s value bad =
    let slot := (field value 0 6 : BitVec 6).toNat
    let cmd := (field value 8 2 : BitVec 2).toNat
    let u := rset s (blkHM.reg 0x2C0) 0
    if !commandable u slot then dieResult u 1 slot
    else if s.hm.st == .loading then dieResult u 3 slot
    else if (siteState u slot == .quarantined) == (cmd == 1) then dieResult u 2 slot
    else dieResult (if slot = 40 then (if cmd = 1 then guestQuarantine u else guestRelease u)
      else if cmd = 1 then quarantineDie u slot else releaseDie u slot bad) 0 slot := by
  have hcmd : ¬ ((field value 8 2 : BitVec 2).toNat = 0 ∨ (field value 8 2 : BitVec 2).toNat = 3) := by omega
  simp only [dieCommand, hgo, if_neg hcmd, rset_hm, Bool.not_true, Bool.false_eq_true, if_false]

theorem dieCommand_of_unnamed (hn : commandable (rset s (blkHM.reg 0x2C0) 0) (field value 0 6 : BitVec 6).toNat = false) :
    dieCommand s value bad = dieResult (rset s (blkHM.reg 0x2C0) 0) 1 (field value 0 6 : BitVec 6).toNat := by
  rw [dieCommand_eq hgo hc]
  simp only [hn, Bool.not_false, if_true]

variable (hn : commandable (rset s (blkHM.reg 0x2C0) 0) (field value 0 6 : BitVec 6).toNat = true)
include hn

theorem dieCommand_of_loading (hl : s.hm.st = .loading) :
    dieCommand s value bad = dieResult (rset s (blkHM.reg 0x2C0) 0) 3 (field value 0 6 : BitVec 6).toNat := by
  rw [dieCommand_eq hgo hc]
  simp only [hn, hl, BEq.rfl, Bool.not_true, Bool.false_eq_true, if_false, if_true]

variable (hl : s.hm.st ≠ .loading)
include hl

theorem dieCommand_of_state (hst : siteState (rset s (blkHM.reg 0x2C0) 0) (field value 0 6 : BitVec 6).toNat = .quarantined ↔
      (field value 8 2 : BitVec 2).toNat = 1) :
    dieCommand s value bad = dieResult (rset s (blkHM.reg 0x2C0) 0) 2 (field value 0 6 : BitVec 6).toNat := by
  have hsame : ((siteState (rset s (blkHM.reg 0x2C0) 0) (field value 0 6 : BitVec 6).toNat == .quarantined) ==
      ((field value 8 2 : BitVec 2).toNat == 1)) = true := by
    rw [beq_iff_eq, Bool.eq_iff_iff, beq_iff_eq, beq_iff_eq]
    exact hst
  rw [dieCommand_eq hgo hc]
  simp only [hn, beq_eq_false_iff_ne.2 hl, hsame, Bool.not_true, Bool.false_eq_true, if_false, if_true]

end

section
variable {s : State} {value : Word} {bad : List Nat} (hgo : value.getLsbD 31 = true)
  (hn : commandable (rset s (blkHM.reg 0x2C0) 0) (field value 0 6 : BitVec 6).toNat = true) (hl : s.hm.st ≠ .loading)
include hgo hn hl

/-- QUARANTINE of a site that is not quarantined. -/
theorem dieCommand_quarantine (hc : (field value 8 2 : BitVec 2).toNat = 1)
    (hst : siteState (rset s (blkHM.reg 0x2C0) 0) (field value 0 6 : BitVec 6).toNat ≠ .quarantined) :
    let slot := (field value 0 6 : BitVec 6).toNat
    let u := rset s (blkHM.reg 0x2C0) 0
    dieCommand s value bad = dieResult (if slot = 40 then guestQuarantine u else quarantineDie u slot) 0 slot := by
  rw [dieCommand_eq hgo (.inl hc)]
  simp only [hn, beq_eq_false_iff_ne.2 hl, beq_eq_false_iff_ne.2 hst, hc, BEq.rfl, Bool.false_beq, Bool.not_true, Bool.false_eq_true,
    if_false, if_true]

/-- RELEASE of a site that is quarantined. -/
theorem dieCommand_release (hc : (field value 8 2 : BitVec 2).toNat = 2)
    (hst : siteState (rset s (blkHM.reg 0x2C0) 0) (field value 0 6 : BitVec 6).toNat = .quarantined) :
    let slot := (field value 0 6 : BitVec 6).toNat
    let u := rset s (blkHM.reg 0x2C0) 0
    dieCommand s value bad = dieResult (if slot = 40 then guestRelease u else releaseDie u slot bad) 0 slot := by
  have hno : ((2 : Nat) == 1) = false := rfl
  rw [dieCommand_eq hgo (.inr hc)]
  simp only [hn, beq_eq_false_iff_ne.2 hl, hst, hc, hno, BEq.rfl, Bool.true_beq, Bool.not_true, Bool.false_eq_true, OfNat.ofNat_ne_one,
    if_false]

end

theorem commandable_of_governed {slot : Nat} (s : State) (hg : governed slot = true) : commandable s slot = true := by
  rw [commandable, hg, Bool.true_or]

/-- A write of HM_DIE_CMD leaves what GF_FUSE says of the guest. -/
theorem guestPresent_taken (s : State) : guestPresent (rset (acceptWrite s blkHM) (blkHM.reg 0x2C0) 0) = guestPresent s :=
  congrArg (·.getLsbD 1) (rget_rset_ne (acceptWrite s blkHM) 0 (show blkGF.reg 0x014 ≠ blkHM.reg 0x2C0 by decide))

theorem commandable_guest {s : State} (h : guestPresent s = true) : commandable s 40 = true := by
  rw [commandable, h, Bool.and_true, BEq.rfl, Bool.or_true]

theorem siteState_guest {s : State} (h : guestPresent s = true) (hq : s.guest.quar = false) : siteState s 40 = .up := by
  simp only [siteState, h, hq, Bool.not_true, Bool.false_eq_true, if_true, if_false]

end Sys2Proof.Machine

namespace Sys2Proof.Claims

open Sys2Proof Sys2Proof.Machine

/-- Settles O40: the loss, the release and the rejoin by their conditions; a command on a die by the first check that it fails. -/
theorem dieCommands : Obligations.DieCommands := by
  refine ⟨?_, ?_, fun s slot cause hl => ⟨?_, ?_, mem_losses_loseOne s slot cause hl⟩, ?_, ?_, ?_⟩
  · intro slot s hup hg hr lose
    refine ⟨fun cause => ?_, ?_, ?_⟩
    · simp only [exec, execDieLost, hup, if_true, loseDie_of_runs hg hr]; rfl
    · simp only [exec, execDiePresenceTimeout, hup, if_true, loseDie_of_runs hg hr]; rfl
    · have hr' : dieRuns (cntAdd s ((blkCK slot.val).reg 0x014) 1) slot.val = true := (dieRuns_of_hm (cntAdd_hm ..) _).trans hr
      rw [clockMonitorReset_of_runs hup hg hr, loseDie_of_runs hg hr']
  · intro s hup
    simp only [exec, execClockMonitorReset, hup]
    rfl
  · exact congrArg DieRec.st (dieGet_loseOne s slot cause hl)
  · rw [dieGet_loseOne s slot cause hl]
    rfl
  · intro slot straps s hup hg hst hbase hheld
    exact ⟨dieResetRelease_eq hup hg hst hbase hheld, startRejoin_of_strapsBad, dieState_startRejoin⟩
  · intro slot bist s n lost hup hst hbase hdist hrings
    refine ⟨?_, fun ht r hr => settled_of_ringsSettled (hrings ht) hr⟩
    have hready := dieRejoinUp_ready hup hst hbase hdist hrings
    exact (if_neg (by rw [hready]; exact Bool.false_ne_true)).trans rfl
  · intro value bad s hup hb hgo slot cmd u
    have hrow (bad : List (Fin 41)) : dieRow value bad s = .next (dieCommand (acceptWrite s blkHM) value (bad.map Fin.val)) :=
      dieRow_eq hup hb
    refine ⟨fun hc => ?_, fun hc hg hl hst => ?_, fun hc h40 hp hl hq => ?_, fun hc hg hl hst => ?_, fun i hi => ?_⟩
    · exact (hrow []).trans (congrArg _ (dieCommand_of_invalid hgo hc))
    · refine (hrow []).trans (congrArg _ ?_)
      rw [dieCommand_quarantine (s := acceptWrite s blkHM) hgo (commandable_of_governed _ hg) hl hc hst, if_neg (governed_ne_guest hg)]
    · have hp' : guestPresent u = true := (guestPresent_taken s).trans hp
      have hn : commandable u slot = true := by rw [h40]; exact commandable_guest hp'
      have hst : siteState u slot ≠ .quarantined := by rw [h40, siteState_guest hp' hq]; exact fun h => DieState.noConfusion h
      refine (hrow []).trans (congrArg _ ?_)
      rw [dieCommand_quarantine (s := acceptWrite s blkHM) hgo hn hl hc hst, if_pos h40]
    · refine (hrow bad).trans (congrArg _ ?_)
      rw [dieCommand_release (s := acceptWrite s blkHM) hgo (commandable_of_governed _ hg) hl hc hst, if_neg (governed_ne_guest hg)]
    · obtain ⟨hc, b, he⟩ : (cmd = 1 ∨ cmd = 2) ∧ ∃ b, exec i s = .next (dieCommand (acceptWrite s blkHM) value b) := by
        rcases List.mem_pair.1 hi with hi | hi <;> obtain ⟨rfl, hc⟩ := Prod.mk.inj hi
        · exact ⟨.inl hc, _, hrow []⟩
        · exact ⟨.inr hc, _, hrow bad⟩
      rw [he]
      exact ⟨fun hn => congrArg _ (dieCommand_of_unnamed hgo hc hn), fun hn hl => congrArg _ (dieCommand_of_loading hgo hc hn hl),
        fun hn hl hst => congrArg _ (dieCommand_of_state hgo hc hn hl hst)⟩

end Sys2Proof.Claims
end

section
/-! The guest port: a quarantine whose port the endpoints' table lists twice (R298). -/

namespace Sys2Proof.Claims

open Sys2Proof Sys2Proof.Machine

/-- Firmware runs, the guest port is up, and the table of endpoints lists it twice. -/
def portTwice : State :=
  { State.reset with
    pw := { mode := .running }
    links := [(guestKey, { st := .up }), (guestKey, { st := .up })] }

/-- The invariant asks rising keys of the tables of each endpoint, but not of the table of endpoints. -/
theorem inv_portTwice : Inv portTwice where
  memory := rfl
  consts := rfl
  tables := by decide +kernel
  events := Nat.zero_le _
  log := Nat.zero_le _
  head := by decide
  tail := by decide

/-- The port's entry, in reset and holding nothing, reads as an unlisted one and is removed; the second entry, which is up, is read in
its place from then on. -/
theorem guestUp_guestQuarantine_portTwice : guestUp (guestQuarantine (acceptWrite portTwice blkGF)) = true := by decide +kernel

/-- Refutes O41: its clause on GF_QUAR_SET lets the table of endpoints hold any list, as here one with two entries for the guest port.
Setting the switch resets the first entry alone, so that the port is still up. What the clause lacks is that the table's keys rise; with
the port listed once, the switch takes it down (`witness_GuestCommands_quarantine`). -/
theorem not_guestCommands : ¬ Obligations.GuestCommands := by
  intro h
  obtain ⟨-, -, -, hset, -⟩ := h
  obtain ⟨t, ht, -, hdown, -⟩ := hset 1 portTwice (by decide) (by decide) (by decide) rfl
  have hexec : exec (.gfQuarSet 1) portTwice = .next (guestQuarantine (acceptWrite portTwice blkGF)) := rfl
  rw [← Host.Outcome.next.inj (hexec.symm.trans ht), guestUp_guestQuarantine_portTwice] at hdown
  exact Bool.noConfusion hdown

end Sys2Proof.Claims
end

section
/-! SUPPORT. Engines and rings read back, and what a change of registers leaves as it was (R305–R361). -/

namespace Sys2Proof.Machine

/-! ## Reading back -/

theorem oeGet_of_oe {s t : State} (h : t.oe = s.oe) (n : Nat) : oeGet t n = oeGet s n := by rw [oeGet, h, oeGet]

section
variable (s : State) (n : Nat)

/-- An engine that differs from an unlisted one is read back, from any table. -/
theorem oeGet_oeMod_self {f : OeSt → OeSt} (h : f (oeGet s n) ≠ {}) : oeGet (oeMod s n f) n = f (oeGet s n) := tget_tset_of_ne _ _ h

/-- Where the table's keys rise, any engine is. -/
theorem Inv.oeGet_oeMod_self (h : Inv s) (f : OeSt → OeSt) : oeGet (Machine.oeMod s n f) n = f (oeGet s n) :=
  tget_tset_self _ _ _ ((inv_iff s).1 h).oe

theorem ringGet_ringSet_self (x : OeSt) (r : Nat) {v : RingSt} (h : v.st ≠ .unused) : ringGet (ringSet x r v) r = v :=
  tget_tset_of_ne _ _ fun e => h (congrArg RingSt.st e)

theorem ringGet_ringSet_ne (x : OeSt) {r i : Nat} (v : RingSt) (h : i ≠ r) : ringGet (ringSet x r v) i = ringGet x i :=
  tget_tset_ne _ _ _ h

theorem oeGet_ringMod_self (r : Nat) {f : RingSt → RingSt} (h : (f (ringGet (oeGet s n) r)).st ≠ .unused) :
    oeGet (ringMod s n r f) n = ringSet (oeGet s n) r (f (ringGet (oeGet s n) r)) := by
  refine oeGet_oeMod_self s n fun h0 => h ?_
  rw [← ringGet_ringSet_self (oeGet s n) r h, h0]
  rfl

end

/-! ## Registers -/

section
variable {s t : State}

theorem RegsOnly.eq (h : RegsOnly s t) : t = { s with regs := t.regs } := h
theorem RegsOnly.oe (h : RegsOnly s t) : t.oe = s.oe := by rw [h.eq]
theorem RegsOnly.launch (h : RegsOnly s t) : t.launch = s.launch := by rw [h.eq]
theorem RegsOnly.mem (h : RegsOnly s t) : t.mem = s.mem := by rw [h.eq]
theorem RegsOnly.links (h : RegsOnly s t) : t.links = s.links := by rw [h.eq]

theorem WordsOnly.regsOnly (h : WordsOnly s t) : RegsOnly s t := by
  have heq : t = { s with regs := { s.regs with words := t.regs.words } } := h
  rw [heq]
  rfl

end

theorem cfg_rset_ne (s : State) {b : Blk} {off x : Nat} (v : Word) (h : b.reg off ≠ x) : cfg (rset s x v) b off = cfg s b off := by
  rw [cfg, rget_rset_ne _ _ h, cfg]
  rfl

end Sys2Proof.Machine
end

section
/-! Forecasts, weight-bank readings, calibration values and received power (R339, R340, R342, R343, R357, R358). -/

namespace Sys2Proof.Machine

/-! ## Forecasts (R340) -/

/-- A forecast's profile is loaded by an engine, which has then taken the forecast. -/
def profileLoaded (s : State) (n : Nat) (f : Forecast) : State :=
  let t := takeForecast s f { f with engines := f.engines.erase n }
  oeMod t n fun x =>
    { x with profiles := ⟨f.fire, t.now, f.steps⟩ :: x.profiles.filter fun p => decide (t.tide.hub.toNat ≤ p.fire.toNat) }

@[simp] theorem profileLoaded_tide (s : State) (n : Nat) (f : Forecast) : (profileLoaded s n f).tide = s.tide := rfl

/-- The forecast is counted, and counted as late with a lead under 40 µs. -/
def forecastCounted (s : State) (n : Nat) (fire : Dword) : State :=
  let t := cntAdd s ((blkOE n).reg 0x11C) 1
  if fire.toNat < t.tide.hub.toNat + 40000 then cntAdd t ((blkOE n).reg 0x120) 1 else t

theorem forecastReceive_eq {n : Fin 8} {f : Forecast} {s : State} (hf : s.launch.forecasts = [f])
    (hn : f.engines.contains n.val = true) (hup : oeUp s n.val = true) (hen : enabled s (blkOE n.val) = true) :
    exec (.forecastReceive n f.fire) s = .next (forecastCounted (profileLoaded s n.val f) n.val f.fire) := by
  have hfind : s.launch.forecasts.find? (fun g => g.fire == f.fire && g.engines.contains n.val) = some f := by
    rw [hf, List.find?_cons_of_pos (by rw [BEq.rfl, hn]; rfl)]
  have hgo : (!oeUp s n.val || !enabled s (blkOE n.val)) = false := by rw [hup, hen]; rfl
  simp only [exec, execForecastReceive]
  rw [hfind]
  dsimp only
  rw [if_neg (Bool.eq_false_iff.1 hgo)]
  rfl

theorem mem_profiles_profileLoaded (s : State) (n : Nat) (f : Forecast) :
    (⟨f.fire, s.now, f.steps⟩ : FfProfile) ∈ (oeGet (profileLoaded s n f) n).profiles := by
  rw [profileLoaded, oeGet_oeMod_self _ _ fun h => List.cons_ne_nil _ _ (congrArg OeSt.profiles h)]
  exact List.mem_cons_self

theorem forecasts_profileLoaded {s : State} {f : Forecast} (hf : s.launch.forecasts = [f]) (n : Nat) :
    (profileLoaded s n f).launch.forecasts = [{ f with engines := f.engines.erase n }] := by
  simp [profileLoaded, takeForecast, hf]

theorem rget_profileLoaded (s : State) (n : Nat) (f : Forecast) (x : Nat) : rget (profileLoaded s n f) x = rget s x := rfl

theorem forecastCounted_frame (s : State) (n : Nat) (fire : Dword) : RegsOnly s (forecastCounted s n fire) := by
  unfold forecastCounted
  dsimp only
  split
  · exact (regsOnly_cntAdd ..).trans (regsOnly_cntAdd ..)
  · exact regsOnly_cntAdd ..

theorem regReset_forecasts (n : Fin 8) : regReset ((blkOE n.val).reg 0x11C) = 0 ∧ regReset ((blkOE n.val).reg 0x120) = 0 := by
  revert n; decide +kernel

/-- The two counters of forecasts, as R340 advances them. -/
theorem rget_forecastCounted (s : State) (n : Fin 8) (fire : Dword) :
    let next (off : Nat) := BitVec.ofNat 32 (min ((rget s ((blkOE n.val).reg off)).toNat + 1) (2 ^ 32 - 1))
    rget (forecastCounted s n.val fire) ((blkOE n.val).reg 0x11C) = next 0x11C ∧
    rget (forecastCounted s n.val fire) ((blkOE n.val).reg 0x120) =
      if fire.toNat < s.tide.hub.toNat + 40000 then next 0x120 else rget s ((blkOE n.val).reg 0x120) := by
  obtain ⟨h1, h2⟩ := regReset_forecasts n
  have hne : (blkOE n.val).reg 0x11C ≠ (blkOE n.val).reg 0x120 := by simp only [Blk.reg]; omega
  unfold forecastCounted
  dsimp only
  rw [cntAdd_tide]
  split
  · rw [rget_cntAdd_ne _ _ hne, rget_cntAdd_of_reset _ h1 Nat.one_pos, rget_cntAdd_of_reset _ h2 Nat.one_pos, rget_cntAdd_ne _ _ hne.symm]
    exact ⟨rfl, rfl⟩
  · rw [rget_cntAdd_of_reset _ h1 Nat.one_pos, rget_cntAdd_ne _ _ hne.symm]
    exact ⟨rfl, rfl⟩

/-! ## Weight-bank readings (R342, R343) -/

theorem oeWbCmd_eq {n : Fin 8} {value : Word} {s : State} (hrun : oeRuns s n.val = true) (hb : isBusy s (blkOE n.val) = false)
    (hgo : value.getLsbD 31 = true) (hwb : (oeGet s n.val).wb = none) (hslot : (field value 0 9 : BitVec 9).toNat < 272)
    (hlo : 1 ≤ (field value 9 10 : BitVec 10).toNat) (hhi : (field value 9 10 : BitVec 10).toNat ≤ 1000) :
    let u := acceptWrite s (blkOE n.val)
    let slot := (field value 0 9 : BitVec 9).toNat
    exec (.oeWbCmd n value) s = .next (if slotBusy u n.val slot
      then logCapture (rset u ((blkOE n.val).reg 0x130) 0) ((blkOE n.val).reg 0x134) 1
      else rset (oeMod u n.val fun x => { x with wb := some {
        slot := slot, tint := (field value 9 10 : BitVec 10).toNat, start := if wbOpen u n.val then some s.now else none } })
          ((blkOE n.val).reg 0x130) value) := by
  have hwb' : (oeGet (acceptWrite s (blkOE n.val)) n.val).wb = none := hwb
  have hrange : ¬ (slotCount ≤ (field value 0 9 : BitVec 9).toNat ∨ (field value 9 10 : BitVec 10).toNat = 0 ∨
      1000 < (field value 9 10 : BitVec 10).toNat) := by
    rw [slotCount]; omega
  simp only [exec, execOeWbCmd, hrun, Claims.softWrite_of_not_busy hb, hgo, hwb', hrange, Bool.not_true, Option.isSome_none,
    Bool.or_false, Bool.false_eq_true, if_false, acceptWrite_now]
  split <;> rfl

theorem weightBankReadingDone_early {n : Fin 8} {sum : Word} {s : State} {w : WbRead} {since : Nat} (hw : (oeGet s n.val).wb = some w)
    (hs : w.start = some since) (hrun : oeRuns s n.val = true) (ht : s.now < since + 1000 * w.tint) :
    exec (.weightBankReadingDone n sum false) s = .next s := by
  simp only [exec, execWeightBankReadingDone, hw, hrun, hs, ht, Bool.not_true, Bool.false_eq_true, if_false, if_true]

theorem weightBankReadingDone_abandoned {n : Fin 8} {sum : Word} {s : State} {w : WbRead} (hw : (oeGet s n.val).wb = some w)
    (hrun : oeRuns s n.val = true) : exec (.weightBankReadingDone n sum true) s = .next (dropReading s n.val) := by
  simp only [exec, execWeightBankReadingDone, hw, hrun, Bool.not_true, Bool.false_eq_true, if_false, if_true]

/-- A reading has ended with its sum (R342). -/
def readingEnded (s : State) (n : Nat) (sum : Word) : State :=
  let t := rset (oeMod s n fun x => { x with wb := none, wbSum := sum }) ((blkOE n).reg 0x130) 0
  logCapture ((List.range 18).foldl (fun t j => rset t ((blkOE n).reg (0x140 + 4 * j)) 0) t) ((blkOE n).reg 0x134) 0

theorem weightBankReadingDone_eq {n : Fin 8} {s : State} {w : WbRead} {since : Nat} (hw : (oeGet s n.val).wb = some w)
    (hs : w.start = some since) (hrun : oeRuns s n.val = true) (ht : since + 1000 * w.tint ≤ s.now) (sum : Word) :
    exec (.weightBankReadingDone n sum false) s = .next (readingEnded s n.val sum) := by
  simp only [exec, execWeightBankReadingDone, hw, hrun, hs, Nat.not_lt.2 ht, Bool.not_true, Bool.false_eq_true, if_false, readingEnded]

/-- Beside the engine only registers change. -/
theorem regsOnly_readingEnded (s : State) (n : Nat) (sum : Word) :
    RegsOnly (oeMod s n fun x => { x with wb := none, wbSum := sum }) (readingEnded s n sum) := by
  have hclear (t : State) (l : List Nat) : RegsOnly t (l.foldl (fun t j => rset t ((blkOE n).reg (0x140 + 4 * j)) 0) t) :=
    List.foldlRecOn (motive := RegsOnly t) _ _ rfl fun _ h _ _ => h.trans rfl
  exact ((show RegsOnly _ (rset _ _ _) from rfl).trans (hclear ..)).trans (wordsOnly_logCapture ..).regsOnly

/-! ## Calibration values (R339, R357) -/

@[simp] theorem CalVal.stepped_target (v : CalVal) : v.stepped.target = v.target := by
  simp only [CalVal.stepped]
  split
  · rfl
  · split <;> rfl

theorem CalVal.stepped_of_reached {v : CalVal} (h : v.now = v.target) : v.stepped = v := if_pos (Int.sub_eq_zero.2 h.symm)

/-- A step takes a value nearer to its target. -/
theorem CalVal.stepped_nearer {v : CalVal} (h : v.now ≠ v.target) : (v.target - v.stepped.now).natAbs < (v.target - v.now).natAbs := by
  have hd : v.target - v.now ≠ 0 := fun e => h (Int.sub_eq_zero.1 e).symm
  simp only [CalVal.stepped, hd, if_false]
  split
  · rcases Int.lt_or_gt_of_ne hd with hneg | hpos
    · rw [Int.sign_eq_neg_one_of_neg hneg]; dsimp only; omega
    · rw [Int.sign_eq_one_of_pos hpos]; dsimp only; omega
  · rw [Int.tdiv_eq_ediv, show Int.sign 16 = 1 from rfl]
    dsimp only
    split <;> omega

theorem kappaOf_le (s : State) (n g c : Nat) : kappaOf s n g c ≤ 60000 ∧ (ownDie n c = false → kappaOf s n g c ≤ 20000) := by
  refine ⟨Nat.le_trans (Nat.min_le_right ..) ?_, fun h => ?_⟩
  · split <;> decide
  · rw [kappaOf, h]
    exact Nat.min_le_right ..

/-! ## Received power (R358) -/

section
variable {n : Fin 8} {place : Fin 306} {power : BitVec 16} {s : State} (hup : oeUp s n.val = true)
  (hlit : (rxGet (oeGet s n.val) place.val).lit = true)
include hup hlit

theorem rxPowerLow_near (h : (rxReference s n.val place.val - power.toInt).toNat < 140) : exec (.rxPowerLow n place power) s = .next s := by
  simp only [exec, execRxPowerLow, hup, hlit, h, decide_true, Bool.or_true, if_true]

theorem rxPowerLow_first (h : 140 ≤ (rxReference s n.val place.val - power.toInt).toNat)
    (hlow : (rxGet (oeGet s n.val) place.val).lowAt = none) :
    let p := rxGet (oeGet s n.val) place.val
    exec (.rxPowerLow n place power) s = .next (oeLog (cntAdd (oeMod s n.val fun x =>
      { x with rx := tset x.rx place.val { p with power := power, lowAt := some s.now } {} }) ((blkOE n.val).reg 0x128) 1) n.val 0x0608
      (place.val / 18 + 256 * (place.val % 18) + 65536 * min 0xFFFF (rxReference s n.val place.val - power.toInt).toNat)
      (9792 + place.val)) := by
  simp only [exec, execRxPowerLow, hup, hlit, Nat.not_lt.2 h, hlow, decide_false, Bool.not_true, Bool.or_self, Bool.false_eq_true, if_false]

end

end Sys2Proof.Machine
end

section
/-! SUPPORT. Records of the module NOR: their fields read back, and a broken one that is none (R353). -/

namespace Sys2Proof.Machine

/-! ## Fields of a list of bytes (R7) -/

section
variable (r : List Byte) {n m k : Nat}

theorem le_natToBytes_append (n x : Nat) : le (natToBytes n x ++ r) 0 n = x % 256 ^ n := by
  rw [le, List.drop_zero, List.take_left' (natToBytes_length n x), bytesToNat_natToBytes]

theorem le_natToBytes_append_of_le (y : Nat) (h : m ≤ k) : le (natToBytes m y ++ r) k n = le r (k - m) n := by
  rw [le, List.drop_append, natToBytes_length, List.drop_of_length_le (by rwa [natToBytes_length]), List.nil_append, le]

end

/-! ## The format -/

/-- What CHECK covers of a record. -/
def recordHead (magic ty slot copy gen dev : Nat) (body : List Byte) : List Byte :=
  natToBytes 4 magic ++ natToBytes 2 ty ++ natToBytes 1 slot ++ natToBytes 1 copy ++ natToBytes 4 gen ++
    natToBytes 4 body.length ++ natToBytes 8 dev ++ body

section
variable {magic ty slot copy gen dev : Nat} {body : List Byte}

theorem recordBytes_eq : recordBytes magic ty slot copy gen dev body =
    recordHead magic ty slot copy gen dev body ++ natToBytes 4 (crc32 (recordHead magic ty slot copy gen dev body)).toNat := rfl

theorem length_recordHead : (recordHead magic ty slot copy gen dev body).length = 0x18 + body.length := by
  simp only [recordHead, List.length_append, natToBytes_length]

theorem length_recordBytes : (recordBytes magic ty slot copy gen dev body).length = body.length + 0x1C := by
  rw [recordBytes_eq, List.length_append, length_recordHead, natToBytes_length]
  omega

/-- The fields of a record read back, within their widths. -/
theorem le_recordBytes : let b := recordBytes magic ty slot copy gen dev body
    le b 0x00 4 = magic % 2 ^ 32 ∧ le b 0x07 1 = copy % 2 ^ 8 ∧ le b 0x08 4 = gen % 2 ^ 32 ∧ le b 0x0C 4 = body.length % 2 ^ 32 ∧
      le b 0x10 8 = dev % 2 ^ 64 := by
  simp [recordBytes, List.append_assoc, le_natToBytes_append, le_natToBytes_append_of_le]

theorem recordGen_recordBytes : recordGen (recordBytes magic ty slot copy gen dev body) = gen % 2 ^ 32 := le_recordBytes.2.2.1

theorem recordCheck_recordBytes (h : body.length < 2 ^ 32) : recordCheck (recordBytes magic ty slot copy gen dev body) = true := by
  obtain ⟨-, -, -, hlen, -⟩ := le_recordBytes (magic := magic) (ty := ty) (slot := slot) (copy := copy) (gen := gen) (dev := dev) (body := body)
  rw [Nat.mod_eq_of_lt h] at hlen
  have hhead : (recordHead magic ty slot copy gen dev body).length = 0x18 + body.length := length_recordHead
  have hcheck : le (recordBytes magic ty slot copy gen dev body) (0x18 + body.length) 4 =
      (crc32 (recordHead magic ty slot copy gen dev body)).toNat := by
    rw [recordBytes_eq, le, List.drop_left' hhead, List.take_of_length_le (natToBytes_length ..).le, bytesToNat_natToBytes]
    exact Nat.mod_eq_of_lt (BitVec.isLt _)
  have htake : (recordBytes magic ty slot copy gen dev body).take (0x18 + body.length) = recordHead magic ty slot copy gen dev body := by
    rw [recordBytes_eq, List.take_left' hhead]
  simp only [recordCheck, hlen, hcheck, htake, length_recordBytes, le_refl, decide_true, BEq.rfl, Bool.and_self]

/-- A record is valid in its copy of its module. -/
theorem recordValid_recordBytes (hmagic : magic < 2 ^ 32) (hcopy : copy < 2 ^ 8) (hdev : dev < 2 ^ 64) (hbody : body.length < 2 ^ 32) :
    recordValid magic copy dev (recordBytes magic ty slot copy gen dev body) = true := by
  obtain ⟨h0, h7, -, -, h10⟩ := le_recordBytes (magic := magic) (ty := ty) (slot := slot) (copy := copy) (gen := gen) (dev := dev) (body := body)
  rw [recordValid, h0, h7, h10, recordCheck_recordBytes hbody, Nat.mod_eq_of_lt hmagic, Nat.mod_eq_of_lt hcopy, Nat.mod_eq_of_lt hdev]
  simp only [BEq.rfl, Bool.and_self]

end

/-- Bytes that hold no whole header and CHECK are no record. -/
theorem recordValid_of_short {b : List Byte} (h : b.length < 0x1C) (magic copy dev : Nat) : recordValid magic copy dev b = false := by
  have hlen : ¬ le b 0x0C 4 + 0x1C ≤ b.length := by omega
  simp only [recordValid, recordCheck, hlen, decide_false, Bool.false_and, Bool.and_false]

/-! ## Values gathered into a record (R352, R357) -/

theorem length_tput_le {β : Type} (m : Tbl β) (k : Nat) (v : β) : (tput m k v).length ≤ m.length + 1 := by
  induction m with
  | nil => exact Nat.le_refl 1
  | cons e r ih =>
    rw [tput]
    split
    · exact Nat.le_refl _
    · split
      · exact Nat.le_succ _
      · exact Nat.succ_le_succ ih

theorem length_calBody (l : List (Nat × Int)) : (calBody l).length = 8 * l.length := by
  induction l with
  | nil => rfl
  | cons e r ih =>
    rw [calBody, List.flatMap_cons, ← calBody]
    simp only [List.length_append, natToBytes_length, List.length_cons, ih]
    omega

/-- From `s` to `t` calibration values alone have changed. -/
def CalOnly (s t : State) : Prop := t = { s with cal := t.cal }

theorem CalOnly.trans {s t u : State} (h : CalOnly s t) (g : CalOnly t u) : CalOnly s u := Eq.trans g (by rw [h])

theorem CalOnly.eq {s t : State} (h : CalOnly s t) : t = { s with cal := t.cal } := h
theorem CalOnly.nor {s t : State} (h : CalOnly s t) : t.nor = s.nor := by rw [h.eq]
theorem CalOnly.oe {s t : State} (h : CalOnly s t) : t.oe = s.oe := by rw [h.eq]
theorem CalOnly.mem {s t : State} (h : CalOnly s t) : t.mem = s.mem := by rw [h.eq]

theorem calGet_of_nor {s t : State} (h : t.nor = s.nor) (ty slot copy : Nat) : calGet t ty slot copy = calGet s ty slot copy := by
  rw [calGet, h, calGet]

theorem calOnly_calMove (s : State) (ty slot k : Nat) (target : Int) : CalOnly s (calMove s ty slot k target) := rfl

/-- Firmware has given a list of numbered values of a record. -/
def calMoved (s : State) (ty slot : Nat) (values : List (Word × Word)) : State :=
  values.foldl (fun t e => calMove t ty slot e.1.toNat (calWord ty e.2)) s

section
variable (s : State) (ty slot : Nat)

theorem calOnly_calMoved (values : List (Word × Word)) : CalOnly s (calMoved s ty slot values) :=
  List.foldlRecOn (motive := CalOnly s) _ _ rfl fun _ h _ _ => h.trans (calOnly_calMove ..)

theorem length_use_calMoved (values : List (Word × Word)) :
    (calMoved s ty slot values).cal.use.length ≤ s.cal.use.length + values.length := by
  induction values generalizing s with
  | nil => exact Nat.le_refl _
  | cons e r ih =>
    have hmove : (calMove s ty slot e.1.toNat (calWord ty e.2)).cal.use.length ≤ s.cal.use.length + 1 := length_tput_le ..
    have hrest := ih (calMove s ty slot e.1.toNat (calWord ty e.2))
    rw [calMoved, List.foldl_cons, ← calMoved, List.length_cons]
    omega

theorem length_calTargets_le : (calTargets s ty slot).length ≤ s.cal.use.length := List.length_filterMap_le ..

end

/-! ## Writing a calibration record (R355, R359) -/

/-- The record that firmware writes for a pair: over the copy that was not loaded, with GEN one higher than that of the one loaded. -/
def newRecord (s : State) (ty slot : Nat) (values : List (Word × Word)) : List Byte :=
  let u := tget s.cal.inUse (calKey ty slot) 0
  recordBytes calMagic ty slot (1 - u) ((calGet s ty slot u).gen + 1).toNat (deviceId s) (calBody (calTargets (calMoved s ty slot values) ty slot))

/-- Bytes stand in a copy, written now. -/
def copyWritten (s : State) (ty slot copy now : Nat) (b : List Byte) : State :=
  let t := calSet s ty slot copy { bytes := some b }
  { t with nor := { t.nor with last := tset t.nor.last (calKey ty slot) (some now) none } }

section
variable (s : State) (ty slot now : Nat) (b : List Byte)

theorem calGet_copyWritten_self (copy : Nat) : calGet (copyWritten s ty slot copy now b) ty slot copy = { bytes := some b } :=
  tget_tset_of_ne _ _ fun h => Option.some_ne_none _ (congrArg CalCopy.bytes h)

theorem calGet_copyWritten_ne {copy c : Nat} (h : c ≠ copy) : calGet (copyWritten s ty slot copy now b) ty slot c = calGet s ty slot c :=
  tget_tset_ne s.nor.copy (v := { bytes := some b }) (d := {}) fun e => h (Nat.add_left_cancel e)

end

section
variable {ty : Fin 10} {slot : Fin 41} {s : State} (values : List (Word × Word)) (hdie : calDies ty.val slot.val = true)
  (hup : hubUp s = true) (hlast : tget s.nor.last (calKey ty.val slot.val) none = none)
include hdie hup hlast

theorem calRecordWrite_whole : exec (.calRecordWrite ty slot none values) s =
    .next (copyWritten (calMoved s ty.val slot.val values) ty.val slot.val (1 - tget s.cal.inUse (calKey ty.val slot.val) 0) s.now
      (newRecord s ty.val slot.val values)) := by
  simp only [exec, execCalRecordWrite, hdie, hup, hlast, Bool.not_true, Bool.or_self, Bool.false_eq_true, if_false, le_refl, if_true,
    List.take_length]
  rfl

theorem calRecordWrite_broken {n : BitVec 16} (hn : n.toNat < 28) : exec (.calRecordWrite ty slot (some n) values) s =
    .next (copyWritten s ty.val slot.val (1 - tget s.cal.inUse (calKey ty.val slot.val) 0) s.now
      ((newRecord s ty.val slot.val values).take n.toNat)) := by
  have hlong : ¬ (newRecord s ty.val slot.val values).length ≤ n.toNat := by
    rw [newRecord, length_recordBytes]; omega
  simp only [newRecord, calMoved] at hlong
  simp only [exec, execCalRecordWrite, hdie, hup, hlast, hlong, Bool.not_true, Bool.or_self, Bool.false_eq_true, if_false]
  rfl

end

theorem deviceId_lt (s : State) : deviceId s < 2 ^ 64 := BitVec.isLt (rget64 s ((blkID 0).reg 0x018))

/-- Fewer than 2^29 values fill a BODY that its length field can name. -/
theorem recordValid_newRecord {s : State} (ty slot : Nat) {values : List (Word × Word)} (h : s.cal.use.length + values.length < 2 ^ 29) :
    recordValid calMagic (1 - tget s.cal.inUse (calKey ty slot) 0) (deviceId s) (newRecord s ty slot values) = true := by
  refine recordValid_recordBytes (by decide) (by omega) (deviceId_lt s) ?_
  have htargets := length_calTargets_le (calMoved s ty slot values) ty slot
  have huse := length_use_calMoved s ty slot values
  rw [length_calBody]
  omega

theorem CalCopy.gen_of_bytes (b : List Byte) : CalCopy.gen { bytes := some b } = BitVec.ofNat 32 (recordGen b) := rfl

theorem gen_newRecord (s : State) (ty slot : Nat) (values : List (Word × Word)) :
    CalCopy.gen { bytes := some (newRecord s ty slot values) } = (calGet s ty slot (tget s.cal.inUse (calKey ty slot) 0)).gen + 1 := by
  rw [CalCopy.gen_of_bytes, newRecord, recordGen_recordBytes, Nat.mod_eq_of_lt (BitVec.isLt _), BitVec.ofNat_toNat, BitVec.setWidth_eq]

end Sys2Proof.Machine
end

section
/-! Forecasts, weight bank, calibration, received power. -/

namespace Sys2Proof.Claims

open Sys2Proof Sys2Proof.Machine

/-- Settles O43: each command by the branch that its premises choose; a step of calibration takes a value nearer to its target; a record
reads back field by field as it was written, and fewer than 28 bytes of one hold no CHECK. -/
theorem engineCommands : Obligations.EngineCommands := by
  refine ⟨?_, ?_, ?_, ?_, ?_, ?_, ?_, kappaOf_le, ?_, ?_⟩
  · intro n f s hf hn hup hen
    have hframe := forecastCounted_frame (profileLoaded s n.val f) n.val f.fire
    obtain ⟨hcount, hlate⟩ := rget_forecastCounted (profileLoaded s n.val f) n f.fire
    rw [profileLoaded_tide] at hlate
    refine ⟨_, forecastReceive_eq hf hn hup hen, hcount, hlate, ?_, ?_⟩
    · rw [oeGet_of_oe hframe.oe]
      exact mem_profiles_profileLoaded s n.val f
    · rw [hframe.launch]
      exact forecasts_profileLoaded hf n.val
  · intro n value s slot time u hrun hb hgo hwb hslot hlo hhi
    exact oeWbCmd_eq hrun hb hgo hwb hslot hlo hhi
  · intro n sum s w since hw hs hrun
    refine ⟨fun ht hinv => ⟨_, weightBankReadingDone_eq hw hs hrun ht sum, ?_⟩, weightBankReadingDone_early hw hs hrun⟩
    have hframe := regsOnly_readingEnded s n.val sum
    rw [oeGet_of_oe hframe.oe, hframe.mem, hframe.links, Inv.oeGet_oeMod_self _ _ hinv]
    exact ⟨rfl, rfl, rfl, rfl⟩
  · intro n sum s w hw hrun
    exact weightBankReadingDone_abandoned hw hrun
  · intro n value collides s hup hb
    simp only [exec, execOeLockerrMax, hup, softWrite_of_not_busy hb, Bool.not_true, Bool.false_eq_true, if_false]
  · intro s ms
    refine ⟨fun hw hms => ?_, fun h => ?_⟩
    · rw [exec, execCalibrationStep, if_neg (not_or.2 ⟨hw, hms⟩)]
    · rw [exec, execCalibrationStep, if_pos h]
  · intro v
    refine ⟨?_, CalVal.stepped_nearer⟩
    rw [CalVal.stepped_target]
    by_cases h : v.now = v.target
    · rw [CalVal.stepped_of_reached h]
    · exact (CalVal.stepped_nearer h).le
  · intro n place power s p short hup hlit
    exact ⟨rxPowerLow_first hup hlit, rxPowerLow_near hup hlit⟩
  · intro ty slot values s hdie hup hlast u
    have hother : u ≠ 1 - u := by omega
    refine ⟨fun hroom => ⟨_, calRecordWrite_whole values hdie hup hlast, ?_⟩, fun n hn => ⟨_, calRecordWrite_broken values hdie hup hlast hn, ?_⟩⟩
    · have hcal := calOnly_calMoved s ty.val slot.val values
      rw [calGet_copyWritten_self, calGet_copyWritten_ne _ _ _ _ _ hother, gen_newRecord]
      exact ⟨rfl, recordValid_newRecord ty.val slot.val hroom, calGet_of_nor hcal.nor .., hcal.oe, hcal.mem⟩
    · rw [calGet_copyWritten_self, calGet_copyWritten_ne _ _ _ _ _ hother]
      exact ⟨recordValid_of_short (Nat.lt_of_le_of_lt (List.length_take_le ..) hn) _ _ _, rfl, rfl, rfl⟩

end Sys2Proof.Claims
end

section
/-! SUPPORT. A laser chiplet read back, and what the dark of a switchover leaves as it was (R334, R346–R351). -/

namespace Sys2Proof.Machine

/-! ## What rings change -/

/-- From `s` to `t` engines alone have changed. -/
def OeOnly (s t : State) : Prop := t = { s with oe := t.oe }

section
variable {s t : State}

theorem OeOnly.trans {u : State} (h : OeOnly s t) (g : OeOnly t u) : OeOnly s u := Eq.trans g (by rw [h])

theorem OeOnly.eq (h : OeOnly s t) : t = { s with oe := t.oe } := h
theorem OeOnly.ls (h : OeOnly s t) : t.ls = s.ls := by rw [h.eq]
theorem OeOnly.mem (h : OeOnly s t) : t.mem = s.mem := by rw [h.eq]

end

section
variable (s : State) (n : Nat)

theorem oeOnly_foldl {α : Type} {f : State → α → State} (hf : ∀ t x, OeOnly t (f t x)) (l : List α) : OeOnly s (l.foldl f s) :=
  List.foldlRecOn (motive := OeOnly s) l f rfl fun _ h x _ => h.trans (hf _ x)

theorem oeOnly_parkRing (r : Nat) : OeOnly s (parkRing s n r) := by
  unfold parkRing
  dsimp only
  split <;> rfl

theorem oeOnly_startRing (r : Nat) : OeOnly s (startRing s n r) := by
  unfold startRing
  dsimp only
  split
  · rfl
  · split <;> rfl

theorem oeOnly_dimRings (l : List Nat) : OeOnly s (dimRings s n l) := by
  refine oeOnly_foldl s (fun t r => ?_) l
  dsimp only
  split
  · exact oeOnly_parkRing ..
  · split <;> rfl

theorem oeOnly_lightBack (l : List Nat) : OeOnly s (lightBack s n l) :=
  (oeOnly_foldl s (fun t r => oeOnly_startRing t n r) l).trans rfl

theorem oeOnly_darkRings (dark : Nat) : OeOnly s (darkRings s n dark) := by
  have hpark (t : State) (l : List Nat) : OeOnly t (if 10000 < dark then l.foldl (fun t r => parkRing t n r) t else t) := by
    split
    · exact oeOnly_foldl t (fun t r => oeOnly_parkRing t n r) l
    · rfl
  have hlight (t : State) (l : List Nat) : OeOnly t (if inSafe t (blkOE n) then t else lightBack t n l) := by
    split
    · rfl
    · exact oeOnly_lightBack ..
  exact ((oeOnly_dimRings ..).trans (hpark ..)).trans (hlight ..)

end

/-! ## Sides of a chiplet -/

section
variable (x : LsSt) (b : Bool)

@[simp] theorem LsSt.side_setSide_self (v : SideState) : (x.setSide b v).side b = v := by cases b <;> rfl
@[simp] theorem LsSt.side_setSide_not (v : SideState) : (x.setSide b v).side (!b) = x.side (!b) := by cases b <;> rfl
@[simp] theorem LsSt.active_setSide (v : SideState) : (x.setSide b v).active = x.active := by cases b <;> rfl
@[simp] theorem LsSt.req_setSide (v : SideState) : (x.setSide b v).req = x.req := by cases b <;> rfl
@[simp] theorem LsSt.side_setBias (c : Bool) (v : BitVec 12) : (x.setBias b v).side c = x.side c := by cases b <;> rfl
@[simp] theorem LsSt.active_setBias (v : BitVec 12) : (x.setBias b v).active = x.active := by cases b <;> rfl
@[simp] theorem LsSt.req_setBias (v : BitVec 12) : (x.setBias b v).req = x.req := by cases b <;> rfl

/-- A side with a bias is not one that an unlisted chiplet has. -/
theorem LsSt.setBias_ne_default {v : BitVec 12} (h : v ≠ 0) : x.setBias b v ≠ {} := by
  cases b
  · exact fun e => h (congrArg LsSt.biasA e)
  · exact fun e => h (congrArg LsSt.biasB e)

variable {x b}

/-- Nor is a side that is not READY. -/
theorem LsSt.ne_default_of_side (h : x.side b ≠ .ready) : x ≠ {} := by
  rintro rfl
  cases b <;> exact h rfl

end

theorem SideState.fresh_iff (v : SideState) : v.fresh = true ↔ v = .ready ∨ v = .warn := by
  rw [fresh, Bool.or_eq_true, beq_iff_eq, beq_iff_eq]

section
variable (s : State) (n : Nat)

theorem lsGet_of_ls {s t : State} (h : t.ls = s.ls) (n : Nat) : lsGet t n = lsGet s n := by rw [lsGet, h, lsGet]

/-- A chiplet that differs from an unlisted one is read back, from any table. -/
theorem lsGet_lsSet_self {x : LsSt} (h : x ≠ {}) : lsGet (lsSet s n x) n = x := tget_tset_of_ne _ _ h

theorem lsGet_lsLog (kind detail : Nat) : lsGet (lsLog s n kind detail) n = lsGet s n := lsGet_of_ls (logRecord_ls ..) n

theorem lsGet_biasLog (side : Bool) (level : Nat) (bias : BitVec 12) : lsGet (biasLog s n side level bias) n = lsGet s n := lsGet_lsLog ..

/-! ## Registers of a chiplet after a record -/

theorem logRecord_safe (kind slot unit detail addr tag : Nat) :
    (logRecord s kind slot unit detail addr tag).regs.safe = s.regs.safe := by
  have hcap (t : State) (off : Nat) (v : Word) : (logCapture t off v).regs.safe = t.regs.safe := by rw [wordsOnly_logCapture t off v]
  have hevent (t : State) (cls : Nat) (data : BitVec 256) : (sendEvent t cls data).regs.safe = t.regs.safe := by
    unfold sendEvent
    split <;> rfl
  have hcount (t : State) (off k : Nat) : (cntAdd t off k).regs.safe = t.regs.safe := rfl
  unfold logRecord logRecordEv
  simp only [apply_ite State.regs, apply_ite RegSt.safe, hcap, hevent, hcount, ite_self]

theorem cfg_lsLog (kind detail : Nat) (off : Nat) : cfg (lsLog s n kind detail) (blkLS n) off = cfg s (blkLS n) off := by
  have hreg : 0x18000 ≤ (blkLS n).reg off := by simp only [Blk.reg, blkLS, slotBase, slotLS]; omega
  rw [cfg, inSafe, lsLog, logRecord_safe, rget_logRecord _ hreg]
  rfl

end

/-! ## Claims and switchovers (R346, R393) -/

/-- No switchover leaves side A the claim 1, which is what an unlisted chiplet shows. -/
theorem LsSt.claimA_claim_ne_one (x : LsSt) : (x.claim (!x.active)).claimA ≠ 1 := by
  intro hA
  cases h : x.active
  · rw [h] at hA
    have hzero : (0 : Word) = 1 := hA
    exact absurd hzero (by decide)
  · rw [h] at hA
    have hone : x.claimB + 1 = 1 := hA
    have hlt : x.claimA < x.claimB := of_decide_eq_true h
    have hzero : x.claimB = 0 := by simpa using hone
    rw [hzero] at hlt
    exact absurd hlt (BitVec.not_lt_zero)

/-- The side that takes over holds the higher claim, as long as claims do not wrap. -/
theorem LsSt.active_claim_true {x : LsSt} (h : x.claimA ≠ 0xFFFFFFFF) : (x.claim true).active = true := by
  refine decide_eq_true ?_
  change (0 : Word) < x.claimA + 1
  bv_omega

theorem LsSt.active_claim_false (x : LsSt) : (x.claim false).active = false := decide_eq_false BitVec.not_lt_zero

/-- A chiplet after a switchover: the other side has the claim, and nothing is asked for. -/
def LsSt.switched (x : LsSt) (dark : BitVec 16) : LsSt :=
  { x.claim (!x.active) with dark := dark, req := none, diverge := false, blank := false }

theorem LsSt.switched_ne_default (x : LsSt) (dark : BitVec 16) : x.switched dark ≠ {} :=
  fun h => x.claimA_claim_ne_one (congrArg LsSt.claimA h)

section
variable (s : State) (n : Nat) (dark : BitVec 16) (unscheduled : Bool)

theorem changeSide_frame : ∃ t, OeOnly (lsSet s n ((lsGet s n).switched dark)) t ∧
    changeSide s n dark unscheduled =
      lsLog t n 0x0604 ((!(lsGet s n).active).toNat + 2 * unscheduled.toNat + 65536 * dark.toNat) := by
  refine ⟨_, ?_, rfl⟩
  split
  · exact oeOnly_darkRings ..
  · rfl

theorem lsGet_changeSide : lsGet (changeSide s n dark unscheduled) n = (lsGet s n).switched dark := by
  obtain ⟨t, ht, heq⟩ := changeSide_frame s n dark unscheduled
  rw [heq, lsGet_lsLog, lsGet_of_ls ht.ls, lsGet_lsSet_self _ _ (LsSt.switched_ne_default _ _)]

theorem changeSide_mem : (changeSide s n dark unscheduled).mem = s.mem := by
  obtain ⟨t, ht, heq⟩ := changeSide_frame s n dark unscheduled
  rw [heq, lsLog, logRecord_mem, ht.mem, lsSet_mem]

end

/-! ## Thresholds of the bias (R348) -/

theorem biasOf_of_loop {s : State} {n : Nat} {x : LsSt} {side : Bool} (h : (cfg s (blkLS n) 0x028).getLsbD 31 = false ∨ side ≠ x.active)
    (loop : BitVec 12) : biasOf s n x side loop = loop := by
  refine if_neg fun hov => ?_
  rw [Bool.and_eq_true, beq_iff_eq] at hov
  rcases h with h | h
  · rw [h] at hov; exact Bool.noConfusion hov.1
  · exact h hov.2

theorem biasOf_of_override {s : State} {n : Nat} {x : LsSt} {side : Bool} (h : (cfg s (blkLS n) 0x028).getLsbD 31 = true)
    (ha : side = x.active) (loop : BitVec 12) : biasOf s n x side loop = field (cfg s (blkLS n) 0x028) 0 12 := by
  refine if_pos ?_
  rw [h, ha, BEq.rfl]
  rfl

section
variable (s : State) (n : Nat) (side : Bool) (bias : BitVec 12)

/-- A side's bias is noted, and a READY one that it takes beyond the lower threshold is WARN. -/
def biasNoted : State :=
  let x := (lsGet s n).setBias side bias
  if decide ((cfg s (blkLS n) 0x020).toNat < bias.toNat) && x.side side == .ready
    then biasLog (lsSet (lsSet s n x) n (x.setSide side .warn)) n side 1 bias else lsSet s n x

/-- The chiplet after it. -/
def biasWarned : LsSt :=
  let x := (lsGet s n).setBias side bias
  if decide ((cfg s (blkLS n) 0x020).toNat < bias.toNat) && x.side side == .ready then x.setSide side .warn else x

/-- A side is at its end of life: it asks for a switchover where it is the active one, AUTO is set and the other side may take over. -/
def biasEnded (s : State) (n : Nat) (side : Bool) : LsSt :=
  let x := (lsGet s n).setSide side .eol
  { x with req := if side == x.active && (cfg s (blkLS n) 0x010).getLsbD 0 && (x.side (!side)).fresh
      then x.req.orElse fun _ => some s.now else x.req }

theorem laserBiasThreshold_eq {n : Fin 8} (hrun : lsRuns s n.val = true) (hside : (lsGet s n.val).side side ≠ .failed)
    (hbias : biasOf s n.val (lsGet s n.val) side bias = bias) :
    exec (.laserBiasThreshold n side bias) s =
      if decide ((cfg s (blkLS n.val) 0x024).toNat < bias.toNat) && ((lsGet (biasNoted s n.val side bias) n.val).side side).fresh
      then .next (biasLog (lsSet (biasNoted s n.val side bias) n.val (biasEnded (biasNoted s n.val side bias) n.val side)) n.val side 2 bias)
      else .next (biasNoted s n.val side bias) := by
  have hgo : (!lsRuns s n.val || (lsGet s n.val).side side == .failed) = false := by
    rw [hrun, beq_eq_false_iff_ne.2 hside]
    rfl
  simp only [exec, execLaserBiasThreshold, hgo, hbias, Bool.false_eq_true, if_false]
  rfl

/-- The override stands for the loop of the active side (R351). -/
theorem laserBiasThreshold_of_override {n : Fin 8} (h : (cfg s (blkLS n.val) 0x028).getLsbD 31 = true) (ha : side = (lsGet s n.val).active) :
    exec (.laserBiasThreshold n side bias) s = exec (.laserBiasThreshold n side (field (cfg s (blkLS n.val) 0x028) 0 12)) s := by
  simp only [exec, execLaserBiasThreshold, biasOf_of_override h ha]

/-! ### What it notes -/

variable {s n side bias}

theorem biasNoted_frame {P : State → Prop} (hset : ∀ x, P (lsSet s n x)) (hlog : ∀ x y, P (biasLog (lsSet (lsSet s n x) n y) n side 1 bias)) :
    P (biasNoted s n side bias) := by
  unfold biasNoted
  dsimp only
  split
  · exact hlog ..
  · exact hset ..

theorem biasNoted_mem : (biasNoted s n side bias).mem = s.mem :=
  biasNoted_frame (P := fun t => t.mem = s.mem) (fun _ => rfl) fun _ _ => logRecord_mem ..

theorem biasNoted_now : (biasNoted s n side bias).now = s.now :=
  biasNoted_frame (P := fun t => t.now = s.now) (fun _ => rfl) fun _ _ => logRecord_now ..

theorem cfg_biasNoted (off : Nat) : cfg (biasNoted s n side bias) (blkLS n) off = cfg s (blkLS n) off :=
  biasNoted_frame (P := fun t => cfg t (blkLS n) off = cfg s (blkLS n) off) (fun _ => rfl) fun _ _ => cfg_lsLog ..

theorem lsGet_biasNoted (h : bias ≠ 0) : lsGet (biasNoted s n side bias) n = biasWarned s n side bias := by
  unfold biasNoted biasWarned
  dsimp only
  split
  · rw [lsGet_biasLog, lsGet_lsSet_self _ _ (LsSt.ne_default_of_side (b := side) (by simp))]
  · exact lsGet_lsSet_self _ _ (LsSt.setBias_ne_default _ _ h)

/-- All but the bias and the side's own state is as before. -/
theorem biasWarned_frame : (biasWarned s n side bias).side (!side) = (lsGet s n).side (!side) ∧
    (biasWarned s n side bias).active = (lsGet s n).active ∧ (biasWarned s n side bias).req = (lsGet s n).req := by
  unfold biasWarned
  dsimp only
  split <;> simp

theorem biasWarned_side_of_warn (hr : (lsGet s n).side side = .ready) (hw : (cfg s (blkLS n) 0x020).toNat < bias.toNat) :
    (biasWarned s n side bias).side side = .warn := by
  simp [biasWarned, hr, hw]

theorem biasWarned_fresh (h : (lsGet s n).side side = .ready ∨ (lsGet s n).side side = .warn) :
    ((biasWarned s n side bias).side side).fresh = true := by
  rw [SideState.fresh_iff]
  unfold biasWarned
  dsimp only
  split
  · exact .inr (LsSt.side_setSide_self ..)
  · rwa [LsSt.side_setBias]

/-- What the end of life leaves of the chiplet, and whether it asks for a switchover. -/
theorem biasEnded_spec (s : State) (n : Nat) (side : Bool) : let x := lsGet s n
    (biasEnded s n side).side side = .eol ∧ (biasEnded s n side).side (!side) = x.side (!side) ∧ (biasEnded s n side).active = x.active ∧
    (biasEnded s n side).req = if side = x.active ∧ (cfg s (blkLS n) 0x010).getLsbD 0 = true ∧
      (x.side (!side) = .ready ∨ x.side (!side) = .warn) then some (x.req.getD s.now) else x.req := by
  refine ⟨LsSt.side_setSide_self .., LsSt.side_setSide_not .., LsSt.active_setSide .., ?_⟩
  simp only [biasEnded, Bool.and_eq_true, beq_iff_eq, LsSt.active_setSide, LsSt.req_setSide, LsSt.side_setSide_not, SideState.fresh_iff,
    and_assoc]
  split
  · cases (lsGet s n).req <;> rfl
  · rfl

end

/-! ## Divergence, requests and switchovers (R347, R349–R351) -/

section
variable {n : Fin 8} {s : State} (hrun : lsRuns s n.val = true)
include hrun

section
variable {line : Fin 18} {ferr power : BitVec 16} (hside : (lsGet s n.val).side (!(lsGet s n.val).active) ≠ .failed)
include hside

theorem standbyDiverge_far (h : 50 < ferr.toInt.natAbs ∨ 50 < power.toInt.natAbs) : exec (.standbyDiverge n line ferr power) s =
    .next (lsLog (cntAdd (lsSet s n.val { lsGet s n.val with diverge := true }) ((blkLS n.val).reg 0x044) 1) n.val 0x0606 line.val) := by
  have hfar : ¬ (ferr.toInt.natAbs ≤ 50 ∧ power.toInt.natAbs ≤ 50) := by omega
  simp only [exec, execStandbyDiverge, hrun, beq_eq_false_iff_ne.2 hside, hfar, Bool.not_true, Bool.or_self, Bool.false_eq_true, if_false]

theorem standbyDiverge_near (hf : ferr.toInt.natAbs ≤ 50) (hp : power.toInt.natAbs ≤ 50) : exec (.standbyDiverge n line ferr power) s =
    .next (lsSet s n.val { lsGet s n.val with diverge := false }) := by
  simp only [exec, execStandbyDiverge, hrun, beq_eq_false_iff_ne.2 hside, hf, hp, and_self, Bool.not_true, Bool.or_self,
    Bool.false_eq_true, if_false, if_true]

end

theorem lsSwCmd_eq {value : Word} (hb : isBusy s (blkLS n.val) = false) (hgo : value.getLsbD 31 = true) :
    let x := lsGet s n.val
    let t := rset (acceptWrite s (blkLS n.val)) ((blkLS n.val).reg 0x02C) 0
    exec (.lsSwCmd n value) s = .next (if x.side (!x.active) = .ready ∨ x.side (!x.active) = .warn
      then lsSet t n.val { x with req := x.req.orElse fun _ => some s.now } else logCapture t ((blkLS n.val).reg 0x030) 1) := by
  have hget (b : Blk) : lsGet (acceptWrite s b) n.val = lsGet s n.val := rfl
  have hnow : (rset (acceptWrite s (blkLS n.val)) ((blkLS n.val).reg 0x02C) 0).now = s.now := (rset_now ..).trans (acceptWrite_now ..)
  simp only [exec, execLsSwCmd, hrun, Claims.softWrite_of_not_busy hb, hgo, hget, Bool.not_true, Bool.false_eq_true, if_false,
    ← SideState.fresh_iff, hnow]
  split <;> rfl

section
variable {since : Nat} {dark : BitVec 16} (hreq : (lsGet s n.val).req = some since)
  (hside : (lsGet s n.val).side (!(lsGet s n.val).active) ≠ .failed)
include hreq hside

/-- In the window the transmitters stop. -/
theorem scheduledSwitchover_blanks (hblank : (lsGet s n.val).blank = false) (hen : enabled s (blkLS n.val) = true)
    (hw : windowLeft s kindCalib ≠ 0) (hidle : linksIdle s n.val = true) :
    exec (.scheduledSwitchover n dark) s = .next (lsSet s n.val { lsGet s n.val with blank := true }) := by
  simp only [exec, execScheduledSwitchover, hrun, hreq, hen, hblank, beq_eq_false_iff_ne.2 hside, hw, hidle, Option.isNone_some,
    Bool.not_true, Bool.false_and, Bool.or_self, Bool.true_eq_false, or_self, Bool.false_eq_true, if_false]

/-- Once they have stopped, the sides change. -/
theorem scheduledSwitchover_changes (hblank : (lsGet s n.val).blank = true) : exec (.scheduledSwitchover n dark) s =
    .next (logCapture (cntAdd (changeSide s n.val dark false) ((blkLS n.val).reg 0x034) 1) ((blkLS n.val).reg 0x030) 0) := by
  simp only [exec, execScheduledSwitchover, hrun, hreq, hblank, beq_eq_false_iff_ne.2 hside, Option.isNone_some, Bool.not_true,
    Bool.and_false, Bool.or_self, Bool.false_eq_true, if_false, if_true]
  rfl

theorem switchoverForced_eq {stall : BitVec 16} (hen : enabled s (blkLS n.val) = true) (hage : since + 60000000000 ≤ s.now)
    (hw : windowLeft s kindCalib ≠ 0) : exec (.switchoverForced n dark stall) s = .next (logCapture (lsLog
      (cntAdd (cntAdd (changeSide s n.val dark false) ((blkLS n.val).reg 0x034) 1) ((blkLS n.val).reg 0x03C) 1) n.val 0x060C stall.toNat)
      ((blkLS n.val).reg 0x030) 3) := by
  simp only [exec, execSwitchoverForced, hreq, hrun, hen, beq_eq_false_iff_ne.2 hside, beq_eq_false_iff_ne.2 hw, Nat.not_lt.2 hage,
    decide_false, Bool.not_true, Bool.or_self, Bool.false_eq_true, if_false]
  rfl

end

theorem unscheduledSwitchover_eq {dark : BitVec 16} (hside : (lsGet s n.val).side (lsGet s n.val).active ≠ .failed) :
    let x := lsGet s n.val
    let v := lsSet s n.val { x.setSide x.active .failed with req := none, blank := false }
    let u := if x.req.isSome then logCapture v ((blkLS n.val).reg 0x030) 2 else v
    exec (.unscheduledSwitchover n dark) s = .next (if x.side (!x.active) = .failed then engineDark (lsLog u n.val 0x0605 0) n.val
      else cntAdd (changeSide u n.val dark true) ((blkLS n.val).reg 0x038) 1) := by
  simp only [exec, execUnscheduledSwitchover, hrun, beq_eq_false_iff_ne.2 hside, Bool.not_true, Bool.or_self, Bool.false_eq_true, if_false,
    beq_iff_eq]
  rw [apply_ite Host.Outcome.next]
  rfl

end

end Sys2Proof.Machine
end

section
/-! Laser chiplets: divergence, thresholds, requests and switchovers. -/

namespace Sys2Proof.Claims

open Sys2Proof Sys2Proof.Machine

/-- Settles O44: each command by the branch that its premises choose. A bias beyond a threshold is not 0, so that the chiplet is read
back from any table; so is one that has changed sides, since no switchover leaves side A the claim 1. -/
theorem laserCommands : Obligations.LaserCommands := by
  refine ⟨?_, ?_, ?_, ?_, ?_, ?_, ?_⟩
  · intro n line ferr power s hrun hside
    exact ⟨standbyDiverge_far hrun hside, standbyDiverge_near hrun hside⟩
  · intro n side bias s x v hrun
    refine ⟨fun hloop => ⟨fun hready hlo hhi => ?_, fun hfresh hhi => ?_⟩, laserBiasThreshold_of_override s side bias⟩
    · have hexec := laserBiasThreshold_eq s side bias hrun (by rw [hready]; exact SideState.noConfusion) (biasOf_of_loop hloop bias)
      have hbias : bias ≠ 0 := by rintro rfl; exact absurd hlo (Nat.not_lt_zero _)
      rw [decide_eq_false (Nat.not_lt.2 hhi), Bool.false_and, if_neg Bool.false_ne_true] at hexec
      obtain ⟨hother, hactive, hreq⟩ := biasWarned_frame (s := s) (n := n.val) (side := side) (bias := bias)
      refine ⟨_, hexec, ?_⟩
      rw [lsGet_biasNoted hbias]
      exact ⟨biasWarned_side_of_warn hready hlo, hother, hactive, hreq, biasNoted_mem⟩
    · have hside : (lsGet s n.val).side side ≠ .failed := by
        rcases hfresh with h | h <;> exact h ▸ SideState.noConfusion
      have hexec := laserBiasThreshold_eq s side bias hrun hside (biasOf_of_loop hloop bias)
      have hbias : bias ≠ 0 := by rintro rfl; exact absurd hhi (Nat.not_lt_zero _)
      rw [lsGet_biasNoted hbias, biasWarned_fresh hfresh, decide_eq_true hhi, Bool.and_self, if_pos rfl] at hexec
      obtain ⟨hother, hactive, hreq⟩ := biasWarned_frame (s := s) (n := n.val) (side := side) (bias := bias)
      obtain ⟨heol, hother', hactive', hreq'⟩ := biasEnded_spec (biasNoted s n.val side bias) n.val side
      rw [lsGet_biasNoted hbias] at hother' hactive' hreq'
      rw [hactive, hother, hreq, cfg_biasNoted, biasNoted_now] at hreq'
      refine ⟨_, hexec, ?_⟩
      rw [lsGet_biasLog, lsGet_lsSet_self _ _ (LsSt.ne_default_of_side (b := side) (by rw [heol]; exact SideState.noConfusion))]
      exact ⟨heol, hother'.trans hother, hactive'.trans hactive, (logRecord_mem ..).trans biasNoted_mem, hreq'⟩
  · intro n value s hrun hb hgo x u
    exact lsSwCmd_eq hrun hb hgo
  · intro n dark s since x hrun hreq hside
    exact ⟨scheduledSwitchover_blanks hrun hreq hside, scheduledSwitchover_changes hrun hreq hside⟩
  · intro n dark stall s since hrun hen hreq hage hside hw
    exact switchoverForced_eq hrun hreq hside hen hage hw
  · intro n dark s x hrun hside v u
    exact unscheduledSwitchover_eq hrun hside
  · intro s n dark un
    rw [lsGet_changeSide]
    refine ⟨fun ha hclaim => ?_, fun ha => ?_, changeSide_mem .., rfl⟩
    · have h : ((lsGet s n).switched dark).active = ((lsGet s n).claim (!(lsGet s n).active)).active := rfl
      rw [h, ha]
      exact LsSt.active_claim_true hclaim
    · have h : ((lsGet s n).switched dark).active = ((lsGet s n).claim (!(lsGet s n).active)).active := rfl
      rw [h, ha]
      exact LsSt.active_claim_false _

end Sys2Proof.Claims
end

section
/-! SUPPORT. Commands of rings, places and light, each by its conditions (R312, R319, R322, R323, R331–R338). -/

namespace Sys2Proof.Machine

/-! ## Sweeps and acquisition (R332, R333) -/

section
variable {n : Fin 8} {ring : Fin 10999} {s : State}

theorem ringSweepDone_found (hin : ringIn s n.val ring.val .sweep = true) {code : BitVec 16} (h : code.toNat ≤ heaterLimit s n.val) :
    exec (.ringSweepDone n ring (some code)) s = .next (ringEnter s n.val ring.val .acquire fun v => { v with heater := code }) := by
  have hfound : (some code).filter (fun c => decide (c.toNat ≤ heaterLimit s n.val)) = some code := by simp [h]
  simp only [exec, execRingSweepDone, hin, hfound, Bool.not_true, Bool.false_eq_true, if_false]

theorem ringSweepDone_empty (hin : ringIn s n.val ring.val .sweep = true) {found : Option (BitVec 16)}
    (h : ∀ c ∈ found, heaterLimit s n.val < c.toNat) : exec (.ringSweepDone n ring found) s =
      .next (if ringClass ring.val = 3 then parkRing s n.val ring.val else ringFails s n.val ring.val 1) := by
  have hnone : found.filter (fun c => decide (c.toNat ≤ heaterLimit s n.val)) = none := by
    rw [Option.filter_eq_none_iff]
    exact fun c hc => by simpa using h c hc
  simp only [exec, execRingSweepDone, hin, hnone, Bool.not_true, Bool.false_eq_true, if_false]

section
variable (hin : ringIn s n.val ring.val .parked = true)
include hin

theorem ringSweepRetry_drop (hc : ringClass ring.val = 3) : exec (.ringSweepRetry n ring) s =
    .next (if s.now < (ringGet (oeGet s n.val) ring.val).since + 1000000 then s else startRing s n.val ring.val) := by
  simp only [exec, execRingSweepRetry, hin, hc, Bool.not_true, Bool.false_eq_true, if_false, if_true]

theorem ringSweepRetry_failed (hc : ringClass ring.val ≠ 3) (hf : (ringGet (oeGet s n.val) ring.val).fails ≠ 0) :
    exec (.ringSweepRetry n ring) s = .next (sweepRing s n.val ring.val false) := by
  simp only [exec, execRingSweepRetry, hin, hc, hf, Bool.not_true, Bool.false_eq_true, if_false]

end

section
variable (hin : ringIn s n.val ring.val .acquire = true) {code : BitVec 16} {err : Byte}
include hin

theorem ringAcquired_within (h : code.toNat ≤ heaterLimit s n.val) : exec (.ringAcquired n ring code err) s =
    .next (ringEnter (loopAt s n.val ring.val code err) n.val ring.val .check id) := by
  simp only [exec, execRingAcquired, hin, Nat.not_lt.2 h, Bool.not_true, Bool.false_eq_true, if_false]

theorem ringAcquired_beyond (h : heaterLimit s n.val < code.toNat) : exec (.ringAcquired n ring code err) s =
    .next (ringFails s n.val ring.val 1) := by
  simp only [exec, execRingAcquired, hin, h, Bool.not_true, Bool.false_eq_true, if_false, if_true]

end

end

/-! ## Identity checks (R336, R337) -/

/-- What the first check after an acquisition makes of a ring. -/
def ringJudged (s : State) (n r : Nat) : RingVerdict → State
  | .passed => cntAdd (ringEnter s n r .locked fun v => { v with checkedAt := s.now }) ((blkOE n).reg 0x108) 1
  | .wrongLine found => wrongLine s n r found
  | .failed => ringFails s n r 0

/-- What a later check makes of a locked ring. -/
def ringRejudged (s : State) (n r : Nat) : RingVerdict → State
  | .passed => ringMod s n r fun v => { v with checkedAt := s.now, recheck := none }
  | .wrongLine found => wrongLine (ringFatal (ringMod s n r fun v => { v with checkedAt := s.now, recheck := none }) n r) n r found
  | .failed => ringFails (ringFatal (ringMod s n r fun v => { v with checkedAt := s.now, recheck := none }) n r) n r 0

section
variable {n : Fin 8} {ring : Fin 10999} {s : State} {tones : List (BitVec 16)}

theorem ringIdentityCheck_early (hin : ringIn s n.val ring.val .check = true) (h : s.now < (ringGet (oeGet s n.val) ring.val).since + 100000) :
    exec (.ringIdentityCheck n ring tones) s = .next s := by
  simp only [exec, execRingIdentityCheck, checkTime, hin, h, decide_true, Bool.or_true, if_true]

theorem ringIdentityCheck_done (hin : ringIn s n.val ring.val .check = true) (h : (ringGet (oeGet s n.val) ring.val).since + 100000 ≤ s.now)
    {v : RingVerdict} (hv : ringVerdict (oeGet s n.val) n.val ring.val tones = v) :
    exec (.ringIdentityCheck n ring tones) s = .next (ringJudged s n.val ring.val v) := by
  simp only [exec, execRingIdentityCheck, checkTime, hin, hv, Nat.not_lt.2 h, decide_false, Bool.not_true, Bool.or_self, Bool.false_eq_true,
    if_false]
  cases v <;> rfl

theorem ringPeriodicCheck_early (hin : ringIn s n.val ring.val .locked = true)
    (h : checkDue s n.val (ringGet (oeGet s n.val) ring.val) = false) : exec (.ringPeriodicCheck n ring tones) s = .next s := by
  simp only [exec, execRingPeriodicCheck, hin, h, Bool.not_false, Bool.or_true, if_true]

theorem ringPeriodicCheck_done (hin : ringIn s n.val ring.val .locked = true)
    (hdue : checkDue s n.val (ringGet (oeGet s n.val) ring.val) = true) (hlit : ringDark (oeGet s n.val) ring.val = false)
    {v : RingVerdict} (hv : ringVerdict (oeGet s n.val) n.val ring.val tones = v) :
    exec (.ringPeriodicCheck n ring tones) s = .next (ringRejudged s n.val ring.val v) := by
  simp only [exec, execRingPeriodicCheck, hin, hdue, hlit, hv, Bool.not_true, Bool.or_self, Bool.false_eq_true, if_false]
  cases v <;> rfl

end

/-- A ring that enters a state is read back in it, and every other ring of the engine as before. -/
theorem ringGet_ringEnter (s : State) (n r : Nat) {m : RingMode} (h : m ≠ .unused) (f : RingSt → RingSt) :
    let x := oeGet (ringEnter s n r m f) n
    (ringGet x r).st = m ∧ ∀ i, i ≠ r → ringGet x i = ringGet (oeGet s n) i := by
  dsimp only
  rw [ringEnter, oeGet_ringMod_self s n r h, ringGet_ringSet_self _ r h]
  exact ⟨rfl, fun i hi => ringGet_ringSet_ne _ _ hi⟩

/-- The fold of `strongest` ends at an element, or where it began, that no element exceeds. -/
theorem foldl_strongest (l : List (BitVec 16)) (ks : List Nat) (m : Nat) :
    let r := ks.foldl (fun m k => if toneAt l m < toneAt l k then k else m) m
    (r = m ∨ r ∈ ks) ∧ toneAt l m ≤ toneAt l r ∧ ∀ k ∈ ks, toneAt l k ≤ toneAt l r := by
  induction ks generalizing m with
  | nil => exact ⟨.inl rfl, Int.le_refl _, by simp⟩
  | cons k ks ih =>
    obtain ⟨hmem, hstart, hall⟩ := ih (if toneAt l m < toneAt l k then k else m)
    rw [List.foldl_cons]
    by_cases h : toneAt l m < toneAt l k
    · rw [if_pos h] at hmem hstart hall ⊢
      exact ⟨.inr (List.mem_cons.2 hmem), by omega, List.forall_mem_cons.2 ⟨hstart, hall⟩⟩
    · rw [if_neg h] at hmem hstart hall ⊢
      exact ⟨hmem.imp_right (List.mem_cons_of_mem _), hstart, List.forall_mem_cons.2 ⟨by omega, hall⟩⟩

/-- A line's tone stands out as the strongest just where it exceeds each other by 10 dB (R336). -/
theorem standsOut_iff {l : List (BitVec 16)} {own : Nat} (ho : own < 18) :
    standsOut l = true ∧ strongest l = own ↔ ∀ k, k < 18 → k ≠ own → toneAt l k + 1000 ≤ toneAt l own := by
  have hstands : standsOut l = true ↔ ∀ k, k < 18 → k ≠ strongest l → toneAt l k + 1000 ≤ toneAt l (strongest l) := by
    simp only [standsOut, List.all_eq_true, List.mem_range, Bool.or_eq_true, beq_iff_eq, decide_eq_true_eq, or_iff_not_imp_left, ne_eq]
  refine ⟨fun ⟨hs, he⟩ => he ▸ hstands.1 hs, fun h => ?_⟩
  have he : strongest l = own := by
    obtain ⟨hmem, -, hall⟩ := foldl_strongest l (List.range 18) 0
    change (strongest l = 0 ∨ strongest l ∈ List.range 18) at hmem
    have hlt : strongest l < 18 := hmem.elim (fun e => by omega) List.mem_range.1
    have hown : toneAt l own ≤ toneAt l (strongest l) := hall own (List.mem_range.2 ho)
    by_contra hne
    have := h _ hlt hne
    omega
  exact ⟨hstands.2 (he.symm ▸ h), he⟩

section
variable {x : OeSt} {r own : Nat} {l : List (BitVec 16)} (hl : ringLine x r = some own)
include hl

/-- A class that tells no lines apart passes by the level of the ring's own tone alone. -/
theorem ringVerdict_level {m : Nat} (ht : tellsLines r = false) :
    ringVerdict x m r l = .passed ↔ nearLevel m r l own (if ringClass r = 1 then 100 else 300) = true := by
  rw [ringVerdict, hl]
  simp only [ht, Bool.false_eq_true, if_false]
  split <;> simp [*]

/-- A class that does passes where its own tone stands out and is near its level. -/
theorem ringVerdict_tells {m : Nat} (ht : tellsLines r = true) :
    ringVerdict x m r l = .passed ↔ (standsOut l = true ∧ strongest l = own) ∧ nearLevel m r l own 600 = true := by
  rw [ringVerdict, hl]
  simp only [ht, if_true]
  by_cases hs : standsOut l = true
  · by_cases he : strongest l = own
    · by_cases hn : nearLevel m r l own 600 = true <;> simp [hs, he, hn]
    · simp [hs, he]
  · simp [hs]

end

theorem tellsLines_of_class (r : Nat) : tellsLines r = true ↔ ringClass r ≠ 1 ∧ ringClass r ≠ 2 := by
  rw [tellsLines, ringClass]
  split
  · simp
  split
  · simp
  split
  · simp
  split <;> simp

/-! ## Locked rings (R338, R341) -/

/-- A loop's error is noted in OE_LOCKERR_MAX alone. -/
theorem noteError_eq (s : State) (n r : Nat) (err : Byte) :
    noteError s n r err = s ∨ ∃ v, noteError s n r err = rset s ((blkOE n).reg 0x124) v :=
  (ite_eq_or_eq ..).symm.imp_right fun h => ⟨_, h⟩

theorem cfg_loopAt (s : State) (n r : Nat) (code : BitVec 16) (err : Byte) {off : Nat} (h : off ≠ 0x124) :
    cfg (loopAt s n r code err) (blkOE n) off = cfg s (blkOE n) off := by
  have hring (f : RingSt → RingSt) : cfg (ringMod s n r f) (blkOE n) off = cfg s (blkOE n) off := rfl
  rw [loopAt]
  obtain heq | ⟨v, heq⟩ := noteError_eq (ringMod s n r fun v => { v with heater := code, err := err }) n r err
  · rw [heq, hring]
  · have hne : (blkOE n).reg off ≠ (blkOE n).reg 0x124 := fun he => h (Nat.add_left_cancel he)
    rw [heq, cfg_rset_ne _ _ hne, hring]

section
variable {n : Fin 8} {ring : Fin 10999} {s : State} (hin : ringIn s n.val ring.val .locked = true) (hlit : ringDark (oeGet s n.val) ring.val = false)
  {err : Byte} {code : BitVec 16}
include hin hlit

theorem ringUnlock_beyond (h : (field (cfg s (blkOE n.val) 0x100) 16 8 : BitVec 8).toNat < err.toInt.natAbs) :
    exec (.ringUnlock n ring err code) s =
      .next (ringFails (ringFatal (loopAt s n.val ring.val code err) n.val ring.val) n.val ring.val 2) := by
  simp only [exec, execRingUnlock, hin, hlit, cfg_loopAt _ _ _ _ _ (show 0x100 ≠ 0x124 by decide), h, Bool.not_true, Bool.or_self,
    Bool.false_eq_true, if_false, if_true]

theorem ringUnlock_within (h : err.toInt.natAbs ≤ (field (cfg s (blkOE n.val) 0x100) 16 8 : BitVec 8).toNat)
    (hc : code.toNat < heaterLimit s n.val) : exec (.ringUnlock n ring err code) s = .next (loopAt s n.val ring.val code err) := by
  have hlimit : ¬ heaterLimit (loopAt s n.val ring.val code err) n.val ≤ code.toNat := by
    rw [heaterLimit, cfg_loopAt _ _ _ _ _ (by decide)]
    exact Nat.not_le.2 hc
  simp only [exec, execRingUnlock, hin, hlit, cfg_loopAt _ _ _ _ _ (show 0x100 ≠ 0x124 by decide), Nat.not_lt.2 h, hlimit, Bool.not_true,
    Bool.or_self, Bool.false_eq_true, if_false]

end

/-! ## Places (R312, R319, R322, R323) -/

section
variable {n : Fin 8} {lane : Byte} {s : State} (hup : oeUp s n.val = true)
include hup

theorem receivePlaceSteer_eq {place : Fin 306} {dev : BitVec 4} {engine : Fin 8} (hlit : (rxGet (oeGet s n.val) place.val).lit = true)
    (hid : badIdentity s n.val dev.toNat engine.val lane.toNat = false)
    (hret : (laneGet (linkGet s (opticKey n.val dev.toNat)) lane.toNat).retiring = false) :
    exec (.receivePlaceSteer n place dev engine lane) s = .next (oeMod s n.val fun x => steerFrom s n.val { x with
      ident := insertIdent x (place.val, dev.toNat, lane.toNat) (x.ident.filter fun i => i.1 != place.val) }) := by
  have hlit' : (tget (oeGet s n.val).rx place.val {}).lit = true := hlit
  simp only [exec, execReceivePlaceSteer, hup, hlit', hid, hret, Bool.not_true, Bool.or_self, Bool.false_eq_true, if_false]

theorem placeMove_eq {ring : Bool} (hdue : moveDue s n.val lane.toNat ring = true) : exec (.placeMove n lane ring) s =
    .next (moveLane s n.val lane.toNat ring.toNat (takenBelow s n.val lane.toNat)) := by
  simp only [exec, execPlaceMove, hup, hdue, Bool.and_self, if_true]

theorem placeMoveDone_eq (hen : (placeGet (oeGet s n.val) lane.toNat).en = true) (hm : (placeGet (oeGet s n.val) lane.toNat).moving = true)
    (hlock : ∀ r ∈ placeRings (placeGet (oeGet s n.val) lane.toNat), (ringGet (oeGet s n.val) r).st = .locked) :
    exec (.placeMoveDone n lane) s = .next (trainMoved (oeSet s n.val (placeSet (oeGet s n.val) lane.toNat
      { placeGet (oeGet s n.val) lane.toNat with moving := false })) n.val lane.toNat) := by
  have hall : ((placeRings (placeGet (oeGet s n.val) lane.toNat)).all fun r => (ringGet (oeGet s n.val) r).st == .locked) = true :=
    List.all_eq_true.2 fun r hr => beq_iff_eq.2 (hlock r hr)
  simp only [exec, execPlaceMoveDone, hup, hen, hm, hall, Bool.and_self, if_true]

theorem oeHomeTest_eq {value : Word} {bad : BitVec 17} {delays : List (Fin 17 × BitVec 16)} (hb : isBusy s (blkOE n.val) = false)
    (hgo : value.getLsbD 0 = true) (hlines : field (cfg s (blkOE n.val) 0x010) 16 16 ≠ 0) :
    exec (.oeHomeTest n value bad delays) s = .next (oeMod (acceptWrite s (blkOE n.val)) n.val fun x => { x with
      fibreBad := bad, homeDelay := delays.foldl (fun m d => tput m d.1.val (some d.2)) x.homeDelay }) := by
  have hcfg : cfg (acceptWrite s (blkOE n.val)) (blkOE n.val) 0x010 = cfg s (blkOE n.val) 0x010 := rfl
  simp only [exec, execOeHomeTest, homeTest, hup, Claims.softWrite_of_not_busy hb, hgo, hcfg, hlines, Bool.not_true, Bool.false_eq_true,
    if_false, if_true]

end

/-- Of two identities the one of the place lit later stands first, whichever is put in last (R312). -/
theorem insertIdent_pair {x : OeSt} {i j : Nat × Nat × Nat} (h : (rxGet x i.1).litAt < (rxGet x j.1).litAt) :
    insertIdent x i [j] = [j, i] ∧ insertIdent x j [i] = [j, i] := by
  have h' : (tget x.rx i.1 {}).litAt < (tget x.rx j.1 {}).litAt := h
  exact ⟨by rw [insertIdent, if_pos h', insertIdent], by rw [insertIdent, if_neg (Nat.lt_asymm h')]⟩

/-! ## Light (R334) -/

section
variable {n : Fin 8} {s : State} (hrun : oeRuns s n.val = true)
include hrun

theorem ringLightLoss_rx {place : Fin 306} (hlit : (rxGet (oeGet s n.val) place.val).lit = true)
    (hdark : (rxGet (oeGet s n.val) place.val).darkAt = none) : exec (.ringLightLoss n (.rx place)) s =
      .next (dimRings (oeMod s n.val fun x => { x with
        rx := tset x.rx place.val { rxGet (oeGet s n.val) place.val with darkAt := some s.now } {} }) n.val (rxRings place.val)) := by
  simp only [exec, execRingLightLoss, hrun, hlit, hdark, Option.isSome_none, Bool.not_true, Bool.or_self, Bool.false_eq_true, if_false]

theorem ringLightLoss_tx {lane : Byte} (hen : (placeGet (oeGet s n.val) lane.toNat).en = true)
    (hdark : (placeGet (oeGet s n.val) lane.toNat).darkAt = none) :
    let p := placeGet (oeGet s n.val) lane.toNat
    let u := oeMod s n.val fun x => placeSet x lane.toNat { p with darkAt := some s.now }
    exec (.ringLightLoss n (.tx lane)) s = .next (dimRings u n.val ((placeRings p).filter fun r => ringDark (oeGet u n.val) r)) := by
  simp only [exec, execRingLightLoss, hrun, hen, hdark, Option.isSome_none, Bool.not_true, Bool.or_self, Bool.false_eq_true, if_false]

theorem ringLightReturn_rx {place : Fin 306} {power : BitVec 16} : exec (.ringLightReturn n (.rx place) power) s =
    .next (lightBack (oeMod s n.val fun x => { x with rx := tset x.rx place.val { rxGet x place.val with
      lit := true, litAt := if (rxGet x place.val).lit then (rxGet x place.val).litAt else s.now, power := power, darkAt := none } {} })
      n.val (rxRings place.val)) := by
  simp only [exec, execRingLightReturn, hrun, Bool.not_true, Bool.false_eq_true, if_false]

theorem ringLightReturn_tx {lane : Byte} {power : BitVec 16} (hd : (oeGet s n.val).dark = false) (hs : inSafe s (blkOE n.val) = false)
    (hdark : (placeGet (oeGet s n.val) lane.toNat).darkAt.isSome = true) : exec (.ringLightReturn n (.tx lane) power) s =
      .next (lightBack (oeSet s n.val (placeSet (oeGet s n.val) lane.toNat
        { placeGet (oeGet s n.val) lane.toNat with darkAt := none })) n.val (placeRings (placeGet (oeGet s n.val) lane.toNat))) := by
  have hsome : (placeGet (oeGet s n.val) lane.toNat).darkAt.isNone = false := by rw [← Option.not_isSome, hdark]; rfl
  simp only [exec, execRingLightReturn, hrun, hd, hs, hsome, Bool.not_true, Bool.or_self, Bool.false_eq_true, if_false]

section
variable {since : Nat} (ht : since + 10000 ≤ s.now)
include ht

theorem ringDarkTimeout_rx {place : Fin 306} (hdark : (rxGet (oeGet s n.val) place.val).darkAt = some since) :
    let t := (rxRings place.val).foldl (fun t r => parkRing t n.val r) s
    exec (.ringDarkTimeout n (.rx place)) s = .next (oeMod t n.val fun x => steerFrom t n.val { x with
      rx := tset x.rx place.val { rxGet (oeGet s n.val) place.val with lit := false, darkAt := none } {}
      ident := x.ident.filter fun i => i.1 != place.val }) := by
  simp only [exec, execRingDarkTimeout, hrun, hdark, darkLong, ht, decide_true, Bool.not_true, Bool.false_eq_true, if_false]

theorem ringDarkTimeout_tx {lane : Byte} (hen : (placeGet (oeGet s n.val) lane.toNat).en = true)
    (hdark : (placeGet (oeGet s n.val) lane.toNat).darkAt = some since) : exec (.ringDarkTimeout n (.tx lane)) s =
      .next (((placeRings (placeGet (oeGet s n.val) lane.toNat)).filter (ringDark (oeGet s n.val))).foldl (fun t r => parkRing t n.val r) s) := by
  simp only [exec, execRingDarkTimeout, hrun, hen, hdark, darkLong, ht, decide_true, Bool.not_true, Bool.or_self, Bool.false_eq_true,
    if_false]

end
end

section
variable {β : Type} [DecidableEq β] {d : β} {f : Nat → β → β}

theorem tmap_cons (a : Nat) (v : β) (r : Tbl β) : tmap ((a, v) :: r) d f = if f a v = d then tmap r d f else (a, f a v) :: tmap r d f := by
  by_cases h : f a v = d <;> simp [tmap, h]

/-- What a changed map reads, where the change is not what an unlisted key reads as. -/
theorem tget_tmap_of_ne (m : Tbl β) {k : Nat} (hd : f k d = d) (h : f k (tget m k d) ≠ d) : tget (tmap m d f) k d = f k (tget m k d) := by
  induction m with
  | nil => exact absurd hd h
  | cons e r ih =>
    obtain ⟨a, v⟩ := e
    rw [tmap_cons]
    by_cases ha : a = k
    · subst ha
      rw [tget, if_pos rfl] at h ⊢
      rw [if_neg h, tget, if_pos rfl]
    · rw [tget, if_neg ha] at h ⊢
      split
      · exact ih h
      · rw [tget, if_neg ha]
        exact ih h

end

/-- What the return of light does to a ring (R334). -/
def RingSt.relit (v : RingSt) (now : Nat) : RingSt := if v.st = .locked then { v with recheck := some now } else v

theorem lightBack_nil (s : State) (n : Nat) :
    lightBack s n [] = oeMod s n fun x => { x with ring := tmap x.ring {} fun _ v => v.relit s.now } := rfl

/-- A locked ring that light returns to stays locked and repeats its check. -/
theorem ringGet_lightBack_nil {s : State} {n r : Nat} (h : (ringGet (oeGet s n) r).st = .locked) :
    ringGet (oeGet (lightBack s n []) n) r = { ringGet (oeGet s n) r with recheck := some s.now } := by
  have hrelit : (tget (oeGet s n).ring r {}).relit s.now = { ringGet (oeGet s n) r with recheck := some s.now } := if_pos h
  have hne : (tget (oeGet s n).ring r {}).relit s.now ≠ {} := fun e =>
    Option.some_ne_none _ (congrArg RingSt.recheck (hrelit.symm.trans e))
  have hring : tget (tmap (oeGet s n).ring {} fun _ v => v.relit s.now) r {} = (tget (oeGet s n).ring r {}).relit s.now :=
    tget_tmap_of_ne _ rfl hne
  rw [lightBack_nil, oeGet_oeMod_self, ← hrelit, ← hring]
  · rfl
  · intro e
    have hnil : (tmap (oeGet s n).ring {} fun _ v => v.relit s.now) = [] := congrArg OeSt.ring e
    rw [hnil] at hring
    exact hne hring.symm

end Sys2Proof.Machine
end

section
/-! Rings, receive places, moves and the home test. -/

namespace Sys2Proof.Claims

open Sys2Proof Sys2Proof.Machine

/-- Settles O42: each command by the branch that its premises choose; a passed check is read back from the ring's table, and a tone that
exceeds every other is the one that the check takes as the strongest. -/
theorem ringsAndPlaces : Obligations.RingsAndPlaces := by
  refine ⟨?_, ?_, ?_, ?_, ?_, ?_, ?_, ?_, ?_, ?_, ?_, ?_, ?_, ?_, ?_, ?_, ?_, ?_, ?_, ?_⟩
  · intro n ring code s hin
    refine ⟨ringSweepDone_found hin, fun found h => ringSweepDone_empty hin ?_⟩
    rcases h with rfl | ⟨rfl, h⟩
    · simp
    · simpa using h
  · intro n ring s v hin
    refine ⟨fun hc ht => ?_, fun hc ht => ?_, ringSweepRetry_failed hin⟩
    · rw [ringSweepRetry_drop hin hc, if_neg (Nat.not_lt.2 ht)]
    · rw [ringSweepRetry_drop hin hc, if_pos ht]
  · intro n ring code err s hin
    exact ⟨ringAcquired_within hin, ringAcquired_beyond hin⟩
  · intro n ring tones s hin x v
    refine ⟨ringIdentityCheck_early hin, fun ht => ⟨fun hv => ⟨_, ringIdentityCheck_done hin ht hv, ?_⟩,
      ringIdentityCheck_done hin ht, fun found => ringIdentityCheck_done hin ht⟩⟩
    obtain ⟨hself, hother⟩ := ringGet_ringEnter s n.val ring.val (m := .locked) (by decide) fun v => { v with checkedAt := s.now }
    rw [ringJudged, oeGet_of_oe (cntAdd_oe ..)]
    exact ⟨hself, hother, (cntAdd_mem ..).trans (oeMod_mem ..), (cntAdd_links ..).trans (oeMod_links ..)⟩
  · intro x n r own l hl ho near
    have hnear (limit : Nat) : nearLevel n r l own limit = true ↔ near limit := decide_eq_true_iff
    refine ⟨fun hc => ?_, fun hc => ?_, fun h1 h2 => ?_⟩
    · have ht : tellsLines r = false := Bool.eq_false_iff.2 fun h => ((tellsLines_of_class r).1 h).1 hc
      rw [ringVerdict_level hl ht, if_pos hc, hnear]
    · have ht : tellsLines r = false := Bool.eq_false_iff.2 fun h => ((tellsLines_of_class r).1 h).2 hc
      rw [ringVerdict_level hl ht, if_neg (by rw [hc]; decide), hnear]
    · rw [ringVerdict_tells hl ((tellsLines_of_class r).2 ⟨h1, h2⟩), standsOut_iff ho, hnear]
  · intro n ring tones s hin x v u
    exact ⟨ringPeriodicCheck_early hin, fun hdue hlit => ⟨ringPeriodicCheck_done hin hdue hlit, ringPeriodicCheck_done hin hdue hlit,
      fun found => ringPeriodicCheck_done hin hdue hlit⟩⟩
  · intro n ring err code s hin hlit limit
    exact ⟨ringUnlock_beyond hin hlit, ringUnlock_within hin hlit⟩
  · intro s n r kind v u
    refine ⟨fun h => ?_, fun h => ?_⟩
    · rw [ringFails]
      exact if_pos h
    · rw [ringFails]
      exact if_neg (Nat.not_le.2 h)
  · intro n place dev engine lane s hup hlit hid hret
    exact receivePlaceSteer_eq hup hlit hid hret
  · intro x i j _ h
    exact insertIdent_pair h
  · intro n lane ring s hup hdue
    exact placeMove_eq hup hdue
  · intro n lane s p hup hen hm hlock
    exact placeMoveDone_eq hup hen hm hlock
  · intro n value bad delays s hup hb hgo hlines
    exact oeHomeTest_eq hup hb hgo hlines
  · intro n place s p hrun hlit hdark
    exact ringLightLoss_rx hrun hlit hdark
  · intro n lane s p u hrun hen hdark
    exact ringLightLoss_tx hrun hen hdark
  · intro n place power s hrun
    exact ringLightReturn_rx hrun
  · intro n lane power s p hrun hd hs hdark
    exact ringLightReturn_tx hrun hd hs hdark
  · intro s n r h
    rw [ringGet_lightBack_nil h]
    exact ⟨h, rfl⟩
  · intro n place s since hdark hrun ht
    exact ringDarkTimeout_rx hrun ht hdark
  · intro n lane s since p hen hdark hrun ht
    exact ringDarkTimeout_tx hrun ht hen hdark

end Sys2Proof.Claims
end

section
/-! Events queue, or are lost and counted (R380, R382). -/

namespace Sys2Proof.Machine

/-- PL's counters of resent datagrams and of lost events are 0 after reset (R385). -/
theorem regReset_plCounters : regReset (blkPL.reg 0x068) = 0 ∧ regReset (blkPL.reg 0x074) = 0 := by decide +kernel

theorem sendEvent_of_full {s : State} (h : maxEvents ≤ s.events.length) (cls : Nat) (data : BitVec 256) :
    sendEvent s cls data = cntAdd { s with eventLost := true } (blkPL.reg 0x074) 1 := if_neg (Nat.not_lt.2 h)

end Sys2Proof.Machine

namespace Sys2Proof.Claims

open Sys2Proof Sys2Proof.Machine

/-- Settles O60: a queue with room takes the event, and a full one counts it in PL_EVT_LOST and notes the loss. -/
theorem eventsQueueOrAreLost : Obligations.EventsQueueOrAreLost := by
  intro s cls data
  refine ⟨fun hroom => sendEvent_of_room hroom cls data, fun hfull => ?_⟩
  intro t
  have ht : t = cntAdd { s with eventLost := true } (blkPL.reg 0x074) 1 := sendEvent_of_full hfull cls data
  rw [ht]
  exact ⟨rfl, rfl, rfl, rfl, fun x hx => rget_cntAdd_ne _ _ hx, rget_cntAdd_of_reset _ regReset_plCounters.2 Nat.one_pos⟩

end Sys2Proof.Claims
end

section
/-! SUPPORT. What sending a pilot datagram leaves as it was, by whichever way it goes (R15, R365, R377–R379). -/

namespace Sys2Proof.Machine

/-- From `s` to `t` outputs, links and what waits for them have changed, and of the hub's own blocks at most PL_NOROUTE. -/
structure SentFrame (s t : State) : Prop where
  state : t = { s with out := t.out, regs := { s.regs with words := t.regs.words }, links := t.links, trans := t.trans }
  hub   : ∀ x < 0x34000, x ≠ blkPL.reg 0x080 → rget t x = rget s x

namespace SentFrame

theorem refl (s : State) : SentFrame s s := ⟨rfl, fun _ _ _ => rfl⟩

theorem trans {s t u : State} (h : SentFrame s t) (g : SentFrame t u) : SentFrame s u where
  state := Eq.trans g.state (by rw [h.state])
  hub x hx hn := (g.hub x hx hn).trans (h.hub x hx hn)

theorem foldl {α : Type} {f : State → α → State} (hf : ∀ t x, SentFrame t (f t x)) (l : List α) (s : State) :
    SentFrame s (l.foldl f s) := by
  induction l generalizing s with
  | nil => exact refl s
  | cons x r ih => exact (hf s x).trans (ih _)

theorem of_linkFrame {s t : State} (h : LinkFrame s t) : SentFrame s t where
  state := Eq.trans h.state (by rw [h.state])
  hub x hx _ := h.hub x hx

theorem emit (s : State) (o : Output) : SentFrame s (s.emit o) := ⟨rfl, fun _ _ _ => rfl⟩

theorem noRoute (s : State) : SentFrame s (noRoute s) := ⟨rfl, fun _ _ hn => rget_cntAdd_ne _ _ hn⟩

section
variable {s t : State} (h : SentFrame s t)
include h

theorem pl : t.pl = s.pl := by rw [h.state]
theorem mem : t.mem = s.mem := by rw [h.state]
theorem boll : t.boll = s.boll := by rw [h.state]
theorem launch : t.launch = s.launch := by rw [h.state]
theorem events : t.events = s.events := by rw [h.state]

end

end SentFrame

/-! ## Over Quayline -/

section
variable (s : State)

theorem linkFrame_refl : LinkFrame s s := ⟨rfl, fun _ _ => rfl⟩

/-- The QN blocks lie behind the hub's blocks. -/
theorem le_blkQN_reg (q off : Nat) : 0x34000 ≤ (blkQN q).reg off := by
  simp only [Blk.reg, blkQN, slotQ, slotBase]; omega

theorem linkFrame_cntAdd64_of_le {off : Nat} (h : 0x34000 ≤ off) (n : Nat) : LinkFrame s (cntAdd64 s off n) :=
  ⟨rfl, fun _ hx => rget_cntAdd64_ne s n (by omega) (by omega)⟩

/-- Counting a parcel on its way counts in blocks of links and of base dies. -/
theorem linkFrame_countHops (vc addr : Nat) (l : List (Nat × Nat)) : LinkFrame s (countHops s vc addr l) := by
  induction l generalizing s with
  | nil => exact linkFrame_refl s
  | cons e r ih =>
    obtain ⟨a, b⟩ := e
    unfold countHops
    split
    · exact ih s
    · rename_i k _
      refine LinkFrame.trans ?_ (ih _)
      have hfar : LinkFrame s (match farEnd k with
          | some f => cntAdd64 (cntAdd64 s ((qlBlk k).reg 0x078) 1) ((qlBlk f).reg 0x080) 1
          | none => cntAdd64 s ((qlBlk k).reg 0x078) 1) := by
        split
        · exact (linkFrame_cntAdd64 ..).trans (linkFrame_cntAdd64 ..)
        · exact linkFrame_cntAdd64 ..
      split
      · exact hfar
      · exact hfar.trans (linkFrame_cntAdd64_of_le _ (le_blkQN_reg ..) 1)

theorem linkFrame_countWay (a b : Point) (vc addr : Nat) : LinkFrame s (countWay s a b vc addr) := by
  have hhops := linkFrame_countHops s vc addr (hops (pathNow s a.1 b.1))
  unfold countWay
  dsimp only
  split
  · exact hhops
  · split
    · exact hhops
    · exact (hhops.trans (linkFrame_cntAdd64 ..)).trans (linkFrame_cntAdd64 ..)

theorem sentFrame_withTrans (x : TransSt) : SentFrame s { s with trans := x } := ⟨rfl, fun _ _ _ => rfl⟩

theorem sentFrame_holdOut (src dst : Point) (p : QPar) : SentFrame s (holdOut s src dst p) := by
  unfold holdOut
  dsimp only
  split
  · exact sentFrame_withTrans ..
  · exact (SentFrame.of_linkFrame (linkFrame_countHops ..)).trans (sentFrame_withTrans ..)

theorem sentFrame_sendTo (src : Point) (p : QPar) : SentFrame s (sendTo s src p) := by
  unfold sendTo
  split
  · exact .refl s
  · split
    · exact sentFrame_holdOut ..
    · exact .of_linkFrame ((linkFrame_countWay ..).trans (linkFrame_linkSet ..))

theorem sentFrame_sendPilot (dev : Nat) (d : Dgram) : SentFrame s (sendPilot s dev d) :=
  .foldl (fun t p => sentFrame_sendTo t hubPoint p) _ s

/-! ## To the host -/

theorem sentFrame_toMember (came : Option (Fin 2)) (dev : Nat) (d : Dgram) :
    SentFrame s ((toMember s came dev d).getD (noRoute s)) := by
  have hheld : SentFrame s (((pilotKey s dev).map fun _ => sendPilot s dev d).getD (noRoute s)) := by
    cases pilotKey s dev
    · exact .noRoute s
    · exact sentFrame_sendPilot ..
  unfold toMember
  dsimp only
  split
  · exact sentFrame_sendPilot ..
  · split
    · split
      · exact hheld
      · exact .emit ..
    · exact hheld

theorem sentFrame_toHost (p : Fin 2) (d : Dgram) : SentFrame s (toHost s p d) := by
  unfold toHost
  split
  · exact .emit ..
  · exact .refl s

theorem sentFrame_sendBack (back : PilotPath) (d : Dgram) : SentFrame s (sendBack s back d) := by
  cases back with
  | port p =>
    simp only [sendBack]
    split
    · exact .emit ..
    · exact .refl s
  | link src => exact sentFrame_toMember ..

theorem sentFrame_upward (came : Option (Fin 2)) (back : Option PilotPath) (d : Dgram) : SentFrame s (upward s came back d) := by
  unfold upward
  split
  · split
    · exact sentFrame_toHost ..
    · exact sentFrame_toMember ..
  · exact sentFrame_sendBack ..
  · exact .noRoute s

theorem sentFrame_sendOut (d : Dgram) : SentFrame s (sendOut s d) := by
  unfold sendOut
  split
  · split
    · exact sentFrame_upward ..
    · exact sentFrame_toHost ..
  · exact sentFrame_upward ..

end

end Sys2Proof.Machine
end

section
/-! SUPPORT. Messages of the pilot that run one at a time, and the datagrams that answer them (R368–R374). -/

namespace Sys2Proof.Machine

section
variable (s : State)

theorem ownDev_lt : ownDev s < 16 := by
  unfold ownDev
  split
  · exact BitVec.isLt _
  · decide

theorem toNat_ofNat_ownDev : (BitVec.ofNat 4 (ownDev s)).toNat = ownDev s := by
  rw [BitVec.toNat_ofNat, Nat.mod_eq_of_lt (ownDev_lt s)]

/-- Whether the pilot engine serves depends on the power mode and on PL's EN and safe state. -/
theorem pilotOn_congr {s t : State} (hmode : t.pw = s.pw) (hsafe : t.regs.safe = s.regs.safe)
    (hen : rget t (blkPL.reg 0x004) = rget s (blkPL.reg 0x004)) : pilotOn t = pilotOn s := by
  simp only [pilotOn, hubUp, enabled, inSafe, hmode, hsafe, hen]

theorem LinkFrame.pilotOn {s t : State} (h : LinkFrame s t) : pilotOn t = pilotOn s :=
  pilotOn_congr (by rw [h.state]) (by rw [h.state]) (h.hub _ (by decide))

/-! ## Datagrams of this module -/

/-- The datagram that carries messages to the host now. -/
def nextDgram (ms : List PMsg) : Dgram :=
  { dev := BitVec.ofNat 4 (ownDev s), fromDevice := true, session := s.pl.session, seq := nextSeq s.pl.txSeq, ack := s.pl.rxAck, msgs := ms }

/-- What the pilot engine holds once it has kept that datagram. -/
def keptPl (ms : List PMsg) : PlSt :=
  { s.pl with
    txSeq := nextSeq s.pl.txSeq, sentAt := if s.pl.sent.isEmpty then s.now else s.pl.sentAt, sent := s.pl.sent ++ [nextDgram s ms], owed := 0 }

theorem sentFrame_pilotSend (ms : List PMsg) : SentFrame { s with pl := keptPl s ms } (pilotSend s ms) := sentFrame_sendOut ..

theorem sentFrame_pilotAck : SentFrame { s with pl := { s.pl with owed := 0 } } (pilotAck s) := sentFrame_sendOut ..

end

/-! ## One message -/

section
variable {s t : State} {m : PMsg}

theorem answering_of_room (h : keepRoom s = true) (f : State → State) : answering s f = msgDone (f s) := if_pos h

section
variable (hlate : s.pl.late = []) (htodo : s.pl.todo = [m]) (hon : pilotOn s = true) (hapart : runsApart m = false)
include hlate htodo hon hapart

theorem pump_one : pump s = if mayStart s m = true then setTodo (runMsg s m).1 (if (runMsg s m).2 then [] else [m]) else setTodo s [m] := by
  have hflush : flushLate s = s := by simp only [flushLate, hlate, List.isEmpty_nil, if_true]
  simp only [pump, hon, if_true, hflush, htodo, runMsgs, hapart, Bool.not_true, Bool.not_false, Bool.false_eq_true, if_false, List.all_nil,
    Bool.false_or, Bool.true_and, Bool.not_eq_true']
  cases hmay : mayStart s m
  · rfl
  · rcases runMsg s m with ⟨u, _ | _⟩ <;> rfl

/-- A message that may start and that is dealt with leaves none to be executed. -/
theorem pump_of_done (hmay : mayStart s m = true) (hrun : runMsg s m = msgDone t) : pump s = setTodo t [] := by
  rw [pump_one hlate htodo hon hapart, if_pos hmay, hrun]
  rfl

theorem pump_of_not_mayStart (hmay : mayStart s m = false) : pump s = setTodo s [m] := by
  rw [pump_one hlate htodo hon hapart, if_neg (Bool.eq_false_iff.1 hmay)]

end

end

end Sys2Proof.Machine
end

section
/-! Pilot datagrams: sessions, order, relays, acknowledgement and events (R364–R374, R377–R382). -/

namespace Sys2Proof.Machine

section
variable {port : Fin 2} {f : EthFrame} {d : Dgram} {s : State}

/-! ## Datagrams that arrive on a port -/

section
variable (hon : pilotOn s = true) (hlive : portLive s port = true)
include hon hlive

theorem execPilotDatagram_of_bad (hbad : frameGood s port f d = false) : execPilotDatagram port f d s = .next (rxBadCount s) := by
  simp only [execPilotDatagram, hon, hlive, hbad, Bool.not_true, Bool.not_false, Bool.or_self, Bool.false_eq_true, if_false, if_true]

theorem execPilotDatagram_of_good (hgood : frameGood s port f d = true) :
    execPilotDatagram port f d s = .next (dispatch s (.port port) d) := by
  simp only [execPilotDatagram, hon, hlive, hgood, Bool.not_true, Bool.or_self, Bool.false_eq_true, if_false]

end

theorem dispatch_of_own (path : PilotPath) (hdev : d.dev.toNat = ownDev s) (hdir : d.fromDevice = false) :
    dispatch s path d = deliver s path d := by
  rw [dispatch, if_neg (not_not_intro hdev), hdir, if_neg Bool.false_ne_true]

theorem takePilotAck_rxAck (s : State) (ack : Word) : (takePilotAck s ack).pl.rxAck = s.pl.rxAck := by
  unfold takePilotAck
  dsimp only
  split
  · rfl
  · split <;> rfl

section
variable (path : PilotPath) (hopen : opens d = false)
include hopen

theorem deliver_of_no_session (h : s.pl.opened = false ∨ d.session ≠ s.pl.session) : deliver s path d = rxBadCount s := by
  have hbad : (!s.pl.opened || d.session != s.pl.session) = true := by simpa using h
  simp only [deliver, hopen, hbad, Bool.false_eq_true, if_false, if_true]

section
variable (hopened : s.pl.opened = true) (hsession : d.session = s.pl.session)
include hopened hsession

/-- A datagram of the session: first its acknowledgement, then its messages, if it is the next one. -/
theorem deliver_of_session : deliver s path d = (let u := takePilotAck s d.ack
    if d.seq = 0 then pump (d.msgs.foldl (fun t m => answerLate t 0x81 m (statusBody m 2)) u)
    else if d.seq = nextSeq s.pl.rxAck then acceptDgram u path d
    else pilotAck (cntAdd (pump u) (blkPL.reg (if seq32After d.seq s.pl.rxAck then 0x060 else 0x05C)) 1)) := by
  simp only [deliver, hopen, hopened, hsession, takePilotAck_rxAck, Bool.not_true, bne_self_eq_false, Bool.or_self, Bool.false_eq_true, if_false]
  cases seq32After d.seq s.pl.rxAck <;> rfl

end

end

/-! ## Frames -/

theorem frameTaken_iff : frameTaken s port f = true ↔ f.mac = portMac s port ∧ f.tags.length ≤ 1 ∧ (∀ t ∈ f.tags, tagGood s t = true) ∧
    f.bytes ≤ maxFrame s ∧ f.plain = true ∧ dstGood s f = true ∧ srcGood s f = true ∧ f.port = field (cfg s blkPL 0x014) 0 16 ∧
    f.magic = 0x015051 ∧ f.resv = 0 := by
  simp only [frameTaken, Bool.and_eq_true, beq_iff_eq, decide_eq_true_eq, List.all_eq_true, and_assoc]

theorem tagGood_iff {t : BitVec 12 × BitVec 3} : tagGood s t = true ↔
    (plCfg s).getLsbD 6 = true ∧ t.1 = field (plCfg s) 8 12 ∧ t.2 = field (plCfg s) 20 3 := by
  simp only [tagGood, Bool.and_eq_true, beq_iff_eq, and_assoc]

/-- A good destination is the module's own address, with a checksum that IPv6 needs and IPv4 may lack. -/
theorem dstGood_iff : dstGood s f = true ↔ f.sum ≠ .bad ∧ (∀ a, f.dst = .v4 a → a = cfg s blkPL 0x018) ∧
    (∀ a, f.dst = .v6 a → (plCfg s).getLsbD 5 = true ∧ a = plIp6 s ∧ f.sum = .good) := by
  unfold dstGood
  split
  · next a ha => simp [ha, and_comm]
  · next a ha =>
    simp only [ha, Bool.and_eq_true, beq_iff_eq, and_assoc, reduceCtorEq, IpAddr.v6.injEq, forall_eq', false_implies, implies_true, true_and]
    exact ⟨fun h => ⟨by simp [h.2.2], h⟩, And.right⟩

theorem srcGood_locked (h : srcGood s f = true) (hlock : (plCfg s).getLsbD 7 = true) :
    f.src = .v4 (cfg s blkPL 0x038) ∨ f.src = .v6 (ip6At s 0x040) := by
  rw [srcGood, hlock] at h
  cases hsrc : f.src with
  | v4 a => exact .inl (by simpa [hsrc] using h)
  | v6 a => exact .inr (by simpa [hsrc] using h)

theorem frameGood_iff : frameGood s port f d = true ↔ frameTaken s port f = true ∧ (isPeerPort s port = true ∨ d.fromDevice = false) ∧
    Dgram.length d ≤ maxDgram s ∧ d.msgs.length ≤ 255 ∧ ∀ m ∈ d.msgs, m.body.length % 4 = 0 := by
  simp only [frameGood, dgramGood, dgramFits, wholeWords, Bool.and_eq_true, Bool.or_eq_true, Bool.not_eq_true', decide_eq_true_eq,
    List.all_eq_true, beq_iff_eq, and_assoc]

end

end Sys2Proof.Machine
end

section
/-! Sessions that open, parcels of pilot traffic, resends, events, time stamps and ports (R364–R366, R369, R374, R377–R383). -/

namespace Sys2Proof.Machine

/-! ## OPEN (R369) -/

/-- The message of an OPEN, and the datagram that carries it. -/
def openMsg (tag : Word) : PMsg := { ty := 8, flags := 0, tag := tag, addr := 0, body := [] }
def openDgram (s : State) (seq tag : Word) : Dgram :=
  { dev := BitVec.ofNat 4 (ownDev s), fromDevice := false, session := 0, seq := seq, ack := 0, msgs := [openMsg tag] }

/-- The next datagram is taken: its messages wait to be executed. -/
def dgramTaken (s : State) (path : PilotPath) (d : Dgram) : State :=
  { cntAdd s (blkPL.reg 0x058) 1 with pl := { s.pl with
    rxAck := d.seq, path := path, owed := s.pl.owed + 1, owedAt := if s.pl.owed = 0 then s.now else s.pl.owedAt, todo := s.pl.todo ++ d.msgs } }

theorem acceptDgram_eq (s : State) (path : PilotPath) (d : Dgram) : acceptDgram s path d =
    if ackEvery ≤ (pump (dgramTaken s path d)).pl.owed then pilotAck (pump (dgramTaken s path d)) else pump (dgramTaken s path d) := rfl

section
variable {port : Fin 2} {f : EthFrame} {seq tag : Word} {s : State}

theorem execOpenSession_eq (hseq : seq ≠ 0) : execOpenSession port f seq tag s = execPilotDatagram port f (openDgram s seq tag) s :=
  if_neg (by simpa using hseq)

theorem frameGood_openDgram (ht : frameTaken s port f = true) : frameGood s port f (openDgram s seq tag) = true := by
  refine frameGood_iff.2 ⟨ht, .inr rfl, ?_, by simp [openDgram], by simp [openDgram, openMsg]⟩
  rw [show Dgram.length (openDgram s seq tag) = 32 from rfl, maxDgram]
  split <;> decide

/-- A new session has executed nothing, and owes and keeps nothing. -/
def opening (s : State) (path : PilotPath) (seq tag : Word) : State := dgramTaken (newSession s) path (openDgram s seq tag)

/-- The answer to an OPEN, and the state once it is sent. -/
def openReply (v : State) (tag : Word) : List PMsg := [{ ty := 0x88, flags := 0, tag := tag, addr := 0, body := openBody v }]
def sessionOpened (s : State) (path : PilotPath) (seq tag : Word) : State :=
  setTodo (pilotSend (opening s path seq tag) (openReply (opening s path seq tag) tag)) []

theorem sessionOpened_pl (path : PilotPath) : (sessionOpened s path seq tag).pl =
    { keptPl (opening s path seq tag) (openReply (opening s path seq tag) tag) with todo := [] } :=
  congrArg (fun p : PlSt => { p with todo := [] }) (sentFrame_pilotSend ..).pl

theorem acceptDgram_openDgram (path : PilotPath) (hon : pilotOn s = true) (htodo : s.pl.todo = []) :
    acceptDgram (newSession s) path (openDgram s seq tag) = sessionOpened s path seq tag := by
  let v := opening s path seq tag
  have htodo' : v.pl.todo = [openMsg tag] := congrArg (· ++ [openMsg tag]) htodo
  have hon' : pilotOn v = true := by
    rw [← hon]
    exact pilotOn_congr rfl rfl (rget_cntAdd_ne (newSession s) 1 (by decide))
  have hpump : pump v = sessionOpened s path seq tag :=
    pump_of_done rfl htodo' hon' rfl (by simp [mayStart, openMsg, v, opening, dgramTaken, newSession]) rfl
  have howed : (pump v).pl.owed = 0 := by rw [hpump, sessionOpened_pl]; rfl
  rw [acceptDgram_eq]
  show (if ackEvery ≤ (pump v).pl.owed then _ else pump v) = _
  rw [howed, hpump]
  rfl

theorem execOpenSession_of_taken (hon : pilotOn s = true) (hlive : portLive s port = true) (hseq : seq ≠ 0)
    (ht : frameTaken s port f = true) (htodo : s.pl.todo = []) :
    execOpenSession port f seq tag s = .next (sessionOpened s (.port port) seq tag) := by
  have hopens : opens (openDgram s seq tag) = true := by simpa [opens, openDgram, openMsg] using hseq
  rw [execOpenSession_eq hseq, execPilotDatagram_of_good hon hlive (frameGood_openDgram ht), dispatch_of_own _ (toNat_ofNat_ownDev s) rfl,
    deliver, if_pos hopens, acceptDgram_openDgram _ hon htodo]

end

/-! ## Relays and parcels (R377, R378) -/

/-- A datagram is passed on and counted, or counted as one without a route. -/
def passedOn (s : State) (way : Option State) : State := match way with
  | some t => cntAdd t (blkPL.reg 0x07C) 1
  | none => noRoute s

theorem dispatch_relayed {s : State} {port : Fin 2} {d : Dgram} (hdev : d.dev.toNat ≠ ownDev s) (hdir : d.fromDevice = false)
    (hbridge : isBridge s = true) (hgroup : inGroup s d.dev.toNat = true) : dispatch s (.port port) d =
    passedOn s (toMember { s with pl := { s.pl with down := some (.port port) } } (some port) d.dev.toNat d) := by
  simp only [dispatch, if_pos hdev, hdir, relayDown, hbridge, hgroup, Bool.true_or, Bool.and_self, Bool.false_eq_true, if_false, if_true]
  rfl

section
variable {s : State} {l : LinkId} {h : Hdr} {payload : Parcel} {check : Word}
variable (hg : l.key ≠ guestKey) (hr : Claims.Released s l tyPilot h payload check)
include hg hr

theorem execPilot_other (hd : h.dev.toNat ≠ ownDev s) :
    execPilot l h payload check s = .next (acceptPar (Claims.taken s l h) l.key (Claims.parOf h payload check)) := by
  have hd' : (Claims.parOf h payload check).dev.toNat ≠ ownDev (Claims.taken s l h) := by rw [(Claims.linkFrame_taken hg).ownDev]; exact hd
  simp only [execPilot, Claims.receiveLink_of_released hg hr, if_pos hd']

theorem execPilot_own (hd : h.dev.toNat = ownDev s) (hon : pilotOn s = true) :
    execPilot l h payload check s = .next (takeSegment (Claims.freed s l h) (Claims.parOf h payload check)) := by
  have hd' : ¬ (Claims.parOf h payload check).dev.toNat ≠ ownDev (Claims.taken s l h) := by
    rw [(Claims.linkFrame_taken hg).ownDev]; exact not_not_intro hd
  have hon' : pilotOn (Claims.freed s l h) = true := by rw [(Claims.linkFrame_freed hg).pilotOn, hon]
  simp only [execPilot, Claims.receiveLink_of_released hg hr, if_neg hd']
  exact congrArg Host.Outcome.next (if_pos hon')

end

/-! ## Sending in time (R371, R374, R382) -/

/-- What is not acknowledged goes out again, counted, and with the present ACK. -/
def resent (s : State) : State :=
  s.pl.sent.foldl (fun t d => sendOut t { d with ack := t.pl.rxAck })
    (cntAdd { s with pl := { s.pl with sentAt := s.now, owed := 0 } } (blkPL.reg 0x068) s.pl.sent.length)

theorem sentFrame_resent (s : State) :
    SentFrame (cntAdd { s with pl := { s.pl with sentAt := s.now, owed := 0 } } (blkPL.reg 0x068) s.pl.sent.length) (resent s) :=
  .foldl (fun t _ => sentFrame_sendOut t _) _ _

section
variable {s : State} (hon : pilotOn s = true)
include hon

theorem execPilotAckSend_of_owed (ho : 0 < s.pl.owed) : execPilotAckSend s = .next (pilotAck s) := by
  simp only [execPilotAckSend, hon, ho, decide_true, Bool.and_self, if_true]

theorem execPilotRetransmit_of_due (hsent : s.pl.sent ≠ []) (hdue : s.pl.sentAt + pilotRto s ≤ s.now) :
    execPilotRetransmit s = .next (resent s) := by
  have hwait : (!pilotOn s || s.pl.sent.isEmpty || decide (s.now < s.pl.sentAt + pilotRto s)) = false := by
    simp [hon, hsent, hdue]
  rw [execPilotRetransmit, hwait]
  rfl

end

/-- The first event that has not been sent in this session is marked; those before it and behind it stay. -/
theorem markFirstSent_append {pre post : List Event} {e : Event} (hpre : ∀ x ∈ pre, x.sent = true) (he : e.sent = false) :
    markFirstSent (pre ++ e :: post) = pre ++ { e with sent := true, told := true } :: post := by
  induction pre with
  | nil => simp [markFirstSent, he]
  | cons x r ih =>
    obtain ⟨hx, hr⟩ := List.forall_mem_cons.1 hpre
    rw [List.cons_append, markFirstSent, if_pos hx, ih hr, List.cons_append]

end Sys2Proof.Machine
end

section
/-! Events on their way, time stamps of PTP frames, and the two ports (R363–R365, R380–R383). -/

namespace Sys2Proof.Machine

/-! ## Events (R380, R381) -/

/-- An event sent for the first time is counted; one sent in an earlier session is not. -/
def eventCounted (s : State) (e : Event) : State := if e.told then s else cntAdd s (blkPL.reg 0x070) 1

theorem eventCounted_frame (s : State) (e : Event) : RegsOnly s (eventCounted s e) := by
  unfold eventCounted
  split
  · rfl
  · exact regsOnly_cntAdd ..

/-- The event is counted, and these events wait. -/
def eventMarked (s : State) (e : Event) (l : List Event) : State := { eventCounted s e with events := l }

theorem eventMarked_pl (s : State) (e : Event) (l : List Event) : (eventMarked s e l).pl = s.pl := by
  rw [eventMarked, (eventCounted_frame s e).eq]

def eventMsg (e : Event) : PMsg := { ty := 0x90, flags := 0, tag := 0, addr := 0, body := eventBody e }

theorem find?_first_unsent {pre post : List Event} {e : Event} (hpre : ∀ x ∈ pre, x.sent = true) (he : e.sent = false) :
    (pre ++ e :: post).find? (fun x => !x.sent) = some e := by
  rw [List.find?_append, List.find?_eq_none.2 fun x hx => by simp [hpre x hx], Option.none_or, List.find?_cons_of_pos (by simp [he])]

theorem execEventSend_of_first {s : State} (hon : pilotOn s = true) (hopened : s.pl.opened = true) (hroom : keepRoom s = true)
    {pre post : List Event} {e : Event} (hs : s.events = pre ++ e :: post) (hpre : ∀ x ∈ pre, x.sent = true) (he : e.sent = false) :
    execEventSend s = .next (pilotSend (eventMarked s e (pre ++ { e with sent := true, told := true } :: post)) [eventMsg e]) := by
  have hfind : s.events.find? (fun x => !x.sent) = some e := by rw [hs, find?_first_unsent hpre he]
  have hmark : markFirstSent (eventCounted s e).events = pre ++ { e with sent := true, told := true } :: post := by
    rw [(eventCounted_frame s e).eq, hs, markFirstSent_append hpre he]
  simp only [execEventSend, hon, hopened, hroom, hfind, Bool.not_true, Bool.or_self, Bool.false_eq_true, if_false]
  rw [← hmark]
  rfl

/-! ## Frames that a port answers (R365) -/

section
variable {port : Fin 2} {s : State} (hon : pilotOn s = true) (hlive : portLive s port = true)
include hon hlive

theorem execArpRequest_of_live (ip : Word) : execArpRequest port ip s =
    .next (if ip = cfg s blkPL 0x018 then s.emit (.arpReply port (sentTag s)) else rxBadCount s) := by
  simp only [execArpRequest, hon, hlive, Bool.not_true, Bool.or_self, Bool.false_eq_true, if_false, apply_ite Host.Outcome.next]

theorem execNeighborSolicitation_of_live (hip6 : (plCfg s).getLsbD 5 = true) (ip : BitVec 128) : execNeighborSolicitation port ip s =
    .next (if ip = plIp6 s then s.emit (.neighborAdvert port (sentTag s)) else rxBadCount s) := by
  simp only [execNeighborSolicitation, hon, hlive, hip6, Bool.not_true, Bool.or_self, Bool.false_eq_true, if_false, Bool.true_and, beq_iff_eq,
    apply_ite Host.Outcome.next]

end

/-! ## Time stamps (R383) -/

/-- The moment of a PTP frame as the corrected tide gives it. -/
def stampCenter (s : State) (tx : Bool) : Dword :=
  if tx then s.tide.hub + BitVec.ofNat 64 ((field (cfg s blkPL 0x0A4) 16 16).toNat / 10)
  else s.tide.hub - BitVec.ofNat 64 ((field (cfg s blkPL 0x0A4) 0 16).toNat / 10)

theorem stampOf_eq (s : State) (tx : Bool) : stampOf s tx = stampCenter s tx + BitVec.ofInt 64 ((s.free % 9 : Nat) - 4) := by
  have hcenter : stampCenter s tx = BitVec.ofInt 64 (if tx then s.tide.hub.toNat + (field (cfg s blkPL 0x0A4) 16 16).toNat / 10
      else s.tide.hub.toNat - (field (cfg s blkPL 0x0A4) 0 16).toNat / 10) := by
    have hhub : BitVec.ofInt 64 s.tide.hub.toNat = s.tide.hub := by rw [BitVec.ofInt_natCast, BitVec.ofNat_toNat, BitVec.setWidth_eq]
    have hadj (n : Nat) : BitVec.ofInt 64 ((n : Int) / 10) = BitVec.ofNat 64 (n / 10) := BitVec.ofInt_natCast ..
    cases tx
    · rw [if_neg Bool.false_ne_true, Int.sub_eq_add_neg, BitVec.ofInt_add, BitVec.ofInt_neg, hhub, hadj, ← BitVec.sub_eq_add_neg]
      rfl
    · rw [if_pos rfl, BitVec.ofInt_add, hhub, hadj]
      rfl
  rw [stampOf, hcenter, ← BitVec.ofInt_add, Int.add_sub_assoc]

theorem stampOf_near (s : State) (tx : Bool) : (stampOf s tx - stampCenter s tx).toInt.natAbs ≤ 4 := by
  have hk : s.free % 9 < 9 := Nat.mod_lt _ (by decide)
  rw [stampOf_eq, add_sub_cancel_left, BitVec.toInt_ofInt, Int.bmod_eq_of_le (by omega) (by omega)]
  omega

/-- A stamp is captured with the frame's SEQUENCE and port. -/
def stampTaken (s : State) (port : Fin 2) (tx : Bool) (id : BitVec 16) : State :=
  let o := if tx then 0x098 else 0x088
  logCapture s.takeFree (blkPL.reg (o + 8)) (fields 32 [(16, id.toNat), (1, port.val)])
    [(blkPL.reg o, (stampOf s tx).setWidth 32), (blkPL.reg (o + 4), (stampOf s tx >>> 32).setWidth 32)]

/-- A LOG register whose VALID is 0 is captured together with two companions (R459). -/
theorem Inv.rget_logCapture_pair {s : State} (h : Inv s) {off a b : Nat} (v x y : Word) (hv : rget s off &&& validBit = 0) (ha : off ≠ a)
    (hb : off ≠ b) (hab : a ≠ b) : let t := Machine.logCapture s off v [(a, x), (b, y)]
    rget t off = v ||| validBit ∧ rget t a = x ∧ rget t b = y := by
  intro t
  have ht : t = Machine.rset (Machine.rset (Machine.rset s off (v ||| validBit)) a x) b y := if_pos hv
  have sorted {u : State} (hu : Inv u) := ((inv_iff u).1 hu).regs
  rw [ht]
  refine ⟨?_, ?_, rget_rset_self _ _ (sorted ((h.rset ..).rset ..))⟩
  · rw [rget_rset_ne _ _ hb, rget_rset_ne _ _ ha, rget_rset_self _ _ (sorted h)]
  · rw [rget_rset_ne _ _ hab, rget_rset_self _ _ (sorted (h.rset ..))]

section
variable (s : State) (port : Fin 2) (tx : Bool) (id : BitVec 16)

theorem stampTaken_held (hv : rget s (blkPL.reg ((if tx then 0x098 else 0x088) + 8)) &&& validBit ≠ 0) :
    (stampTaken s port tx id).regs = s.regs := by
  rw [stampTaken, logCapture_held (s := s.takeFree) _ _ hv, State.takeFree_regs]

theorem Inv.rget_stampTaken {s : State} (h : Inv s) : let o := if tx then 0x098 else 0x088
    let t := stampTaken s port tx id
    rget s (blkPL.reg (o + 8)) &&& validBit = 0 → rget t (blkPL.reg o) = (stampOf s tx).setWidth 32 ∧
      rget t (blkPL.reg (o + 4)) = (stampOf s tx >>> 32).setWidth 32 ∧ (field (rget t (blkPL.reg (o + 8))) 0 16 : BitVec 16) = id := by
  intro o t hv
  obtain ⟨hlog, hlo, hhi⟩ := h.takeFree.rget_logCapture_pair (fields 32 [(16, id.toNat), (1, port.val)]) ((stampOf s tx).setWidth 32)
    ((stampOf s tx >>> 32).setWidth 32) hv (blkPL.reg_ne (by omega : o + 8 ≠ o)) (blkPL.reg_ne (by omega : o + 8 ≠ o + 4))
    (blkPL.reg_ne (by omega : o ≠ o + 4))
  refine ⟨hlo, hhi, ?_⟩
  have hfield : (field (fields 32 [(16, id.toNat), (1, port.val)]) 0 16 : BitVec 16) = id := by
    refine BitVec.eq_of_toNat_eq ?_
    rw [toNat_field_fields (by decide), Nat.mod_eq_of_lt id.isLt]
  have hvalid : (field validBit 0 16 : BitVec 16) = 0 := by decide
  rw [show rget t (blkPL.reg (o + 8)) = _ from hlog, field, BitVec.extractLsb'_or]
  exact (congrArg₂ (· ||| ·) hfield hvalid).trans (BitVec.or_zero)

theorem execPtpEventMessage_of_live {domain : Byte} (hon : pilotOn s = true) (hlive : portLive s port = true)
    (hclock : tx = true → s.pl.ptp.isSome = true) : execPtpEventMessage port tx domain id s = .next { stampTaken s port tx id with
      pl := { s.pl with ptpSlave := s.pl.ptpSlave || (!tx && s.pl.ptp.any fun p => p.domain == domain) } } := by
  have hskip : (!pilotOn s || !portLive s port || (tx && s.pl.ptp.isNone)) = false := by
    rw [hon, hlive]
    cases tx
    · rfl
    · simpa using hclock rfl
  simp only [execPtpEventMessage, hskip, Bool.false_eq_true, if_false, logCapture_pl, State.takeFree_pl]
  rfl

end

/-! ## Ports (R363) -/

theorem portLink_setPort (s : State) (p : Fin 2) (up : Bool) :
    portLink (setPort s p up) p = up ∧ portLink (setPort s p up) (1 - p) = portLink s (1 - p) := by
  match p with
  | 0 => exact ⟨rfl, rfl⟩
  | 1 => exact ⟨rfl, rfl⟩

end Sys2Proof.Machine
end

section
/-! Pilot datagrams, sessions and events (R363–R374, R377–R383). -/

namespace Sys2Proof.Claims

open Sys2Proof Sys2Proof.Machine

/-- Settles O45: each command by the branch that its premises choose; what sending a datagram leaves is `SentFrame`, whichever way the
datagram goes. -/
theorem pilotDatagrams : Obligations.PilotDatagrams := by
  refine ⟨?_, ?_, ?_, ?_, ?_, ?_, ?_, ?_, ?_, ?_⟩
  · intro port f seq tag s hon hlive hseq
    refine ⟨fun hbad => ?_, fun ht hhost htodo => ?_⟩
    · show execOpenSession port f seq tag s = _
      rw [execOpenSession_eq hseq, execPilotDatagram_of_bad hon hlive (by rw [frameGood, hbad, Bool.false_and])]
    · let v := opening s (.port port) seq tag
      have hsent := sentFrame_pilotSend v (openReply v tag)
      refine ⟨_, nextDgram v (openReply v tag), execOpenSession_of_taken hon hlive hseq ht htodo, ?_⟩
      rw [sessionOpened_pl]
      exact ⟨rfl, rfl, rfl, rfl, rfl, rfl, rfl, rfl, rfl, ⟨_, rfl⟩, hsent.mem, hsent.boll, hsent.launch⟩
  · intro port f d s hon hlive
    refine ⟨execPilotDatagram_of_bad hon hlive, fun hgood hdev hdir hopen => ?_⟩
    intro u
    have hrun : exec (.pilotDatagram port f d) s = .next (deliver s (.port port) d) := by
      rw [← dispatch_of_own _ hdev hdir]
      exact execPilotDatagram_of_good hon hlive hgood
    rw [hrun]
    refine ⟨fun hno => ?_, fun hopened hsession hseq => ⟨fun hnext => ?_, fun hother => ?_⟩, fun hopened hsession hseq => ?_⟩
    · rw [deliver_of_no_session _ hopen hno]
    · simp only [deliver_of_session _ hopen hopened hsession, if_neg hseq, if_pos hnext]
      rfl
    · simp only [deliver_of_session _ hopen hopened hsession, if_neg hseq, if_neg hother]
      rfl
    · simp only [deliver_of_session _ hopen hopened hsession, if_pos hseq]
      rfl
  · intro s port f ht
    obtain ⟨hmac, htags, htag, hlen, hplain, hdst, hsrc, hport, hmagic, hresv⟩ := frameTaken_iff.1 ht
    obtain ⟨hsum, hv4, hv6⟩ := dstGood_iff.1 hdst
    exact ⟨hmac, htags, fun t h => tagGood_iff.1 (htag t h), hlen, hplain, hsum, hv4, hv6, srcGood_locked hsrc, hport, hmagic, hresv⟩
  · intro s port f d hgood
    obtain ⟨ht, hdir, hlen, hcount, hwords⟩ := frameGood_iff.1 hgood
    exact ⟨ht, hlen, hcount, hwords, fun hpeer => hdir.resolve_left (by rw [hpeer]; decide)⟩
  · intro port f d s hon hlive hdev
    have hrun : exec (.pilotRelay port f d) s = execPilotDatagram port f d s := if_neg (by simpa using hdev)
    rw [hrun]
    refine ⟨execPilotDatagram_of_bad hon hlive, fun hgood hdir hbridge hgroup => ?_⟩
    rw [execPilotDatagram_of_good hon hlive hgood, dispatch_relayed hdev hdir hbridge hgroup]
    rfl
  · intro l h payload check s p hg hr
    exact ⟨execPilot_other hg hr, execPilot_own hg hr⟩
  · intro s hon ho
    have hsent := sentFrame_pilotAck s
    exact ⟨_, execPilotAckSend_of_owed hon ho, hsent.pl, hsent.mem, hsent.events⟩
  · intro s hon hsome hdue
    have hsent := sentFrame_resent s
    refine ⟨_, execPilotRetransmit_of_due hon hsome hdue, hsent.pl, hsent.mem, hsent.events, ?_⟩
    rw [hsent.hub _ (by decide) (by decide)]
    exact rget_cntAdd_of_reset _ regReset_plCounters.1 (List.length_pos_iff.2 hsome)
  · intro s pre post e hon hopened hroom hs hpre he
    let u := eventMarked s e (pre ++ { e with sent := true, told := true } :: post)
    have hsent := sentFrame_pilotSend u [eventMsg e]
    have hpl : u.pl = s.pl := eventMarked_pl ..
    refine ⟨_, execEventSend_of_first hon hopened hroom hs hpre he, hsent.events, ?_, ⟨nextDgram u [eventMsg e], ?_, rfl⟩,
      hsent.mem.trans (eventCounted_frame s e).mem⟩
    · rw [hsent.pl, ← hpl]
      rfl
    · rw [hsent.pl, ← hpl]
      rfl
  · intro port s
    refine ⟨fun hon hlive => ⟨execArpRequest_of_live hon hlive, fun ip hip6 => execNeighborSolicitation_of_live hon hlive hip6 ip,
      fun domain id hclock => ?_, fun tx domain id hclock => ?_⟩, rfl, fun hup => ?_, portLink_setPort s port⟩
    · show execPtpEventMessage port true domain id s = _
      simp only [execPtpEventMessage, hclock, Option.isNone_none, Bool.and_self, Bool.or_true, if_true]
    · intro o
      refine ⟨_, execPtpEventMessage_of_live s port tx id hon hlive hclock, rfl, logCapture_mem .., logCapture_tide ..,
        stampTaken_held s port tx id, fun hinv hv => ⟨stampOf s tx, ?_, hinv.rget_stampTaken port tx id hv⟩⟩
      exact stampOf_near s tx
    · exact congrArg Host.Outcome.next (if_pos hup)

end Sys2Proof.Claims
end

section
/-! Messages of the pilot: registers, memory and launches (R125, R368, R372–R376). -/

namespace Sys2Proof.Machine

/-! ## Messages as commands give them -/

def regWriteMsg (tag : Word) (addr : Dword) (words : List Word) : PMsg :=
  { ty := 1, flags := 0, tag := tag, addr := addr, body := words.flatMap fun w => natToBytes 4 w.toNat }
def regReadMsg (tag : Word) (addr : Dword) (count : Word) : PMsg :=
  { ty := 2, flags := 0, tag := tag, addr := addr, body := natToBytes 4 count.toNat }
def memWriteMsg (tag : Word) (addr : Dword) (data : List Byte) : PMsg := { ty := 3, flags := 0, tag := tag, addr := addr, body := data }
def memReadMsg (tag : Word) (addr : Dword) (count : Word) : PMsg :=
  { ty := 4, flags := 0, tag := tag, addr := addr, body := natToBytes 4 count.toNat }
def tideWriteMsg (tag : Word) (entry : BitVec 256) : PMsg := { ty := 5, flags := 0, tag := tag, addr := 0, body := natToBytes 32 entry.toNat }

theorem ofNat_bytesToNat_natToBytes {w : Nat} (n : Nat) (h : w = 8 * n) (x : BitVec w) :
    BitVec.ofNat w (bytesToNat (natToBytes n x.toNat)) = x := by
  have hlt : x.toNat < 256 ^ n := by
    rw [show (256 : Nat) = 2 ^ 8 from rfl, ← Nat.pow_mul, ← h]
    exact x.isLt
  rw [bytesToNat_natToBytes, Nat.mod_eq_of_lt hlt, BitVec.ofNat_toNat, BitVec.setWidth_eq]

/-- The words of a body are those that were put into it. -/
theorem bodyWords_flatMap (words : List Word) : bodyWords (words.flatMap fun w => natToBytes 4 w.toNat) = words := by
  induction words with
  | nil => rfl
  | cons w r ih =>
    rw [List.flatMap_cons]
    show BitVec.ofNat 32 (bytesToNat (natToBytes 4 w.toNat)) :: bodyWords (r.flatMap fun w => natToBytes 4 w.toNat) = _
    rw [ofNat_bytesToNat_natToBytes 4 rfl w, ih]

theorem length_flatMap_words (words : List Word) : (words.flatMap fun w => natToBytes 4 w.toNat).length = 4 * words.length := by
  induction words with
  | nil => rfl
  | cons w r ih => rw [List.flatMap_cons, List.length_append, natToBytes_length, ih, List.length_cons, Nat.mul_succ, Nat.add_comm]

theorem countOf_natToBytes {m : PMsg} {count : Word} (h : m.body = natToBytes 4 count.toNat) : countOf m = some count.toNat := by
  rw [countOf, h, natToBytes_length, if_pos rfl, bytesToNat_natToBytes, Nat.mod_eq_of_lt (show count.toNat < 256 ^ 4 from count.isLt)]

theorem addrReserved_of_lt {m : PMsg} (h : m.addr.toNat < 2 ^ 52) : addrReserved m = false := by
  have hfield : (field m.addr 52 12 : BitVec 12) = 0 := by
    refine BitVec.eq_of_toNat_eq ?_
    rw [field, BitVec.extractLsb'_toNat, Nat.shiftRight_eq_div_pow, Nat.div_eq_of_lt h]
    rfl
  rw [addrReserved, hfield]
  rfl

/-- A count within its limits, good flags and an address of 52 bits: no operand is refused. -/
theorem operands_fit {m : PMsg} {n limit : Nat} {badFlags : Prop} (hlo : 1 ≤ n) (hhi : n ≤ limit) (hflags : ¬ badFlags)
    (ha : m.addr.toNat < 2 ^ 52) : ¬ (n = 0 ∨ limit < n ∨ badFlags ∨ addrReserved m = true) := by
  rintro (h | h | h | h)
  · omega
  · omega
  · exact hflags h
  · exact Bool.false_ne_true ((addrReserved_of_lt ha).symm.trans h)

/-! ## Each message where nothing refuses it -/

section
variable {s : State} {tag : Word} {addr : Dword} (ha : addr.toNat < 2 ^ 52)
include ha

theorem runMsg_regWrite {words : List Word} (hne : words ≠ []) (hlen : words.length ≤ 64) (hin : regAstray addr.toNat words.length = false)
    (hro : ∀ i < words.length, readOnly s (regOff (regWriteMsg tag addr words) i) = false) :
    runMsg s (regWriteMsg tag addr words) = msgDone (putWords s (regWriteMsg tag addr words) 0 words) := by
  let m := regWriteMsg tag addr words
  have hwords : bodyWords m.body = words := bodyWords_flatMap words
  have hbody : m.body.length % 4 = 0 := by rw [show m.body.length = _ from length_flatMap_words words, Nat.mul_mod_right]
  have hshape : ¬ (m.body.length % 4 ≠ 0 ∨ words.length = 0 ∨ 64 < words.length ∨ 1 < m.flags.toNat ∨ addrReserved m = true) :=
    not_or.2 ⟨not_not.2 hbody, operands_fit (List.length_pos_iff.2 hne) hlen (by decide : ¬ 1 < (0 : Byte).toNat) ha⟩
  have hflag : (0 : Byte).getLsbD 0 = false := by decide
  have hwritable : ¬ ((List.range words.length).any fun i => readOnly s (regOff m i)) = true := by
    simpa only [List.any_eq_true, List.mem_range, not_exists, not_and, Bool.not_eq_true] using hro
  show msgRegWrite s m = _
  simp only [msgRegWrite, hwords, if_neg hshape, show regAstray (msgAddr m) words.length = false from hin, if_neg hwritable,
    show m.flags.getLsbD 0 = false from hflag, Bool.false_eq_true, if_false]
  rfl

section
variable (hroom : keepRoom s = true)
include hroom

theorem runMsg_regRead {count : Word} (hlo : 1 ≤ count.toNat) (hhi : count.toNat ≤ 64) (hin : regAstray addr.toNat count.toNat = false) :
    let m := regReadMsg tag addr count
    let r := getWords s m 0 count.toNat
    runMsg s m = msgDone (reply r.1 0x82 m (r.2.flatMap fun w => natToBytes 4 w.toNat)) := by
  intro m r
  have hshape : ¬ (count.toNat = 0 ∨ 64 < count.toNat ∨ m.flags ≠ 0 ∨ addrReserved m = true) :=
    operands_fit hlo hhi (not_not.2 rfl) ha
  show msgRegRead s m = _
  simp only [msgRegRead, countOf_natToBytes (m := m) rfl, if_neg hshape, show regAstray (msgAddr m) count.toNat = false from hin,
    Bool.false_eq_true, if_false, answering_of_room hroom]
  rfl

theorem runMsg_memRead {count : Word} (hlo : 1 ≤ count.toNat) (hhi : count.toNat ≤ maxRead s) (hal : addr.toNat % 256 = 0)
    (hcode : memCode s addr.toNat (256 * count.toNat) false = 0) (hreach : pilotReaches s addr.toNat = true)
    (hguest : isGuest s addr.toNat = false) :
    let m := memReadMsg tag addr count
    let r := pilotReads s addr.toNat count.toNat
    runMsg s m = msgDone (memData r.1 m r.2) := by
  intro m r
  have hshape : ¬ (count.toNat = 0 ∨ maxRead s < count.toNat ∨ m.flags ≠ 0 ∨ addrReserved m = true) :=
    operands_fit hlo hhi (not_not.2 rfl) ha
  have haddr : msgAddr m = addr.toNat := rfl
  show msgMemRead s m = _
  simp only [msgMemRead, countOf_natToBytes (m := m) rfl, if_neg hshape, haddr, hal, hcode, hreach, hguest, ne_eq, not_true_eq_false,
    Bool.not_true, Bool.false_eq_true, if_false, answering_of_room hroom]
  rfl

end

theorem runMsg_memWrite {data : List Byte} (hne : data ≠ []) (hal4 : data.length % 4 = 0) (hlen : data.length ≤ maxWrite s)
    (hal : addr.toNat % 4 = 0) (hcode : memCode s addr.toNat data.length true = 0) (hchart : hitsChart s addr.toNat data.length = false)
    (hreach : pilotReaches s addr.toNat = true) :
    runMsg s (memWriteMsg tag addr data) = msgDone (pilotWrites s (memWriteMsg tag addr data) addr.toNat data 34) := by
  let m := memWriteMsg tag addr data
  have hshape : ¬ (data.length % 4 ≠ 0 ∨ data.length = 0 ∨ maxWrite s < data.length ∨ m.flags ≠ 0 ∨ addrReserved m = true) :=
    not_or.2 ⟨not_not.2 hal4, operands_fit (List.length_pos_iff.2 hne) hlen (not_not.2 rfl) ha⟩
  have haddr : msgAddr m = addr.toNat := rfl
  have hbody : m.body = data := rfl
  show msgMemWrite s m = _
  simp only [msgMemWrite, hbody, if_neg hshape, haddr, hal, hcode, hchart, hreach, ne_eq, not_true_eq_false, Bool.not_true,
    Bool.false_eq_true, if_false]
  rfl

end

/-! ## Launch submissions (R125) -/

section
variable {s : State} {entry : BitVec 256}

theorem runMsg_tideWrite {tag : Word} (hroom : keepRoom s = true) :
    let m := tideWriteMsg tag entry
    let r := submit s entry
    runMsg s m = msgDone (reply r.1 0x85 m ([BitVec.ofNat 8 r.2.1, 0] ++ natToBytes 2 r.2.2)) := by
  intro m r
  have hshape : ¬ (m.body.length ≠ 32 ∨ m.flags ≠ 0 ∨ m.addr ≠ 0) := by
    rintro (h | h | h)
    · exact h (natToBytes_length ..)
    · exact h rfl
    · exact h rfl
  have hentry : BitVec.ofNat 256 (bytesToNat m.body) = entry := ofNat_bytesToNat_natToBytes 32 rfl entry
  show msgTideWrite s m = _
  simp only [msgTideWrite, if_neg hshape, hentry, answering_of_room hroom]
  rfl

theorem submit_of_accepted (h : submitCode s (entryOf entry) = 0) : submit s entry =
    (entrySet s (lowestFree s.launch.table 0) (entryOf entry), 0, lowestFree s.launch.table 0) := by
  simp only [submit, h]

/-- A submission that is refused answers its code, and only a counter changes. -/
theorem submit_of_refused (h : submitCode s (entryOf entry) ≠ 0) :
    (submit s entry).2.1 = submitCode s (entryOf entry) ∧ (submit s entry).1.launch = s.launch := by
  unfold submit
  dsimp only
  split
  · contradiction
  · next h1 => exact ⟨h1.symm, rfl⟩
  · exact ⟨rfl, rfl⟩

end

/-! ## A session's only message -/

section
variable {s t : State} {m : PMsg} (hon : pilotOn s = true) (hopened : s.pl.opened = true) (htodo : s.pl.todo = []) (hlate : s.pl.late = [])
  (hread : s.pl.gread = []) (hwrite : s.pl.gwrite = 0)
include hon hopened htodo

theorem takeMsg_eq : takeMsg s m = pump (setTodo s [m]) := by
  rw [takeMsg, hon, hopened, htodo]
  rfl

include hlate

theorem takeMsg_of_gap (hgap : inGap s = true) (hreg : m.ty = 1 ∨ m.ty = 2) : takeMsg s m = setTodo s [m] := by
  have hapart : runsApart m = false := by rcases hreg with h | h <;> rw [runsApart, h] <;> rfl
  have hmay : mayStart (setTodo s [m]) m = false := by
    have hg : inGap (setTodo s [m]) = true := hgap
    rcases hreg with h | h <;> simp [mayStart, hg, h]
  rw [takeMsg_eq hon hopened htodo]
  exact pump_of_not_mayStart hlate rfl hon hapart hmay

include hread hwrite

theorem takeMsg_of_done (hapart : runsApart m = false) (hgap : (inGap s && (m.ty == 0x01 || m.ty == 0x02)) = false)
    (hrun : runMsg (setTodo s [m]) m = msgDone t) : takeMsg s m = setTodo t [] := by
  have hmay : mayStart (setTodo s [m]) m = true := by
    have hr : (setTodo s [m]).pl.gread = [] := hread
    have hw : (setTodo s [m]).pl.gwrite = 0 := hwrite
    have hg : (inGap (setTodo s [m]) && (m.ty == 0x01 || m.ty == 0x02)) = false := hgap
    simp only [mayStart, hr, hw, hg, List.isEmpty_nil, beq_self_eq_true, Bool.or_true, Bool.not_false, Bool.and_self]
  rw [takeMsg_eq hon hopened htodo]
  exact pump_of_done hlate rfl hon hapart hmay hrun

end

/-! ## A whole parcel of base-die SRAM (R376) -/

section
variable {s : State} {m : PMsg} {a q o : Nat} {data : List Byte} (hh : homeOf a = some (.base q o))
include hh

theorem regsOnly_countPilot : RegsOnly s (countPilot s a) := by
  simp only [countPilot, home_of_homeOf_base hh]
  exact regsOnly_countWay ..

theorem pilotWrite_of_whole (ha : a % 256 = 0) (hlen : data.length = 256) : pilotWrite s m a data =
    writeParcel (countPilot s a) a .pilot ⟨Parcel.ofBytes data, parcelCheck (Parcel.ofBytes data), false⟩ 0 := by
  have hg : isGuest (countPilot s a) a = false := isGuest_base hh _
  simp only [pilotWrite, hg, hlen, parcelBase_of_aligned ha, Bool.false_eq_true, if_false, if_true]

end

end Sys2Proof.Machine
end

section
/-! The messages of the pilot (R125, R368, R373, R375, R376, R394). -/

namespace Sys2Proof.Claims

open Sys2Proof Sys2Proof.Machine

/-- Settles O46: a session's only message waits in a gap or runs at once, and a whole parcel is written as `writeParcel` writes it. -/
theorem pilotMessages : Obligations.PilotMessages := by
  refine ⟨?_, ?_⟩
  · intro tag addr s hon hopened htodo hlate hread hwrite ha hroom
    have done {m : PMsg} {t : State} := takeMsg_of_done (m := m) (t := t) hon hopened htodo hlate hread hwrite
    refine ⟨?_, ?_, ?_, ?_, ?_, ?_⟩
    · intro words hgap
      have hwaits := takeMsg_of_gap (m := regWriteMsg tag addr words) hon hopened htodo hlate hgap (.inl rfl)
      exact congrArg Host.Outcome.next hwaits
    · intro words hgap hne hlen hin m hro
      have hrun := runMsg_regWrite (s := setTodo s [m]) (tag := tag) ha hne hlen hin hro
      exact congrArg Host.Outcome.next (done rfl (by rw [hgap, Bool.false_and]) hrun)
    · intro count hgap hlo hhi hin m r
      have hrun := runMsg_regRead (s := setTodo s [m]) (tag := tag) ha hroom hlo hhi hin
      exact congrArg Host.Outcome.next (done rfl (by rw [hgap, Bool.false_and]) hrun)
    · intro data hne hal4 hlen hal hcode hchart hreach m
      have hrun := runMsg_memWrite (s := setTodo s [m]) (tag := tag) ha hne hal4 hlen hal hcode hchart hreach
      exact congrArg Host.Outcome.next (done rfl (Bool.and_false _) hrun)
    · intro count hlo hhi hal hcode hreach hguest m r
      have hrun := runMsg_memRead (s := setTodo s [m]) (tag := tag) ha hroom hlo hhi hal hcode hreach hguest
      exact congrArg Host.Outcome.next (done rfl (Bool.and_false _) hrun)
    · intro entry m r
      have hrun := runMsg_tideWrite (s := setTodo s [m]) (entry := entry) (tag := tag) hroom
      refine ⟨congrArg Host.Outcome.next (done rfl (Bool.and_false _) hrun), fun hok => ?_, fun hbad => ?_⟩
      · have hr : r = _ := submit_of_accepted (s := setTodo s [m]) hok
        rw [hr]
        exact ⟨rfl, rfl, rfl⟩
      · exact submit_of_refused (s := setTodo s [m]) hbad
  · intro s m q off data hq hoff hal hlen hinv _ _ _ a t
    have hh : homeOf a = some (.base q off) := homeOf_baseSram hq hoff
    have ha : a % 256 = 0 := baseSram_aligned q hal
    have hcount : RegsOnly s (countPilot s a) := regsOnly_countPilot hh
    have ht : t = writeParcel (countPilot s a) a .pilot ⟨Parcel.ofBytes data, parcelCheck (Parcel.ofBytes data), false⟩ 0 :=
      pilotWrite_of_whole hh ha hlen
    obtain ⟨hmem, hboll, hlaunch, -⟩ := parcelStored_writeParcel (countPilot s a) hh ha .pilot
      ⟨Parcel.ofBytes data, parcelCheck (Parcel.ofBytes data), false⟩ 0
    rw [hcount.mem] at hmem
    rw [ht]
    refine ⟨hmem.parcel_eq hinv.memOk, fun j hj => hmem.read_ne hj, ?_, hlaunch.trans hcount.launch, ?_⟩
    · rw [hboll, hcount.eq]
    · rw [cores_writeParcel_base hh, hcount.eq]

end Sys2Proof.Claims
end

section
/-! What every command and every tick keeps: the queue, and the invariant. -/

namespace Sys2Proof.Machine
set_option Elab.async false

/-- What leads from `s₀` to `s` keeps the queue, and the invariant where it holds. The State functions and the commands of the model
each have a lemma named after them: from `hk : Keeps s₀ s`, `hk.f x` is `Keeps s₀ (f s x)`, and `hk.execF x` is
`Runs s₀ (execF x s)`. -/
structure Keeps (s₀ s : State) : Prop where
  queue : s.pending = s₀.pending
  inv : Inv s₀ → Inv s

/-- A command answers a next state that keeps the queue and the invariant. -/
def Runs (s₀ : State) (o : Result) : Prop := ∃ t, o = .next t ∧ Keeps s₀ t

theorem Keeps.refl (s : State) : Keeps s s := ⟨rfl, id⟩

section
variable {s₀ s : State} (hk : Keeps s₀ s)
include hk

theorem Keeps.lift {t : State} (hq : t.pending = s.pending) (hi : Inv s → Inv t) : Keeps s₀ t :=
  ⟨hq.trans hk.queue, fun h => hi (hk.inv h)⟩

theorem Keeps.next : Runs s₀ (.next s) := ⟨s, rfl, hk⟩

theorem Keeps.ite {c : Prop} [Decidable c] {t : State} (ht : Keeps s₀ t) : Keeps s₀ (if c then t else s) := by
  split
  · exact ht
  · exact hk

/-- The tables that the invariant speaks of. -/
def State.checked (s : State) :=
  (s.regs.words, s.cores, s.mem, s.elog, s.events, s.berth.table, s.launch.table, s.launch.run, s.boll.val, s.oe, s.nor.copy,
    (s.jtag.ir, s.jtag.cells, s.jtag.results), s.links)

/-- A change beside the queue and the tables of the invariant. -/
theorem Keeps.same {t : State} (hq : t.pending = s.pending := by rfl) (hc : t.checked = s.checked := by rfl) : Keeps s₀ t := by
  refine hk.lift hq fun h => (inv_iff t).2 ?_
  have p := (inv_iff s).1 h
  simp only [State.checked, Prod.mk.injEq] at hc
  obtain ⟨h1, h2, h3, h4, h5, h6, h7, h8, h9, h10, h11, ⟨h12, h13, h14⟩, h15⟩ := hc
  constructor
  · rw [h1]; exact p.regs
  · rw [h2]; exact p.cores
  · rw [h3]; exact p.mem
  · rw [h4]; exact p.elog
  · rw [h5]; exact p.events
  · rw [h6]; exact p.berth
  · rw [h7, h8]; exact p.launch
  · rw [h9]; exact p.boll
  · rw [h10]; exact p.oe
  · rw [h11]; exact p.nor
  · rw [h12, h13, h14]; exact p.jtag
  · rw [h15]; exact p.links

theorem Keeps.setMem {m : MemSt} (hm : Inv s₀ → m.ok) : Keeps s₀ (s.setMem m) :=
  ⟨hk.queue, fun h => (hk.inv h).setMem (hm h)⟩

/-- A register command's write: dropped at a BUSY block, and accepted at another. -/
theorem Keeps.softWrite (b : Blk) {f : State → Result} (hf : ∀ t, Keeps s₀ t → Runs s₀ (f t)) : Runs s₀ (softWrite s b f) := by
  unfold Machine.softWrite
  split
  · exact Keeps.next (hk.lift (dropWrite_pending ..) fun hs => hs.dropWrite ..)
  · exact hf _ (hk.lift (acceptWrite_pending ..) fun hs => hs.acceptWrite ..)

theorem Keeps.linkSet (k : Nat) {x : LinkSt} (hx : Inv s₀ → x.canonical = true) : Keeps s₀ (linkSet s k x) :=
  ⟨hk.queue, fun h => (hk.inv h).linkSet k (hx h)⟩

/-- An endpoint that is set keeps the lane and SENT tables of one of a state before. -/
theorem Keeps.linkPut {u : State} (hu : Keeps s₀ u) (k : Nat) {j : Nat} {x : LinkSt} (hl : x.lane = (linkGet u j).lane := by rfl)
    (hs : x.sent = (linkGet u j).sent := by rfl) : Keeps s₀ (Machine.linkSet s k x) :=
  hk.linkSet k fun h => by
    have := (hu.inv h).linkOk j
    unfold LinkSt.canonical at *
    rw [hl, hs]; exact this

theorem Keeps.linkKeep (k : Nat) (f : LinkSt → LinkSt)
    (hf : ∀ x, (f x).lane = x.lane ∧ (f x).sent = x.sent := by intro _; (repeat' split) <;> exact ⟨rfl, rfl⟩) :
    Keeps s₀ (Machine.linkMod s k f) := hk.lift rfl fun hs => hs.linkKeep k f hf

theorem Keeps.linkMod (k : Nat) {f : LinkSt → LinkSt} (hf : ∀ x : LinkSt, x.canonical = true → (f x).canonical = true) :
    Keeps s₀ (linkMod s k f) := hk.lift rfl fun hs => hs.linkMod k hf

theorem Keeps.coreSet (c : CoreId) {k : CoreSt} (hc : Inv s₀ → k.canonical = true) : Keeps s₀ (coreSet s c k) :=
  ⟨hk.queue, fun h => (hk.inv h).coreSet c (hc h)⟩

/-- A core that is set keeps the register tables of one of a state before. -/
theorem Keeps.corePut {u : State} (hu : Keeps s₀ u) (c : CoreId) {j : CoreId} {k : CoreSt} (h1 : k.sreg = (coreGet u j).sreg := by rfl)
    (h2 : k.vreg = (coreGet u j).vreg := by rfl) (h3 : k.acc = (coreGet u j).acc := by rfl) : Keeps s₀ (Machine.coreSet s c k) :=
  hk.coreSet c fun h => by
    have := (hu.inv h).coreOk j
    unfold CoreSt.canonical at *
    rw [h1, h2, h3]; exact this

theorem Keeps.coreKeep (c : CoreId) (f : CoreSt → CoreSt)
    (hf : ∀ k, (f k).sreg = k.sreg ∧ (f k).vreg = k.vreg ∧ (f k).acc = k.acc := by
      intro _; (repeat' split) <;> exact ⟨rfl, rfl, rfl⟩) : Keeps s₀ (Machine.coreMod s c f) :=
  hk.lift rfl fun hs => hs.coreKeep c f hf

theorem Keeps.coreMod (c : CoreId) {f : CoreSt → CoreSt} (hf : ∀ k : CoreSt, k.canonical = true → (f k).canonical = true) :
    Keeps s₀ (coreMod s c f) := hk.lift rfl fun hs => hs.coreMod c hf

omit hk

theorem Keeps.iteRuns {c : Prop} [Decidable c] {a b : Result} (ha : Runs s₀ a) (hb : Runs s₀ b) : Runs s₀ (if c then a else b) := by
  split
  · exact ha
  · exact hb

theorem Keeps.foldl {α : Type} {f : State → α → State} (hf : ∀ (t : State) (x : α), Keeps s₀ t → Keeps s₀ (f t x)) (l : List α)
    {s : State} (hk : Keeps s₀ s) : Keeps s₀ (l.foldl f s) := by
  induction l generalizing s with
  | nil => exact hk
  | cons x l ih => exact ih (hf s x hk)

end

theorem Keeps.fst {s₀ t : State} {α : Type} {x : State × α} {y : α} (h : Keeps s₀ x.1) (e : x = (t, y)) : Keeps s₀ t := by
  rw [e] at h; exact h

end Sys2Proof.Machine
end

section
/-! What is kept: operations, and the rules of the shared state. -/

namespace Sys2Proof.Machine
set_option Elab.async false

section
variable {s₀ s : State} (hk : Keeps s₀ s)
include hk

/-! ## Operations -/

theorem Keeps.takeFree : Keeps s₀ (State.takeFree s) := hk.same

theorem Keeps.emit (o : Output) : Keeps s₀ (State.emit s o) := hk.same

theorem Keeps.rset (off : Nat) (v : Word) : Keeps s₀ (rset s off v) := hk.lift (rset_pending ..) fun hs => hs.rset ..

theorem Keeps.rset64 (off : Nat) (v : Dword) : Keeps s₀ (rset64 s off v) := hk.lift (rset64_pending ..) fun hs => hs.rset64 ..

theorem Keeps.cntAdd (off n : Nat) : Keeps s₀ (cntAdd s off n) := hk.lift (cntAdd_pending ..) fun hs => hs.cntAdd ..

theorem Keeps.cntAdd64 (off n : Nat) : Keeps s₀ (cntAdd64 s off n) := hk.lift (cntAdd64_pending ..) fun hs => hs.cntAdd64 ..

theorem Keeps.logCapture (off : Nat) (v : Word) (companions : List (Nat × Word)) : Keeps s₀ (logCapture s off v companions) :=
  hk.lift (logCapture_pending ..) fun hs => hs.logCapture ..

theorem Keeps.logCapture64 (off : Nat) (lo hi : Word) : Keeps s₀ (logCapture64 s off lo hi) :=
  hk.lift (logCapture64_pending ..) fun hs => hs.logCapture64 ..

theorem Keeps.errCount (b : Blk) : Keeps s₀ (errCount s b) := hk.lift (errCount_pending ..) fun hs => hs.errCount ..

theorem Keeps.setBusy (b : Blk) (on : Bool) : Keeps s₀ (setBusy s b on) := hk.lift (setBusy_pending ..) fun hs => hs.setBusy ..

theorem Keeps.dropWrite (b : Blk) : Keeps s₀ (dropWrite s b) := hk.lift (dropWrite_pending ..) fun hs => hs.dropWrite ..

theorem Keeps.acceptWrite (b : Blk) : Keeps s₀ (acceptWrite s b) := hk.lift (acceptWrite_pending ..) fun hs => hs.acceptWrite ..

theorem Keeps.sendEvent (cls : Nat) (data : BitVec 256) : Keeps s₀ (sendEvent s cls data) :=
  hk.lift (sendEvent_pending ..) fun hs => hs.sendEvent ..

theorem Keeps.logRecordEv (event : Bool) (kind slot unit detail addr tag : Nat) :
    Keeps s₀ (logRecordEv s event kind slot unit detail addr tag) :=
  hk.lift (logRecordEv_pending ..) fun hs => hs.logRecordEv ..

theorem Keeps.logRecord (kind slot unit detail addr tag : Nat) : Keeps s₀ (logRecord s kind slot unit detail addr tag) :=
  hk.lift (logRecord_pending ..) fun hs => hs.logRecord ..

theorem Keeps.sramSample (slot : Nat) : Keeps s₀ (sramSample s slot) := (hk.same.logRecord ..).ite hk

theorem Keeps.sramCorrected (a : Nat) (who : SramReader) : Keeps s₀ (sramCorrected s a who) := by
  unfold Machine.sramCorrected
  extract_lets _ s2 s3 _
  have hs2 : Keeps s₀ s2 := by
    dsimp only [s2]
    split
    · exact hk.cntAdd ..
    · exact hk
  have hs3 : Keeps s₀ s3 := (hs2.ite (hs2.cntAdd ..)).sramSample ..
  exact hs3.same

theorem Keeps.sramUncorrectable (a : Nat) (who : SramReader) (side : Bool) : Keeps s₀ (sramUncorrectable s a who side) := by
  unfold Machine.sramUncorrectable
  extract_lets _ s2 s3
  have hs2 : Keeps s₀ s2 := by
    dsimp only [s2]
    split
    · exact hk.cntAdd ..
    · exact hk
  have hs3 : Keeps s₀ s3 := hs2.ite (hs2.cntAdd ..)
  exact hs3.logRecord ..

theorem Keeps.sramFixWord (a : Nat) (who : SramReader) : Keeps s₀ (sramFixWord s a who) := by
  refine hk.lift ?_ fun hs => hs.sramFixWord a who
  unfold Machine.sramFixWord
  dsimp only
  split
  · rfl
  split
  · exact ((Keeps.refl _).sramCorrected ..).queue
  · exact ((Keeps.refl _).sramUncorrectable ..).queue

theorem Keeps.sideFix (a : Nat) (who : SramReader) : Keeps s₀ (sideFix s a who) := by
  refine hk.lift ?_ fun hs => hs.sideFix a who
  unfold Machine.sideFix
  split
  · exact ((Keeps.refl _).sramUncorrectable ..).queue
  split
  · rfl
  · exact ((Keeps.refl _).sramCorrected ..).queue

theorem Keeps.sramWords (a : Nat) (who : SramReader) (n : Nat) : Keeps s₀ (sramWords s a who n) := by
  induction n generalizing s a with
  | zero => exact hk
  | succ n ih => exact ih ((hk.ite (hk.sideFix a who)).sramFixWord ..) _

theorem Keeps.sramFix (a : Nat) (who : SramReader) (n : Nat) : Keeps s₀ (sramFix s a who n) := (hk.sideFix ..).sramWords ..

theorem Keeps.sramWritten (a n : Nat) : Keeps s₀ (sramWritten s a n) := by
  refine hk.lift ?_ fun hs => hs.sramWritten a n
  unfold Machine.sramWritten
  dsimp only
  split
  · exact rset_pending ..
  · rfl

theorem Keeps.parcelWritten (a : Nat) : Keeps s₀ (parcelWritten s a) :=
  hk.lift ((Keeps.refl s).sramWritten a 256).queue fun hs => hs.parcelWritten a

theorem Keeps.mcSet (m : Nat) (x : McSt) : Keeps s₀ (mcSet s m x) := hk.lift (mcSet_pending ..) fun hs => hs.mcSet ..

theorem Keeps.dredge (m r : Nat) : Keeps s₀ (dredge s m r) := hk.lift rfl fun hs => hs.dredge m r

theorem Keeps.retiredHit (m off : Nat) (write : Bool) (src : MemSource) (tag : Nat) : Keeps s₀ (retiredHit s m off write src tag) := by
  unfold Machine.retiredHit
  extract_lets _ s2 _
  have hs2 : Keeps s₀ s2 := hk.cntAdd ..
  exact ((hs2.mcSet ..).logRecord ..).ite hs2

theorem Keeps.unwrittenHit (m off : Nat) (src : MemSource) (tag : Nat) : Keeps s₀ (unwrittenHit s m off src tag) := by
  unfold Machine.unwrittenHit
  extract_lets _ s2 s3 _
  have hs2 : Keeps s₀ s2 := hk.cntAdd ..
  have hs3 : Keeps s₀ s3 := hs2.logCapture64 ..
  exact ((hs3.mcSet ..).logRecord ..).ite hs3

theorem Keeps.mcSample (m : Nat) : Keeps s₀ (mcSample s m) := ((hk.mcSet ..).logRecord ..).ite hk

theorem Keeps.mcCorrected (m a : Nat) : Keeps s₀ (mcCorrected s m a) := ((hk.cntAdd ..).mcSample ..).mcSet ..

theorem Keeps.rfm (m : Nat) : Keeps s₀ (rfm s m) := hk.ite (hk.takeFree.cntAdd ..)

theorem Keeps.countCorrected (m a : Nat) (src : MemSource) : Keeps s₀ (countCorrected s m a src) := by
  unfold Machine.countCorrected
  extract_lets s1
  have hs1 : Keeps s₀ s1 := hk.mcCorrected ..
  exact hs1.ite (hs1.cntAdd ..)

theorem Keeps.hbmRead (m off : Nat) (src : MemSource) (tag : Nat) : Keeps s₀ (hbmRead s m off src tag).1 := by
  unfold Machine.hbmRead
  have h1 := hk.cntAdd64 ((blkMC m).reg 0x030) 1
  dsimp only
  split
  · exact h1.retiredHit ..
  split
  · exact h1.unwrittenHit ..
  have h2 := h1.rfm m
  generalize Machine.rfm (Machine.cntAdd64 s ((blkMC m).reg 0x030) 1) m = s2 at *
  have hd (h : Inv s₀) := decodePairs_ok (h2.inv h).memOk (hbmBase m + off / 256 * 256)
  generalize decodePairs s2.mem (hbmBase m + off / 256 * 256) = r at *
  have h3 := Keeps.ite (c := r.2.corrected = true) h2 (h2.countCorrected m (hbmBase m + off / 256 * 256) src)
  generalize (if r.2.corrected = true then Machine.countCorrected s2 m (hbmBase m + off / 256 * 256) src else s2) = s3 at *
  have h4 := Keeps.ite (c := (anyPoison r.1 (hbmBase m + off / 256 * 256) || r.2.marked) = true) h3 (h3.cntAdd ((blkMC m).reg 0x050) 1)
  generalize (if (anyPoison r.1 (hbmBase m + off / 256 * 256) || r.2.marked) = true then Machine.cntAdd s3
    ((blkMC m).reg 0x050) 1 else s3) = s4 at *
  split
  · have h5 := ((h4.setMem fun h => poisonParcel_ok (hd h) (hbmBase m + off / 256 * 256)).cntAdd ((blkMC m).reg 0x04C) 1).logCapture64
      ((blkMC m).reg 0x070) (BitVec.ofNat 32 (hbmBase m + off / 256 * 256)) (BitVec.ofNat 32 ((hbmBase m + off / 256 * 256) / 2 ^ 32))
    exact Keeps.logRecord (Keeps.ite h5 (h5.cntAdd ..)) ..
  · exact h4.setMem hd

theorem Keeps.hbmStore (m off : Nat) (d : PData) : Keeps s₀ (hbmStore s m off d) := by
  refine ⟨?_, fun h => (hk.inv h).hbmStore m off d⟩
  unfold Machine.hbmStore
  have h1 := hk.cntAdd64 ((blkMC m).reg 0x038) 1
  dsimp only
  generalize Machine.cntAdd64 s ((blkMC m).reg 0x038) 1 = s1 at *
  generalize hbmBase m + off = a
  have h2 := Keeps.ite (c := (mcGet s1 m).released (regionOf off) = true) ((h1.dredge m (regionOf off)).cntAdd ((blkMC m).reg 0x020) 1) h1
  generalize (if (mcGet s1 m).released (regionOf off) = true then s1
    else Machine.cntAdd (Machine.dredge s1 m (regionOf off)) ((blkMC m).reg 0x020) 1) = s2 at *
  generalize s2.mem.setParcel a d = n
  exact ((Keeps.refl _).rfm m).queue.trans h2.queue

theorem Keeps.hbmWrite (m off : Nat) (src : MemSource) (d : PData) (tag : Nat) : Keeps s₀ (hbmWrite s m off src d tag) := by
  refine hk.lift ?_ fun hs => hs.hbmWrite m off src d tag
  have h0 := ((Keeps.refl s).hbmStore m (off / 256 * 256) d).queue
  unfold Machine.hbmWrite
  dsimp only
  split
  · exact ((Keeps.refl s).retiredHit ..).queue
  split
  · exact (rset_pending ..).trans h0
  · exact h0

theorem Keeps.readParcel (a : Nat) (src : MemSource) (tag : Nat) : Keeps s₀ (readParcel s a src tag).1 := by
  unfold Machine.readParcel
  have h1 := hk.sramFix (a / 256 * 256) (.user tag) 32
  generalize Machine.sramFix s (a / 256 * 256) (.user tag) 32 = s1 at *
  split
  · exact hk.hbmRead ..
  · dsimp only
    generalize parcelCheck _ = c
    split
    · exact h1.setMem fun h => MemSt.ok_setSeal (MemSt.ok_setCheck (h1.inv h).memOk ..) ..
    · exact h1
  · exact h1

theorem Keeps.writeParcel (a : Nat) (src : MemSource) (d : PData) (tag : Nat) : Keeps s₀ (writeParcel s a src d tag) := by
  refine hk.lift ?_ fun hs => hs.writeParcel a src d tag
  have h0 := ((Keeps.refl s).parcelWritten (a / 256 * 256)).queue
  unfold Machine.writeParcel
  split
  · exact ((Keeps.refl s).hbmWrite ..).queue
  · exact h0
  · exact h0

theorem Keeps.watchHits (b : Nat) : Keeps s₀ (watchHits s b) := hk.lift (watchHits_pending ..) fun hs => hs.watchHits ..

theorem Keeps.bollSet (b : Nat) (v : Word) : Keeps s₀ (bollSet s b v) := hk.lift (bollSet_pending ..) fun hs => hs.bollSet ..

theorem Keeps.bollAdd (b : Nat) (n : Word) : Keeps s₀ (bollAdd s b n) := hk.lift (bollAdd_pending ..) fun hs => hs.bollAdd ..

theorem Keeps.watchSet (w : Waiter) (x : Option Watch) : Keeps s₀ (watchSet s w x) := hk.lift (watchSet_pending ..) fun hs => hs.watchSet ..

/-! ## Links: operations -/

theorem Keeps.countHops (vc addr : Nat) (l : List (Nat × Nat)) : Keeps s₀ (countHops s vc addr l) := by
  induction l generalizing s with
  | nil => exact hk
  | cons e r ih =>
    unfold Machine.countHops
    split
    · exact ih hk
    · refine ih (Keeps.ite (Keeps.cntAdd64 ?_ ..) ?_) <;>
      · split
        · exact (hk.cntAdd64 ..).cntAdd64 ..
        · exact hk.cntAdd64 ..

theorem Keeps.countWay (a b : Point) (vc addr : Nat) : Keeps s₀ (countWay s a b vc addr) := by
  unfold Machine.countWay
  extract_lets s1
  have hs1 : Keeps s₀ s1 := hk.countHops ..
  split
  · exact hs1
  · split
    · exact hs1
    · exact (hs1.cntAdd64 ..).cntAdd64 ..

theorem Keeps.countLocal (a b : Home) (vc addr : Nat) : Keeps s₀ (countLocal s a b vc addr) := hk.countWay ..

theorem Keeps.enqueue (k : Nat) (p : QPar) : Keeps s₀ (enqueue s k p) := hk.linkKeep _ _

theorem Keeps.holdOut (src dst : Point) (p : QPar) : Keeps s₀ (holdOut s src dst p) := by
  unfold Machine.holdOut
  extract_lets _ _ _ s4 _
  have hs4 : Keeps s₀ s4 := hk.countHops ..
  split
  · exact hk.same
  · exact hs4.same

theorem Keeps.sendTo (src : Point) (p : QPar) : Keeps s₀ (sendTo s src p) := by
  unfold Machine.sendTo
  split
  · exact hk
  · exact ((hk.countWay ..).enqueue ..).ite (hk.holdOut ..)

theorem Keeps.retryOut (o : OutPar) : Keeps s₀ (retryOut s o) := by
  unfold Machine.retryOut
  split
  · exact hk.sendTo ..
  · exact hk.same.ite (hk.sendTo ..)

theorem Keeps.flushOutbound : Keeps s₀ (flushOutbound s) := by
  unfold Machine.flushOutbound
  refine Keeps.foldl (fun t _ ht => ?_) _ ?_
  · exact ht.retryOut ..
  · exact hk.same

theorem Keeps.sendBollard (src : Point) (dev boll : Nat) (amount : Word) : Keeps s₀ (sendBollard s src dev boll amount) := hk.sendTo ..

theorem Keeps.bollSignal (remote : Bool) (dev boll : Nat) (amount : Word) : Keeps s₀ (bollSignal s remote dev boll amount) :=
  (hk.bollAdd ..).ite (hk.sendBollard ..)

end

end Sys2Proof.Machine
end

section
/-! What is kept: cores, launches, tugs, the berth table and bollards. -/

namespace Sys2Proof.Machine
set_option Elab.async false

section
variable {s₀ s : State} (hk : Keeps s₀ s)
include hk

/-! ## Cores: operations -/

theorem Keeps.voySet (c : CoreId) (v : CoreVoyage) : Keeps s₀ (voySet s c v) := hk.lift (voySet_pending ..) fun hs => hs.voySet ..

/-- Changing every core through a function keeps the invariant where the function keeps the core's register tables in form. -/
theorem Keeps.coreMap {f : Nat → CoreSt → CoreSt} (hf : ∀ n k, k.canonical = true → (f n k).canonical = true) :
    Keeps s₀ { s with cores := { s.cores with core := tmap s.cores.core {} f } } := by
  refine hk.lift rfl fun hs => ?_
  obtain ⟨hw, hx⟩ := ((inv_iff s).1 hs).cores
  obtain ⟨⟨hc, ha⟩, hr⟩ := (coresCanonical_iff _).1 hx
  refine hs.withCores ⟨hw, (coresCanonical_iff _).2 ⟨⟨tsorted_tmap _ _ hc, ?_⟩, hr⟩⟩
  refine all_filterMap ha fun e he x hx => ?_
  dsimp only at hx
  split at hx
  · cases hx
  · cases hx
    exact hf _ _ he

theorem Keeps.tickIdle : Keeps s₀ (tickIdle s) := hk.coreMap fun _ k hc => by
  split
  · exact hc
  · exact hc

theorem Keeps.tugMap (f : Nat → TugSt → TugSt) : Keeps s₀ { s with cores := { s.cores with tug := tmap s.cores.tug {} f } } := by
  refine hk.lift rfl fun hs => ?_
  obtain ⟨hw, hx⟩ := ((inv_iff s).1 hs).cores
  obtain ⟨hc, hv, hp, ht⟩ := (coresCanonical_iff _).1 hx
  exact hs.withCores ⟨hw, (coresCanonical_iff _).2 ⟨hc, hv, hp, tsorted_tmap _ _ ht⟩⟩

theorem Keeps.tugHits (l : List TugHit) : Keeps s₀ { s with cores := { s.cores with tugHits := l } } := hk.lift rfl fun hs => hs.setHits l

theorem Keeps.voyageSet (set : Nat) (v : Option Voyage) : Keeps s₀ (voyageSet s set v) :=
  hk.lift (voyageSet_pending ..) fun hs => hs.voyageSet ..

theorem Keeps.voyageMod (set : Nat) (f : Voyage → Voyage) : Keeps s₀ (voyageMod s set f) :=
  hk.lift (voyageMod_pending ..) fun hs => hs.voyageMod ..

theorem Keeps.stopCore (c : CoreId) (run : CoreRun) : Keeps s₀ (stopCore s c run) := (hk.coreKeep _ _).watchSet ..

theorem Keeps.stopCores (l : List CoreId) : Keeps s₀ (stopCores s l) := Keeps.foldl (fun _ _ ht => ht.ite (ht.stopCore ..)) _ hk

theorem Keeps.tugSet (key : Nat) (t : TugSt) : Keeps s₀ (tugSet s key t) := hk.lift (tugSet_pending ..) fun hs => hs.tugSet ..

theorem Keeps.discardUnstarted (set : Nat) : Keeps s₀ (discardUnstarted s set) :=
  hk.lift (discardUnstarted_pending ..) fun hs => hs.discardUnstarted ..

theorem Keeps.endVoyageWith (set : Nat) (status : Word) : Keeps s₀ (endVoyageWith s set status) := hk.voyageMod ..

theorem Keeps.recordCoreFault (c : CoreId) (f : CFault) (loc tag : Nat) : Keeps s₀ (recordCoreFault s c f loc tag) :=
  (hk.logCapture ..).logRecord ..

theorem Keeps.coreFault (c : CoreId) (f : CFault) (loc tag : Nat) : Keeps s₀ (coreFault s c f loc tag) :=
  hk.ite ((((hk.recordCoreFault ..).stopCore ..).endVoyageWith ..).discardUnstarted ..)

theorem Keeps.takeHit (h : TugHit) : Keeps s₀ (takeHit s h) := hk.coreFault ..

theorem Keeps.takeTugHit (c : CoreId) : Keeps s₀ (takeTugHit s c) := by
  unfold Machine.takeTugHit
  split
  · exact (hk.tugHits _).takeHit _
  · exact hk

theorem Keeps.takeTugHits : Keeps s₀ (takeTugHits s) := Keeps.foldl (fun _ x ht => ht.takeHit x) _ (hk.tugHits _)

theorem Keeps.stopEnding : Keeps s₀ (stopEnding s) := by
  unfold Machine.stopEnding
  refine Keeps.foldl (fun t _ ht => ?_) _ ?_
  · split
    · exact ht.ite (((ht.voyageMod ..).stopCores ..).discardUnstarted ..)
    · exact ht
  · exact hk

theorem Keeps.countNumeric (c : CoreId) (loc : Nat) (e : NumEv) : Keeps s₀ (countNumeric s c loc e) := by
  unfold Machine.countNumeric
  split
  · extract_lets _ s2 s3 s4 _ s6
    have hs2 : Keeps s₀ s2 := hk.ite (hk.cntAdd ..)
    have hs3 : Keeps s₀ s3 := hs2.ite (hs2.cntAdd ..)
    have hs4 : Keeps s₀ s4 := hs3.ite (hs3.cntAdd ..)
    have hs6 : Keeps s₀ s6 := hs4.logCapture64 ..
    exact hs6.voyageMod ..
  · exact hk

theorem Keeps.countConsumed (c : CoreId) (poisoned : Bool) : Keeps s₀ (countConsumed s c poisoned) := hk.ite ((hk.cntAdd ..).voyageMod ..)

theorem Keeps.verifyRead (a words : Nat) : Keeps s₀ (verifyRead s a words).1 := by
  refine hk.lift ?_ fun hs => hs.verifyRead a words
  have h1 := ((Keeps.refl s).sramFix (a / 256 * 256) (.user 0) 32).queue
  have h2 := ((Keeps.refl s).sramFix (a / 8 * 8) (.user 0) words).queue
  unfold Machine.verifyRead
  dsimp only
  generalize Machine.sramFix s (a / 256 * 256) (.user 0) 32 = s1 at *
  generalize parcelCheck _ = c
  by_cases hu : s.mem.sealAt (a / 256 * 256) = sealUnverified
  · rw [if_pos hu]
    split
    · exact h1
    · exact h1
  · rw [if_neg hu]; exact h2

theorem Keeps.verifySlot (k : CoreSt) (i : Instr) : Keeps s₀ (verifySlot s k i).1 := by
  unfold Machine.verifySlot
  split
  · exact hk
  · extract_lets r1
    have hr1 : Keeps s₀ r1.1 := hk.verifyRead ..
    exact hr1

theorem Keeps.issueCheck (c : CoreId) (k : CoreSt) (b : Bundle) : Keeps s₀ (issueCheck s c k b).1 := by
  have h0 := hk.verifySlot k b.op0
  unfold Machine.issueCheck
  split
  · exact hk
  split
  · exact hk
  split
  · exact hk
  split
  · rename_i e; exact h0.fst e
  · rename_i e; exact (h0.fst e).verifySlot ..

theorem Keeps.takeIssueFault (c : CoreId) (f : CFault) (idx : Nat) : Keeps s₀ (takeIssueFault s c f idx) :=
  (hk.ite (hk.cntAdd ..)).coreFault ..

theorem Keeps.applyWrite (c : CoreId) (idx : Nat) (w : CoreWrite) : Keeps s₀ (applyWrite c idx s w) := by
  refine hk.lift ?_ fun hs => hs.applyWrite c idx w
  have hr := Keeps.refl s
  cases w with
  | sreg r v p => rfl
  | vreg r v p => rfl
  | accRows a j v p => rfl
  | store a n x p =>
    have h0 := hr.sideFix a (.user 0)
    exact ((Keeps.ite (c := n < 8) h0 (h0.sramFixWord a (.user 0))).sramWritten a n).queue
  | storeParcel a x p => exact (hr.parcelWritten a).queue
  | verified a => rfl
  | numeric n o t => exact (hr.countNumeric ..).queue
  | consumed p => exact (hr.countConsumed ..).queue
  | poisonSeen => rfl
  | wld e => rfl
  | mma e => rfl
  | signal b n => exact bollAdd_pending ..
  | signalRemote d b n => exact (hr.sendBollard ..).queue
  | branch t => rfl
  | ending => rfl

theorem Keeps.commitBundle (c : CoreId) (b : Bundle) : Keeps s₀ (commitBundle s c b) :=
  ((Keeps.foldl (fun _ w ht => ht.applyWrite c b.idx w) (b.writes0 ++ b.writes1) hk).coreKeep _ _).takeTugHit c

theorem Keeps.finishSlot (c : CoreId) (slot : Nat) (ws : List CoreWrite) : Keeps s₀ (finishSlot s c slot ws) := by
  unfold Machine.finishSlot
  split
  · exact hk
  · dsimp only
    exact (hk.coreKeep _ _).ite (hk.commitBundle ..)

theorem Keeps.slotRun (c : CoreId) (slot : Nat) (i : Instr) {eff : State → CoreSt → State × Option (List CoreWrite)}
    (he : ∀ t k, Keeps s₀ t → Keeps s₀ (eff t k).1) : Keeps s₀ (slotRun c slot i eff s) := by
  unfold Machine.slotRun
  split
  · exact hk
  · rename_i b _
    have hc : Keeps s₀ (if b.issued = true then Machine.verifySlot s (coreGet s c) i else Machine.issueCheck s c (coreGet s c) b).1 := by
      split
      · exact hk.verifySlot ..
      · exact hk.issueCheck ..
    split
    · rename_i e; exact (hc.fst e).takeIssueFault ..
    · rename_i t e
      have ht : Keeps s₀ (Machine.coreMod t c fun k => { k with cur := some { b with issued := true } }) := (hc.fst e).coreKeep _ _
      dsimp only
      have hu := he _ (coreGet (Machine.coreMod t c fun k => { k with cur := some { b with issued := true } }) c) ht
      split
      · rename_i e; exact hu.fst e
      · rename_i e; exact (hu.fst e).finishSlot ..

theorem Keeps.slotPure (c : CoreId) (slot : Nat) (i : Instr) (eff : State → CoreSt → List CoreWrite) : Keeps s₀ (slotPure c slot i eff s) :=
  hk.slotRun c slot i fun _ _ ht => ht

/-! ## Launches: operations -/

theorem Keeps.entrySet (i : Nat) (e : LEntry) : Keeps s₀ (entrySet s i e) := hk.lift (entrySet_pending ..) fun hs => hs.entrySet ..

theorem Keeps.sendForecast (i f : Nat) : Keeps s₀ (sendForecast s i f) := by
  unfold Machine.sendForecast
  extract_lets _ _ s3 _ _ s6 s7
  have hs3 : Keeps s₀ s3 := hk.entrySet ..
  have hs6 : Keeps s₀ s6 := hs3.same
  have hs7 : Keeps s₀ s7 := hs6.cntAdd ..
  exact hs7.ite (hs7.cntAdd ..)

theorem Keeps.takeForecast (f g : Forecast) : Keeps s₀ (takeForecast s f g) := hk.same

theorem Keeps.pierSet (key : Nat) (p : PierSt) : Keeps s₀ (pierSet s key p) := hk.lift (pierSet_pending ..) fun hs => hs.pierSet ..

theorem Keeps.abandonSlice (c : CoreId) : Keeps s₀ (abandonSlice s c) := by
  unfold Machine.abandonSlice
  extract_lets _ _
  split
  · exact hk.ite ((hk.pierSet ..).cntAdd ..)
  · exact hk

theorem Keeps.armEntry (i f cause : Nat) : Keeps s₀ (armEntry s i f cause) := by
  unfold Machine.armEntry
  extract_lets _ s2 _ s4 s5
  have hs2 : Keeps s₀ s2 := hk.entrySet ..
  have hs4 : Keeps s₀ s4 := hs2.same
  have hs5 : Keeps s₀ s5 := by
    dsimp only [s5]
    refine Keeps.foldl (fun t _ ht => ?_) _ ?_
    · exact ht.abandonSlice ..
    · exact hs4
  exact hs5.ite (hs5.sendForecast ..)

theorem Keeps.freeSet (set : Nat) : Keeps s₀ (freeSet s set) := by
  unfold Machine.freeSet
  split
  · exact hk
  · split
    · exact hk
    · exact hk.armEntry ..

theorem Keeps.startCores (e : LEntry) (entry size : Nat) (l : List (CoreId × Nat)) : Keeps s₀ (startCores s e entry size l) := by
  induction l generalizing s with
  | nil => exact hk
  | cons x r ih =>
    have hc : (startCore e.arg entry).canonical = true := by
      simp only [startCore, CoreSt.canonical, tsorted_tset (β := Dword) 1 e.arg 0 (m := []) rfl, Bool.true_and]
      rfl
    exact ih ((hk.coreSet x.1 fun _ => hc).voySet ..)

theorem Keeps.fireVoyage (set : Nat) (v : Voyage) : Keeps s₀ (fireVoyage s set v) := ((hk.voyageMod ..).startCores ..).ite hk

theorem Keeps.fireDies : Keeps s₀ (fireDies s) := by
  unfold Machine.fireDies
  refine Keeps.foldl (fun t _ ht => ?_) _ ?_
  · split
    · exact (ht.fireVoyage ..).ite ht
    · exact ht
  · exact hk

theorem Keeps.voyageEvent (e : LEntry) (index : Nat) (status : Word) (slip : Nat) : Keeps s₀ (voyageEvent s e index status slip) :=
  hk.sendEvent ..

theorem Keeps.clearHalted (set : Nat) : Keeps s₀ (clearHalted s set) := hk.lift (clearHalted_pending ..) fun hs => hs.clearHalted ..

theorem Keeps.finishVoyage (set : Nat) (v : Voyage) (code : Word) : Keeps s₀ (finishVoyage s set v code) := by
  unfold Machine.finishVoyage
  extract_lets _ s2 _ s4
  have hs2 : Keeps s₀ s2 := (hk.voyageSet ..).clearHalted ..
  have hs4 : Keeps s₀ s4 := hs2.ite (hs2.logRecord ..)
  exact (hs4.voyageEvent ..).freeSet ..

theorem Keeps.killVoyage (set : Nat) (code : Word) (detail : Nat) : Keeps s₀ (killVoyage s set code detail) := hk.voyageMod ..

theorem Keeps.endHalted (set : Nat) (v : Voyage) (code : Word) (detail : Nat) : Keeps s₀ (endHalted s set v code detail) :=
  (((Keeps.foldl (fun _ _ ht => ht.recordCoreFault ..) _ hk).stopCores ..).discardUnstarted ..).finishVoyage ..

theorem Keeps.endHalts : Keeps s₀ (endHalts s) := by
  unfold Machine.endHalts
  refine Keeps.foldl (fun t _ ht => ?_) _ ?_
  · split
    · split
      · exact ht.endHalted ..
      · exact ht
    · exact ht
  · exact hk

/-! ## Tugs: operations -/

theorem Keeps.tugMod (key : Nat) (f : TugSt → TugSt) : Keeps s₀ (tugMod s key f) := hk.tugSet ..

theorem Keeps.tugFault (key : Nat) (core : CoreId) (loc set : Nat) (desc : BitVec 512) (code addr : Nat) :
    Keeps s₀ (tugFault s key core loc set desc code addr) := by
  unfold Machine.tugFault
  extract_lets _ _ _ _ s3 _
  have h3 : Keeps s₀ s3 := ((hk.logCapture ..).logRecord ..).tugMod ..
  split
  · exact h3
  split
  · exact h3.tugHits _
  · exact h3.ite ((h3.endVoyageWith ..).discardUnstarted ..)

theorem Keeps.lookup (key set : Nat) (x : Side) : Keeps s₀ (lookup s key set x).1 := by
  unfold Machine.lookup
  extract_lets _ _ _
  split
  · exact hk
  · split
    · exact (hk.pierSet ..).cntAdd ..
    · exact hk.cntAdd ..

theorem Keeps.setHead (key : Nat) (x : TugSlot) : Keeps s₀ (setHead s key x) := hk.tugMod ..

theorem Keeps.toGuest (p : QPar) (tag : Nat) : Keeps s₀ (toGuest s p tag) := by
  unfold Machine.toGuest
  extract_lets _ _ s3
  have hs3 : Keeps s₀ s3 := hk.ite ((hk.cntAdd ..).logRecord ..)
  exact (hs3.enqueue ..).ite hs3

theorem Keeps.newRead (addr count : Nat) (owner : ReadOwner) (berth : Option (Nat × TugRun)) (guest : Bool) :
    Keeps s₀ (newRead s addr count owner berth guest).1 := by
  unfold Machine.newRead
  extract_lets _ _
  exact hk.same

theorem Keeps.guestRelay (vc a n : Nat) (owner : ReadOwner) : Keeps s₀ (guestRelay s vc a n owner) := (hk.newRead ..).toGuest ..

theorem Keeps.addWait (key serial : Nat) : Keeps s₀ (addWait s key serial) := hk.tugMod ..

theorem Keeps.countMoved (key : Nat) (poison : Bool) : Keeps s₀ (countMoved s key poison) := by
  unfold Machine.countMoved
  extract_lets s1
  have hs1 : Keeps s₀ s1 := hk.cntAdd64 ..
  exact hs1.ite (hs1.cntAdd ..)

omit hk in
theorem writePiece_ok {m : MemSt} (h : m.ok) (a o n : Nat) (d : PData) : (writePiece m a o n d).ok :=
  MemSt.ok_bytes h (Memory.writeBytes_wf _ _ h.1)

theorem Keeps.finishPart (key : Nat) : Keeps s₀ (finishPart s key) := by
  unfold Machine.finishPart
  split
  · exact hk
  · rename_i a d _
    have h1 := hk.tugMod key fun t => { t with part := none }
    refine h1.setMem fun h => MemSt.ok_setPoison (MemSt.ok_setCheck (writePiece_ok ?_ ..) ..) ..
    have hm := (h1.inv h).memOk
    have hp := (memCanonical_iff _).1 hm.2
    exact MemSt.ok_sideErr (MemSt.ok_sramErr hm (tsorted_filter _ hp.sramErr)) (tsorted_terase _ hp.sideErr)

theorem Keeps.tugWrite (key a : Nat) (d : PData) (tag : Nat) : Keeps s₀ (tugWrite s key a d tag) := by
  unfold Machine.tugWrite
  split
  · have h1 := ((hk.finishPart key).sideFix a (.user tag)).sramWritten a 64
    exact (h1.setMem fun h => MemSt.ok_setSeal (writePiece_ok (h1.inv h).memOk ..) ..).tugMod ..
  · exact hk.writeParcel ..

theorem Keeps.finishParts : Keeps s₀ (finishParts s) := Keeps.foldl (fun _ _ ht => ht.finishPart ..) _ hk

theorem Keeps.fetchPar (p : Port) (i tag : Nat) : Keeps s₀ (fetchPar s p i tag).1 := by
  unfold Machine.fetchPar
  split
  · exact hk.readParcel ..
  · exact hk

theorem Keeps.placePar (key serial vc tag : Nat) (p : Port) (i n : Nat) (d : PData) : Keeps s₀ (placePar s key serial vc tag p i n d) := by
  unfold Machine.placePar
  extract_lets s1
  have hs1 : Keeps s₀ s1 := hk.countMoved ..
  split
  · exact hs1.tugWrite ..
  · exact hs1.toGuest ..
  · exact hs1.sendTo ..
  · exact hs1

theorem Keeps.moveParcels (key serial vc : Nat) (tags : Nat × Nat) (src dst : Port) (n m : Nat) :
    Keeps s₀ (moveParcels s key serial vc tags src dst n m) := by
  induction m with
  | zero => exact hk
  | succ m ih => exact (ih.fetchPar ..).placePar ..

theorem Keeps.moveRun (key serial vc : Nat) (tags : Nat × Nat) (berth : Option (Nat × TugRun)) (src dst : Port) (n : Nat) :
    Keeps s₀ (moveRun s key serial vc tags berth src dst n) := by
  unfold Machine.moveRun
  extract_lets s1
  have hs1 : Keeps s₀ s1 := hk.finishPart ..
  split
  · exact ((hs1.addWait ..).newRead ..).sendTo ..
  · exact ((hs1.addWait ..).newRead ..).toGuest ..
  · exact (hs1.addWait ..).guestRelay ..
  · exact (hs1.addWait ..).guestRelay ..
  · exact (((hs1.addWait ..).addWait ..).newRead ..).sendTo ..
  · exact (hs1.addWait ..).moveParcels ..
  · exact (hs1.addWait ..).moveParcels ..
  · exact hs1.moveParcels ..

theorem Keeps.countPath (pier : Home) (p : Port) (vc n : Nat) : Keeps s₀ (countPath s pier p vc n) := by
  induction n with
  | zero => exact hk
  | succ n ih =>
    unfold Machine.countPath
    dsimp only
    split
    · split
      · exact ih.countLocal ..
      · exact ih
    · exact ih.countLocal ..
    · exact ih

theorem Keeps.toPend (key : Nat) (x : TugSlot) (last : Bool) : Keeps s₀ (toPend s key x last) := hk.tugMod ..

theorem Keeps.readsDone (key : Nat) (x : TugSlot) : Keeps s₀ (readsDone s key x) := (hk.setHead ..).ite (hk.toPend ..)

theorem Keeps.runStep {key : Nat} {x : TugSlot} {t : State} (e : runStep s key x = .moved t) : Keeps s₀ t := by
  unfold Machine.runStep at e
  extract_lets at e
  split at e
  · cases e
  split at e
  · cases e
  split at e
  · cases e
  · cases e
    exact ((hk.countPath ..).countPath ..).moveRun ..

theorem Keeps.runGo (key : Nat) (x : TugSlot) : Keeps s₀ (runGo s key x) := by
  unfold Machine.runGo
  split
  · exact hk.setHead ..
  · exact (hk.tugMod ..).tugFault ..
  · rename_i e; exact (hk.runStep e).readsDone ..

theorem Keeps.pumpRuns (key n : Nat) : Keeps s₀ (pumpRuns s key n) := by
  induction n generalizing s with
  | zero => exact hk
  | succ n ih =>
    unfold Machine.pumpRuns
    split
    · split
      · dsimp only
        split
        · split
          · exact hk.runGo ..
          · exact ih (hk.runGo ..)
        · exact hk.runGo ..
      · exact hk
    · exact hk

/-! ## The berth table -/

theorem Keeps.dropCopies (pk : Nat) (l : List Nat) : Keeps s₀ (dropCopies s pk l) := hk.pierSet ..

theorem Keeps.berthFinish (sweep : Bool) (result : Word) : Keeps s₀ (berthFinish s sweep result) := by
  unfold Machine.berthFinish
  extract_lets _ s2 s3 s4
  have hs2 : Keeps s₀ s2 := hk.same.setBusy ..
  have hs3 : Keeps s₀ s3 := Keeps.foldl (fun _ _ ht => ht.rset ..) _ hs2
  have hs4 : Keeps s₀ s4 := hs3.ite (hs3.cntAdd ..)
  exact (hs4.logCapture ..).ite (((hs2.rset ..).rset ..).logCapture ..)

theorem Keeps.invalidate (l : List Nat) (sweep : Bool) (result : Word) : Keeps s₀ (invalidate s l sweep result) := by
  unfold Machine.invalidate
  extract_lets _ s2 _ s4 _
  have hs2 : Keeps s₀ s2 := hk.same
  have hs4 : Keeps s₀ s4 := Keeps.foldl (fun _ _ ht => ht.dropCopies ..) _ hs2
  exact (hs4.same.setBusy ..).ite (hs4.berthFinish ..)

theorem Keeps.execBerthInvalidate (die : Fin 12) (pier : Fin 48) : Runs s₀ (execBerthInvalidate die pier s) := by
  unfold Machine.execBerthInvalidate
  extract_lets _
  split
  · exact hk.next
  · split
    · exact hk.next
    · extract_lets s2 _ _
      have hs2 : Keeps s₀ s2 := hk.dropCopies ..
      exact Keeps.iteRuns ((hs2.berthFinish ..).next) hs2.same.next

theorem Keeps.berthSet (i : Nat) (e : BitVec 128) : Keeps s₀ (berthSet s i e) := hk.lift (berthSet_pending ..) fun hs => hs.berthSet ..

theorem Keeps.execBtCommit (value : Word) : Runs s₀ (execBtCommit value s) := by
  unfold Machine.execBtCommit
  split
  · exact hk.next
  · refine hk.softWrite _ fun t1 ht1 => ?_
    extract_lets s2 _ _ _ _
    have hs2 : Keeps s₀ s2 := ht1.rset ..
    exact Keeps.iteRuns hs2.next (Keeps.iteRuns ((hs2.berthFinish ..).next) (((hs2.berthSet ..).invalidate ..).next))

/-- Changing the listed entries of the berth table through a function keeps the invariant. -/
theorem Keeps.berthMap (f : Nat → BitVec 128 → BitVec 128) :
    Keeps s₀ { s with berth := { s.berth with table := tmap s.berth.table 0 f } } := by
  refine hk.lift rfl fun hs => hs.withBerth (twf_iff.2 ⟨tsorted_tmap _ _ (twf_iff.1 ((inv_iff s).1 hs).berth).1, fun e he => ?_⟩)
  obtain ⟨x, -, hf⟩ := List.mem_filterMap.1 he
  dsimp only at hf
  split at hf
  · cases hf
  · rename_i h; cases hf; exact h

theorem Keeps.execBtSweep (value : Word) : Runs s₀ (execBtSweep value s) := by
  refine Keeps.iteRuns hk.next (hk.softWrite _ fun t ht => ?_)
  have h1 := ht.rset (blkBT.reg 0x02C) value
  dsimp only
  split
  · exact h1.next
  · exact ((h1.berthMap _).invalidate ..).next

/-! ## Bollards -/

theorem Keeps.releaseCore (c : CoreId) : Keeps s₀ (releaseCore s c) := hk.ite ((hk.coreKeep _ _).finishSlot ..)

theorem Keeps.execBollardRelease (w : Waiter) : Runs s₀ (execBollardRelease w s) := by
  unfold Machine.execBollardRelease
  split
  · exact hk.next
  · split
    · exact hk.next
    · split
      · exact hk.next
      · extract_lets s1 s2
        have hs1 : Keeps s₀ s1 := hk.watchSet ..
        have hs2 : Keeps s₀ s2 := hs1.ite ((hs1.cntAdd ..).logRecord ..)
        split
        · exact (hs2.releaseCore ..).next
        · extract_lets _
          split
          · exact (hs2.setHead ..).next
          · exact hs2.next

theorem Keeps.execBlHostAdd (value : Word) : Runs s₀ (execBlHostAdd value s) :=
  Keeps.iteRuns hk.next (hk.softWrite _ fun _ ht => Keeps.iteRuns (((ht.rset ..).errCount ..).next)
    ((((ht.rset ..).bollAdd ..).cntAdd ..).next))

theorem Keeps.execBlValue (b : Fin 16384) (value : Word) (collides : Bool) : Runs s₀ (execBlValue b value collides s) :=
  Keeps.iteRuns hk.next (hk.softWrite _ fun _ ht => ((ht.bollSet ..).ite ht).next)

end

end Sys2Proof.Machine
end

section
/-! What is kept: links and their traffic. -/

namespace Sys2Proof.Machine
set_option Elab.async false

section
variable {s₀ s : State} (hk : Keeps s₀ s)
include hk

/-! ## Links: reception -/

theorem Keeps.linkLog (k kind detail : Nat) : Keeps s₀ (linkLog s k kind detail) := (hk.logRecord ..).ite (hk.ite (hk.logRecord ..))

theorem Keeps.freeUnit (k v : Nat) : Keeps s₀ (freeUnit s k v) := hk.linkKeep _ _

theorem Keeps.failDescriptor (key serial code : Nat) : Keeps s₀ (failDescriptor s key serial code) := by
  unfold Machine.failDescriptor
  extract_lets _
  split
  · exact (hk.tugSet ..).tugFault ..
  · split
    · exact (hk.tugSet ..).tugFault ..
    · exact hk

theorem Keeps.forget (key serial : Nat) : Keeps s₀ (forget s key serial) := hk.same

theorem Keeps.endWait (key serial status : Nat) : Keeps s₀ (endWait s key serial status) :=
  (hk.tugMod ..).ite ((hk.forget ..).failDescriptor ..)

theorem Keeps.sendResp (src : Point) (dev : Option Nat) (tag count status : Nat) : Keeps s₀ (sendResp s src dev tag count status) := by
  unfold Machine.sendResp
  extract_lets _
  split
  · exact hk.sendTo ..
  · exact hk.toGuest ..

theorem Keeps.pilotWriteDone (session : BitVec 16) : Keeps s₀ (pilotWriteDone s session) := hk.ite hk.same

theorem Keeps.guestAcked (o : Option Origin) : Keeps s₀ (guestAcked s o) := by
  unfold Machine.guestAcked
  split
  · exact hk.endWait ..
  · exact hk.sendResp ..
  · exact hk.pilotWriteDone ..
  · exact hk

theorem Keeps.takeAck (k : Nat) (a : BitVec 16) : Keeps s₀ (takeAck s k a) := by
  unfold Machine.takeAck
  extract_lets _ _ s3
  have hs3 : Keeps s₀ s3 := hk.linkPut hk _
  exact (hs3.ite (Keeps.foldl (fun _ _ ht => ht.guestAcked ..) _ hs3)).ite (hk.cntAdd ..)

theorem Keeps.carry (k : Nat) : Keeps s₀ (carry s k) := by
  unfold Machine.carry
  extract_lets _ s2 _
  have hs2 : Keeps s₀ s2 := hk.linkPut hk _
  exact hs2.ite hs2.same

theorem Keeps.putLine (k : Nat) (p : QPar) : Keeps s₀ (putLine s k p) := by
  unfold Machine.putLine
  extract_lets _ _ s3
  have hs3 : Keeps s₀ s3 := ((hk.carry ..).linkKeep _ _).emit ..
  exact hs3.ite (hs3.emit ..)

theorem Keeps.sendCa (k : Nat) : Keeps s₀ (sendCa s k) := (hk.carry ..).emit ..

theorem Keeps.replayAll (k : Nat) : Keeps s₀ (replayAll s k) := hk.linkKeep _ _

theorem Keeps.replayFrom (k : Nat) (expect : BitVec 16) : Keeps s₀ (replayFrom s k expect) := (hk.takeAck ..).replayAll ..

/-! ## Links: operations -/

omit hk in
theorem tsorted_tmod {β : Type} [DecidableEq β] {m : Tbl β} (k : Nat) (d : β) (f : β → β) (h : tsorted m = true) :
    tsorted (tmod m k d f) = true := tsorted_tset _ _ _ h

omit hk in
theorem linkCanonical_iff (x : LinkSt) : x.canonical = true ↔ tsorted x.lane = true ∧ tsorted x.sent = true := by
  simp only [LinkSt.canonical, Bool.and_eq_true]

omit hk in
theorem tsorted_charge {x : LinkSt} (h : x.canonical = true) (v : Nat) : tsorted (charge x v) = true :=
  tsorted_tset _ _ _ ((linkCanonical_iff x).1 h).2

/-- A change of a link's lanes that keeps their keys rising keeps the invariant. -/
theorem Keeps.linkLanes (k : Nat) (f : LinkSt → LinkSt) (hl : ∀ x, tsorted x.lane = true → tsorted (f x).lane = true)
    (hs : ∀ x, (f x).sent = x.sent := by intro _; (repeat' split) <;> rfl) : Keeps s₀ (Machine.linkMod s k f) :=
  hk.linkMod k fun x hx => by
    obtain ⟨hlane, hsent⟩ := (linkCanonical_iff x).1 hx
    exact (linkCanonical_iff _).2 ⟨hl x hlane, (hs x).symm ▸ hsent⟩

/-! ## Links: reception -/

theorem Keeps.resendPar (k : Nat) (p : QPar) : Keeps s₀ (resendPar s k p) := by
  refine ((hk.linkSet k fun h => ?_).cntAdd64 ..).putLine ..
  have hx := (hk.inv h).linkOk k
  refine (linkCanonical_iff _).2 ⟨((linkCanonical_iff _).1 hx).1, ?_⟩
  dsimp only
  split
  · exact ((linkCanonical_iff _).1 hx).2
  · exact tsorted_charge hx _

theorem Keeps.newAnswer (src : Point) (dev : Option Nat) (tag count : Nat) : Keeps s₀ (newAnswer s src dev tag count).1 := hk.same

theorem Keeps.answerSent (id : Nat) : Keeps s₀ (answerSent s id) := by
  unfold Machine.answerSent
  split
  · exact hk
  · exact hk.same.ite (hk.same.sendResp ..)

theorem Keeps.noteRead (k : Nat) (tag : Word) : Keeps s₀ (noteRead s k tag) := hk.same

theorem Keeps.noteSent (k : Nat) (p : QPar) : Keeps s₀ (noteSent s k p) := by
  unfold Machine.noteSent
  extract_lets s1 _
  have hs1 : Keeps s₀ s1 := hk.ite (hk.noteRead ..)
  split
  · exact hs1.answerSent ..
  · exact hs1.ite hs1.same
  · exact hs1

theorem Keeps.transmit (k : Nat) (p : QPar) : Keeps s₀ (transmit s k p) := by
  unfold Machine.transmit
  extract_lets _ _ s1 s2
  have h1 : Keeps s₀ s1 := hk.linkSet k fun h =>
    have hx := (hk.inv h).linkOk k
    (linkCanonical_iff _).2 ⟨((linkCanonical_iff _).1 hx).1, tsorted_charge hx _⟩
  have h2 : Keeps s₀ s2 := h1.ite (h1.cntAdd64 ..)
  exact ((h2.cntAdd64 ..).putLine ..).noteSent ..

theorem Keeps.sendNotice (k lane reason : Nat) (round : BitVec 24) : Keeps s₀ (sendNotice s k lane reason round) := (hk.emit ..).ite hk

theorem Keeps.sendPlainNotice (k lane reason : Nat) : Keeps s₀ (sendPlainNotice s k lane reason) := hk.takeFree.sendNotice ..

theorem Keeps.sendMark (k : Nat) (action : MarkAction) (lane width : Nat) : Keeps s₀ (sendMark s k action lane width) :=
  (hk.linkPut hk _).emit ..

theorem Keeps.queueMark (k : Nat) (action : MarkAction) (lane width : Nat) : Keeps s₀ (queueMark s k action lane width) := hk.linkKeep _ _

theorem Keeps.requestReplay (k : Nat) : Keeps s₀ (requestReplay s k) :=
  ((((hk.linkPut hk _).sendPlainNotice ..).cntAdd ..).linkLog ..).ite hk

omit hk in
theorem takeCredit_tables (x : LinkSt) (v : Nat) (c : Word) : (takeCredit x v c).lane = x.lane ∧ (takeCredit x v c).sent = x.sent := by
  unfold takeCredit
  split
  · exact ⟨rfl, rfl⟩
  · exact ⟨rfl, rfl⟩

theorem Keeps.receive (l : LinkId) (ty : BitVec 4) (h : Hdr) (payload : Parcel) (checkField : Word) :
    Keeps s₀ (receive s l ty h payload checkField).1 := by
  unfold Machine.receive
  extract_lets k _ _ _ s1 s2
  have h1 : Keeps s₀ s1 := Keeps.takeAck (hk.linkPut hk k (takeCredit_tables ..).1 (takeCredit_tables ..).2) ..
  have h2 : Keeps s₀ s2 := h1.linkKeep _ _
  split
  · exact hk
  split
  · exact hk.requestReplay ..
  split
  · exact hk
  split
  · exact h2.cntAdd64 ..
  split
  · exact h1.requestReplay ..
  · exact h1.cntAdd ..

theorem Keeps.receiveLink (l : LinkId) (ty : BitVec 4) (h : Hdr) (payload : Parcel) (checkField : Word) :
    Keeps s₀ (receiveLink s l ty h payload checkField).1 := by
  unfold Machine.receiveLink
  split
  · exact hk
  · exact hk.receive ..

theorem Keeps.pairLog (was : State) (k : Nat) : Keeps s₀ (pairLog was s k) := by
  unfold Machine.pairLog
  split
  · exact hk
  · exact (hk.logRecord ..).ite hk

theorem Keeps.widthResult (k code width : Nat) : Keeps s₀ (widthResult s k code width) := hk.logCapture ..

theorem Keeps.dropRequests (k : Nat) : Keeps s₀ (dropRequests s k) := ((hk.rset ..).widthResult ..).ite hk

theorem Keeps.linkDown (k : Nat) : Keeps s₀ (linkDown s k) :=
  (((((hk.dropRequests ..).linkPut hk _).cntAdd ..).linkLog ..).pairLog ..).ite hk

theorem Keeps.sendHello (k : Nat) : Keeps s₀ (sendHello s k) := (hk.linkKeep _ _).putLine ..

theorem Keeps.dlSet (k : Nat) (x : DlSt) : Keeps s₀ (dlSet s k x) := hk.lift (dlSet_pending ..) fun hs => hs.dlSet ..

theorem Keeps.trainLink (k : Nat) : Keeps s₀ (trainLink s k) := by
  unfold Machine.trainLink
  extract_lets _ s1
  have h1 : Keeps s₀ s1 := hk.takeFree.linkLanes k _ fun _ _ => rfl
  exact (h1.linkKeep _ _).ite ((h1.emit _).sendHello _)

theorem Keeps.renumberReports (k : Nat) : Keeps s₀ (renumberReports s k) := hk.same

theorem Keeps.startFresh (k : Nat) : Keeps s₀ (startFresh s k) := by
  unfold Machine.startFresh
  refine (hk.renumberReports k).linkMod k fun x hx => ?_
  exact (linkCanonical_iff _).2 ⟨((linkCanonical_iff x).1 hx).1, rfl⟩

theorem Keeps.checkBelowMin (k : Nat) : Keeps s₀ (checkBelowMin s k) := by
  unfold Machine.checkBelowMin
  extract_lets _ _ s3
  have hs3 : Keeps s₀ s3 := hk.linkPut hk _
  exact hs3.ite (hs3.linkLog ..)

theorem Keeps.notePair (was : State) (k : Nat) : Keeps s₀ (notePair was s k) := by
  unfold Machine.notePair
  split
  · exact hk
  · exact hk.same.ite hk

theorem Keeps.linkUp (k : Nat) (farFresh : Bool) (expect : BitVec 16) (id : Dword) : Keeps s₀ (linkUp s k farFresh expect id) :=
  (((((((hk.takeAck ..).ite (hk.startFresh ..)).linkKeep _ _).notePair ..).linkLog ..).pairLog ..).replayAll ..).checkBelowMin ..

theorem Keeps.bundleUpBoth (k : Nat) (fresh : Bool) : Keeps s₀ (bundleUpBoth s k fresh) := by
  unfold Machine.bundleUpBoth
  split
  · exact hk
  extract_lets up _
  have hup (t : State) (a b : Nat) (ht : Keeps s₀ t) : Keeps s₀ (up t a b) := (ht.linkUp ..).ite (ht.linkDown _)
  exact hup _ _ _ (hup _ _ _ ((hk.linkKeep _ _).linkKeep _ _))

/-! ## Held parcels -/

theorem Keeps.takeTokens (n : Nat) : Keeps s₀ (takeTokens s n) := hk.same.ite hk

theorem Keeps.guestFree (v : Nat) : Keeps s₀ (guestFree s v) := (hk.freeUnit ..).ite hk.same

theorem Keeps.guestAnswer (tag : Word) (count status : Nat) : Keeps s₀ (guestAnswer s tag count status) := hk.sendResp ..

theorem Keeps.refuseReport (o : Origin) : Keeps s₀ (refuseReport s o) := by
  unfold Machine.refuseReport
  split
  · exact hk.pilotWriteDone ..
  · exact hk.sendResp ..
  · exact hk.sendResp ..
  · exact hk

theorem Keeps.dropHeldPar (h : HeldPar) : Keeps s₀ (dropHeldPar s h) := by
  unfold Machine.dropHeldPar
  extract_lets _ s2
  have hs2 : Keeps s₀ s2 := hk.freeUnit ..
  exact (hs2.ite (hs2.sendResp ..)).ite (hs2.ite (hs2.sendResp ..))

theorem Keeps.dropGuestPar (p : GPar) : Keeps s₀ (dropGuestPar s p) := by
  unfold Machine.dropGuestPar
  extract_lets s1
  have hs1 : Keeps s₀ s1 := hk.guestFree ..
  split
  · split
    · split
      · exact (hs1.forget ..).failDescriptor ..
      · exact hs1
    · exact hs1
  · exact ((hs1.guestAnswer ..).ite hs1).ite (hs1.guestAnswer ..)

theorem Keeps.scuttle (k : Nat) : Keeps s₀ (scuttle s k) := by
  unfold Machine.scuttle
  extract_lets _ _ _ _ _ _ _ _ _ _ s11 _ _ s14 s15 s16 s17 _ s19
  have hs11 : Keeps s₀ s11 := hk.linkPut hk _
  have hs14 : Keeps s₀ s14 := hs11.same
  have hs15 : Keeps s₀ s15 := (hs14.cntAdd ..).linkLog ..
  have hs16 : Keeps s₀ s16 := by
    dsimp only [s16]
    refine Keeps.foldl (fun t _ ht => ?_) _ ?_
    · exact ht.refuseReport ..
    · exact hs15
  have hs17 : Keeps s₀ s17 := by
    dsimp only [s17]
    refine Keeps.foldl (fun t _ ht => ?_) _ ?_
    · exact ht.dropGuestPar ..
    · refine Keeps.foldl (fun t _ ht => ?_) _ ?_
      · exact ht.dropHeldPar ..
      · refine Keeps.foldl (fun t _ ht => ?_) _ ?_
        · exact ht.answerSent ..
        · exact hs16
  have hs19 : Keeps s₀ s19 := Keeps.foldl (fun _ _ ht => (ht.forget ..).failDescriptor ..) _ hs17
  exact hs19.ite (hs19.sendHello ..)

/-! ## Traffic -/

theorem Keeps.countFrom (k a vc : Nat) : Keeps s₀ (countFrom s k a vc) := by
  unfold Machine.countFrom
  split
  · exact hk.countWay ..
  · exact hk

theorem Keeps.performWrite {k : Nat} {p : QPar} {t : State} (e : performWrite s k p = some t) : Keeps s₀ t := by
  unfold Machine.performWrite at e
  extract_lets _ report s1 at e
  have hr (u : State) (n : Nat) (hu : Keeps s₀ u) : Keeps s₀ (report u n) := hu.ite (hu.sendResp ..)
  have h1 : Keeps s₀ s1 := hk.countFrom ..
  split at e
  · cases e; exact hr _ _ hk
  split at e
  · cases e
  split at e
  · cases e; exact h1.toGuest ..
  · cases e; exact hr _ _ (h1.writeParcel ..)

theorem Keeps.sendData (src : Point) (id dev : Nat) (vc : BitVec 2) (addr : Nat) (d : PData) : Keeps s₀ (sendData s src id dev vc addr d) :=
  hk.sendTo ..

theorem Keeps.sendRead (id a : Nat) (p : QPar) (n : Nat) : Keeps s₀ (sendRead s id a p n) := by
  induction n with
  | zero => exact hk
  | succ n ih => exact (ih.readParcel ..).sendData ..

theorem Keeps.performRead {k : Nat} {p : QPar} {t : State} (e : performRead s k p = some t) : Keeps s₀ t := by
  unfold Machine.performRead at e
  dsimp only at e
  split at e
  · cases e; exact hk.sendResp ..
  split at e
  · cases e
  · cases e
    have h1 := (hk.countFrom k (p.addr.toNat * 256) p.vc.toNat).newAnswer (pointAt s (p.addr.toNat * 256)) (some (rrDev p)) (rrTag p).toNat
      (rrCount p)
    exact (h1.sendRead ..).ite (h1.guestRelay ..)

theorem Keeps.dataToGuest (key a vc : Nat) (d : PData) : Keeps s₀ (dataToGuest s key a vc d) := by
  unfold Machine.dataToGuest
  split
  · split
    · exact hk.placePar ..
    · exact hk
  · exact hk

theorem Keeps.performData {k : Nat} {p : QPar} {t : State} (e : performData s k p = some t) : Keeps s₀ t := by
  unfold Machine.performData at e
  dsimp only at e
  split at e
  · cases e; exact hk
  split at e
  · cases e
  · cases e
    have h1 := hk.countFrom k (p.addr.toNat * 256) p.vc.toNat
    split
    · exact ((h1.countMoved ..).tugWrite ..).ite (h1.dataToGuest ..)
    · exact h1.writeParcel ..

theorem Keeps.readAnswered (tag : Word) (status : Nat) : Keeps s₀ (readAnswered s tag status) := by
  unfold Machine.readAnswered
  split
  · exact hk
  · extract_lets _ s2
    have hs2 : Keeps s₀ s2 := hk.same
    split
    · exact hs2.endWait ..
    · exact hs2

theorem Keeps.writeReported (k : Nat) (tag : Word) (count status : Nat) : Keeps s₀ (writeReported s k tag count status) := by
  unfold Machine.writeReported
  split
  · exact hk
  · extract_lets _ s2
    have hs2 : Keeps s₀ s2 := hk.same
    split
    · exact hs2.endWait ..
    · exact hs2.sendResp ..
    · exact hs2

theorem Keeps.respRecord (k : Nat) (p : QPar) (i : Nat) : Keeps s₀ (respRecord s k p i) := (hk.writeReported ..).ite (hk.readAnswered ..)

theorem Keeps.performResp {k : Nat} {p : QPar} {t : State} (e : performResp s k p = some t) : Keeps s₀ t := by
  cases e
  exact Keeps.foldl (fun _ _ ht => ht.respRecord ..) _ hk

theorem Keeps.remoteAdd (p : QPar) (i : Nat) : Keeps s₀ (remoteAdd s p i) :=
  (((hk.cntAdd ..).logCapture ..).logRecord ..).ite (hk.bollAdd ..)

theorem Keeps.performBollard {k : Nat} {p : QPar} {t : State} (e : performBollard s k p = some t) : Keeps s₀ t := by
  unfold Machine.performBollard at e
  split at e
  · cases e
  · cases e
    exact Keeps.foldl (fun _ _ ht => ht.remoteAdd ..) _ (hk.countWay ..)

theorem Keeps.perform {k : Nat} {p : QPar} {t : State} (e : perform s k p = some t) : Keeps s₀ t := by
  unfold Machine.perform at e
  split at e
  · exact hk.performWrite e
  split at e
  · exact hk.performRead e
  split at e
  · exact hk.performData e
  split at e
  · exact hk.performResp e
  split at e
  · exact hk.performBollard e
  · cases e; exact hk

theorem Keeps.relayPar (k : Nat) (p : QPar) : Keeps s₀ (relayPar s k p) := (hk.cntAdd ..).sendTo ..

theorem Keeps.acceptPar (k : Nat) (p : QPar) : Keeps s₀ (acceptPar s k p) := by
  have hh : Keeps s₀ { s with trans := { s.trans with held := s.trans.held ++ [⟨k, p⟩] } } := hk.same
  unfold Machine.acceptPar
  dsimp only
  split
  · exact (hk.relayPar ..).freeUnit ..
  split
  · exact hh
  split
  · rename_i e; exact (hk.perform e).freeUnit ..
  · exact hh

theorem Keeps.deliverHeld : Keeps s₀ (deliverHeld s) := Keeps.foldl (fun _ _ ht => ht.acceptPar ..) _ hk.same

theorem Keeps.arrive (l : LinkId) (ty : BitVec 4) (h : Hdr) (payload : Parcel) (check : Word) :
    Runs s₀ (arrive s l ty h payload check) := by
  have hr := hk.receiveLink l ty h payload check
  unfold Machine.arrive
  split
  · rename_i e; exact (hr.fst e).next
  · rename_i e; exact ((hr.fst e).acceptPar ..).next

theorem Keeps.execWrite (l : LinkId) (h : Hdr) (payload : Parcel) (check : Word) : Runs s₀ (execWrite l h payload check s) := hk.arrive ..

theorem Keeps.execReadReq (l : LinkId) (h : Hdr) (payload : Parcel) (check : Word) : Runs s₀ (execReadReq l h payload check s) :=
  hk.arrive ..

theorem Keeps.execReadData (l : LinkId) (h : Hdr) (payload : Parcel) (check : Word) : Runs s₀ (execReadData l h payload check s) :=
  hk.arrive ..

theorem Keeps.execResp (l : LinkId) (h : Hdr) (payload : Parcel) (check : Word) : Runs s₀ (execResp l h payload check s) := hk.arrive ..

theorem Keeps.execBollard (l : LinkId) (h : Hdr) (payload : Parcel) (check : Word) : Runs s₀ (execBollard l h payload check s) :=
  hk.arrive ..

/-! ## Links -/

theorem Keeps.laneMod (k i : Nat) (f : LaneSt → LaneSt) : Keeps s₀ (laneMod s k i f) :=
  hk.linkLanes k _ fun _ hx => tsorted_tmod _ _ _ hx

theorem Keeps.startNego (k : Nat) (value : Word) : Keeps s₀ (startNego s k value) := by
  unfold Machine.startNego
  extract_lets _ _ _ s4 s5
  have hs4 : Keeps s₀ s4 := hk.rset ..
  have hs5 : Keeps s₀ s5 := hs4.linkPut hk _
  exact ((hs5.enqueue ..).ite (hs4.widthResult ..)).ite (hs4.widthResult ..)

theorem Keeps.endNego (k code : Nat) : Keeps s₀ (endNego s k code) := by
  unfold Machine.endNego
  extract_lets s1 _
  have hs1 : Keeps s₀ s1 := (hk.linkKeep _ _).widthResult ..
  exact hs1.ite (hs1.startNego ..)

theorem Keeps.dropMark (k : Nat) (f : MarkAction × Nat × Nat → Bool) : Keeps s₀ (dropMark s k f) := hk.linkKeep _ _

theorem Keeps.interruptNego (k : Nat) : Keeps s₀ (interruptNego s k) := by
  unfold Machine.interruptNego
  extract_lets _ s2
  have hs2 : Keeps s₀ s2 := hk.ite ((hk.linkKeep _ _).widthResult ..)
  exact hs2.ite ((hs2.dropMark ..).endNego ..)

theorem Keeps.negoWrite (k : Nat) (value : Word) : Keeps s₀ (negoWrite s k value) := (hk.startNego ..).ite (hk.rset ..)

theorem Keeps.mapSpare (k f i p : Nat) : Keeps s₀ (mapSpare s k f i p) := (((hk.dlSet ..).dlSet ..).cntAdd ..).cntAdd ..

theorem Keeps.resteerEngine (k i : Nat) (sent : Bool) : Keeps s₀ (resteerEngine s k i sent) := by
  unfold Machine.resteerEngine
  split
  · split
    · extract_lets _ _
      split
      · exact hk.mapSpare ..
      · exact hk
    · exact hk
  · exact hk

theorem Keeps.retireLane (k i : Nat) : Keeps s₀ (retireLane s k i) := (((hk.laneMod ..).resteerEngine ..).cntAdd ..).sendPlainNotice ..

theorem Keeps.laneFails (k i reason : Nat) (round : BitVec 24) : Keeps s₀ (laneFails s k i reason round) := by
  unfold Machine.laneFails
  extract_lets _ s2
  have hs2 : Keeps s₀ s2 := hk.laneMod ..
  exact (((hs2.laneMod ..).sendNotice ..).ite hs2).ite (hk.retireLane ..)

theorem Keeps.noteSilent (k : Nat) : Keeps s₀ (noteSilent s k) := hk.linkKeep _ _

theorem Keeps.laneGoesFatal (k i : Nat) : Keeps s₀ (laneGoesFatal s k i) := by
  unfold Machine.laneGoesFatal
  refine hk.linkLanes k _ fun x hx => ?_
  dsimp only
  exact tsorted_tmod _ _ _ hx

theorem Keeps.iteOf {c : Prop} [Decidable c] {t : State} (ht : Keeps s₀ s → Keeps s₀ t) : Keeps s₀ (if c then t else s) := hk.ite (ht hk)

theorem Keeps.fatalLanes (k : Nat) (found : List (Nat × Nat)) (round : BitVec 24) : Keeps s₀ (fatalLanes s k found round) := by
  unfold Machine.fatalLanes
  dsimp only
  split
  · exact hk
  · refine (Keeps.foldl (fun _ _ ht => ht.laneFails ..) _ ?_).noteSilent _
    refine Keeps.iteOf ?_ fun h => Keeps.foldl (fun _ _ ht => (ht.laneMod ..).sendNotice ..) _ (h.linkKeep _ _)
    refine Keeps.foldl (fun _ _ ht => ht.laneGoesFatal ..) _ (Keeps.interruptNego ?_ _)
    exact Keeps.foldl (fun _ _ ht => ht.linkLog ..) _ ((hk.cntAdd ..).logCapture ..)

theorem Keeps.execLaneFatal (l : LinkId) (found : List LaneRound) : Runs s₀ (execLaneFatal l found s) := by
  unfold Machine.execLaneFatal
  dsimp only
  split
  · exact hk.next
  · exact Keeps.iteRuns hk.next (hk.fatalLanes ..).next

theorem Keeps.notJoined (k i : Nat) (t : TrainRx) : Keeps s₀ (notJoined s k i t) := (hk.linkLog ..).ite (hk.takeFree.linkLog ..)

theorem Keeps.checkReady (k i : Nat) : Keeps s₀ (checkReady s k i) := hk.ite (hk.sendPlainNotice ..)

theorem Keeps.execLaneReberthed (l : LinkId) (lane : Byte) (train : TrainRx) : Runs s₀ (execLaneReberthed l lane train s) :=
  Keeps.iteRuns hk.next (Keeps.iteRuns ((hk.notJoined ..).next) ((((hk.laneMod ..).linkKeep _ _).checkReady ..).next))

theorem Keeps.execReberthTimeout (l : LinkId) (lane : Byte) : Runs s₀ (execReberthTimeout l lane s) := by
  unfold Machine.execReberthTimeout
  extract_lets _ _ s3
  have hs3 : Keeps s₀ s3 := (hk.laneMod ..).cntAdd ..
  exact Keeps.iteRuns hk.next (((hs3.laneFails ..).ite hs3).next)

theorem Keeps.execRetireNoticeRepeat (l : LinkId) (lane : Byte) : Runs s₀ (execRetireNoticeRepeat l lane s) :=
  Keeps.iteRuns (((hk.laneMod ..).sendPlainNotice ..).next) hk.next

theorem Keeps.execReplayRequestResend (l : LinkId) : Runs s₀ (execReplayRequestResend l s) := by
  unfold Machine.execReplayRequestResend
  extract_lets _
  split
  · exact hk.next
  · exact Keeps.iteRuns (((hk.linkKeep _ _).sendPlainNotice ..).next) hk.next

theorem Keeps.applyMark (k : Nat) (action : MarkAction) (i width : Nat) : Keeps s₀ (applyMark s k action i width) := by
  cases action with
  | remove =>
    unfold Machine.applyMark
    refine (hk.linkLanes k _ fun x hx => ?_).checkReady ..
    dsimp only
    exact tsorted_tmod _ _ _ hx
  | add =>
    unfold Machine.applyMark
    refine hk.linkLanes k _ fun x hx => ?_
    dsimp only
    exact tsorted_tmod _ _ _ hx
  | setWidth =>
    unfold Machine.applyMark
    exact hk.linkKeep _ _

theorem Keeps.execMark (l : LinkId) (action : MarkAction) (lane epoch : Byte) (_round : BitVec 24) (width : Byte) :
    Runs s₀ (execMark l action lane epoch _round width s) :=
  Keeps.iteRuns hk.next (((hk.linkKeep _ _).applyMark ..).next)

theorem Keeps.checkNarrow (k : Nat) : Keeps s₀ (checkNarrow s k) := by
  unfold Machine.checkNarrow
  extract_lets _
  split
  · exact (hk.ite (hk.linkKeep _ _)).checkBelowMin ..
  · split
    · split
      · exact (hk.linkDown ..).linkDown ..
      · exact hk.linkDown ..
    · exact hk

theorem Keeps.queueRemoval (k i : Nat) (expect : BitVec 16) : Keeps s₀ (queueRemoval s k i expect) := by
  unfold Machine.queueRemoval
  exact ((hk.interruptNego ..).takeAck ..).linkKeep _ _

theorem Keeps.resteerGuest (i : Nat) : Keeps s₀ (resteerGuest s i) := by
  unfold Machine.resteerGuest
  extract_lets _ _
  split
  · exact hk
  · exact ((hk.dlSet ..).cntAdd ..).linkKeep _ _

theorem Keeps.resteer (k f i p : Nat) : Keeps s₀ (resteer s k f i p) := (((hk.mapSpare ..).linkKeep _ _).laneMod ..).linkLog ..

theorem Keeps.replaceLane (k i : Nat) : Keeps s₀ (replaceLane s k i) := by
  unfold Machine.replaceLane
  extract_lets s1
  have hs1 : Keeps s₀ s1 := hk.linkKeep _ _
  split
  · split
    · exact hs1.resteer ..
    · exact hs1
  · exact (hs1.resteerEngine ..).ite (hs1.resteerGuest ..)

theorem Keeps.noticeLane (k i reason : Nat) (expect : BitVec 16) : Keeps s₀ (noticeLane s k i reason expect) := by
  unfold Machine.noticeLane
  extract_lets s1 s2
  have hs1 : Keeps s₀ s1 := (hk.ite (hk.takeAck ..)).ite (hk.queueRemoval ..)
  have hs2 : Keeps s₀ s2 := hs1.ite ((hs1.dropMark ..).replaceLane ..)
  exact (hs2.linkKeep _ _).ite hs1

theorem Keeps.queueAdd (k i : Nat) : Keeps s₀ (queueAdd s k i) := hk.ite (hk.queueMark ..)

theorem Keeps.execNotice (l : LinkId) (lane : Byte) (reason : BitVec 4) (expect : BitVec 16) (_round : BitVec 24) :
    Runs s₀ (execNotice l lane reason expect _round s) :=
  Keeps.iteRuns hk.next (Keeps.iteRuns ((hk.replayFrom ..).next) (Keeps.iteRuns hk.next (Keeps.iteRuns (((hk.takeAck ..).queueAdd ..).next)
    ((hk.noticeLane ..).next))))

theorem Keeps.markSent (k : Nat) (action : MarkAction) (i width : Nat) : Keeps s₀ (markSent s k action i width) := by
  unfold Machine.markSent
  extract_lets _ s2 s3 s4 _ _ s7 s8
  have hs2 : Keeps s₀ s2 := hk.linkPut hk _
  have hs3 : Keeps s₀ s3 := (hs2.emit ..).ite hs2
  have hs4 : Keeps s₀ s4 := by
    dsimp only [s4]
    split
    · exact ((hs3.linkKeep _ _).replayFrom ..).ite hs3
    · exact hs3
  have hs7 : Keeps s₀ s7 := hk.linkPut hk _
  have hs8 : Keeps s₀ s8 := (hs7.emit ..).ite hs7
  split
  · exact hs4.checkNarrow ..
  · exact (hk.linkPut hk _).checkBelowMin ..
  · exact ((hs8.linkLog ..).checkBelowMin ..).endNego ..

theorem Keeps.nextMark (k : Nat) : Keeps s₀ (nextMark s k) := by
  unfold Machine.nextMark
  split
  · exact hk
  · exact ((hk.linkKeep _ _).sendMark ..).markSent ..

theorem Keeps.repeatNotices (k : Nat) : Keeps s₀ (repeatNotices s k) :=
  Keeps.foldl (fun _ _ ht => ht.ite ((ht.laneMod ..).sendNotice ..)) _ hk

theorem Keeps.linkTick (k : Nat) : Keeps s₀ (linkTick s k) := ((hk.repeatNotices ..).nextMark ..).ite hk

theorem Keeps.tickLinks : Keeps s₀ (tickLinks s) := Keeps.foldl (fun _ _ ht => ht.linkTick ..) _ hk

theorem Keeps.execCa (l : LinkId) (vc : BitVec 2) (ack : BitVec 16) (credit : Word) : Runs s₀ (execCa l vc ack credit s) := by
  refine Keeps.iteRuns hk.next (Keeps.next (Keeps.takeAck ?_ ..))
  exact hk.linkPut hk _ (takeCredit_tables ..).1 (takeCredit_tables ..).2

theorem Keeps.stampTime (p : QPar) : Keeps s₀ (stampTime s p).1 := by
  unfold Machine.stampTime
  split
  · exact hk
  · extract_lets _ _ _ s4
    have hs4 : Keeps s₀ s4 := hk.same.ite hk
    exact hs4

theorem Keeps.beginRetrain (k : Nat) : Keeps s₀ (beginRetrain s k) := by
  unfold Machine.beginRetrain
  exact (hk.emit ..).linkKeep _ _

theorem Keeps.acceptSent (k : Nat) (p : QPar) : Keeps s₀ (acceptSent s k p) := by
  unfold Machine.acceptSent
  split
  · exact hk.ite (hk.beginRetrain ..)
  · exact hk

theorem Keeps.sendWaiting (k v : Nat) : Keeps s₀ (sendWaiting s k v) := by
  unfold Machine.sendWaiting
  extract_lets _
  split
  · exact hk
  · exact (((hk.linkPut hk _).stampTime ..).transmit ..).acceptSent ..

theorem Keeps.enterStall (k : Nat) : Keeps s₀ (enterStall s k) := ((hk.linkPut hk _).cntAdd ..).ite hk

theorem Keeps.execParcelSend (l : LinkId) : Runs s₀ (execParcelSend l s) := by
  unfold Machine.execParcelSend
  extract_lets _ _
  split
  · exact hk.next
  · split
    · exact ((hk.sendCa ..).ite (hk.resendPar ..)).next
    · split
      · exact (hk.sendCa ..).next
      · split
        · exact ((hk.enterStall ..).sendCa ..).next
        · split
          · exact (hk.sendCa ..).next
          · exact (hk.sendWaiting ..).next

theorem Keeps.execAckTimeout (l : LinkId) : Runs s₀ (execAckTimeout l s) := by
  unfold Machine.execAckTimeout
  extract_lets _
  split
  · exact hk.next
  · exact Keeps.iteRuns ((((hk.cntAdd ..).linkLog ..).replayAll ..).next) hk.next

theorem Keeps.serveRequest (k : Nat) (n : Nego) : Keeps s₀ (serveRequest s k n) :=
  (((hk.linkPut hk _).enqueue ..).ite (hk.enqueue ..)).ite (hk.enqueue ..)

theorem Keeps.meetRequest (k : Nat) (n : Nego) : Keeps s₀ (meetRequest s k n) :=
  ((((hk.cntAdd ..).endNego ..).serveRequest ..).ite hk).ite (hk.serveRequest ..)

theorem Keeps.accepted (k : Nat) (n : Nego) : Keeps s₀ (accepted s k n) := (hk.queueMark ..).ite (hk.beginRetrain ..)

theorem Keeps.answered (k : Nat) (nonce : Word) {f : Nego → State} (hf : ∀ n, Keeps s₀ (f n)) : Keeps s₀ (answered s k nonce f) := by
  unfold Machine.answered
  split
  · exact hk.ite (hf _)
  · exact hk

theorem Keeps.leaveOut (k i : Nat) : Keeps s₀ (leaveOut s k i) := hk.linkLanes k _ fun _ hx => tsorted_terase _ hx

theorem Keeps.linkMessage (k : Nat) (p : Parcel) : Keeps s₀ (linkMessage s k p) := by
  unfold Machine.linkMessage
  split
  · exact hk.meetRequest ..
  · exact hk.meetRequest ..
  · exact hk.answered _ _ fun _ => hk.accepted ..
  · exact hk.answered _ _ fun _ => hk.endNego ..
  · exact hk.leaveOut ..
  · exact hk

theorem Keeps.linkArrive (l : LinkId) (h : Hdr) (payload : Parcel) (check : Word) : Runs s₀ (linkArrive s l h payload check) := by
  unfold Machine.linkArrive
  split
  · rename_i t1 e1
    have ht1 := (hk.receive ..).fst e1
    exact ht1.next
  · rename_i t2 _ e2
    have ht2 := (hk.receive ..).fst e2
    exact ((ht2.freeUnit ..).linkMessage ..).next

theorem Keeps.dropStrays (k : Nat) (strays : List (Byte × TrainRx)) : Keeps s₀ (dropStrays s k strays) := by
  unfold Machine.dropStrays
  refine Keeps.foldl (fun t e ht => ?_) _ hk
  refine (ht.notJoined k e.1.toNat e.2).linkLanes k _ fun x hx => ?_
  dsimp only
  exact tsorted_tmod _ _ _ hx

theorem Keeps.noneJoined (k : Nat) (p : Parcel) : Keeps s₀ (noneJoined s k p) := Keeps.foldl (fun _ _ ht => ht.notJoined ..) _ hk

theorem Keeps.matchLanes (k n : Nat) : Keeps s₀ (matchLanes s k n) := hk.ite (hk.linkKeep _ _)

theorem Keeps.helloUp (k : Nat) (p : Parcel) (strays : List (Byte × TrainRx)) : Keeps s₀ (helloUp s k p strays) := by
  unfold Machine.helloUp
  split
  · exact hk.noneJoined ..
  · extract_lets s1
    have hs1 : Keeps s₀ s1 := (hk.matchLanes ..).dropStrays ..
    exact (hs1.linkUp ..).ite (hs1.linkDown ..)

theorem Keeps.execHello (l : LinkId) (h : Hdr) (payload : Parcel) (check : Word) (strays : List (Byte × TrainRx)) :
    Runs s₀ (execHello l h payload check strays s) :=
  Keeps.iteRuns (hk.linkArrive ..) (Keeps.iteRuns hk.next (Keeps.iteRuns ((hk.requestReplay ..).next) (Keeps.iteRuns hk.next
    ((hk.helloUp ..).next))))

theorem Keeps.execWidthReq (l : LinkId) (h : Hdr) (payload : Parcel) (check : Word) : Runs s₀ (execWidthReq l h payload check s) :=
  hk.linkArrive ..

theorem Keeps.execRetrainReq (l : LinkId) (h : Hdr) (payload : Parcel) (check : Word) : Runs s₀ (execRetrainReq l h payload check s) :=
  hk.linkArrive ..

theorem Keeps.execAccept (l : LinkId) (h : Hdr) (payload : Parcel) (check : Word) : Runs s₀ (execAccept l h payload check s) :=
  hk.linkArrive ..

theorem Keeps.execRefuse (l : LinkId) (h : Hdr) (payload : Parcel) (check : Word) : Runs s₀ (execRefuse l h payload check s) :=
  hk.linkArrive ..

theorem Keeps.laneOutHere (k i : Nat) : Keeps s₀ (laneOutHere s k i) := by
  unfold Machine.laneOutHere
  extract_lets _ s2 s3 s4 _
  have hs2 : Keeps s₀ s2 := hk.linkPut hk _
  have hs3 : Keeps s₀ s3 := hs2.enqueue ..
  have hs4 : Keeps s₀ s4 := hs3.ite (hs3.queueMark ..)
  exact (((hs3.linkKeep _ _).linkLog ..).ite (hs4.linkLog ..)).ite hk

theorem Keeps.execQlWidthReq (l : LinkId) (value : Word) : Runs s₀ (execQlWidthReq l value s) :=
  Keeps.iteRuns (hk.softWrite _ fun _ ht => (ht.negoWrite ..).next) hk.next

theorem Keeps.execQlRetrain (l : LinkId) (value : Word) : Runs s₀ (execQlRetrain l value s) :=
  Keeps.iteRuns (hk.softWrite _ fun _ ht => (ht.negoWrite ..).next) hk.next

omit hk in
/-- Entries that stay in order, each with its own key, keep the keys rising. -/
theorem tsorted_filterMap {β γ : Type} {m : Tbl β} {f : Nat × β → Option (Nat × γ)} (hf : ∀ e x, f e = some x → x.1 = e.1)
    (h : tsorted m = true) : tsorted (m.filterMap f) = true := by
  induction m with
  | nil => rfl
  | cons e r ih =>
    obtain ⟨a, w⟩ := e
    have hr := ih (tsorted_tail h)
    simp only [List.filterMap_cons]
    split
    · exact hr
    · rename_i x hx
      obtain ⟨b, v⟩ := x
      obtain rfl : b = a := hf _ _ hx
      refine tsorted_cons hr fun y hy => ?_
      obtain ⟨z, hz, hzy⟩ := List.mem_filterMap.1 hy
      exact hf _ _ hzy ▸ tsorted_head_lt h hz

omit hk in
theorem retrainedLanes_canonical {x : LinkSt} (h : x.canonical = true) : (retrainedLanes x).canonical = true := by
  obtain ⟨hl, hs⟩ := (linkCanonical_iff x).1 h
  refine (linkCanonical_iff _).2 ⟨tsorted_filterMap (fun e y he => ?_) hl, hs⟩
  split at he
  · cases he
  · cases he; rfl

theorem Keeps.execRetrainDone (l : LinkId) (expect : BitVec 16) : Runs s₀ (execRetrainDone l expect s) := by
  unfold Machine.execRetrainDone
  dsimp only
  have h1 : Keeps s₀ (Machine.linkSet s l.key { retrainedLanes (linkGet s l.key) with st := .up, retraining := false, serving := none }) :=
    hk.linkSet _ fun h => retrainedLanes_canonical ((hk.inv h).linkOk _)
  have h2 := ((h1.linkLog l.key 0x0405 (widthOf (linkGet (Machine.linkSet s l.key { retrainedLanes (linkGet s l.key) with
    st := .up, retraining := false, serving := none }) l.key).txActive)).replayFrom l.key expect).pairLog s l.key
  refine Keeps.iteRuns hk.next (Keeps.next ?_)
  split
  · exact h2.ite (h2.endNego ..)
  · exact h2

theorem Keeps.execQlScuttle (l : LinkId) (value : Word) (reachesUp : Bool) : Runs s₀ (execQlScuttle l value reachesUp s) := by
  unfold Machine.execQlScuttle
  extract_lets _
  split
  · exact hk.next
  · refine hk.softWrite _ fun t2 ht2 => ?_
    split
    · exact (ht2.rset ..).next
    · extract_lets s3 _
      have hs3 : Keeps s₀ s3 := ht2.rset ..
      exact Keeps.iteRuns ((hs3.logCapture ..).next) (((hs3.scuttle ..).logCapture ..).next)

theorem Keeps.execLinkSilentTimeout (l : LinkId) : Runs s₀ (execLinkSilentTimeout l s) := by
  unfold Machine.execLinkSilentTimeout
  split
  · exact hk.next
  · exact Keeps.iteRuns ((hk.linkDown ..).next) hk.next

theorem Keeps.execLinkTrainRetry (l : LinkId) : Runs s₀ (execLinkTrainRetry l s) := Keeps.iteRuns ((hk.trainLink ..).next) hk.next

theorem Keeps.movePair (a b : Nat) (x : Nat × Nat) : Keeps s₀ (movePair a b s x) := (((hk.same.cntAdd ..).cntAdd ..).logRecord ..).ite hk

theorem Keeps.returnPair (a b : Nat) (x : Nat × Nat) : Keeps s₀ (returnPair a b s x) := ((hk.same.cntAdd ..).logRecord ..).ite hk

theorem Keeps.execPairReroute (a b : Fin 6) : Runs s₀ (execPairReroute a b s) := by
  unfold Machine.execPairReroute
  split
  · exact hk.next
  · refine Keeps.next ?_
    refine Keeps.foldl (fun t _ ht => ?_) _ ?_
    · exact ht.movePair ..
    · exact hk

theorem Keeps.execPairReturn (a b : Fin 6) : Runs s₀ (execPairReturn a b s) := by
  unfold Machine.execPairReturn
  extract_lets _
  split
  · exact hk.next
  · split
    · refine Keeps.next ?_
      refine Keeps.foldl (fun t _ ht => ?_) _ ?_
      · exact ht.returnPair ..
      · exact hk
    · exact hk.next

end

end Sys2Proof.Machine
end

section
/-! What is kept: records, optics, lasers, launches, slack and the tide. -/

namespace Sys2Proof.Machine
set_option Elab.async false

section
variable {s₀ s : State} (hk : Keeps s₀ s)
include hk

/-! ## Calibration records -/

theorem Keeps.calSet (ty slot copy : Nat) (v : CalCopy) : Keeps s₀ (calSet s ty slot copy v) :=
  hk.lift (calSet_pending ..) fun hs => hs.calSet ..

theorem Keeps.calMove (ty slot k : Nat) (target : Int) : Keeps s₀ (calMove s ty slot k target) := hk.same

theorem Keeps.calLoad (readable : Bool) (ty slot : Nat) : Keeps s₀ (calLoad s readable ty slot) := by
  unfold Machine.calLoad
  extract_lets _ _ _ _ s5 _
  have hs5 : Keeps s₀ s5 := hk.takeFree
  split
  · exact hk.same
  · exact hs5.same

/-! ## Optics: operations -/

theorem Keeps.oeSet (n : Nat) (x : OeSt) : Keeps s₀ (oeSet s n x) := hk.lift (oeSet_pending ..) fun hs => hs.oeSet ..

theorem Keeps.oeMod (n : Nat) (f : OeSt → OeSt) : Keeps s₀ (oeMod s n f) := hk.lift (oeMod_pending ..) fun hs => hs.oeMod ..

theorem Keeps.ringMod (n r : Nat) (f : RingSt → RingSt) : Keeps s₀ (ringMod s n r f) := hk.oeMod ..

theorem Keeps.ringEnter (n r : Nat) (m : RingMode) (f : RingSt → RingSt) : Keeps s₀ (ringEnter s n r m f) := hk.ringMod ..

theorem Keeps.sweepRing (n r : Nat) (up : Bool) : Keeps s₀ (sweepRing s n r up) := hk.ringEnter ..

theorem Keeps.toPark (n r : Nat) : Keeps s₀ (toPark s n r) := hk.ringEnter ..

theorem Keeps.parkRing (n r : Nat) : Keeps s₀ (parkRing s n r) := ((hk.ringMod ..).toPark ..).ite hk

theorem Keeps.startRing (n r : Nat) : Keeps s₀ (startRing s n r) := by
  unfold Machine.startRing
  extract_lets _ _ s3
  have hs3 : Keeps s₀ s3 := hk.ringMod ..
  exact ((hs3.sweepRing ..).ite (hs3.toPark ..)).ite hk

theorem Keeps.releaseRings (n : Nat) (l : List Nat) : Keeps s₀ (releaseRings s n l) := hk.oeMod ..

theorem Keeps.parkUnneeded (n : Nat) (l : List Nat) : Keeps s₀ (parkUnneeded s n l) :=
  Keeps.foldl (fun _ _ ht => (ht.parkRing ..).ite ht) _ hk

theorem Keeps.oeLog (n kind detail ring : Nat) : Keeps s₀ (oeLog s n kind detail ring) := hk.logRecord ..

theorem Keeps.dropReading (n : Nat) : Keeps s₀ (dropReading s n) := by
  unfold Machine.dropReading
  split
  · exact hk
  · exact (Keeps.foldl (fun _ _ ht => ht.rset ..) _ ((hk.oeMod ..).rset ..)).logCapture ..

theorem Keeps.takePlace (n e : Nat) (q : TxPlace) : Keeps s₀ (takePlace s n e q) := by
  unfold Machine.takePlace
  extract_lets _ _ s3 s4 s5
  have hs3 : Keeps s₀ s3 := by
    dsimp only [s3]
    split
    · exact hk.ite (hk.dropReading ..)
    · exact hk
  have hs4 : Keeps s₀ s4 := hs3.oeMod ..
  have hs5 : Keeps s₀ s5 := hs4.releaseRings ..
  exact Keeps.foldl (fun _ _ ht => ht.startRing ..) _ hs5

theorem Keeps.leftOut (k i : Nat) : Keeps s₀ (leftOut s k i) := by
  unfold Machine.leftOut
  refine Keeps.laneOutHere ?_ ..
  split
  · exact hk.cntAdd ..
  · exact hk

theorem Keeps.moveLane (n e cause : Nat) (taken : List (Nat × Nat)) : Keeps s₀ (moveLane s n e cause taken) := by
  unfold Machine.moveLane
  extract_lets _
  split
  · exact hk
  · split
    · exact hk.leftOut ..
    · exact ((((hk.takePlace ..).cntAdd ..).logCapture64 ..).linkKeep _ _).linkLog ..

theorem Keeps.execLaneOut (l : LinkId) (e : LaneOut) : Runs s₀ (execLaneOut l e s) := by
  unfold Machine.execLaneOut
  extract_lets _
  split
  · exact Keeps.iteRuns ((hk.leftOut ..).next) hk.next
  · exact hk.linkArrive ..

theorem Keeps.retireReceived (n e : Nat) : Keeps s₀ (retireReceived s n e) := by
  unfold Machine.retireReceived
  split
  · exact hk.ite ((hk.laneGoesFatal ..).retireLane ..)
  · exact hk

theorem Keeps.giveUp (n r kind : Nat) : Keeps s₀ (giveUp s n r kind) := by
  unfold Machine.giveUp
  extract_lets _ s2 s3
  have hs2 : Keeps s₀ s2 := hk.ringEnter ..
  have hs3 : Keeps s₀ s3 := (hs2.cntAdd ..).oeLog ..
  split
  · exact Keeps.foldl (fun _ _ ht => ht.moveLane ..) _ hs3
  · split
    · exact hs3.ite (hs3.retireReceived ..)
    · exact hs3

theorem Keeps.ringFails (n r kind : Nat) : Keeps s₀ (ringFails s n r kind) := by
  unfold Machine.ringFails
  extract_lets _ s2
  have hs2 : Keeps s₀ s2 := hk.ringMod ..
  exact ((hs2.sweepRing ..).ite (hs2.toPark ..)).ite (hs2.giveUp ..)

theorem Keeps.ringFatal (n r : Nat) : Keeps s₀ (ringFatal s n r) := by
  unfold Machine.ringFatal
  split
  · exact hk
  · split
    · exact hk
    · extract_lets s1
      have hs1 : Keeps s₀ s1 := (hk.cntAdd ..).oeLog ..
      split
      · exact hs1.takeFree.fatalLanes ..
      · exact hs1

theorem Keeps.wrongLine (n r found : Nat) : Keeps s₀ (wrongLine s n r found) := by
  unfold Machine.wrongLine
  extract_lets _ _
  split
  · exact hk
  · extract_lets _ s4 s5 s6 s7
    have hs4 : Keeps s₀ s4 := hk.calMove ..
    have hs5 : Keeps s₀ s5 := hs4.ringMod ..
    have hs6 : Keeps s₀ s6 := (hs5.cntAdd ..).logCapture ..
    have hs7 : Keeps s₀ s7 := hs6.oeLog ..
    exact (hs7.sweepRing ..).ite (hs7.giveUp ..)

theorem Keeps.leaveFibre (n e : Nat) : Keeps s₀ (leaveFibre s n e) := by
  unfold Machine.leaveFibre
  extract_lets _ _
  split
  · exact hk
  · split
    · exact hk.moveLane ..
    · split
      · exact hk.laneOutHere ..
      · exact hk

theorem Keeps.placeLane (n : Nat) (ie : Nat × Nat) : Keeps s₀ (placeLane n s ie) := ((hk.takePlace ..).ite hk).leaveFibre ..

theorem Keeps.dropPlaces (c : Chart) (n : Nat) : Keeps s₀ (dropPlaces s c n) := (hk.oeSet ..).parkUnneeded ..

theorem Keeps.startReceive (n : Nat) : Keeps s₀ (startReceive s n) := (Keeps.foldl (fun _ _ ht => ht.startRing ..) _ hk).ite hk

theorem Keeps.placeLanes (n : Nat) : Keeps s₀ (placeLanes s n) := by
  unfold Machine.placeLanes
  split
  · exact hk
  · extract_lets s1 _
    have hs1 : Keeps s₀ s1 := hk.dropPlaces ..
    refine Keeps.startReceive ?_ ..
    refine Keeps.foldl (fun t _ ht => ?_) _ ?_
    · exact ht.placeLane ..
    · exact hs1

theorem Keeps.startRings (n : Nat) : Keeps s₀ (startRings s n) := (Keeps.foldl (fun _ _ ht => ht.startRing ..) _ hk).startReceive ..

theorem Keeps.dimRings (n : Nat) (l : List Nat) : Keeps s₀ (dimRings s n l) :=
  Keeps.foldl (fun _ _ ht => (ht.ite (ht.ringMod ..)).ite (ht.parkRing ..)) _ hk

theorem Keeps.lightBack (n : Nat) (l : List Nat) : Keeps s₀ (lightBack s n l) := by
  unfold Machine.lightBack
  exact (Keeps.foldl (fun _ _ ht => ht.startRing ..) _ hk).oeMod ..

theorem Keeps.darkTx (n : Nat) : Keeps s₀ (darkTx s n) := (hk.oeMod ..).dimRings ..

theorem Keeps.darkPlaces (n : Nat) : Keeps s₀ (darkPlaces s n) := (hk.oeMod ..).darkTx ..

theorem Keeps.lightPlaces (n : Nat) : Keeps s₀ (lightPlaces s n) := ((hk.oeMod ..).lightBack ..).ite (hk.oeMod ..)

/-! ## Optics -/

theorem Keeps.execReceivePlaceSteer (n : Fin 8) (place : Fin 306) (dev : BitVec 4) (engine : Fin 8) (lane : Byte) :
    Runs s₀ (execReceivePlaceSteer n place dev engine lane s) :=
  Keeps.iteRuns hk.next (Keeps.iteRuns (((hk.oeMod ..).takeFree.linkLog ..).next) (((hk.ite (hk.laneMod ..)).oeMod ..).next))

theorem Keeps.execPlaceMove (n : Fin 8) (lane : Byte) (ring : Bool) : Runs s₀ (execPlaceMove n lane ring s) :=
  Keeps.iteRuns ((hk.moveLane ..).next) hk.next

theorem Keeps.trainMoved (n e : Nat) : Keeps s₀ (trainMoved s n e) := by
  unfold Machine.trainMoved
  split
  · exact hk.ite (hk.emit ..)
  · exact hk

theorem Keeps.execPlaceMoveDone (n : Fin 8) (lane : Byte) : Runs s₀ (execPlaceMoveDone n lane s) :=
  Keeps.iteRuns (((hk.oeSet ..).trainMoved ..).next) hk.next

theorem Keeps.homeTest (n : Nat) (bad : BitVec 17) (delays : List (Fin 17 × BitVec 16)) : Keeps s₀ (homeTest s n bad delays) :=
  (hk.oeMod ..).ite hk

theorem Keeps.execOeHomeTest (n : Fin 8) (value : Word) (bad : BitVec 17) (delays : List (Fin 17 × BitVec 16)) :
    Runs s₀ (execOeHomeTest n value bad delays s) :=
  Keeps.iteRuns hk.next (hk.softWrite _ fun _ ht => (ht.ite (ht.homeTest ..)).next)

theorem Keeps.execRingSweepDone (n : Fin 8) (ring : Fin 10999) (found : Option (BitVec 16)) :
    Runs s₀ (execRingSweepDone n ring found s) := by
  unfold Machine.execRingSweepDone
  split
  · exact hk.next
  · split
    · exact (hk.ringEnter ..).next
    · exact ((hk.ringFails ..).ite (hk.parkRing ..)).next

theorem Keeps.execRingSweepRetry (n : Fin 8) (ring : Fin 10999) : Runs s₀ (execRingSweepRetry n ring s) :=
  Keeps.iteRuns hk.next (Keeps.iteRuns (((hk.startRing ..).ite hk).next) (((hk.sweepRing ..).ite hk).next))

theorem Keeps.noteError (n r : Nat) (err : Byte) : Keeps s₀ (noteError s n r err) := hk.ite (hk.rset ..)

theorem Keeps.loopAt (n r : Nat) (code : BitVec 16) (err : Byte) : Keeps s₀ (loopAt s n r code err) := (hk.ringMod ..).noteError ..

theorem Keeps.execRingAcquired (n : Fin 8) (ring : Fin 10999) (code : BitVec 16) (err : Byte) :
    Runs s₀ (execRingAcquired n ring code err s) :=
  Keeps.iteRuns hk.next (Keeps.iteRuns ((hk.ringFails ..).next) (((hk.loopAt ..).ringEnter ..).next))

theorem Keeps.execRingIdentityCheck (n : Fin 8) (ring : Fin 10999) (tones : List (BitVec 16)) :
    Runs s₀ (execRingIdentityCheck n ring tones s) := by
  unfold Machine.execRingIdentityCheck
  extract_lets _
  split
  · exact hk.next
  · split
    · exact ((hk.ringEnter ..).cntAdd ..).next
    · exact (hk.wrongLine ..).next
    · exact (hk.ringFails ..).next

theorem Keeps.execRingPeriodicCheck (n : Fin 8) (ring : Fin 10999) (tones : List (BitVec 16)) :
    Runs s₀ (execRingPeriodicCheck n ring tones s) := by
  unfold Machine.execRingPeriodicCheck
  extract_lets _ s2
  have hs2 : Keeps s₀ s2 := hk.ringMod ..
  split
  · exact hk.next
  · split
    · exact hs2.next
    · exact ((hs2.ringFatal ..).wrongLine ..).next
    · exact ((hs2.ringFatal ..).ringFails ..).next

theorem Keeps.execRingUnlock (n : Fin 8) (ring : Fin 10999) (err : Byte) (code : BitVec 16) :
    Runs s₀ (execRingUnlock n ring err code s) := by
  unfold Machine.execRingUnlock
  split
  · exact hk.next
  · extract_lets s1
    have hs1 : Keeps s₀ s1 := hk.loopAt ..
    exact Keeps.iteRuns (((hs1.ringFatal ..).ringFails ..).next) (Keeps.iteRuns (((hs1.takeFree.ringFatal ..).ringFails ..).next) hs1.next)

theorem Keeps.execRingLightLoss (n : Fin 8) (place : LightAt) : Runs s₀ (execRingLightLoss n place s) := by
  unfold Machine.execRingLightLoss
  split
  · exact hk.next
  · split
    · exact Keeps.iteRuns hk.next (((hk.oeMod ..).dimRings ..).next)
    · exact Keeps.iteRuns hk.next (((hk.oeMod ..).dimRings ..).next)

theorem Keeps.execRingLightReturn (n : Fin 8) (place : LightAt) (power : BitVec 16) : Runs s₀ (execRingLightReturn n place power s) := by
  unfold Machine.execRingLightReturn
  split
  · exact hk.next
  · split
    · exact ((hk.oeMod ..).lightBack ..).next
    · exact Keeps.iteRuns hk.next (((hk.oeSet ..).lightBack ..).next)

theorem Keeps.execRingDarkTimeout (n : Fin 8) (place : LightAt) : Runs s₀ (execRingDarkTimeout n place s) := by
  unfold Machine.execRingDarkTimeout
  extract_lets _
  split
  · exact hk.next
  · split
    · exact Keeps.iteRuns hk.next (((Keeps.foldl (fun _ _ ht => ht.parkRing ..) _ hk).oeMod ..).next)
    · exact Keeps.iteRuns hk.next ((Keeps.foldl (fun _ _ ht => ht.parkRing ..) _ hk).next)

theorem Keeps.execForecastReceive (n : Fin 8) (fire : Dword) : Runs s₀ (execForecastReceive n fire s) := by
  unfold Machine.execForecastReceive
  split
  · exact hk.next
  · split
    · exact hk.next
    · extract_lets s1 s2 s3
      have hs1 : Keeps s₀ s1 := hk.takeForecast ..
      have hs2 : Keeps s₀ s2 := hs1.oeMod ..
      have hs3 : Keeps s₀ s3 := hs2.cntAdd ..
      exact (hs3.ite (hs3.cntAdd ..)).next

theorem Keeps.execOeWbCmd (n : Fin 8) (value : Word) : Runs s₀ (execOeWbCmd n value s) :=
  Keeps.iteRuns hk.next (hk.softWrite _ fun _ ht => Keeps.iteRuns ((ht.rset ..).next) (Keeps.iteRuns ((ht.rset ..).next) (Keeps.iteRuns
    (((ht.rset ..).logCapture ..).next) (((ht.oeMod ..).rset ..).next))))

theorem Keeps.tickReadings : Keeps s₀ (tickReadings s) := by
  unfold Machine.tickReadings
  refine Keeps.foldl (fun t _ ht => ?_) _ ?_
  · split
    · exact ht
    · exact (ht.ite (ht.dropReading ..)).ite ((ht.oeMod ..).ite ht)
  · exact hk

theorem Keeps.execWeightBankReadingDone (n : Fin 8) (sum : Word) (abandoned : Bool) :
    Runs s₀ (execWeightBankReadingDone n sum abandoned s) := by
  unfold Machine.execWeightBankReadingDone
  split
  · exact hk.next
  · split
    · exact hk.next
    · split
      · exact (hk.dropReading ..).next
      · split
        · exact hk.next
        · exact Keeps.iteRuns hk.next (((Keeps.foldl (fun _ _ ht => ht.rset ..) _ ((hk.oeMod ..).rset ..)).logCapture ..).next)

theorem Keeps.execOeLockerrMax (n : Fin 8) (value : Word) (collides : Option Word) : Runs s₀ (execOeLockerrMax n value collides s) :=
  Keeps.iteRuns hk.next (hk.softWrite _ fun _ ht => (ht.rset ..).next)

theorem Keeps.execCalibrationStep : Runs s₀ (execCalibrationStep s) := Keeps.iteRuns hk.next hk.same.next

theorem Keeps.execRxPowerLow (n : Fin 8) (place : Fin 306) (power : BitVec 16) : Runs s₀ (execRxPowerLow n place power s) := by
  unfold Machine.execRxPowerLow
  extract_lets _ _ _ s4
  have hs4 : Keeps s₀ s4 := hk.oeMod ..
  exact Keeps.iteRuns hk.next (Keeps.iteRuns hs4.next (((hs4.cntAdd ..).oeLog ..).next))

/-- The NOR may change in all but the copies of the records. -/
theorem Keeps.norKeep {n : NorSt} (hn : n.copy = s.nor.copy) : Keeps s₀ { s with nor := n } :=
  hk.lift rfl fun hs => hs.withNor (hn ▸ ((inv_iff s).1 hs).nor)

theorem Keeps.execCalRecordWrite (ty : Fin 10) (slot : Fin 41) (written : Option (BitVec 16)) (values : List (Word × Word)) :
    Runs s₀ (execCalRecordWrite ty slot written values s) := by
  refine Keeps.iteRuns hk.next (Keeps.iteRuns hk.next (Keeps.next (Keeps.norKeep ?_ rfl)))
  exact Keeps.calSet (hk.ite (Keeps.foldl (fun _ _ ht => ht.calMove ..) _ hk)) ..

/-! ## Lasers -/

theorem Keeps.lsSet (n : Nat) (x : LsSt) : Keeps s₀ (lsSet s n x) := hk.lift (lsSet_pending ..) fun hs => hs.lsSet ..

theorem Keeps.lsLog (n kind detail : Nat) : Keeps s₀ (lsLog s n kind detail) := hk.logRecord ..

theorem Keeps.execStandbyDiverge (n : Fin 8) (line : Fin 18) (ferr power : BitVec 16) : Runs s₀ (execStandbyDiverge n line ferr power s) :=
  Keeps.iteRuns hk.next (Keeps.iteRuns ((hk.lsSet ..).next) ((((hk.lsSet ..).cntAdd ..).lsLog ..).next))

theorem Keeps.biasLog (n : Nat) (side : Bool) (level : Nat) (bias : BitVec 12) : Keeps s₀ (biasLog s n side level bias) := hk.lsLog ..

theorem Keeps.execLaserBiasThreshold (n : Fin 8) (side : Bool) (bias : BitVec 12) : Runs s₀ (execLaserBiasThreshold n side bias s) := by
  unfold Machine.execLaserBiasThreshold
  extract_lets _ _ _ _ _ _ s7 s8 _ _ _ _
  have hs7 : Keeps s₀ s7 := hk.lsSet ..
  have hs8 : Keeps s₀ s8 := hs7.ite ((hs7.lsSet ..).biasLog ..)
  exact Keeps.iteRuns hk.next (Keeps.iteRuns (((hs8.lsSet ..).biasLog ..).next) hs8.next)

theorem Keeps.swResult (n code : Nat) : Keeps s₀ (swResult s n code) := hk.logCapture ..

theorem Keeps.execLsSwCmd (n : Fin 8) (value : Word) : Runs s₀ (execLsSwCmd n value s) := by
  unfold Machine.execLsSwCmd
  extract_lets _
  split
  · exact hk.next
  · refine hk.softWrite _ fun t2 ht2 => ?_
    split
    · exact (ht2.rset ..).next
    · extract_lets _ s4
      have hs4 : Keeps s₀ s4 := ht2.rset ..
      exact Keeps.iteRuns ((hs4.lsSet ..).next) ((hs4.swResult ..).next)

theorem Keeps.darkRings (n dark : Nat) : Keeps s₀ (darkRings s n dark) := by
  unfold Machine.darkRings
  extract_lets _ s2 s3
  have hs2 : Keeps s₀ s2 := hk.dimRings ..
  have hs3 : Keeps s₀ s3 := hs2.ite (Keeps.foldl (fun _ _ ht => ht.parkRing ..) _ hs2)
  exact (hs3.lightBack ..).ite hs3

theorem Keeps.changeSide (n : Nat) (dark : BitVec 16) (unscheduled : Bool) : Keeps s₀ (changeSide s n dark unscheduled) := by
  unfold Machine.changeSide
  extract_lets _ _ s3 s4
  have hs3 : Keeps s₀ s3 := hk.lsSet ..
  have hs4 : Keeps s₀ s4 := hs3.ite (hs3.darkRings ..)
  exact hs4.lsLog ..

theorem Keeps.execScheduledSwitchover (n : Fin 8) (dark : BitVec 16) : Runs s₀ (execScheduledSwitchover n dark s) :=
  Keeps.iteRuns hk.next (Keeps.iteRuns ((((hk.changeSide ..).cntAdd ..).swResult ..).next) (Keeps.iteRuns hk.next ((hk.lsSet ..).next)))

theorem Keeps.execSwitchoverForced (n : Fin 8) (dark stall : BitVec 16) : Runs s₀ (execSwitchoverForced n dark stall s) := by
  unfold Machine.execSwitchoverForced
  extract_lets _ s2 s3
  have hs2 : Keeps s₀ s2 := (hk.changeSide ..).cntAdd ..
  have hs3 : Keeps s₀ s3 := hs2.cntAdd ..
  split
  · exact hk.next
  · exact Keeps.iteRuns hk.next (((hs3.lsLog ..).swResult ..).next)

theorem Keeps.engineDark (n : Nat) : Keeps s₀ (engineDark s n) := by
  unfold Machine.engineDark
  refine Keeps.foldl (fun t _ ht => ?_) _ ?_
  · exact ht.linkDown ..
  · exact hk.darkPlaces ..

theorem Keeps.noSide (n : Nat) : Keeps s₀ (noSide s n) := (hk.lsLog ..).engineDark ..

theorem Keeps.chipletReset (n : Nat) : Keeps s₀ (chipletReset s n) := (hk.lsSet ..).engineDark ..

theorem Keeps.execUnscheduledSwitchover (n : Fin 8) (dark : BitVec 16) : Runs s₀ (execUnscheduledSwitchover n dark s) := by
  unfold Machine.execUnscheduledSwitchover
  extract_lets _ _ _ s4 s5
  have hs4 : Keeps s₀ s4 := hk.lsSet ..
  have hs5 : Keeps s₀ s5 := hs4.ite (hs4.swResult ..)
  exact Keeps.iteRuns hk.next (Keeps.iteRuns ((hs5.noSide ..).next) (((hs5.changeSide ..).cntAdd ..).next))

/-! ## Launches -/

theorem Keeps.submit (w : BitVec 256) : Keeps s₀ (submit s w).1 := by
  unfold Machine.submit
  extract_lets _ _
  split
  · exact hk.entrySet ..
  · exact hk.cntAdd ..
  · exact hk.cntAdd ..

theorem Keeps.noteLate : Keeps s₀ (noteLate s) := by
  unfold Machine.noteLate
  split
  · exact hk
  · exact hk.ite hk.same

theorem Keeps.armOne : Keeps s₀ (armOne s).1 := by
  unfold Machine.armOne
  split
  · exact hk
  · split
    · exact hk
    · split
      · exact (hk.entrySet ..).cntAdd ..
      · split
        · exact hk
        · exact hk.armEntry ..

theorem Keeps.execArmLaunch : Runs s₀ (execArmLaunch s) := by
  unfold Machine.execArmLaunch
  split
  · split
    · rename_i t1 e1
      have ht1 := hk.noteLate.armOne.fst e1
      exact ht1.next
    · rename_i t2 e2
      have ht2 := hk.noteLate.armOne.fst e2
      refine Keeps.next ?_
      refine Keeps.foldl (fun t _ ht => ?_) _ ?_
      · exact ht.freeSet ..
      · exact ht2
  · exact hk.next

theorem Keeps.countLate (i : Nat) (e : LEntry) : Keeps s₀ (countLate s i e) := (((hk.cntAdd ..).cntAdd64 ..).logCapture64 ..).ite hk

theorem Keeps.execLaunchFire (index : Fin 4096) : Runs s₀ (execLaunchFire index s) := by
  unfold Machine.execLaunchFire
  extract_lets _ s2 _
  have hs2 : Keeps s₀ s2 := (hk.entrySet ..).countLate ..
  split
  · split
    · exact ((hs2.voyageSet ..).fireVoyage ..).next
    · exact ((hs2.voyageEvent ..).freeSet ..).next
  · exact hk.next

theorem Keeps.execLoadStepForecast (index : Fin 4096) : Runs s₀ (execLoadStepForecast index s) :=
  Keeps.iteRuns ((hk.sendForecast ..).next) hk.next

theorem Keeps.completionAdd (e : LEntry) : Keeps s₀ (completionAdd s e) := hk.ite (hk.bollSignal ..)

theorem Keeps.execVoyageComplete (set : Fin 4096) : Runs s₀ (execVoyageComplete set s) := by
  unfold Machine.execVoyageComplete
  split
  · exact hk.next
  · split
    · extract_lets s1 s2
      have hs1 : Keeps s₀ s1 := (hk.voyageSet ..).completionAdd ..
      have hs2 : Keeps s₀ s2 := hs1.ite (hs1.voyageEvent ..)
      exact (hs2.freeSet ..).next
    · exact hk.next

theorem Keeps.execTdCancel (value : Word) : Runs s₀ (execTdCancel value s) :=
  Keeps.iteRuns hk.next (hk.softWrite _ fun _ ht => Keeps.iteRuns ((ht.rset ..).next) ((((ht.ite
    (ht.entrySet ..)).rset ..).logCapture ..).next))

/-! ## Slack windows -/

theorem Keeps.execSlackWindow : Runs s₀ (execSlackWindow s) := by
  unfold Machine.execSlackWindow
  have h (x : SlackSt) : Keeps s₀ { s with slack := x } := hk.same
  exact Keeps.iteRuns (h _).next hk.next

theorem Keeps.tideEvent (code offset : Nat) : Keeps s₀ (tideEvent s code offset) := hk.sendEvent ..

theorem Keeps.execForcedSlack : Runs s₀ (execForcedSlack s) := Keeps.iteRuns (((hk.same.cntAdd ..).tideEvent ..).next) hk.next

theorem Keeps.armDeferred (n : Nat) : Keeps s₀ (armDeferred s n) := by
  induction n generalizing s with
  | zero => exact hk
  | succ n ih =>
    unfold Machine.armDeferred
    split
    · exact hk
    · exact hk.ite (ih hk.armOne)

theorem Keeps.markDeferred (w : Nat) : Keeps s₀ (markDeferred s w) := Keeps.foldl (fun _ _ ht => ht.entrySet ..) _ hk

theorem Keeps.execForcedSlackEnd : Runs s₀ (execForcedSlackEnd s) := by
  unfold Machine.execForcedSlackEnd
  split
  · exact hk.next
  · exact Keeps.iteRuns hk.next ((((hk.ite (hk.armDeferred ..)).markDeferred ..).same).next)

/-! ## The tide -/

theorem Keeps.execBeaconCheckMark (slot : Fin 41) : Runs s₀ (execBeaconCheckMark slot s) :=
  Keeps.iteRuns hk.next (Keeps.iteRuns hk.same.next ((hk.same.cntAdd ..).next))

theorem Keeps.execTideBeaconLost (slot : Fin 41) (net : Fin 2) : Runs s₀ (execTideBeaconLost slot net s) :=
  Keeps.iteRuns hk.next ((hk.same.logRecord ..).next)

theorem Keeps.execTimeExchangeRequest : Runs s₀ (execTimeExchangeRequest s) :=
  Keeps.iteRuns hk.next (((hk.ite (hk.cntAdd ..)).same.sendTo ..).next)

theorem Keeps.stepTide (twice : Int) : Keeps s₀ (stepTide s twice) := hk.same

theorem Keeps.judgeAlarm : Keeps s₀ (judgeAlarm s) := (hk.ite (hk.same.tideEvent ..)).ite hk.same

theorem Keeps.settleTide : Keeps s₀ (settleTide s) := by
  unfold Machine.settleTide
  split
  · exact hk.ite hk.same
  · exact hk.same.judgeAlarm
  · exact hk.judgeAlarm
  · exact hk

theorem Keeps.timeReply (p : Parcel) : Keeps s₀ (timeReply s p) := hk.same.same.settleTide.ite (hk.stepTide ..)

theorem Keeps.timeParcel (k : Nat) (p : Parcel) : Keeps s₀ (timeParcel s k p) := by
  unfold Machine.timeParcel
  split
  · exact hk.ite (hk.sendTo ..)
  · split
    · split
      · exact hk.ite (hk.timeReply ..)
      · exact hk
    · exact hk

theorem Keeps.execTimeParcelReceive (l : LinkId) (h : Hdr) (payload : Parcel) (check : Word) :
    Runs s₀ (execTimeParcelReceive l h payload check s) := by
  unfold Machine.execTimeParcelReceive
  split
  · rename_i t1 e1
    have ht1 := (hk.receiveLink ..).fst e1
    exact ht1.next
  · rename_i t2 _ e2
    have ht2 := (hk.receiveLink ..).fst e2
    exact Keeps.iteRuns ((ht2.acceptPar ..).next) (((ht2.freeUnit ..).timeParcel ..).next)

theorem Keeps.execTideHoldover : Runs s₀ (execTideHoldover s) := Keeps.iteRuns hk.same.next hk.next

theorem Keeps.execHoldoverLong : Runs s₀ (execHoldoverLong s) := Keeps.iteRuns ((hk.same.tideEvent ..).next) hk.next

theorem Keeps.execTideMarkOutput : Runs s₀ (execTideMarkOutput s) := Keeps.iteRuns hk.same.next hk.next

theorem Keeps.execTideMarkInput : Runs s₀ (execTideMarkInput s) := by
  unfold Machine.execTideMarkInput
  extract_lets _ _ s3 _
  have hs3 : Keeps s₀ s3 := hk.same
  exact Keeps.iteRuns hs3.same.next hs3.next

theorem Keeps.slewResult (code : Nat) : Keeps s₀ (slewResult s code) := hk.logCapture ..

theorem Keeps.execPlTideSlew (value : Word) : Runs s₀ (execPlTideSlew value s) :=
  Keeps.iteRuns hk.next (hk.softWrite _ fun _ ht => Keeps.iteRuns ((ht.rset ..).next) (Keeps.iteRuns (((ht.rset ..).slewResult ..).next)
    ((((ht.ite (ht.slewResult ..)).rset ..).same).next)))

theorem Keeps.execSlewComplete : Runs s₀ (execSlewComplete s) := Keeps.iteRuns (((hk.same.rset ..).slewResult ..).next) hk.next

end

end Sys2Proof.Machine
end

section
/-! What is kept: registers, charts, control of the cores and their events. -/

namespace Sys2Proof.Machine
set_option Elab.async false

section
variable {s₀ s : State} (hk : Keeps s₀ s)
include hk

/-! ## Registers: operations -/

theorem Keeps.setEn (b : Blk) (on : Bool) : Keeps s₀ (setEn s b on) := hk.lift (setEn_pending ..) fun hs => hs.setEn ..

theorem Keeps.setEnCode (b : Blk) (code : Nat) : Keeps s₀ (setEnCode s b code) := hk.lift (setEnCode_pending ..) fun hs => hs.setEnCode ..

theorem Keeps.enableTide : Keeps s₀ (enableTide s) := by
  unfold Machine.enableTide
  extract_lets _ _ _ _ _ s6 _
  have hs6 : Keeps s₀ s6 := hk.same
  exact hs6.ite hs6.same

theorem Keeps.loopOff (k : Nat) : Keeps s₀ (loopOff s k) := hk.linkKeep _ _

theorem Keeps.startWalks (slot : Nat) : Keeps s₀ (startWalks s slot) := hk.same

theorem Keeps.enableEffect (b : Blk) : Keeps s₀ (enableEffect s b) := by
  unfold Machine.enableEffect
  split
  · exact hk.enableTide
  · exact hk.startWalks ..
  · exact (hk.ite (hk.trainLink ..)).ite (hk.loopOff ..)
  · exact hk

theorem Keeps.enableBlock (b : Blk) : Keeps s₀ (enableBlock s b) := by
  unfold Machine.enableBlock
  split
  · extract_lets s1 _ _ s4 s5
    have hs1 : Keeps s₀ s1 := (hk.setEn ..).setEnCode ..
    have hs4 : Keeps s₀ s4 := hs1.ite hs1.same
    have hs5 : Keeps s₀ s5 := hs4.ite (hs4.lightPlaces ..)
    exact hs5.enableEffect ..
  · extract_lets s6 s7
    have hs6 : Keeps s₀ s6 := ((hk.setEn ..).setEnCode ..).errCount ..
    have hs7 : Keeps s₀ s7 := hs6.ite (hs6.logCapture ..)
    exact hs7.logRecord ..

theorem Keeps.disableBlock (b : Blk) : Keeps s₀ (disableBlock s b) := ((hk.ite ((hk.rset ..).takeFree)).setEn ..).same

theorem Keeps.setRole (w : Word) : Keeps s₀ (setRole s w) := ((hk.rset ..).same).ite hk

/-! ## Charts -/

theorem Keeps.hmEvent (w : Word) : Keeps s₀ (hmEvent s w) := hk.sendEvent ..

theorem Keeps.hmResult (cmd code : Nat) (l : List Shortfall) (detail : Nat) : Keeps s₀ (hmResult s cmd code l detail) := by
  unfold Machine.hmResult
  extract_lets _ s2
  have hs2 : Keeps s₀ s2 := hk.logCapture ..
  exact ((hs2.cntAdd ..).hmEvent ..).ite hs2

theorem Keeps.hmSet (st : HmState) : Keeps s₀ (hmSet s st) := hk.lift (hmSet_pending ..) fun hs => hs.hmSet ..

theorem Keeps.hmTaken : Keeps s₀ (hmTaken s) := hk.rset ..

theorem Keeps.hmWrongState (cmd : Nat) : Keeps s₀ (hmWrongState s cmd) := hk.hmTaken.hmResult ..

theorem Keeps.discardEntries : Keeps s₀ (discardEntries s) := hk.lift rfl fun hs => hs.withLaunch ⟨rfl, ((inv_iff s).1 hs).launch.2⟩

theorem Keeps.stopCmd : Keeps s₀ (stopCmd s) :=
  (Keeps.foldl (fun _ _ ht => ht.killVoyage ..) _ ((hk.hmTaken.hmSet ..).discardEntries)).ite (hk.hmWrongState ..)

theorem Keeps.execStopDone : Runs s₀ (execStopDone s) := Keeps.iteRuns (((hk.hmSet ..).cntAdd ..).next) hk.next

theorem Keeps.loadCmd (value : Word) : Keeps s₀ (loadCmd s value) :=
  ((((Keeps.foldl (fun _ _ ht => ht.rset ..) _ (hk.hmTaken.setBusy ..)).sramFix ..).sramFix ..).same).ite (hk.hmWrongState ..)

theorem Keeps.endLoad (st : HmState) : Keeps s₀ (endLoad s st) := by
  unfold Machine.endLoad
  extract_lets _ _ s3
  have hs3 : Keeps s₀ s3 := hk.same.rset ..
  exact (hs3.setBusy ..).ite hs3

theorem Keeps.linkOff (k : Nat) : Keeps s₀ (linkOff s k) := by
  unfold Machine.linkOff
  extract_lets s1 s2
  have hs1 : Keeps s₀ s1 := hk.interruptNego ..
  have hs2 : Keeps s₀ s2 := (hs1.loopOff ..).rset ..
  exact (hs2.scuttle ..).ite hs2

theorem Keeps.clearCoreSram (slot : Nat) : Keeps s₀ (clearCoreSram s slot) := by
  unfold Machine.clearCoreSram
  split
  · have h1 := hk.tugMap fun key t => if tugDie key = slot - 8 then { t with part := none } else t
    exact h1.setMem fun h => MemSt.ok_clear (h1.inv h).memOk ..
  · exact hk

theorem Keeps.rewriteBad (b : Blk) : Keeps s₀ (rewriteBad s b) := (Keeps.foldl (fun _ _ ht => ht.rset ..) _ hk).same

theorem Keeps.startDistribution (c : Chart) (slots : List Nat) : Keeps s₀ (startDistribution s c slots) := by
  unfold Machine.startDistribution
  extract_lets s1 _
  have hs1 : Keeps s₀ s1 := Keeps.foldl (fun _ _ ht => (ht.disableBlock ..).rewriteBad ..) _ hk
  refine Keeps.foldl (fun t _ ht => ?_) _ ?_
  · exact ht.clearCoreSram ..
  · refine Keeps.foldl (fun t _ ht => ?_) _ ?_
    · exact ht.linkOff ..
    · exact hs1

theorem Keeps.execLoadVerifyDone : Runs s₀ (execLoadVerifyDone s) := by
  unfold Machine.execLoadVerifyDone
  split
  · exact hk.next
  · split
    · exact hk.next
    · split
      · exact (((hk.ite (hk.cntAdd ..)).endLoad ..).hmResult ..).next
      · exact (hk.startDistribution ..).same.next

theorem Keeps.spareBank (q : Nat) : Keeps s₀ (spareBank s q) :=
  ((Keeps.foldl (fun _ _ ht => ht.sideFix ..) _ (Keeps.foldl (fun _ _ ht => ht.sramFixWord ..) _ hk)).same.rset ..).ite hk

theorem Keeps.substitute (c : Chart) (d : Nat) : Keeps s₀ (substitute s c d) := Keeps.foldl (fun _ _ ht => (ht.rset ..).rset ..) _ hk

theorem Keeps.writeRoutes (c : Chart) (q : Nat) : Keeps s₀ (writeRoutes s c q) := Keeps.foldl (fun _ _ ht => ht.rset ..) _ (hk.rset ..)

theorem Keeps.tryLanes (k : Nat) : Keeps s₀ (tryLanes s k) := (hk.interruptNego ..).linkKeep _ _

theorem Keeps.retrainMapped (again : List Nat) (k : Nat) : Keeps s₀ (retrainMapped again s k) :=
  (((hk.interruptNego ..).linkKeep _ _).trainLink ..).ite hk

theorem Keeps.writeOptic (c : Chart) (n : Nat) : Keeps s₀ (writeOptic c s n) := (hk.rset ..).placeLanes ..

omit hk in
theorem tsorted_bollTable (l : List BollRange) : tsorted (bollTable l) = true := by
  refine List.foldlRecOn (motive := fun t => tsorted t = true) l _ rfl fun t ht r _ => ?_
  split
  · exact List.foldlRecOn (motive := fun t => tsorted t = true) _ _ ht fun t ht _ _ => tsorted_tset _ _ _ ht
  · exact ht

theorem Keeps.bollards {x : BollSt} (hx : tsorted x.val = true) : Keeps s₀ { s with boll := x } := hk.lift rfl fun hs => hs.withBoll hx

theorem Keeps.writeHub (c : Chart) : Keeps s₀ (writeHub s c) := by
  have h1 := Keeps.bollards (hk.setRole c.tide) (x := { (Machine.setRole s c.tide).boll with val := bollTable c.bolls })
    (tsorted_bollTable _)
  exact Keeps.foldl (fun _ _ ht => ht.berthSet ..) _ h1.same

theorem Keeps.clearCaches (d : Nat) : Keeps s₀ (clearCaches s d) := Keeps.foldl (fun _ _ ht => ht.pierSet ..) _ hk

omit hk in
theorem tsorted_tclear {β : Type} {m : Tbl β} (lo hi : Nat) (h : tsorted m = true) : tsorted (tclear m lo hi) = true := tsorted_filter _ h

omit hk in
theorem MemSt.ok_freshErr {m : MemSt} (h : m.ok) (lo hi a : Nat) :
    MemSt.ok { m with sramErr := tclear m.sramErr lo hi, sideErr := terase m.sideErr a } := by
  have hc := (memCanonical_iff _).1 h.2
  exact MemSt.ok_sideErr (MemSt.ok_sramErr h (tsorted_tclear lo hi hc.sramErr)) (tsorted_terase a hc.sideErr)

omit hk in
theorem storeFresh_ok (image : Bool) (n : Nat) {m : MemSt} (h : m.ok) (a : Nat) (b : List Byte) : (storeFresh image n m a b).ok := by
  induction n generalizing m a b with
  | zero => exact h
  | succ n ih =>
    unfold storeFresh
    have h1 := MemSt.ok_freshErr (MemSt.ok_setParcel h a ⟨Parcel.ofBytes (b.take 256), parcelCheck (Parcel.ofBytes (b.take 256)), false⟩)
      (a / 8) (a / 8 + 32) (a / 256)
    exact ih (MemSt.ok_ite h1 (MemSt.ok_setSeal h1 ..)) _ _

theorem Keeps.writeImages (c : Chart) (d : Nat) : Keeps s₀ (writeImages s c d) := by
  refine Keeps.foldl (fun t _ ht => ?_) _ hk
  split
  · exact Keeps.foldl (fun t _ ht => ht.setMem fun h => storeFresh_ok _ _ (ht.inv h).memOk ..) _ ht
  · exact ht

theorem Keeps.writeConstants (c : Chart) (d : Nat) : Keeps s₀ (writeConstants s c d) := by
  refine hk.lift rfl fun hs => ?_
  obtain ⟨hw, hx⟩ := ((inv_iff s).1 hs).cores
  refine hs.withCores ⟨?_, hx⟩
  refine List.foldlRecOn (motive := fun m => Memory.wf m = true) c.consts _ (Memory.clear_wf _ _ hw) fun m hm r _ => ?_
  exact List.foldlRecOn (motive := fun m => Memory.wf m = true) _ _ hm fun m hm _ _ => Memory.writeBytes_wf _ _ hm

theorem Keeps.preloadParcel (a : Nat) (p : Parcel) : Keeps s₀ (preloadParcel s a p) := by
  unfold Machine.preloadParcel
  split
  · exact (hk.hbmStore ..).ite (hk.retiredHit ..)
  · exact hk.setMem fun h => storeFresh_ok _ _ (hk.inv h).memOk ..

theorem Keeps.writePreload (slots : List Nat) (n a : Nat) (b : List Byte) : Keeps s₀ (writePreload slots n s a b) := by
  induction n generalizing s a b with
  | zero => exact hk
  | succ n ih => exact ih (hk.ite (hk.preloadParcel ..)) _ _

theorem Keeps.writeDie (c : Chart) (slot : Nat) : Keeps s₀ (writeDie c s slot) := by
  unfold Machine.writeDie
  split
  · exact Keeps.foldl (fun _ _ ht => ht.rset ..) _ ((hk.spareBank ..).writeRoutes ..)
  · exact Keeps.foldl (fun _ _ ht => ht.rset ..) _ hk
  · exact ((hk.clearCaches ..).writeImages ..).writeConstants ..
  · exact hk.writeOptic ..
  · exact hk

theorem Keeps.enableAll (l : List Blk) : Keeps s₀ (enableAll s l).1 := by
  induction l generalizing s with
  | nil => exact hk
  | cons b r ih =>
    unfold Machine.enableAll
    split
    · exact ih (hk.enableBlock ..)
    · exact hk.enableBlock ..

theorem Keeps.loadFail (slot : Nat) : Keeps s₀ (loadFail s slot) := (hk.same.endLoad ..).hmResult ..

theorem Keeps.loadMeets (slot : Nat) : Keeps s₀ (loadMeets s slot) := by
  unfold Machine.loadMeets
  split
  · exact hk.ite (hk.loadFail ..)
  · exact hk

theorem Keeps.distribute (c : Chart) (slots : List Nat) : Keeps s₀ (distribute s c slots).1 := by
  unfold Machine.distribute
  extract_lets _ _ s3 _ s5 s6 s7 s8 s9 s10 s11
  have hs3 : Keeps s₀ s3 := hk.same
  have hs5 : Keeps s₀ s5 := by
    dsimp only [s5]
    refine Keeps.foldl (fun t _ ht => ?_) _ ?_
    · exact ht.tryLanes ..
    · exact hs3
  have hs6 : Keeps s₀ s6 := Keeps.foldl (fun _ _ ht => ht.substitute ..) _ hs5
  have hs7 : Keeps s₀ s7 := Keeps.foldl (fun _ _ ht => ht.dropPlaces ..) _ hs6
  have hs8 : Keeps s₀ s8 := by
    dsimp only [s8]
    refine Keeps.foldl (fun t _ ht => ?_) _ ?_
    · exact ht.writeDie ..
    · exact hs7
  have hs9 : Keeps s₀ s9 := by
    dsimp only [s9]
    refine Keeps.foldl (fun t _ ht => ?_) _ ?_
    · exact ht.retrainMapped ..
    · exact hs8
  have hs10 : Keeps s₀ s10 := hs9.writeHub ..
  have hs11 : Keeps s₀ s11 := Keeps.foldl (fun _ _ ht => ht.writePreload ..) _ hs10
  exact hs11.enableAll ..

theorem Keeps.execLoadDistributionDone : Runs s₀ (execLoadDistributionDone s) := by
  unfold Machine.execLoadDistributionDone
  split
  · exact hk.next
  · split
    · exact hk.next
    · split
      · exact hk.next
      · split
        · rename_i t1 _ e1
          have ht1 := (hk.distribute ..).fst e1
          exact (ht1.loadFail ..).next
        · rename_i t2 e2
          have ht2 := (hk.distribute ..).fst e2
          exact ((((ht2.endLoad ..).cntAdd ..).hmResult ..).hmEvent ..).next

theorem Keeps.execLoadFailed (slot : Fin 41) : Runs s₀ (execLoadFailed slot s) := (hk.loadMeets ..).next

theorem Keeps.runCmd : Keeps s₀ (runCmd s) := by
  unfold Machine.runCmd
  split
  · exact hk.hmWrongState ..
  · extract_lets s1 _
    have hs1 : Keeps s₀ s1 := hk.hmTaken
    split
    · rename_i t3 _ e3
      have ht3 := (hs1.enableAll ..).fst e3
      exact ht3.hmResult ..
    · rename_i t4 e4
      have ht4 := (hs1.enableAll ..).fst e4
      exact (ht4.hmSet ..).hmResult ..

theorem Keeps.hmCommand (value : Word) : Keeps s₀ (hmCommand s value) := by
  unfold Machine.hmCommand
  split
  · exact hk
  · split
    · exact hk.rset ..
    · split
      · exact hk.hmTaken.hmResult ..
      · exact hk.stopCmd
      · exact hk.loadCmd ..
      · exact hk.runCmd

theorem Keeps.hmRow (value : Word) : Runs s₀ (hmRow value s) := Keeps.iteRuns hk.next (hk.softWrite _ fun _ ht => (ht.hmCommand ..).next)

theorem Keeps.execStop (value : Word) : Runs s₀ (execStop value s) := hk.hmRow ..

theorem Keeps.execLoad (value : Word) : Runs s₀ (execLoad value s) := hk.hmRow ..

theorem Keeps.execRun (value : Word) : Runs s₀ (execRun value s) := hk.hmRow ..

theorem Keeps.execHmCmdInvalid (value : Word) : Runs s₀ (execHmCmdInvalid value s) := hk.hmRow ..

/-! ## Control of the cores -/

theorem Keeps.fetchLine (c : CoreId) (idx : Nat) : Keeps s₀ (fetchLine s c idx).1 := by
  unfold Machine.fetchLine
  extract_lets _ _ r _
  have hr : Keeps s₀ r.1 := hk.verifyRead ..
  split
  · exact hk.corePut hk _
  split
  · exact hr
  split
  · exact hr
  · dsimp only; exact Keeps.coreKeep hr _ _

theorem Keeps.execInstructionFetch (c : CoreId) (upset : List ParityBit) : Runs s₀ (execInstructionFetch c upset s) := by
  unfold Machine.execInstructionFetch
  extract_lets _ s2
  have hs2 : Keeps s₀ s2 := hk.corePut hk _
  split
  · split
    · exact (hs2.coreFault ..).next
    · split
      · rename_i t3 _ e3
        have ht3 := (hs2.fetchLine ..).fst e3
        exact (ht3.takeIssueFault ..).next
      · rename_i t4 _ e4
        have ht4 := (hs2.fetchLine ..).fst e4
        split
        · exact (ht4.coreFault ..).next
        · exact ((ht4.coreKeep _ _).takeTugHit ..).next
  · exact hk.next

theorem Keeps.branchOp (c : CoreId) (i : Instr) (more : CoreSt → List CoreWrite) : Runs s₀ (branchOp c i more s) := (hk.slotPure ..).next

theorem Keeps.execBeq (c : CoreId) (a b : Reg) (imm : Word) : Runs s₀ (execBeq c a b imm s) := hk.branchOp ..

theorem Keeps.execBne (c : CoreId) (a b : Reg) (imm : Word) : Runs s₀ (execBne c a b imm s) := hk.branchOp ..

theorem Keeps.execBlt (c : CoreId) (a b : Reg) (imm : Word) : Runs s₀ (execBlt c a b imm s) := hk.branchOp ..

theorem Keeps.execBltu (c : CoreId) (a b : Reg) (imm : Word) : Runs s₀ (execBltu c a b imm s) := hk.branchOp ..

theorem Keeps.execJmp (c : CoreId) (imm : Word) : Runs s₀ (execJmp c imm s) := hk.branchOp ..

theorem Keeps.execJal (c : CoreId) (d : Reg) (imm : Word) : Runs s₀ (execJal c d imm s) := hk.branchOp ..

theorem Keeps.execJr (c : CoreId) (a : Reg) : Runs s₀ (execJr c a s) := hk.branchOp ..

theorem Keeps.execEndVoyage (c : CoreId) : Runs s₀ (execEndVoyage c s) := (hk.slotPure ..).next

theorem Keeps.execEndRetire (c : CoreId) : Runs s₀ (execEndRetire c s) := Keeps.iteRuns ((hk.corePut hk _).next) hk.next

theorem Keeps.execTide (c : CoreId) (d : Reg) : Runs s₀ (execTide c d s) :=
  (hk.slotRun c 0 _ fun _ _ ht => ht.takeFree.voySet ..).next

theorem Keeps.execCsrr (c : CoreId) (d : Reg) (imm : Word) : Runs s₀ (execCsrr c d imm s) := (hk.slotPure ..).next

/-! ## Events of cores -/

theorem Keeps.execCoreWatchdog (c : CoreId) : Runs s₀ (execCoreWatchdog c s) := Keeps.iteRuns ((hk.coreFault ..).next) hk.next

theorem Keeps.execVoyageFaultEnd (set : Fin 4096) : Runs s₀ (execVoyageFaultEnd set s) := by
  unfold Machine.execVoyageFaultEnd
  split
  · exact hk.next
  · split
    · exact hk.next
    · exact Keeps.iteRuns hk.next ((hk.finishVoyage ..).next)

theorem Keeps.sliceDone (die : Fin 12) (pier : Fin 48) (j : Nat) (passed : Bool) : Keeps s₀ (sliceDone s die pier j passed) := by
  unfold Machine.sliceDone
  extract_lets _ _ _ _ _ _ _ _ _ s10 _ s12
  have hs10 : Keeps s₀ s10 := hk.pierSet ..
  have hs12 : Keeps s₀ s12 := ((hs10.cntAdd ..).logRecord ..).ite hs10
  exact hs12.ite (hs12.cntAdd ..)

theorem Keeps.execSelfTestSlice (die : Fin 12) (pier : Fin 48) (passed : Bool) : Runs s₀ (execSelfTestSlice die pier passed s) := by
  unfold Machine.execSelfTestSlice
  extract_lets _ _ _
  split
  · exact hk.next
  · split
    · exact Keeps.iteRuns hk.next ((hk.sliceDone ..).next)
    · split
      · exact hk.next
      · split
        · exact hk.next
        · exact (hk.pierSet ..).next

/-! ## Memory of cores -/

theorem Keeps.loadOp (c : CoreId) (i : Instr) (d a : Reg) (n : Nat) : Runs s₀ (loadOp c i d a n s) := (hk.slotPure ..).next

theorem Keeps.execLd (c : CoreId) (d a : Reg) (imm : Word) : Runs s₀ (execLd c d a imm s) := hk.loadOp ..

theorem Keeps.execLw (c : CoreId) (d a : Reg) (imm : Word) : Runs s₀ (execLw c d a imm s) := hk.loadOp ..

theorem Keeps.storeOp (c : CoreId) (i : Instr) (a b : Reg) (n : Nat) : Runs s₀ (storeOp c i a b n s) := (hk.slotPure ..).next

theorem Keeps.execSd (c : CoreId) (a b : Reg) (imm : Word) : Runs s₀ (execSd c a b imm s) := hk.storeOp ..

theorem Keeps.execSw (c : CoreId) (a b : Reg) (imm : Word) : Runs s₀ (execSw c a b imm s) := hk.storeOp ..

theorem Keeps.execVld (c : CoreId) (d a : Reg) (imm : Word) : Runs s₀ (execVld c d a imm s) := (hk.slotPure ..).next

theorem Keeps.execVst (c : CoreId) (d a : Reg) (imm : Word) : Runs s₀ (execVst c d a imm s) := (hk.slotPure ..).next

theorem Keeps.execBsig (c : CoreId) (a b : Reg) (imm : Word) : Runs s₀ (execBsig c a b imm s) :=
  (hk.slotRun c 0 _ fun t k ht => by split <;> exact ht).next

theorem Keeps.execBwait (c : CoreId) (a b : Reg) (imm : Word) : Runs s₀ (execBwait c a b imm s) := by
  refine (hk.slotRun c 0 _ fun t k ht => ?_).next
  split
  · exact ht
  split
  · dsimp only; exact ht.coreKeep _ _
  · dsimp only; exact Keeps.coreKeep (((Keeps.foldl (fun _ w ht => ht.applyWrite c k.idx w) _ ht).watchSet ..).watchHits _) _ _

theorem Keeps.execBread (c : CoreId) (d a : Reg) (imm : Word) : Runs s₀ (execBread c d a imm s) :=
  (hk.slotRun c 0 _ fun t k ht => by split <;> exact ht).next

end

end Sys2Proof.Machine
end

section
/-! What is kept: the pilot's operations, the guest, memory, resets and dies. -/

namespace Sys2Proof.Machine
set_option Elab.async false

section
variable {s₀ s : State} (hk : Keeps s₀ s)
include hk

/-! ## Memory of cores -/

theorem Keeps.fetchDesc (a : Nat) : Keeps s₀ (fetchDesc s a).1 := hk.sramFix ..

theorem Keeps.execTugp (c : CoreId) (a : Reg) (m : BitVec 3) : Runs s₀ (execTugp c a m s) := by
  refine (hk.slotRun c 0 _ fun t k ht => ?_).next
  extract_lets _ _ _ _ _ u
  split
  · dsimp only
    exact ht.coreKeep _ _
  · have hu : Keeps s₀ u := (ht.fetchDesc _).tugSet ..
    show Keeps s₀ (Machine.coreMod u c fun k => { k with run := .running })
    exact hu.coreKeep c _

/-! ## Pilot: operations -/

theorem Keeps.emitDgram (p : Fin 2) (d : Dgram) : Keeps s₀ (emitDgram s p d) := hk.emit ..

theorem Keeps.sendPilot (dev : Nat) (d : Dgram) : Keeps s₀ (sendPilot s dev d) := Keeps.foldl (fun _ _ ht => ht.sendTo ..) _ hk

theorem Keeps.noRoute : Keeps s₀ (noRoute s) := hk.cntAdd ..

theorem Keeps.toMember {came : Option (Fin 2)} {dev : Nat} {d : Dgram} {t : State} (e : toMember s came dev d = some t) : Keeps s₀ t := by
  have hs : Keeps s₀ (Machine.sendPilot s dev d) := hk.sendPilot ..
  have held (e : (pilotKey s dev).map (fun _ => Machine.sendPilot s dev d) = some t) : Keeps s₀ t := by
    obtain ⟨_, _, rfl⟩ := Option.map_eq_some_iff.1 e
    exact hs
  unfold Machine.toMember at e
  dsimp only at e
  split at e
  · cases e; exact hs
  split at e
  · split at e
    · exact held e
    · cases e; exact hk.emitDgram ..
  · exact held e

/-- A datagram goes to a member, or it has no route. -/
theorem Keeps.toMemberOr (came : Option (Fin 2)) (dev : Nat) (d : Dgram) :
    Keeps s₀ ((Machine.toMember s came dev d).getD (Machine.noRoute s)) := by
  cases e : Machine.toMember s came dev d with
  | none => exact hk.noRoute
  | some t => exact hk.toMember e

theorem Keeps.toHost (p : Fin 2) (d : Dgram) : Keeps s₀ (toHost s p d) := by
  unfold Machine.toHost
  split
  · exact hk.emitDgram ..
  · exact hk

theorem Keeps.sendBack (back : PilotPath) (d : Dgram) : Keeps s₀ (sendBack s back d) := by
  cases back with
  | port p => exact hk.ite (hk.emitDgram ..)
  | link src => exact hk.toMemberOr ..

theorem Keeps.upward (came : Option (Fin 2)) (back : Option PilotPath) (d : Dgram) : Keeps s₀ (upward s came back d) := by
  unfold Machine.upward
  split
  · split
    · exact hk.toHost ..
    · exact hk.toMemberOr ..
  · exact hk.sendBack ..
  · exact hk.noRoute

theorem Keeps.sendOut (d : Dgram) : Keeps s₀ (sendOut s d) := by
  unfold Machine.sendOut
  split
  · exact (hk.toHost ..).ite (hk.upward ..)
  · exact hk.upward ..

theorem Keeps.pilotSend (ms : List PMsg) : Keeps s₀ (pilotSend s ms) := hk.same.sendOut ..

theorem Keeps.pilotAck : Keeps s₀ (pilotAck s) := hk.same.sendOut ..

theorem Keeps.reply (ty : Byte) (m : PMsg) (body : List Byte) : Keeps s₀ (reply s ty m body) := hk.pilotSend ..

theorem Keeps.statusMsg (m : PMsg) (code : Nat) : Keeps s₀ (statusMsg s m code) := (hk.cntAdd ..).reply ..

theorem Keeps.memData (m : PMsg) (l : List (Byte × Parcel)) : Keeps s₀ (memData s m l) := hk.reply ..

theorem Keeps.sendLate (l : List PMsg) : Keeps s₀ (sendLate s l) := by
  induction l generalizing s with
  | nil => exact hk.same
  | cons m r ih =>
    unfold Machine.sendLate
    split
    · exact ih ((hk.ite (hk.cntAdd ..)).pilotSend _)
    · exact hk.same

theorem Keeps.flushLate : Keeps s₀ (flushLate s) := (hk.sendLate ..).ite hk

theorem Keeps.answerLate (ty : Byte) (m : PMsg) (body : List Byte) : Keeps s₀ (answerLate s ty m body) := hk.same.flushLate

theorem Keeps.leaveHub (a : Nat) (d : PData) : Keeps s₀ (leaveHub s a d).1 := by
  unfold Machine.leaveHub
  split
  · exact hk
  · exact hk.logRecord ..

theorem Keeps.jumboChange (old : State) : Keeps s₀ (jumboChange old s) := hk.ite hk.same

theorem Keeps.guestParcelForPilot (tag : Word) (i : Nat) (d : Parcel) (poison : Bool) : Keeps s₀ (guestParcelForPilot s tag i d poison) :=
  hk.same

theorem Keeps.guestReadDone (tag : Word) (refused : Bool) : Keeps s₀ (guestReadDone s tag refused) := by
  unfold Machine.guestReadDone
  split
  · exact hk
  · extract_lets _ s2
    have hs2 : Keeps s₀ s2 := hk.same
    exact (hs2.answerLate ..).ite (hs2.answerLate ..)

theorem Keeps.pilotToGuest (a : Nat) (session : BitVec 16) (p : Parcel) (poison : Bool) : Keeps s₀ (pilotToGuest s a session p poison) :=
  hk.toGuest ..

theorem Keeps.mergeOver (tag : Word) : Keeps s₀ (mergeOver s tag) := hk.same

theorem Keeps.mergeArrived (tag : Word) (d : PData) : Keeps s₀ (mergeArrived s tag d) := by
  unfold Machine.mergeArrived
  split
  · exact hk
  · exact (hk.mergeOver ..).pilotToGuest ..

theorem Keeps.mergeRefused (tag : Word) : Keeps s₀ (mergeRefused s tag) := by
  unfold Machine.mergeRefused
  split
  · exact hk
  · extract_lets s1 _
    have hs1 : Keeps s₀ s1 := (hk.mergeOver ..).pilotWriteDone ..
    exact (hs1.same.answerLate ..).ite hs1

/-! ## The guest -/

theorem Keeps.grantCredit : Keeps s₀ (grantCredit s) := (Keeps.foldl (fun _ _ ht => ht.linkKeep _ _) _ hk.same).ite hk

theorem Keeps.guestCount (a vc : Nat) : Keeps s₀ (guestCount s a vc) := by
  unfold Machine.guestCount
  split
  · exact hk.countLocal ..
  · exact hk

theorem Keeps.guestRead (a vc id : Nat) (tag : Word) (n : Nat) : Keeps s₀ (guestRead s a vc id tag n) := by
  induction n with
  | zero => exact hk
  | succ n ih => exact ((ih.guestCount ..).readParcel ..).toGuest ..

theorem Keeps.guestData (r : ReadOut) (a : Nat) (d : PData) : Keeps s₀ (guestData s r a d) := by
  unfold Machine.guestData
  extract_lets _
  split
  · exact (hk.countMoved ..).tugWrite ..
  · exact hk.guestParcelForPilot ..
  · exact hk.mergeArrived ..
  · exact hk.sendData ..
  · exact hk.placePar ..
  · exact hk.placePar ..

theorem Keeps.guestReadEnd (r : ReadOut) (status : Nat) : Keeps s₀ (guestReadEnd s r status) := by
  unfold Machine.guestReadEnd
  extract_lets _ s2 _
  have hs2 : Keeps s₀ s2 := hk.same
  split
  · exact hs2.endWait ..
  · exact hs2.ite (hs2.endWait ..)
  · exact hs2.ite (hs2.endWait ..)
  · exact hs2.guestReadDone ..
  · exact hs2.ite (hs2.mergeRefused ..)
  · split
    · split
      · exact hs2.same.sendResp ..
      · exact hs2
    · exact hs2

theorem Keeps.guestRecord (payload : Parcel) (i : Nat) : Keeps s₀ (guestRecord s payload i) := by
  unfold Machine.guestRecord
  split
  · exact hk.guestReadEnd ..
  · exact hk

theorem Keeps.guestAccess (p : GPar) : Keeps s₀ (guestAccess s p) := by
  unfold Machine.guestAccess
  extract_lets _ s2 s3 r4
  have hs2 : Keeps s₀ s2 := hk.same
  have hs3 : Keeps s₀ s3 := ((hk.takeTokens ..).guestCount ..).writeParcel ..
  have hr4 : Keeps s₀ r4.1 := (hk.takeTokens ..).newAnswer ..
  split
  · split
    · exact hs2
    · split
      · exact (hk.guestData ..).guestFree ..
      · exact hk.guestFree ..
  · exact ((((hr4.guestRead ..).guestFree ..).ite (((hs3.guestAnswer ..).ite hs3).guestFree ..)).ite hs2).ite (((Keeps.foldl
      (fun _ _ ht => ht.guestRecord ..) _ hk).guestFree ..).ite hs2)

theorem Keeps.retryGuest : Keeps s₀ (retryGuest s) := by
  unfold Machine.retryGuest
  refine Keeps.foldl (fun t _ ht => ?_) _ ?_
  · exact ht.guestAccess ..
  · exact hk.same

theorem Keeps.guestRefuse (h : Hdr) (payload : Parcel) (reason : Nat) : Keeps s₀ (guestRefuse s h payload reason) :=
  ((((hk.ite (hk.guestAnswer ..)).ite (hk.guestAnswer ..)).cntAdd ..).logCapture64 ..).logRecordEv ..

theorem Keeps.guestAdmit (h : Hdr) (payload : Parcel) (check : Word) : Keeps s₀ (guestAdmit s h payload check) := by
  unfold Machine.guestAdmit
  extract_lets s1 _ _
  have hs1 : Keeps s₀ s1 := hk.cntAdd64 ..
  exact (((((Keeps.foldl (fun _ _ ht => ht.bollAdd ..) _ hs1).guestFree ..).ite (hs1.guestAccess ..)).ite (hs1.guestAccess ..)).ite
    (hs1.guestAccess ..)).ite (hs1.guestAccess ..)

theorem Keeps.guestParcel (h : Hdr) (payload : Parcel) (check : Word) : Keeps s₀ (guestParcel s h payload check) := by
  unfold Machine.guestParcel
  extract_lets _ s2
  have hs2 : Keeps s₀ s2 := hk.same
  split
  · exact hs2.guestAdmit ..
  · exact (hs2.guestRefuse ..).guestFree ..

theorem Keeps.execGuestParcelIn (h : Hdr) (payload : Parcel) (check : Word) : Runs s₀ (execGuestParcelIn h payload check s) := by
  unfold Machine.execGuestParcelIn
  split
  · exact hk.next
  · split
    · exact (hk.guestRefuse ..).next
    · split
      · exact ((hk.cntAdd ..).logRecord ..).next
      · split
        · rename_i t1 e1
          have ht1 := (hk.receive ..).fst e1
          exact ht1.next
        · rename_i t2 _ e2
          have ht2 := (hk.receive ..).fst e2
          exact (ht2.guestParcel ..).next

theorem Keeps.guestScuttle : Keeps s₀ (guestScuttle s) := by
  unfold Machine.guestScuttle
  extract_lets _ s2
  have hs2 : Keeps s₀ s2 := hk.same.scuttle ..
  refine Keeps.foldl (fun t _ ht => ?_) _ ?_
  · split
    · exact (ht.forget ..).failDescriptor ..
    · exact ht.guestReadEnd ..
  · exact hs2

theorem Keeps.guestSet (x : GuestSt) : Keeps s₀ { s with guest := x } := hk.same

theorem Keeps.guestOff : Keeps s₀ (guestOff s) := (hk.guestSet _).linkMod guestKey fun _ _ => rfl

theorem Keeps.guestQuarantine : Keeps s₀ (guestQuarantine s) := (hk.guestOff.same.guestScuttle.logRecord ..).ite hk

theorem Keeps.guestRelease : Keeps s₀ (guestRelease s) := hk.same

theorem Keeps.execGfQuarSet (value : Word) : Runs s₀ (execGfQuarSet value s) :=
  Keeps.iteRuns hk.next (hk.softWrite _ fun _ ht => (ht.ite ht.guestQuarantine).next)

theorem Keeps.execGfQuarClr (value : Word) : Runs s₀ (execGfQuarClr value s) :=
  Keeps.iteRuns hk.next (hk.softWrite _ fun _ ht => (ht.ite ht.guestRelease).next)

theorem Keeps.execGuestPortDown : Runs s₀ (execGuestPortDown s) := Keeps.iteRuns hk.next ((hk.same.linkDown ..).next)

theorem Keeps.guestStart (rate : Nat) : Keeps s₀ (guestStart s rate) := by
  unfold Machine.guestStart
  extract_lets _ _ s1 s2
  have h1 : Keeps s₀ s1 := (hk.takeFree.linkLanes guestKey _ fun _ _ => rfl).startFresh ..
  have h2 : Keeps s₀ s2 := h1.linkKeep guestKey _
  exact (h2.guestSet _).replayAll ..

theorem Keeps.execGuestPortUp (rate : BitVec 9) : Runs s₀ (execGuestPortUp rate s) :=
  Keeps.iteRuns hk.next (((hk.guestStart ..).logRecord ..).next)

/-! ## Memory -/

theorem Keeps.execHbmTempSample (m : Fin 16) (temp : Byte) : Runs s₀ (execHbmTempSample m temp s) := by
  unfold Machine.execHbmTempSample
  split
  · exact hk.next
  · extract_lets _ _ _ _ _ s6
    have hs6 : Keeps s₀ s6 := hk.mcSet ..
    exact Keeps.iteRuns (((hs6.cntAdd ..).ite hs6).next) ((hk.mcSet ..).next)

omit hk in
theorem upsetPairs_ok {m : MemSt} (h : m.ok) (a : Nat) (l : List (Fin 4 × BitVec 576)) : (upsetPairs m a l).ok := by
  induction l generalizing m with
  | nil => exact h
  | cons e r ih => exact ih (MemSt.ok_hbmErr_tset h ..)

theorem Keeps.execHbmRead (m : Fin 16) (parcel : BitVec 29) (source : MemSource) (upset : List (Fin 4 × BitVec 576)) (odeCorrected : Bool) :
    Runs s₀ (execHbmRead m parcel source upset odeCorrected s) := by
  refine Keeps.iteRuns hk.next (Keeps.next ?_)
  refine Keeps.emit (Keeps.hbmRead (Keeps.ite ?_ (Keeps.cntAdd ?_ ..)) ..) _ <;>
  exact hk.setMem fun h => upsetPairs_ok (hk.inv h).memOk ..

theorem Keeps.execHbmWrite (m : Fin 16) (parcel : BitVec 29) (source : MemSource) (data : Parcel) (check : Word) (poison : Bool) :
    Runs s₀ (execHbmWrite m parcel source data check poison s) :=
  Keeps.iteRuns hk.next ((hk.hbmWrite ..).next)

theorem Keeps.execDredgeRegion (m : Fin 16) : Runs s₀ (execDredgeRegion m s) :=
  Keeps.iteRuns (Keeps.iteRuns ((hk.mcSet ..).next) ((hk.dredge ..).next)) hk.next

theorem Keeps.scSet (slot : Nat) (x : ScrubSt) : Keeps s₀ (scSet s slot x) := hk.lift (scSet_pending ..) fun hs => hs.scSet ..

theorem Keeps.scrubHbm (m : Nat) : Keeps s₀ (scrubHbm s m) := by
  unfold Machine.scrubHbm
  extract_lets _ _ _ _ s5 _ _
  have hs5 : Keeps s₀ s5 := (hk.hbmRead ..).ite hk
  exact ((hs5.scSet ..).ite ((hs5.scSet ..).cntAdd ..)).ite hk

theorem Keeps.upsetSram (a : Nat) (word side : BitVec 72) : Keeps s₀ (upsetSram s a word side) := by
  refine hk.setMem fun h => ?_
  have hm := (hk.inv h).memOk
  have hc := (memCanonical_iff _).1 hm.2
  exact MemSt.ok_sideErr (MemSt.ok_sramErr hm (tsorted_tset _ _ _ hc.sramErr)) (tsorted_tset _ _ _ hc.sideErr)

theorem Keeps.scrubSram (slot : Nat) (word side : BitVec 72) : Keeps s₀ (scrubSram s slot word side) := by
  unfold Machine.scrubSram
  extract_lets _ _ _ _ s5 _ _
  have hs5 : Keeps s₀ s5 := (hk.upsetSram ..).sramFix ..
  exact ((hs5.scSet ..).ite ((hs5.scSet ..).cntAdd ..)).ite hk

theorem Keeps.execScrubRead (t : ScrubTarget) (word side : BitVec 72) : Runs s₀ (execScrubRead t word side s) := by
  unfold Machine.execScrubRead
  split
  · exact hk.next
  · split
    · exact Keeps.iteRuns ((hk.scrubHbm ..).next) hk.next
    · exact Keeps.iteRuns ((hk.scrubSram ..).next) hk.next

theorem Keeps.execCeSampleRecord (t : ScrubTarget) : Runs s₀ (execCeSampleRecord t s) := by
  unfold Machine.execCeSampleRecord
  split
  · exact (hk.mcSample ..).next
  · exact (hk.sramSample ..).next

theorem Keeps.retireResult (m code slot : Nat) : Keeps s₀ (retireResult s m code slot) := (hk.rset ..).logCapture ..

theorem Keeps.retireWrite (m : Nat) (value : Word) : Runs s₀ (retireWrite m value s) :=
  Keeps.iteRuns hk.next (hk.softWrite _ fun _ ht => Keeps.iteRuns ((ht.rset ..).next) (Keeps.iteRuns ((ht.retireResult ..).next)
    (Keeps.iteRuns ((ht.retireResult ..).next) (((ht.mcSet ..).retireResult ..).next))))

theorem Keeps.execRetirePage (m : Fin 16) (value : Word) : Runs s₀ (execRetirePage m value s) := hk.retireWrite ..

theorem Keeps.execRetireClear (m : Fin 16) (value : Word) : Runs s₀ (execRetireClear m value s) := hk.retireWrite ..

theorem Keeps.execScSpareReq (q : Fin 6) (value : Word) : Runs s₀ (execScSpareReq q value s) :=
  Keeps.iteRuns hk.next (hk.softWrite _ fun _ ht => (ht.rset ..).next)

theorem Keeps.execMcFlip (m : Fin 16) (value : Word) : Runs s₀ (execMcFlip m value s) :=
  Keeps.iteRuns hk.next (hk.softWrite _ fun _ ht => (ht.rset ..).next)

theorem Keeps.execScSramFlip (slot : Fin 41) (value : Word) : Runs s₀ (execScSramFlip slot value s) :=
  Keeps.iteRuns hk.next (hk.softWrite _ fun _ ht => (ht.rset ..).next)

/-! ## Resets -/

omit hk in
theorem reset_inv : Inv State.reset := by
  rw [inv_iff]
  constructor <;> decide

theorem Keeps.keepAlwaysOn : Keeps s₀ (keepAlwaysOn s) := by
  refine hk.lift rfl fun hs => (inv_iff _).2 ?_
  have p := (inv_iff s).1 hs
  have hr : tsorted (RegSt.kept s.regs).words = true := by
    unfold RegSt.kept
    exact tsorted_tset (blkPW.reg 0x044) 0 0 (tsorted_filter (fun e => alwaysOn e.1) p.regs)
  exact { (inv_iff State.reset).1 reset_inv with regs := hr, nor := p.nor, jtag := p.jtag }

theorem Keeps.latchCause (cause ch : Nat) : Keeps s₀ (latchCause s cause ch) := hk.logCapture ..

theorem Keeps.moduleReset (mode : PowerMode) (step3 : Bool) (cause ch : Nat) : Keeps s₀ (moduleReset s mode step3 cause ch) :=
  (hk.keepAlwaysOn.latchCause ..).same

theorem Keeps.hubResets (cause : Nat) : Keeps s₀ (hubResets s cause) := hk.moduleReset ..

/-! ## Dies -/

theorem Keeps.dieSet (slot : Nat) (d : DieRec) : Keeps s₀ (dieSet s slot d) := hk.lift (dieSet_pending ..) fun hs => hs.dieSet ..

theorem Keeps.clearCompute (c : Nat) : Keeps s₀ (clearCompute s c) := by
  have h1 : Keeps s₀ { s with cores := {
      core := tclear s.cores.core (siteKey c 0 0) (siteKey (c + 1) 0 0), voy := tclear s.cores.voy (siteKey c 0 0) (siteKey (c + 1) 0 0)
      pier := tclear s.cores.pier (pierKey c 0) (pierKey (c + 1) 0)
      tug := tmap s.cores.tug {} fun key t => if tugDie key = c then { serial := t.serial } else t
      consts := tclear s.cores.consts (pierKey c 0 * 65536) (pierKey (c + 1) 0 * 65536) } } := by
    refine hk.lift rfl fun hs => ?_
    obtain ⟨hw, hx⟩ := ((inv_iff s).1 hs).cores
    obtain ⟨⟨hc, ha⟩, hv, hp, ht⟩ := (coresCanonical_iff _).1 hx
    refine hs.withCores ⟨Memory.clear_wf _ _ hw, (coresCanonical_iff _).2
      ⟨⟨tsorted_tclear _ _ hc, ?_⟩, tsorted_tclear _ _ hv, tsorted_tclear _ _ hp, tsorted_tmap {}
        (fun key t => if tugDie key = c then { serial := t.serial } else t) ht⟩⟩
    exact List.all_eq_true.2 fun e he => List.all_eq_true.1 ha e (List.mem_of_mem_filter he)
  unfold Machine.clearCompute
  dsimp only
  split
  · exact h1.same
  · refine Keeps.ite h1.same (Keeps.berthFinish h1.same ..)

/-! ## Charts -/

/-- Changing every endpoint through a function keeps the invariant where the function keeps the endpoint's tables in form. -/
theorem Keeps.linkMap {f : Nat → LinkSt → LinkSt} (hf : ∀ k x, x.canonical = true → (f k x).canonical = true) :
    Keeps s₀ { s with links := tmap s.links {} f } := by
  refine hk.lift rfl fun hs => hs.withLinks (all_filterMap ((inv_iff s).1 hs).links fun e he x hx => ?_)
  dsimp only at hx
  split at hx
  · cases hx
  · cases hx
    exact hf _ _ he

/-! ## Dies -/

theorem Keeps.clearBase (slot : Nat) (planned : Bool) : Keeps s₀ (clearBase s slot planned) := by
  unfold Machine.clearBase
  refine Keeps.same (hk.linkMap (f := fun k x => if k / 64 = slot then resetEnd x else x) fun k x hx => ?_)
  split
  · rfl
  · exact hx

theorem Keeps.dieRegs (slot : Nat) : Keeps s₀ { s with regs := s.regs.dieReset slot } :=
  hk.lift rfl fun hs => hs.withRegs (tsorted_filter _ ((inv_iff s).1 hs).regs)

theorem Keeps.dieCleared (slot : Nat) (planned : Bool) : Keeps s₀ (dieCleared s slot planned) := by
  unfold Machine.dieCleared
  extract_lets _ s1
  have h1 : Keeps s₀ s1 := (hk.dieRegs slot).same
  split
  · exact h1.clearBase ..
  · exact Keeps.clearCompute h1.same _
  · exact h1.oeMod ..
  · exact h1

theorem Keeps.cutLinks (slot : Nat) : Keeps s₀ (cutLinks s slot) := by
  unfold Machine.cutLinks
  refine Keeps.foldl (fun t _ ht => ?_) _ ?_
  · exact ht.linkDown ..
  · exact hk

theorem Keeps.enterLost (slot cause : Nat) : Keeps s₀ (enterLost s slot cause) := by
  unfold Machine.enterLost
  extract_lets _ s2 _
  have hs2 : Keeps s₀ s2 := hk.dieSet ..
  exact hs2.same.cntAdd ..

theorem Keeps.recordLosses : Keeps s₀ (recordLosses s) := Keeps.foldl (fun _ _ ht => ht.logRecord ..) _ hk.same

theorem Keeps.loseOne (slot cause : Nat) : Keeps s₀ (loseOne s slot cause) := by
  unfold Machine.loseOne
  extract_lets s1 s2
  have hs1 : Keeps s₀ s1 := ((hk.enterLost ..).cutLinks ..).dieCleared ..
  have hs2 : Keeps s₀ s2 := hs1.ite (hs1.logCapture ..)
  exact hs2.loadMeets ..

theorem Keeps.loseDie (slot cause : Nat) : Keeps s₀ (loseDie s slot cause) :=
  (Keeps.foldl (fun _ _ ht => ht.loseOne ..) _ (hk.loseOne ..)).ite hk

theorem Keeps.execDiePresenceTimeout (slot : Fin 41) : Runs s₀ (execDiePresenceTimeout slot s) := (hk.ite (hk.loseDie ..)).next

theorem Keeps.execDieLost (slot : Fin 41) (cause : BitVec 3) : Runs s₀ (execDieLost slot cause s) := (hk.ite (hk.loseDie ..)).next

theorem Keeps.execClockMonitorReset (slot : Fin 41) : Runs s₀ (execClockMonitorReset slot s) := by
  refine Keeps.iteRuns hk.next (Keeps.iteRuns (hk.hubResets _).next (Keeps.iteRuns ?_ (Keeps.iteRuns ?_ hk.next)))
  · exact Keeps.iteRuns hk.next (((((hk.dieRegs _).dieSet ..).chipletReset _).cntAdd ..).logCapture ..).next
  · exact ((hk.cntAdd ..).loseDie ..).next

theorem Keeps.endVoyagesOn (slots : List Nat) : Keeps s₀ (endVoyagesOn s slots) := Keeps.foldl (fun _ _ ht => ht.killVoyage ..) _ hk

theorem Keeps.lapse (slot : Nat) : Keeps s₀ (lapse s slot) := hk.ite ((hk.dieSet ..).clearBase ..)

theorem Keeps.strapsBad (slot code : Nat) : Keeps s₀ (strapsBad s slot code) := ((((hk.cntAdd ..).ite hk).lapse ..).dieSet ..).logRecord ..

theorem Keeps.startRejoin (slot code : Nat) : Keeps s₀ (startRejoin s slot code) := by
  unfold Machine.startRejoin
  extract_lets s1 _ s3
  have hs1 : Keeps s₀ s1 := hk.rset ..
  have hs3 : Keeps s₀ s3 := hs1.dieSet ..
  split
  · exact hs1.strapsBad ..
  · split
    · exact (hs3.clearCoreSram ..).endVoyagesOn ..
    · exact hs3.startRings ..
    · exact hs3

theorem Keeps.chipletBack (slot code : Nat) : Keeps s₀ (chipletBack s slot code) := by
  unfold Machine.chipletBack
  extract_lets s1 _ s3
  have hs1 : Keeps s₀ s1 := hk.rset ..
  have hs3 : Keeps s₀ s3 := (hs1.dieSet ..).enableBlock ..
  exact ((hs3.lightPlaces ..).ite hs3).ite (hs1.strapsBad ..)

theorem Keeps.execDieResetRelease (slot : Fin 41) (straps : BitVec 6) : Runs s₀ (execDieResetRelease slot straps s) :=
  Keeps.iteRuns hk.next (Keeps.iteRuns hk.next (Keeps.iteRuns ((hk.ite (hk.chipletBack ..)).next) ((hk.startRejoin ..).next)))

theorem Keeps.configDie (slot : Nat) : Keeps s₀ (configDie s slot) := by
  unfold Machine.configDie
  extract_lets _
  refine Keeps.foldl (fun t _ ht => ?_) _ ?_
  · exact ht.enableBlock ..
  · exact hk.writeDie ..

theorem Keeps.noteBist (c : Nat) (bist : List (Fin 48 × SiteTest)) : Keeps s₀ (noteBist s c bist) :=
  Keeps.foldl (fun _ _ ht => ht.rset ..) _ hk

theorem Keeps.baseBack (slot : Nat) (planned : Bool) : Keeps s₀ (baseBack s slot planned) := Keeps.foldl (fun _ _ ht => ht.mcSet ..) _ hk

theorem Keeps.freeHeld : Keeps s₀ (freeHeld s) := by
  unfold Machine.freeHeld
  refine Keeps.foldl (fun t _ ht => ?_) _ ?_
  · exact ht.freeSet ..
  · exact hk

theorem Keeps.execDieRejoinUp (slot : Fin 41) (bist : List (Fin 48 × SiteTest)) : Runs s₀ (execDieRejoinUp slot bist s) := by
  unfold Machine.execDieRejoinUp
  extract_lets _ _ _ s4 s5 s6 s7
  have hs4 : Keeps s₀ s4 := hk.dieSet ..
  have hs5 : Keeps s₀ s5 := by
    dsimp only [s5]
    split
    · exact hs4.baseBack ..
    · exact hs4.noteBist ..
    · exact hs4
  have hs6 : Keeps s₀ s6 := hs5.ite (Keeps.foldl (fun _ _ ht => ht.linkKeep _ _) _ hs5)
  have hs7 : Keeps s₀ s7 := hs6.configDie ..
  exact Keeps.iteRuns hk.next (((hs7.logRecord ..).freeHeld).next)

theorem Keeps.dieResult (code slot : Nat) : Keeps s₀ (dieResult s code slot) := hk.logCapture ..

theorem Keeps.holdDie (slot n : Nat) : Keeps s₀ (holdDie slot s n) := (((hk.dieSet ..).cutLinks ..).dieCleared ..).loadMeets ..

theorem Keeps.dropOwn (slot : Nat) : Keeps s₀ (dropOwn s slot) := by
  unfold Machine.dropOwn
  extract_lets _ s1
  have h1 : Keeps s₀ s1 := hk.linkMap fun k x hx => by
    split
    · exact hx
    · exact hx
  exact Keeps.foldl (fun _ _ ht => (ht.forget ..).failDescriptor ..) _ (Keeps.foldl (fun _ _ ht => ht.answerSent _) _ h1)

theorem Keeps.failHeld (held : List Nat) : Keeps s₀ (failHeld s held) := Keeps.foldl (fun _ _ ht => (ht.forget ..).failDescriptor ..) _ hk

theorem Keeps.dropHeldPars (held : List Nat) : Keeps s₀ (dropHeldPars s held) := hk.same

theorem Keeps.quarantineDie (slot : Nat) : Keeps s₀ (quarantineDie s slot) := by
  unfold Machine.quarantineDie
  extract_lets _ s2 s3
  have hs2 : Keeps s₀ s2 := by
    dsimp only [s2]
    refine Keeps.endVoyagesOn ?_ ..
    refine Keeps.foldl (fun t _ ht => ?_) _ ?_
    · exact ht.holdDie ..
    · exact hk
  have hs3 : Keeps s₀ s3 := Keeps.foldl (fun _ _ ht => Keeps.foldl (fun _ _ ht => ht.ite (ht.scuttle ..)) _ (ht.dropOwn ..)) _ hs2
  exact ((hs3.dropHeldPars ..).failHeld ..).logRecord ..

theorem Keeps.letOut (clocksBad : List Nat) (n : Nat) : Keeps s₀ (letOut clocksBad s n) :=
  (hk.startRejoin ..).ite ((hk.lapse ..).enterLost ..)

theorem Keeps.releaseDie (slot : Nat) (clocksBad : List Nat) : Keeps s₀ (releaseDie s slot clocksBad) := by
  unfold Machine.releaseDie
  extract_lets _
  refine Keeps.foldl (fun t _ ht => ?_) _ ?_
  · exact ht.letOut ..
  · exact hk.logRecord ..

theorem Keeps.dieCommand (value : Word) (clocksBad : List Nat) : Keeps s₀ (dieCommand s value clocksBad) := by
  unfold Machine.dieCommand
  split
  · exact hk.rset ..
  · extract_lets _ _ s3 s4
    have hs3 : Keeps s₀ s3 := hk.rset ..
    have hs4 : Keeps s₀ s4 := ((hs3.releaseDie ..).ite (hs3.quarantineDie ..)).ite (hs3.guestRelease.ite hs3.guestQuarantine)
    exact ((((hs4.dieResult ..).ite (hs3.dieResult ..)).ite (hs3.dieResult ..)).ite (hs3.dieResult ..)).ite (hs3.dieResult ..)

theorem Keeps.dieRow (value : Word) (clocksBad : List (Fin 41)) : Runs s₀ (dieRow value clocksBad s) :=
  Keeps.iteRuns hk.next (hk.softWrite _ fun _ ht => (ht.dieCommand ..).next)

end

end Sys2Proof.Machine
end

section
/-! What is kept: vectors, matrices, power, redundancy and start-up. -/

namespace Sys2Proof.Machine
set_option Elab.async false

section
variable {s₀ s : State} (hk : Keeps s₀ s)
include hk

/-! ## Dies -/

theorem Keeps.execQuarantine (value : Word) : Runs s₀ (execQuarantine value s) := hk.dieRow ..

theorem Keeps.execRelease (value : Word) (clocksBad : List (Fin 41)) : Runs s₀ (execRelease value clocksBad s) := hk.dieRow ..

theorem Keeps.execHmDieCmdInvalid (value : Word) : Runs s₀ (execHmDieCmdInvalid value s) := hk.dieRow ..

/-! ## The error log -/

theorem Keeps.elogFree (n : Nat) : Keeps s₀ (elogFree s n) := hk.lift (elogFree_pending ..) fun hs => hs.elogFree ..

theorem Keeps.execElConsume (value : Word) : Runs s₀ (execElConsume value s) := by
  unfold Machine.execElConsume
  split
  · exact hk.next
  · refine hk.softWrite _ fun t1 ht1 => ?_
    split
    · exact (ht1.rset ..).next
    · extract_lets _ s3
      have hs3 : Keeps s₀ s3 := ht1.rset ..
      exact ((hs3.elogFree ..).ite (hs3.errCount ..)).next

/-! ## Vectors -/

theorem Keeps.vecOp (c : CoreId) (i : Instr) (d : Reg) (f : CoreSt → Parcel × NumEv) : Runs s₀ (vecOp c i d f s) := (hk.slotPure ..).next

theorem Keeps.redOp (c : CoreId) (i : Instr) (d : Reg) (f : CoreSt → Nat × NumEv) : Runs s₀ (redOp c i d f s) := (hk.slotPure ..).next

theorem Keeps.execVbcast (c : CoreId) (d a : Reg) (fa : Fmt) : Runs s₀ (execVbcast c d a fa s) := hk.vecOp ..

theorem Keeps.execVmovs (c : CoreId) (d a : Reg) (fa : Fmt) (imm : Word) : Runs s₀ (execVmovs c d a fa imm s) := hk.redOp ..

theorem Keeps.execVmov (c : CoreId) (d a : Reg) : Runs s₀ (execVmov c d a s) := hk.vecOp ..

theorem Keeps.execVshuf (c : CoreId) (d a b : Reg) (fa : Fmt) : Runs s₀ (execVshuf c d a b fa s) := hk.vecOp ..

theorem Keeps.execVadd (c : CoreId) (d a b : Reg) (fa : Fmt) : Runs s₀ (execVadd c d a b fa s) := hk.vecOp ..

theorem Keeps.execVsub (c : CoreId) (d a b : Reg) (fa : Fmt) : Runs s₀ (execVsub c d a b fa s) := hk.vecOp ..

theorem Keeps.execVmul (c : CoreId) (d a b : Reg) (fa : Fmt) : Runs s₀ (execVmul c d a b fa s) := hk.vecOp ..

theorem Keeps.execVmin (c : CoreId) (d a b : Reg) (fa : Fmt) : Runs s₀ (execVmin c d a b fa s) := hk.vecOp ..

theorem Keeps.execVmax (c : CoreId) (d a b : Reg) (fa : Fmt) : Runs s₀ (execVmax c d a b fa s) := hk.vecOp ..

theorem Keeps.execVfma (c : CoreId) (d a b : Reg) (fa : Fmt) : Runs s₀ (execVfma c d a b fa s) := hk.vecOp ..

theorem Keeps.execVscl (c : CoreId) (d a b : Reg) (fa : Fmt) : Runs s₀ (execVscl c d a b fa s) := hk.vecOp ..

theorem Keeps.approxOp (c : CoreId) (i : Instr) (d a : Reg) (f : Word → Word) : Runs s₀ (approxOp c i d a f s) := hk.vecOp ..

theorem Keeps.execVrcp (c : CoreId) (d a : Reg) (fa : Fmt) : Runs s₀ (execVrcp c d a fa s) := hk.approxOp ..

theorem Keeps.execVrsq (c : CoreId) (d a : Reg) (fa : Fmt) : Runs s₀ (execVrsq c d a fa s) := hk.approxOp ..

theorem Keeps.execVexp2 (c : CoreId) (d a : Reg) (fa : Fmt) : Runs s₀ (execVexp2 c d a fa s) := hk.approxOp ..

theorem Keeps.execVlog2 (c : CoreId) (d a : Reg) (fa : Fmt) : Runs s₀ (execVlog2 c d a fa s) := hk.approxOp ..

theorem Keeps.execVtanh (c : CoreId) (d a : Reg) (fa : Fmt) : Runs s₀ (execVtanh c d a fa s) := hk.approxOp ..

theorem Keeps.execVrsum (c : CoreId) (d a : Reg) (fa : Fmt) : Runs s₀ (execVrsum c d a fa s) := hk.redOp ..

theorem Keeps.execVrmax (c : CoreId) (d a : Reg) (fa : Fmt) : Runs s₀ (execVrmax c d a fa s) := hk.redOp ..

theorem Keeps.execVargmax (c : CoreId) (d a : Reg) (fa : Fmt) : Runs s₀ (execVargmax c d a fa s) := hk.redOp ..

theorem Keeps.execVcvt (c : CoreId) (d a : Reg) (fa fb : Fmt) (m : BitVec 3) : Runs s₀ (execVcvt c d a fa fb m s) := hk.vecOp ..

theorem Keeps.execVpk4 (c : CoreId) (d a b : Reg) (m : BitVec 3) : Runs s₀ (execVpk4 c d a b m s) := (hk.slotPure ..).next

theorem Keeps.execVup4 (c : CoreId) (d a b : Reg) (m : BitVec 3) : Runs s₀ (execVup4 c d a b m s) := hk.vecOp ..

/-! ## Matrices -/

theorem Keeps.feedSpan (a n : Nat) (seen : List (Nat × Bool)) : Keeps s₀ (feedSpan s a n seen).1 := by
  induction n with
  | zero => exact hk
  | succ n ih =>
    unfold Machine.feedSpan
    split
    · rename_i e; exact ih.fst e
    · rename_i e
      dsimp only
      split
      · exact (ih.fst e).verifyRead ..
      · exact (ih.fst e).verifyRead ..

theorem Keeps.feed (l : List (Nat × Nat)) (seen : List (Nat × Bool)) : Keeps s₀ (feed s l seen).1 := by
  induction l generalizing s seen with
  | nil => exact hk
  | cons x r ih =>
    unfold Machine.feed
    split
    · rename_i e; exact (hk.feedSpan ..).fst e
    · rename_i e; exact ih ((hk.feedSpan ..).fst e) _

theorem Keeps.countFed (c : CoreId) (seen : List (Nat × Bool)) : Keeps s₀ (countFed s c seen) :=
  Keeps.foldl (fun _ _ ht => ht.countConsumed ..) _ hk

theorem Keeps.matrixFault (c : CoreId) (f : CFault) (loc : Nat) : Keeps s₀ (matrixFault s c f loc) := hk.takeIssueFault ..

theorem Keeps.execWld (c : CoreId) (a b : Reg) (fb : Fmt) (m : BitVec 3) : Runs s₀ (execWld c a b fb m s) :=
  (hk.slotRun c 1 _ fun t k ht => by split <;> exact ht).next

theorem Keeps.execWeightLoadStart (c : CoreId) : Runs s₀ (execWeightLoadStart c s) := by
  unfold Machine.execWeightLoadStart
  dsimp only
  split
  · exact hk.next
  rename_i e rest _
  split
  · exact hk.next
  have h1 := hk.corePut hk c (k := { coreGet s c with wq := rest })
  split
  · rename_i hf; exact (Keeps.matrixFault (Keeps.fst (h1.feed ..) hf) ..).next
  · rename_i hf
    exact Keeps.next (Keeps.countFed (Keeps.coreKeep (Keeps.fst (h1.feed ..) hf) c _) ..)

theorem Keeps.execMma (c : CoreId) (d a b : Reg) (fa fb : Fmt) (m : BitVec 3) (imm : Word) : Runs s₀ (execMma c d a b fa fb m imm s) :=
  (hk.slotRun c 1 _ fun t k ht => by split <;> exact ht).next

/-- A core takes other accumulators whose table is in order. -/
theorem Keeps.coreAcc (c : CoreId) {f : CoreSt → CoreSt} (hs : ∀ k, (f k).sreg = k.sreg) (hv : ∀ k, (f k).vreg = k.vreg)
    (ha : Inv s₀ → ∀ k, tsorted (f k).acc = true) : Keeps s₀ (Machine.coreMod s c f) :=
  hk.coreSet c fun h => by
    have := (hk.inv h).coreOk c
    simp only [CoreSt.canonical, Bool.and_eq_true] at this ⊢
    exact ⟨⟨(hs _).symm ▸ this.1.1, (hv _).symm ▸ this.1.2⟩, ha h _⟩

theorem Keeps.execArrayPassStart (c : CoreId) (waited : Word) (upset : List ParityBit) : Runs s₀ (execArrayPassStart c waited upset s) := by
  unfold Machine.execArrayPassStart
  dsimp only
  split
  · exact hk.next
  rename_i e rest _
  split
  · exact hk.next
  have h1 := (hk.corePut hk c (k := { coreGet s c with aq := rest, badPar := upset ++ (coreGet s c).badPar })).cntAdd
    ((coBlk (Machine.coreSet s c { coreGet s c with aq := rest, badPar := upset ++ (coreGet s c).badPar }) c).reg 0x054) waited.toNat
  split
  · exact (h1.matrixFault ..).next
  split
  · rename_i hf; exact (Keeps.matrixFault (Keeps.fst (h1.feed ..) hf) ..).next
  · rename_i hf
    have h2 := Keeps.fst (h1.feed ..) hf
    refine Keeps.next (Keeps.countFed ?_ ..)
    refine Keeps.countNumeric ?_ ..
    refine Keeps.cntAdd ?_ ..
    refine h2.coreAcc c (fun _ => rfl) (fun _ => rfl) fun h _ => ?_
    have hc := (hk.inv h).coreOk c
    simp only [CoreSt.canonical, Bool.and_eq_true] at hc
    exact tsorted_passRows _ _ _ hc.2 _

theorem Keeps.execAccumulatorComplete (c : CoreId) (acc : Fin 4) : Runs s₀ (execAccumulatorComplete c acc s) := (hk.coreKeep _ _).next

theorem Keeps.execAmov (c : CoreId) (d a : Reg) (imm : Word) : Runs s₀ (execAmov c d a imm s) :=
  (hk.slotRun c 1 _ fun t k ht => by dsimp only; split <;> exact ht).next

theorem Keeps.execVamov (c : CoreId) (d a : Reg) (imm : Word) : Runs s₀ (execVamov c d a imm s) :=
  (hk.slotRun c 1 _ fun t k ht => by dsimp only; split <;> exact ht).next

/-! ## Power and temperature -/

theorem Keeps.pwSet (x : PwSt) : Keeps s₀ (pwSet s x) := hk.lift (pwSet_pending ..) fun hs => hs.pwSet ..

theorem Keeps.pwMod (f : PwSt → PwSt) : Keeps s₀ (pwMod s f) := hk.lift (pwMod_pending ..) fun hs => hs.pwMod ..

theorem Keeps.pwLog (kind unit detail : Nat) : Keeps s₀ (pwLog s kind unit detail) := hk.ite (hk.logRecord ..)

theorem Keeps.noteB : Keeps s₀ (noteB s) := (((hk.pwSet ..).pwLog ..).ite hk).ite (hk.ite (hk.pwSet ..))

theorem Keeps.execFeedTransfer (va vb : BitVec 10) : Runs s₀ (execFeedTransfer va vb s) :=
  Keeps.iteRuns hk.next ((((hk.pwSet ..).cntAdd ..).pwLog ..).next)

theorem Keeps.execFeedReturn (va vb : BitVec 10) (micros : Fin 41) : Runs s₀ (execFeedReturn va vb micros s) :=
  Keeps.iteRuns hk.next ((hk.pwSet ..).next)

theorem Keeps.tickFeeds : Keeps s₀ (tickFeeds s) := by
  unfold Machine.tickFeeds
  refine Keeps.noteB ?_ ..
  split
  · exact hk
  · exact (((hk.pwMod ..).cntAdd ..).pwLog ..).ite hk

theorem Keeps.execFeedBFault (vb : BitVec 10) : Runs s₀ (execFeedBFault vb s) := Keeps.iteRuns hk.next (((hk.pwSet ..).noteB).next)

theorem Keeps.execFeedBRestored (vb : BitVec 10) : Runs s₀ (execFeedBRestored vb s) := Keeps.iteRuns hk.next ((hk.pwSet ..).next)

theorem Keeps.execBrownOut : Runs s₀ (execBrownOut s) := ((hk.ite (hk.pwMod ..)).ite (hk.moduleReset ..)).next

theorem Keeps.execConverterFault (k : Fin 16) : Runs s₀ (execConverterFault k s) := Keeps.iteRuns hk.next (((hk.pwSet ..).pwLog ..).next)

theorem Keeps.execVcoreDroop (die : Fin 12) : Runs s₀ (execVcoreDroop die s) := Keeps.iteRuns hk.next (((hk.pwSet ..).cntAdd ..).next)

theorem Keeps.execDroopRecovered (die : Fin 12) : Runs s₀ (execDroopRecovered die s) := (hk.pwMod ..).next

theorem Keeps.execRailOutOfTolerance (rail : Fin 54) (millivolts : BitVec 12) : Runs s₀ (execRailOutOfTolerance rail millivolts s) :=
  (hk.pwLog ..).next

theorem Keeps.execRegulatorForecastBoost (die : Fin 12) (fire : Dword) : Runs s₀ (execRegulatorForecastBoost die fire s) := by
  unfold Machine.execRegulatorForecastBoost
  split
  · exact hk.next
  · exact Keeps.iteRuns hk.next (((hk.pwSet ..).takeForecast ..).next)

theorem Keeps.execRegulatorForecastEnd (die : Fin 12) : Runs s₀ (execRegulatorForecastEnd die s) := (hk.pwMod ..).next

theorem Keeps.guestCut (reason : Nat) : Keeps s₀ (guestCut s reason) := by
  unfold Machine.guestCut
  extract_lets s1
  have hs1 : Keeps s₀ s1 := (hk.pwMod ..).rset ..
  exact (hs1.ite hs1.guestQuarantine).pwLog ..

theorem Keeps.execGuestPowerCut (reason : Fin 3) : Runs s₀ (execGuestPowerCut reason s) := (hk.ite (hk.guestCut ..)).next

theorem Keeps.execPwGuestOn (value : Word) : Runs s₀ (execPwGuestOn value s) :=
  Keeps.iteRuns hk.next (hk.softWrite _ fun _ ht => ((ht.pwMod ..).rset ..).next)

theorem Keeps.chanSet (ch : Nat) (x : ChanSt) : Keeps s₀ (chanSet s ch x) := hk.lift (chanSet_pending ..) fun hs => hs.chanSet ..

theorem Keeps.settleLevel : Keeps s₀ (settleLevel s) := (((hk.same.cntAdd ..).pwLog ..).ite hk.same).ite hk

theorem Keeps.sampleCap (watts : Nat) : Keeps s₀ (sampleCap s watts) := by
  unfold Machine.sampleCap
  extract_lets _ _ _ s4
  have hs4 : Keeps s₀ s4 := hk.pwSet ..
  exact (hs4.ite (hs4.pwMod ..)).ite ((hs4.pwMod ..).pwLog ..)

theorem Keeps.execPowerSample (watts : BitVec 13) (guest : BitVec 11) : Runs s₀ (execPowerSample watts guest s) := by
  unfold Machine.execPowerSample
  split
  · exact hk.next
  · extract_lets s1 _ s3 s4
    have hs1 : Keeps s₀ s1 := hk.pwMod ..
    have hs3 : Keeps s₀ s3 := hs1.pwMod ..
    have hs4 : Keeps s₀ s4 := hs3.ite (hs3.guestCut ..)
    exact Keeps.iteRuns hs1.next (((hs4.sampleCap ..).settleLevel).next)

theorem Keeps.sampleChannel (ch : Nat) (r : Reading) : Keeps s₀ (sampleChannel s ch r) := by
  refine Keeps.chanSet ?_ ..
  split
  · exact hk
  · exact ((hk.cntAdd ..).pwLog ..).ite hk
  · exact hk

theorem Keeps.execThermalSample (readings : List Reading) : Runs s₀ (execThermalSample readings s) :=
  Keeps.iteRuns hk.next ((Keeps.foldl (fun _ _ ht => ht.sampleChannel ..) _ hk).same.settleLevel.next)

theorem Keeps.execThermalTrip (ch : Fin 68) : Runs s₀ (execThermalTrip ch s) := by
  refine Keeps.iteRuns hk.next (Keeps.iteRuns (hk.ite (hk.guestCut ..)).next (Keeps.next ?_))
  have h1 := ((hk.moduleReset .tripped false 2 ch.val).cntAdd (blkPW.reg 0x030) 1).pwMod fun x =>
    { x with trips := s.now :: tripsInHour s, tripCh := ch.val, latched := decide (3 ≤ (s.now :: tripsInHour s).length) }
  exact h1.same

theorem Keeps.startAgain (cause : Nat) : Keeps s₀ (startAgain s cause) :=
  (hk.pwMod fun x => { x with mode := .starting, fromStep3 := false, cause := cause, startAt := s.now }).same

theorem Keeps.execThermalRestart : Runs s₀ (execThermalRestart s) := by
  unfold Machine.execThermalRestart
  split
  · exact hk.next
  · exact Keeps.iteRuns hk.next (((hk.ite (hk.latchCause ..)).startAgain ..).next)

theorem Keeps.execPwLatchClr (value : Word) : Runs s₀ (execPwLatchClr value s) := by
  unfold Machine.execPwLatchClr
  split
  · exact hk.next
  · refine hk.softWrite _ fun t1 ht1 => ?_
    split
    · exact ht1.next
    · extract_lets s2 _
      have hs2 : Keeps s₀ s2 := ht1.pwMod ..
      exact hs2.same.next

theorem Keeps.execPowerOn (absent : Bool) (va vb : BitVec 10) : Runs s₀ (execPowerOn absent va vb s) := by
  have h1 : Keeps s₀ { State.reset with
      pending := s.pending, out := s.out, freeCtr := s.freeCtr, now := s.now, sec := s.sec.fuses, nor := s.nor } :=
    hk.lift rfl fun hs => (inv_iff _).2 { (inv_iff State.reset).1 reset_inv with nor := ((inv_iff s).1 hs).nor }
  refine Keeps.iteRuns hk.next (Keeps.iteRuns ?_ (Keeps.iteRuns ?_ hk.next))
  · exact (((h1.latchCause ..).pwSet _).startAgain _).next
  · exact ((hk.pwSet _).startAgain _).next

theorem Keeps.execHubReset : Runs s₀ (execHubReset s) := (hk.ite (hk.hubResets ..)).next

theorem Keeps.execResetN (lowNanos : Word) : Runs s₀ (execResetN lowNanos s) := (hk.ite (hk.hubResets ..)).next

theorem Keeps.execReferenceLost (gapNanos : Word) : Runs s₀ (execReferenceLost gapNanos s) := (hk.ite (hk.hubResets ..)).next

/-! ## Redundancy -/

theorem Keeps.redSet (r : RedSt) : Keeps s₀ (redSet s r) := hk.lift (redSet_pending ..) fun hs => hs.redSet ..

theorem Keeps.redLog (kind detail : Nat) : Keeps s₀ (redLog s kind detail) := hk.logRecord ..

theorem Keeps.execHeartbeatPathLost (beacon half wire : Bool) : Runs s₀ (execHeartbeatPathLost beacon half wire s) :=
  Keeps.iteRuns hk.next ((((hk.redSet ..).cntAdd ..).logRecord ..).next)

theorem Keeps.execHeartbeatPathRestored (beacon half wire : Bool) : Runs s₀ (execHeartbeatPathRestored beacon half wire s) :=
  Keeps.iteRuns hk.next ((hk.redSet ..).next)

theorem Keeps.halfFails (half : Bool) : Keeps s₀ (halfFails s half) := by
  unfold Machine.halfFails
  extract_lets _ _ _ s4 _
  have hs4 : Keeps s₀ s4 := hk.redSet ..
  exact hs4.ite ((hs4.redSet ..).redLog ..)

theorem Keeps.takeOver (gap cause : Nat) : Keeps s₀ (takeOver s gap cause) := (((hk.redSet ..).cntAdd ..).logCapture64 ..).redLog ..

theorem Keeps.declare_ (half : Bool) : Keeps s₀ (declare_ s half) := hk.redSet ..

theorem Keeps.bothFail (gap : Nat) (standby : Bool) : Keeps s₀ (bothFail s gap standby) := ((hk.redSet ..).takeOver ..).ite (hk.redSet ..)

theorem Keeps.driverFails (driver : Bool) : Keeps s₀ (driverFails s driver) :=
  (hk.ite ((hk.redSet ..).logRecord ..)).ite ((((hk.redSet ..).cntAdd ..).logRecord ..).ite hk)

theorem Keeps.execPartnerFailed (beacon half : Bool) (gap : Fin 65) : Runs s₀ (execPartnerFailed beacon half gap s) := by
  unfold Machine.execPartnerFailed
  split
  · exact hk.next
  · split
    · exact (hk.driverFails ..).next
    · split
      · exact (hk.bothFail ..).next
      · split
        · exact hk.next
        · extract_lets s1
          have hs1 : Keeps s₀ s1 := hk.declare_ ..
          exact Keeps.iteRuns (((hs1.halfFails ..).redLog ..).next) (Keeps.iteRuns (((hs1.halfFails ..).takeOver ..).next)
            ((hs1.hubResets ..).next))

theorem Keeps.execHalfDivergence (group : Byte) : Runs s₀ (execHalfDivergence group s) :=
  Keeps.iteRuns hk.next ((((hk.redSet ..).cntAdd ..).redLog ..).next)

theorem Keeps.execFailedHalfRestart (half : Bool) : Runs s₀ (execFailedHalfRestart half s) :=
  Keeps.iteRuns hk.next (((hk.redSet ..).cntAdd ..).next)

theorem Keeps.execResyncDone (half : Bool) : Runs s₀ (execResyncDone half s) :=
  Keeps.iteRuns hk.next ((((hk.redSet ..).cntAdd ..).redLog ..).next)

theorem Keeps.swRes (code : Nat) : Keeps s₀ (swRes s code) := hk.logCapture ..

theorem Keeps.execHmSwCmd (value : Word) (gap : Fin 65) : Runs s₀ (execHmSwCmd value gap s) := by
  unfold Machine.execHmSwCmd
  extract_lets _
  split
  · exact hk.next
  · refine hk.softWrite _ fun t2 ht2 => ?_
    split
    · exact (ht2.rset ..).next
    · extract_lets s3
      have hs3 : Keeps s₀ s3 := ht2.rset ..
      exact Keeps.iteRuns ((hs3.swRes ..).next) ((((hs3.redSet ..).takeOver ..).swRes ..).next)

theorem Keeps.execBeaconSwitchover : Runs s₀ (execBeaconSwitchover s) := (hk.ite (hk.driverFails ..)).next

/-! ## Start-up -/

theorem Keeps.secSet (x : SecSt) : Keeps s₀ (secSet s x) := hk.lift (secSet_pending ..) fun hs => hs.secSet ..

theorem Keeps.secMod (f : SecSt → SecSt) : Keeps s₀ (secMod s f) := hk.lift (secMod_pending ..) fun hs => hs.secMod ..

theorem Keeps.secLog (kind detail : Nat) : Keeps s₀ (secLog s kind detail) := hk.logRecord ..

theorem Keeps.runImage (b : List Byte) : Keeps s₀ (runImage s b) := hk.secMod ..

theorem Keeps.bootFails (code stage : Nat) : Keeps s₀ (bootFails s code stage) := by
  unfold Machine.bootFails
  extract_lets s1
  have hs1 : Keeps s₀ s1 := hk.secMod ..
  exact (hs1.secMod ..).ite (hs1.secLog ..)

theorem Keeps.configPilot (b : List Byte) : Keeps s₀ (configPilot s b) :=
  ((Keeps.foldl (fun _ _ ht => ht.rset ..) _ (hk.setEn ..)).jumboChange ..).enableBlock ..

theorem Keeps.norFound (e : NorPlace × List Byte) : Keeps s₀ (norFound s e) := by
  unfold Machine.norFound
  split
  · exact hk.norKeep rfl
  · exact hk.norKeep (by dsimp only; split <;> rfl)
  · exact hk.secMod _
  · exact hk.norKeep rfl
  · exact hk.norKeep rfl
  · exact hk.norKeep rfl
  · exact hk.norKeep rfl
  · exact hk.calSet ..

theorem Keeps.copiesLog (ty slot : Nat) (a b : Bool) : Keeps s₀ (copiesLog s ty slot a b) :=
  ((hk.logRecord ..).ite (hk.logRecord ..)).ite hk

theorem Keeps.useInst (r : InstCopy) : Keeps s₀ (useInst s r) := by
  have h (x : HmSt) {t : State} (ht : Keeps s₀ t) : Keeps s₀ { t with hm := x } := ht.same
  exact Keeps.same (Keeps.configPilot (h _ (hk.secMod fun x => { x with inst := some r })) r.body)

theorem Keeps.loadInst : Keeps s₀ (loadInst s) := by
  unfold Machine.loadInst
  extract_lets _ s2 _
  have hs2 : Keeps s₀ s2 := hk.copiesLog ..
  split
  · exact hs2.useInst ..
  · exact hs2.same.bootFails ..

theorem Keeps.loadCalibration : Keeps s₀ (loadCalibration s) :=
  Keeps.foldl (fun _ _ ht => Keeps.foldl (fun _ _ ht => (ht.calLoad ..).copiesLog ..) _ ht) _ hk

end

end Sys2Proof.Machine
end

section
/-! What is kept: start-up, security, SPDM and register space. -/

namespace Sys2Proof.Machine
set_option Elab.async false

section
variable {s₀ s : State} (hk : Keeps s₀ s)
include hk

/-! ## Start-up -/

theorem Keeps.lmsStart (next end_ : Nat) : Keeps s₀ (lmsStart s next end_) := hk.secMod ..

theorem Keeps.lmsBegin : Keeps s₀ (lmsBegin s) := by
  refine Keeps.ite (Keeps.ite ?_ ((hk.lmsStart ..).secLog ..)) (((hk.lmsStart ..).secMod _).secLog ..)
  refine Keeps.lmsStart (hk.norKeep ?_) ..
  unfold lmsAppend
  dsimp only
  split <;> rfl

theorem Keeps.loadOwner (i : Nat) : Keeps s₀ (loadOwner s i) := by
  unfold Machine.loadOwner
  extract_lets _ _ _ _ s5
  have hs5 : Keeps s₀ s5 := hk.secMod ..
  exact hs5.ite (hs5.secLog ..)

theorem Keeps.loadIdentity : Keeps s₀ (loadIdentity s) := by
  unfold Machine.loadIdentity
  extract_lets s1 s2
  have hs1 : Keeps s₀ s1 := hk.takeFree.secMod ..
  have hs2 : Keeps s₀ s2 := by
    dsimp only [s2]
    refine Keeps.foldl (fun t _ ht => ?_) _ ?_
    · exact ht.loadOwner ..
    · exact hs1
  exact hs2.lmsBegin.ite (hs2.bootFails ..)

theorem Keeps.reportReset : Keeps s₀ (reportReset s) := by
  unfold Machine.reportReset
  extract_lets s1 s2 s3 s4 s5
  have hs1 : Keeps s₀ s1 := Keeps.foldl (fun _ _ ht => ht.secLog ..) _ hk
  have hs2 : Keeps s₀ s2 := Keeps.foldl (fun _ _ ht => ht.secLog ..) _ hs1
  have hs3 : Keeps s₀ s3 := hs2.ite (hs2.pwLog ..)
  have hs4 : Keeps s₀ s4 := hs3.ite (hs3.pwLog ..)
  have hs5 : Keeps s₀ s5 := hs4.ite (hs4.secLog ..)
  exact hs5.secMod ..

theorem Keeps.guestSetting (b : List Byte) : Keeps s₀ (guestSetting s b) := by
  unfold Machine.guestSetting
  extract_lets _ s2
  have hs2 : Keeps s₀ s2 := hk.rset ..
  exact hs2.ite ((hs2.pwMod ..).rset ..)

theorem Keeps.startDies (b : Boot) : Keeps s₀ (startDies s b) := by
  unfold Machine.startDies
  extract_lets s1 s2 _ s4
  have hs1 : Keeps s₀ s1 := hk.pwMod ..
  have hs2 : Keeps s₀ s2 := by
    dsimp only [s2]
    split
    · exact hs1.guestSetting ..
    · exact hs1
  have hs4 : Keeps s₀ s4 := Keeps.foldl (fun _ _ ht => ht.dieSet ..) _ hs2
  refine Keeps.foldl (fun t _ ht => ?_) _ ?_
  · split
    · extract_lets s5 s6
      have hs5 : Keeps s₀ s5 := ht.rset ..
      have hs6 : Keeps s₀ s6 := hs5.strapsBad ..
      exact ((Keeps.foldl (fun _ _ ht => ht.loseOne ..) _ hs6).bootFails ..).ite hs5
    · exact ht.ite ((ht.loseDie ..).bootFails ..)
  · exact hs4

theorem Keeps.setLane (b : Blk) (off p : Nat) : Keeps s₀ (setLane s b off p) := hk.rset ..

theorem Keeps.laneFailed (slot k p : Nat) : Keeps s₀ (laneFailed slot k s p) := by
  unfold Machine.laneFailed
  extract_lets s1 s2
  have hs1 : Keeps s₀ s1 := hk.setLane ..
  have hs2 : Keeps s₀ s2 := by
    dsimp only [s2]
    split
    · exact hs1.setLane ..
    · exact hs1
  exact (hs2.logRecord ..).ite hs2

theorem Keeps.startLanes (tests : List LaneTest) : Keeps s₀ (startLanes s tests) := by
  unfold Machine.startLanes
  refine Keeps.foldl (fun t _ ht => ?_) _ ?_
  · split
    · exact ht
    · refine Keeps.foldl (fun t _ ht => ?_) _ ?_
      · exact ht.laneFailed ..
      · exact ht.cntAdd ..
  · exact hk

theorem Keeps.startStacks (bad : List (Fin 16)) : Keeps s₀ (startStacks s bad) :=
  Keeps.foldl (fun _ _ ht => ((ht.mcSet ..).ite (((ht.mcSet ..).secLog ..).bootFails ..)).ite ht) _ hk

theorem Keeps.startSites (bist : List (Fin 12 × Fin 48 × SiteTest)) : Keeps s₀ (startSites s bist) :=
  Keeps.foldl (fun _ _ ht => ht.ite (ht.noteBist ..)) _ hk

theorem Keeps.startLasers (bad : List (Fin 8 × Bool)) : Keeps s₀ (startLasers s bad) := by
  unfold Machine.startLasers
  refine Keeps.foldl (fun t _ ht => ?_) _ ?_
  · extract_lets _ _ _ s4
    have hs4 : Keeps s₀ s4 := (ht.lsSet ..).bootFails ..
    exact (hs4.ite (hs4.noSide ..)).ite ht
  · exact hk

theorem Keeps.startEngine (n : Fin 8) : Keeps s₀ (startEngine s n) := (((hk.rset ..).placeLanes ..).enableBlock ..).ite hk

theorem Keeps.testEngine (b : Boot) (n : Fin 8) : Keeps s₀ (testEngine b s n) := ((hk.homeTest ..).placeLanes ..).ite hk

theorem Keeps.startBlocks : Keeps s₀ (startBlocks s) := by
  unfold Machine.startBlocks
  extract_lets _ _ s3 s4
  have hs3 : Keeps s₀ s3 := by
    dsimp only [s3]
    refine Keeps.foldl (fun t _ ht => ?_) _ ?_
    · refine Keeps.foldl (fun t _ ht => ?_) _ ?_
      · exact ht.enableBlock ..
      · exact ht.writeDie ..
    · exact hk
  have hs4 : Keeps s₀ s4 := by
    dsimp only [s4]
    refine Keeps.foldl (fun t _ ht => ?_) _ ?_
    · exact ht.enableBlock ..
    · exact hs3.writeDie ..
  exact Keeps.foldl (fun _ _ ht => ht.bundleUpBoth ..) _ hs4

theorem Keeps.startOptics : Keeps s₀ (startOptics s) := by
  unfold Machine.startOptics
  extract_lets _
  refine Keeps.foldl (fun t _ ht => ?_) _ ?_
  · exact ht.enableBlock ..
  · exact hk

theorem Keeps.finishStart (b : Boot) (millis : Nat) : Keeps s₀ (finishStart s b millis) := by
  unfold Machine.finishStart
  extract_lets _ s2 s3 s4
  have hs2 : Keeps s₀ s2 := by
    dsimp only [s2]
    split
    · exact hk.ite (hk.rset64 ..)
    · exact hk
  have hs3 : Keeps s₀ s3 := (hs2.setRole ..).enableBlock ..
  have hs4 : Keeps s₀ s4 := hs3.pwMod ..
  exact hs4.secMod ..

theorem Keeps.startHalves (b : Boot) : Keeps s₀ (startHalves s b) := hk.same

theorem Keeps.atStage (n : Nat) : Keeps s₀ (atStage s n) := hk.secMod ..

theorem Keeps.enterRecovery (b : Boot) (code : Nat) : Keeps s₀ (enterRecovery s b code) := by
  unfold Machine.enterRecovery
  exact ((hk.bootFails ..).pwMod ..).secMod ..

theorem Keeps.startFirmware (image : List Byte) : Keeps s₀ (startFirmware s image) := ((hk.runImage ..).pwMod ..).atStage ..

theorem Keeps.endRails (b : Boot) : Keeps s₀ (endRails b s) := by
  unfold Machine.endRails
  split
  · exact (hk.bootFails ..).pwMod ..
  · split
    · exact (hk.bootFails ..).pwMod ..
    · refine Keeps.atStage ?_ ..
      refine Keeps.pwMod ?_ ..
      refine Keeps.foldl (fun t _ ht => ?_) _ ?_
      · exact ht.norFound ..
      · exact hk.startHalves ..

theorem Keeps.endRom (b : Boot) : Keeps s₀ (endRom b s) := by
  unfold Machine.endRom
  extract_lets s1 _ s3
  have hs1 : Keeps s₀ s1 := hk.secMod ..
  have hs3 : Keeps s₀ s3 := (hs1.secMod ..).cntAdd ..
  split
  · exact hs1.enterRecovery ..
  · split
    · exact hs3.enterRecovery ..
    · exact (hs3.secMod ..).startFirmware ..

theorem Keeps.endStage (b : Boot) : Keeps s₀ (endStage b s) := by
  unfold Machine.endStage
  split
  · exact hk.endRails ..
  · exact (hk.endRom ..).ite hk
  · exact (((((hk.enableBlock ..).reportReset).loadInst).loadCalibration).loadIdentity).atStage ..
  · exact (((hk.startDies ..).startLanes ..).startBlocks).atStage ..
  · refine Keeps.atStage ?_ ..
    refine Keeps.foldl (fun t _ ht => ?_) _ ?_
    · exact ht.startEngine ..
    · exact ((hk.startStacks ..).startSites ..).startLasers ..
  · refine Keeps.atStage ?_ ..
    refine Keeps.startOptics ?_ ..
    refine Keeps.foldl (fun t _ ht => ?_) _ ?_
    · exact ht.testEngine ..
    · exact hk
  · exact (hk.secMod ..).ite (hk.finishStart ..)
  · exact hk

theorem Keeps.runStages (b : Boot) (n : Nat) : Keeps s₀ (runStages b n s) := by
  induction n generalizing s with
  | zero => exact hk
  | succ n ih =>
    have h1 : Keeps s₀ (Machine.endStage b s) := hk.endStage b
    exact Keeps.ite (Keeps.ite (ih h1) h1) hk

theorem Keeps.execStartUp (b : Boot) : Runs s₀ (execStartUp b s) := Keeps.iteRuns hk.next (((hk.pwMod ..).runStages ..).next)

theorem Keeps.saveImage (image : List Byte) : Keeps s₀ (saveImage s image) := hk.same.ite hk

theorem Keeps.execRecoveryImage (image : List Byte) : Runs s₀ (execRecoveryImage image s) := by
  unfold Machine.execRecoveryImage
  split
  · exact hk.next
  · split
    · exact hk.next
    · split
      · exact (((hk.startFirmware ..).saveImage ..).runStages ..).next
      · exact ((hk.secMod ..).cntAdd ..).next

theorem Keeps.execStartupTimeout : Runs s₀ (execStartupTimeout s) := by
  unfold Machine.execStartupTimeout
  split
  · exact hk.next
  · exact Keeps.iteRuns hk.next ((((hk.secMod ..).bootFails ..).finishStart ..).next)

theorem Keeps.execV1p8Retry : Runs s₀ (execV1p8Retry s) := Keeps.iteRuns hk.next (((hk.startAgain ..).secMod ..).next)

/-! ## Security -/

theorem Keeps.commitSvn (fuseFault : Bool) : Keeps s₀ (commitSvn s fuseFault).1 := by
  unfold Machine.commitSvn
  dsimp only
  split
  · exact hk
  split
  · dsimp only
    exact hk.takeFree.secMod _
  · dsimp only
    exact hk.secMod _

theorem Keeps.svnCut (n : Nat) : Keeps s₀ (svnCut s n) := hk.secMod ..

theorem Keeps.svnCommit (fuseFault : Bool) : Keeps s₀ (svnCommit s fuseFault) := by
  unfold Machine.svnCommit
  extract_lets r1 s2
  have hr1 : Keeps s₀ r1.1 := (hk.rset ..).commitSvn ..
  have hs2 : Keeps s₀ s2 := hr1.logCapture ..
  exact hs2.ite (hs2.secLog ..)

theorem Keeps.execSbSvnCommit (value : Word) (fuseFault : Bool) (cut : Option (Fin 68)) :
    Runs s₀ (execSbSvnCommit value fuseFault cut s) := by
  unfold Machine.execSbSvnCommit
  split
  · exact hk.next
  · refine hk.softWrite _ fun t1 ht1 => ?_
    refine Keeps.next ?_
    split
    · exact ht1.rset ..
    · split
      · exact (ht1.rset ..).svnCut ..
      · exact ht1.svnCommit ..

theorem Keeps.execSbWdog (value : Word) : Runs s₀ (execSbWdog value s) :=
  Keeps.iteRuns hk.next (hk.softWrite _ fun _ ht => (ht.ite (ht.secMod ..)).next)

theorem Keeps.execWatchdogExpiry : Runs s₀ (execWatchdogExpiry s) := Keeps.iteRuns hk.next ((((hk.hubResets ..).cntAdd ..).secMod ..).next)

theorem Keeps.ownerSet (i : Nat) (o : OwnerSlot) : Keeps s₀ (ownerSet s i o) := hk.secMod ..

theorem Keeps.enrolSlot (c : OwnerCmd) : Keeps s₀ (enrolSlot s c) := by
  unfold Machine.enrolSlot
  exact ((hk.same.ite hk).ownerSet ..).secMod ..

theorem Keeps.ownerEffect (c : OwnerCmd) (interrupted : Bool) : Keeps s₀ (ownerEffect s c interrupted) := by
  unfold Machine.ownerEffect
  split
  · exact (hk.enrolSlot ..).ite (hk.takeFree.ownerSet ..)
  · exact hk.ownerSet ..
  · exact hk.secMod ..

theorem Keeps.newNonce : Keeps s₀ (newNonce s) := hk.takeFree.secMod ..

theorem Keeps.ownerEnd (c : OwnerCmd) (code : Nat) : Keeps s₀ (ownerEnd s c code) :=
  ((hk.ite (hk.cntAdd ..)).newNonce.logCapture ..).secLog ..

theorem Keeps.stagedBytes (value : Word) (n : Nat) : Keeps s₀ (stagedBytes s value n).1 := by
  unfold Machine.stagedBytes
  extract_lets _ s2
  have hs2 : Keeps s₀ s2 := hk.sramFix ..
  exact hs2

theorem Keeps.ownerRun (value : Word) (interrupted : Bool) : Keeps s₀ (ownerRun s value interrupted) := by
  unfold Machine.ownerRun
  extract_lets r1 s2 _ s4
  have hr1 : Keeps s₀ r1.1 := (hk.rset ..).stagedBytes ..
  have hs2 : Keeps s₀ s2 := hr1
  have hs4 : Keeps s₀ s4 := hs2.ownerEffect ..
  split
  · exact (hs4.ownerEnd ..).ite hs4
  · exact hs2.ownerEnd ..
  · exact hs2.takeFree.ownerEnd ..

theorem Keeps.ownerCommand (value : Word) (interrupted : Bool) : Keeps s₀ (ownerCommand s value interrupted) :=
  ((hk.ownerRun ..).ite ((hk.rset ..).setBusy ..)).ite (hk.rset ..)

theorem Keeps.ownerRow (value : Word) (interrupted : Bool) : Runs s₀ (ownerRow s value interrupted) :=
  Keeps.iteRuns hk.next (hk.softWrite _ fun _ ht => (ht.ownerCommand ..).next)

theorem Keeps.execEnrol (value : Word) (interrupted : Bool) : Runs s₀ (execEnrol value interrupted s) := hk.ownerRow ..

theorem Keeps.execRevoke (value : Word) : Runs s₀ (execRevoke value s) := hk.ownerRow ..

theorem Keeps.execDecommission (value : Word) : Runs s₀ (execDecommission value s) := hk.ownerRow ..

theorem Keeps.instWrite (body : List Byte) : Keeps s₀ (instWrite s body) := by
  unfold Machine.instWrite
  extract_lets _ _ _ _ s5
  have hs5 : Keeps s₀ s5 := (hk.same.secMod ..).ite hk
  exact hs5.ite (hs5.useInst ..)

theorem Keeps.instRun (value : Word) : Keeps s₀ (instRun s value) := by
  unfold Machine.instRun
  extract_lets r1
  have hr1 : Keeps s₀ r1.1 := (hk.rset ..).stagedBytes ..
  exact hr1.ite (hr1.instWrite ..)

theorem Keeps.instCommand (value : Word) : Keeps s₀ (instCommand s value) :=
  ((hk.instRun ..).ite ((hk.rset ..).setBusy ..)).ite (hk.rset ..)

theorem Keeps.execSbInstCmd (value : Word) : Runs s₀ (execSbInstCmd value s) :=
  Keeps.iteRuns hk.next (hk.softWrite _ fun _ ht => (ht.instCommand ..).next)

theorem Keeps.securityPump : Keeps s₀ (securityPump s) :=
  ((hk.ite (((hk.setBusy ..).instRun ..).ite hk)).ite (((hk.setBusy ..).ownerRun ..).ite hk)).ite hk

theorem Keeps.execLmsTreeBuildDone : Runs s₀ (execLmsTreeBuildDone s) := Keeps.iteRuns ((hk.secMod ..).next) hk.next

omit hk in
theorem lmsAppend_copy (n : NorSt) (e : Nat) : (lmsAppend n e).copy = n.copy := by
  unfold lmsAppend
  dsimp only
  split <;> rfl

theorem Keeps.lmsTake (logOk : Bool) : Keeps s₀ (lmsTake s logOk).1 := by
  unfold Machine.lmsTake
  extract_lets _ s1 _
  have h1 : Keeps s₀ s1 := hk.ite (hk.secMod _)
  split
  · exact hk
  split
  · exact hk.secLog ..
  split
  · exact hk.secLog ..
  split
  · dsimp only
    exact h1.secMod _
  split
  · exact (h1.secMod _).secLog ..
  · dsimp only
    exact (h1.norKeep (lmsAppend_copy ..)).secMod _

/-! ## SPDM -/

theorem Keeps.connSet (t : Transport) (x : SpdmSt) : Keeps s₀ (connSet s t x) := hk.lift (connSet_pending ..) fun hs => hs.connSet ..

theorem Keeps.spdmAnswer (t : Transport) (r : SpdmResp) : Keeps s₀ (spdmAnswer s t r) := by
  unfold Machine.spdmAnswer
  extract_lets s1 _
  have hs1 : Keeps s₀ s1 := (hk.cntAdd ..).emit ..
  split
  · exact hs1.same.pilotSend ..
  · exact hs1

theorem Keeps.answerLong (t : Transport) (r : SpdmResp) : Keeps s₀ (answerLong s t r) :=
  ((hk.connSet ..).spdmAnswer ..).ite (hk.spdmAnswer ..)

theorem Keeps.spdmServe (t : Transport) (i : SpdmReq) (ok : SpdmSt → Bool) {f : State → State} (hf : ∀ u, Keeps s₀ u → Keeps s₀ (f u)) :
    Runs s₀ (spdmServe s t i ok f) := Keeps.iteRuns hk.next (Keeps.iteRuns (hk.spdmAnswer ..).next (hf _ hk).next)

theorem Keeps.withKeys (t : Transport) {f : State → State} (hf : ∀ u, Keeps s₀ u → Keeps s₀ (f u)) : Keeps s₀ (withKeys t f s) :=
  (hf _ hk).ite (hk.spdmAnswer ..)

theorem Keeps.setupAnswer (t : Transport) (i : SpdmReq) (r : SpdmResp) (f : SpdmSt → SpdmSt) : Keeps s₀ (setupAnswer s t i r f) :=
  (hk.connSet ..).spdmAnswer ..

theorem Keeps.execGetVersion (t : Transport) : Runs s₀ (execGetVersion t s) := hk.spdmServe t _ _ fun _ hu => (hu.connSet ..).setupAnswer ..

theorem Keeps.execGetCapabilities (t : Transport) (rest : List Byte) : Runs s₀ (execGetCapabilities t rest s) :=
  hk.spdmServe t _ _ fun _ hu => (hu.setupAnswer ..).ite (hu.spdmAnswer ..)

theorem Keeps.execNegotiateAlgorithms (t : Transport) (rest : List Byte) : Runs s₀ (execNegotiateAlgorithms t rest s) :=
  hk.spdmServe t _ _ fun _ hu => (hu.setupAnswer ..).ite (hu.spdmAnswer ..)

theorem Keeps.certsAnswer (t : Transport) (i : SpdmReq) (r : SpdmResp) : Keeps s₀ (certsAnswer s t i r) := (hk.connSet ..).answerLong ..

theorem Keeps.execGetDigests (t : Transport) : Runs s₀ (execGetDigests t s) :=
  hk.spdmServe t _ _ fun _ hu => hu.withKeys t fun _ hv => hv.certsAnswer ..

theorem Keeps.execGetCertificate (t : Transport) (slot : Fin 8) (offset length : BitVec 16) :
    Runs s₀ (execGetCertificate t slot offset length s) :=
  hk.spdmServe t _ _ fun _ hu => hu.withKeys t fun _ hv => (hv.certsAnswer ..).ite (hv.spdmAnswer ..)

theorem Keeps.signedOver (t : Transport) (input : List Byte) : Keeps s₀ (signedOver s t input) := hk.connSet ..

theorem Keeps.execGetMeasurements (t : Transport) (index : Byte) (signed : Bool) (nonce : BitVec 256) (context : Dword) :
    Runs s₀ (execGetMeasurements t index signed nonce context s) := by
  unfold Machine.execGetMeasurements
  refine hk.spdmServe t _ _ ?_
  intro u hu
  have h1 := hu.takeFree.takeFree
  split
  · exact hu.spdmAnswer ..
  extract_lets _ _ _ _ _
  split
  · exact (h1.connSet ..).answerLong ..
  · exact h1.withKeys t fun _ hv => (hv.signedOver ..).answerLong ..

theorem Keeps.execChallenge (t : Transport) (slot : Fin 8) (summary : Byte) (nonce : BitVec 256) (context : Dword) :
    Runs s₀ (execChallenge t slot summary nonce context s) :=
  hk.spdmServe t _ _ fun _ hu => hu.withKeys t fun _ hv =>
    (((hv.takeFree.takeFree.signedOver ..).connSet ..).answerLong ..).ite (hv.spdmAnswer ..)

theorem Keeps.execChunkGet (t : Transport) (handle : Byte) (chunk : BitVec 16) : Runs s₀ (execChunkGet t handle chunk s) := by
  refine hk.spdmServe t _ _ fun u hu => ?_
  split
  · exact ((hu.connSet ..).spdmAnswer ..).ite (hu.spdmAnswer ..)
  · exact hu.spdmAnswer ..

theorem Keeps.execGetLmsSig (t : Transport) (standard : BitVec 16) (vendor : Word) (logOk : Bool) :
    Runs s₀ (execGetLmsSig t standard vendor logOk s) := by
  refine hk.spdmServe t _ _ fun u hu => hu.withKeys t fun v hv => ?_
  split
  · exact hv.spdmAnswer ..
  have h1 := hv.lmsTake logOk
  split
  · rename_i e; exact (h1.fst e).answerLong ..
  · rename_i e; exact (h1.fst e).spdmAnswer ..
  · rename_i e; exact (h1.fst e).spdmAnswer ..

theorem Keeps.execGetLmsChain (t : Transport) (standard : BitVec 16) (vendor : Word) : Runs s₀ (execGetLmsChain t standard vendor s) :=
  hk.spdmServe t _ _ fun _ hu => (hu.spdmAnswer ..).ite (hu.answerLong ..)

/-! ## Reading registers -/

theorem Keeps.readWords (b : Blk) (who : Requester) (l : List Word) (i : Nat) : Keeps s₀ (readWords s b who l i).1 := by
  unfold Machine.readWords
  split
  · exact hk
  · split
    · exact hk.same
    · exact hk

theorem Keeps.regNow (who : Requester) (off : Nat) : Keeps s₀ (regNow s who off).1 := by
  unfold Machine.regNow
  split
  · split
    · split
      · exact hk
      · extract_lets x1
        have hx1 : Keeps s₀ x1.1 := hk.readWords ..
        exact hx1.ite hx1.takeFree
    · exact hk
  · split
    · exact hk
    · extract_lets _
      exact hk.readWords ..
  · exact hk
  · exact hk

/-! ## Registers -/

omit hk in
theorem Keeps.after {r : Result} (hr : Runs s₀ r) : Keeps s₀ (after s r) := by
  obtain ⟨t, rfl, ht⟩ := hr
  exact ht

theorem Keeps.goodParity (b : Blk) (r : RegRow) (first : Nat) : Keeps s₀ (goodParity s b r first) := by
  unfold Machine.goodParity
  extract_lets _ s2 _
  have hs2 : Keeps s₀ s2 := hk.same
  exact hs2.ite hs2.same

theorem Keeps.limitRings (n : Nat) : Keeps s₀ (limitRings s n) := Keeps.foldl (fun _ _ ht => (ht.takeFree.ringFatal ..).giveUp ..) _ hk

theorem Keeps.rwEffect (old : State) (b : Blk) (o : Nat) : Keeps s₀ (rwEffect old s b o) := by
  unfold Machine.rwEffect
  split
  · exact hk.ite (hk.loopOff ..)
  · exact hk.ite (hk.jumboChange ..)
  · exact hk.ite (hk.limitRings ..)
  · exact hk

theorem Keeps.ignoreWrite (b : Blk) : Keeps s₀ (ignoreWrite s b) := (hk.errCount ..).same

theorem Keeps.applyRw (b : Blk) (r : RegRow) (first : Nat) (l : List Word) : Keeps s₀ (applyRw s b r first l) :=
  (((Keeps.foldl (fun _ _ ht => ht.rset ..) _ hk).ite (hk.setRole ..)).goodParity ..).rwEffect ..

theorem Keeps.writeCtrl (b : Blk) (v : Word) : Keeps s₀ (writeCtrl s b v) :=
  (((hk.errCount ..).ite (hk.disableBlock ..)).ite (hk.enableBlock ..)).ite hk

theorem Keeps.homeTestFree (n : Nat) (v : Word) : Keeps s₀ (homeTestFree s n v) := Keeps.after (Keeps.execOeHomeTest hk.same ..)

theorem Keeps.triggerWrite (b : Blk) (o : Nat) (v : Word) : Keeps s₀ (triggerWrite s b o v) := by
  unfold Machine.triggerWrite
  split
  · exact Keeps.after (hk.execGfQuarSet _)
  · exact Keeps.after (hk.execGfQuarClr _)
  · exact hk.homeTestFree ..
  · exact Keeps.after (hk.execPwLatchClr _)
  · exact Keeps.after (hk.execSbWdog _)
  · exact hk

theorem Keeps.shWrite (b : Blk) (o : Nat) (v : Word) : Keeps s₀ (shWrite s b o v) := by
  unfold Machine.shWrite
  split
  · exact hk.writeCtrl ..
  · exact hk.hmCommand ..
  · exact hk.dieCommand ..
  · exact Keeps.after (hk.takeFree.execHmSwCmd ..)
  · exact Keeps.after (hk.execTdCancel _)
  · exact Keeps.after (hk.execBlHostAdd _)
  · exact Keeps.after (hk.execBtCommit _)
  · exact Keeps.after (hk.execBtSweep _)
  · exact Keeps.after (hk.execElConsume _)
  · exact Keeps.after (hk.execPlTideSlew _)
  · exact Keeps.after (hk.execPwGuestOn _)
  · exact Keeps.after (hk.execSbSvnCommit ..)
  · exact hk.ownerCommand ..
  · exact hk.instCommand ..
  · exact Keeps.after (Keeps.iteRuns (hk.execRetireClear ..) (hk.execRetirePage ..))
  · exact hk.ite (hk.rset ..)
  · exact Keeps.after (hk.execQlWidthReq ..)
  · exact Keeps.after (hk.execQlScuttle ..)
  · exact Keeps.after (hk.execOeWbCmd ..)
  · exact Keeps.after (hk.execLsSwCmd ..)
  · exact hk.rset ..

theorem Keeps.clearLog (b : Blk) (first n : Nat) : Keeps s₀ (clearLog s b first n) :=
  Keeps.foldl (fun _ _ ht => Keeps.foldl (fun _ _ ht => Keeps.foldl (fun _ _ ht => ht.rset ..) _ ht) _ ht) _ (Keeps.foldl
    (fun _ _ ht => ht.rset ..) _ hk)

theorem Keeps.writeLog (b : Blk) (first n : Nat) (v : Word) (hit : Option Word) : Keeps s₀ (writeLog s b first n v hit) := by
  unfold Machine.writeLog
  extract_lets _ _
  split
  · exact hk.ite (hk.clearLog ..)
  · exact (hk.ite ((hk.rset ..).errCount ..)).ite (hk.rset ..)

end

end Sys2Proof.Machine
end

section
/-! What is kept: registers, the pilot, scalar instructions, scan, tugs and the tick. -/

namespace Sys2Proof.Machine
set_option Elab.async false

section
variable {s₀ s : State} (hk : Keeps s₀ s)
include hk

/-! ## Registers -/

theorem Keeps.holdLow (b : Blk) (who : Requester) (first : Nat) (v : Word) : Keeps s₀ (holdLow s b who first v) :=
  hk.lift (holdLow_pending ..) fun hs => hs.holdLow ..

theorem Keeps.lowFor (b : Blk) (who : Requester) (first : Nat) : Keeps s₀ (lowFor s b who first).1 := by
  unfold Machine.lowFor
  split
  · split
    · exact hk.same
    · exact hk
  · exact hk

theorem Keeps.landWrite (b : Blk) (who : Requester) (r : RegRow) (first o : Nat) (v : Word) (t : WriteTiming) :
    Keeps s₀ (landWrite s b who r first o v t) := by
  unfold Machine.landWrite
  extract_lets _ x2 s3
  have hx2 : Keeps s₀ x2.1 := hk.lowFor ..
  have hs3 : Keeps s₀ s3 := (hx2.rset ..).rset ..
  split
  · exact hk
  · exact hk
  · exact (((hk.applyRw ..).ite (hx2.applyRw ..)).ite (hk.holdLow ..)).ite (hk.ignoreWrite ..)
  · exact (((hk.rset ..).ite ((hk.rset ..).cntAdd ..)).ite (hs3.ite (hs3.cntAdd64 ..))).ite (hk.holdLow ..)
  · exact hk.triggerWrite ..
  · exact ((hk.writeLog ..).ite (hk.holdLow ..)).ite hk
  · split
    · exact hk.rset ..
    · exact hk.shWrite ..

theorem Keeps.landPosted (p : Posted) : Keeps s₀ (landPosted s p) := by
  unfold Machine.landPosted
  split
  · split
    · exact hk.landWrite ..
    · exact hk
  · exact hk.ite (hk.bollSet ..)
  · exact hk

theorem Keeps.applyPosted (p : Posted) : Keeps s₀ (applyPosted s p) := hk.ite (hk.same.landPosted ..)

theorem Keeps.settle (b : Blk) : Keeps s₀ (settle s b) := by
  unfold Machine.settle
  split
  · exact hk.applyPosted ..
  · exact hk

theorem Keeps.applyDue (t : Nat) : Keeps s₀ (applyDue s t) := by
  unfold Machine.applyDue
  split
  · exact hk
  · refine Keeps.foldl (fun t _ ht => ?_) _ ?_
    · exact ht.applyPosted ..
    · exact hk

theorem Keeps.postWrite (b : Blk) (who : Requester) (off : Nat) (v : Word) (t : WriteTiming) : Keeps s₀ (postWrite s b who off v t) := by
  unfold Machine.postWrite
  split
  · exact hk.dropWrite ..
  · extract_lets s1 _
    have hs1 : Keeps s₀ s1 := (hk.acceptWrite ..).takeFree
    exact hs1.same

theorem Keeps.regWrite (who : Requester) (off : Nat) (v : Word) (t : WriteTiming) : Keeps s₀ (regWrite s who off v t) := by
  unfold Machine.regWrite
  split
  · exact hk.ite (hk.postWrite ..)
  · exact hk

theorem Keeps.regRead (who : Requester) (off : Nat) : Keeps s₀ (regRead s who off).1 := by
  unfold Machine.regRead
  split
  · exact ((hk.settle ..).ite hk).regNow ..
  · exact (hk.settle ..).regNow ..
  · exact hk.regNow ..

theorem Keeps.execRegisterWrite (writer : Requester) (reg : BitVec 32) (value : Word) (timing : WriteTiming) :
    Runs s₀ (execRegisterWrite writer reg value timing s) :=
  (hk.ite (hk.regWrite ..)).next

theorem Keeps.ctrlWrite (writer : Requester) (reg : BitVec 32) (en : Bool) : Runs s₀ (ctrlWrite writer reg en s) := by
  unfold Machine.ctrlWrite
  split
  · exact Keeps.iteRuns (hk.softWrite _ fun _ ht => (ht.writeCtrl ..).next) hk.next
  · exact hk.next

theorem Keeps.execBlockEnable (writer : Requester) (reg : BitVec 32) : Runs s₀ (execBlockEnable writer reg s) := hk.ctrlWrite ..

theorem Keeps.execBlockDisable (writer : Requester) (reg : BitVec 32) : Runs s₀ (execBlockDisable writer reg s) := hk.ctrlWrite ..

theorem Keeps.bundleDown (k : Nat) : Keeps s₀ (bundleDown s k) := by
  unfold Machine.bundleDown
  split
  · exact (hk.linkDown ..).linkDown ..
  · exact hk.linkDown ..

theorem Keeps.restorePilot : Keeps s₀ (restorePilot s) := by
  unfold Machine.restorePilot
  split
  · exact hk.same.configPilot ..
  · exact hk

theorem Keeps.safeEffect (b : Blk) : Keeps s₀ (safeEffect s b) := by
  unfold Machine.safeEffect
  split
  · exact hk.same
  · exact hk.bundleDown ..
  · refine Keeps.foldl (fun t _ ht => ?_) _ ?_
    · exact ht.bundleDown ..
    · exact hk
  · refine Keeps.foldl (fun t _ ht => ?_) _ ?_
    · exact ht.linkDown ..
    · exact hk.darkTx ..
  · exact hk.guestQuarantine
  · exact hk.restorePilot
  · exact hk.guestCut ..
  · exact hk

theorem Keeps.parityFault (b : Blk) (first : Nat) : Keeps s₀ (parityFault s b first) := by
  unfold Machine.parityFault
  extract_lets _ _ s3 _ _ s6 _ s8
  have hs3 : Keeps s₀ s3 := hk.takeFree.rset ..
  have hs6 : Keeps s₀ s6 := hs3.same.errCount ..
  have hs8 : Keeps s₀ s8 := hs6.ite (hs6.logRecord ..)
  exact (hs8.safeEffect ..).ite hs8

theorem Keeps.execConfigParityFault (reg : BitVec 32) : Runs s₀ (execConfigParityFault reg s) := by
  unfold Machine.execConfigParityFault
  split
  · exact Keeps.iteRuns ((hk.parityFault ..).next) hk.next
  · exact hk.next

/-! ## Messages of the pilot -/

theorem Keeps.msgDone : Keeps s₀ (msgDone s).1 := hk

theorem Keeps.msgWaits : Keeps s₀ (msgWaits s).1 := hk

theorem Keeps.answering {f : State → State} (hf : Keeps s₀ (f s)) : Keeps s₀ (answering s f).1 := by
  unfold Machine.answering
  split
  · exact hf
  · exact hk

theorem Keeps.failMsg (m : PMsg) (code : Nat) : Keeps s₀ (failMsg s m code).1 := hk.answering (hk.statusMsg ..)

theorem Keeps.setPoll (p : Option (Nat × Nat)) : Keeps s₀ (setPoll s p) := hk.lift (setPoll_pending ..) fun hs => hs.setPoll ..

theorem Keeps.pollWords (m : PMsg) (i since : Nat) (l : List Word) : Keeps s₀ (pollWords s m i since l).1 := by
  induction l generalizing s i since with
  | nil => exact (hk.setPoll _).msgDone
  | cons w r ih =>
    unfold Machine.pollWords
    split
    · exact ih (hk.regWrite ..) _ _
    split
    · exact (hk.setPoll _).msgWaits
    · exact ((hk.setPoll _).statusMsg ..).msgDone

theorem Keeps.putWords (m : PMsg) (i : Nat) (l : List Word) : Keeps s₀ (putWords s m i l) := by
  induction l generalizing s i with
  | nil => exact hk
  | cons w r ih => exact ih ((hk.applyDue _).regWrite ..) _

theorem Keeps.msgRegWrite (m : PMsg) : Keeps s₀ (msgRegWrite s m).1 := by
  unfold Machine.msgRegWrite
  extract_lets _ _
  split
  · exact hk.failMsg ..
  · split
    · exact hk.failMsg ..
    · split
      · exact hk.failMsg ..
      · split
        · exact hk.pollWords ..
        · exact (hk.putWords ..).msgDone

theorem Keeps.getWords (m : PMsg) (i n : Nat) : Keeps s₀ (getWords s m i n).1 := by
  induction n generalizing s i with
  | zero => exact hk
  | succ n ih => exact ih (hk.regRead ..) _

theorem Keeps.msgRegRead (m : PMsg) : Keeps s₀ (msgRegRead s m).1 := by
  unfold Machine.msgRegRead
  split
  · exact hk.failMsg ..
  split
  · exact hk.failMsg ..
  split
  · exact hk.failMsg ..
  · exact hk.answering ((hk.getWords ..).reply ..)

theorem Keeps.countPilot (a : Nat) : Keeps s₀ (countPilot s a) := by
  unfold Machine.countPilot
  split
  · exact hk.countLocal ..
  · exact hk

theorem Keeps.dredgeFor (a : Nat) : Keeps s₀ (dredgeFor s a) := by
  unfold Machine.dredgeFor
  split
  · exact hk.ite ((hk.dredge ..).cntAdd ..)
  · exact hk

theorem Keeps.guestWrite (m : PMsg) (a : Nat) (b : List Byte) : Keeps s₀ (guestWrite s m a b) := by
  unfold Machine.guestWrite
  extract_lets _ s2 _ _
  have hs2 : Keeps s₀ s2 := hk.same
  exact (hs2.same.guestRelay ..).ite (hs2.pilotToGuest ..)

theorem Keeps.pilotWrite (m : PMsg) (a : Nat) (b : List Byte) : Keeps s₀ (pilotWrite s m a b) := by
  unfold Machine.pilotWrite
  extract_lets _ s2 put3 r4
  have hs2 : Keeps s₀ s2 := hk.countPilot ..
  have hr4 : Keeps s₀ r4.1 := (hs2.dredgeFor ..).readParcel ..
  split
  · exact hs2.guestWrite ..
  · split
    · dsimp only [put3]
      exact hs2.writeParcel ..
    · split
      · exact hs2.writeParcel ..
      · dsimp only [put3]
        exact hr4.writeParcel ..

theorem Keeps.pilotWrites (m : PMsg) (a : Nat) (b : List Byte) (n : Nat) : Keeps s₀ (pilotWrites s m a b n) := by
  induction n generalizing s a b with
  | zero => exact hk
  | succ n ih => exact (ih (hk.pilotWrite ..) _ _).ite hk

theorem Keeps.msgMemWrite (m : PMsg) : Keeps s₀ (msgMemWrite s m).1 := by
  unfold Machine.msgMemWrite
  dsimp only
  split
  · exact hk.failMsg ..
  split
  · exact hk.failMsg ..
  split
  · split
    · exact hk.answering ((hk.cntAdd ..).statusMsg ..)
    split
    · exact hk.msgWaits
    · exact (hk.pilotWrites ..).msgDone
  · exact hk.failMsg ..

theorem Keeps.pilotReads (a n : Nat) : Keeps s₀ (pilotReads s a n).1 := by
  induction n generalizing s a with
  | zero => exact hk
  | succ n ih => exact ih (((hk.countPilot _).readParcel ..).leaveHub ..) _

theorem Keeps.askGuest (m : PMsg) (n : Nat) : Keeps s₀ (askGuest s m n) := by
  unfold Machine.askGuest
  extract_lets _ r2 s3 _
  have hr2 : Keeps s₀ r2.1 := hk.newRead ..
  have hs3 : Keeps s₀ s3 := hr2
  exact hs3.same.toGuest ..

theorem Keeps.msgMemRead (m : PMsg) : Keeps s₀ (msgMemRead s m).1 := by
  unfold Machine.msgMemRead
  dsimp only
  split
  · exact hk.failMsg ..
  split
  · exact hk.failMsg ..
  split
  · exact hk.failMsg ..
  split
  · split
    · exact hk.msgWaits
    split
    · exact hk.answering (hk.askGuest ..)
    · exact hk.answering ((hk.pilotReads ..).memData ..)
  · exact hk.failMsg ..

theorem Keeps.msgTideWrite (m : PMsg) : Keeps s₀ (msgTideWrite s m).1 := by
  unfold Machine.msgTideWrite
  split
  · exact hk.failMsg ..
  · exact hk.answering ((hk.submit _).reply ..)

theorem Keeps.msgSpdm (m : PMsg) : Keeps s₀ (msgSpdm s m).1 := by
  unfold Machine.msgSpdm
  split
  · exact hk.failMsg ..
  · split
    · exact hk.failMsg ..
    · extract_lets _ _ s3
      have hs3 : Keeps s₀ s3 := hk.same
      split
      · split
        · exact (hs3.spdmAnswer ..).msgDone
        · exact hk.msgWaits
      · exact hs3.msgDone

theorem Keeps.msgOpen (m : PMsg) : Keeps s₀ (msgOpen s m).1 := by
  unfold Machine.msgOpen
  split
  · exact hk.failMsg ..
  · exact hk.answering (hk.reply ..)

theorem Keeps.runMsg (m : PMsg) : Keeps s₀ (runMsg s m).1 := by
  unfold Machine.runMsg
  split
  · exact hk.msgRegWrite ..
  · exact hk.msgRegRead ..
  · exact hk.msgMemWrite ..
  · exact hk.msgMemRead ..
  · exact hk.msgTideWrite ..
  · exact hk.msgSpdm ..
  · exact hk.msgOpen ..
  · exact hk.failMsg ..

theorem Keeps.setTodo (l : List PMsg) : Keeps s₀ (setTodo s l) := hk.lift (setTodo_pending ..) fun hs => hs.setTodo ..

theorem Keeps.runMsgs (kept l : List PMsg) : Keeps s₀ (runMsgs s kept l) := by
  induction l generalizing s kept with
  | nil => exact hk.setTodo _
  | cons m r ih =>
    unfold Machine.runMsgs
    split
    · exact hk.setTodo _
    split
    · exact ih hk _
    split
    · rename_i e; exact ih ((hk.runMsg m).fst e) _
    · rename_i e; exact ih ((hk.runMsg m).fst e) _

theorem Keeps.pump : Keeps s₀ (pump s) := (hk.ite hk.flushLate).runMsgs ..

theorem Keeps.takeMsg (m : PMsg) : Keeps s₀ (takeMsg s m) := hk.ite ((hk.setTodo ..).pump)

theorem Keeps.execRegWrite (tag : Word) (addr : Dword) (poll : Bool) (words : List Word) : Runs s₀ (execRegWrite tag addr poll words s) :=
  (hk.takeMsg ..).next

theorem Keeps.execRegRead (tag : Word) (addr : Dword) (count : Word) : Runs s₀ (execRegRead tag addr count s) := (hk.takeMsg ..).next

theorem Keeps.execMemWrite (tag : Word) (addr : Dword) (data : List Byte) : Runs s₀ (execMemWrite tag addr data s) := (hk.takeMsg ..).next

theorem Keeps.execMemRead (tag : Word) (addr : Dword) (count : Word) : Runs s₀ (execMemRead tag addr count s) := (hk.takeMsg ..).next

theorem Keeps.execTideWrite (tag : Word) (entry : BitVec 256) : Runs s₀ (execTideWrite tag entry s) := (hk.takeMsg ..).next

/-! ## The pilot engine -/

theorem Keeps.rxBadCount : Keeps s₀ (rxBadCount s) := hk.cntAdd ..

/-- The events may change where their list grows no longer than it may. -/
theorem Keeps.eventList {l : List Event} (hl : Inv s₀ → l.length ≤ maxEvents) : Keeps s₀ { s with events := l } :=
  ⟨hk.queue, fun h => (hk.inv h).withEvents (hl h)⟩

theorem Keeps.newSession : Keeps s₀ (newSession s) :=
  Keeps.same (hk.eventList (l := s.events.map fun e => { e with sent := false }) fun h =>
    List.length_map (as := s.events) _ ▸ ((inv_iff s).1 (hk.inv h)).events)

theorem Keeps.takePilotAck (ack : Word) : Keeps s₀ (takePilotAck s ack) := by
  unfold Machine.takePilotAck
  dsimp only
  split
  · exact hk
  split
  · exact hk
  · exact Keeps.same (hk.eventList (l := s.events.drop _) fun h =>
      (List.length_drop ▸ Nat.sub_le _ _).trans ((inv_iff s).1 (hk.inv h)).events)

theorem Keeps.acceptDgram (path : PilotPath) (d : Dgram) : Keeps s₀ (acceptDgram s path d) := by
  unfold Machine.acceptDgram
  extract_lets s1 _ s3 s4
  have hs1 : Keeps s₀ s1 := hk.cntAdd ..
  have hs3 : Keeps s₀ s3 := hs1.same
  have hs4 : Keeps s₀ s4 := hs3.pump
  exact hs4.ite hs4.pilotAck

theorem Keeps.deliver (path : PilotPath) (d : Dgram) : Keeps s₀ (deliver s path d) := by
  unfold Machine.deliver
  split
  · exact hk.newSession.acceptDgram ..
  · split
    · exact hk.rxBadCount
    · extract_lets s1
      have hs1 : Keeps s₀ s1 := hk.takePilotAck ..
      exact ((((hs1.pump.cntAdd ..).pilotAck).ite ((hs1.pump.cntAdd ..).pilotAck)).ite (hs1.acceptDgram ..)).ite ((Keeps.foldl
        (fun _ _ ht => ht.answerLate ..) _ hs1).pump)

theorem Keeps.relayDown (came : PilotPath) (d : Dgram) : Keeps s₀ (relayDown s came d) := by
  unfold Machine.relayDown
  extract_lets _ _
  split
  · split
    · rename_i t3 e3
      have ht3 := hk.same.toMember e3
      exact ht3.cntAdd ..
    · exact hk.noRoute
  · exact hk.noRoute

theorem Keeps.relayUp (came : PilotPath) (d : Dgram) : Keeps s₀ (relayUp s came d) := (hk.upward ..).ite (hk.toHost ..)

theorem Keeps.dispatch (came : PilotPath) (d : Dgram) : Keeps s₀ (dispatch s came d) :=
  ((hk.deliver ..).ite hk.rxBadCount).ite ((hk.relayDown ..).ite (hk.relayUp ..))

theorem Keeps.execPilotDatagram (port : Fin 2) (frame : EthFrame) (d : Dgram) : Runs s₀ (execPilotDatagram port frame d s) :=
  Keeps.iteRuns hk.next (Keeps.iteRuns hk.rxBadCount.next ((hk.dispatch ..).next))

theorem Keeps.execPilotRelay (port : Fin 2) (frame : EthFrame) (d : Dgram) : Runs s₀ (execPilotRelay port frame d s) :=
  Keeps.iteRuns hk.next (hk.execPilotDatagram ..)

theorem Keeps.execOpenSession (port : Fin 2) (frame : EthFrame) (seq tag : Word) : Runs s₀ (execOpenSession port frame seq tag s) :=
  Keeps.iteRuns hk.next (hk.execPilotDatagram ..)

theorem Keeps.execArpRequest (port : Fin 2) (ip : Word) : Runs s₀ (execArpRequest port ip s) :=
  Keeps.iteRuns hk.next (Keeps.iteRuns ((hk.emit ..).next) hk.rxBadCount.next)

theorem Keeps.execNeighborSolicitation (port : Fin 2) (ip : BitVec 128) : Runs s₀ (execNeighborSolicitation port ip s) :=
  Keeps.iteRuns hk.next (Keeps.iteRuns ((hk.emit ..).next) hk.rxBadCount.next)

theorem Keeps.execPtpEventMessage (port : Fin 2) (transmitted : Bool) (domain : Byte) (sequenceId : BitVec 16) :
    Runs s₀ (execPtpEventMessage port transmitted domain sequenceId s) :=
  Keeps.iteRuns hk.next ((hk.takeFree.logCapture ..).same.next)

theorem Keeps.asmSet (src : Nat) (x : Option PilotAsm) : Keeps s₀ (asmSet s src x) := hk.lift (asmSet_pending ..) fun hs => hs.asmSet ..

theorem Keeps.asmDrop (src : Nat) : Keeps s₀ (asmDrop s src) := hk.ite ((hk.asmSet ..).rxBadCount)

theorem Keeps.asmDone (src total : Nat) (b : List Byte) : Keeps s₀ (asmDone s src total b) := by
  unfold Machine.asmDone
  split
  · exact hk.rxBadCount
  · split
    · exact hk.rxBadCount.ite (hk.dispatch ..)
    · exact hk.rxBadCount

theorem Keeps.segment (src : Nat) (x : PilotAsm) (last : Bool) (b : List Byte) : Keeps s₀ (segment s src x last b) :=
  (hk.asmSet ..).ite ((hk.asmSet ..).asmDone ..)

theorem Keeps.takeSegment (p : QPar) : Keeps s₀ (takeSegment s p) := by
  unfold Machine.takeSegment
  extract_lets _ _ _ _ _ s6
  have hs6 : Keeps s₀ s6 := hk.asmDrop ..
  split
  · exact (hs6.segment ..).ite hs6.rxBadCount
  · split
    · exact hk
    · exact (hk.asmDrop ..).ite (hk.segment ..)

theorem Keeps.execPilot (l : LinkId) (h : Hdr) (payload : Parcel) (check : Word) : Runs s₀ (execPilot l h payload check s) := by
  unfold Machine.execPilot
  split
  · rename_i t1 e1
    have ht1 := (hk.receiveLink ..).fst e1
    exact ht1.next
  · rename_i t2 _ e2
    have ht2 := (hk.receiveLink ..).fst e2
    split
    · exact (ht2.acceptPar ..).next
    · extract_lets s3
      have hs3 : Keeps s₀ s3 := ht2.freeUnit ..
      exact (hs3.ite (hs3.takeSegment ..)).next

theorem Keeps.execPilotAckSend : Runs s₀ (execPilotAckSend s) := (hk.ite hk.pilotAck).next

theorem Keeps.execPilotRetransmit : Runs s₀ (execPilotRetransmit s) :=
  Keeps.iteRuns hk.next ((Keeps.foldl (fun _ _ ht => ht.sendOut ..) _ (hk.same.cntAdd ..)).next)

omit hk in
theorem markFirstSent_length (l : List Event) : (markFirstSent l).length = l.length := by
  induction l with
  | nil => rfl
  | cons e r ih =>
    unfold markFirstSent
    split
    · simp only [List.length_cons, ih]
    · rfl

theorem Keeps.execEventSend : Runs s₀ (execEventSend s) := by
  refine Keeps.iteRuns hk.next ?_
  split
  · exact hk.next
  · rename_i e _
    have h1 : Keeps s₀ (if e.told then s else Machine.cntAdd s (blkPL.reg 0x070) 1) := Keeps.ite (hk.cntAdd ..) hk
    exact ((h1.eventList fun h => (markFirstSent_length _).symm ▸ ((inv_iff _).1 (h1.inv h)).events).pilotSend _).next

theorem Keeps.setPort (p : Fin 2) (up : Bool) : Keeps s₀ (setPort s p up) := hk.same

theorem Keeps.execEthernetLinkDown (port : Fin 2) : Runs s₀ (execEthernetLinkDown port s) := (hk.setPort ..).next

theorem Keeps.execEthernetLinkUp (port : Fin 2) : Runs s₀ (execEthernetLinkUp port s) := (hk.ite (hk.setPort ..)).next

/-! ## Scalar instructions -/

theorem Keeps.intOp (c : CoreId) (i : Instr) (d : Reg) (f : CoreSt → Dword) : Runs s₀ (intOp c i d f s) := (hk.slotPure ..).next

theorem Keeps.execNop (c : CoreId) (slot : Fin 2) : Runs s₀ (execNop c slot s) := (hk.slotPure ..).next

theorem Keeps.execAdd (c : CoreId) (d a b : Reg) : Runs s₀ (execAdd c d a b s) := hk.intOp ..

theorem Keeps.execSub (c : CoreId) (d a b : Reg) : Runs s₀ (execSub c d a b s) := hk.intOp ..

theorem Keeps.execAnd (c : CoreId) (d a b : Reg) : Runs s₀ (execAnd c d a b s) := hk.intOp ..

theorem Keeps.execOr (c : CoreId) (d a b : Reg) : Runs s₀ (execOr c d a b s) := hk.intOp ..

theorem Keeps.execXor (c : CoreId) (d a b : Reg) : Runs s₀ (execXor c d a b s) := hk.intOp ..

theorem Keeps.execShl (c : CoreId) (d a b : Reg) : Runs s₀ (execShl c d a b s) := hk.intOp ..

theorem Keeps.execShr (c : CoreId) (d a b : Reg) : Runs s₀ (execShr c d a b s) := hk.intOp ..

theorem Keeps.execSar (c : CoreId) (d a b : Reg) : Runs s₀ (execSar c d a b s) := hk.intOp ..

theorem Keeps.execMul (c : CoreId) (d a b : Reg) : Runs s₀ (execMul c d a b s) := hk.intOp ..

theorem Keeps.execCmpeq (c : CoreId) (d a b : Reg) : Runs s₀ (execCmpeq c d a b s) := hk.intOp ..

theorem Keeps.execCmplt (c : CoreId) (d a b : Reg) : Runs s₀ (execCmplt c d a b s) := hk.intOp ..

theorem Keeps.execCmpltu (c : CoreId) (d a b : Reg) : Runs s₀ (execCmpltu c d a b s) := hk.intOp ..

theorem Keeps.execAddi (c : CoreId) (d a : Reg) (imm : Word) : Runs s₀ (execAddi c d a imm s) := hk.intOp ..

theorem Keeps.execAndi (c : CoreId) (d a : Reg) (imm : Word) : Runs s₀ (execAndi c d a imm s) := hk.intOp ..

theorem Keeps.execOri (c : CoreId) (d a : Reg) (imm : Word) : Runs s₀ (execOri c d a imm s) := hk.intOp ..

theorem Keeps.execXori (c : CoreId) (d a : Reg) (imm : Word) : Runs s₀ (execXori c d a imm s) := hk.intOp ..

theorem Keeps.execShli (c : CoreId) (d a : Reg) (imm : Word) : Runs s₀ (execShli c d a imm s) := hk.intOp ..

theorem Keeps.execShri (c : CoreId) (d a : Reg) (imm : Word) : Runs s₀ (execShri c d a imm s) := hk.intOp ..

theorem Keeps.execSari (c : CoreId) (d a : Reg) (imm : Word) : Runs s₀ (execSari c d a imm s) := hk.intOp ..

theorem Keeps.execInsh (c : CoreId) (d a : Reg) (imm : Word) : Runs s₀ (execInsh c d a imm s) := hk.intOp ..

theorem Keeps.execCmpeqi (c : CoreId) (d a : Reg) (imm : Word) : Runs s₀ (execCmpeqi c d a imm s) := hk.intOp ..

theorem Keeps.execCmplti (c : CoreId) (d a : Reg) (imm : Word) : Runs s₀ (execCmplti c d a imm s) := hk.intOp ..

theorem Keeps.fpOp (c : CoreId) (i : Instr) (d : Reg) (f : CoreSt → FV) (fin : CoreSt → Bool) : Runs s₀ (fpOp c i d f fin s) :=
  (hk.slotPure ..).next

theorem Keeps.execFadd (c : CoreId) (d a b : Reg) : Runs s₀ (execFadd c d a b s) := hk.fpOp ..

theorem Keeps.execFsub (c : CoreId) (d a b : Reg) : Runs s₀ (execFsub c d a b s) := hk.fpOp ..

theorem Keeps.execFmul (c : CoreId) (d a b : Reg) : Runs s₀ (execFmul c d a b s) := hk.fpOp ..

theorem Keeps.execFma (c : CoreId) (d a b : Reg) : Runs s₀ (execFma c d a b s) := hk.fpOp ..

theorem Keeps.execFmin (c : CoreId) (d a b : Reg) : Runs s₀ (execFmin c d a b s) := hk.fpOp ..

theorem Keeps.execFmax (c : CoreId) (d a b : Reg) : Runs s₀ (execFmax c d a b s) := hk.fpOp ..

theorem Keeps.execFcmplt (c : CoreId) (d a b : Reg) : Runs s₀ (execFcmplt c d a b s) := hk.intOp ..

theorem Keeps.execIcvtf (c : CoreId) (d a : Reg) : Runs s₀ (execIcvtf c d a s) := hk.fpOp ..

theorem Keeps.execFcvti (c : CoreId) (d a : Reg) : Runs s₀ (execFcvti c d a s) := (hk.slotPure ..).next

/-! ## Boundary scan -/

theorem Keeps.jtagSet {x : JtagSt} (hx : Inv s₀ → tsorted x.ir = true ∧ tsorted x.cells = true ∧ tsorted x.results = true) :
    Keeps s₀ { s with jtag := x } := ⟨hk.queue, fun h => (hk.inv h).withJtag (hx h)⟩

theorem Keeps.loadIr (die code capture : Nat) : Keeps s₀ (loadIr s die code capture) := hk.jtagSet fun h => by
  obtain ⟨h1, h2⟩ := ((inv_iff s).1 (hk.inv h)).jtag
  exact ⟨tsorted_tset _ _ _ h1, h2⟩

theorem Keeps.shiftOut (die : Nat) (v : BitVec 68) : Keeps s₀ (shiftOut s die v) := hk.emit ..

theorem Keeps.scanQuiet (die code : Nat) {f : State → State} (hf : ∀ t, Keeps s₀ t → Keeps s₀ (f t)) : Runs s₀ (scanQuiet s die code f) :=
  Keeps.iteRuns (hf _ (hk.loadIr ..)).next hk.next

theorem Keeps.intrusive (die code : Nat) {f : State → State} (hf : ∀ t, Keeps s₀ t → Keeps s₀ (f t)) : Runs s₀ (intrusive s die code f) :=
  Keeps.iteRuns hk.next (Keeps.iteRuns (hk.loadIr ..).next (hf _ (Keeps.loadIr hk.same ..)).next)

theorem Keeps.execIdcode (die : Fin 35) : Runs s₀ (execIdcode die s) := hk.scanQuiet _ _ fun _ ht => ht.shiftOut ..

theorem Keeps.execSamplePreload (die : Fin 35) (cells : Dword) : Runs s₀ (execSamplePreload die cells s) :=
  hk.scanQuiet _ _ fun t ht => by
    have h1 := ht.takeFree.shiftOut die.val (BitVec.ofNat 68 t.free)
    refine h1.jtagSet fun h => ?_
    obtain ⟨hi, hc, hr⟩ := ((inv_iff _).1 (h1.inv h)).jtag
    exact ⟨hi, tsorted_tset _ _ _ hc, hr⟩

theorem Keeps.execExtest (die : Fin 35) : Runs s₀ (execExtest die s) := hk.intrusive _ _ fun _ ht => ht

theorem Keeps.execClamp (die : Fin 35) : Runs s₀ (execClamp die s) := hk.intrusive _ _ fun _ ht => ht

theorem Keeps.execHighz (die : Fin 35) : Runs s₀ (execHighz die s) := hk.intrusive _ _ fun _ ht => ht

theorem Keeps.execD2dTest (die : Fin 35) (failing : BitVec 68) : Runs s₀ (execD2dTest die failing s) :=
  hk.intrusive _ _ fun t ht => ht.jtagSet fun h => by
    obtain ⟨hi, hc, hr⟩ := ((inv_iff t).1 (ht.inv h)).jtag
    exact ⟨hi, hc, tsorted_tset _ _ _ hr⟩

theorem Keeps.execD2dResult (die : Fin 35) : Runs s₀ (execD2dResult die s) := hk.scanQuiet _ _ fun _ ht => ht.shiftOut ..

theorem Keeps.execBypass (die : Fin 35) : Runs s₀ (execBypass die s) := hk.scanQuiet _ _ fun _ ht => ht

theorem Keeps.execTestLogicReset : Runs s₀ (execTestLogicReset s) := by
  have h1 : Keeps s₀ { s with jtag := { s.jtag with ir := [] } } := hk.jtagSet fun h => ⟨rfl, ((inv_iff s).1 (hk.inv h)).jtag.2⟩
  exact (h1.ite (h1.hubResets _)).next

theorem Keeps.execSetdasa (static dynamic : BitVec 7) : Runs s₀ (execSetdasa static dynamic s) := (hk.ite hk.same).next

theorem Keeps.execEntdaa (dynamic : BitVec 7) : Runs s₀ (execEntdaa dynamic s) := (hk.ite hk.same).next

/-! ## Tugs -/

theorem Keeps.wakePosters (t : TugId) : Keeps s₀ (wakePosters s t) := hk.coreMap fun _ k hc => by
  split
  · exact hc
  · exact hc

theorem Keeps.execTugChainFetch (t : TugId) : Runs s₀ (execTugChainFetch t s) := by
  unfold Machine.execTugChainFetch
  split
  · exact hk.next
  · exact Keeps.iteRuns (Keeps.iteRuns ((hk.toPend ..).next) ((((hk.toPend ..).fetchDesc ..).tugMod ..).next)) hk.next

theorem Keeps.execTugDescriptorStart (t : TugId) : Runs s₀ (execTugDescriptorStart t s) := by
  unfold Machine.execTugDescriptorStart
  split
  · exact hk.next
  · exact Keeps.iteRuns hk.next (Keeps.iteRuns (((hk.tugMod ..).tugFault ..).next) (Keeps.iteRuns (((hk.watchSet ..).ite hk).next)
      ((((hk.watchSet ..).readsDone ..).pumpRuns ..).next)))

theorem Keeps.lookSides (key : Nat) (x : TugSlot) (l : List Side) : Keeps s₀ (lookSides s key x l).1 := by
  induction l generalizing s x with
  | nil => exact hk
  | cons y r ih =>
    have h1 : Keeps s₀ (Machine.lookup s key x.set y).1 := hk.lookup ..
    unfold Machine.lookSides
    generalize (if y.dst = true then x.dst else x.src) = side
    split
    · exact ih hk _
    split
    · rename_i e; exact ih (h1.fst e) _
    · rename_i e; exact h1.fst e

theorem Keeps.execTugRunTranslate (t : TugId) : Runs s₀ (execTugRunTranslate t s) := by
  unfold Machine.execTugRunTranslate
  split
  · exact hk.next
  · split
    · extract_lets r1
      have hr1 : Keeps s₀ r1.1 := hk.lookSides ..
      exact Keeps.iteRuns ((hr1.setHead ..).next) ((hr1.runGo ..).next)
    · exact hk.next

theorem Keeps.execTranslationMissFetch (t : TugId) : Runs s₀ (execTranslationMissFetch t s) := by
  unfold Machine.execTranslationMissFetch
  split
  · exact hk.next
  · split
    · exact hk.next
    · split
      · extract_lets _ s2 _ _ s5 _ _ _
        have hs2 : Keeps s₀ s2 := hk.cntAdd ..
        have hs5 : Keeps s₀ s5 := hs2.pierSet ..
        exact ((hs5.setHead ..).ite (hs5.runGo ..)).next
      · exact hk.next

theorem Keeps.execTugDone (t : TugId) : Runs s₀ (execTugDone t s) := by
  unfold Machine.execTugDone
  extract_lets _
  split
  · exact hk.next
  · split
    · exact hk.next
    · extract_lets s2 s3 _ s5
      have hs2 : Keeps s₀ s2 := (hk.tugMod ..).finishPart ..
      have hs3 : Keeps s₀ s3 := hs2.cntAdd ..
      have hs5 : Keeps s₀ s5 := hs3.ite (hs3.bollSignal ..)
      exact (hs5.ite (hs5.wakePosters ..)).next

/-! ## The tick -/

theorem Keeps.retryWaiting : Keeps s₀ (retryWaiting s) := by
  unfold Machine.retryWaiting
  extract_lets s1 s2 s3 s4 s5
  have hs1 : Keeps s₀ s1 := hk.ite hk.freeHeld
  have hs2 : Keeps s₀ s2 := hs1.deliverHeld.ite hs1
  have hs3 : Keeps s₀ s3 := hs2.flushOutbound.ite hs2
  have hs4 : Keeps s₀ s4 := (hs3.retryGuest.ite hs3).grantCredit
  have hs5 : Keeps s₀ s5 := hs4.pump.ite hs4
  exact hs5.securityPump

theorem Keeps.clocks (t : TideSt) (l : SlackSt) : Keeps s₀ { s with tide := t, slack := l } := hk.same

theorem Keeps.tick : Keeps s₀ (tick s) := by
  have h0 : Keeps s₀ { Machine.recordLosses s with now := s.now + 1 } := hk.recordLosses.same
  unfold Machine.tick
  dsimp only
  generalize ht : Machine.applyDue _ _ = t
  have h2 : Keeps s₀ t := ht ▸ h0.tickFeeds.finishParts.tickIdle.takeTugHits.endHalts.stopEnding.applyDue _
  split
  · exact h2
  · have h3 := (h2.tickLinks.clocks (tickTide t) (tickSlack t)).fireDies
    exact (h3.ite h3.noteLate).tickReadings.retryWaiting

end

end Sys2Proof.Machine
end

section
/-! What is kept: every command. -/

namespace Sys2Proof.Machine
set_option Elab.async false

section
variable {s₀ s : State} (hk : Keeps s₀ s)
include hk

/-- Every command runs: it answers a next state, with the queue as it was, in which the invariant holds if it held before. -/
theorem Keeps.exec (c : Instr) : Runs s₀ (exec c s) := by
  cases c with
  | instructionFetch => exact hk.execInstructionFetch ..
  | nop => exact hk.execNop ..
  | add => exact hk.execAdd ..
  | sub => exact hk.execSub ..
  | and => exact hk.execAnd ..
  | or => exact hk.execOr ..
  | xor => exact hk.execXor ..
  | shl => exact hk.execShl ..
  | shr => exact hk.execShr ..
  | sar => exact hk.execSar ..
  | mul => exact hk.execMul ..
  | cmpeq => exact hk.execCmpeq ..
  | cmplt => exact hk.execCmplt ..
  | cmpltu => exact hk.execCmpltu ..
  | addi => exact hk.execAddi ..
  | andi => exact hk.execAndi ..
  | ori => exact hk.execOri ..
  | xori => exact hk.execXori ..
  | shli => exact hk.execShli ..
  | shri => exact hk.execShri ..
  | sari => exact hk.execSari ..
  | insh => exact hk.execInsh ..
  | cmpeqi => exact hk.execCmpeqi ..
  | cmplti => exact hk.execCmplti ..
  | fadd => exact hk.execFadd ..
  | fsub => exact hk.execFsub ..
  | fmul => exact hk.execFmul ..
  | fma => exact hk.execFma ..
  | fmin => exact hk.execFmin ..
  | fmax => exact hk.execFmax ..
  | fcmplt => exact hk.execFcmplt ..
  | icvtf => exact hk.execIcvtf ..
  | fcvti => exact hk.execFcvti ..
  | beq => exact hk.execBeq ..
  | bne => exact hk.execBne ..
  | blt => exact hk.execBlt ..
  | bltu => exact hk.execBltu ..
  | jmp => exact hk.execJmp ..
  | jal => exact hk.execJal ..
  | jr => exact hk.execJr ..
  | endVoyage => exact hk.execEndVoyage ..
  | endRetire => exact hk.execEndRetire ..
  | tide => exact hk.execTide ..
  | csrr => exact hk.execCsrr ..
  | ld => exact hk.execLd ..
  | lw => exact hk.execLw ..
  | sd => exact hk.execSd ..
  | sw => exact hk.execSw ..
  | bsig => exact hk.execBsig ..
  | bwait => exact hk.execBwait ..
  | bread => exact hk.execBread ..
  | tugp => exact hk.execTugp ..
  | vld => exact hk.execVld ..
  | vst => exact hk.execVst ..
  | vbcast => exact hk.execVbcast ..
  | vmovs => exact hk.execVmovs ..
  | vmov => exact hk.execVmov ..
  | vshuf => exact hk.execVshuf ..
  | vadd => exact hk.execVadd ..
  | vsub => exact hk.execVsub ..
  | vmul => exact hk.execVmul ..
  | vfma => exact hk.execVfma ..
  | vmin => exact hk.execVmin ..
  | vmax => exact hk.execVmax ..
  | vscl => exact hk.execVscl ..
  | vrcp => exact hk.execVrcp ..
  | vrsq => exact hk.execVrsq ..
  | vexp2 => exact hk.execVexp2 ..
  | vlog2 => exact hk.execVlog2 ..
  | vtanh => exact hk.execVtanh ..
  | vrsum => exact hk.execVrsum ..
  | vrmax => exact hk.execVrmax ..
  | vargmax => exact hk.execVargmax ..
  | vcvt => exact hk.execVcvt ..
  | vpk4 => exact hk.execVpk4 ..
  | vup4 => exact hk.execVup4 ..
  | wld => exact hk.execWld ..
  | weightLoadStart => exact hk.execWeightLoadStart ..
  | mma => exact hk.execMma ..
  | arrayPassStart => exact hk.execArrayPassStart ..
  | accumulatorComplete => exact hk.execAccumulatorComplete ..
  | amov => exact hk.execAmov ..
  | vamov => exact hk.execVamov ..
  | coreWatchdog => exact hk.execCoreWatchdog ..
  | voyageFaultEnd => exact hk.execVoyageFaultEnd ..
  | selfTestSlice => exact hk.execSelfTestSlice ..
  | tugChainFetch => exact hk.execTugChainFetch ..
  | tugDescriptorStart => exact hk.execTugDescriptorStart ..
  | tugRunTranslate => exact hk.execTugRunTranslate ..
  | translationMissFetch => exact hk.execTranslationMissFetch ..
  | tugDone => exact hk.execTugDone ..
  | armLaunch => exact hk.execArmLaunch
  | launchFire => exact hk.execLaunchFire ..
  | loadStepForecast => exact hk.execLoadStepForecast ..
  | voyageComplete => exact hk.execVoyageComplete ..
  | tdCancel => exact hk.execTdCancel ..
  | beaconCheckMark => exact hk.execBeaconCheckMark ..
  | tideBeaconLost => exact hk.execTideBeaconLost ..
  | timeExchangeRequest => exact hk.execTimeExchangeRequest
  | timeParcelReceive => exact hk.execTimeParcelReceive ..
  | tideHoldover => exact hk.execTideHoldover
  | holdoverLong => exact hk.execHoldoverLong
  | tideMarkOutput => exact hk.execTideMarkOutput
  | tideMarkInput => exact hk.execTideMarkInput
  | bollardRelease => exact hk.execBollardRelease ..
  | blHostAdd => exact hk.execBlHostAdd ..
  | blValue => exact hk.execBlValue ..
  | slackWindow => exact hk.execSlackWindow
  | forcedSlack => exact hk.execForcedSlack
  | forcedSlackEnd => exact hk.execForcedSlackEnd
  | hbmTempSample => exact hk.execHbmTempSample ..
  | hbmRead => exact hk.execHbmRead ..
  | hbmWrite => exact hk.execHbmWrite ..
  | dredgeRegion => exact hk.execDredgeRegion ..
  | scrubRead => exact hk.execScrubRead ..
  | ceSampleRecord => exact hk.execCeSampleRecord ..
  | btCommit => exact hk.execBtCommit ..
  | btSweep => exact hk.execBtSweep ..
  | berthInvalidate => exact hk.execBerthInvalidate ..
  | elConsume => exact hk.execElConsume ..
  | retirePage => exact hk.execRetirePage ..
  | retireClear => exact hk.execRetireClear ..
  | scSpareReq => exact hk.execScSpareReq ..
  | mcFlip => exact hk.execMcFlip ..
  | scSramFlip => exact hk.execScSramFlip ..
  | stop => exact hk.execStop ..
  | stopDone => exact hk.execStopDone
  | load => exact hk.execLoad ..
  | loadVerifyDone => exact hk.execLoadVerifyDone
  | loadDistributionDone => exact hk.execLoadDistributionDone
  | loadFailed => exact hk.execLoadFailed ..
  | run => exact hk.execRun ..
  | hmCmdInvalid => exact hk.execHmCmdInvalid ..
  | laneFatal => exact hk.execLaneFatal ..
  | laneReberthed => exact hk.execLaneReberthed ..
  | reberthTimeout => exact hk.execReberthTimeout ..
  | notice l lane reason expect round => exact hk.execNotice l lane reason expect round
  | mark l action lane epoch round width => exact hk.execMark l action lane epoch round width
  | retireNoticeRepeat => exact hk.execRetireNoticeRepeat ..
  | replayRequestResend => exact hk.execReplayRequestResend ..
  | ca => exact hk.execCa ..
  | parcelSend => exact hk.execParcelSend ..
  | write => exact hk.execWrite ..
  | readReq => exact hk.execReadReq ..
  | readData => exact hk.execReadData ..
  | resp => exact hk.execResp ..
  | bollard => exact hk.execBollard ..
  | ackTimeout => exact hk.execAckTimeout ..
  | hello => exact hk.execHello ..
  | widthReq => exact hk.execWidthReq ..
  | retrainReq => exact hk.execRetrainReq ..
  | accept => exact hk.execAccept ..
  | refuse => exact hk.execRefuse ..
  | laneOut => exact hk.execLaneOut ..
  | qlWidthReq => exact hk.execQlWidthReq ..
  | qlRetrain => exact hk.execQlRetrain ..
  | retrainDone => exact hk.execRetrainDone ..
  | qlScuttle => exact hk.execQlScuttle ..
  | linkSilentTimeout => exact hk.execLinkSilentTimeout ..
  | linkTrainRetry => exact hk.execLinkTrainRetry ..
  | pairReroute => exact hk.execPairReroute ..
  | pairReturn => exact hk.execPairReturn ..
  | clockMonitorReset => exact hk.execClockMonitorReset ..
  | diePresenceTimeout => exact hk.execDiePresenceTimeout ..
  | dieLost => exact hk.execDieLost ..
  | dieResetRelease => exact hk.execDieResetRelease ..
  | dieRejoinUp => exact hk.execDieRejoinUp ..
  | quarantine => exact hk.execQuarantine ..
  | release => exact hk.execRelease ..
  | hmDieCmdInvalid => exact hk.execHmDieCmdInvalid ..
  | guestParcelIn => exact hk.execGuestParcelIn ..
  | gfQuarSet => exact hk.execGfQuarSet ..
  | gfQuarClr => exact hk.execGfQuarClr ..
  | guestPortDown => exact hk.execGuestPortDown
  | guestPortUp => exact hk.execGuestPortUp ..
  | receivePlaceSteer => exact hk.execReceivePlaceSteer ..
  | placeMove => exact hk.execPlaceMove ..
  | placeMoveDone => exact hk.execPlaceMoveDone ..
  | oeHomeTest => exact hk.execOeHomeTest ..
  | ringSweepDone => exact hk.execRingSweepDone ..
  | ringSweepRetry => exact hk.execRingSweepRetry ..
  | ringAcquired => exact hk.execRingAcquired ..
  | ringIdentityCheck => exact hk.execRingIdentityCheck ..
  | ringPeriodicCheck => exact hk.execRingPeriodicCheck ..
  | ringUnlock => exact hk.execRingUnlock ..
  | ringLightLoss => exact hk.execRingLightLoss ..
  | ringLightReturn => exact hk.execRingLightReturn ..
  | ringDarkTimeout => exact hk.execRingDarkTimeout ..
  | forecastReceive => exact hk.execForecastReceive ..
  | oeWbCmd => exact hk.execOeWbCmd ..
  | weightBankReadingDone => exact hk.execWeightBankReadingDone ..
  | oeLockerrMax => exact hk.execOeLockerrMax ..
  | standbyDiverge => exact hk.execStandbyDiverge ..
  | laserBiasThreshold => exact hk.execLaserBiasThreshold ..
  | lsSwCmd => exact hk.execLsSwCmd ..
  | scheduledSwitchover => exact hk.execScheduledSwitchover ..
  | switchoverForced => exact hk.execSwitchoverForced ..
  | unscheduledSwitchover => exact hk.execUnscheduledSwitchover ..
  | calibrationStep => exact hk.execCalibrationStep
  | rxPowerLow => exact hk.execRxPowerLow ..
  | calRecordWrite => exact hk.execCalRecordWrite ..
  | arpRequest => exact hk.execArpRequest ..
  | neighborSolicitation => exact hk.execNeighborSolicitation ..
  | ptpEventMessage => exact hk.execPtpEventMessage ..
  | pilotDatagram => exact hk.execPilotDatagram ..
  | pilotRelay => exact hk.execPilotRelay ..
  | pilot => exact hk.execPilot ..
  | openSession => exact hk.execOpenSession ..
  | regWrite => exact hk.execRegWrite ..
  | regRead => exact hk.execRegRead ..
  | memWrite => exact hk.execMemWrite ..
  | memRead => exact hk.execMemRead ..
  | tideWrite => exact hk.execTideWrite ..
  | pilotAckSend => exact hk.execPilotAckSend
  | pilotRetransmit => exact hk.execPilotRetransmit
  | eventSend => exact hk.execEventSend
  | plTideSlew => exact hk.execPlTideSlew ..
  | slewComplete => exact hk.execSlewComplete
  | heartbeatPathLost => exact hk.execHeartbeatPathLost ..
  | heartbeatPathRestored => exact hk.execHeartbeatPathRestored ..
  | partnerFailed => exact hk.execPartnerFailed ..
  | halfDivergence => exact hk.execHalfDivergence ..
  | resyncDone => exact hk.execResyncDone ..
  | hmSwCmd => exact hk.execHmSwCmd ..
  | beaconSwitchover => exact hk.execBeaconSwitchover
  | feedTransfer => exact hk.execFeedTransfer ..
  | feedReturn => exact hk.execFeedReturn ..
  | feedBFault => exact hk.execFeedBFault ..
  | brownOut => exact hk.execBrownOut
  | vcoreDroop => exact hk.execVcoreDroop ..
  | railOutOfTolerance => exact hk.execRailOutOfTolerance ..
  | converterFault => exact hk.execConverterFault ..
  | regulatorForecastBoost => exact hk.execRegulatorForecastBoost ..
  | regulatorForecastEnd => exact hk.execRegulatorForecastEnd ..
  | guestPowerCut => exact hk.execGuestPowerCut ..
  | pwGuestOn => exact hk.execPwGuestOn ..
  | powerSample => exact hk.execPowerSample ..
  | thermalSample => exact hk.execThermalSample ..
  | thermalTrip => exact hk.execThermalTrip ..
  | thermalRestart => exact hk.execThermalRestart
  | pwLatchClr => exact hk.execPwLatchClr ..
  | powerOn => exact hk.execPowerOn ..
  | hubReset => exact hk.execHubReset
  | resetN => exact hk.execResetN ..
  | referenceLost => exact hk.execReferenceLost ..
  | startUp => exact hk.execStartUp ..
  | startupTimeout => exact hk.execStartupTimeout
  | v1p8Retry => exact hk.execV1p8Retry
  | recoveryImage => exact hk.execRecoveryImage ..
  | sbSvnCommit => exact hk.execSbSvnCommit ..
  | sbWdog => exact hk.execSbWdog ..
  | watchdogExpiry => exact hk.execWatchdogExpiry
  | enrol => exact hk.execEnrol ..
  | revoke => exact hk.execRevoke ..
  | decommission => exact hk.execDecommission ..
  | sbInstCmd => exact hk.execSbInstCmd ..
  | lmsTreeBuildDone => exact hk.execLmsTreeBuildDone
  | getVersion => exact hk.execGetVersion ..
  | getCapabilities => exact hk.execGetCapabilities ..
  | negotiateAlgorithms => exact hk.execNegotiateAlgorithms ..
  | getDigests => exact hk.execGetDigests ..
  | getCertificate => exact hk.execGetCertificate ..
  | challenge => exact hk.execChallenge ..
  | getMeasurements => exact hk.execGetMeasurements ..
  | chunkGet => exact hk.execChunkGet ..
  | getLmsSig => exact hk.execGetLmsSig ..
  | getLmsChain => exact hk.execGetLmsChain ..
  | setdasa => exact hk.execSetdasa ..
  | entdaa => exact hk.execEntdaa ..
  | blockEnable => exact hk.execBlockEnable ..
  | blockDisable => exact hk.execBlockDisable ..
  | registerWrite => exact hk.execRegisterWrite ..
  | configParityFault => exact hk.execConfigParityFault ..
  | idcode => exact hk.execIdcode ..
  | samplePreload => exact hk.execSamplePreload ..
  | extest => exact hk.execExtest ..
  | clamp => exact hk.execClamp ..
  | highz => exact hk.execHighz ..
  | d2dTest => exact hk.execD2dTest ..
  | d2dResult => exact hk.execD2dResult ..
  | bypass => exact hk.execBypass ..
  | testLogicReset => exact hk.execTestLogicReset
  | ethernetLinkDown => exact hk.execEthernetLinkDown ..
  | ethernetLinkUp => exact hk.execEthernetLinkUp ..
  | droopRecovered => exact hk.execDroopRecovered ..
  | feedBRestored => exact hk.execFeedBRestored ..
  | failedHalfRestart => exact hk.execFailedHalfRestart ..

end

theorem Runs.keeps {s₀ t : State} {o : Result} (h : Runs s₀ o) (e : o = .next t) : Keeps s₀ t := by
  obtain ⟨u, rfl, hu⟩ := h
  cases e
  exact hu

/-- The queue is no part of the invariant. -/
theorem Inv.withPending {s : State} (h : Inv s) (l : List Instr) : Inv { s with pending := l } := (inv_iff _).2 { (inv_iff s).1 h with }

end Sys2Proof.Machine
end

section
/-! The machine as a whole. -/

namespace Sys2Proof.Claims

open Sys2Proof Sys2Proof.Machine

/-- Settles O1: `step` is defined so. -/
theorem stepRunsTheFrontCommand : Obligations.StepRunsTheFrontCommand := fun _ _ _ => rfl

/-- Settles O2, command by command. -/
theorem everyCommandRuns : Obligations.EveryCommandRuns := by
  intro c s
  obtain ⟨t, ht, -⟩ := (Keeps.refl s).exec c
  exact ⟨t, ht⟩

/-- Settles O3, command by command. -/
theorem commandsLeaveTheQueue : Obligations.CommandsLeaveTheQueue := fun c s _ ht => (((Keeps.refl s).exec c).keeps ht).queue

/-- Settles O4: at reset every table that the invariant speaks of is empty. -/
theorem resetIsInvariant : Obligations.ResetIsInvariant := reset_inv

/-- Settles O5: a step is a tick or a command, and each keeps the invariant. -/
theorem stepKeepsInvariant : Obligations.StepKeepsInvariant := by
  intro s t hs ht
  unfold step at ht
  split at ht
  · cases ht
    exact (Keeps.refl s).tick.inv hs
  · rename_i c rest _
    exact (((Keeps.refl _).exec c).keeps ht).inv (hs.withPending rest)

end Sys2Proof.Claims
end


section
/-! Registers beside those that a record writes. -/

namespace Sys2Proof.Machine

/-- A record writes registers of EL and PL alone, so none of the blocks below them. -/
theorem rget_logRecord_of_lt (s : State) {x : Nat} (hx : x < 0x10000) (kind slot unit detail addr tag : Nat) :
    rget (logRecord s kind slot unit detail addr tag) x = rget s x := by
  have hel : ∀ o, x ≠ blkEL.reg o := fun o => by simp only [Blk.reg, blkEL]; omega
  have hpl : x ≠ blkPL.reg 0x074 := by simp only [Blk.reg, blkPL]; omega
  unfold logRecord logRecordEv
  split
  · rfl
  split
  · rfl
  split
  · rw [rget_logCapture_ne _ _ (hel _) (by simp), rget_cntAdd_ne _ _ (hel _)]
  · simp only [apply_ite (rget · x), rget_sendEvent_ne _ _ _ hpl, ite_self]
    exact rget_cntAdd_ne _ _ (hel _)

/-- A pair of LOG words whose VALID is 0 takes the words of the event (R459). -/
theorem Inv.rget_logCapture64_low {s : State} (h : Inv s) {off : Nat} (lo hi : Word) (hv : rget s (off + 4) &&& validBit = 0) :
    rget (Machine.logCapture64 s off lo hi) off = lo := by
  unfold Machine.logCapture64
  rw [if_pos hv, rget_rset_ne _ _ (by omega)]
  exact rget_rset_self off _ ((inv_iff s).1 h).regs

end Sys2Proof.Machine
end

section
/-! The halves of the harbourmaster complex and the drivers of the beacon (R390–R398). -/

namespace Sys2Proof.Machine

/-! ## The halves -/

section
variable (r : RedSt) (h : Bool) (v : HalfState)

@[simp] theorem RedSt.half_setHalf_self : (r.setHalf h v).half h = v := by cases h <;> rfl
@[simp] theorem RedSt.half_setHalf_other : (r.setHalf h v).half (!h) = r.half (!h) := by cases h <;> rfl
@[simp] theorem RedSt.half_setHalf_not : (r.setHalf (!h) v).half h = r.half h := by cases h <;> rfl
@[simp] theorem RedSt.setHalf_active : (r.setHalf h v).active = r.active := by cases h <;> rfl
@[simp] theorem RedSt.setHalf_claim : (r.setHalf h v).claim = r.claim := by cases h <;> rfl
@[simp] theorem RedSt.setHalf_declared : (r.setHalf h v).declared = r.declared := by cases h <;> rfl

/-- The states of the halves are two fields, and a change of the others leaves them. -/
theorem RedSt.half_congr {r u : RedSt} (ha : u.stA = r.stA) (hb : u.stB = r.stB) (h : Bool) : u.half h = r.half h := by
  cases h
  · exact ha
  · exact hb

end

/-! ## A failed half -/

section
variable (s : State) (half : Bool)

/-- The halves after a failure: the list of failures grows, and the third within the hour keeps the half out. -/
theorem halfFails_red : ∃ out, (halfFails s half).red = { s.red.setHalf half .failed with
    fails := (half, s.now) :: s.red.fails.filter fun f => decide (s.now < f.2 + hour), out := out } := by
  unfold halfFails
  dsimp only
  split
  · exact ⟨half :: (s.red.setHalf half .failed).out, by cases half <;> exact logRecord_red ..⟩
  · exact ⟨(s.red.setHalf half .failed).out, rfl⟩

/-- A failure changes the halves, and with the third of an hour the records. -/
theorem halfFails_frame : let t := halfFails s half
    t.mem = s.mem ∧ t.hm = s.hm ∧ t.pw = s.pw ∧ t.now = s.now ∧ ∀ x < 0x10000, rget t x = rget s x := by
  unfold halfFails redLog
  dsimp only
  split
  · exact ⟨logRecord_mem .., logRecord_hm .., logRecord_pw .., logRecord_now .., fun x hx => rget_logRecord_of_lt _ hx ..⟩
  · exact ⟨rfl, rfl, rfl, rfl, fun _ _ => rfl⟩

end

/-! ## A switchover -/

section
variable (s : State) (gap cause : Nat)

theorem takeOver_red : (takeOver s gap cause).red = { s.red.setHalf (!s.red.active) .active with
    active := !s.red.active, claim := s.red.claim + 1, gapEnd := s.now + gap } := by
  simp only [takeOver, redLog, redSet, logRecord_red, logCapture64_red, cntAdd_red]

theorem takeOver_frame : let t := takeOver s gap cause
    t.mem = s.mem ∧ t.hm = s.hm ∧ t.pw = s.pw ∧ t.now = s.now := by
  simp [takeOver, redLog, redSet]

/-- HM_SWITCHOVER counts, and the first switchover's gap and cause are logged. -/
theorem rget_takeOver : let t := takeOver s gap cause
    rget t (blkHM.reg 0x308) = BitVec.ofNat 32 (min ((rget s (blkHM.reg 0x308)).toNat + 1) (2 ^ 32 - 1)) ∧
    (Inv s → rget s (blkHM.reg 0x31C) &&& validBit = 0 → rget t (blkHM.reg 0x318) = fields 32 [(7, gap), (1, 0), (2, cause)]) := by
  unfold takeOver redLog
  dsimp only
  generalize hu : redSet s _ = u
  have hr (x : Nat) : rget u x = rget s x := by rw [← hu]; rfl
  refine ⟨?_, fun hs hv => ?_⟩
  · rw [rget_logRecord_of_lt _ (by decide), rget_logCapture64_ne _ _ _ (by decide) (by decide),
      rget_cntAdd_of_reset _ (by decide +kernel) (by decide), hr]
  · have hui : Inv u := hu ▸ ((Keeps.refl s).redSet _).inv hs
    rw [rget_logRecord_of_lt _ (by decide)]
    refine (hui.cntAdd ..).rget_logCapture64_low _ _ ?_
    rw [rget_cntAdd_ne _ _ (by decide)]
    exact (congrArg (· &&& validBit) (hr _)).trans hv

end

end Sys2Proof.Machine
end

section
namespace Sys2Proof.Machine

/-! ## Declarations of failure (R391, R398) -/

section
variable {s : State} {half : Bool} {gap : Fin 65} (hup : hubUp s = true)
include hup

/-- A half is declared failed and has not declared the other failed in this cycle. -/
theorem partnerFailed_of_single (hnf : s.red.half half ≠ .failed) (hb : bothDeclared s half = none) :
    exec (.partnerFailed false half gap) s =
      if half ≠ s.red.active then .next (redLog (halfFails (declare_ s half) half) 0x0804 half.toNat)
      else if s.red.half (!half) = .ready then .next (takeOver (halfFails (declare_ s half) half) gap.val 0)
      else .next (hubResets (declare_ s half) 4) := by
  simp only [exec, execPartnerFailed, hup, hb, Bool.not_true, Bool.false_eq_true, if_false, beq_iff_eq, if_neg hnf]
  rfl

/-- The half that was declared failed before declares the other, in the same cycle. -/
theorem partnerFailed_of_both {standby : Bool} (hb : bothDeclared s half = some standby) :
    exec (.partnerFailed false half gap) s = .next (bothFail s gap.val standby) := by
  simp only [exec, execPartnerFailed, hup, hb, Bool.not_true, Bool.false_eq_true, if_false]

end

/-- The standby is declared failed: it is reset, and the active half stays. -/
theorem standbyFailed_red (s : State) (half : Bool) : ∃ out,
    (redLog (halfFails (declare_ s half) half) 0x0804 half.toNat).red = { s.red.setHalf half .failed with
      fails := (half, s.now) :: s.red.fails.filter (fun f => decide (s.now < f.2 + hour)), out := out
      declared := some (half, s.now, if s.red.half (!s.red.active) = .ready then some (!s.red.active) else none) } := by
  obtain ⟨out, h⟩ := halfFails_red (declare_ s half) half
  refine ⟨out, (logRecord_red ..).trans (h.trans ?_)⟩
  cases half <;> rfl

/-- The active half is declared failed with the other READY: the other takes over. -/
theorem activeFailed_red (s : State) (half : Bool) (gap : Nat) (ha : half = s.red.active) : ∃ out,
    (takeOver (halfFails (declare_ s half) half) gap 0).red = { (s.red.setHalf half .failed).setHalf (!half) .active with
      active := !half, claim := s.red.claim + 1, gapEnd := s.now + gap
      fails := (half, s.now) :: s.red.fails.filter (fun f => decide (s.now < f.2 + hour)), out := out
      declared := some (half, s.now, if s.red.half (!half) = .ready then some (!half) else none) } := by
  obtain ⟨out, h⟩ := halfFails_red (declare_ s half) half
  obtain ⟨-, -, -, hnow, -⟩ := halfFails_frame (declare_ s half) half
  refine ⟨out, ?_⟩
  rw [takeOver_red, h, hnow]
  subst ha
  cases hact : s.red.active <;> simp only [declare_, redSet, RedSt.setHalf, RedSt.half, hact] <;> rfl

end Sys2Proof.Machine
end

section
namespace Sys2Proof.Machine

/-! ## Halves that declare each other failed (R398) -/

/-- The halves before the judgement: what failed in this cycle does not count, and the half that was no standby is resynchronised. -/
def judged (r : RedSt) (now : Nat) (standby : Bool) : RedSt :=
  RedSt.setHalf { r with fails := r.fails.filter fun f => f.2 != now, declared := none } (!standby) .resync

@[simp] theorem judged_active (r : RedSt) (now : Nat) (standby : Bool) : (judged r now standby).active = r.active := by
  simp only [judged, RedSt.setHalf_active]

@[simp] theorem judged_claim (r : RedSt) (now : Nat) (standby : Bool) : (judged r now standby).claim = r.claim := by
  simp only [judged, RedSt.setHalf_claim]

theorem judged_half (r : RedSt) (now : Nat) (standby : Bool) : (judged r now standby).half (!standby) = .resync ∧
    (judged r now standby).half standby = r.half standby := by
  cases standby <;> exact ⟨rfl, rfl⟩

theorem bothFail_eq (s : State) (gap : Nat) (standby : Bool) : bothFail s gap standby =
    if standby = s.red.active then redSet s (judged s.red s.now standby) else takeOver (redSet s (judged s.red s.now standby)) gap 0 := by
  unfold bothFail
  dsimp only
  rw [RedSt.setHalf_active]
  rfl

section
variable (s : State) (gap : Nat) {standby : Bool}

/-- The standby has taken over already. -/
theorem bothFail_of_taken (h : standby = s.red.active) : (bothFail s gap standby).red = judged s.red s.now standby := by
  rw [bothFail_eq, if_pos h]
  rfl

/-- The standby takes over now. -/
theorem bothFail_of_not_taken (h : standby = !s.red.active) : let t := bothFail s gap standby
    t.red.active = standby ∧ t.red.half standby = .active ∧ t.red.half (!standby) = .resync ∧ t.red.claim = s.red.claim + 1 := by
  subst h
  have hr : (bothFail s gap (!s.red.active)).red = _ :=
    (congrArg State.red ((bothFail_eq ..).trans (if_neg (Bool.not_ne_self _)))).trans (takeOver_red ..)
  dsimp only
  rw [hr]
  simp only [redSet, judged]
  cases s.red.active <;> exact ⟨rfl, rfl, rfl, rfl⟩

theorem bothFail_frame : (bothFail s gap standby).hm = s.hm ∧ (bothFail s gap standby).mem = s.mem := by
  rw [bothFail_eq]
  split
  · exact ⟨rfl, rfl⟩
  · obtain ⟨hmem, hhm, -⟩ := takeOver_frame (redSet s (judged s.red s.now standby)) gap 0
    exact ⟨hhm, hmem⟩

end

/-- What a state has declared, seen by the other half in the same cycle. -/
theorem bothDeclared_of_declared {s : State} {half : Bool} {ready : Option Bool} (h : s.red.declared = some (!half, s.now, ready)) :
    bothDeclared s half = ready := by
  simp only [bothDeclared, h, and_self, if_true]

/-- In either order the half that stood by READY ends active and the other is resynchronised. -/
theorem bothDeclare {s : State} (first : Bool) (gap : Fin 65) (hup : hubUp s = true) (hact : s.red.half s.red.active ≠ .failed)
    (hready : s.red.half (!s.red.active) = .ready) (hdec : s.red.declared = none) :
    ∃ t u, exec (.partnerFailed false first gap) s = .next t ∧ exec (.partnerFailed false (!first) gap) t = .next u ∧
      u.red.active = !s.red.active ∧ u.red.half (!s.red.active) = .active ∧ u.red.half s.red.active = .resync ∧
      u.red.claim = s.red.claim + 1 ∧ u.hm = s.hm ∧ u.mem = s.mem := by
  have hb : bothDeclared s first = none := by simp only [bothDeclared, hdec]
  obtain ⟨fmem, fhm, fpw, fnow, -⟩ := halfFails_frame (declare_ s first) first
  by_cases hfirst : first = s.red.active
  · have hnf : s.red.half first ≠ .failed := hfirst ▸ hact
    have hother : s.red.half (!first) = .ready := hfirst ▸ hready
    obtain ⟨tmem, thm, tpw, tnow⟩ := takeOver_frame (halfFails (declare_ s first) first) gap.val 0
    obtain ⟨out, hred⟩ := activeFailed_red s first gap.val hfirst
    generalize ht : takeOver (halfFails (declare_ s first) first) gap.val 0 = t at *
    have hrun : exec (.partnerFailed false first gap) s = .next t := by
      rw [partnerFailed_of_single hup hnf hb, if_neg (not_not.2 hfirst), if_pos hother, ht]
    have hupt : hubUp t = true := by simp only [hubUp, tpw, fpw]; exact hup
    have hact' : t.red.active = !first := by rw [hred]
    have hnow : t.now = s.now := tnow.trans fnow
    have hboth : bothDeclared t (!first) = some (!first) := bothDeclared_of_declared (by
      rw [hred, Bool.not_not, hnow, if_pos hother])
    obtain ⟨uhm, umem⟩ := bothFail_frame t gap.val (standby := !first)
    have hu := bothFail_of_taken t gap.val hact'.symm
    obtain ⟨hyield, hkeep⟩ := judged_half t.red t.now (!first)
    refine ⟨t, _, hrun, partnerFailed_of_both hupt hboth, ?_, ?_, ?_, ?_, uhm.trans (thm.trans fhm), umem.trans (tmem.trans fmem)⟩
    · rw [hu, judged_active, hact', hfirst]
    · rw [hu, ← hfirst, hkeep, hred]; cases first <;> rfl
    · rw [hu, ← hfirst]; rw [Bool.not_not] at hyield; exact hyield
    · rw [hu, judged_claim, hred]
  · have hstand : first = !s.red.active := Bool.eq_not_of_ne hfirst
    have hnf : s.red.half first ≠ .failed := by rw [hstand, hready]; decide
    obtain ⟨out, hred⟩ := standbyFailed_red s first
    generalize ht : redLog (halfFails (declare_ s first) first) 0x0804 first.toNat = t at *
    have hrun : exec (.partnerFailed false first gap) s = .next t := by
      rw [partnerFailed_of_single hup hnf hb, if_pos hfirst, ht]
    have hupt : hubUp t = true := by
      have : t.pw = s.pw := ht ▸ (logRecord_pw ..).trans fpw
      simp only [hubUp, this]; exact hup
    have hnow : t.now = s.now := ht ▸ (logRecord_now ..).trans fnow
    have hact' : first = !t.red.active := by rw [hred, RedSt.setHalf_active]; exact hstand
    have hclaim : t.red.claim = s.red.claim := by rw [hred, RedSt.setHalf_claim]
    have hboth : bothDeclared t (!first) = some first := bothDeclared_of_declared (by
      rw [hred, Bool.not_not, hnow, if_pos hready, hstand])
    obtain ⟨uhm, umem⟩ := bothFail_frame t gap.val (standby := first)
    obtain ⟨ha, hon, hoff, hc⟩ := bothFail_of_not_taken t gap.val hact'
    rw [hstand, Bool.not_not] at hoff
    have thm : t.hm = s.hm := ht ▸ (logRecord_hm ..).trans fhm
    have tmem : t.mem = s.mem := ht ▸ (logRecord_mem ..).trans fmem
    exact ⟨t, _, hrun, partnerFailed_of_both hupt hboth, ha.trans hstand, hstand ▸ hon, hstand ▸ hoff, hc.trans (by rw [hclaim]),
      uhm.trans thm, umem.trans tmem⟩

end Sys2Proof.Machine
end

section
namespace Sys2Proof.Machine

/-! ## The other commands -/

@[simp] theorem swRes_red (s : State) (code : Nat) : (swRes s code).red = s.red := logCapture_red ..
@[simp] theorem swRes_mem (s : State) (code : Nat) : (swRes s code).mem = s.mem := logCapture_mem ..

theorem rget_redSet (s : State) (r : RedSt) (x : Nat) : rget (redSet s r) x = rget s x := rfl

section
variable {s : State}

/-- The standby driver fails; the active one fails and is replaced (R390, R396). -/
theorem driverFails_of_ok (hok : s.red.beaconStbyOk = true) (driver : Bool) : let t := driverFails s driver
    t.tide = s.tide ∧ t.mem = s.mem ∧ t.hm = s.hm ∧
      t.red = if driver = s.red.beaconActive then { s.red with beaconActive := !driver, beaconStbyOk := false }
        else { s.red with beaconStbyOk := false } := by
  unfold driverFails
  dsimp only
  by_cases hd : driver = s.red.beaconActive
  · simp [hd, hok, redSet]
  · simp [hd, hok, redSet]

theorem driverFails_of_not_ok (hok : s.red.beaconStbyOk = false) (driver : Bool) : driverFails s driver = s := by
  simp [driverFails, hok]

variable (hup : hubUp s = true)
include hup

theorem partnerFailed_beacon (driver : Bool) (gap : Fin 65) : exec (.partnerFailed true driver gap) s = .next (driverFails s driver) := by
  simp only [exec, execPartnerFailed, hup, Bool.not_true, Bool.false_eq_true, if_false, if_true]

theorem beaconSwitchover_eq : exec .beaconSwitchover s = .next (driverFails s s.red.beaconActive) := by
  simp only [exec, execBeaconSwitchover, hup, if_true]

/-- HM_SW_CMD with GO (R395). -/
theorem hmSwCmd_of_go {value : Word} {gap : Fin 65} (hb : isBusy s blkHM = false) (hgo : value.getLsbD 31 = true) :
    exec (.hmSwCmd value gap) s = let u := rset (acceptWrite s blkHM) (blkHM.reg 0x324) 0
      if s.red.half (!s.red.active) ≠ .ready then .next (swRes u 1)
      else .next (swRes (takeOver (redSet u (s.red.setHalf s.red.active .resync)) gap.val 1) 0) := by
  simp only [exec, execHmSwCmd, hup, Claims.softWrite_of_not_busy hb, hgo, Bool.not_true, Bool.false_eq_true, if_false, bne_iff_ne]

end

/-- A commanded switchover, and what it counts and logs. -/
theorem swTaken (s : State) (gap : Fin 65) :
    let t := swRes (takeOver (redSet (rset (acceptWrite s blkHM) (blkHM.reg 0x324) 0) (s.red.setHalf s.red.active .resync)) gap.val 1) 0
    t.red.active = (!s.red.active) ∧ t.red.half t.red.active = .active ∧ t.red.half s.red.active = .resync ∧ t.red.claim = s.red.claim + 1 ∧
      t.mem = s.mem ∧
      rget t (blkHM.reg 0x308) = BitVec.ofNat 32 (min ((rget s (blkHM.reg 0x308)).toNat + 1) (2 ^ 32 - 1)) ∧
      (Inv s → rget s (blkHM.reg 0x31C) &&& validBit = 0 → rget t (blkHM.reg 0x318) = fields 32 [(7, gap.val), (1, 0), (2, 1)]) := by
  have hr (x : Nat) (hx : x ≠ blkHM.reg 0x324) :
      rget (redSet (rset (acceptWrite s blkHM) (blkHM.reg 0x324) 0) (s.red.setHalf s.red.active .resync)) x = rget s x := by
    rw [rget_redSet, rget_rset_ne _ _ hx]
    rfl
  have hred := takeOver_red (redSet (rset (acceptWrite s blkHM) (blkHM.reg 0x324) 0) (s.red.setHalf s.red.active .resync)) gap.val 1
  obtain ⟨hmem, -⟩ := takeOver_frame (redSet (rset (acceptWrite s blkHM) (blkHM.reg 0x324) 0) (s.red.setHalf s.red.active .resync)) gap.val 1
  obtain ⟨hcount, hlog⟩ := rget_takeOver (redSet (rset (acceptWrite s blkHM) (blkHM.reg 0x324) 0) (s.red.setHalf s.red.active .resync)) gap.val 1
  generalize takeOver (redSet (rset (acceptWrite s blkHM) (blkHM.reg 0x324) 0) (s.red.setHalf s.red.active .resync)) gap.val 1 = u at *
  have hred' : (swRes u 0).red = u.red := swRes_red ..
  have hhalves : u.red.active = (!s.red.active) ∧ u.red.half u.red.active = .active ∧ u.red.half s.red.active = .resync ∧
      u.red.claim = s.red.claim + 1 := by
    rw [hred]
    cases hact : s.red.active <;> simp [redSet, RedSt.setHalf, RedSt.half, hact]
  obtain ⟨hactive, hon, hoff, hclaim⟩ := hhalves
  intro t
  refine ⟨hred' ▸ hactive, hred' ▸ hon, hred' ▸ hoff, hred' ▸ hclaim, ?_, ?_, fun h hv => ?_⟩
  · simp [t, hmem, redSet]
  · rw [show rget t (blkHM.reg 0x308) = rget u (blkHM.reg 0x308) from rget_logCapture_ne _ _ (by decide) (by simp), hcount, hr _ (by decide)]
  · rw [show rget t (blkHM.reg 0x318) = rget u (blkHM.reg 0x318) from rget_logCapture_ne _ _ (by decide) (by simp)]
    have hw := (((Keeps.refl s).acceptWrite blkHM).rset (blkHM.reg 0x324) 0).inv h
    exact hlog ((Keeps.refl _).redSet _ |>.inv hw) (by rw [hr _ (by decide)]; exact hv)

end Sys2Proof.Machine

namespace Sys2Proof.Claims

open Sys2Proof Sys2Proof.Machine

/-- Settles O47, command by command: a failure and a switchover change the halves, and record registers beside. -/
theorem redundancy : Obligations.Redundancy := by
  refine ⟨?_, ?_, ?_, ?_, ?_, ?_, ?_, ?_, ?_, ?_⟩
  · intro beacon half wire s hup hlost
    have hrun : exec (.heartbeatPathLost beacon half wire) s = .next (logRecord
        (cntAdd (redSet s { s.red with lost := s.red.lost ++ [⟨beacon, half, wire, s.now⟩] }) (blkHM.reg 0x30C) 1)
        0x0801 0 beacon.toNat (wire.toNat + 256 * half.toNat) 0 0) := by
      simp only [exec, execHeartbeatPathLost, hup, hlost]
      rfl
    refine ⟨_, hrun, by simp [redSet], by simp [redSet], by simp [redSet], ?_⟩
    rw [rget_logRecord_of_lt _ (by decide)]
    exact rget_cntAdd_of_reset _ (by decide +kernel) (by decide)
  · intro beacon half wire s hup
    have hrun : exec (.heartbeatPathRestored beacon half wire) s = .next (redSet s { s.red with lost := s.red.lost.filter fun p =>
        !(p.beacon == beacon && p.half == half && p.wire == wire && decide (p.at_ + 1000000 ≤ s.now)) }) := by
      simp only [exec, execHeartbeatPathRestored, hup]
      rfl
    refine ⟨_, hrun, rfl, fun p => ?_⟩
    refine List.mem_filter.trans (and_congr_right' ?_)
    rw [Bool.not_eq_true', ← Bool.not_eq_true]
    simp [and_assoc]
  · intro first gap s hup hact hready hdec
    exact bothDeclare first gap hup hact hready hdec
  · intro driver gap s hup
    refine ⟨fun hok => ?_, fun hok => ?_⟩
    · rw [partnerFailed_beacon hup, beaconSwitchover_eq hup, driverFails_of_not_ok hok, driverFails_of_not_ok hok]
      exact ⟨rfl, rfl⟩
    · exact ⟨_, partnerFailed_beacon hup .., driverFails_of_ok hok driver⟩
  · intro half gap s hup hnf hb
    have hrun := partnerFailed_of_single (gap := gap) hup hnf hb
    obtain ⟨fmem, fhm, -, -, freg⟩ := halfFails_frame (declare_ s half) half
    refine ⟨fun hstand => ?_, fun hact hother => ?_, fun hact hother => ?_⟩
    · obtain ⟨out, hred⟩ := standbyFailed_red s half
      refine ⟨_, hrun.trans (if_pos hstand), ?_, ?_, ?_, ?_, (logRecord_mem ..).trans fmem, (logRecord_hm ..).trans fhm⟩
      · rw [hred]; cases half <;> rfl
      · rw [hred, RedSt.setHalf_active]
      · rw [hred, RedSt.setHalf_claim]
      · rw [hred]; exact List.mem_cons_self
    · obtain ⟨out, hred⟩ := activeFailed_red s half gap.val hact
      obtain ⟨tmem, thm, -⟩ := takeOver_frame (halfFails (declare_ s half) half) gap.val 0
      obtain ⟨-, hlog⟩ := rget_takeOver (halfFails (declare_ s half) half) gap.val 0
      refine ⟨_, hrun.trans ((if_neg (not_not.2 hact)).trans (if_pos hother)), ?_, ?_, ?_, ?_, ?_, tmem.trans fmem, thm.trans fhm,
        fun h hv => hlog ?_ ?_⟩
      · rw [hred]; cases half <;> rfl
      · rw [hred]; cases half <;> rfl
      · rw [hred]
      · rw [hred]
      · rw [hred]
      · exact (((Keeps.refl s).declare_ half).halfFails half).inv h
      · rw [freg _ (by decide)]; exact hv
    · exact hrun.trans ((if_neg (not_not.2 hact)).trans (if_neg hother))
  · intro group s hup hready
    have hrun : exec (.halfDivergence group) s = .next (redLog (cntAdd
        (redSet s { s.red.setHalf (!s.red.active) .resync with diverge := true }) (blkHM.reg 0x310) 1) 0x0803 group.toNat) := by
      simp only [exec, execHalfDivergence, hup, hready]
      rfl
    exact ⟨_, hrun, by simp [redLog, redSet], by simp [redLog, redSet], by simp [redLog, redSet]⟩
  · intro half s hup hstand hfailed hin
    simp only [exec, execFailedHalfRestart, hup, hfailed]
    simp [hstand, hin, redSet]
  · intro half s hup hstand hresync
    have hrun : exec (.resyncDone half) s = .next (redLog (cntAdd (redSet s { s.red.setHalf half .ready with diverge := false })
        (blkHM.reg 0x314) 1) 0x0805 half.toNat) := by
      simp only [exec, execResyncDone, hup, hresync, beq_eq_false_iff_ne.2 hstand]
      rfl
    exact ⟨_, hrun, by simp [redLog, redSet], by simp [redLog, redSet]⟩
  · intro value gap s hup hb hgo
    have hrun := hmSwCmd_of_go (gap := gap) hup hb hgo
    refine ⟨fun hnot => hrun.trans (if_pos hnot), fun hready => ?_⟩
    exact ⟨_, hrun.trans (if_neg (not_not.2 hready)), swTaken s gap⟩
  · intro s hup hok
    obtain ⟨htide, hmem, -, hred⟩ := driverFails_of_ok hok s.red.beaconActive
    exact ⟨_, beaconSwitchover_eq hup, hred.trans (if_pos rfl), htide, hmem⟩

end Sys2Proof.Claims
end

section
/-! What leaves power supervision alone: the state of PW, the guest's quarantine switch, and the registers of TM and PW. -/

namespace Sys2Proof.Machine
set_option Elab.async false

/-- A register word outside TM and PW. -/
def OffPower (off : Nat) : Prop := off < 0x18000 ∨ 0x20000 ≤ off

@[simp] theorem offPower_gf (o : Nat) : OffPower (blkGF.reg o) := .inr (by simp only [Blk.reg, blkGF]; omega)

@[simp] theorem offPower_hm {o : Nat} (h : o < 0x4000) : OffPower (blkHM.reg o) := .inl (by simp only [Blk.reg, blkHM]; omega)

@[simp] theorem offPower_pl {o : Nat} (h : o < 0x4000) : OffPower (blkPL.reg o) := .inl (by simp only [Blk.reg, blkPL]; omega)

@[simp] theorem offPower_ql (k o : Nat) : OffPower ((qlBlk k).reg o) := by
  refine .inr ?_
  unfold qlBlk
  split
  · simp only [Blk.reg]; omega
  · simp only [Blk.reg, blkQL, slotBase]; split <;> omega

@[simp] theorem offPower_qn (q o : Nat) : OffPower ((blkQN q).reg o) :=
  .inr (by simp only [Blk.reg, blkQN, slotBase, slotQ]; omega)

@[simp] theorem offPower_tg (key o : Nat) : OffPower ((tgBlk key).reg o) :=
  .inr (by simp only [Blk.reg, tgBlk, blkTG, slotBase, slotC]; omega)

/-- What leads from `s₀` to `s` leaves power supervision alone. From `hk : KeepsPower s₀ s`, `hk.f x` is `KeepsPower s₀ (f s x)`. -/
structure KeepsPower (s₀ s : State) : Prop where
  pw : s.pw = s₀.pw
  quar : s.guest.quar = s₀.guest.quar
  reg : ∀ x, 0x18000 ≤ x → x < 0x20000 → rget s x = rget s₀ x

theorem KeepsPower.refl (s : State) : KeepsPower s s := ⟨rfl, rfl, fun _ _ _ => rfl⟩

section
variable {s₀ s : State} (hk : KeepsPower s₀ s)
include hk

theorem KeepsPower.same {t : State} (hp : t.pw = s.pw := by rfl) (hq : t.guest.quar = s.guest.quar := by rfl)
    (hr : t.regs.words = s.regs.words := by rfl) : KeepsPower s₀ t :=
  ⟨hp.trans hk.pw, hq.trans hk.quar, fun x h h' => by
    rw [← hk.reg x h h']; simp only [rget, hr]⟩

theorem KeepsPower.ite {c : Prop} [Decidable c] {t : State} (ht : KeepsPower s₀ t) : KeepsPower s₀ (if c then t else s) := by
  split
  · exact ht
  · exact hk

omit hk in
theorem KeepsPower.foldl {α : Type} {f : State → α → State} (hf : ∀ (t : State) (x : α), KeepsPower s₀ t → KeepsPower s₀ (f t x))
    (l : List α) {s : State} (hk : KeepsPower s₀ s) : KeepsPower s₀ (l.foldl f s) := by
  induction l generalizing s with
  | nil => exact hk
  | cons x l ih => exact ih (hf s x hk)

omit hk in
theorem KeepsPower.fst {t : State} {α : Type} {x : State × α} {y : α} (h : KeepsPower s₀ x.1) (e : x = (t, y)) : KeepsPower s₀ t := by
  rw [e] at h; exact h

/-- A register outside TM and PW is written. -/
theorem KeepsPower.rset (off : Nat) (v : Word) (h : OffPower off := by simp) : KeepsPower s₀ (rset s off v) :=
  ⟨hk.pw, hk.quar, fun x hx hx' => (rget_rset_ne _ _ (by rcases h with h | h <;> omega)).trans (hk.reg x hx hx')⟩

theorem KeepsPower.cntAdd (off n : Nat) (h : OffPower off := by simp) : KeepsPower s₀ (cntAdd s off n) := hk.rset _ _ h

theorem KeepsPower.cntAdd64 (b : Blk) (off n : Nat) (h : ∀ o, OffPower (b.reg o) := by simp) : KeepsPower s₀ (cntAdd64 s (b.reg off) n) := by
  unfold Machine.cntAdd64 rset64
  exact (hk.rset _ _ (h off)).rset _ _ (h (off + 4))

/-- A LOG register with a companion. -/
theorem KeepsPower.logCapture (off : Nat) (v : Word) (off' : Nat) (v' : Word) (h : OffPower off := by simp)
    (h' : OffPower off' := by simp) : KeepsPower s₀ (logCapture s off v [(off', v')]) := by
  unfold Machine.logCapture
  exact hk.ite ((hk.rset _ _ h).rset _ _ h')

theorem KeepsPower.logRecord (kind slot unit detail addr tag : Nat) : KeepsPower s₀ (logRecord s kind slot unit detail addr tag) :=
  ⟨(logRecord_pw ..).trans hk.pw, (congrArg GuestSt.quar (logRecord_guest ..)).trans hk.quar,
    fun x hx hx' => (rget_logRecord _ hx ..).trans (hk.reg x hx hx')⟩

end

end Sys2Proof.Machine
end

section
namespace Sys2Proof.Machine
set_option Elab.async false
section
variable {s₀ s : State} (hk : KeepsPower s₀ s)
include hk

theorem KeepsPower.linkSet (k : Nat) (x : LinkSt) : KeepsPower s₀ (linkSet s k x) := hk.same

theorem KeepsPower.linkMod (k : Nat) (f : LinkSt → LinkSt) : KeepsPower s₀ (linkMod s k f) := hk.linkSet ..

theorem KeepsPower.emit (o : Output) : KeepsPower s₀ (State.emit s o) := hk.same

theorem KeepsPower.countHops (vc addr : Nat) (l : List (Nat × Nat)) : KeepsPower s₀ (countHops s vc addr l) := by
  induction l generalizing s with
  | nil => exact hk
  | cons e r ih =>
    unfold Machine.countHops
    split
    · exact ih hk
    · refine ih (KeepsPower.ite (KeepsPower.cntAdd64 ?_ ..) ?_) <;>
      · split
        · exact (hk.cntAdd64 ..).cntAdd64 ..
        · exact hk.cntAdd64 ..

theorem KeepsPower.countWay (a b : Point) (vc addr : Nat) : KeepsPower s₀ (countWay s a b vc addr) := by
  unfold Machine.countWay
  extract_lets s1
  have hs1 : KeepsPower s₀ s1 := hk.countHops ..
  split
  · exact hs1
  · split
    · exact hs1
    · exact (hs1.cntAdd64 ..).cntAdd64 ..

theorem KeepsPower.enqueue (k : Nat) (p : QPar) : KeepsPower s₀ (enqueue s k p) := hk.linkMod _ _

theorem KeepsPower.holdOut (src dst : Point) (p : QPar) : KeepsPower s₀ (holdOut s src dst p) := by
  unfold Machine.holdOut
  extract_lets _ _ _ s4 _
  have hs4 : KeepsPower s₀ s4 := hk.countHops ..
  split
  · exact hk.same
  · exact hs4.same

theorem KeepsPower.sendTo (src : Point) (p : QPar) : KeepsPower s₀ (sendTo s src p) := by
  unfold Machine.sendTo
  split
  · exact hk
  · exact ((hk.countWay ..).enqueue ..).ite (hk.holdOut ..)

theorem KeepsPower.voyageSet (set : Nat) (v : Option Voyage) : KeepsPower s₀ (voyageSet s set v) := hk.same

theorem KeepsPower.voyageMod (set : Nat) (f : Voyage → Voyage) : KeepsPower s₀ (voyageMod s set f) := hk.voyageSet ..

theorem KeepsPower.tugSet (key : Nat) (t : TugSt) : KeepsPower s₀ (tugSet s key t) := hk.same

theorem KeepsPower.discardUnstarted (set : Nat) : KeepsPower s₀ (discardUnstarted s set) := hk.same

theorem KeepsPower.endVoyageWith (set : Nat) (status : Word) : KeepsPower s₀ (endVoyageWith s set status) := hk.voyageMod ..

theorem KeepsPower.tugMod (key : Nat) (f : TugSt → TugSt) : KeepsPower s₀ (tugMod s key f) := hk.tugSet ..

theorem KeepsPower.tugFault (key : Nat) (core : CoreId) (loc set : Nat) (desc : BitVec 512) (code addr : Nat) :
    KeepsPower s₀ (tugFault s key core loc set desc code addr) := by
  unfold Machine.tugFault
  extract_lets _ _ _ _ s3 _
  have h3 : KeepsPower s₀ s3 := ((hk.logCapture _ _ _ _ (offPower_tg ..) (offPower_tg ..)).logRecord ..).tugMod ..
  split
  · exact h3
  split
  · exact h3.same
  · exact h3.ite ((h3.endVoyageWith ..).discardUnstarted ..)

theorem KeepsPower.toGuest (p : QPar) (tag : Nat) : KeepsPower s₀ (toGuest s p tag) := by
  unfold Machine.toGuest
  extract_lets _ _ s3
  have hs3 : KeepsPower s₀ s3 := hk.ite ((hk.cntAdd ..).logRecord ..)
  exact (hs3.enqueue ..).ite hs3

theorem KeepsPower.linkLog (k kind detail : Nat) : KeepsPower s₀ (linkLog s k kind detail) := (hk.logRecord ..).ite (hk.ite (hk.logRecord ..))

theorem KeepsPower.freeUnit (k v : Nat) : KeepsPower s₀ (freeUnit s k v) := hk.linkMod _ _

theorem KeepsPower.failDescriptor (key serial code : Nat) : KeepsPower s₀ (failDescriptor s key serial code) := by
  unfold Machine.failDescriptor
  extract_lets _
  split
  · exact (hk.tugSet ..).tugFault ..
  · split
    · exact (hk.tugSet ..).tugFault ..
    · exact hk

theorem KeepsPower.forget (key serial : Nat) : KeepsPower s₀ (forget s key serial) := hk.same

theorem KeepsPower.endWait (key serial status : Nat) : KeepsPower s₀ (endWait s key serial status) :=
  (hk.tugMod ..).ite ((hk.forget ..).failDescriptor ..)

theorem KeepsPower.sendResp (src : Point) (dev : Option Nat) (tag count status : Nat) : KeepsPower s₀ (sendResp s src dev tag count status) := by
  unfold Machine.sendResp
  extract_lets _
  split
  · exact hk.sendTo ..
  · exact hk.toGuest ..

theorem KeepsPower.pilotWriteDone (session : BitVec 16) : KeepsPower s₀ (pilotWriteDone s session) := hk.ite hk.same

theorem KeepsPower.carry (k : Nat) : KeepsPower s₀ (carry s k) := by
  unfold Machine.carry
  extract_lets _ s2 _
  have hs2 : KeepsPower s₀ s2 := hk.linkSet ..
  exact hs2.ite hs2.same

theorem KeepsPower.putLine (k : Nat) (p : QPar) : KeepsPower s₀ (putLine s k p) := by
  unfold Machine.putLine
  extract_lets _ _ s3
  have hs3 : KeepsPower s₀ s3 := ((hk.carry ..).linkMod _ _).emit ..
  exact hs3.ite (hs3.emit ..)

theorem KeepsPower.answerSent (id : Nat) : KeepsPower s₀ (answerSent s id) := by
  unfold Machine.answerSent
  split
  · exact hk
  · exact hk.same.ite (hk.same.sendResp ..)

theorem KeepsPower.sendHello (k : Nat) : KeepsPower s₀ (sendHello s k) := (hk.linkMod _ _).putLine ..

theorem KeepsPower.guestFree (v : Nat) : KeepsPower s₀ (guestFree s v) := (hk.freeUnit ..).ite hk.same

theorem KeepsPower.guestAnswer (tag : Word) (count status : Nat) : KeepsPower s₀ (guestAnswer s tag count status) := hk.sendResp ..

theorem KeepsPower.refuseReport (o : Origin) : KeepsPower s₀ (refuseReport s o) := by
  unfold Machine.refuseReport
  split
  · exact hk.pilotWriteDone ..
  · exact hk.sendResp ..
  · exact hk.sendResp ..
  · exact hk

theorem KeepsPower.dropHeldPar (h : HeldPar) : KeepsPower s₀ (dropHeldPar s h) := by
  unfold Machine.dropHeldPar
  extract_lets _ s2
  have hs2 : KeepsPower s₀ s2 := hk.freeUnit ..
  exact (hs2.ite (hs2.sendResp ..)).ite (hs2.ite (hs2.sendResp ..))

theorem KeepsPower.dropGuestPar (p : GPar) : KeepsPower s₀ (dropGuestPar s p) := by
  unfold Machine.dropGuestPar
  extract_lets s1
  have hs1 : KeepsPower s₀ s1 := hk.guestFree ..
  split
  · split
    · split
      · exact (hs1.forget ..).failDescriptor ..
      · exact hs1
    · exact hs1
  · exact ((hs1.guestAnswer ..).ite hs1).ite (hs1.guestAnswer ..)

theorem KeepsPower.scuttle (k : Nat) : KeepsPower s₀ (scuttle s k) := by
  unfold Machine.scuttle
  extract_lets _ _ _ _ _ _ _ _ _ _ s11 _ _ s14 s15 s16 s17 _ s19
  have hs11 : KeepsPower s₀ s11 := hk.linkSet ..
  have hs14 : KeepsPower s₀ s14 := hs11.same
  have hs15 : KeepsPower s₀ s15 := (hs14.cntAdd ..).linkLog ..
  have hs16 : KeepsPower s₀ s16 := by
    dsimp only [s16]
    refine KeepsPower.foldl (fun t _ ht => ?_) _ ?_
    · exact ht.refuseReport ..
    · exact hs15
  have hs17 : KeepsPower s₀ s17 := by
    dsimp only [s17]
    refine KeepsPower.foldl (fun t _ ht => ?_) _ ?_
    · exact ht.dropGuestPar ..
    · refine KeepsPower.foldl (fun t _ ht => ?_) _ ?_
      · exact ht.dropHeldPar ..
      · refine KeepsPower.foldl (fun t _ ht => ?_) _ ?_
        · exact ht.answerSent ..
        · exact hs16
  have hs19 : KeepsPower s₀ s19 := KeepsPower.foldl (fun _ _ ht => (ht.forget ..).failDescriptor ..) _ hs17
  exact hs19.ite (hs19.sendHello ..)

theorem KeepsPower.emitDgram (p : Fin 2) (d : Dgram) : KeepsPower s₀ (emitDgram s p d) := hk.emit ..

theorem KeepsPower.sendPilot (dev : Nat) (d : Dgram) : KeepsPower s₀ (sendPilot s dev d) := KeepsPower.foldl (fun _ _ ht => ht.sendTo ..) _ hk

theorem KeepsPower.noRoute : KeepsPower s₀ (noRoute s) := hk.cntAdd ..

theorem KeepsPower.toMember {came : Option (Fin 2)} {dev : Nat} {d : Dgram} {t : State} (e : toMember s came dev d = some t) : KeepsPower s₀ t := by
  have hs : KeepsPower s₀ (Machine.sendPilot s dev d) := hk.sendPilot ..
  have held (e : (pilotKey s dev).map (fun _ => Machine.sendPilot s dev d) = some t) : KeepsPower s₀ t := by
    obtain ⟨_, _, rfl⟩ := Option.map_eq_some_iff.1 e
    exact hs
  unfold Machine.toMember at e
  dsimp only at e
  split at e
  · cases e; exact hs
  split at e
  · split at e
    · exact held e
    · cases e; exact hk.emitDgram ..
  · exact held e

theorem KeepsPower.toMemberOr (came : Option (Fin 2)) (dev : Nat) (d : Dgram) :
    KeepsPower s₀ ((Machine.toMember s came dev d).getD (Machine.noRoute s)) := by
  cases e : Machine.toMember s came dev d with
  | none => exact hk.noRoute
  | some t => exact hk.toMember e

theorem KeepsPower.toHost (p : Fin 2) (d : Dgram) : KeepsPower s₀ (toHost s p d) := by
  unfold Machine.toHost
  split
  · exact hk.emitDgram ..
  · exact hk

theorem KeepsPower.sendBack (back : PilotPath) (d : Dgram) : KeepsPower s₀ (sendBack s back d) := by
  cases back with
  | port p => exact hk.ite (hk.emitDgram ..)
  | link src => exact hk.toMemberOr ..

theorem KeepsPower.upward (came : Option (Fin 2)) (back : Option PilotPath) (d : Dgram) : KeepsPower s₀ (upward s came back d) := by
  unfold Machine.upward
  split
  · split
    · exact hk.toHost ..
    · exact hk.toMemberOr ..
  · exact hk.sendBack ..
  · exact hk.noRoute

theorem KeepsPower.sendOut (d : Dgram) : KeepsPower s₀ (sendOut s d) := by
  unfold Machine.sendOut
  split
  · exact (hk.toHost ..).ite (hk.upward ..)
  · exact hk.upward ..

theorem KeepsPower.pilotSend (ms : List PMsg) : KeepsPower s₀ (pilotSend s ms) := hk.same.sendOut ..

theorem KeepsPower.sendLate (l : List PMsg) : KeepsPower s₀ (sendLate s l) := by
  induction l generalizing s with
  | nil => exact hk.same
  | cons m r ih =>
    unfold Machine.sendLate
    split
    · exact ih ((hk.ite (hk.cntAdd ..)).pilotSend _)
    · exact hk.same

theorem KeepsPower.flushLate : KeepsPower s₀ (flushLate s) := (hk.sendLate ..).ite hk

theorem KeepsPower.answerLate (ty : Byte) (m : PMsg) (body : List Byte) : KeepsPower s₀ (answerLate s ty m body) := hk.same.flushLate

theorem KeepsPower.guestReadDone (tag : Word) (refused : Bool) : KeepsPower s₀ (guestReadDone s tag refused) := by
  unfold Machine.guestReadDone
  split
  · exact hk
  · extract_lets _ s2
    have hs2 : KeepsPower s₀ s2 := hk.same
    exact (hs2.answerLate ..).ite (hs2.answerLate ..)

theorem KeepsPower.mergeOver (tag : Word) : KeepsPower s₀ (mergeOver s tag) := hk.same

theorem KeepsPower.mergeRefused (tag : Word) : KeepsPower s₀ (mergeRefused s tag) := by
  unfold Machine.mergeRefused
  split
  · exact hk
  · extract_lets s1 _
    have hs1 : KeepsPower s₀ s1 := (hk.mergeOver ..).pilotWriteDone ..
    exact (hs1.same.answerLate ..).ite hs1

theorem KeepsPower.guestReadEnd (r : ReadOut) (status : Nat) : KeepsPower s₀ (guestReadEnd s r status) := by
  unfold Machine.guestReadEnd
  extract_lets _ s2 _
  have hs2 : KeepsPower s₀ s2 := hk.same
  split
  · exact hs2.endWait ..
  · exact hs2.ite (hs2.endWait ..)
  · exact hs2.ite (hs2.endWait ..)
  · exact hs2.guestReadDone ..
  · exact hs2.ite (hs2.mergeRefused ..)
  · split
    · split
      · exact hs2.same.sendResp ..
      · exact hs2
    · exact hs2

theorem KeepsPower.guestScuttle : KeepsPower s₀ (guestScuttle s) := by
  unfold Machine.guestScuttle
  extract_lets _ s2
  have hs2 : KeepsPower s₀ s2 := hk.same.scuttle ..
  refine KeepsPower.foldl (fun t _ ht => ?_) _ ?_
  · split
    · exact (ht.forget ..).failDescriptor ..
    · exact ht.guestReadEnd ..
  · exact hs2

end
end Sys2Proof.Machine
end

section
/-! Power supervision: feeds, rails, the guest's supply and the cap (R404–R412). -/

namespace Sys2Proof.Machine

/-! ## Records, and the guest's supply -/

section
variable (s : State)

/-- What a record of power supervision leaves, firmware running or not. -/
@[simp] theorem pwLog_pw (kind unit detail : Nat) : (pwLog s kind unit detail).pw = s.pw := by
  unfold pwLog; split <;> simp

@[simp] theorem pwLog_mem (kind unit detail : Nat) : (pwLog s kind unit detail).mem = s.mem := by
  unfold pwLog; split <;> simp

@[simp] theorem pwLog_guest (kind unit detail : Nat) : (pwLog s kind unit detail).guest = s.guest := by
  unfold pwLog; split <;> simp

@[simp] theorem pwLog_tm (kind unit detail : Nat) : (pwLog s kind unit detail).tm = s.tm := by
  unfold pwLog; split <;> simp

theorem rget_pwLog {x : Nat} (hx : 0x18000 ≤ x) (kind unit detail : Nat) : rget (pwLog s kind unit detail) x = rget s x := by
  unfold pwLog
  split
  · exact rget_logRecord _ hx ..
  · rfl

/-- The switch is set whatever it was, and power supervision stays. -/
theorem guestQuarantine_quar : (guestQuarantine s).guest.quar = true := by
  unfold guestQuarantine
  split
  · assumption
  · have h := (KeepsPower.refl { guestOff s with guest := { (guestOff s).guest with quar := true } }).guestScuttle
    exact ((h.logRecord ..).quar)

theorem guestQuarantine_pw : (guestQuarantine s).pw = s.pw := by
  unfold guestQuarantine
  split
  · rfl
  · have h := (KeepsPower.refl { guestOff s with guest := { (guestOff s).guest with quar := true } }).guestScuttle
    exact (h.logRecord ..).pw

theorem rget_guestQuarantine {x : Nat} (h : 0x18000 ≤ x) (h' : x < 0x20000) : rget (guestQuarantine s) x = rget s x := by
  unfold guestQuarantine
  split
  · rfl
  · have hg := (KeepsPower.refl { guestOff s with guest := { (guestOff s).guest with quar := true } }).guestScuttle
    exact (hg.logRecord ..).reg x h h'

/-- The cut of the guest's supply: of power supervision, its own two fields change. -/
theorem guestCut_pw (reason : Nat) : (guestCut s reason).pw = { s.pw with guestOn := false, guestOver := 0 } := by
  unfold guestCut
  simp only [pwLog_pw]
  split
  · rw [guestQuarantine_pw]; rfl
  · rfl

/-- The switch is set where firmware runs. -/
theorem guestCut_quar (reason : Nat) (hup : hubUp s = true) : (guestCut s reason).guest.quar = true := by
  unfold guestCut
  have h : hubUp (rset (pwMod s fun x => { x with guestOn := false, guestOver := 0 }) (blkPW.reg 0x044) 0) = true := hup
  simp only [h, if_true, pwLog_guest]
  exact guestQuarantine_quar _

/-- PW_GUEST_ON reads 0 from then on. -/
theorem rget_guestCut {s : State} (h : Inv s) (reason : Nat) : rget (guestCut s reason) (blkPW.reg 0x044) = 0 := by
  have hr : rget (rset (pwMod s fun x => { x with guestOn := false, guestOver := 0 }) (blkPW.reg 0x044) 0) (blkPW.reg 0x044) = 0 :=
    rget_rset_self _ _ ((inv_iff s).1 h).regs
  unfold guestCut
  dsimp only
  rw [rget_pwLog _ (by decide)]
  split
  · rw [rget_guestQuarantine _ (by decide) (by decide), hr]
  · exact hr

/-! ## Throttle and cap -/

@[simp] theorem settleLevel_pw : (settleLevel s).pw = s.pw := by
  simp only [settleLevel, apply_ite State.pw, pwLog_pw, cntAdd_pw, ite_self]

@[simp] theorem settleLevel_mem : (settleLevel s).mem = s.mem := by
  simp only [settleLevel, apply_ite State.mem, pwLog_mem, cntAdd_mem, ite_self]

/-- A sample against the cap leaves the guest's supply and what was read. -/
theorem sampleCap_pw (watts : Nat) : let x := (sampleCap s watts).pw
    x.guestOn = s.pw.guestOn ∧ x.guestOver = s.pw.guestOver ∧ x.input = s.pw.input ∧ x.guestPwr = s.pw.guestPwr := by
  simp only [sampleCap]
  generalize (if capWatts s < watts then s.pw.capOver + 1 else 0) = above
  generalize (if 100 * watts < 95 * capWatts s then s.pw.capUnder + 1 else 0) = below
  split
  · simp only [pwLog_pw, pwMod, pwSet, and_self]
  · split <;> simp only [pwMod, pwSet, and_self]

/-- The third sample above the cap engages it; one above it never releases it. -/
theorem sampleCap_of_above {s : State} {watts : Nat} (h : capWatts s < watts) (ho : s.pw.capOver = 2) :
    (sampleCap s watts).pw.capOn = true := by
  have hb : ¬ 100 * watts < 95 * capWatts s := by omega
  cases hc : s.pw.capOn <;> simp [sampleCap, h, ho, hb, hc, pwMod, pwSet]

/-- No sample at the cap or below it engages it. -/
theorem sampleCap_of_le {s : State} {watts : Nat} (h : watts ≤ capWatts s) (hc : s.pw.capOn = false) :
    (sampleCap s watts).pw.capOn = false := by
  simp [sampleCap, Nat.not_lt.2 h, hc, pwSet]

/-- Kind 0x0703 is noted where firmware runs and A carries the load. -/
theorem noteB_of_bad {s : State} (hb : s.pw.bOk = false) (hf : s.pw.feedB = false) (ht : s.pw.bTold = false) :
    (noteB s).pw = { s.pw with bTold := hubUp s } ∧ (noteB s).mem = s.mem := by
  cases hup : hubUp s with
  | false =>
    have hpw : s.pw = { s.pw with bTold := false } := by rw [← ht]
    have hn : noteB s = s := by simp [noteB, hb, hup]
    exact ⟨(congrArg State.pw hn).trans hpw, congrArg State.mem hn⟩
  | true => simp [noteB, hb, hf, ht, hup, pwSet]

/-- A sample against the guest's limit while PW is enabled: the third above it cuts the supply (R411). -/
def overLimit (s : State) : State :=
  let above := if guestLimit < s.pw.guestPwr.toNat then s.pw.guestOver + 1 else 0
  let t := pwMod s fun x => { x with guestOver := min 3 above }
  if t.pw.guestOn && decide (3 ≤ above) then guestCut t 0 else t

/-- Below the limit nothing is cut, and the third sample above it cuts. -/
theorem overLimit_pw : let x := (overLimit s).pw
    x.input = s.pw.input ∧ x.guestPwr = s.pw.guestPwr ∧
    (s.pw.guestPwr.toNat ≤ 750 → x.guestOver = 0 ∧ x.guestOn = s.pw.guestOn) ∧
    (750 < s.pw.guestPwr.toNat → s.pw.guestOver = 2 → x.guestOn = false) := by
  unfold overLimit guestLimit
  by_cases h : 750 < s.pw.guestPwr.toNat
  · simp only [h, if_true, Nat.not_le.2 h, false_imp_iff, true_imp_iff, true_and]
    split
    · rw [guestCut_pw]
      exact ⟨rfl, rfl, fun _ => rfl⟩
    · rename_i hn
      refine ⟨rfl, rfl, fun ho => ?_⟩
      simpa [pwMod, pwSet, ho] using hn
  · simp only [h, if_false, Nat.not_lt.1 h, false_imp_iff, true_imp_iff, and_true]
    rw [if_neg (by simp)]
    exact ⟨rfl, rfl, rfl, rfl⟩

/-- Without a guest above its limit, or one that is on, the cap is what it was. -/
theorem overLimit_cap (h : s.pw.guestPwr.toNat ≤ 750 ∨ s.pw.guestOn = false) : capWatts (overLimit s) = capWatts s ∧
    (overLimit s).pw.capOver = s.pw.capOver ∧ (overLimit s).pw.capOn = s.pw.capOn := by
  unfold overLimit guestLimit
  dsimp only
  rw [if_neg]
  · exact ⟨rfl, rfl, rfl⟩
  · rcases h with h | h
    · simp [Nat.not_lt.2 h]
    · simp [pwMod, pwSet, h]

end

end Sys2Proof.Machine

namespace Sys2Proof.Claims

open Sys2Proof Sys2Proof.Machine

/-- Settles O48, command by command: each changes its fields of power supervision, and a record is written beside where firmware
runs. -/
theorem powerCommands : Obligations.PowerCommands := by
  refine ⟨?_, ?_, ?_, ?_, ?_, ?_, ?_, ?_, ?_, ?_, ?_, ?_, ?_⟩
  · intro va vb s hfed hshare hva hvb
    have hb : (s.pw.feedB && s.pw.sharing.isNone) = false := by
      rcases hshare with h | h
      · rw [h, Bool.false_and]
      · rw [Option.isNone_eq_false_iff.2 (Option.isSome_iff_ne_none.2 h), Bool.and_false]
    have hrun : exec (.feedTransfer va vb) s = .next (pwLog (cntAdd
        (pwSet s { s.pw.feeds va vb with feedB := true, sharing := none, xferAt := s.now }) (blkPW.reg 0x020) 1) 0x0701 0 va.toNat) := by
      simp only [exec, execFeedTransfer, hfed, hb, decide_eq_false (Nat.not_le.2 hva), decide_eq_false (Nat.not_le.2 hvb)]
      rfl
    refine ⟨_, hrun, by simp [pwSet], by simp [pwSet], ?_⟩
    rw [rget_pwLog _ (by decide)]
    exact rget_cntAdd_of_reset _ (by decide +kernel) (by decide)
  · intro va vb micros s hfed hb hshare hva hx
    have hnot : ¬ (va.toNat < 440 ∨ s.now < s.pw.xferAt + 10 ^ 9) := by omega
    simp only [exec, execFeedReturn, hfed, hb, hshare, decide_eq_false hnot]
    rfl
  · intro vb s hfed hf hb hv
    have hnot : feedOk vb = false := by simp only [feedOk, decide_eq_false_iff_not]; omega
    have hrun : exec (.feedBFault vb) s = .next (noteB (pwSet s { s.pw with vb := vb, bOk := false, bTold := false })) := by
      simp only [exec, execFeedBFault, hfed, hf, hb, hnot]
      rfl
    obtain ⟨hpw, hmem⟩ := noteB_of_bad (s := pwSet s { s.pw with vb := vb, bOk := false, bTold := false }) rfl hf rfl
    exact ⟨_, hrun, hpw, hmem⟩
  · intro vb s hfed hf hlo hhi
    have hok : feedOk vb = true := decide_eq_true ⟨hlo, hhi⟩
    simp only [exec, execFeedBRestored, hfed, hf, hok]
    rfl
  · intro k s hfed hk
    have hrun : exec (.converterFault k) s = .next (pwLog (pwSet s { s.pw with convBad := setBit s.pw.convBad k.val true })
        0x070C 0 k.val) := by
      simp only [exec, execConverterFault, hfed, hk]
      rfl
    refine ⟨_, hrun, fun j => ?_, by simp [pwSet]⟩
    simp only [pwLog_pw, pwSet]
    rw [getLsbD_setBit _ _ _ _ j.isLt]
    by_cases h : j = k
    · simp [h]
    · simp [h, Fin.val_ne_of_ne h]
  · intro die s hr hd
    simp only [exec, execVcoreDroop, hr, List.contains_eq_mem, decide_eq_false hd]
    rfl
  · exact fun die s => rfl
  · intro rail mv s hup
    simp only [exec, execRailOutOfTolerance, pwLog, hup, if_true]
  · intro die f s hf hd hup hr hb hlo hhi
    have hfind : (s.launch.forecasts.find? fun g => g.fire == f.fire && g.dies.contains die.val) = some f := by
      rw [hf, List.find?_cons_of_pos (by rw [beq_self_eq_true, hd]; rfl)]
    have hmap : s.launch.forecasts.map (fun x => if x = f then { f with dies := f.dies.erase die.val } else x) =
        [{ f with dies := f.dies.erase die.val }] := by rw [hf, List.map_cons, if_pos rfl, List.map_nil]
    simp only [exec, execRegulatorForecastBoost, hfind]
    have hlo' : f.fire.toNat ≤ s.tide.hub.toNat + boostLead := hlo
    have hhi' : s.tide.hub.toNat < f.fire.toNat + boostHold := hhi
    rw [if_neg (by simp [hup, hr, hb, hlo', hhi'])]
    exact congrArg (fun l => Host.Outcome.next { s with
      pw := { s.pw with boost := (die.val, f.fire) :: s.pw.boost }, launch := { s.launch with forecasts := l } }) hmap
  · intro die s
    refine ⟨_, rfl, rfl, fun b => ?_⟩
    refine List.mem_filter.trans (and_congr_right' ?_)
    rw [Bool.or_eq_true, bne_iff_ne, decide_eq_true_eq]
    rfl
  · intro reason s hg
    have hrun : exec (.guestPowerCut reason) s = .next (guestCut s reason.val) := by
      simp only [exec, execGuestPowerCut, hg, if_true]
    refine ⟨_, hrun, ?_, fun h => rget_guestCut h _, fun hup => guestCut_quar _ _ hup⟩
    rw [guestCut_pw]
  · intro value s hfed hb
    have hrun : exec (.pwGuestOn value) s = .next (rset (pwMod (acceptWrite s blkPW) fun x =>
        { x with guestOn := value.getLsbD 0 && x.rails }) (blkPW.reg 0x044) (value &&& 1)) := by
      simp only [exec, execPwGuestOn, hfed, softWrite_of_not_busy hb]
      rfl
    refine ⟨_, hrun, rfl, fun h => ?_, rfl, rfl⟩
    exact rget_rset_self _ _ ((inv_iff s).1 h).regs
  · intro watts guest s hfed
    have hrun (hen : enabled s blkPW = true) : exec (.powerSample watts guest) s = .next (settleLevel (sampleCap
        (overLimit (pwMod s fun x => { x with input := watts, guestPwr := guest })) watts.toNat)) := by
      simp only [exec, execPowerSample, hfed, show enabled (pwMod s _) blkPW = enabled s blkPW from rfl, hen]
      rfl
    cases hen : enabled s blkPW with
    | false =>
      refine ⟨pwMod s fun x => { x with input := watts, guestPwr := guest }, ?_, rfl, rfl, fun h => Bool.noConfusion h⟩
      simp only [exec, execPowerSample, hfed, show enabled (pwMod s _) blkPW = enabled s blkPW from rfl, hen]
      rfl
    | true =>
      obtain ⟨hin, hpwr, hunder, hcut⟩ := overLimit_pw (pwMod s fun x => { x with input := watts, guestPwr := guest })
      have hcap := overLimit_cap (pwMod s fun x => { x with input := watts, guestPwr := guest })
      generalize overLimit (pwMod s fun x => { x with input := watts, guestPwr := guest }) = u at *
      obtain ⟨hon, hover, hin', hpwr'⟩ := sampleCap_pw u watts.toNat
      refine ⟨_, hrun hen, ?_, ?_, fun _ => ⟨fun hg => ?_, fun hg ho => ?_, fun hg => ⟨fun hc ho => ?_, fun hc hle => ?_⟩⟩⟩ <;>
        rw [settleLevel_pw]
      · exact hin'.trans hin
      · exact hpwr'.trans hpwr
      · obtain ⟨hzero, hkeep⟩ := hunder hg
        exact ⟨hover.trans hzero, hon.trans hkeep⟩
      · exact hon.trans (hcut hg ho)
      · obtain ⟨hw, ho', -⟩ := hcap hg
        exact sampleCap_of_above (hw.trans_lt hc) (ho'.trans ho)
      · obtain ⟨hw, -, hc'⟩ := hcap hg
        exact sampleCap_of_le (hle.trans_eq hw.symm) (hc'.trans hc)

end Sys2Proof.Claims
end

section
/-! Temperature: samples, levels, trips and the restart (R413–R421). -/

namespace Sys2Proof.Machine

/-! ## A sample -/

/-- The temperature that a reading counts as. -/
def readingTemp (ch : Nat) (r : Reading) : Int := match readingOf ch r with
  | .inl t => t
  | .inr _ => faultTemp

section
variable (s : State) (ch : Nat) (r : Reading)

theorem chanGet_chanSet_ne (x : ChanSt) {c : Nat} (h : c ≠ ch) : chanGet (chanSet s ch x) c = chanGet s c := tget_tset_ne _ _ _ h

/-- A channel that has had a sample is not an unlisted one. -/
theorem chanGet_chanSet_self {x : ChanSt} (h : x.last ≠ []) : chanGet (chanSet s ch x) ch = x :=
  tget_tset_of_ne _ _ fun hx => h (by rw [hx])

/-- The state whose channels are set: a new fault is counted and logged. -/
def noteFault : State := match readingOf ch r with
  | .inr 3 => s
  | .inr why => if (chanGet s ch).fault then s else pwLog (cntAdd s (blkTM.reg 0x018) 1) 0x0706 ch (ch + 256 * why)
  | .inl _ => s

theorem noteFault_tm : (noteFault s ch r).tm = s.tm ∧ (noteFault s ch r).mem = s.mem ∧ (noteFault s ch r).pw = s.pw := by
  unfold noteFault
  split
  · exact ⟨rfl, rfl, rfl⟩
  · split
    · exact ⟨rfl, rfl, rfl⟩
    · simp only [pwLog_tm, pwLog_mem, pwLog_pw, cntAdd_tm, cntAdd_mem, cntAdd_pw, and_self]
  · exact ⟨rfl, rfl, rfl⟩

/-- A sample sets its channel alone, which keeps its last three temperatures. -/
theorem sampleChannel_eq : ∃ x : ChanSt, sampleChannel s ch r = chanSet (noteFault s ch r) ch x ∧
    x.last = (readingTemp ch r :: (chanGet s ch).last).take 3 ∧
    x.fault = (if r = .missed then (chanGet s ch).fault else (readingOf ch r).isRight) ∧ x.missed = (r == .missed) := by
  refine ⟨_, rfl, ?_, ?_, ?_⟩
  · exact (apply_ite ChanSt.last ..).trans (ite_self _)
  · exact (apply_ite ChanSt.fault ..).trans (ite_self _)
  · exact (apply_ite ChanSt.missed ..).trans (ite_self _)

theorem chanGet_sampleChannel_self : let x := chanGet (sampleChannel s ch r) ch
    x.last = (readingTemp ch r :: (chanGet s ch).last).take 3 ∧
    x.fault = (if r = .missed then (chanGet s ch).fault else (readingOf ch r).isRight) ∧ x.missed = (r == .missed) := by
  obtain ⟨x, hx, hlast, h⟩ := sampleChannel_eq s ch r
  rw [hx, chanGet_chanSet_self _ _ (by rw [hlast]; exact List.cons_ne_nil _ _)]
  exact ⟨hlast, h⟩

theorem chanGet_sampleChannel_ne {c : Nat} (h : c ≠ ch) : chanGet (sampleChannel s ch r) c = chanGet s c := by
  obtain ⟨x, hx, -⟩ := sampleChannel_eq s ch r
  obtain ⟨htm, -⟩ := noteFault_tm s ch r
  rw [hx, chanGet_chanSet_ne _ _ _ h, chanGet, htm, chanGet]

theorem sampleChannel_frame : (sampleChannel s ch r).mem = s.mem ∧ (sampleChannel s ch r).pw = s.pw := by
  obtain ⟨x, hx, -⟩ := sampleChannel_eq s ch r
  rw [hx]
  exact (noteFault_tm s ch r).2

end

/-- Whether all is cool, and since when. -/
def noteCool (s : State) : State :=
  { s with tm := { s.tm with coolAt := if allCool s then s.tm.coolAt.orElse fun _ => some s.now else none } }

/-- A sample of every channel of a list, each with its reading. -/
def sampleAll (f : Nat → Reading) (l : List Nat) (s : State) : State := l.foldl (fun t c => sampleChannel t c (f c)) s

section
variable (f : Nat → Reading) (l : List Nat) (s : State)

theorem sampleAll_frame : (sampleAll f l s).mem = s.mem ∧ (sampleAll f l s).pw = s.pw := by
  induction l generalizing s with
  | nil => exact ⟨rfl, rfl⟩
  | cons c l ih =>
    obtain ⟨hmem, hpw⟩ := sampleChannel_frame s c (f c)
    obtain ⟨hm, hp⟩ := ih (sampleChannel s c (f c))
    exact ⟨hm.trans hmem, hp.trans hpw⟩

theorem chanGet_sampleAll_of_notMem {c : Nat} (h : c ∉ l) : chanGet (sampleAll f l s) c = chanGet s c := by
  induction l generalizing s with
  | nil => rfl
  | cons d l ih =>
    exact (ih _ fun hc => h (List.mem_cons_of_mem _ hc)).trans
      (chanGet_sampleChannel_ne _ _ _ fun hc => h (hc ▸ List.mem_cons_self))

/-- Each channel of the list takes its own sample. -/
theorem chanGet_sampleAll_of_mem {c : Nat} (hl : l.Nodup) (hc : c ∈ l) : let x := chanGet (sampleAll f l s) c
    x.last = (readingTemp c (f c) :: (chanGet s c).last).take 3 ∧
    x.fault = (if f c = .missed then (chanGet s c).fault else (readingOf c (f c)).isRight) ∧ x.missed = (f c == .missed) := by
  induction l generalizing s with
  | nil => exact absurd hc List.not_mem_nil
  | cons d l ih =>
    obtain ⟨hd, hl⟩ := List.nodup_cons.1 hl
    have hstep : sampleAll f (d :: l) s = sampleAll f l (sampleChannel s d (f d)) := rfl
    rcases List.mem_cons.1 hc with rfl | hc
    · rw [hstep, chanGet_sampleAll_of_notMem _ _ _ hd]
      exact chanGet_sampleChannel_self ..
    · have hne : c ≠ d := fun h => hd (h ▸ hc)
      rw [hstep, ← chanGet_sampleChannel_ne s d (f d) hne]
      exact ih _ hl hc

end

/-- The throttle follows the channels and leaves them. -/
theorem chanGet_settleLevel (s : State) (c : Nat) : chanGet (settleLevel s) c = chanGet s c := by
  unfold settleLevel
  dsimp only
  split
  · rfl
  split
  · rfl
  · rw [chanGet, pwLog_tm]; rfl

/-! ## The level that three samples agree on (R415, R416) -/

/-- The level of one temperature: the highest whose threshold it reaches. -/
def levelAt (ch : Nat) (t : Int) : Nat :=
  let h := thresholds ch
  if 4 * (h.2.2.1 : Int) ≤ t then 3 else if 4 * (h.2.1 : Int) ≤ t then 2 else if 4 * (h.1 : Int) ≤ t then 1 else 0

theorem levelAt_le (ch : Nat) (t : Int) : levelAt ch t ≤ 3 := by
  unfold levelAt
  dsimp only
  split
  · exact le_rfl
  split
  · decide
  split <;> decide

/-- The thresholds of a channel rise. -/
theorem thresholds_lt (ch : Nat) : (thresholds ch).1 < (thresholds ch).2.1 ∧ (thresholds ch).2.1 < (thresholds ch).2.2.1 := by
  unfold thresholds
  repeat' split
  all_goals decide

theorem supports_eq (ch : Nat) (t less : Int) : supports ch t less = levelAt ch (t + less) := by
  obtain ⟨h12, h23⟩ := thresholds_lt ch
  have hle (x : Nat) : (4 * (x : Int) - less ≤ t) ↔ 4 * (x : Int) ≤ t + less := by omega
  unfold supports levelAt
  simp only [List.filter_cons, List.filter_nil, decide_eq_true_eq, hle]
  by_cases h3 : 4 * ((thresholds ch).2.2.1 : Int) ≤ t + less
  · have h2 : 4 * ((thresholds ch).2.1 : Int) ≤ t + less := by omega
    have h1 : 4 * ((thresholds ch).1 : Int) ≤ t + less := by omega
    simp [h1, h2, h3]
  by_cases h2 : 4 * ((thresholds ch).2.1 : Int) ≤ t + less
  · have h1 : 4 * ((thresholds ch).1 : Int) ≤ t + less := by omega
    simp [h1, h2, h3]
  · by_cases h1 : 4 * ((thresholds ch).1 : Int) ≤ t + less <;> simp [h1, h2, h3]

/-- A rise to the lowest level of three samples, or a fall to the highest of those 3 °C above. -/
theorem agreedLevel_eq (ch level : Nat) (a b c : Int) : agreedLevel ch level [a, b, c] =
    let up := min (levelAt ch a) (min (levelAt ch b) (levelAt ch c))
    let down := max (levelAt ch (a + 12)) (max (levelAt ch (b + 12)) (levelAt ch (c + 12)))
    if level < up then up else if down < level then down else level := by
  have hup : min (min (min 3 (levelAt ch a)) (levelAt ch b)) (levelAt ch c) = min (levelAt ch a) (min (levelAt ch b) (levelAt ch c)) := by
    rw [Nat.min_eq_right (levelAt_le ch a), Nat.min_assoc]
  have hdown : max (max (max 0 (levelAt ch (a + 12))) (levelAt ch (b + 12))) (levelAt ch (c + 12)) =
      max (levelAt ch (a + 12)) (max (levelAt ch (b + 12)) (levelAt ch (c + 12))) := by
    rw [Nat.zero_max, Nat.max_assoc]
  simp only [agreedLevel, List.foldl_cons, List.foldl_nil, supports_eq, Int.add_zero, hup, hdown]
  rfl

/-! ## Trips -/

/-- A latched cause changes a register. -/
theorem latchCause_eq (s : State) (cause ch : Nat) : latchCause s cause ch = { s with regs := (latchCause s cause ch).regs } := by
  unfold latchCause logCapture
  split <;> rfl

/-- A module reset, as a change of the state that it keeps. -/
theorem moduleReset_eq (s : State) (mode : PowerMode) (step3 : Bool) (cause ch : Nat) : moduleReset s mode step3 cause ch =
    { keepAlwaysOn s with
      regs := (latchCause (keepAlwaysOn s) cause ch).regs
      pw := { s.pw.down with
        mode := mode, fromStep3 := step3, cause := cause, startAt := s.now
        offAt := if mode = .brownOut then brownTimes s.now [] else offTimes s.now }
      sec := if mode = .starting then s.sec.kept.begin else s.sec.kept } := by
  unfold moduleReset
  rw [latchCause_eq]
  rfl

/-- A trip: the module goes into the trip sequence, and the trip is counted and remembered. -/
def tripped (s : State) (ch : Nat) : State :=
  let t := pwMod (cntAdd (moduleReset s .tripped false 2 ch) (blkPW.reg 0x030) 1) fun x =>
    { x with trips := s.now :: tripsInHour s, tripCh := ch, latched := decide (3 ≤ (s.now :: tripsInHour s).length) }
  { t with tm := { t.tm with coolAt := none } }

section
variable {s : State}

/-- The guest's channel cuts the guest's supply, and each other one trips the module. -/
theorem thermalTrip_of_over {ch : Fin 68} (hp : hubPowered s = true) (ho : overTrip s ch.val = true) :
    exec (.thermalTrip ch) s =
      if ch.val = 47 then .next (if s.pw.guestOn || !s.guest.quar then guestCut s 2 else s) else .next (tripped s ch.val) := by
  simp only [exec, execThermalTrip, hp, ho]
  rfl

theorem thermalRestart_of_cool {t : Nat} (hc : s.tm.coolAt = some t) (hm : s.pw.mode = .tripped) (hl : s.pw.latched = false)
    (ht : t + 30000000000 ≤ s.now) :
    exec .thermalRestart s = .next (startAgain (if s.pw.cause = 3 then latchCause s 3 0 else s) s.pw.cause) := by
  have hnow : ¬ s.now < t + coolTime := Nat.not_lt.2 ht
  simp only [exec, execThermalRestart, hc, hm, hl, decide_eq_false hnow]
  rfl

end

end Sys2Proof.Machine

namespace Sys2Proof.Claims

open Sys2Proof Sys2Proof.Machine

/-- Settles O49: each channel's sample by induction over the channels, the level by the rising thresholds, and the trip by what a
reset keeps. -/
theorem thermalCommands : Obligations.ThermalCommands := by
  refine ⟨?_, ?_, ?_, ?_, ?_, ?_⟩
  · intro readings s hlen hfed
    have hget (ch : Fin 68) : readings.getD ch.val .missed = readings.getD ch.val .open := by
      have h : ch.val < readings.length := ch.isLt.trans_eq hlen.symm
      rw [List.getD_eq_getElem _ _ h, List.getD_eq_getElem _ _ h]
    obtain ⟨hmem, hpw⟩ := sampleAll_frame (fun c => readings.getD c .missed) channels s
    have hch (ch : Fin 68) := chanGet_sampleAll_of_mem (fun c => readings.getD c .missed) channels s List.nodup_range
      (List.mem_range.2 ch.isLt)
    have hrun : exec (.thermalSample readings) s = .next (settleLevel (noteCool (sampleAll (fun c => readings.getD c .missed) channels s))) := by
      simp only [exec, execThermalSample, hfed]
      rfl
    generalize sampleAll (fun c => readings.getD c .missed) channels s = u at *
    simp only [hget] at hch
    refine ⟨_, hrun, fun ch => ?_, fun ch => ?_, fun ch => ?_, ?_, ?_⟩
    · rw [chanGet_settleLevel]; exact (hch ch).1
    · rw [chanGet_settleLevel]; exact (hch ch).2.1
    · rw [chanGet_settleLevel]; exact (hch ch).2.2
    · rw [settleLevel_mem]; exact hmem
    · rw [settleLevel_pw]; exact congrArg PwSt.mode hpw
  · intro ch level a b c _ h lv
    rw [agreedLevel_eq]
    exact ⟨fun hup => if_pos hup, fun hle hdown => (if_neg (Nat.not_lt.2 hle)).trans (if_pos hdown)⟩
  · intro ch s h47 hp ho
    refine ⟨tripped s ch.val, (thermalTrip_of_over hp ho).trans (if_neg h47), ?_⟩
    simp only [tripped, moduleReset_eq]
    refine ⟨rfl, rfl, rfl, rfl, rfl, ?_, rfl, rfl, rfl⟩
    exact decide_eq_decide.2 Nat.succ_le_succ_iff
  · intro s hp ho hg
    refine (thermalTrip_of_over (ch := 47) hp ho).trans ((if_pos rfl).trans ?_)
    rw [if_pos (by rcases hg with h | h <;> simp [h])]
  · intro s t hc hm hl ht
    refine ⟨_, thermalRestart_of_cool hc hm hl ht, rfl, rfl, rfl⟩
  · intro value s hfed hb hv hl
    have hrest : ¬ (!value.getLsbD 0 || !(acceptWrite s blkPW).pw.latched) = true := by simp [hv, hl]
    simp only [exec, execPwLatchClr, hfed, softWrite_of_not_busy hb, if_neg hrest]
    rfl

end Sys2Proof.Claims
end

section
/-! Resets: where each leads and what it keeps (R407, R427, R428, R491–R495). -/

namespace Sys2Proof.Machine

/-- A key that a filter keeps reads as before. -/
theorem tget_filter_key {β : Type} {p : Nat → Bool} {k : Nat} (hk : p k = true) (m : Tbl β) (d : β) :
    tget (m.filter fun e => p e.1) k d = tget m k d := by
  induction m with
  | nil => rfl
  | cons e m ih =>
    rw [List.filter_cons]
    by_cases he : e.1 = k
    · rw [if_pos (he.symm ▸ hk)]
      simp only [tget, he, if_true]
    · split <;> simp only [tget, he, if_false, ih]

/-- A LOG word with VALID 0 takes the value, whatever the table of registers. -/
theorem rget_logCapture_of_reset {s : State} {off : Nat} (v : Word) (h : regReset off = 0) (hv : rget s off &&& validBit = 0) :
    rget (logCapture s off v) off = v ||| validBit := by
  have hne : v ||| validBit ≠ regReset off := by
    rw [h]
    intro hz
    have : (v ||| validBit).getLsbD 31 = (0 : Word).getLsbD 31 := by rw [hz]
    rw [BitVec.getLsbD_or, show validBit.getLsbD 31 = true from by decide, Bool.or_true] at this
    exact Bool.noConfusion this
  unfold logCapture
  rw [if_pos hv]
  exact tget_tset_of_ne _ _ hne

/-- A register of the always-on domain stays, but for PW_GUEST_ON. -/
theorem rget_keepAlwaysOn (s : State) {x : Nat} (h : alwaysOn x = true) (hx : x ≠ blkPW.reg 0x044) :
    rget (keepAlwaysOn s) x = rget s x :=
  (tget_terase_ne _ _ hx).trans (tget_filter_key h _ _)

section
variable (s : State) (mode : PowerMode) (step3 : Bool) (cause ch : Nat)

/-- PW_RESET_CAUSE latches the first cause. -/
theorem rget_moduleReset_cause : let t := moduleReset s mode step3 cause ch
    (rget s (blkPW.reg 0x02C) &&& validBit = 0 → rget t (blkPW.reg 0x02C) = fields 32 [(4, cause), (4, 0), (7, ch)] ||| validBit) ∧
    (rget s (blkPW.reg 0x02C) &&& validBit ≠ 0 → rget t (blkPW.reg 0x02C) = rget s (blkPW.reg 0x02C)) := by
  have hk : rget (keepAlwaysOn s) (blkPW.reg 0x02C) = rget s (blkPW.reg 0x02C) := rget_keepAlwaysOn s (by decide) (by decide)
  have ht : rget (moduleReset s mode step3 cause ch) (blkPW.reg 0x02C) = rget (latchCause (keepAlwaysOn s) cause ch) (blkPW.reg 0x02C) := rfl
  dsimp only
  rw [ht, ← hk]
  exact ⟨rget_logCapture_of_reset _ (by decide +kernel), fun hv => by rw [latchCause, logCapture_held _ _ hv]⟩

end

/-- Both feeds were absent: everything but the fuses and the NOR is lost. -/
def coldState (s : State) : State :=
  latchCause { State.reset with
    pending := s.pending, out := s.out, freeCtr := s.freeCtr, now := s.now, sec := s.sec.fuses, nor := s.nor } 0 0

section
variable {s : State} {va vb : BitVec 10} (hv : 440 ≤ va.toNat ∨ 440 ≤ vb.toNat)
include hv

theorem not_bothLow : ¬ (decide (va.toNat < 440) && decide (vb.toNat < 440)) = true := by
  rw [Bool.and_eq_true, decide_eq_true_eq, decide_eq_true_eq]; omega

/-- A feed has qualified after both were absent, or with the module off. -/
theorem powerOn_of_absent {absent : Bool} (h : absent = true ∨ s.pw.mode = .off) : exec (.powerOn absent va vb) s =
    .next (startAgain (pwSet (coldState s) { (coldState s).pw.feeds va vb with feedB := decide (va.toNat < 440), xferAt := s.now }) 0) := by
  have hc : (absent || s.pw.mode == .off) = true := by rcases h with h | h <;> simp [h]
  simp only [exec, execPowerOn, if_neg (not_bothLow hv), hc, if_true]
  rfl

theorem powerOn_of_brownOut (h : s.pw.mode = .brownOut) : exec (.powerOn false va vb) s =
    .next (startAgain (pwSet s { s.pw.feeds va vb with feedB := decide (va.toNat < 440), sharing := none, xferAt := s.now }) s.pw.cause) := by
  simp only [exec, execPowerOn, if_neg (not_bothLow hv), h]
  rfl

end

end Sys2Proof.Machine

namespace Sys2Proof.Claims

open Sys2Proof Sys2Proof.Machine

/-- Settles O50, trigger by trigger, by what `moduleReset` keeps of the state. -/
theorem resets : Obligations.Resets := by
  refine ⟨?_, ?_, ?_, ?_, ?_, ?_, ?_, ?_, ?_, ?_⟩
  · intro s mode step3 cause ch
    have hcause := rget_moduleReset_cause s mode step3 cause ch
    intro t
    have ht : t = _ := moduleReset_eq s mode step3 cause ch
    rw [show moduleReset s mode step3 cause ch = t from rfl] at hcause
    clear_value t
    subst ht
    cases mode <;> exact ⟨rfl, rfl, rfl, rfl, rfl, rfl, rfl, rfl, rfl, rfl, rfl, rfl, rfl, rfl, rfl, rfl, rfl, rfl, rfl, rfl, rfl, rfl, rfl,
      rfl, rfl, rfl, rfl, rfl, rfl, rfl, rfl, hcause⟩
  · intro s hp
    simp only [exec, execBrownOut, hp, if_true]
  · intro s hp ht
    simp only [exec, execBrownOut, hp, ht]
    rfl
  · intro s hup
    simp only [exec, execHubReset, hup, if_true, hubResets]
  · intro low s hlow hp
    simp only [exec, execResetN, hlow, hp, and_self, if_true, hubResets]
  · intro low s hlow
    simp only [exec, execResetN, Nat.not_le.2 hlow, false_and, if_false]
  · intro gap s hgap hp
    simp only [exec, execReferenceLost, hgap, hp, and_self, if_true, hubResets]
  · intro absent va vb s hv h
    refine ⟨_, powerOn_of_absent hv h, ?_⟩
    rw [coldState, latchCause_eq]
    exact ⟨rfl, rfl, rfl, rfl, rfl, rfl, rfl, rfl, rfl, rfl, rfl⟩
  · intro va vb s hv hm
    exact ⟨_, powerOn_of_brownOut hv hm, rfl, rfl, rfl, rfl, rfl⟩
  · intro s hm ht
    simp only [exec, execV1p8Retry, hm, decide_eq_false (Nat.not_lt.2 ht)]
    rfl

end Sys2Proof.Claims
end

section
/-! Start-up, stage by stage (R429–R437). -/

namespace Sys2Proof.Machine

/-! ## Images (R434–R437) -/

/-- An image passes where no step of R435 fails. -/
theorem imageStep_eq_zero (x : SecSt) (b : List Byte) : imageStep x b = 0 ↔
    imageHeader b = true ∧ x.vRevoked.getLsbD (imageVendor b) = false ∧ vendorKnown b = true ∧
    ecdsaGood ((vendorRecord b).take 96) b (imageSigned b) = true ∧ hssGood ((vendorRecord b).drop 96) b (imageSigned b) = true ∧
    x.svn ≤ imageSvn b := by
  unfold imageStep
  cases imageHeader b with
  | false => simp
  | true =>
    cases x.vRevoked.getLsbD (imageVendor b) with
    | true => simp
    | false =>
      cases vendorKnown b with
      | false => simp
      | true =>
        cases ecdsaGood ((vendorRecord b).take 96) b (imageSigned b) with
        | false => simp
        | true => cases hssGood ((vendorRecord b).drop 96) b (imageSigned b) <;> simp

section
variable (x : SecSt)

theorem trySlots_cons_of_zero {i : Nat} {g : List Byte} (h : imageStep x g = 0) (r : List (Nat × List Byte)) :
    trySlots x ((i, g) :: r) = (some (i, g), []) := by
  simp only [trySlots, h]

theorem trySlots_cons_of_ne {i : Nat} {g : List Byte} (h : imageStep x g ≠ 0) (r : List (Nat × List Byte)) :
    trySlots x ((i, g) :: r) = ((trySlots x r).1, (i, imageStep x g) :: (trySlots x r).2) := by
  rw [trySlots]
  split
  · exact absurd ‹_› h
  · rfl

theorem trySlots_nil : trySlots x [] = (none, []) := rfl

variable (n : NorSt)

/-- With both slots bad, none starts. -/
theorem trySlots_none (h0 : imageStep x n.fw0 ≠ 0) (h1 : imageStep x n.fw1 ≠ 0) : (trySlots x (tryOrder n)).1 = none := by
  unfold tryOrder
  split
  · rw [trySlots_cons_of_ne x h1, trySlots_cons_of_ne x h0, trySlots_nil]
  · rw [trySlots_cons_of_ne x h0, trySlots_cons_of_ne x h1, trySlots_nil]

/-- With one slot good, one starts. -/
theorem trySlots_some (h : imageStep x n.fw0 = 0 ∨ imageStep x n.fw1 = 0) : ∃ e, (trySlots x (tryOrder n)).1 = some e := by
  unfold tryOrder
  by_cases h0 : imageStep x n.fw0 = 0 <;> by_cases h1 : imageStep x n.fw1 = 0
  · split
    · exact ⟨_, by rw [trySlots_cons_of_zero x h1]⟩
    · exact ⟨_, by rw [trySlots_cons_of_zero x h0]⟩
  · split
    · exact ⟨_, by rw [trySlots_cons_of_ne x h1, trySlots_cons_of_zero x h0]⟩
    · exact ⟨_, by rw [trySlots_cons_of_zero x h0]⟩
  · split
    · exact ⟨_, by rw [trySlots_cons_of_zero x h1]⟩
    · exact ⟨_, by rw [trySlots_cons_of_ne x h0, trySlots_cons_of_zero x h1]⟩
  · exact absurd h (not_or.2 ⟨h0, h1⟩)

/-- The slot that starts is the one that verifies, and of two the one with the higher VERSION. -/
theorem trySlots_eq {i : Nat} {g : List Byte} (hg : imageStep x g = 0)
    (h : i = 1 ∧ g = n.fw1 ∧ (imageVersion (erased n.fw0 64) < imageVersion (erased n.fw1 64) ∨ imageStep x n.fw0 ≠ 0) ∨
      i = 0 ∧ g = n.fw0 ∧ (imageVersion (erased n.fw1 64) ≤ imageVersion (erased n.fw0 64) ∨ imageStep x n.fw1 ≠ 0)) :
    (trySlots x (tryOrder n)).1 = some (i, g) := by
  unfold tryOrder
  rcases h with ⟨rfl, rfl, h⟩ | ⟨rfl, rfl, h⟩
  · split
    · rw [trySlots_cons_of_zero x hg]
    · have h0 : imageStep x n.fw0 ≠ 0 := h.resolve_left ‹_›
      rw [trySlots_cons_of_ne x h0, trySlots_cons_of_zero x hg]
  · split
    · have h1 : imageStep x n.fw1 ≠ 0 := h.resolve_left (Nat.not_le.2 ‹_›)
      rw [trySlots_cons_of_ne x h1, trySlots_cons_of_zero x hg]
    · rw [trySlots_cons_of_zero x hg]

end

/-! ## Failures (R431) -/

section
variable (s : State) (code stage : Nat)

/-- A failure notes itself in SB, and in the log where firmware runs. -/
theorem bootFails_frame : let t := bootFails s code stage
    t.pw = s.pw ∧ t.mem = s.mem ∧ t.nor = s.nor ∧
    t.sec = { s.sec with code := t.sec.code, failures := t.sec.failures } ∧ (s.sec.code = 0 → t.sec.code = code) := by
  have hcode : secMod s (fun x => if x.code = 0 then { x with code := code } else x) =
      secMod s fun x => { x with code := if x.code = 0 then code else x.code } := by
    simp only [secMod]
    split <;> rfl
  have hlisted (x : SecSt) : (if x.failures.contains (code, stage) then x else { x with failures := x.failures ++ [(code, stage)] }) =
      { x with failures := if x.failures.contains (code, stage) then x.failures else x.failures ++ [(code, stage)] } := by
    split <;> rfl
  unfold bootFails
  dsimp only
  rw [hcode]
  simp only [hlisted]
  split
  · simp only [secLog, logRecord_pw, logRecord_mem, logRecord_nor, logRecord_sec]
    exact ⟨rfl, rfl, rfl, rfl, fun h => if_pos h⟩
  · exact ⟨rfl, rfl, rfl, rfl, fun h => if_pos h⟩

theorem bootFails_stage : (bootFails s code stage).sec.stage = s.sec.stage := by
  obtain ⟨-, -, -, h, -⟩ := bootFails_frame s code stage
  rw [h]

end

/-! ## The stages -/

section
variable {b : Boot} {s : State}

/-- Stage 1 with V1P8 missing. -/
theorem endRails_of_noRail (h3 : s.pw.fromStep3 = false) (hm : s.pw.mode = .starting) (hv : b.v1p8Ok = false) :
    endRails b s = pwMod (bootFails s 0x01 1) fun x => { x with mode := .retry, retryAt := s.now + 10 ^ 10 } := by
  simp [endRails, h3, hm, hv]

theorem railsStand (h : s.pw.fromStep3 = true ∨ b.v1p8Ok = true) :
    ¬ (!s.pw.fromStep3 && s.pw.mode == .starting && !b.v1p8Ok) = true := by
  rcases h with h | h <;> simp [h]

/-- Stage 1 with a PLL that does not lock. -/
theorem endRails_of_noPll (h : s.pw.fromStep3 = true ∨ b.v1p8Ok = true) (hp : b.pllOk = false) :
    endRails b s = pwMod (bootFails s 0x02 1) fun x => { x with mode := .pllWait } := by
  rw [endRails, if_neg (railsStand h), if_pos (by simp [hp])]

/-- Stage 1 ends, with nothing new found in the NOR. -/
theorem endRails_of_ok (h : s.pw.fromStep3 = true ∨ b.v1p8Ok = true) (hp : b.pllOk = true) (hn : b.norFound = []) :
    endRails b s = atStage (pwMod (startHalves s b) fun x => { x with mode := .starting }) 2 := by
  rw [endRails, if_neg (railsStand h), if_neg (by simp [hp]), hn]
  rfl

/-- The ROM finds no NOR. -/
theorem endRom_of_norBad (hn : b.norOk = false) : endRom b s = enterRecovery (secMod s fun x => { x with norBad := true }) b 3 := by
  simp [endRom, hn]

/-- The state in which the ROM has tried the slots of a NOR that it can read. -/
def slotsTried (s : State) : State :=
  let l := (trySlots s.sec (tryOrder s.nor)).2
  cntAdd (secMod s fun x => { x with norBad := false, rejects := l }) (blkSB.reg 0x064) l.length

theorem slotsTried_frame (s : State) : (slotsTried s).sec.stage = s.sec.stage ∧ (slotsTried s).mem = s.mem ∧
    (slotsTried s).sec.code = s.sec.code := by
  simp only [slotsTried, cntAdd_sec, cntAdd_mem, secMod, secSet, and_self]

/-- The step of an image depends on the fuses alone. -/
theorem imageStep_congr {x y : SecSt} (hr : x.vRevoked = y.vRevoked) (hv : x.svn = y.svn) : imageStep x = imageStep y := by
  funext b
  simp only [imageStep, hr, hv]

theorem trySlots_congr {x y : SecSt} (hr : x.vRevoked = y.vRevoked) (hv : x.svn = y.svn) (l : List (Nat × List Byte)) :
    trySlots x l = trySlots y l := by
  have h := imageStep_congr hr hv
  induction l with
  | nil => rfl
  | cons e l ih => simp only [trySlots, h, ih]

theorem endRom_of_norOk (hn : b.norOk = true) : endRom b s = match (trySlots s.sec (tryOrder s.nor)).1 with
    | none => enterRecovery (slotsTried s) b 4
    | some (i, g) => startFirmware (secMod (slotsTried s) fun x => { x with slotUsed := i == 1 }) g := by
  have ht : trySlots (secMod s fun x => { x with norBad := false }).sec (tryOrder s.nor) = trySlots s.sec (tryOrder s.nor) :=
    trySlots_congr (by rfl) (by rfl) _
  simp only [endRom, hn, Bool.not_true, Bool.false_eq_true, if_false]
  rw [show (secMod s fun x => { x with norBad := false }).nor = s.nor from rfl, ht]
  rfl

/-- The ROM waits: recovery keeps the stage. -/
theorem enterRecovery_frame (s : State) (b : Boot) (code : Nat) : let t := enterRecovery s b code
    t.pw.mode = .recovery ∧ t.sec.recovery = true ∧ t.sec.resume = some b ∧ t.sec.stage = s.sec.stage ∧ t.mem = s.mem ∧
    (s.sec.code = 0 → t.sec.code = code) := by
  obtain ⟨-, hmem, -, hsec, hcode⟩ := bootFails_frame s code 2
  refine ⟨rfl, rfl, rfl, ?_, hmem, hcode⟩
  exact bootFails_stage ..

/-- The ROM enters recovery where it finds no NOR, or no slot that verifies. -/
theorem endRom_recovers {b : Boot} {s : State} (h : b.norOk = false ∨ imageStep s.sec s.nor.fw0 ≠ 0 ∧ imageStep s.sec s.nor.fw1 ≠ 0) :
    let t := endRom b s
    t.pw.mode = .recovery ∧ t.sec.recovery = true ∧ t.sec.resume = some b ∧ t.sec.stage = s.sec.stage ∧ t.mem = s.mem ∧
    (s.sec.code = 0 → t.sec.code = if b.norOk then 4 else 3) := by
  cases hnor : b.norOk with
  | false =>
    rw [endRom_of_norBad hnor]
    exact enterRecovery_frame (secMod s fun x => { x with norBad := true }) b 3
  | true =>
    obtain ⟨h0, h1⟩ := h.resolve_left (by rw [hnor]; exact Bool.noConfusion)
    have hrom : endRom b s = enterRecovery (slotsTried s) b 4 :=
      (endRom_of_norOk hnor).trans (by rw [trySlots_none s.sec s.nor h0 h1])
    obtain ⟨hmode, hrec, hres, hstage, hmem, hcode⟩ := enterRecovery_frame (slotsTried s) b 4
    obtain ⟨hstage', hmem', hcode'⟩ := slotsTried_frame s
    rw [hrom]
    exact ⟨hmode, hrec, hres, hstage.trans hstage', hmem.trans hmem', fun hc => hcode (hcode'.trans hc)⟩

/-! ## The end of start-up -/

theorem enableTide_frame (s : State) : (enableTide s).sec = s.sec ∧ (enableTide s).pw = s.pw := by
  unfold enableTide
  exact ⟨(apply_ite State.sec ..).trans (ite_self _), (apply_ite State.pw ..).trans (ite_self _)⟩

/-- Enabling the tide leaves SB and power supervision. -/
theorem enableBlock_td_frame (s : State) : (enableBlock s blkTD).sec = s.sec ∧ (enableBlock s blkTD).pw = s.pw := by
  unfold enableBlock
  split
  · refine ⟨(enableTide_frame _).1.trans ?_, (enableTide_frame _).2.trans ?_⟩
    · simp [blkTD, apply_ite State.sec]
    · simp [blkTD, apply_ite State.pw]
  · simp [blkTD]

/-- The end of the sequence: the module runs, and SB_BOOT_STAT is complete. -/
theorem finishStart_frame (s : State) (b : Boot) (millis : Nat) : let t := finishStart s b millis
    t.pw.mode = .running ∧ t.sec = { s.sec with stage := 8, done := true, bootTime := millis, resume := none } := by
  have hrole (u : State) (w : Word) : (setRole u w).sec = u.sec := (apply_ite State.sec ..).trans (ite_self _)
  have hset (u : State) (w : Word) : (enableBlock (setRole u w) blkTD).sec = u.sec := (enableBlock_td_frame _).1.trans (hrole u w)
  refine ⟨rfl, ?_⟩
  unfold finishStart
  dsimp only [secMod, secSet, pwMod, pwSet]
  rw [hset]
  split
  · split
    · rw [rset64_sec]
    · rfl
  · rfl

/-! ## Stages in turn -/

/-- A stage that ends gives way to the next. -/
theorem runStages_succ_of_ends {b : Boot} {s : State} (n : Nat) (hu : s.sec.stage < b.upTo.val)
    (ht : (endStage b s).sec.stage ≠ s.sec.stage) : runStages b (n + 1) s = runStages b n (endStage b s) := by
  rw [runStages, if_neg (Nat.not_le.2 hu), if_neg ht]

/-- A stage that does not end stops the sequence. -/
theorem runStages_succ_of_stays {b : Boot} {s : State} (n : Nat) (hu : s.sec.stage < b.upTo.val)
    (ht : (endStage b s).sec.stage = s.sec.stage) : runStages b (n + 1) s = endStage b s := by
  rw [runStages, if_neg (Nat.not_le.2 hu), if_pos ht]

/-- The sequence has come as far as it shall. -/
theorem runStages_of_done {b : Boot} {s : State} (n : Nat) (hu : b.upTo.val ≤ s.sec.stage) : runStages b n s = s := by
  cases n with
  | zero => rfl
  | succ n => rw [runStages, if_pos hu]

/-- Each of the stages 3 to 6 ends. -/
theorem endStage_middle (b : Boot) (s : State) (h : 3 ≤ s.sec.stage) (h' : s.sec.stage ≤ 6) :
    (endStage b s).sec.stage = s.sec.stage + 1 := by
  obtain hst | hst | hst | hst : s.sec.stage = 3 ∨ s.sec.stage = 4 ∨ s.sec.stage = 5 ∨ s.sec.stage = 6 := by omega
  all_goals
    unfold endStage
    rw [hst]
    rfl

theorem endStage_of_one (b : Boot) (s : State) (h : s.sec.stage = 1) : endStage b s = endRails b s := by
  simp only [endStage, h]

theorem endStage_of_two (b : Boot) (s : State) (h : s.sec.stage = 2) (hm : s.pw.mode ≠ .recovery) : endStage b s = endRom b s := by
  unfold endStage
  rw [h]
  exact if_neg (by simpa using hm)

theorem endStage_of_seven (b : Boot) (s : State) (h : s.sec.stage = 7) : endStage b s =
    if b.millis.toNat ≤ startLimit then finishStart s b b.millis.toNat else secMod s fun x => { x with resume := some b } := by
  simp only [endStage, h]

/-- Stages 3 to 7 in time: the module runs. -/
theorem runStages_running (b : Boot) (hu : b.upTo = 8) (hms : b.millis.toNat ≤ 90000) {k : Nat} {s : State} (hk : k ≤ 4)
    (hs : s.sec.stage = 7 - k) : let t := runStages b (k + 2) s
    t.pw.mode = .running ∧ t.sec.stage = 8 ∧ t.sec.done = true ∧ t.sec.resume = none := by
  have hup : b.upTo.val = 8 := congrArg Fin.val hu
  induction k generalizing s with
  | zero =>
    obtain ⟨hmode, hsec⟩ := finishStart_frame s b b.millis.toNat
    have hend : endStage b s = finishStart s b b.millis.toNat := (endStage_of_seven b s hs).trans (if_pos hms)
    have hstage : (endStage b s).sec.stage = 8 := by rw [hend, hsec]
    dsimp only
    rw [runStages_succ_of_ends _ (by omega) (by omega), runStages_of_done _ (by omega), hend, hsec]
    exact ⟨hmode, rfl, rfl, rfl⟩
  | succ k ih =>
    have hstage : (endStage b s).sec.stage = s.sec.stage + 1 := endStage_middle b s (by omega) (by omega)
    dsimp only
    rw [runStages_succ_of_ends _ (by omega) (by omega)]
    exact ih (by omega) (by omega)

/-- START_UP runs the stages from where the sequence stands. -/
theorem startUp_eq {b : Boot} {s : State} (hm : s.pw.mode = .starting) :
    exec (.startUp b) s = .next (runStages b 8 (pwMod s fun x => x.feeds b.va b.vb)) := by
  have : startsUp s = true := by simp [startsUp, hm]
  simp only [exec, execStartUp, this]
  rfl

/-! ## The installation record -/

/-- Registers written in turn leave the rest of the state. -/
theorem foldl_rset_frame {α : Type} (o : α → Nat) (v : α → Word) (l : List α) (s : State) :
    (l.foldl (fun t e => rset t (o e) (v e)) s).sec = s.sec ∧ (l.foldl (fun t e => rset t (o e) (v e)) s).hm = s.hm := by
  induction l generalizing s with
  | nil => exact ⟨rfl, rfl⟩
  | cons e l ih => exact ih (rset s (o e) (v e))

/-- PL takes its words from the record; the boot map and the record in use stay. -/
theorem configPilot_frame (s : State) (b : List Byte) : (configPilot s b).sec = s.sec ∧ (configPilot s b).hm = s.hm := by
  have hjumbo (old u : State) : (jumboChange old u).sec = u.sec ∧ (jumboChange old u).hm = u.hm := by
    unfold jumboChange; split <;> exact ⟨rfl, rfl⟩
  have henable (u : State) : (enableBlock u blkPL).sec = u.sec ∧ (enableBlock u blkPL).hm = u.hm := by
    unfold enableBlock
    split
    · simp [enableEffect, blkPL, apply_ite State.sec, apply_ite State.hm]
    · simp [blkPL]
  unfold configPilot
  extract_lets w old u v
  have hv : v.sec = s.sec ∧ v.hm = s.hm := by
    obtain ⟨hsec, hhm⟩ := hjumbo old _
    obtain ⟨hsec', hhm'⟩ := foldl_rset_frame _ _ _ u
    exact ⟨hsec.trans hsec', hhm.trans hhm'⟩
  exact ⟨(henable v).1.trans hv.1, (henable v).2.trans hv.2⟩

theorem copiesLog_sec (s : State) (ty slot : Nat) (a b : Bool) : (copiesLog s ty slot a b).sec = s.sec := by
  simp only [copiesLog, apply_ite State.sec, logRecord_sec, ite_self]

theorem loadInst_of_some {s : State} {r : InstCopy} (hn : s.sec.norBad = false) (hi : instInUse s.sec = some r) :
    (loadInst s).sec.inst = some r ∧ (loadInst s).pl.ptp = some (ptpOf r.body) ∧ (loadInst s).hm.boot = some (bootChart r.body) := by
  have hload : loadInst s = useInst (copiesLog s 0x10 0 s.sec.copy0.valid s.sec.copy1.valid) r := by
    simp only [loadInst, hn, copiesLog_sec, Bool.not_false, Bool.true_and, if_true, hi]
  rw [hload]
  refine ⟨?_, rfl, ?_⟩
  · exact congrArg SecSt.inst (configPilot_frame _ _).1
  · exact congrArg HmSt.boot (configPilot_frame _ _).2

/-- The start-up that begins: the state that START_UP runs the stages on. -/
def feedsRead (b : Boot) (s : State) : State := pwMod s fun x => x.feeds b.va b.vb

section
variable {b : Boot} {s : State} (hm : s.pw.mode = .starting) (hst : s.sec.stage = 1) (hup : 1 < b.upTo.val)
include hm hst hup

/-- Stage 1 does not end. -/
theorem startUp_stays {t : State} (ht : endRails b (feedsRead b s) = t) (hs : t.sec.stage = 1) : exec (.startUp b) s = .next t := by
  have hend : endStage b (feedsRead b s) = t := (endStage_of_one b (feedsRead b s) hst).trans ht
  rw [startUp_eq hm]
  have hst' : (feedsRead b s).sec.stage = 1 := hst
  exact congrArg Host.Outcome.next ((runStages_succ_of_stays 7 (hst'.trans_lt hup) (by rw [hend, hs, hst'])).trans hend)

/-- Stage 1 ends. -/
theorem startUp_ends {t : State} (ht : endRails b (feedsRead b s) = t) (hs : t.sec.stage = 2) :
    exec (.startUp b) s = .next (runStages b 7 t) := by
  have hend : endStage b (feedsRead b s) = t := (endStage_of_one b (feedsRead b s) hst).trans ht
  have hst' : (feedsRead b s).sec.stage = 1 := hst
  rw [startUp_eq hm]
  refine congrArg Host.Outcome.next ((runStages_succ_of_ends 7 (hst'.trans_lt hup) ?_).trans (congrArg _ hend))
  rw [hend, hs, hst']
  decide

end

/-- The state that the ROM starts in. -/
def romStarts (b : Boot) (s : State) : State :=
  atStage (pwMod (startHalves (feedsRead b s) b) fun x => { x with mode := .starting }) 2

theorem startHalves_eq (s : State) (b : Boot) : startHalves s b = { s with red := (startHalves s b).red } := rfl

theorem romStarts_eq (b : Boot) (s : State) : romStarts b s = { s with
    red := (startHalves (feedsRead b s) b).red
    sec := { s.sec with stage := 2 }
    pw := { s.pw.feeds b.va b.vb with mode := .starting } } := by
  rw [romStarts, startHalves_eq]
  rfl

theorem romStarts_frame (b : Boot) (s : State) : let t := romStarts b s
    t.sec = { s.sec with stage := 2 } ∧ t.pw.mode = .starting ∧ t.nor = s.nor ∧ t.mem = s.mem := by
  rw [romStarts_eq]
  exact ⟨rfl, rfl, rfl, rfl⟩

/-- The firmware that starts. -/
theorem startFirmware_frame (s : State) (slot : Bool) (g : List Byte) :
    let t := startFirmware (secMod (slotsTried s) fun x => { x with slotUsed := slot }) g
    let x := t.sec
    x.slotUsed = slot ∧ x.fwVersion = BitVec.ofNat 64 (imageVersion g) ∧ x.fwSvn = imageSvn g ∧ x.fwVendor = imageVendor g ∧
    x.fwDigest = sha384 (g.take (imageSigned g)) ∧ x.kickAt = s.now ∧ x.stage = 3 ∧ t.pw.mode = .stage7 ∧ t.mem = s.mem ∧ t.nor = s.nor ∧
    x.owner = s.sec.owner ∧ x.svn = s.sec.svn := by
  simp only [startFirmware, atStage, runImage, secMod, secSet, pwMod, pwSet, slotsTried, cntAdd_now, cntAdd_mem, cntAdd_nor, cntAdd_sec,
    and_self]

end

end Sys2Proof.Machine

namespace Sys2Proof.Claims

open Sys2Proof Sys2Proof.Machine

/-- Settles O51, stage by stage; of a start-up that arrives in time, by induction over the stages that are left. -/
theorem startUp : Obligations.StartUp := by
  refine ⟨?_, ?_, ?_, imageStep_eq_zero, ?_, fun s r => loadInst_of_some, ?_, ?_⟩
  · intro b s hm hst hup
    refine ⟨fun h3 hv => ?_, fun hrail hp => ?_, fun hrail hp hn h8 => ?_⟩
    · obtain ⟨-, -, -, -, hcode⟩ := bootFails_frame (feedsRead b s) 1 1
      exact ⟨_, startUp_stays hm hst hup (endRails_of_noRail h3 hm hv) ((bootFails_stage _ 1 1).trans hst), rfl, rfl, hcode⟩
    · obtain ⟨-, -, -, -, hcode⟩ := bootFails_frame (feedsRead b s) 2 1
      exact ⟨_, startUp_stays hm hst hup (endRails_of_noPll hrail hp) ((bootFails_stage _ 2 1).trans hst), rfl, hcode⟩
    · have h8' : b.upTo.val = 8 := congrArg Fin.val h8
      have hrun : exec (.startUp b) s = .next (runStages b 7 (romStarts b s)) :=
        startUp_ends hm hst hup (endRails_of_ok (s := feedsRead b s) hrail hp hn) rfl
      obtain ⟨hsec, hmode, hnor, hmem⟩ := romStarts_frame b s
      have hstep : imageStep (romStarts b s).sec = imageStep s.sec := imageStep_congr (by rw [hsec]) (by rw [hsec])
      have hcode : (romStarts b s).sec.code = s.sec.code := by rw [hsec]
      have hst2 : (romStarts b s).sec.stage = 2 := by rw [hsec]
      generalize romStarts b s = u at *
      have hrom := endStage_of_two b u hst2 (by rw [hmode]; exact PowerMode.noConfusion)
      refine ⟨fun hbad => ?_, fun hok himg hms => ?_⟩
      · obtain ⟨hmode', hrec, hres, hstage, hmem', hcode'⟩ := endRom_recovers (b := b) (s := u) (by rw [hstep, hnor]; exact hbad)
        rw [runStages_succ_of_stays _ (by omega) (by rw [hrom, hstage]), hrom] at hrun
        exact ⟨_, hrun, hmode', hrec, hres, hstage.trans hst2, hmem'.trans hmem, fun h => hcode' (hcode.trans h)⟩
      · obtain ⟨⟨i, g⟩, he⟩ := trySlots_some u.sec u.nor (by rw [hstep, hnor]; exact himg)
        have hfw : endRom b u = startFirmware (secMod (slotsTried u) fun x => { x with slotUsed := i == 1 }) g :=
          (endRom_of_norOk hok).trans (by rw [he])
        have hstage : (endStage b u).sec.stage = 3 := by rw [hrom, hfw]; rfl
        rw [runStages_succ_of_ends _ (by omega) (by omega)] at hrun
        exact ⟨_, hrun, runStages_running b h8 hms (k := 4) le_rfl hstage⟩
  · intro b s i g hst hm hn hg v0 v1 hi t x
    have he := trySlots_eq s.sec s.nor hg hi
    have ht : t = startFirmware (secMod (slotsTried s) fun x => { x with slotUsed := i == 1 }) g :=
      (endStage_of_two b s hst hm).trans ((endRom_of_norOk hn).trans (by rw [he]))
    have hx : x = t.sec := rfl
    clear_value x t
    subst hx ht
    exact startFirmware_frame s (i == 1) g
  · intro b s
    refine ⟨endStage_middle b s, fun h7 hms => ?_, fun h7 hms => ?_⟩
    · obtain ⟨hmode, hsec⟩ := finishStart_frame s b b.millis.toNat
      rw [(endStage_of_seven b s h7).trans (if_pos hms), hsec]
      exact ⟨hmode, rfl, rfl, rfl⟩
    · rw [(endStage_of_seven b s h7).trans (if_neg (Nat.not_le.2 hms))]
      exact ⟨h7, rfl⟩
  · intro b hb
    simp only [imageHeader, Bool.and_eq_true, beq_iff_eq, decide_eq_true_eq] at hb
    obtain ⟨⟨⟨⟨⟨⟨⟨⟨hmagic, hformat⟩, htarget⟩, hlen, hmax⟩, hfit⟩, halign⟩, hres⟩, hres'⟩, -⟩ := hb
    exact ⟨hmagic, hformat, htarget, hlen, hmax, hfit, halign, hres, hres'⟩
  · intro s b hr hm ht
    have hnow : ¬ s.now < s.pw.startAt + 1000000 * startLimit := Nat.not_lt.2 ht
    have hrun : exec .startupTimeout s =
        .next (finishStart (bootFails (secMod s fun x => { x with timeout := true }) 0x09 7) b startLimit) := by
      simp only [exec, execStartupTimeout, hr, hm, decide_eq_false hnow]
      rfl
    obtain ⟨-, -, -, hsec, hcode⟩ := bootFails_frame (secMod s fun x => { x with timeout := true }) 9 7
    obtain ⟨hmode, hend⟩ := finishStart_frame (bootFails (secMod s fun x => { x with timeout := true }) 0x09 7) b startLimit
    refine ⟨_, hrun, hmode, ?_, ?_, ?_, fun h => ?_⟩
    · rw [hend, hsec]; rfl
    · rw [hend]
    · rw [hend]
    · rw [hend]; exact hcode h
  · intro s b image hr hm
    refine ⟨fun h => ?_, fun h => ?_⟩
    · have hwaits : ¬ (s.pw.mode != .recovery) = true := by rw [hm]; decide
      simp only [exec, execRecoveryImage, hr, if_neg hwaits]
    · simp only [exec, execRecoveryImage, hr, hm, h]
      rfl

end Sys2Proof.Claims
end

section
/-! Security commands: the SVN, the watchdog, owner commands and installation records (R433, R438–R443). -/

namespace Sys2Proof.Machine

/-! ## Reads of SRAM -/

section
variable (s : State) (a : Nat) (who : SramReader)

theorem sramSample_sec (slot : Nat) : (sramSample s slot).sec = s.sec ∧ (sramSample s slot).nor = s.nor := by
  unfold sramSample
  dsimp only
  split
  · exact ⟨rfl, rfl⟩
  · exact ⟨logRecord_sec .., logRecord_nor ..⟩

theorem sramCorrected_sec : (sramCorrected s a who).sec = s.sec ∧ (sramCorrected s a who).nor = s.nor := by
  unfold sramCorrected
  dsimp only
  rw [(sramSample_sec _ _).1, (sramSample_sec _ _).2, apply_ite State.sec, apply_ite State.nor, cntAdd_sec, cntAdd_nor, ite_self, ite_self]
  split
  · exact ⟨cntAdd_sec .., cntAdd_nor ..⟩
  · exact ⟨rfl, rfl⟩

theorem sramUncorrectable_sec (side : Bool) :
    (sramUncorrectable s a who side).sec = s.sec ∧ (sramUncorrectable s a who side).nor = s.nor := by
  unfold sramUncorrectable
  dsimp only
  rw [logRecord_sec, logRecord_nor, apply_ite State.sec, apply_ite State.nor, cntAdd_sec, cntAdd_nor, ite_self, ite_self]
  split
  · exact ⟨cntAdd_sec .., cntAdd_nor ..⟩
  · exact ⟨rfl, rfl⟩

theorem sideFix_sec : (sideFix s a who).sec = s.sec ∧ (sideFix s a who).nor = s.nor := by
  unfold sideFix
  split
  · exact sramUncorrectable_sec (s.setMem _) a who true
  split
  · exact ⟨rfl, rfl⟩
  · exact sramCorrected_sec (s.setMem _) a who

theorem sramFixWord_sec : (sramFixWord s a who).sec = s.sec ∧ (sramFixWord s a who).nor = s.nor := by
  unfold sramFixWord
  dsimp only
  split
  · exact ⟨rfl, rfl⟩
  split
  · exact sramCorrected_sec (s.setMem _) a who
  · exact sramUncorrectable_sec (s.setMem _) a who false

/-- Words read from SRAM leave the fuses and the NOR. -/
theorem sramWords_sec (n : Nat) : (sramWords s a who n).sec = s.sec ∧ (sramWords s a who n).nor = s.nor := by
  induction n generalizing s a with
  | zero => exact ⟨rfl, rfl⟩
  | succ n ih =>
    obtain ⟨hsec, hnor⟩ := ih (sramFixWord (if a % 256 = 0 then sideFix s a who else s) a who) (a + 8)
    obtain ⟨hsec', hnor'⟩ := sramFixWord_sec (if a % 256 = 0 then sideFix s a who else s) a who
    obtain ⟨hsec'', hnor''⟩ := sideFix_sec s a who
    have hside : (if a % 256 = 0 then sideFix s a who else s).sec = s.sec ∧ (if a % 256 = 0 then sideFix s a who else s).nor = s.nor := by
      split
      · exact ⟨hsec'', hnor''⟩
      · exact ⟨rfl, rfl⟩
    exact ⟨hsec.trans (hsec'.trans hside.1), hnor.trans (hnor'.trans hside.2)⟩

end

theorem stagedBytes_sec (s : State) (value : Word) (n : Nat) :
    (stagedBytes s value n).1.sec = s.sec ∧ (stagedBytes s value n).1.nor = s.nor := by
  obtain ⟨hsec, hnor⟩ := sramWords_sec (sideFix s (hubSramBase + (field value 0 18).toNat * 256) (.user 0))
    (hubSramBase + (field value 0 18).toNat * 256) (.user 0) ((n + 7) / 8)
  obtain ⟨hsec', hnor'⟩ := sideFix_sec s (hubSramBase + (field value 0 18).toNat * 256) (.user 0)
  exact ⟨hsec.trans hsec', hnor.trans hnor'⟩

/-! ## SVN commits -/

/-- What a commit records, of its result and in the log. -/
theorem svnCommit_frame (s : State) (bad : Bool) : let t := svnCommit s bad
    t.sec = (commitSvn (rset s (blkSB.reg 0x028) 0) bad).1.sec ∧ t.mem = s.mem ∧ t.hm = s.hm := by
  have hc : (commitSvn (rset s (blkSB.reg 0x028) 0) bad).1.mem = s.mem ∧ (commitSvn (rset s (blkSB.reg 0x028) 0) bad).1.hm = s.hm := by
    unfold commitSvn
    dsimp only
    split
    · exact ⟨rfl, rfl⟩
    · split <;> exact ⟨rfl, rfl⟩
  unfold svnCommit
  dsimp only
  split
  · simp only [secLog, logRecord_sec, logRecord_mem, logRecord_hm, logCapture_sec, logCapture_mem, logCapture_hm]
    exact ⟨trivial, hc⟩
  · simp only [logCapture_sec, logCapture_mem, logCapture_hm]
    exact ⟨trivial, hc⟩

/-- The SVN never falls; without a fuse fault it ends at the running image's, with the slots revoked that it revokes. -/
theorem commitSvn_sec (s : State) (bad : Bool) : let t := (commitSvn s bad).1
    s.sec.svn ≤ t.sec.svn ∧ (bad = false → t.sec.svn = max s.sec.svn s.sec.fwSvn ∧ t.sec.vRevoked = s.sec.vRevoked ||| toRevoke s.sec) := by
  unfold commitSvn
  dsimp only
  split
  · rename_i h
    obtain ⟨hle, hz⟩ := h
    refine ⟨le_rfl, fun _ => ⟨(Nat.max_eq_left hle).symm, ?_⟩⟩
    rw [hz]
    exact (BitVec.or_zero ..).symm
  · split
    · rename_i hbad
      exact ⟨Nat.le_add_right _ _, fun h => absurd hbad (by rw [h]; decide)⟩
    · exact ⟨Nat.le_max_left _ _, fun _ => ⟨rfl, rfl⟩⟩

/-- A commit cut short within the SVN's bits has revoked nothing. -/
theorem svnCut_vRevoked {s : State} {n : Nat} (h : n ≤ s.sec.fwSvn - s.sec.svn) : (svnCut s n).sec.vRevoked = s.sec.vRevoked := by
  have hn : n - min n (s.sec.fwSvn - s.sec.svn) = 0 := by omega
  have hlow : lowBits (n - min n (s.sec.fwSvn - s.sec.svn)) (toRevoke s.sec) = 0 := by rw [hn]; rfl
  exact (congrArg (s.sec.vRevoked ||| ·) hlow).trans (BitVec.or_zero ..)

section
variable {s : State} (hup : hubUp s = true) (hb : isBusy s blkSB = false)
include hup hb

theorem sbSvnCommit_of_go {value : Word} (hgo : value.getLsbD 31 = true) (bad : Bool) (cut : Option (Fin 68)) :
    exec (.sbSvnCommit value bad cut) s = .next (match cut with
      | some n => svnCut (rset (acceptWrite s blkSB) (blkSB.reg 0x028) value) n.val
      | none => svnCommit (acceptWrite s blkSB) bad) := by
  simp only [exec, execSbSvnCommit, hup, Claims.softWrite_of_not_busy hb, hgo]
  rfl

/-! ## Owner commands -/

theorem ownerRow_eq (value : Word) (interrupted : Bool) : ownerRow s value interrupted = .next (ownerCommand (acceptWrite s blkSB) value interrupted) := by
  simp only [ownerRow, hup, Claims.softWrite_of_not_busy hb]
  rfl

/-- Each owner command is a write of SB_OWNER_CMD. -/
theorem exec_ownerRow {i : Instr} {value : Word} (hi : i ∈ [Instr.enrol value false, .revoke value, .decommission value]) :
    exec i s = .next (ownerCommand (acceptWrite s blkSB) value false) := by
  rw [← ownerRow_eq hup hb]
  simp only [List.mem_cons, List.not_mem_nil, or_false] at hi
  rcases hi with rfl | rfl | rfl <;> rfl

end

section
variable (s : State)

/-- The end of a command leaves the owner slots, the life cycle and the SVN. -/
theorem ownerEnd_sec (c : OwnerCmd) (code : Nat) : ∃ n, (ownerEnd s c code).sec = { s.sec with nonce := n } := by
  unfold ownerEnd newNonce
  simp only [secLog, logRecord_sec, logCapture_sec]
  split <;> exact ⟨_, rfl⟩

variable (value : Word)

variable {value} {r : State × List Byte} (hr : stagedBytes (rset s (blkSB.reg 0x034) 0) value ownerSpan = r)
include hr

theorem ownerRun_of_permitted (interrupted : Bool) (h : ownerBroken r.1 r.2 = []) : ownerRun s value interrupted =
    let t := ownerEffect r.1 (readOwner r.2) interrupted
    if interrupted && (readOwner r.2).op == 1 then t else ownerEnd t (readOwner r.2) 0 := by
  unfold ownerRun
  rw [hr]
  dsimp only
  rw [h]

theorem staged_sec : r.1.sec = s.sec := hr ▸ (stagedBytes_sec ..).1

/-- A command that breaks a rule changes the nonce, of what the fuses and the NOR hold. -/
theorem ownerRun_of_broken (interrupted : Bool) (h : ownerBroken r.1 r.2 ≠ []) :
    ∃ n, (ownerRun s value interrupted).sec = { s.sec with nonce := n } := by
  rw [← staged_sec s hr]
  unfold ownerRun
  rw [hr]
  dsimp only
  split
  · exact absurd ‹_› h
  · exact ownerEnd_sec r.1 (readOwner r.2) _
  · exact ownerEnd_sec r.1.takeFree (readOwner r.2) _

omit hr

/-! What a permitted command does to the slots. -/

variable (c : OwnerCmd)

/-- ENROL: the slot is enrolled, with its record where the NOR can be written. -/
theorem enrolSlot_sec : (enrolSlot s c).sec = { s.sec with
    lifecycle := 2
    owner := tset s.sec.owner c.target (if s.sec.norBad then { enrolled := true, digest := Config.sha384Bits (c.ecdsa ++ c.hss) }
      else { enrolled := true, digest := Config.sha384Bits (c.ecdsa ++ c.hss), recordOk := true, ecdsa := c.ecdsa, hss := c.hss }) {} } := by
  unfold enrolSlot
  cases hn : s.sec.norBad <;> simp [hn, secMod, secSet, ownerSet]

theorem ownerEffect_enrol (h : c.op = 1) : ownerEffect s c false = enrolSlot s c := by
  simp [ownerEffect, h]

theorem ownerEffect_interrupted (h : c.op = 1) : ∃ d, ownerEffect s c true = ownerSet s.takeFree c.target { damaged := true, digest := d } := by
  refine ⟨Config.sha384Bits (c.ecdsa ++ c.hss) &&& BitVec.ofNat 384 s.free, ?_⟩
  simp [ownerEffect, h]

theorem ownerEffect_revoke (h : c.op = 2) : ownerEffect s c false = ownerSet s c.target { ownerSlot s c.target with revoked := true } := by
  simp only [ownerEffect, h]

theorem ownerEffect_decommission (h : c.op = 3) : ownerEffect s c false = secMod s fun x => { x with lifecycle := 3 } := by
  simp only [ownerEffect, h]

end

/-! ## Installation records -/

/-- A record comes into use; the copies stay. -/
theorem useInst_sec (s : State) (r : InstCopy) : (useInst s r).sec = { s.sec with inst := some r } :=
  (configPilot_frame _ _).1

end Sys2Proof.Machine

end

section
namespace Sys2Proof.Machine

/-! ## What the commands do -/

section
variable {s : State} {value : Word}

theorem ownerCommand_of_loading (hgo : value.getLsbD 31 = true) (hl : s.hm.st = .loading) (interrupted : Bool) :
    ownerCommand s value interrupted = setBusy (rset s (blkSB.reg 0x034) value) blkSB true := by
  simp [ownerCommand, hgo, hl]

theorem ownerCommand_of_not_loading (hgo : value.getLsbD 31 = true) (hl : s.hm.st ≠ .loading) (interrupted : Bool) :
    ownerCommand s value interrupted = ownerRun s value interrupted := by
  simp [ownerCommand, hgo, hl]

/-- A slot that is set reads as what it was set to, and the others as before. -/
theorem tget_ownerSet_self (i : Nat) {o : OwnerSlot} (h : o ≠ {}) : tget (ownerSet s i o).sec.owner i {} = o := tget_tset_of_ne _ _ h

theorem tget_ownerSet_ne {i j : Nat} (o : OwnerSlot) (h : j ≠ i) : tget (ownerSet s i o).sec.owner j {} = tget s.sec.owner j {} :=
  tget_tset_ne _ _ _ h

end

section
variable {s : State} {value : Word} {r : State × List Byte} (hr : stagedBytes (rset s (blkSB.reg 0x034) 0) value ownerSpan = r)
  (h : ownerBroken r.1 r.2 = [])
include hr h

/-- A permitted command that is not cut short: its effect, and a new nonce. -/
theorem ownerRun_sec : ∃ u n, u.sec = s.sec ∧ (ownerRun s value false).sec = { (ownerEffect u (readOwner r.2) false).sec with nonce := n } := by
  rw [ownerRun_of_permitted s hr false h]
  obtain ⟨n, hn⟩ := ownerEnd_sec (ownerEffect r.1 (readOwner r.2) false) (readOwner r.2) 0
  exact ⟨r.1, n, staged_sec s hr, hn⟩

/-- An ENROL that is cut short leaves its slot DAMAGED. -/
theorem ownerRun_interrupted (hop : (readOwner r.2).op = 1) :
    ∃ u d, u.sec = s.sec ∧ ownerRun s value true = ownerSet u (readOwner r.2).target { damaged := true, digest := d } := by
  obtain ⟨d, hd⟩ := ownerEffect_interrupted r.1 (readOwner r.2) hop
  refine ⟨r.1.takeFree, d, staged_sec s hr, (ownerRun_of_permitted s hr true h).trans ?_⟩
  rw [hop]
  exact hd

end

/-! ## Copies of the installation record -/

section
variable (s : State) (body : List Byte)

/-- The record that is written. -/
def newInst : InstCopy := { gen := (nextCopy s.sec).2, valid := true, body := body }

/-- The copy that is written takes the record where the NOR can be written, and where none was in use it comes into use. -/
theorem instWrite_sec : (instWrite s body).sec =
    let x := if s.sec.norBad then s.sec
      else if (nextCopy s.sec).1 = 0 then { s.sec with copy0 := newInst s body } else { s.sec with copy1 := newInst s body }
    if s.sec.inst.isNone then { x with inst := some (newInst s body) } else x := by
  unfold instWrite
  dsimp only
  rw [apply_ite State.sec, useInst_sec, apply_ite State.sec]
  rfl

/-- The copy in use stays where it is. -/
theorem nextCopy_of_copy0 {r : InstCopy} (hi : s.sec.inst = some r) (hv : r.valid = true) (h : r = s.sec.copy0) :
    nextCopy s.sec = (1, (r.gen + 1) % 2 ^ 32) := by
  simp [nextCopy, hi, ← h, hv]

theorem nextCopy_of_ne_copy0 {r : InstCopy} (hi : s.sec.inst = some r) (h : r ≠ s.sec.copy0) :
    nextCopy s.sec = (0, (r.gen + 1) % 2 ^ 32) := by
  simp [nextCopy, hi, h]

theorem nextCopy_of_none (hi : s.sec.inst = none) : (nextCopy s.sec).1 = 0 := by
  simp [nextCopy, hi]

end

end Sys2Proof.Machine

namespace Sys2Proof.Claims

open Sys2Proof Sys2Proof.Machine

/-- Settles O52, command by command. -/
theorem securityCommands : Obligations.SecurityCommands := by
  refine ⟨?_, ?_, ?_, ?_, ?_, ?_, ?_, ?_⟩
  · intro value bad s hup hb hgo
    refine ⟨?_, fun n => ?_⟩
    · obtain ⟨hsec, hmem, hhm⟩ := svnCommit_frame (acceptWrite s blkSB) bad
      obtain ⟨hle, hgood⟩ := commitSvn_sec (rset (acceptWrite s blkSB) (blkSB.reg 0x028) 0) bad
      refine ⟨_, sbSvnCommit_of_go hup hb hgo bad none, ?_, hmem, hhm, fun h => ?_⟩
      · rw [hsec]; exact hle
      · rw [hsec]; exact hgood h
    · refine ⟨_, sbSvnCommit_of_go hup hb hgo bad (some n), rfl, rfl, fun h => ?_⟩
      exact svnCut_vRevoked (s := rset (acceptWrite s blkSB) (blkSB.reg 0x028) value) h
  · intro value s hup hb hv
    simp only [exec, execSbWdog, hup, softWrite_of_not_busy hb, hv]
    rfl
  · intro s hup ht
    have hrun : exec .watchdogExpiry s =
        .next (secMod (cntAdd (hubResets s 4) (blkSB.reg 0x060) 1) fun x => { x with watchdog := true }) := by
      have hnow : ¬ s.now < s.sec.kickAt + watchdogLimit := Nat.not_lt.2 ht
      simp only [exec, execWatchdogExpiry, hup, decide_eq_false hnow]
      rfl
    have hreg : rget (hubResets s 4) (blkSB.reg 0x060) = rget s (blkSB.reg 0x060) :=
      (rget_logCapture_ne _ _ (by decide) (by simp)).trans (rget_keepAlwaysOn s (by decide) (by decide))
    have hcount := rget_cntAdd_of_reset (hubResets s 4) (off := blkSB.reg 0x060) (n := 1) (by decide +kernel) (by decide)
    rw [hreg] at hcount
    refine ⟨_, hrun, ?_, ?_, ?_, rfl, ?_, hcount⟩
    all_goals
      simp only [hubResets, moduleReset_eq]
      rfl
  · intro i value s hi hup hb hgo
    have hrun := exec_ownerRow hup hb hi
    refine ⟨fun hl => ?_, fun hl => ?_⟩
    · rw [hrun, ownerCommand_of_loading hgo (s := acceptWrite s blkSB) hl]
    · intro r c d
      have hr : stagedBytes (rset (acceptWrite s blkSB) (blkSB.reg 0x034) 0) value ownerSpan = r := rfl
      have hperm (h : ownerBroken r.1 r.2 = []) := ownerRun_sec hr h
      have hbroken (h : ownerBroken r.1 r.2 ≠ []) := ownerRun_of_broken (acceptWrite s blkSB) hr false h
      have hc : c = readOwner r.2 := rfl
      rw [acceptWrite_sec, ← hc] at hperm
      have hd : d = Config.sha384Bits (c.ecdsa ++ c.hss) := rfl
      rw [ownerCommand_of_not_loading hgo (s := acceptWrite s blkSB) hl] at hrun
      generalize ownerRun (acceptWrite s blkSB) value false = t at hrun hperm hbroken
      clear hr
      clear_value d c r
      subst hd
      refine ⟨fun h hop => ⟨t, hrun, ?_⟩, fun h hop => ⟨t, hrun, ?_⟩, fun h hop => ⟨t, hrun, ?_⟩, fun h => ⟨t, hrun, ?_⟩⟩
      · obtain ⟨u, n, hu, ht⟩ := hperm h
        rw [ownerEffect_enrol u _ hop, enrolSlot_sec, hu] at ht
        rw [ht]
        refine ⟨rfl, tget_tset_of_ne _ _ ?_, fun j hj => tget_tset_ne _ _ _ hj, rfl⟩
        split <;> exact fun h => Bool.noConfusion (congrArg OwnerSlot.enrolled h)
      · obtain ⟨u, n, hu, ht⟩ := hperm h
        rw [ownerEffect_revoke u _ hop] at ht
        have hself : tget (ownerSet u c.target { ownerSlot u c.target with revoked := true }).sec.owner c.target {} =
            { ownerSlot u c.target with revoked := true } :=
          tget_ownerSet_self _ fun h => Bool.noConfusion (congrArg OwnerSlot.revoked h)
        have hslot : ownerSlot u c.target = tget s.sec.owner c.target {} := congrArg (fun x => tget (SecSt.owner x) c.target {}) hu
        rw [ht]
        have henrolled : (ownerSlot u c.target).enrolled = (tget s.sec.owner c.target {}).enrolled := congrArg OwnerSlot.enrolled hslot
        have hcycle : u.sec.lifecycle = s.sec.lifecycle := congrArg SecSt.lifecycle hu
        refine ⟨congrArg OwnerSlot.revoked hself, ?_, fun j hj => ?_, hcycle⟩
        · exact (congrArg OwnerSlot.enrolled hself).trans henrolled
        · exact (tget_ownerSet_ne _ hj).trans (congrArg (fun x => tget (SecSt.owner x) j {}) hu)
      · obtain ⟨u, n, hu, ht⟩ := hperm h
        rw [ownerEffect_decommission u _ hop] at ht
        rw [ht]
        have howner : u.sec.owner = s.sec.owner := congrArg SecSt.owner hu
        exact ⟨rfl, howner⟩
      · obtain ⟨n, ht⟩ := hbroken h
        rw [ht]
        exact ⟨rfl, rfl⟩
  · intro value s hup hb hgo hl r c h hop
    have hr : stagedBytes (rset (acceptWrite s blkSB) (blkSB.reg 0x034) 0) value ownerSpan = r := rfl
    obtain ⟨u, d, hu, hrun⟩ := ownerRun_interrupted hr h hop
    have hthis := (ownerRow_eq hup hb value true).trans (congrArg Host.Outcome.next
      ((ownerCommand_of_not_loading hgo (s := acceptWrite s blkSB) hl true).trans hrun))
    have hself : tget (ownerSet u c.target { damaged := true, digest := d }).sec.owner c.target {} = { damaged := true, digest := d } :=
      tget_ownerSet_self _ fun h => Bool.noConfusion (congrArg OwnerSlot.damaged h)
    exact ⟨_, hthis, congrArg OwnerSlot.damaged hself, congrArg OwnerSlot.enrolled hself,
      show u.sec.lifecycle = s.sec.lifecycle from congrArg SecSt.lifecycle hu⟩
  · intro value s hup hb hgo hw r
    have hw' : instWaits (acceptWrite s blkSB) = false := hw
    have hrun : exec (.sbInstCmd value) s = .next (instCommand (acceptWrite s blkSB) value) := by
      simp only [exec, execSbInstCmd, hup, softWrite_of_not_busy hb]
      rfl
    have hcmd : instCommand (acceptWrite s blkSB) value = instRun (acceptWrite s blkSB) value := by simp [instCommand, hgo, hw']
    rw [hrun, hcmd]
    rfl
  · intro s body t
    have ht : t.sec = _ := instWrite_sec s body
    refine ⟨fun hn => ?_, fun r hn hi hv hc => ?_, fun hi => ⟨newInst s body, ?_, rfl, fun hn => ?_⟩⟩
    · rw [ht]
      simp only [hn, if_true]
      split <;> exact ⟨rfl, rfl⟩
    · have hsome : s.sec.inst.isNone = false := by rw [hi]; rfl
      rw [ht]
      simp only [hn, hsome, Bool.false_eq_true, if_false]
      by_cases h0 : r = s.sec.copy0
      · have hnext := nextCopy_of_copy0 s hi hv h0
        simp only [newInst, hnext, Nat.succ_ne_zero, if_false]
        exact ⟨hi, .inl ⟨h0.symm, trivial⟩⟩
      · have hnext := nextCopy_of_ne_copy0 s hi h0
        simp only [newInst, hnext, if_true]
        exact ⟨hi, .inr ⟨(hc.resolve_left h0).symm, trivial⟩⟩
    · rw [ht]
      simp only [hi, Option.isNone_none, if_true]
    · rw [ht]
      simp only [hi, hn, nextCopy_of_none s hi, Option.isNone_none, if_true, Bool.false_eq_true, if_false]
  · intro s hup hr hl ht
    have hleft : (s.sec.lmsTree + 2) * bottomTree ≤ lmsTree := ht
    exact if_pos (by simp only [hup, hr, decide_eq_true hl, decide_eq_true hleft, Bool.and_self])

end Sys2Proof.Claims
end

section
/-! LMS indices and their reservation log (R445, R446, R450). -/

namespace Sys2Proof.Machine

/-! ## The log -/

/-- An entry stands in a sector of the log. -/
def InLog (n : NorSt) (b : List Byte) : Prop := ∃ i < lmsSectors, b ∈ tget n.lms i []

theorem mem_log {n : NorSt} {b : List Byte} : b ∈ (List.range lmsSectors).flatMap (fun i => tget n.lms i []) ↔ InLog n b := by
  simp only [List.mem_flatMap, List.mem_range, InLog]

/-- The highest valid entry of a list, from a number on. -/
def highestFrom (m : Nat) (l : List (List Byte)) : Nat := l.foldl (fun m b => if lmsEntryOk b then max m (le b 0 8) else m) m

theorem highestFrom_cons (m : Nat) (b : List Byte) (l : List (List Byte)) :
    highestFrom m (b :: l) = highestFrom (if lmsEntryOk b then max m (le b 0 8) else m) l := rfl

theorem le_highestFrom (m : Nat) (l : List (List Byte)) : m ≤ highestFrom m l := by
  induction l generalizing m with
  | nil => exact le_rfl
  | cons b l ih =>
    rw [highestFrom_cons]
    refine le_trans ?_ (ih _)
    split
    · exact Nat.le_max_left ..
    · exact le_rfl

theorem le_highestFrom_of_mem {m : Nat} {l : List (List Byte)} {b : List Byte} (hb : b ∈ l) (hok : lmsEntryOk b = true) :
    le b 0 8 ≤ highestFrom m l := by
  induction l generalizing m with
  | nil => exact absurd hb List.not_mem_nil
  | cons c l ih =>
    rcases List.mem_cons.1 hb with rfl | hb
    · rw [highestFrom_cons, if_pos hok]
      refine le_trans ?_ (le_highestFrom _ l)
      exact Nat.le_max_right ..
    · exact ih hb

theorem highestFrom_le {m e : Nat} {l : List (List Byte)} (hm : m ≤ e) (h : ∀ b ∈ l, lmsEntryOk b = true → le b 0 8 ≤ e) :
    highestFrom m l ≤ e := by
  induction l generalizing m with
  | nil => exact hm
  | cons b l ih =>
    rw [highestFrom_cons]
    refine ih ?_ fun c hc => h c (List.mem_cons_of_mem _ hc)
    split
    · exact Nat.max_le.2 ⟨hm, h b List.mem_cons_self ‹_›⟩
    · exact hm

theorem le_lmsHighest {n : NorSt} {b : List Byte} (hb : InLog n b) (hok : lmsEntryOk b = true) : le b 0 8 ≤ lmsHighest n :=
  le_highestFrom_of_mem (mem_log.2 hb) hok

theorem lmsHighest_le {n : NorSt} {e : Nat} (h : ∀ b, InLog n b → lmsEntryOk b = true → le b 0 8 ≤ e) : lmsHighest n ≤ e :=
  highestFrom_le (Nat.zero_le _) fun b hb => h b (mem_log.1 hb)

theorem bytesToNat_lt (l : List Byte) : bytesToNat l < 256 ^ l.length := by
  induction l with
  | nil => exact Nat.one_pos
  | cons b l ih =>
    have hb := b.isLt
    rw [bytesToNat, List.length_cons, Nat.pow_succ]
    omega

/-- No entry is above what its eight bytes hold. -/
theorem lmsHighest_lt (n : NorSt) : lmsHighest n < 2 ^ 64 := by
  have h : lmsHighest n ≤ 2 ^ 64 - 1 := lmsHighest_le fun b _ _ => by
    have hlt := bytesToNat_lt ((b.drop 0).take 8)
    have hpow : 256 ^ ((b.drop 0).take 8).length ≤ 256 ^ 8 := Nat.pow_le_pow_right (by decide) (List.length_take_le ..)
    rw [le]
    omega
  omega

theorem lmsEntryOk_lmsEntry (e : Nat) : lmsEntryOk (lmsEntry e) = true := by
  have hlen : (natToBytes 8 e ++ natToBytes 4 0).length = 12 := by simp [natToBytes_length]
  have hcrc : (crc32 (natToBytes 8 e ++ natToBytes 4 0)).toNat < 256 ^ 4 := BitVec.isLt _
  unfold lmsEntryOk lmsEntry
  dsimp only
  generalize natToBytes 8 e ++ natToBytes 4 0 = l at *
  rw [Bool.and_eq_true, beq_iff_eq, beq_iff_eq, List.take_left' hlen, le, List.drop_left' hlen,
    List.take_of_length_le (by rw [natToBytes_length]), bytesToNat_natToBytes, Nat.mod_eq_of_lt hcrc]
  exact ⟨by rw [List.length_append, hlen, natToBytes_length], rfl⟩

theorem le_lmsEntry {e : Nat} (h : e < 2 ^ 64) : le (lmsEntry e) 0 8 = e := by
  unfold lmsEntry
  dsimp only
  rw [List.append_assoc, le_natToBytes_append, Nat.mod_eq_of_lt (by omega)]

/-! ## An entry that is appended -/

/-- The sector that an entry goes to, and what stands there. -/
theorem lmsAppend_eq (n : NorSt) (e : Nat) : ∃ i l, lmsAppend n e = { n with lms := tset n.lms i (l ++ [lmsEntry e]) [], lmsAt := i } ∧
    (n.lmsAt < 16 → i < 16) ∧ ∀ b ∈ l, b ∈ tget n.lms i [] := by
  unfold lmsAppend
  dsimp only
  split
  · exact ⟨n.lmsAt, tget n.lms n.lmsAt [], rfl, id, fun _ => id⟩
  · exact ⟨(n.lmsAt + 1) % lmsSectors, [], rfl, fun _ => Nat.mod_lt _ (by decide), fun _ h => absurd h List.not_mem_nil⟩

section
variable {n : NorSt} (h : n.lmsAt < 16) (e : Nat)
include h

theorem lmsAt_lmsAppend : (lmsAppend n e).lmsAt < 16 := by
  obtain ⟨i, l, ha, hi, -⟩ := lmsAppend_eq n e
  rw [ha]
  exact hi h

/-- What the log holds afterwards is what it held, and the entry. -/
theorem inLog_lmsAppend : InLog (lmsAppend n e) (lmsEntry e) ∧ ∀ b, InLog (lmsAppend n e) b → b = lmsEntry e ∨ InLog n b := by
  obtain ⟨i, l, ha, hi, hl⟩ := lmsAppend_eq n e
  have hget : tget (lmsAppend n e).lms i [] = l ++ [lmsEntry e] := by
    rw [ha]
    exact tget_tset_of_ne _ _ (by simp)
  refine ⟨⟨i, hi h, by rw [hget]; simp⟩, ?_⟩
  rintro b ⟨j, hj, hb⟩
  by_cases hji : j = i
  · rw [hji, hget] at hb
    rcases List.mem_append.1 hb with hb | hb
    · exact .inr ⟨i, hi h, hl b hb⟩
    · exact .inl (List.mem_singleton.1 hb)
  · rw [ha] at hb
    exact .inr ⟨j, hj, by rwa [tget_tset_ne _ _ _ hji] at hb⟩

/-- The log covers what was appended last. -/
theorem lmsHighest_lmsAppend {e : Nat} (he : e < 2 ^ 64) (hle : lmsHighest n ≤ e) : lmsHighest (lmsAppend n e) = e := by
  obtain ⟨hin, hold⟩ := inLog_lmsAppend h e
  refine Nat.le_antisymm (lmsHighest_le fun b hb hok => ?_) ?_
  · rcases hold b hb with rfl | hb
    · exact (le_lmsEntry he).le
    · exact (le_lmsHighest hb hok).trans hle
  · exact (le_lmsEntry he).ge.trans (le_lmsHighest hin (lmsEntryOk_lmsEntry e))

end

/-! ## Taking an index -/

/-- How far the log reaches after an index is taken. -/
def reserveTo (x : SecSt) : Nat := if x.lmsNext < x.lmsReserved then x.lmsReserved else x.lmsReserved + lmsBlock

/-- An index is taken from what is reserved, or with an entry written first. -/
theorem lmsTake_signed {s t : State} {ok : Bool} {i : Nat} (h : lmsTake s ok = (t, .signed i)) :
    i = s.sec.lmsNext ∧ t.sec.lmsNext = i + 1 ∧ i + 1024 ≤ 2 ^ 40 ∧
    (s.sec.lmsNext < s.sec.lmsReserved ∧ t.nor = s.nor ∧ t.sec.lmsReserved = s.sec.lmsReserved ∨
      ¬ (s.sec.lmsNext < s.sec.lmsReserved ∧ s.sec.logFailed = false) ∧ t.nor = lmsAppend s.nor (reserveTo s.sec) ∧
        t.sec.lmsReserved = reserveTo s.sec) := by
  have hsec (f : SecSt → SecSt) (hf : ∀ x, (f x).lmsNext = x.lmsNext ∧ (f x).lmsReserved = x.lmsReserved) (c : Prop) [Decidable c] :
      (if c then secMod s f else s).sec.lmsNext = s.sec.lmsNext ∧ (if c then secMod s f else s).sec.lmsReserved = s.sec.lmsReserved ∧
      (if c then secMod s f else s).nor = s.nor := by
    split
    · exact ⟨(hf _).1, (hf _).2, rfl⟩
    · exact ⟨rfl, rfl, rfl⟩
  unfold lmsTake at h
  dsimp only at h
  obtain ⟨hnext, hres, hnor⟩ := hsec (fun x => { x with lmsTree := x.lmsTree + 1, nextReady := false }) (fun _ => ⟨rfl, rfl⟩) (lmsLeft s.sec = 0)
  generalize (if lmsLeft s.sec = 0 then secMod s fun x => { x with lmsTree := x.lmsTree + 1, nextReady := false } else s) = u at *
  split at h
  · cases h
  split at h
  · cases h
  rename_i hfit
  have hfit' : s.sec.lmsNext + 1024 ≤ 2 ^ 40 := by simp only [lmsTree, lmsBlock] at hfit; omega
  split at h
  · cases h
  split at h
  · rename_i hin
    cases h
    exact ⟨rfl, congrArg (· + 1) hnext, hfit', .inl ⟨hin.1, hnor, hres⟩⟩
  rename_i hout
  split at h
  · cases h
  · cases h
    refine ⟨rfl, congrArg (· + 1) hnext, hfit', .inr ⟨fun hin => hout ⟨hin.1, by rw [hin.2]; rfl⟩, ?_, rfl⟩⟩
    exact congrArg (fun n => lmsAppend n (reserveTo s.sec)) hnor

/-! ## Taking the tree up at start-up -/

theorem loadOwner_frame (s : State) (i : Nat) :
    (loadOwner s i).nor = s.nor ∧ (loadOwner s i).sec = { s.sec with owner := (loadOwner s i).sec.owner } := by
  unfold loadOwner
  dsimp only
  split
  · simp only [secLog, logRecord_nor, logRecord_sec]
    exact ⟨rfl, rfl⟩
  · exact ⟨rfl, rfl⟩

theorem loadOwners_frame (l : List Nat) (s : State) :
    (l.foldl loadOwner s).nor = s.nor ∧ ∃ o, (l.foldl loadOwner s).sec = { s.sec with owner := o } := by
  induction l generalizing s with
  | nil => exact ⟨rfl, _, rfl⟩
  | cons i l ih =>
    obtain ⟨hnor, hsec⟩ := loadOwner_frame s i
    obtain ⟨hnor', o, hsec'⟩ := ih (loadOwner s i)
    refine ⟨hnor'.trans hnor, o, hsec'.trans ?_⟩
    rw [hsec]

/-- The first reservation: the tree is taken up behind the log, which covers what is reserved. -/
theorem lmsBegin_frame {s : State} (hb : s.sec.norBad = false) (hat : s.nor.lmsAt < 16) : let t := lmsBegin s
    t.sec.lmsReady = true ∧ t.sec.lmsNext = lmsHighest s.nor ∧ t.sec.lmsReserved = lmsHighest t.nor ∧
    lmsHighest s.nor ≤ lmsHighest t.nor ∧ lmsHighest t.nor ≤ lmsHighest s.nor + 1024 := by
  unfold lmsBegin
  simp only [hb, Bool.false_eq_true, if_false]
  split
  · simp only [secLog, logRecord_sec, logRecord_nor]
    exact ⟨rfl, rfl, rfl, le_rfl, Nat.le_add_right _ _⟩
  · rename_i htop
    have hlt : lmsHighest s.nor + lmsBlock < 2 ^ 64 := by simp only [lmsTree] at htop; omega
    have hnew := lmsHighest_lmsAppend hat hlt (Nat.le_add_right _ _)
    refine ⟨rfl, rfl, hnew.symm, ?_, ?_⟩
    · exact (Nat.le_add_right _ _).trans_eq hnew.symm
    · exact hnew.le

end Sys2Proof.Machine

namespace Sys2Proof.Claims

open Sys2Proof Sys2Proof.Machine

/-- Settles O53: what is reserved is the log's highest entry, before and after an index is taken. -/
theorem lmsIndicesAreUsedOnce : Obligations.LmsIndicesAreUsedOnce := by
  refine ⟨?_, ?_, ?_⟩
  · intro s t ok i hres hnext hat htake
    obtain ⟨hi, hnext', hfit, ⟨hin, hnor, hres'⟩ | ⟨hout, hnor, hres'⟩⟩ := lmsTake_signed htake
    · refine ⟨hi, hnext', ?_, ?_, ?_, ?_, ?_, ?_, fun _ _ => hnor⟩
      · omega
      · rw [hres', hnor, hres]
      · rw [hnor]; exact hat
      · rw [hnor]
      · rw [hnor, ← hres]; omega
      · omega
    · have hlt := lmsHighest_lt s.nor
      have hto : lmsHighest s.nor ≤ reserveTo s.sec ∧ reserveTo s.sec < 2 ^ 64 ∧ s.sec.lmsNext < reserveTo s.sec := by
        unfold reserveTo lmsBlock
        split <;> omega
      obtain ⟨hge, hlt', hcov⟩ := hto
      have hnew : lmsHighest t.nor = reserveTo s.sec := by rw [hnor]; exact lmsHighest_lmsAppend hat hlt' hge
      refine ⟨hi, hnext', ?_, ?_, ?_, ?_, ?_, ?_, fun hin hf => absurd ⟨hin, hf⟩ hout⟩
      · omega
      · rw [hres', hnew]
      · rw [hnor]; exact lmsAt_lmsAppend hat _
      · omega
      · omega
      · omega
  · intro s hlife hnor hat t
    obtain ⟨hn, o, ho⟩ := loadOwners_frame (List.range 4) (secMod s.takeFree fun x => { x with nonce := BitVec.ofNat 64 s.free })
    have ht : t = lmsBegin ((List.range 4).foldl loadOwner (secMod s.takeFree fun x => { x with nonce := BitVec.ofNat 64 s.free })) :=
      if_neg (by rw [ho]; exact hlife)
    have hbegin := lmsBegin_frame (s := (List.range 4).foldl loadOwner (secMod s.takeFree fun x => { x with nonce := BitVec.ofNat 64 s.free }))
      (by rw [ho]; exact hnor) (by rw [hn]; exact hat)
    rw [ht]
    rw [hn] at hbegin
    exact hbegin
  · intro s ok h
    unfold lmsTake
    dsimp only
    split
    · rfl
    · rename_i hr
      rw [if_pos]
      have hbig := h.resolve_left (by simpa using hr)
      simp only [lmsTree, lmsBlock]
      omega

end Sys2Proof.Claims
end

section
/-! Writes of RW registers (R461, R464, R467, R470). -/

namespace Sys2Proof.Machine

/-! ## The block of a place -/

/-- The one tide block is the hub's. -/
structure OneTide (p : Place) : Prop where
  eq : ∀ b w, p = .block b w → b.kind = .td → b = blkTD

theorem OneTide.of_ne {b : Blk} (w : Nat) (h : b.kind ≠ .td) : OneTide (.block b w) :=
  ⟨fun _ _ hb hk => absurd hk (by cases hb; exact h)⟩

theorem OneTide.array (a : ArrKind) (b : Blk) (w : Nat) : OneTide (.array a b w) := ⟨fun _ _ h => Place.noConfusion h⟩

theorem OneTide.empty : OneTide .empty := ⟨fun _ _ h => Place.noConfusion h⟩

theorem OneTide.unmapped : OneTide .unmapped := ⟨fun _ _ h => Place.noConfusion h⟩

theorem OneTide.ite {c : Prop} [Decidable c] {p q : Place} (hp : OneTide p) (hq : OneTide q) : OneTide (if c then p else q) := by
  split
  · exact hp
  · exact hq

theorem oneTide_placeHub (g : Bool) (o : Nat) : OneTide (placeHub g o) := by
  unfold placeHub
  split
  case h_2 => exact ⟨fun _ _ h _ => by cases h; rfl⟩
  case h_18 => exact .ite (.of_ne _ BlkKind.noConfusion) .empty
  case h_19 => exact .ite (.array ..) (.ite (.array ..) (.ite (.array ..) (.ite (.array ..) .empty)))
  all_goals exact .of_ne _ BlkKind.noConfusion

theorem oneTide_placeBase (q o : Nat) : OneTide (placeBase q o) := by
  unfold placeBase
  split
  case h_5 =>
    split
    · split
      · exact .of_ne _ BlkKind.noConfusion
      · exact .empty
    split
    · exact .of_ne _ BlkKind.noConfusion
    split
    · exact .ite (.of_ne _ BlkKind.noConfusion) .empty
    refine .ite ?_ (.ite ?_ .empty)
    · split
      · exact .array ..
      · exact .empty
    · split
      · exact .array ..
      · exact .empty
  all_goals exact .of_ne _ BlkKind.noConfusion

theorem oneTide_placeCompute (c o : Nat) : OneTide (placeCompute c o) := by
  unfold placeCompute
  refine .ite ?_ (.ite (.of_ne _ BlkKind.noConfusion) (.ite (.of_ne _ BlkKind.noConfusion) (.ite (.of_ne _ BlkKind.noConfusion) .empty)))
  split <;> exact .of_ne _ BlkKind.noConfusion

theorem oneTide_placeEngine (n o : Nat) : OneTide (placeEngine n o) := by
  unfold placeEngine
  split
  case h_8 => exact .ite (.array ..) (.ite (.array ..) (.ite (.array ..) .empty))
  all_goals exact .of_ne _ BlkKind.noConfusion

theorem oneTide_placeLaser (n o : Nat) : OneTide (placeLaser n o) := by
  unfold placeLaser
  split
  case h_4 => exact .empty
  all_goals exact .of_ne _ BlkKind.noConfusion

theorem oneTide_placeOf (g : Bool) (off : Nat) : OneTide (placeOf g off) := by
  unfold placeOf
  dsimp only
  split
  · exact oneTide_placeHub ..
  · exact oneTide_placeBase ..
  · exact oneTide_placeCompute ..
  · exact oneTide_placeEngine ..
  · exact oneTide_placeLaser ..
  · exact .ite (.of_ne _ BlkKind.noConfusion) .empty
  · exact .unmapped

/-! ## The row of an offset -/

/-- A decoded row is one of the block's, and its first word is one of its registers'. -/
theorem rowAt_eq_some {k : BlkKind} {o first : Nat} {r : RegRow} (h : rowAt k o = some (r, first)) :
    r ∈ blkRows k ∧ (first = r.off ∨ ∃ i < r.count, first = r.off + i * r.stride) := by
  obtain ⟨r', hr', hf⟩ := List.exists_of_findSome?_eq_some h
  split at hf
  · rename_i hin
    cases hf
    exact ⟨hr', .inr ⟨_, hin.2.1, rfl⟩⟩
  · split at hf
    · cases hf
      exact ⟨hr', .inl rfl⟩
    · cases hf

/-- TD_ROLE has one word. -/
theorem words_of_tideRole {o first : Nat} {r : RegRow} (h : rowAt .td o = some (r, first)) (hf : first = 0x018) : r.words = 1 := by
  obtain ⟨hr, hfirst⟩ := rowAt_eq_some h
  have hrows : ∀ r ∈ blkRows .td, (r.off = 0x018 → r.words = 1) ∧ ∀ i < r.count, r.off + i * r.stride = 0x018 → r.words = 1 := by
    decide +kernel
  obtain ⟨hoff, hcount⟩ := hrows r hr
  rcases hfirst with rfl | ⟨i, hi, rfl⟩
  · exact hoff hf
  · exact hcount i hi hf

/-! ## Words of RW registers -/

section
variable (s : State) (b : Blk) (r : RegRow) (first : Nat)

/-- Good parity leaves the words of the registers. -/
theorem goodParity_frame : (goodParity s b r first).regs.words = s.regs.words ∧ (goodParity s b r first).regs.wrIgnored = s.regs.wrIgnored := by
  unfold goodParity
  dsimp only
  split <;> exact ⟨rfl, rfl⟩

theorem rget_goodParity (x : Nat) : rget (goodParity s b r first) x = rget s x := by
  simp only [rget, (goodParity_frame s b r first).1]

/-- The low word that is held ends, or stays. -/
theorem lowFor_frame (who : Requester) : (lowFor s b who first).1.regs.words = s.regs.words := by
  unfold lowFor
  split
  · split <;> rfl
  · rfl

end

/-- TD_ROLE takes its value. -/
theorem setRole_frame {s : State} (hs : tsorted s.regs.words = true) (w : Word) : rget (setRole s w) (blkTD.reg 0x018) = w ∧
    (setRole s w).regs.wrIgnored = s.regs.wrIgnored := by
  unfold setRole
  split
  · exact ⟨Eq.symm ‹_›, rfl⟩
  · exact ⟨tget_tset_self _ _ _ hs, rfl⟩

/-- A block ignores a write: WR_IGNORED and BLK_ERRCNT. -/
theorem ignoreWrite_frame {s : State} (hs : Inv s) (b : Blk) : let t := ignoreWrite s b
    (∀ x, x ≠ b.reg 0x00C → rget t x = rget s x) ∧ b.base ∈ t.regs.wrIgnored ∧
    rget t (b.reg 0x00C) = BitVec.ofNat 32 (min ((rget s (b.reg 0x00C)).toNat + 1) (2 ^ 32 - 1)) ∧
    t = { s with regs := t.regs } ∧ t.regs.held = s.regs.held ∧ t.regs.safe = s.regs.safe ∧ t.regs.badPar = s.regs.badPar := by
  refine ⟨fun x hx => rget_cntAdd_ne s 1 hx, ?_, hs.rget_cntAdd _ 1, rfl, rfl, rfl, rfl⟩
  unfold ignoreWrite
  dsimp only
  split
  · rename_i h
    exact List.contains_iff_mem.1 h
  · exact List.mem_cons_self

/-! ## Words that land -/

/-- One word lands without its reserved bits. -/
theorem applyRw_one {s : State} (hs : Inv s) {b : Blk} (htd : b.kind = .td → b = blkTD) (r : RegRow) (o : Nat) (v : Word) :
    ∃ u, applyRw s b r o [v] = rwEffect s u b o ∧ rget u (b.reg o) = v &&& regMask b r o 0 ∧ u.regs.wrIgnored = s.regs.wrIgnored := by
  have hsorted := ((inv_iff s).1 hs).regs
  by_cases h : b.kind = .td ∧ o = 0x018
  · obtain ⟨hk, ho⟩ := h
    obtain ⟨hget, hign⟩ := setRole_frame hsorted (v &&& regMask b r o 0)
    refine ⟨goodParity (setRole s (v &&& regMask b r o 0)) b r o, congrArg (fun t => rwEffect s (goodParity t b r o) b o)
      (if_pos ⟨hk, ho⟩), ?_, ?_⟩
    · rw [rget_goodParity, ho, htd hk, ← ho, ← htd hk]
      rw [← htd hk, ← ho] at hget
      exact hget
    · rw [(goodParity_frame ..).2, hign]
  · refine ⟨goodParity (rset s (b.reg o) (v &&& regMask b r o 0)) b r o, congrArg (fun t => rwEffect s (goodParity t b r o) b o)
      (if_neg h), ?_, ?_⟩
    · rw [rget_goodParity, rget_rset_self _ _ hsorted]
    · rw [(goodParity_frame ..).2]
      rfl

/-- Two words land without their reserved bits. -/
theorem applyRw_two {s : State} (hs : tsorted s.regs.words = true) {b : Blk} {first : Nat} (htd : ¬ (b.kind = .td ∧ first = 0x018))
    (r : RegRow) (lo hi : Word) : ∃ u, applyRw s b r first [lo, hi] = rwEffect s u b first ∧
      rget u (b.reg (first + 4)) = hi &&& regMask b r first 1 ∧ rget u (b.reg first) = lo &&& regMask b r first 0 := by
  have hne : b.reg first ≠ b.reg (first + 4) := by simp only [Blk.reg]; omega
  have hlo : tsorted (rset s (b.reg first) (lo &&& regMask b r first 0)).regs.words = true := tsorted_tset _ _ _ hs
  refine ⟨goodParity (rset (rset s (b.reg first) (lo &&& regMask b r first 0)) (b.reg (first + 4)) (hi &&& regMask b r first 1)) b r first,
    congrArg (fun t => rwEffect s (goodParity t b r first) b first) (if_neg htd), ?_, ?_⟩
  · rw [rget_goodParity, rget_rset_self _ _ hlo]
  · rw [rget_goodParity, rget_rset_ne _ _ hne, rget_rset_self _ _ hs]

/-! ## Writes that land -/

section
variable {s : State} {b : Blk} {who : Requester} {r : RegRow} {first o : Nat} {v : Word} (hacc : r.acc = .rw)
include hacc

/-- An RW register of an enabled block is not written, unless it is unguarded. -/
theorem landWrite_of_guarded (he : enabled s b = true) (hu : r.unguarded = false) :
    landWrite s b who r first o v .alone = ignoreWrite s b := by
  simp [landWrite, hacc, he, hu]

variable (he : enabled s b = false ∨ r.unguarded = true)
include he

theorem landWrite_one (hw : r.words = 1) : landWrite s b who r first o v .alone = applyRw s b r o [v] := by
  rcases he with he | he <;> simp [landWrite, hacc, he, hw]

theorem landWrite_low (hw : r.words = 2) (ho : o = first) : landWrite s b who r first o v .alone = holdLow s b who first v := by
  rcases he with he | he <;> simp [landWrite, hacc, he, hw, ho]

theorem landWrite_high (hw : r.words = 2) (ho : o ≠ first) : landWrite s b who r first o v .alone =
    applyRw (lowFor s b who first).1 b r first [(lowFor s b who first).2, v] := by
  rcases he with he | he <;> simp [landWrite, hacc, he, hw, ho]

end

/-! ## Writes that are posted -/

theorem postBound_pos (s : State) (b : Blk) : 0 < postBound s b := by
  have hcore : 0 < postBound.coreBound s b := by
    unfold postBound.coreBound
    generalize clockLevel s + (if s.pw.droop.contains (b.slot - 8) then 1 else 0) = n
    rcases n with _ | _ | _ | _ | n <;> exact Nat.succ_pos _
  unfold postBound
  generalize postBound.coreBound s b = n at *
  repeat' split
  all_goals omega

section
variable {s : State} {who : Requester} {reg : BitVec 32} {b : Blk} {w : Nat} {r : RegRow} {first o : Nat}
  (hp : regPlace s reg.toNat = .block b w) (hd : decoded b w = some (r, first, o))
include hp hd

/-- A write that reaches a block that is not BUSY is posted there. -/
theorem registerWrite_posts (hw : writable who reg = true) (hr : reaches s who b o = true) (hb : isBusy s b = false) (v : Word) : ∃ p,
    p.base = b.base ∧ p.who = who ∧ p.off = reg.toNat ∧ p.value = v ∧ p.timing = .alone ∧ p.due ≤ s.now + postBound s b ∧
    exec (.registerWrite who reg v .alone) s = .next { (acceptWrite s b).takeFree with
      regs := { (acceptWrite s b).takeFree.regs with posted := s.regs.posted ++ [p] } } := by
  have hblk : regBlock s reg.toNat = some (b, o) := by simp only [regBlock, hp, hd, Option.map_some]
  have hlt := Nat.mod_lt s.free (postBound_pos s b)
  refine ⟨⟨b.base, who, reg.toNat, v, .alone, s.now + 1 + s.free % postBound s b⟩, rfl, rfl, rfl, rfl, rfl, ?_, ?_⟩
  · dsimp only
    omega
  · simp only [exec, execRegisterWrite, hw, regWrite, hblk, hr, postWrite, hb, if_true, Bool.false_eq_true, if_false]
    rfl

/-- A posted write that is applied lands where it was decoded. -/
theorem applyPosted_lands {u : State} {p : Posted} (hoff : p.off = reg.toNat) (hwho : p.who = who) (hin : u.regs.posted.contains p = true)
    (hu : regPlace u reg.toNat = regPlace s reg.toNat) : applyPosted u p =
      landWrite { u with regs := { u.regs with posted := u.regs.posted.erase p } } b who r first o p.value p.timing := by
  have hplace : regPlace { u with regs := { u.regs with posted := u.regs.posted.erase p } } p.off = .block b w := by
    rw [hoff]
    exact hu.trans hp
  unfold applyPosted
  rw [if_pos hin]
  unfold landPosted
  simp only [hplace, hd, hwho]

end

end Sys2Proof.Machine

namespace Sys2Proof.Claims

open Sys2Proof Sys2Proof.Machine

/-- Settles O55: what is posted, what an enabled block ignores, and what one and two words leave in the register. -/
theorem enabledBlocksKeepTheirConfiguration : Obligations.EnabledBlocksKeepTheirConfiguration := by
  intro who reg v s b w o first r hs hw hp hd hacc
  have htd : b.kind = .td → b = blkTD := (oneTide_placeOf _ _).eq b w hp
  refine ⟨fun hr hb => ?_, fun he hu => ?_, fun he => ⟨fun h1 => ?_, fun h2 ho => landWrite_low hacc he h2 ho, fun h2 ho => ?_⟩⟩
  · obtain ⟨p, hbase, hwho, hoff, hval, htime, hdue, hrun⟩ := registerWrite_posts hp hd hw hr hb v
    refine ⟨_, p, hrun, rfl, hbase, hdue, fun x => rfl, fun u hin hu => ?_⟩
    rw [applyPosted_lands hp hd hoff hwho hin hu, hval, htime]
  · intro t
    rw [show t = ignoreWrite s b from landWrite_of_guarded hacc he hu]
    exact ignoreWrite_frame hs b
  · rw [landWrite_one hacc he h1]
    exact applyRw_one hs htd r o v
  · rw [landWrite_high hacc he h2 ho]
    have hrow : ¬ (b.kind = .td ∧ first = 0x018) := by
      rintro ⟨hk, hf⟩
      simp only [decoded, hk] at hd
      obtain ⟨x, hx, he⟩ := Option.map_eq_some_iff.1 hd
      cases he
      have := words_of_tideRole hx hf
      omega
    obtain ⟨u, hland, hhi, hlo⟩ := applyRw_two (s := (lowFor s b who first).1) (by rw [lowFor_frame]; exact ((inv_iff s).1 hs).regs) hrow r
      (lowFor s b who first).2 v
    exact ⟨u, hland, hhi, hlo⟩

end Sys2Proof.Claims
end

section
/-! SPDM answers (R447–R449). -/

namespace Sys2Proof.Machine

section
variable {s : State} {t : Transport} {i : SpdmReq} (hr : spdmReady s t i = true)
include hr

/-- A request in the state of the connection that allows it. -/
theorem spdmServe_of_ok {ok : SpdmSt → Bool} (h : ok (conn s t) = true) (f : State → State) : spdmServe s t i ok f = .next (f s) := by
  simp [spdmServe, hr, h]

/-- A request before. -/
theorem spdmServe_of_early {ok : SpdmSt → Bool} (h : ok (conn s t) = false) (f : State → State) :
    spdmServe s t i ok f = .next (spdmAnswer s t (.error 4)) := by
  simp [spdmServe, hr, h, errUnexpected]

end

/-- A device that has its identity keys. -/
theorem withKeys_of_keys {s : State} (h : s.sec.lifecycle ≠ 3) (t : Transport) (f : State → State) : withKeys t f s = f s := if_neg h

theorem withKeys_of_none {s : State} (h : s.sec.lifecycle = 3) (t : Transport) (f : State → State) :
    withKeys t f s = spdmAnswer s t (.error 5) := if_pos h

end Sys2Proof.Machine

namespace Sys2Proof.Claims

open Sys2Proof Sys2Proof.Machine

/-- Settles O54, request by request. -/
theorem spdmAnswers : Obligations.SpdmAnswers := by
  intro t s x
  refine ⟨fun hr => ?_, fun rest hr => ⟨fun h => ?_, fun h hlen => ?_⟩, fun rest hr => ⟨fun h => ?_, fun h hlen htotal hsign hhash => ?_⟩,
    fun hr => ⟨fun h => ?_, fun h hl => ?_, fun h hl => ?_⟩, ?_, ?_, ?_, ?_, ?_, ?_, ?_⟩
  · show execGetVersion t s = _
    exact spdmServe_of_ok hr rfl _
  · show execGetCapabilities t rest s = _
    exact spdmServe_of_early hr h _
  · show execGetCapabilities t rest s = _
    exact (spdmServe_of_ok hr h _).trans (congrArg _ (if_neg (not_not.2 hlen)))
  · show execNegotiateAlgorithms t rest s = _
    exact spdmServe_of_early hr h _
  · show execNegotiateAlgorithms t rest s = _
    exact (spdmServe_of_ok hr h _).trans (congrArg _ (if_neg (by simp [htotal, hsign, hhash, hlen])))
  · show execGetDigests t s = _
    exact spdmServe_of_early hr h _
  · show execGetDigests t s = _
    exact (spdmServe_of_ok hr h _).trans (congrArg _ (withKeys_of_none hl t _))
  · show execGetDigests t s = _
    exact (spdmServe_of_ok hr h _).trans (congrArg _ (withKeys_of_keys hl t _))
  · intro offset length hr h hl hoff p
    show execGetCertificate t 0 offset length s = _
    exact (spdmServe_of_ok hr h _).trans (congrArg _ ((withKeys_of_keys hl t _).trans (if_neg (by simp [hoff]))))
  · intro summary nonce context hr h hl hsum
    have hvalid : ¬ ((0 : Fin 8) ≠ 0 ∨ summary ≠ 0 ∧ summary ≠ 1 ∧ summary ≠ 0xFF) := by
      rintro (h | ⟨h0, h1, hall⟩)
      · exact h rfl
      · exact hsum.elim h0 fun h => h.elim h1 hall
    have hrun : execChallenge t 0 summary nonce context s = .next _ :=
      (spdmServe_of_ok hr h _).trans (congrArg _ ((withKeys_of_keys hl t _).trans (if_neg hvalid)))
    cases t <;> exact ⟨_, _, hrun, rfl, rfl, rfl⟩
  · intro index signed nonce context hr h hidx hkeys
    have hvalid : ¬ (6 < index.toNat ∧ index.toNat ≠ 0xFF) := by omega
    show ∃ u v, execGetMeasurements t index signed nonce context s = _ ∧ _
    simp only [execGetMeasurements, spdmServe_of_ok (ok := negotiated) hr h, if_neg hvalid]
    cases signed with
    | false => cases t <;> exact ⟨_, _, rfl, rfl, rfl, rfl, rfl⟩
    | true =>
      have hl : s.sec.lifecycle ≠ 3 := hkeys.resolve_left (by decide)
      simp only [Bool.not_true, Bool.false_eq_true, if_false, if_true, withKeys_of_keys (s := s.takeFree.takeFree) hl]
      cases t <;> exact ⟨_, _, rfl, rfl, rfl, rfl, rfl⟩
  · intro vendor ok hr h hl hv
    have hrun : execGetLmsSig t 4 vendor ok s = .next _ :=
      (spdmServe_of_ok hr h _).trans (congrArg _ (withKeys_of_keys hl t _))
    have hours : ourVendor s 4 vendor = true := by simp [ourVendor, hv]
    simp only [hours, if_true] at hrun
    refine ⟨fun hs => ?_, fun input u hs => ⟨fun i ht => ?_, fun ht => ?_, fun ht => ?_⟩⟩
    all_goals refine Eq.trans hrun ?_
    · simp only [show (conn s t).signed = none from hs]; rfl
    · simp only [show (conn s t).signed = some input from hs, ht]
    · simp only [show (conn s t).signed = some input from hs, ht]; rfl
    · simp only [show (conn s t).signed = some input from hs, ht]; rfl
  · intro vendor hr h
    have hrun : execGetLmsChain t 4 vendor s = .next _ := spdmServe_of_ok hr h _
    refine ⟨fun hv => hrun.trans (congrArg _ (if_pos ?_)), fun hv => hrun.trans (congrArg _ (if_neg ?_))⟩
    · simp [ourVendor, hv]
    · simp [ourVendor, hv]
  · simp only [lmsChainOf, List.length_append, natToBytes_length]
  · intro h n left handle chunk hr hc hx hh hn size
    have hrun : execChunkGet t handle chunk s = .next _ := spdmServe_of_ok hr hc _
    simp only [show (conn s t).chunk = some (h, n, left) from hx] at hrun
    refine Eq.trans hrun (congrArg _ ((if_neg (by omega)).trans ?_))
    simp only [decide_eq_true_eq]
    rfl

end Sys2Proof.Claims
end

section
/-! Writes of registers of the other types, enables and parity faults (R459–R468). -/

namespace Sys2Proof.Machine

/-! ## BLK_CTRL beside the registers of the error log -/

section
variable (s : State) {x : Nat} (hx : x % 0x4000 = 4)
include hx

/-- Offset 0x004 of a window is none of the registers that a record writes. -/
theorem rget_logRecord_of_ctrl (kind slot unit detail addr tag : Nat) : rget (logRecord s kind slot unit detail addr tag) x = rget s x := by
  have hel : ∀ o < 0x4000, o ≠ 4 → x ≠ blkEL.reg o := fun o ho hne => by simp only [Blk.reg, blkEL]; omega
  have hpl : x ≠ blkPL.reg 0x074 := by simp only [Blk.reg, blkPL]; omega
  unfold logRecord logRecordEv
  split
  · rfl
  split
  · rfl
  split
  · rw [rget_logCapture_ne _ _ (hel _ (by decide) (by decide)) (by simp), rget_cntAdd_ne _ _ (hel _ (by decide) (by decide))]
  · simp only [apply_ite (rget · x), rget_sendEvent_ne _ _ _ hpl, ite_self]
    exact rget_cntAdd_ne _ _ (hel _ (by decide) (by decide))

end

theorem sendEvent_enCode (s : State) (cls : Nat) (data : BitVec 256) : (sendEvent s cls data).regs.enCode = s.regs.enCode := by
  unfold sendEvent
  split <;> rfl

theorem logCapture_enCode (s : State) (off : Nat) (v : Word) : (logCapture s off v).regs.enCode = s.regs.enCode := by
  rw [wordsOnly_logCapture s off v]

theorem cntAdd_enCode (s : State) (off n : Nat) : (cntAdd s off n).regs.enCode = s.regs.enCode := rfl

theorem logRecord_enCode (s : State) (kind slot unit detail addr tag : Nat) :
    (logRecord s kind slot unit detail addr tag).regs.enCode = s.regs.enCode := by
  unfold logRecord logRecordEv
  simp only [apply_ite State.regs, apply_ite RegSt.enCode, logCapture_enCode, sendEvent_enCode, cntAdd_enCode, ite_self]

/-! ## Enabling and disabling -/

section
variable {s : State} (hs : tsorted s.regs.words = true) (b : Blk)
include hs

theorem rget_setEn (on : Bool) : rget (setEn s b on) (b.reg 0x004) = if on then 1 else 0 := rget_rset_self _ _ hs

/-- A block whose enable is cleared reads 0. -/
theorem enabled_setEn_false : enabled (setEn s b false) b = false := by
  unfold enabled
  rw [rget_setEn hs]
  rfl

theorem enabled_disableBlock : enabled (disableBlock s b) b = false := by
  have hset (t : State) (ht : tsorted t.regs.words = true) : enabled (setEn t b false) b = false := enabled_setEn_false ht b
  unfold disableBlock
  dsimp only
  split
  · exact hset (rset s _ _).takeFree (tsorted_tset _ _ _ hs)
  · exact hset s hs

end

/-- A refused enable writes EN, EN_CODE, BLK_ERRCNT and the guest's log of checks, and a record. -/
theorem enableBlock_of_code {s : State} {b : Blk} (h : enableCode s b ≠ 0) : enableBlock s b =
    let t := errCount (setEnCode (setEn s b false) b (enableCode s b)) b
    logRecord (if b.kind = .gf then
        logCapture t (blkGF.reg 0x02C) (fields 32 [(4, enableCode s b), (4, 0), (4, (gfCheck t).2)]) else t)
      0x0A02 b.slot 0 (enableCode s b + 256 * b.kind.code) (addrOf (b.reg 0x004)) 0 := by
  unfold enableBlock
  split
  · exact absurd ‹_› h
  · rfl

section
variable {s : State} {b : Blk} (hcode : enableCode s b ≠ 0)
include hcode

theorem enabled_enableBlock_of_code (hs : tsorted s.regs.words = true) (hb : b.base % 0x4000 = 0) : enabled (enableBlock s b) b = false := by
  have hctrl : b.reg 0x004 % 0x4000 = 4 := by simp only [Blk.reg]; omega
  have hgf : b.reg 0x004 ≠ blkGF.reg 0x02C := by simp only [Blk.reg, blkGF]; omega
  have herr : b.reg 0x004 ≠ b.reg 0x00C := by simp only [Blk.reg]; omega
  have hoff := rget_setEn hs b false
  unfold enabled
  rw [enableBlock_of_code hcode]
  dsimp only
  rw [rget_logRecord_of_ctrl _ hctrl]
  simp only [apply_ite (rget · (b.reg 0x004)), rget_logCapture_ne _ _ hgf (l := []) (by simp), ite_self]
  rw [errCount, rget_cntAdd_ne _ _ herr]
  exact congrArg (BitVec.getLsbD · 0) hoff

theorem enCode_enableBlock_of_code : tget (enableBlock s b).regs.enCode b.base 0 = enableCode s b := by
  rw [enableBlock_of_code hcode]
  dsimp only
  rw [logRecord_enCode]
  simp only [apply_ite State.regs, apply_ite RegSt.enCode, logCapture_enCode, ite_self]
  exact tget_tset_of_ne _ _ hcode

end

/-- BLOCK_ENABLE and BLOCK_DISABLE write BLK_CTRL of a block that can be reached and is not BUSY. -/
theorem ctrlWrite_of_reaches {s : State} {who : Requester} {reg : BitVec 32} {b : Blk} {w : Nat} (hw : writable who reg = true)
    (hp : regPlace s reg.toNat = .block b w) (hm : w &&& b.kind.mask = 4) (hr : reaches s who b 4 = true) (hb : isBusy s b = false)
    (en : Bool) : ctrlWrite who reg en s = .next (writeCtrl (acceptWrite s b) b (if en then 1 else 0)) := by
  have hmask : (w &&& b.kind.mask == 0x004) = true := by rw [hm]; rfl
  unfold ctrlWrite
  simp only [hp, hw, hmask, hr, Bool.and_true, if_true]
  exact if_neg (by simp [hb])

/-! ## A LOG register that is cleared -/

/-- A state whose register reads 0. -/
structure Reads0 (x : Nat) (s : State) : Prop where
  sorted : tsorted s.regs.words = true
  zero : rget s x = 0

theorem Reads0.rset_zero {x : Nat} {s : State} (h : Reads0 x s) (y : Nat) : Reads0 x (rset s y 0) := by
  refine ⟨tsorted_tset _ _ _ h.sorted, ?_⟩
  rcases eq_or_ne x y with rfl | hne
  · exact rget_rset_self _ _ h.sorted
  · rw [rget_rset_ne _ _ hne, h.zero]

theorem Reads0.foldl {ι : Type*} {x : Nat} {f : State → ι → State} (hf : ∀ t i, Reads0 x t → Reads0 x (f t i)) (l : List ι) {s : State}
    (h : Reads0 x s) : Reads0 x (l.foldl f s) := by
  induction l generalizing s with
  | nil => exact h
  | cons i l ih => exact ih (hf _ i h)

/-- Clearing a LOG register and its companions leaves 0 in its one word. -/
theorem rget_clearLog_one {s : State} (hs : tsorted s.regs.words = true) (b : Blk) (first : Nat) :
    rget (clearLog s b first 1) (b.reg first) = 0 := by
  have hself : Reads0 (b.reg first) (rset s (b.reg first) 0) := ⟨tsorted_tset _ _ _ hs, rget_rset_self _ _ hs⟩
  exact (Reads0.foldl (fun t r ht => .foldl (fun t i ht => .foldl (fun t i ht => ht.rset_zero _) _ ht) _ ht) _ hself).zero

/-! ## Posted writes -/

theorem erase_singleton_self (p : Posted) : [p].erase p = [] := by simp

/-- The one posted write is applied once it is due. -/
theorem applyDue_singleton {s : State} {p : Posted} (t : Nat) (hp : s.regs.posted = [p]) (hgap : inGap s = false) : applyDue s t =
    if p.due ≤ t then landPosted { s with regs := { s.regs with posted := [] } } p else s := by
  have hin : s.regs.posted.contains p = true := by simp [hp]
  have happly : applyPosted s p = landPosted { s with regs := { s.regs with posted := [] } } p := by
    rw [applyPosted, if_pos hin, hp, erase_singleton_self]
  unfold applyDue
  rw [if_neg (by simp [hgap]), hp, List.filter_singleton]
  by_cases hd : p.due ≤ t
  · rw [if_pos hd, ← happly]
    simp [hd]
  · rw [if_neg hd]
    simp [hd]

/-! ## Bollards in register space -/

/-- The place of a bollard's word. -/
theorem regPlace_bollard (s : State) {i : Nat} (hi : i < 16384) : regPlace s (0x100000 + 4 * i) = .array .bollards blkBL (4 * i) := by
  have hslot : (0x100000 + 4 * i) / 0x4000000 = 0 := by omega
  have hoff : (0x100000 + 4 * i) % 0x4000000 = 0x100000 + 4 * i := by omega
  have htype : dieType 0 = some 0 := by decide
  have hhub : regPlace s (0x100000 + 4 * i) = placeHub (!guestUcie s) (0x100000 + 4 * i) := by
    unfold regPlace placeOf
    simp only [hslot, hoff, htype]
  rw [hhub]
  unfold placeHub
  generalize hn : (0x100000 + 4 * i) / 0x4000 = n
  have hwin : 18 ≤ n := by omega
  split
  case h_19 => rw [if_pos (by omega), Nat.add_sub_cancel_left]
  all_goals omega

end Sys2Proof.Machine

namespace Sys2Proof.Claims

open Sys2Proof Sys2Proof.Machine

/-- Settles O56: what is posted, what each register's type does with a write, what is applied when, and the rest clause by clause. -/
theorem registerCommands : Obligations.RegisterCommands := by
  refine ⟨fun who reg v timing s b w o first r hw hp hd hr => ?_, fun who v x s b o first r => ?_,
    fun s t hg => if_pos hg, fun s p t hp hg => applyDue_singleton t hp hg, fun who reg s b w hw hp hm hr hb => ?_,
    fun s b hs hb => ⟨enabled_disableBlock ((inv_iff s).1 hs).regs b,
      fun hc => ⟨enabled_enableBlock_of_code hc ((inv_iff s).1 hs).regs hb, enCode_enableBlock_of_code hc⟩⟩,
    fun reg s b first hreg hv => ?_, fun who s u i v hi hu hup hsite hb => ?_⟩
  · have hblk : regBlock s reg.toNat = some (b, o) := by simp only [regBlock, hp, hd, Option.map_some]
    have hrun : exec (.registerWrite who reg v timing) s = .next (postWrite s b who reg.toNat v timing) := by
      simp only [exec, execRegisterWrite, hw, regWrite, hblk, hr, if_true]
    exact ⟨fun hb => hrun.trans (congrArg _ (if_pos hb)), fun _ => hrun⟩
  · refine ⟨?_, fun hacc hwords => ?_, fun hacc => ?_, fun hacc hlead hwords hv hs => ?_⟩
    · rintro (hacc | hacc) <;> exact ⟨by simp only [landWrite, hacc], by simp only [landWrite, hacc]⟩
    · constructor <;> simp [landWrite, hacc, hwords, hitOf]
    · simp only [landWrite, hacc, hitOf]
    · have hclear : landWrite s b who r first o v .alone = clearLog s b first 1 := by
        simp [landWrite, hacc, hlead, hwords, writeLog, hitOf, hv]
      rw [hclear, rget_clearLog_one ((inv_iff s).1 hs).regs]
  · have hen := ctrlWrite_of_reaches hw hp hm hr hb
    have hsame : enabled (acceptWrite s b) b = enabled s b := rfl
    refine ⟨fun he => (hen true).trans (congrArg _ ?_), fun he hd => (hen false).trans (congrArg _ ?_),
      fun he hd => (hen false).trans (congrArg _ ?_)⟩
    · simp [writeCtrl, hsame, he]
    · simp [writeCtrl, hsame, he, show mayDisable (acceptWrite s b) b = true from hd]
    · simp [writeCtrl, hsame, he, show mayDisable (acceptWrite s b) b = false from hd]
  · show execConfigParityFault reg s = _
    simp only [execConfigParityFault, hreg, hv, if_true]
  · have hplace (t : State) := regPlace_bollard t hi
    have hblk : regBlock s (0x100000 + 4 * i) = some (blkBL, 0) := by simp only [regBlock, hplace]
    have hr : reaches s who blkBL 0 = true := by simp [reaches, hup, slotAnswers, blkBL, hsite]
    have hpost : (regWrite s who (0x100000 + 4 * i) v .alone).regs.posted = s.regs.posted ++
        [⟨blkBL.base, who, 0x100000 + 4 * i, v, .alone, s.now + 1 + s.free % postBound s blkBL⟩] := by
      simp only [regWrite, hblk, hr, postWrite, hb, if_true, Bool.false_eq_true, if_false]
      rfl
    refine ⟨_, hpost, ?_⟩
    simp only [landPosted, hplace, if_true, Nat.mul_div_cancel_left i (show 0 < 4 by decide)]
    exact hu.bollGet_bollSet_self i v

end Sys2Proof.Claims
end

section
/-! The boundary-scan chain and the management port's address (R497, R500–R502). -/

namespace Sys2Proof.Machine

/-- A field above the lowest one of an assembled value lies in the rest. -/
theorem field_fields_skip {w n lo m : Nat} (h : n + lo + m ≤ w) (v : Nat) (r : List (Nat × Nat)) :
    field (fields w ((n, v) :: r)) (n + lo) m = field (fields w r) lo m := by
  refine BitVec.eq_of_getLsbD_eq fun i hi => ?_
  have hlow : (v % 2 ^ n).testBit (n + lo + i) = false :=
    Nat.testBit_lt_two_pow ((Nat.mod_lt v (Nat.two_pow_pos n)).trans_le (Nat.pow_le_pow_right Nat.two_pos (by omega)))
  have hin : n + lo + i < w := by omega
  have hge : ¬ n + lo + i < n := by omega
  have hsub : n + lo + i - n = lo + i := by omega
  simp only [field, fields, BitVec.getLsbD_extractLsb', BitVec.getLsbD_or, BitVec.getLsbD_ofNat, BitVec.getLsbD_shiftLeft, hlow, hin,
    hge, hsub, decide_true, decide_false, Bool.true_and, Bool.not_false, Bool.and_false, Bool.false_or]

/-- The word of IDCODE has bit 0 set, and gives the type of the die (R500). -/
theorem idcodeWord_type {die : Nat} (k : Fin 5) (h : chainType die = k.val) : (idcodeWord die).getLsbD 0 = true ∧
    (field (idcodeWord die) 12 16 : BitVec 16).toNat = 0x4810 + k.val := by
  constructor
  · simp [idcodeWord, fields]
  · unfold idcodeWord
    rw [h, field_fields_skip (n := 1) (lo := 11) (by decide), field_fields_skip (n := 11) (lo := 0) (by decide),
      toNat_field_fields (by decide)]
    omega

/-- SAMPLE/PRELOAD shifts out what the pins show, and the boundary cells take their values (R501). -/
def preload (die : Nat) (cells : Dword) (t : State) : State :=
  let u := shiftOut t.takeFree die (BitVec.ofNat 68 t.free)
  { u with jtag := { u.jtag with cells := tset u.jtag.cells die cells 0 } }

/-- An instruction register holds the code that is loaded. -/
theorem ir_loadIr {s : State} (h : tsorted s.jtag.ir = true) (die code capture : Nat) :
    tget (loadIr s die code capture).jtag.ir die 1 = code := tget_tset_self _ _ _ h

section
variable {s : State} (die : Fin 35) (code : Nat) (f : State → State)

/-- A non-intrusive instruction is loaded while the rails are up. -/
theorem scanQuiet_of_rails (hr : s.pw.rails = true) : scanQuiet s die.val code f = .next (f (loadIr s die.val code 1)) := if_pos hr

variable (hr : s.pw.rails = true) (hu : hubUp s = true)
include hr hu

/-- An intrusive instruction acts as BYPASS where HM_STATE rules it out. -/
theorem intrusive_of_not_admits (ha : scanAdmits s = false) : intrusive s die.val code f = .next (loadIr s die.val irBypass 5) := by
  unfold intrusive
  rw [if_neg (by simp [hr, hu]), if_pos (by simp [ha])]

/-- Where HM_STATE allows it, it stops the module. -/
theorem intrusive_of_admits (ha : scanAdmits s = true) : intrusive s die.val code f =
    .next (f (loadIr { s with pw := { s.pw with mode := .scan }, jtag := { s.jtag with stopped := true } } die.val code 1)) := by
  unfold intrusive
  rw [if_neg (by simp [hr, hu]), if_neg (by simp [ha])]

/-- An intrusive instruction without an effect of its own. -/
theorem intrusive_id (hir : tsorted s.jtag.ir = true) : ∃ t, intrusive s die.val code id = .next t ∧ t.mem = s.mem ∧ t.hm = s.hm ∧
    (scanAdmits s = true → tget t.jtag.ir die.val 1 = code ∧ t.jtag.stopped = true ∧ t.pw.mode = .scan) ∧
    (scanAdmits s = false → tget t.jtag.ir die.val 1 = 0xFF ∧ t.jtag.stopped = s.jtag.stopped ∧ t.pw.mode = s.pw.mode) := by
  cases ha : scanAdmits s with
  | true =>
    exact ⟨_, intrusive_of_admits die code id hr hu ha, rfl, rfl, fun _ => ⟨ir_loadIr hir _ _ 1, rfl, rfl⟩,
      fun h => Bool.noConfusion h⟩
  | false =>
    exact ⟨_, intrusive_of_not_admits die code id hr hu ha, rfl, rfl, fun h => Bool.noConfusion h,
      fun _ => ⟨ir_loadIr hir _ _ 5, rfl, rfl⟩⟩

end

end Sys2Proof.Machine

namespace Sys2Proof.Claims

open Sys2Proof Sys2Proof.Machine

/-- Settles O57: each instruction of the chain, the reset of the TAPs, and the two ways to an address. -/
theorem scanAndManagement : Obligations.ScanAndManagement := by
  have hreset (s : State) : exec .testLogicReset s = .next (if s.jtag.stopped then hubResets { s with jtag := { s.jtag with ir := [] } } 5
      else { s with jtag := { s.jtag with ir := [] } }) := rfl
  refine ⟨fun die s hs hr => ?_, fun s h => ?_, fun s h => ?_, fun d s hf hi => ?_⟩
  · obtain ⟨hir, hcells, hresults⟩ := ((inv_iff s).1 hs).jtag
    refine ⟨fun k hk => ?_, fun cells => ?_, ?_, ?_, fun i code hmem hu => ?_, fun failing hu ha => ?_⟩
    · obtain ⟨hbit, htype⟩ := idcodeWord_type k hk
      have hrun : exec (.idcode die) s = .next (shiftOut (loadIr s die.val 0x01 1) die.val (idcodeWord die.val)) :=
        scanQuiet_of_rails die 0x01 (fun t => shiftOut t die.val (idcodeWord die.val)) hr
      exact ⟨_, _, hrun, rfl, ir_loadIr hir .., hbit, htype, rfl, rfl⟩
    · have hrun : exec (.samplePreload die cells) s = .next (preload die.val cells (loadIr s die.val 0x02 1)) :=
        scanQuiet_of_rails die 0x02 (preload die.val cells) hr
      exact ⟨_, _, hrun, rfl, tget_tset_self _ _ _ hcells, rfl, rfl⟩
    · have hrun : exec (.d2dResult die) s =
          .next (shiftOut (loadIr s die.val 0x11 1) die.val (tget (loadIr s die.val 0x11 1).jtag.results die.val 0)) :=
        scanQuiet_of_rails die 0x11 (fun t => shiftOut t die.val (tget t.jtag.results die.val 0)) hr
      exact ⟨_, hrun, rfl, rfl⟩
    · have hrun : exec (.bypass die) s = .next (loadIr s die.val irBypass 1) := scanQuiet_of_rails die irBypass id hr
      exact ⟨_, hrun, ir_loadIr hir .., rfl, rfl⟩
    · have hrun := intrusive_id die code hr hu hir
      simp only [List.mem_cons, Prod.mk.injEq, List.not_mem_nil, or_false] at hmem
      rcases hmem with ⟨rfl, rfl⟩ | ⟨rfl, rfl⟩ | ⟨rfl, rfl⟩ <;> exact hrun
    · have hrun : exec (.d2dTest die failing) s = .next _ := intrusive_of_admits die 0x10
        (fun t => { t with jtag := { t.jtag with results := tset t.jtag.results die.val failing 0 } }) hr hu ha
      exact ⟨_, hrun, tget_tset_self _ _ _ hresults, rfl, rfl⟩
  · rw [hreset s, if_neg (by simp [h])]
  · refine ⟨hubResets { s with jtag := { s.jtag with ir := [] } } 5, ?_⟩
    rw [hreset s, if_pos h, hubResets, moduleReset_eq]
    exact ⟨rfl, rfl, rfl, rfl, rfl, rfl, rfl⟩
  · have hset : exec (.setdasa 0x3A d) s = .next (if fed s && (0x3A : BitVec 7) == staticAddress && s.i3c.isNone then
      { s with i3c := some d } else s) := rfl
    have hent : exec (.entdaa d) s = .next (if fed s && s.i3c.isNone then { s with i3c := some d } else s) := rfl
    rw [hset, hent, if_pos (by simp [hf, hi, staticAddress]), if_pos (by simp [hf, hi])]
    exact ⟨rfl, rfl⟩

end Sys2Proof.Claims
end
